-- ==== Sys2Proof/Word.lean ====
section
/-! DEFINITION. The words of the part: a 64-bit register value, a byte, and sparse tables by number. -/

namespace Sys2Proof

/-- A 64-bit register value (R98, R99). -/
abbrev Word := BitVec 64

/-- One byte of a little-endian memory (R4). -/
abbrev Byte := BitVec 8

/-- A sparse table: entries by ascending number; a number that is not listed holds what the reader
of the table says it holds. -/
abbrev Tab (α : Type) := List (Nat × α)

end Sys2Proof
end

