-- ==== Sys2Proof/Config.lean ====
section
/-! DEFINITION. Values that the spec leaves open (log 3): constants with no body, applied to a number that
names the occasion. Nothing can evaluate them, and a statement about one holds for every value. -/

namespace Sys2Proof.Config

/-- Whether a recompute of a tile element reads, for an 8-byte unit that was written since the pass, the old
value (R256). -/
opaque readsOld (occasion unit : Nat) : Bool

/-- Which of the values that an 8-byte unit has held while a pass ran the pass reads (R260). -/
opaque pickOld (occasion unit : Nat) : Nat

/-- UNIT of a log entry about an engine, of which Table 22.4 gives no number. -/
opaque engineUnit (quad : Nat) : Nat

/-- STRUCT of the record that an exclusion appends to the run-time section, which R395 does not state (log 92). -/
opaque exclusionStruct (occasion : Nat) : Nat

/-- Whether an access takes the new value of a translation CSR that has been written and that no TLBINV has covered since (R53);
`reg` is 0 to 3 for HBASE, HLIMIT, HOFFS and PTROOT. -/
opaque takesNew (occasion va reg : Nat) : Bool

/-- A value that an instruction writes where the spec states none. -/
opaque value (occasion : Nat) : Word

/-- An outcome that the environment decides and the spec leaves open. -/
opaque outcome (occasion : Nat) : Nat

end Sys2Proof.Config
end

