-- ==== Sys2Proof/Syntax.lean ====
section
/-! DEFINITION. The abstract syntax: the fields of each format and one constructor for each row of the
table of operations and events. -/

namespace Sys2Proof

/-- The fields of formats W and X (R78, Table 5.7); `lit` is present in format X alone. -/
structure LongWord where
  s    : Bool
  sub6 : BitVec 6
  gp   : BitVec 7
  gn   : Bool
  d    : BitVec 8
  a    : BitVec 8
  b    : BitVec 8
  c    : BitVec 8
  m6   : BitVec 6
  lit  : Option (BitVec 32)
  deriving DecidableEq, Repr

/-- The fields of format K, three registers (Table 5.3). -/
structure KWord where
  s : Bool
  g : BitVec 3
  n : Bool
  d : BitVec 6
  a : BitVec 6
  b : BitVec 6
  deriving DecidableEq, Repr

/-- The fields of format J, accumulate-immediate (Table 5.4). -/
structure JWord where
  s   : Bool
  g   : BitVec 3
  n   : Bool
  d   : BitVec 6
  imm : BitVec 12
  deriving DecidableEq, Repr

/-- The fields of format B, branch (Table 5.5). -/
structure BWord where
  s   : Bool
  g   : BitVec 3
  n   : Bool
  off : BitVec 18
  deriving DecidableEq, Repr

/-- The fields of a dictionary code (Table 5.2); `rsvd` is bits [5:3]. -/
structure D16Word where
  s    : Bool
  rsvd : BitVec 3
  idx  : BitVec 10
  deriving DecidableEq, Repr

/-- The fields of a Caramel word below its opcode (Table 18.5). -/
structure CaramelFields where
  x   : BitVec 4
  y   : BitVec 4
  z   : BitVec 4
  imm : BitVec 15
  deriving DecidableEq, Repr

/-- An instruction word as it stands in memory, bit 0 being bit 0 of its first parcel (R70). -/
inductive RawWord where
  | w16 (bits : BitVec 16)
  | w32 (bits : BitVec 32)
  | w64 (bits : BitVec 64)
  | w96 (bits : BitVec 96)
  deriving DecidableEq, Repr


/-- One step of the part: an instruction that a group issues, a word that a combine unit executes, or
an event. Each constructor is one row of the table of operations and events. -/
inductive Instr where
-- BEGIN INSTR
  /-- D16_CODE, R74. -/
  | d16Code (w : D16Word)
  /-- ILLEGAL_D16, R88. -/
  | illegalD16
  /-- ILLEGAL_K, R88. -/
  | illegalK (bits : BitVec 32)
  /-- ILLEGAL_W, R88. -/
  | illegalW (w : LongWord)
  /-- ILLEGAL_X, R88. -/
  | illegalX (w : LongWord)
  /-- NOP, R122. -/
  | nop (w : LongWord)
  /-- BRA, R123. -/
  | bra (w : LongWord)
  /-- BRA_B, R123. -/
  | braB (w : BWord)
  /-- BRX, R123. -/
  | brx (w : LongWord)
  /-- CALL, R123. -/
  | call (w : LongWord)
  /-- CALL_B, R123. -/
  | callB (w : BWord)
  /-- CALLX, R123. -/
  | callx (w : LongWord)
  /-- RET, R123. -/
  | ret (w : LongWord)
  /-- LOOP, R125. -/
  | loop (w : LongWord)
  /-- LOOP_IMM, R125. -/
  | loopImm (w : LongWord)
  /-- LBRK, R127. -/
  | lbrk (w : LongWord)
  /-- REFORM, R128. -/
  | reform (w : LongWord)
  /-- EXIT, R129. -/
  | exit (w : LongWord)
  /-- YIELD, R131. -/
  | yield (w : LongWord)
  /-- TRAP, R132. -/
  | trap (w : LongWord)
  /-- LAUNCH, R133. -/
  | launch (w : LongWord)
  /-- CLOCK, R137. -/
  | clock (w : LongWord)
  /-- ELECT, R138. -/
  | elect (w : LongWord)
  /-- SETPRIO, R139. -/
  | setprio (w : LongWord)
  /-- PSETI, R141. -/
  | pseti (w : LongWord)
  /-- PSETF, R141. -/
  | psetf (w : LongWord)
  /-- PLOP, R142. -/
  | plop (w : LongWord)
  /-- PMOV_GET, R143. -/
  | pmovGet (w : LongWord)
  /-- PMOV_SET, R143. -/
  | pmovSet (w : LongWord)
  /-- PVOTE_SOME, R144. -/
  | pvoteSome (w : LongWord)
  /-- PVOTE_EVERY, R144. -/
  | pvoteEvery (w : LongWord)
  /-- PVOTE_SAME, R144. -/
  | pvoteSame (w : LongWord)
  /-- PVOTE_MASK, R144. -/
  | pvoteMask (w : LongWord)
  /-- PVOTE_COUNT, R144. -/
  | pvoteCount (w : LongWord)
  /-- IADD, R149. -/
  | iadd (w : LongWord)
  /-- IADD_I32_K, R149. -/
  | iaddI32K (w : KWord)
  /-- IADD_I64_K, R149. -/
  | iaddI64K (w : KWord)
  /-- IADD_I32_J, R149. -/
  | iaddI32J (w : JWord)
  /-- IADD_I64_J, R149. -/
  | iaddI64J (w : JWord)
  /-- ISUB, R149. -/
  | isub (w : LongWord)
  /-- ISUB_I32_K, R149. -/
  | isubI32K (w : KWord)
  /-- IMIN, R149. -/
  | imin (w : LongWord)
  /-- IMAX, R149. -/
  | imax (w : LongWord)
  /-- IMUL, R150. -/
  | imul (w : LongWord)
  /-- IMUL_I32_K, R150. -/
  | imulI32K (w : KWord)
  /-- IMULH, R150. -/
  | imulh (w : LongWord)
  /-- IMAD, R150. -/
  | imad (w : LongWord)
  /-- IDIV, R151. -/
  | idiv (w : LongWord)
  /-- IABS, R152. -/
  | iabs (w : LongWord)
  /-- POPC, R152. -/
  | popc (w : LongWord)
  /-- CLZ, R152. -/
  | clz (w : LongWord)
  /-- BREV, R152. -/
  | brev (w : LongWord)
  /-- SHL, R153. -/
  | shl (w : LongWord)
  /-- SHL_N32_K, R153. -/
  | shlN32K (w : KWord)
  /-- SHL_N32_J, R153. -/
  | shlN32J (w : JWord)
  /-- SHR, R153. -/
  | shr (w : LongWord)
  /-- SHR_N32_K, R153. -/
  | shrN32K (w : KWord)
  /-- SHR_N32_J, R153. -/
  | shrN32J (w : JWord)
  /-- SHRA, R153. -/
  | shra (w : LongWord)
  /-- ROT, R153. -/
  | rot (w : LongWord)
  /-- BITF, R154. -/
  | bitf (w : LongWord)
  /-- BITF_AND_K, R154. -/
  | bitfAndK (w : KWord)
  /-- BITF_OR_K, R154. -/
  | bitfOrK (w : KWord)
  /-- BITF_XOR_K, R154. -/
  | bitfXorK (w : KWord)
  /-- BITF_AND_J, R154. -/
  | bitfAndJ (w : JWord)
  /-- BFX, R155. -/
  | bfx (w : LongWord)
  /-- BFI, R155. -/
  | bfi (w : LongWord)
  /-- SEL, R156. -/
  | sel (w : LongWord)
  /-- MOV, R156. -/
  | mov (w : LongWord)
  /-- MOV_K, R156. -/
  | movK (w : KWord)
  /-- MOVI, R156. -/
  | movi (w : LongWord)
  /-- MOVI_I32_J, R156. -/
  | moviI32J (w : JWord)
  /-- MOVS, R156. -/
  | movs (w : LongWord)
  /-- LEA, R157. -/
  | lea (w : LongWord)
  /-- CVTI, R158. -/
  | cvti (w : LongWord)
  /-- FADD, R184. -/
  | fadd (w : LongWord)
  /-- FADD_F32_K, R184. -/
  | faddF32K (w : KWord)
  /-- FADD_BF16_K, R184. -/
  | faddBf16K (w : KWord)
  /-- FSUB, R184. -/
  | fsub (w : LongWord)
  /-- FMUL, R184. -/
  | fmul (w : LongWord)
  /-- FMUL_F32_K, R184. -/
  | fmulF32K (w : KWord)
  /-- FMUL_BF16_K, R184. -/
  | fmulBf16K (w : KWord)
  /-- FFMA, R184. -/
  | ffma (w : LongWord)
  /-- FFMA_F32_K, R184. -/
  | ffmaF32K (w : KWord)
  /-- FFMA_BF16_K, R184. -/
  | ffmaBf16K (w : KWord)
  /-- FMIN, R186. -/
  | fmin (w : LongWord)
  /-- FMIN_F32_K, R186. -/
  | fminF32K (w : KWord)
  /-- FMAX, R186. -/
  | fmax (w : LongWord)
  /-- FMAX_F32_K, R186. -/
  | fmaxF32K (w : KWord)
  /-- FCLASS, R187. -/
  | fclass (w : LongWord)
  /-- FRND, R188. -/
  | frnd (w : LongWord)
  /-- FCVT, R189. -/
  | fcvt (w : LongWord)
  /-- FCVTI, R189. -/
  | fcvti (w : LongWord)
  /-- ICVTF, R189. -/
  | icvtf (w : LongWord)
  /-- FDOT, R190. -/
  | fdot (w : LongWord)
  /-- FSCALE, R192. -/
  | fscale (w : LongWord)
  /-- FRCP, R194. -/
  | frcp (w : LongWord)
  /-- FRSQ, R194. -/
  | frsq (w : LongWord)
  /-- FSQRT, R194. -/
  | fsqrt (w : LongWord)
  /-- FEXP2, R194. -/
  | fexp2 (w : LongWord)
  /-- FLOG2, R194. -/
  | flog2 (w : LongWord)
  /-- FSIN, R194. -/
  | fsin (w : LongWord)
  /-- FCOS, R194. -/
  | fcos (w : LongWord)
  /-- FTANH, R194. -/
  | ftanh (w : LongWord)
  /-- BQNT, R196. -/
  | bqnt (w : LongWord)
  /-- BDEQ, R197. -/
  | bdeq (w : LongWord)
  /-- ZPSUB, R197. -/
  | zpsub (w : LongWord)
  /-- PACK, R198. -/
  | pack (w : LongWord)
  /-- UNPACK, R198. -/
  | unpack (w : LongWord)
  /-- AMAXB, R199. -/
  | amaxb (w : LongWord)
  /-- SHFL, R201. -/
  | shfl (w : LongWord)
  /-- BCAST, R201. -/
  | bcast (w : LongWord)
  /-- PERM, R201. -/
  | perm (w : LongWord)
  /-- MATCH, R202. -/
  | matchOp (w : LongWord)
  /-- REDL, R203. -/
  | redl (w : LongWord)
  /-- SCANL, R204. -/
  | scanl (w : LongWord)
  /-- LDG, R226. -/
  | ldg (w : LongWord)
  /-- LDG_N32_K, R226. -/
  | ldgN32K (w : KWord)
  /-- LDG_N64_K, R226. -/
  | ldgN64K (w : KWord)
  /-- STG, R226. -/
  | stg (w : LongWord)
  /-- STG_N32_K, R226. -/
  | stgN32K (w : KWord)
  /-- STG_N64_K, R226. -/
  | stgN64K (w : KWord)
  /-- LDC, R226. -/
  | ldc (w : LongWord)
  /-- LDS, R227. -/
  | lds (w : LongWord)
  /-- LDS_N32_K, R227. -/
  | ldsN32K (w : KWord)
  /-- LDS_N64_K, R227. -/
  | ldsN64K (w : KWord)
  /-- STS, R227. -/
  | sts (w : LongWord)
  /-- STS_N32_K, R227. -/
  | stsN32K (w : KWord)
  /-- STS_N64_K, R227. -/
  | stsN64K (w : KWord)
  /-- LDX, R227. -/
  | ldx (w : LongWord)
  /-- STX, R227. -/
  | stx (w : LongWord)
  /-- PREF, R228. -/
  | pref (w : LongWord)
  /-- LDB, R229. -/
  | ldb (w : LongWord)
  /-- STB, R229. -/
  | stb (w : LongWord)
  /-- CMNT_PIN, R231. -/
  | cmntPin (w : LongWord)
  /-- CMNT_UNPIN, R231. -/
  | cmntUnpin (w : LongWord)
  /-- CMNT_CLEAN, R231. -/
  | cmntClean (w : LongWord)
  /-- CMNT_EVICT, R231. -/
  | cmntEvict (w : LongWord)
  /-- CMNT_L1INV, R231. -/
  | cmntL1inv (w : LongWord)
  /-- CPY, R236. -/
  | cpy (w : LongWord)
  /-- CPYM, R236. -/
  | cpym (w : LongWord)
  /-- CPYG, R236. -/
  | cpyg (w : LongWord)
  /-- CPYG_SPAD, R236. -/
  | cpygSpad (w : LongWord)
  /-- PUBL, R240. -/
  | publ (w : LongWord)
  /-- CWAIT, R238. -/
  | cwait (w : LongWord)
  /-- CWAIT_STAT, R238. -/
  | cwaitStat (w : LongWord)
  /-- WPTR, R237. -/
  | wptr (w : LongWord)
  /-- CCAN, R239. -/
  | ccan (w : LongWord)
  /-- ATOM, R305. -/
  | atom (w : LongWord)
  /-- RED, R305. -/
  | red (w : LongWord)
  /-- ATOMS, R305. -/
  | atoms (w : LongWord)
  /-- ATOMX, R286. -/
  | atomx (w : LongWord)
  /-- TBEGIN, R306. -/
  | tbegin (w : LongWord)
  /-- TCOMMIT, R309. -/
  | tcommit (w : LongWord)
  /-- TABORT, R309. -/
  | tabort (w : LongWord)
  /-- TSTAT, R309. -/
  | tstat (w : LongWord)
  /-- FENCE, R310. -/
  | fence (w : LongWord)
  /-- BAR, R311. -/
  | bar (w : LongWord)
  /-- CBAR, R311. -/
  | cbar (w : LongWord)
  /-- CBAR_COPY, R312. -/
  | cbarCopy (w : LongWord)
  /-- ARRIVE, R313. -/
  | arrive (w : LongWord)
  /-- WAITV, R313. -/
  | waitv (w : LongWord)
  /-- TOKEN_WAIT, R317. -/
  | tokenWait (w : LongWord)
  /-- TOKEN_PASS, R317. -/
  | tokenPass (w : LongWord)
  /-- MRSV, R258. -/
  | mrsv (w : LongWord)
  /-- MRSV_ACC, R258. -/
  | mrsvAcc (w : LongWord)
  /-- MREL, R259. -/
  | mrel (w : LongWord)
  /-- MREL_ACC, R259. -/
  | mrelAcc (w : LongWord)
  /-- MMA, R260. -/
  | mma (w : LongWord)
  /-- MWAIT, R261. -/
  | mwait (w : LongWord)
  /-- MWAIT_ALL, R261. -/
  | mwaitAll (w : LongWord)
  /-- MDRAIN, R262. -/
  | mdrain (w : LongWord)
  /-- MZERO, R264. -/
  | mzero (w : LongWord)
  /-- MSAVE, R265. -/
  | msave (w : LongWord)
  /-- MLOAD, R265. -/
  | mload (w : LongWord)
  /-- MCHK, R266. -/
  | mchk (w : LongWord)
  /-- JAPP, R371. -/
  | japp (w : LongWord)
  /-- EMIT, R372. -/
  | emit (w : LongWord)
  /-- JSYNC, R373. -/
  | jsync (w : LongWord)
  /-- JSYNC_CTX, R373. -/
  | jsyncCtx (w : LongWord)
  /-- JTRUNC, R374. -/
  | jtrunc (w : LongWord)
  /-- JSEED, R375. -/
  | jseed (w : LongWord)
  /-- SOPEN, R287. -/
  | sopen (w : LongWord)
  /-- SCLOSE, R287. -/
  | sclose (w : LongWord)
  /-- CSRR, R354. -/
  | csrr (w : LongWord)
  /-- CSRW, R354. -/
  | csrw (w : LongWord)
  /-- CSRX_SWAP, R354. -/
  | csrxSwap (w : LongWord)
  /-- CSRX_SET, R354. -/
  | csrxSet (w : LongWord)
  /-- CSRX_CLR, R354. -/
  | csrxClr (w : LongWord)
  /-- TRAPRET, R355. -/
  | trapret (w : LongWord)
  /-- REGION, R356. -/
  | region (w : LongWord)
  /-- TLBINV_CTX, R357. -/
  | tlbinvCtx (w : LongWord)
  /-- TLBINV_RANGE, R357. -/
  | tlbinvRange (w : LongWord)
  /-- TLBINV_ALL, R357. -/
  | tlbinvAll (w : LongWord)
  /-- SELFTEST_LANE, R392. -/
  | selftestLane (w : LongWord)
  /-- SELFTEST_L1, R392. -/
  | selftestL1 (w : LongWord)
  /-- SELFTEST_ENGINE, R392. -/
  | selftestEngine (w : LongWord)
  /-- SELFTEST_RFULL, R392. -/
  | selftestRfull (w : LongWord)
  /-- SELFTEST_LINK, R392. -/
  | selftestLink (w : LongWord)
  /-- CARAMEL_HALT, R337. -/
  | caramelHalt (w : CaramelFields)
  /-- CARAMEL_MATCH, R333. -/
  | caramelMatch (w : CaramelFields)
  /-- CARAMEL_MATCHX, R333. -/
  | caramelMatchx (w : CaramelFields)
  /-- CARAMEL_RECV, R333. -/
  | caramelRecv (w : CaramelFields)
  /-- CARAMEL_WAITN, R333. -/
  | caramelWaitn (w : CaramelFields)
  /-- CARAMEL_COMB, R334. -/
  | caramelComb (w : CaramelFields)
  /-- CARAMEL_COMBO, R334. -/
  | caramelCombo (w : CaramelFields)
  /-- CARAMEL_CVT, R334. -/
  | caramelCvt (w : CaramelFields)
  /-- CARAMEL_FWD, R335. -/
  | caramelFwd (w : CaramelFields)
  /-- CARAMEL_MCAST, R335. -/
  | caramelMcast (w : CaramelFields)
  /-- CARAMEL_SEND, R335. -/
  | caramelSend (w : CaramelFields)
  /-- CARAMEL_GATH, R335. -/
  | caramelGath (w : CaramelFields)
  /-- CARAMEL_SCAT, R335. -/
  | caramelScat (w : CaramelFields)
  /-- CARAMEL_DROP, R335. -/
  | caramelDrop (w : CaramelFields)
  /-- CARAMEL_LDK, R336. -/
  | caramelLdk (w : CaramelFields)
  /-- CARAMEL_SETK, R336. -/
  | caramelSetk (w : CaramelFields)
  /-- CARAMEL_ADDK, R336. -/
  | caramelAddk (w : CaramelFields)
  /-- CARAMEL_BRK, R336. -/
  | caramelBrk (w : CaramelFields)
  /-- CARAMEL_BNZ, R336. -/
  | caramelBnz (w : CaramelFields)
  /-- CARAMEL_LOOPK, R336. -/
  | caramelLoopk (w : CaramelFields)
  /-- CARAMEL_POST, R337. -/
  | caramelPost (w : CaramelFields)
  /-- CARAMEL_DONE, R337. -/
  | caramelDone (w : CaramelFields)
  /-- UNASSIGNED_OPCODE, R87. -/
  | unassignedOpcode (w : RawWord)
  /-- CARAMEL_ILLEGAL_WORD, R332: a word that breaks R332, or no word where PROG is unreadable or PC is past the program (Table 18.4). -/
  | caramelIllegalWord (w : Option (BitVec 32))
  /-- EXIT_DRAIN_COMPLETE, R129: Once the group's OTT entries are released and its write-combining entries are drained, a waiting EXIT ends its threads or raises the latched cause. -/
  | exitDrainComplete
  /-- YIELD_TIMEOUT, R131: The 64-core-cycle wait of a YIELD expires and the group becomes ready. -/
  | yieldTimeout
  /-- PUBL_SWAP, R379: The swap of SEL at every L2 slice completes, and the PUBL is performed. -/
  | publSwap
  /-- COPY_SECTOR_DELIVERED, R233: A copy channel delivers a sector, advances its pointer, or stops at a failing page or error response. -/
  | copySectorDelivered
  /-- COPY_PREEMPT_PAUSE, R234: An active channel reaches the next 64 KiB boundary during a preemption and pauses, saving its state. -/
  | copyPreemptPause
  /-- SC_FENCE_MARKER, R299: An owner receives a FENCE.sc.sys marker and answers once the invalidations pending at that port are applied. -/
  | scFenceMarker
  /-- WAITV_POLL, R313: A waiting WAITV re-reads its object after an update or 4,096 core cycles and ends if it is reached. -/
  | waitvPoll
  /-- COMMIT_TOKEN_HANDOVER, R314: The commit token leaves its team for the next team in (CIX, TIX) order, and that team's DET store buffer drains. -/
  | commitTokenHandover
  /-- EDETWAIT_TIMEOUT, R40: A group blocked in a deterministic wait for 2^24 core cycles, with lower teams retired or blocked, raises EDETWAIT. -/
  | edetwaitTimeout
  /-- MRSV_COPY_COMPLETE, R258: The copy of an operand-buffer reservation completes and the result returns. -/
  | mrsvCopyComplete
  /-- MREL_PERFORM, R259: Once earlier entries naming its tiles or record complete and checks are made, the range or tiles are freed. -/
  | mrelPerform
  /-- ENGINE_GRANT, R245: The arbiter grants the highest-priority oldest eligible entry to the engine. -/
  | engineGrant
  /-- ENGINE_ENTRY_AGE, R245: An entry that has waited 2^16 core cycles comes to count as priority 8. -/
  | engineEntryAge
  /-- ENGINE_COMMAND_COMPLETE, R251: A granted command finishes: a pass accumulates with compensation, or a drain, save, load, clear or check completes, with checks and corrections. -/
  | engineCommandComplete
  /-- JSYNC_STALL_TIMEOUT, R373: CACK has not advanced for 2^24 core cycles of a JSYNC wait, which raises EJOURNAL with reason 3. -/
  | jsyncStallTimeout
  /-- JOURNAL_RECORD_AT_PARTNER, R367: A partner receives a journal record, stores it once by key, or answers BUSY, and acknowledges. -/
  | journalRecordAtPartner
  /-- JOURNAL_ACK, R367: A partner's acknowledgement arrives, advancing CACK and JACKPOS and possibly completing seeding. -/
  | journalAck
  /-- REPLAY_JOURNAL_FETCH, R377: At the host's request the firmware fetches a partner's journal store and maps it read-only. -/
  | replayJournalFetch
  /-- STREAM_CLOSE_DRAIN, R275: A CLOSING stream's OUT reaches 0, and low-water updates go to each owner it reached. -/
  | streamCloseDrain
  /-- STREAM_CLOSED, R275: Every closing update is acknowledged and the stream becomes CLOSED. -/
  | streamClosed
  /-- TLBINV_COMPLETE, R65: Every TLB, walk cache and channel has dropped the entries and every access through them is performed; the TLBINV ends. -/
  | tlbinvComplete
  /-- LONG_RESULT_RETURN, R109: A long instruction's lane results enter the return buffer and its OTT entry is released. -/
  | longResultReturn
  /-- PARK_COMMIT, R107: Once every return-buffer slot holds its result, the group commits the slots in program order and opens a new stretch. -/
  | parkCommit
  /-- PAGE_FAULT_RESOLVED, R347: The hub firmware makes the faulting pages resident and the restarted group is requeued, or EPAGE is delivered. -/
  | pageFaultResolved
  /-- OTT_ENTRY_GRANT, R110: A freed OTT entry goes to the longest-waiting group. -/
  | ottEntryGrant
  /-- TABLE_WALK_DONE, R56: A translation walk finishes and fills the TLBs or yields a fault kind for the waiting lanes. -/
  | tableWalkDone
  /-- LLD_WINDOW_END, R113: A lost-locality window ends and the quota Q is updated from its events. -/
  | lldWindowEnd
  /-- REFORM_BIN_AGE_EXPIRY, R116: A bin's oldest entry has aged 64 core cycles and up to W threads are drawn. -/
  | reformBinAgeExpiry
  /-- REFORM_BIN_DRAW, R116: A full bin, or a team that can no longer issue, draws threads into a free group context. -/
  | reformBinDraw
  /-- REFORM_DET_DRAIN, R117: In deterministic mode, when no group can issue, every unheld bin is drained in ascending key PC. -/
  | reformDetDrain
  /-- WC_DRAIN, R218: A write-combining entry is sent to its owner as one write. -/
  | wcDrain
  /-- WC_AGE_EXPIRY, R218: A write-combining entry reaches WCAGE and drains. -/
  | wcAgeExpiry
  /-- WC_DRAIN_ACK, R218: The owner's acknowledgement of a drained entry arrives, or an error response is latched. -/
  | wcDrainAck
  /-- REMOTE_READ_AT_OWNER, R270: The owner answers a repeatable remote read from a port read buffer or the home slice. -/
  | remoteReadAtOwner
  /-- REMOTE_WRITE_AT_OWNER, R270: The owner performs a drained write at most once per transport sequence and invalidates port buffers. -/
  | remoteWriteAtOwner
  /-- STREAM_REQUEST_AT_OWNER, R278: The owner's result cache handles a stream operation: STALE, drop, cached answer, BUSY, or one performance. -/
  | streamRequestAtOwner
  /-- LOW_WATER_UPDATE, R278: The owner advances a stream's LWM, retires older entries and acknowledges. -/
  | lowWaterUpdate
  /-- LWM_IDLE_SEND, R276: After 4 us without carrying a new LWM, the initiator sends a low-water update. -/
  | lwmIdleSend
  /-- REMOTE_ANSWER, R271: An answer with a YST status arrives and fills the slot, causes a resend, or ends the operation. -/
  | remoteAnswer
  /-- REMOTE_TIMEOUT, R272: TMOREMOTE expires without an answer; the request is resent, or after three resends ends with LOST. -/
  | remoteTimeout
  /-- BUSY_RESEND, R272: TMOREMOTE/16 after a BUSY answer the request is sent again. -/
  | busyResend
  /-- YPT_PACKET_EXPIRE, R277: A hub drops a YPT packet held for more than 8 us. -/
  | yptPacketExpire
  /-- OWNER_RESTART, R281: The owner's hub state is lost; INC increments and the result cache and stream records are emptied. -/
  | ownerRestart
  /-- LINK_DOWN, R44: A direct link is declared down and traffic detours through the lowest suitable intermediary. -/
  | linkDown
  /-- LINK_RECOVER, R45: A direct link recovers and new traffic returns to class D. -/
  | linkRecover
  /-- MEMBERSHIP_CHANGE, R325: The firmware applies a new membership table and adds 1 to EPOCH. -/
  | membershipChange
  /-- PACKAGE_REJOIN, R273: A package rejoins the pod; its PEERDEAD bit is cleared and INCSEEN entries are set. -/
  | packageRejoin
  /-- ARM, R322: A store of a record address to a slot's control page reads and checks the collective record and queues its program, or refuses. -/
  | arm
  /-- SEAL, R323: A store of the armed SEQ marks the local contribution complete. -/
  | seal
  /-- DISARM, R324: Ends a running program with code 0x08, or frees an ended slot. -/
  | disarm
  /-- WINDOW_DATA_STORE, R323: A data store through an alias window is performed at SRC + OFF or discarded with a latched cause. -/
  | windowDataStore
  /-- CARAMEL_PROGRAM_START, R331: A combine unit begins the next armed program in ARM order. -/
  | caramelProgramStart
  /-- CARAMEL_PACKET_ARRIVAL, R329: A collective packet arrives and fills an EXPECT buffer, is held, answered BUSY, or dropped. -/
  | caramelPacketArrival
  /-- CARAMEL_TRANSFER_ACK, R333: A receiving hub acknowledges a transfer, lowering the outstanding count. -/
  | caramelTransferAck
  /-- CARAMEL_ABORT_RECEIVED, R330: An ABORT from another member ends the program with code 0x06. -/
  | caramelAbortReceived
  /-- MAILBOX_SUBMIT, R26: A write of the OP word with SUBMIT reads and checks a launch record and returns ACCEPTED, REJECTED, FULL or BADREQ. -/
  | mailboxSubmit
  /-- MAILBOX_DONEBIT_CLEAR, R25: A write of 1 to DONEBIT clears it. -/
  | mailboxDonebitClear
  /-- SERVICE_SUBMISSION, R24: The steward firmware submits a service launch with CTXID 0xFFF. -/
  | serviceSubmission
  /-- UNMAP, R68: Management request that clears V and completes a TLBINV. -/
  | unmap
  /-- MIGRATE, R68: Management request that moves frames to a new physical address, or is refused. -/
  | migrate
  /-- RECLAIM, R68: Management request that returns frames to the free pool after write-back, or answers BUSY. -/
  | reclaim
  /-- EXPORT, R67: Management request that offers frames to peer mappings. -/
  | exportFrames
  /-- UNEXPORT, R67: Management request that withdraws frames from peer mappings. -/
  | unexportFrames
  /-- DEP_SAMPLE_ON_UPDATE, R30: An update of a DEP object by the hub or an engine re-samples it, and a fully latched launch becomes READY. -/
  | depSampleOnUpdate
  /-- DEP_SAMPLE_TIMER, R30: Every 4,096 hub cycles the unlatched DEP objects of a waiting launch are re-sampled. -/
  | depSampleTimer
  /-- CLUSTER_DISPATCH, R32: The head launch places its next cluster, or a preempted one, on the first fitting rectangle and starts its teams together. -/
  | clusterDispatch
  /-- PRIORITY_PREEMPTION, R36: A blocked head preempts the lower-priority clusters on the chosen rectangle. -/
  | priorityPreemption
  /-- PREEMPTION_HALTED, R350: Every victim core reports halted and its context image is saved, freeing the rectangle. -/
  | preemptionHalted
  /-- TEAM_END_CHANNELS_QUIET, R382: No channel of the ending team delivers further; its engine commands are left to complete. -/
  | teamEndChannelsQuiet
  /-- TEAM_END_ENGINE_DONE, R382: The ending team's engine commands are complete; tiles and reservations are released and the peer window closes. -/
  | teamEndEngineDone
  /-- PEER_WINDOW_CLOSE_ACK, R227: Every core of the cluster acknowledges the close; the token passes and the core becomes free. -/
  | peerWindowCloseAck
  /-- LAUNCH_RETIRE, R384: All teams have ended and all emits are performed; DONE is posted and the slot freed. -/
  | launchRetire
  /-- CONTEXT_CREATE, R380: The firmware creates a context, binds a mailbox and sets INCSEEN. -/
  | contextCreate
  /-- CONTEXT_DESTROY, R385: The firmware destroys a context and releases its launches, entries, pins, slots, journal and mailbox. -/
  | contextDestroy
  /-- BANKROLE_WRITE, R208: A write of BANKROLE is checked and, after its waits, exchanges L1 and operand-buffer groups. -/
  | bankroleWrite
  /-- TGTCTX_WRITE, R399: A service group selects the context whose per-context CSRs it reads and writes. -/
  | tgtctxWrite
  /-- TPC_WRITE, R345: A write of TPC in handler mode sets the resume point. -/
  | tpcWrite
  /-- ERRSTAT_CLEAR, R363: W1C write of ERRSTAT clears PINFULL or the latched error. -/
  | errstatClear
  /-- JPARTNER_WRITE, R375: A write of JPARTNER seeds a new partner with V = 1 or enters NOPART with V = 0. -/
  | jpartnerWrite
  /-- TRANSLATION_CSR_WRITE, R53: A service group writes HBASE, HLIMIT, HOFFS or PTROOT, taking effect at the next TLBINV. -/
  | translationCsrWrite
  /-- MEYE_START, R393: A write of START begins a 2^20-bit error count on a port lane. -/
  | meyeStart
  /-- MEYE_COUNT_DONE, R393: The eye count completes; DONE and ERRS are set. -/
  | meyeCountDone
  /-- REGISTER_WRITE, R101: A write to a register with no row of its own, under its access code. -/
  | registerWrite
  /-- HOST_BAR0_INVALID_ACCESS, R349: A host access outside the defined BAR0 registers completes with zero reads and ignored writes, and is logged. -/
  | hostBar0InvalidAccess
  /-- CORRECTION_WINDOW_END, R360: The 2^32-core-cycle window ends and every correction count returns to zero. -/
  | correctionWindowEnd
  /-- ELOG_ACK, R364: The steward firmware acknowledges the error log, clearing it. -/
  | elogAck
  /-- BOOT_ROM_VERIFY, R389: At power-on the hub ROM verifies both signatures and the version, then starts the firmware or stops with FAIL. -/
  | bootRomVerify
  /-- DIE_ADMISSION, R389: A compute die is powered, trained, initialised and self-tested, then admitted or excluded. -/
  | dieAdmission
  /-- ENGINE_SELFTEST_STAGE, R389: Pattern 2 runs on every engine of admitted dies and failing engines are disabled. -/
  | engineSelftestStage
  /-- POWER_OFF, R387: Power is removed and all state is lost. -/
  | powerOff
  /-- HUB_RESET, R387: The hub resets without power-off; an owner restart, and every context destroyed. -/
  | hubReset
  /-- FIRMWARE_RESTART, R387: The steward firmware restarts, as a hub reset, but compute-die state is kept apart from contexts. -/
  | firmwareRestart
  /-- THERMAL_THROTTLE, R398: Draw or temperature passes the limit and the hottest dies drop to 350 MHz. -/
  | thermalThrottle
  /-- THERMAL_RECOVER, R398: Draw or temperature falls back and throttled dies return to the nominal clock. -/
  | thermalRecover
  /-- OVER_TEMPERATURE_TRIP, R398: The trip point is passed and the board controller removes power. -/
  | overTemperatureTrip
  /-- POSTED_ENTRY_PERFORMED, R109: A posted instruction's accesses are performed, or return an error response that is latched, and its OTT entry is released. -/
  | postedEntryPerformed
  /-- SCAT_WRITES_PERFORMED, R333: The DST writes of a SCAT are performed at the home slices, ending that outstanding transfer. -/
  | scatWritesPerformed
  /-- JOURNAL_TRUNCATION_AT_PARTNER, R374: The partner receives the truncation and drops the context's stored records below the new base. -/
  | journalTruncationAtPartner
-- END INSTR
  deriving DecidableEq, Repr

end Sys2Proof
end

