-- ==== Sys2Proof/WellFormed.lean ====
section
/-! DEFINITION. Which terms of the syntax are instructions: the checks a constructor puts on its fields. -/

namespace Sys2Proof

/-- The opcodes of formats K, J and B that Table 5.6 assigns. -/
def op7Assigned (n : Nat) : Bool :=
  n ≤ 0x19 || (0x40 ≤ n && n ≤ 0x45) || n == 0x60 || n == 0x61

/-- The opcodes of formats W and X that Table 5.10 assigns; 0x1FF is ILLEGAL. -/
def op9Assigned (n : Nat) : Bool :=
  n ≤ 0x00F || (0x020 ≤ n && n ≤ 0x024) || (0x040 ≤ n && n ≤ 0x058) || (0x080 ≤ n && n ≤ 0x08C)
  || (0x0C0 ≤ n && n ≤ 0x0C7) || (0x0D0 ≤ n && n ≤ 0x0D5) || (0x0E0 ≤ n && n ≤ 0x0E5)
  || (0x100 ≤ n && n ≤ 0x10A) || (0x120 ≤ n && n ≤ 0x126) || (0x130 ≤ n && n ≤ 0x133)
  || (0x140 ≤ n && n ≤ 0x143) || (0x148 ≤ n && n ≤ 0x14D) || (0x160 ≤ n && n ≤ 0x168)
  || (0x180 ≤ n && n ≤ 0x184) || n == 0x188 || n == 0x189 || (0x1C0 ≤ n && n ≤ 0x1C6)

/-- A raw word is an unassigned opcode: its length bits agree with its width, and its OP7 or OP9 is
neither assigned nor that of ILLEGAL (R77, R87). -/
def RawWord.unassigned : RawWord → Bool
  | .w16 _ => false
  | .w32 b => b.toNat % 4 == 1 && !op7Assigned (b.toNat / 8 % 128) && b.toNat / 8 % 128 != 0x7F
  | .w64 b => b.toNat % 4 == 2 && !op9Assigned (b.toNat / 8 % 512) && b.toNat / 8 % 512 != 0x1FF
  | .w96 b => b.toNat % 4 == 3 && !op9Assigned (b.toNat / 8 % 512) && b.toNat / 8 % 512 != 0x1FF

-- BEGIN CHECKS
/-- The checks a constructor puts on its fields, beyond their widths. -/
def Instr.wellFormed : Instr → Bool
  | .d16Code w => !(w == ⟨false, 0#3, 0#10⟩)
  | .illegalD16 => true
  | .illegalK bits => bits.extractLsb' 0 2 == 1#2 && bits.extractLsb' 3 7 == 0x7F#7
  | .illegalW w => w.lit.isNone
  | .illegalX w => w.lit.isSome
  | .nop _ => true
  | .bra _ => true
  | .braB _ => true
  | .brx _ => true
  | .call _ => true
  | .callB _ => true
  | .callx _ => true
  | .ret _ => true
  | .loop w => !((w.sub6 == 1#6 : Bool))
  | .loopImm w => w.sub6 == 1#6
  | .lbrk _ => true
  | .reform _ => true
  | .exit _ => true
  | .yield _ => true
  | .trap _ => true
  | .launch _ => true
  | .clock _ => true
  | .elect _ => true
  | .setprio _ => true
  | .pseti _ => true
  | .psetf _ => true
  | .plop _ => true
  | .pmovGet w => !((w.sub6.getLsbD 0 : Bool))
  | .pmovSet w => w.sub6.getLsbD 0
  | .pvoteSome w => !((w.sub6 == 1#6 : Bool) || (w.sub6 == 2#6 : Bool) || (w.sub6 == 3#6 : Bool) || (w.sub6 == 4#6 : Bool))
  | .pvoteEvery w => w.sub6 == 1#6
  | .pvoteSame w => w.sub6 == 2#6
  | .pvoteMask w => w.sub6 == 3#6
  | .pvoteCount w => w.sub6 == 4#6
  | .iadd _ => true
  | .iaddI32K _ => true
  | .iaddI64K _ => true
  | .iaddI32J _ => true
  | .iaddI64J _ => true
  | .isub _ => true
  | .isubI32K _ => true
  | .imin _ => true
  | .imax _ => true
  | .imul _ => true
  | .imulI32K _ => true
  | .imulh _ => true
  | .imad _ => true
  | .idiv _ => true
  | .iabs _ => true
  | .popc _ => true
  | .clz _ => true
  | .brev _ => true
  | .shl _ => true
  | .shlN32K _ => true
  | .shlN32J _ => true
  | .shr _ => true
  | .shrN32K _ => true
  | .shrN32J _ => true
  | .shra _ => true
  | .rot _ => true
  | .bitf _ => true
  | .bitfAndK _ => true
  | .bitfOrK _ => true
  | .bitfXorK _ => true
  | .bitfAndJ _ => true
  | .bfx _ => true
  | .bfi _ => true
  | .sel _ => true
  | .mov _ => true
  | .movK _ => true
  | .movi _ => true
  | .moviI32J _ => true
  | .movs _ => true
  | .lea _ => true
  | .cvti _ => true
  | .fadd _ => true
  | .faddF32K _ => true
  | .faddBf16K _ => true
  | .fsub _ => true
  | .fmul _ => true
  | .fmulF32K _ => true
  | .fmulBf16K _ => true
  | .ffma _ => true
  | .ffmaF32K _ => true
  | .ffmaBf16K _ => true
  | .fmin _ => true
  | .fminF32K _ => true
  | .fmax _ => true
  | .fmaxF32K _ => true
  | .fclass _ => true
  | .frnd _ => true
  | .fcvt _ => true
  | .fcvti _ => true
  | .icvtf _ => true
  | .fdot _ => true
  | .fscale _ => true
  | .frcp _ => true
  | .frsq _ => true
  | .fsqrt _ => true
  | .fexp2 _ => true
  | .flog2 _ => true
  | .fsin _ => true
  | .fcos _ => true
  | .ftanh _ => true
  | .bqnt _ => true
  | .bdeq _ => true
  | .zpsub _ => true
  | .pack _ => true
  | .unpack _ => true
  | .amaxb _ => true
  | .shfl _ => true
  | .bcast _ => true
  | .perm _ => true
  | .matchOp _ => true
  | .redl _ => true
  | .scanl _ => true
  | .ldg _ => true
  | .ldgN32K _ => true
  | .ldgN64K _ => true
  | .stg _ => true
  | .stgN32K _ => true
  | .stgN64K _ => true
  | .ldc _ => true
  | .lds _ => true
  | .ldsN32K _ => true
  | .ldsN64K _ => true
  | .sts _ => true
  | .stsN32K _ => true
  | .stsN64K _ => true
  | .ldx _ => true
  | .stx _ => true
  | .pref _ => true
  | .ldb _ => true
  | .stb _ => true
  | .cmntPin w => !((w.sub6 == 1#6 : Bool) || (w.sub6 == 2#6 : Bool) || (w.sub6 == 3#6 : Bool) || (w.sub6 == 4#6 : Bool))
  | .cmntUnpin w => w.sub6 == 1#6
  | .cmntClean w => w.sub6 == 2#6
  | .cmntEvict w => w.sub6 == 3#6
  | .cmntL1inv w => w.sub6 == 4#6
  | .cpy _ => true
  | .cpym _ => true
  | .cpyg w => !((w.sub6 == 1#6 : Bool))
  | .cpygSpad w => w.sub6 == 1#6
  | .publ _ => true
  | .cwait w => !((w.sub6 == 1#6 : Bool))
  | .cwaitStat w => w.sub6 == 1#6
  | .wptr _ => true
  | .ccan _ => true
  | .atom _ => true
  | .red _ => true
  | .atoms _ => true
  | .atomx _ => true
  | .tbegin _ => true
  | .tcommit _ => true
  | .tabort _ => true
  | .tstat _ => true
  | .fence _ => true
  | .bar _ => true
  | .cbar w => !((w.sub6.getLsbD 2 : Bool))
  | .cbarCopy w => w.sub6.getLsbD 2
  | .arrive _ => true
  | .waitv _ => true
  | .tokenWait w => !((w.sub6 == 1#6 : Bool))
  | .tokenPass w => w.sub6 == 1#6
  | .mrsv w => !((w.sub6 == 1#6 : Bool))
  | .mrsvAcc w => w.sub6 == 1#6
  | .mrel w => !((w.sub6 == 1#6 : Bool))
  | .mrelAcc w => w.sub6 == 1#6
  | .mma _ => true
  | .mwait w => !((w.sub6 == 1#6 : Bool))
  | .mwaitAll w => w.sub6 == 1#6
  | .mdrain _ => true
  | .mzero _ => true
  | .msave _ => true
  | .mload _ => true
  | .mchk _ => true
  | .japp _ => true
  | .emit _ => true
  | .jsync w => !((w.sub6 == 1#6 : Bool))
  | .jsyncCtx w => w.sub6 == 1#6
  | .jtrunc _ => true
  | .jseed _ => true
  | .sopen _ => true
  | .sclose _ => true
  | .csrr _ => true
  | .csrw _ => true
  | .csrxSwap w => !((w.sub6 == 1#6 : Bool) || (w.sub6 == 2#6 : Bool))
  | .csrxSet w => w.sub6 == 1#6
  | .csrxClr w => w.sub6 == 2#6
  | .trapret _ => true
  | .region _ => true
  | .tlbinvCtx w => !((w.sub6 == 1#6 : Bool) || (w.sub6 == 2#6 : Bool))
  | .tlbinvRange w => w.sub6 == 1#6
  | .tlbinvAll w => w.sub6 == 2#6
  | .selftestLane w => !((w.sub6 == 1#6 : Bool) || (w.sub6 == 2#6 : Bool) || (w.sub6 == 3#6 : Bool) || (w.sub6 == 4#6 : Bool))
  | .selftestL1 w => w.sub6 == 1#6
  | .selftestEngine w => w.sub6 == 2#6
  | .selftestRfull w => w.sub6 == 3#6
  | .selftestLink w => w.sub6 == 4#6
  | .caramelHalt _ => true
  | .caramelMatch _ => true
  | .caramelMatchx _ => true
  | .caramelRecv _ => true
  | .caramelWaitn _ => true
  | .caramelComb _ => true
  | .caramelCombo _ => true
  | .caramelCvt _ => true
  | .caramelFwd _ => true
  | .caramelMcast _ => true
  | .caramelSend _ => true
  | .caramelGath _ => true
  | .caramelScat _ => true
  | .caramelDrop _ => true
  | .caramelLdk _ => true
  | .caramelSetk _ => true
  | .caramelAddk _ => true
  | .caramelBrk _ => true
  | .caramelBnz _ => true
  | .caramelLoopk _ => true
  | .caramelPost _ => true
  | .caramelDone _ => true
  | .unassignedOpcode w => RawWord.unassigned w
  | .caramelIllegalWord w => w.all (fun x => decide (0x16 ≤ x.toNat / 2 ^ 27))
  | .exitDrainComplete => true
  | .yieldTimeout => true
  | .publSwap => true
  | .copySectorDelivered => true
  | .copyPreemptPause => true
  | .scFenceMarker => true
  | .waitvPoll => true
  | .commitTokenHandover => true
  | .edetwaitTimeout => true
  | .mrsvCopyComplete => true
  | .mrelPerform => true
  | .engineGrant => true
  | .engineEntryAge => true
  | .engineCommandComplete => true
  | .jsyncStallTimeout => true
  | .journalRecordAtPartner => true
  | .journalAck => true
  | .replayJournalFetch => true
  | .streamCloseDrain => true
  | .streamClosed => true
  | .tlbinvComplete => true
  | .longResultReturn => true
  | .parkCommit => true
  | .pageFaultResolved => true
  | .ottEntryGrant => true
  | .tableWalkDone => true
  | .lldWindowEnd => true
  | .reformBinAgeExpiry => true
  | .reformBinDraw => true
  | .reformDetDrain => true
  | .wcDrain => true
  | .wcAgeExpiry => true
  | .wcDrainAck => true
  | .remoteReadAtOwner => true
  | .remoteWriteAtOwner => true
  | .streamRequestAtOwner => true
  | .lowWaterUpdate => true
  | .lwmIdleSend => true
  | .remoteAnswer => true
  | .remoteTimeout => true
  | .busyResend => true
  | .yptPacketExpire => true
  | .ownerRestart => true
  | .linkDown => true
  | .linkRecover => true
  | .membershipChange => true
  | .packageRejoin => true
  | .arm => true
  | .seal => true
  | .disarm => true
  | .windowDataStore => true
  | .caramelProgramStart => true
  | .caramelPacketArrival => true
  | .caramelTransferAck => true
  | .caramelAbortReceived => true
  | .mailboxSubmit => true
  | .mailboxDonebitClear => true
  | .serviceSubmission => true
  | .unmap => true
  | .migrate => true
  | .reclaim => true
  | .exportFrames => true
  | .unexportFrames => true
  | .depSampleOnUpdate => true
  | .depSampleTimer => true
  | .clusterDispatch => true
  | .priorityPreemption => true
  | .preemptionHalted => true
  | .teamEndChannelsQuiet => true
  | .teamEndEngineDone => true
  | .peerWindowCloseAck => true
  | .launchRetire => true
  | .contextCreate => true
  | .contextDestroy => true
  | .bankroleWrite => true
  | .tgtctxWrite => true
  | .tpcWrite => true
  | .errstatClear => true
  | .jpartnerWrite => true
  | .translationCsrWrite => true
  | .meyeStart => true
  | .meyeCountDone => true
  | .registerWrite => true
  | .hostBar0InvalidAccess => true
  | .correctionWindowEnd => true
  | .elogAck => true
  | .bootRomVerify => true
  | .dieAdmission => true
  | .engineSelftestStage => true
  | .powerOff => true
  | .hubReset => true
  | .firmwareRestart => true
  | .thermalThrottle => true
  | .thermalRecover => true
  | .overTemperatureTrip => true
  | .postedEntryPerformed => true
  | .scatWritesPerformed => true
  | .journalTruncationAtPartner => true

-- END CHECKS
end Sys2Proof
end

