-- ==== Sys2Proof/Decode.lean ====
section
/-! DEFINITION. The decoder, total on any bytes, and the encoder, from the tables of R70 to R87 and R332. -/

namespace Sys2Proof

/-- Why bytes are not read as an instruction: fewer bytes than the length that the first parcel gives
(R70). Every complete word has a reading; an encoding that the part rejects is read as the instruction
that raises its EILL. -/
inductive DecodeError where
  | tooShort (need have_ : Nat)
  deriving DecidableEq, Repr

/-- The unsigned field of `w` bits at `lo` of a word read as one little-endian integer (R70). -/
def bitsAt (x lo w : Nat) : Nat := x / 2 ^ lo % 2 ^ w

/-- A little-endian integer from its bytes, the lowest address first (R4). -/
def leNat : List Byte → Nat
  | [] => 0
  | b :: r => b.toNat + 256 * leNat r

/-- The `n` little-endian bytes of an integer. -/
def leBytes : Nat → Nat → List Byte
  | 0, _ => []
  | n + 1, x => BitVec.ofNat 8 x :: leBytes n (x / 256)

/-- The length in bytes of the instruction whose first parcel has the low bits `l` (Table 5.1). -/
def lengthOf (l : Nat) : Nat :=
  match l % 4 with
  | 0 => 2
  | 1 => 4
  | 2 => 8
  | _ => 12

/-- The fields of Table 5.7 from a word; `lit` as the format gives it. -/
def longFields (x : Nat) (lit : Option (BitVec 32)) : LongWord :=
  { s := (bitsAt x 2 1 == 1), sub6 := BitVec.ofNat 6 (bitsAt x 12 6), gp := BitVec.ofNat 7 (bitsAt x 18 7),
    gn := (bitsAt x 25 1 == 1), d := BitVec.ofNat 8 (bitsAt x 26 8), a := BitVec.ofNat 8 (bitsAt x 34 8),
    b := BitVec.ofNat 8 (bitsAt x 42 8), c := BitVec.ofNat 8 (bitsAt x 50 8),
    m6 := BitVec.ofNat 6 (bitsAt x 58 6), lit := lit }

/-- The fields of Table 5.3. -/
def kFields (x : Nat) : KWord :=
  { s := (bitsAt x 2 1 == 1), g := BitVec.ofNat 3 (bitsAt x 10 3), n := (bitsAt x 13 1 == 1),
    d := BitVec.ofNat 6 (bitsAt x 14 6), a := BitVec.ofNat 6 (bitsAt x 20 6), b := BitVec.ofNat 6 (bitsAt x 26 6) }

/-- The fields of Table 5.4. -/
def jFields (x : Nat) : JWord :=
  { s := (bitsAt x 2 1 == 1), g := BitVec.ofNat 3 (bitsAt x 10 3), n := (bitsAt x 13 1 == 1),
    d := BitVec.ofNat 6 (bitsAt x 14 6), imm := BitVec.ofNat 12 (bitsAt x 20 12) }

/-- The fields of Table 5.5. -/
def bFields (x : Nat) : BWord :=
  { s := (bitsAt x 2 1 == 1), g := BitVec.ofNat 3 (bitsAt x 10 3), n := (bitsAt x 13 1 == 1),
    off := BitVec.ofNat 18 (bitsAt x 14 18) }

/-- The fields of Table 5.2. -/
def d16Fields (x : Nat) : D16Word :=
  { s := (bitsAt x 2 1 == 1), rsvd := BitVec.ofNat 3 (bitsAt x 3 3), idx := BitVec.ofNat 10 (bitsAt x 6 10) }

/-- The fields of Table 18.5 below OP. -/
def caramelFields (x : Nat) : CaramelFields :=
  { x := BitVec.ofNat 4 (bitsAt x 23 4), y := BitVec.ofNat 4 (bitsAt x 19 4), z := BitVec.ofNat 4 (bitsAt x 15 4),
    imm := BitVec.ofNat 15 (bitsAt x 0 15) }

-- BEGIN TABLES
/-- The short forms of format K by OP7 (Table 5.6). -/
def kInstr (op7 : Nat) (w : KWord) : Option Instr :=
  match op7 with
  | 0x00 => some (.iaddI32K w)
  | 0x01 => some (.iaddI64K w)
  | 0x02 => some (.isubI32K w)
  | 0x03 => some (.imulI32K w)
  | 0x04 => some (.shlN32K w)
  | 0x05 => some (.shrN32K w)
  | 0x06 => some (.bitfAndK w)
  | 0x07 => some (.bitfOrK w)
  | 0x08 => some (.bitfXorK w)
  | 0x09 => some (.faddF32K w)
  | 0x0A => some (.fmulF32K w)
  | 0x0B => some (.ffmaF32K w)
  | 0x0C => some (.faddBf16K w)
  | 0x0D => some (.fmulBf16K w)
  | 0x0E => some (.ffmaBf16K w)
  | 0x0F => some (.fminF32K w)
  | 0x10 => some (.fmaxF32K w)
  | 0x11 => some (.movK w)
  | 0x12 => some (.ldgN32K w)
  | 0x13 => some (.ldgN64K w)
  | 0x14 => some (.stgN32K w)
  | 0x15 => some (.stgN64K w)
  | 0x16 => some (.ldsN32K w)
  | 0x17 => some (.ldsN64K w)
  | 0x18 => some (.stsN32K w)
  | 0x19 => some (.stsN64K w)
  | _ => none

/-- The short forms of format J by OP7 (Table 5.6). -/
def jInstr (op7 : Nat) (w : JWord) : Option Instr :=
  match op7 with
  | 0x40 => some (.iaddI32J w)
  | 0x41 => some (.iaddI64J w)
  | 0x42 => some (.shlN32J w)
  | 0x43 => some (.shrN32J w)
  | 0x44 => some (.bitfAndJ w)
  | 0x45 => some (.moviI32J w)
  | _ => none

/-- The short forms of format B by OP7 (Table 5.6). -/
def bInstr (op7 : Nat) (w : BWord) : Option Instr :=
  match op7 with
  | 0x60 => some (.braB w)
  | 0x61 => some (.callB w)
  | _ => none

/-- The instructions of formats W and X by OP9 (Table 5.10), a SUB6 that an entry splits on
choosing among the rows of one OP9. A SUB6 that no row of a split OP9 admits reads as the
first of its rows and fails check 7 of Table 5.11 when it issues. -/
def longInstr (op9 : Nat) (w : LongWord) : Option Instr :=
  match op9 with
  | 0x000 => some (.nop w)
  | 0x001 => some (.bra w)
  | 0x002 => some (.brx w)
  | 0x003 => some (.call w)
  | 0x004 => some (.callx w)
  | 0x005 => some (.ret w)
  | 0x006 => some (if w.sub6 == 1#6 then .loopImm w else .loop w)
  | 0x007 => some (.lbrk w)
  | 0x008 => some (.reform w)
  | 0x009 => some (.exit w)
  | 0x00A => some (.yield w)
  | 0x00B => some (.trap w)
  | 0x00C => some (.launch w)
  | 0x00D => some (.clock w)
  | 0x00E => some (.elect w)
  | 0x00F => some (.setprio w)
  | 0x020 => some (.pseti w)
  | 0x021 => some (.psetf w)
  | 0x022 => some (.plop w)
  | 0x023 => some (if w.sub6.getLsbD 0 then .pmovSet w else .pmovGet w)
  | 0x024 => some (if w.sub6 == 1#6 then .pvoteEvery w else if w.sub6 == 2#6 then .pvoteSame w else if w.sub6 == 3#6 then .pvoteMask w else if w.sub6 == 4#6 then .pvoteCount w else .pvoteSome w)
  | 0x040 => some (.iadd w)
  | 0x041 => some (.isub w)
  | 0x042 => some (.imul w)
  | 0x043 => some (.imulh w)
  | 0x044 => some (.imad w)
  | 0x045 => some (.idiv w)
  | 0x046 => some (.imin w)
  | 0x047 => some (.imax w)
  | 0x048 => some (.iabs w)
  | 0x049 => some (.shl w)
  | 0x04A => some (.shr w)
  | 0x04B => some (.shra w)
  | 0x04C => some (.rot w)
  | 0x04D => some (.bitf w)
  | 0x04E => some (.bfx w)
  | 0x04F => some (.bfi w)
  | 0x050 => some (.popc w)
  | 0x051 => some (.clz w)
  | 0x052 => some (.brev w)
  | 0x053 => some (.sel w)
  | 0x054 => some (.mov w)
  | 0x055 => some (.movi w)
  | 0x056 => some (.movs w)
  | 0x057 => some (.lea w)
  | 0x058 => some (.cvti w)
  | 0x080 => some (.fadd w)
  | 0x081 => some (.fsub w)
  | 0x082 => some (.fmul w)
  | 0x083 => some (.ffma w)
  | 0x084 => some (.fmin w)
  | 0x085 => some (.fmax w)
  | 0x086 => some (.fclass w)
  | 0x087 => some (.frnd w)
  | 0x088 => some (.fcvt w)
  | 0x089 => some (.fcvti w)
  | 0x08A => some (.icvtf w)
  | 0x08B => some (.fdot w)
  | 0x08C => some (.fscale w)
  | 0x0C0 => some (.frcp w)
  | 0x0C1 => some (.frsq w)
  | 0x0C2 => some (.fsqrt w)
  | 0x0C3 => some (.fexp2 w)
  | 0x0C4 => some (.flog2 w)
  | 0x0C5 => some (.fsin w)
  | 0x0C6 => some (.fcos w)
  | 0x0C7 => some (.ftanh w)
  | 0x0D0 => some (.bqnt w)
  | 0x0D1 => some (.bdeq w)
  | 0x0D2 => some (.zpsub w)
  | 0x0D3 => some (.pack w)
  | 0x0D4 => some (.unpack w)
  | 0x0D5 => some (.amaxb w)
  | 0x0E0 => some (.shfl w)
  | 0x0E1 => some (.bcast w)
  | 0x0E2 => some (.perm w)
  | 0x0E3 => some (.matchOp w)
  | 0x0E4 => some (.redl w)
  | 0x0E5 => some (.scanl w)
  | 0x100 => some (.ldg w)
  | 0x101 => some (.stg w)
  | 0x102 => some (.lds w)
  | 0x103 => some (.sts w)
  | 0x104 => some (.ldx w)
  | 0x105 => some (.stx w)
  | 0x106 => some (.ldc w)
  | 0x107 => some (.pref w)
  | 0x108 => some (.ldb w)
  | 0x109 => some (.stb w)
  | 0x10A => some (if w.sub6 == 1#6 then .cmntUnpin w else if w.sub6 == 2#6 then .cmntClean w else if w.sub6 == 3#6 then .cmntEvict w else if w.sub6 == 4#6 then .cmntL1inv w else .cmntPin w)
  | 0x120 => some (.cpy w)
  | 0x121 => some (.cpym w)
  | 0x122 => some (if w.sub6 == 1#6 then .cpygSpad w else .cpyg w)
  | 0x123 => some (.publ w)
  | 0x124 => some (if w.sub6 == 1#6 then .cwaitStat w else .cwait w)
  | 0x125 => some (.wptr w)
  | 0x126 => some (.ccan w)
  | 0x130 => some (.atom w)
  | 0x131 => some (.red w)
  | 0x132 => some (.atoms w)
  | 0x133 => some (.atomx w)
  | 0x140 => some (.tbegin w)
  | 0x141 => some (.tcommit w)
  | 0x142 => some (.tabort w)
  | 0x143 => some (.tstat w)
  | 0x148 => some (.fence w)
  | 0x149 => some (.bar w)
  | 0x14A => some (if w.sub6.getLsbD 2 then .cbarCopy w else .cbar w)
  | 0x14B => some (.arrive w)
  | 0x14C => some (.waitv w)
  | 0x14D => some (if w.sub6 == 1#6 then .tokenPass w else .tokenWait w)
  | 0x160 => some (if w.sub6 == 1#6 then .mrsvAcc w else .mrsv w)
  | 0x161 => some (if w.sub6 == 1#6 then .mrelAcc w else .mrel w)
  | 0x162 => some (.mma w)
  | 0x163 => some (if w.sub6 == 1#6 then .mwaitAll w else .mwait w)
  | 0x164 => some (.mdrain w)
  | 0x165 => some (.mzero w)
  | 0x166 => some (.msave w)
  | 0x167 => some (.mload w)
  | 0x168 => some (.mchk w)
  | 0x180 => some (.japp w)
  | 0x181 => some (.emit w)
  | 0x182 => some (if w.sub6 == 1#6 then .jsyncCtx w else .jsync w)
  | 0x183 => some (.jtrunc w)
  | 0x184 => some (.jseed w)
  | 0x188 => some (.sopen w)
  | 0x189 => some (.sclose w)
  | 0x1C0 => some (.csrr w)
  | 0x1C1 => some (.csrw w)
  | 0x1C2 => some (if w.sub6 == 1#6 then .csrxSet w else if w.sub6 == 2#6 then .csrxClr w else .csrxSwap w)
  | 0x1C3 => some (.trapret w)
  | 0x1C4 => some (.region w)
  | 0x1C5 => some (if w.sub6 == 1#6 then .selftestL1 w else if w.sub6 == 2#6 then .selftestEngine w else if w.sub6 == 3#6 then .selftestRfull w else if w.sub6 == 4#6 then .selftestLink w else .selftestLane w)
  | 0x1C6 => some (if w.sub6 == 1#6 then .tlbinvRange w else if w.sub6 == 2#6 then .tlbinvAll w else .tlbinvCtx w)
  | 0x1FF => some (if w.lit.isSome then .illegalX w else .illegalW w)
  | _ => none

/-- The Caramel opcodes (Table 18.6); 0x16 to 0x1F are illegal (R332). -/
def caramelInstr (op : Nat) (w : CaramelFields) : Option Instr :=
  match op with
  | 0x00 => some (.caramelHalt w)
  | 0x01 => some (.caramelMatch w)
  | 0x02 => some (.caramelMatchx w)
  | 0x03 => some (.caramelRecv w)
  | 0x04 => some (.caramelWaitn w)
  | 0x05 => some (.caramelComb w)
  | 0x06 => some (.caramelCombo w)
  | 0x07 => some (.caramelCvt w)
  | 0x08 => some (.caramelFwd w)
  | 0x09 => some (.caramelMcast w)
  | 0x0A => some (.caramelSend w)
  | 0x0B => some (.caramelGath w)
  | 0x0C => some (.caramelScat w)
  | 0x0D => some (.caramelDrop w)
  | 0x0E => some (.caramelLdk w)
  | 0x0F => some (.caramelSetk w)
  | 0x10 => some (.caramelAddk w)
  | 0x11 => some (.caramelBrk w)
  | 0x12 => some (.caramelBnz w)
  | 0x13 => some (.caramelLoopk w)
  | 0x14 => some (.caramelPost w)
  | 0x15 => some (.caramelDone w)
  | _ => none

-- END TABLES
/-- The 16-bit code (R73): all zeros is ILLEGAL (R88), anything else a dictionary code. -/
def decode16 (x : Nat) : Instr :=
  if x % 2 ^ 16 = 0 then .illegalD16 else .d16Code (d16Fields x)

/-- The 32-bit word (R75, R77): OP7 chooses the format, and an OP7 that Table 5.6 does not list is
ILLEGAL (0x7F) or unassigned. -/
def decode32 (x : Nat) : Instr :=
  let op := bitsAt x 3 7
  if op == 0x7F then .illegalK (BitVec.ofNat 32 x) else
  match kInstr op (kFields x) with
  | some i => i
  | none =>
  match jInstr op (jFields x) with
  | some i => i
  | none =>
  match bInstr op (bFields x) with
  | some i => i
  | none => .unassignedOpcode (.w32 (BitVec.ofNat 32 x))

/-- The 64-bit word (R78, R87). -/
def decode64 (x : Nat) : Instr :=
  match longInstr (bitsAt x 3 9) (longFields x none) with
  | some i => i
  | none => .unassignedOpcode (.w64 (BitVec.ofNat 64 x))

/-- The 96-bit word (R78, R82, R87). -/
def decode96 (x : Nat) : Instr :=
  match longInstr (bitsAt x 3 9) (longFields x (some (BitVec.ofNat 32 (bitsAt x 64 32)))) with
  | some i => i
  | none => .unassignedOpcode (.w96 (BitVec.ofNat 96 x))

/-- The instruction of a word whose length its own bits [1:0] give (R70). -/
def decodeWord (x : Nat) : Instr :=
  match x % 4 with
  | 0 => decode16 x
  | 1 => decode32 x
  | 2 => decode64 x
  | _ => decode96 x

/-- Reads one instruction from bytes in ascending address order and answers the bytes that remain. -/
def decode (bs : List Byte) : Except DecodeError (Instr × List Byte) :=
  if bs.length < 2 then .error (.tooShort 2 bs.length) else
  let n := lengthOf (leNat (bs.take 2))
  if bs.length < n then .error (.tooShort n bs.length)
  else .ok (decodeWord (leNat (bs.take n)), bs.drop n)

/-- A Caramel word (R332): the step a combine unit makes on it. An OP of 0x16 to 0x1F is illegal; a
field marked 0 that is not zero is found when the word executes. -/
def decodeCaramel (x : Nat) : Instr :=
  match caramelInstr (bitsAt x 27 5) (caramelFields x) with
  | some i => i
  | none => .caramelIllegalWord (some (BitVec.ofNat 32 x))

/-- How an instruction is written down: its format, opcode and fields. -/
inductive Form where
  | d16 (w : D16Word)
  | k (op7 : Nat) (w : KWord)
  | j (op7 : Nat) (w : JWord)
  | b (op7 : Nat) (w : BWord)
  | long (op9 : Nat) (w : LongWord)
  | caramel (op : Nat) (w : CaramelFields)
  | raw (w : RawWord)
  | event
  deriving DecidableEq, Repr

-- BEGIN FORMS
/-- How each constructor is written down: the opcode that names it and its fields. -/
def form : Instr → Form
  | .d16Code w => .d16 w
  | .illegalD16 => .d16 ⟨false, 0#3, 0#10⟩
  | .illegalK bits => .raw (.w32 bits)
  | .illegalW w => .long 0x1FF w
  | .illegalX w => .long 0x1FF w
  | .nop w => .long 0x000 w
  | .bra w => .long 0x001 w
  | .braB w => .b 0x60 w
  | .brx w => .long 0x002 w
  | .call w => .long 0x003 w
  | .callB w => .b 0x61 w
  | .callx w => .long 0x004 w
  | .ret w => .long 0x005 w
  | .loop w => .long 0x006 w
  | .loopImm w => .long 0x006 w
  | .lbrk w => .long 0x007 w
  | .reform w => .long 0x008 w
  | .exit w => .long 0x009 w
  | .yield w => .long 0x00A w
  | .trap w => .long 0x00B w
  | .launch w => .long 0x00C w
  | .clock w => .long 0x00D w
  | .elect w => .long 0x00E w
  | .setprio w => .long 0x00F w
  | .pseti w => .long 0x020 w
  | .psetf w => .long 0x021 w
  | .plop w => .long 0x022 w
  | .pmovGet w => .long 0x023 w
  | .pmovSet w => .long 0x023 w
  | .pvoteSome w => .long 0x024 w
  | .pvoteEvery w => .long 0x024 w
  | .pvoteSame w => .long 0x024 w
  | .pvoteMask w => .long 0x024 w
  | .pvoteCount w => .long 0x024 w
  | .iadd w => .long 0x040 w
  | .iaddI32K w => .k 0x00 w
  | .iaddI64K w => .k 0x01 w
  | .iaddI32J w => .j 0x40 w
  | .iaddI64J w => .j 0x41 w
  | .isub w => .long 0x041 w
  | .isubI32K w => .k 0x02 w
  | .imin w => .long 0x046 w
  | .imax w => .long 0x047 w
  | .imul w => .long 0x042 w
  | .imulI32K w => .k 0x03 w
  | .imulh w => .long 0x043 w
  | .imad w => .long 0x044 w
  | .idiv w => .long 0x045 w
  | .iabs w => .long 0x048 w
  | .popc w => .long 0x050 w
  | .clz w => .long 0x051 w
  | .brev w => .long 0x052 w
  | .shl w => .long 0x049 w
  | .shlN32K w => .k 0x04 w
  | .shlN32J w => .j 0x42 w
  | .shr w => .long 0x04A w
  | .shrN32K w => .k 0x05 w
  | .shrN32J w => .j 0x43 w
  | .shra w => .long 0x04B w
  | .rot w => .long 0x04C w
  | .bitf w => .long 0x04D w
  | .bitfAndK w => .k 0x06 w
  | .bitfOrK w => .k 0x07 w
  | .bitfXorK w => .k 0x08 w
  | .bitfAndJ w => .j 0x44 w
  | .bfx w => .long 0x04E w
  | .bfi w => .long 0x04F w
  | .sel w => .long 0x053 w
  | .mov w => .long 0x054 w
  | .movK w => .k 0x11 w
  | .movi w => .long 0x055 w
  | .moviI32J w => .j 0x45 w
  | .movs w => .long 0x056 w
  | .lea w => .long 0x057 w
  | .cvti w => .long 0x058 w
  | .fadd w => .long 0x080 w
  | .faddF32K w => .k 0x09 w
  | .faddBf16K w => .k 0x0C w
  | .fsub w => .long 0x081 w
  | .fmul w => .long 0x082 w
  | .fmulF32K w => .k 0x0A w
  | .fmulBf16K w => .k 0x0D w
  | .ffma w => .long 0x083 w
  | .ffmaF32K w => .k 0x0B w
  | .ffmaBf16K w => .k 0x0E w
  | .fmin w => .long 0x084 w
  | .fminF32K w => .k 0x0F w
  | .fmax w => .long 0x085 w
  | .fmaxF32K w => .k 0x10 w
  | .fclass w => .long 0x086 w
  | .frnd w => .long 0x087 w
  | .fcvt w => .long 0x088 w
  | .fcvti w => .long 0x089 w
  | .icvtf w => .long 0x08A w
  | .fdot w => .long 0x08B w
  | .fscale w => .long 0x08C w
  | .frcp w => .long 0x0C0 w
  | .frsq w => .long 0x0C1 w
  | .fsqrt w => .long 0x0C2 w
  | .fexp2 w => .long 0x0C3 w
  | .flog2 w => .long 0x0C4 w
  | .fsin w => .long 0x0C5 w
  | .fcos w => .long 0x0C6 w
  | .ftanh w => .long 0x0C7 w
  | .bqnt w => .long 0x0D0 w
  | .bdeq w => .long 0x0D1 w
  | .zpsub w => .long 0x0D2 w
  | .pack w => .long 0x0D3 w
  | .unpack w => .long 0x0D4 w
  | .amaxb w => .long 0x0D5 w
  | .shfl w => .long 0x0E0 w
  | .bcast w => .long 0x0E1 w
  | .perm w => .long 0x0E2 w
  | .matchOp w => .long 0x0E3 w
  | .redl w => .long 0x0E4 w
  | .scanl w => .long 0x0E5 w
  | .ldg w => .long 0x100 w
  | .ldgN32K w => .k 0x12 w
  | .ldgN64K w => .k 0x13 w
  | .stg w => .long 0x101 w
  | .stgN32K w => .k 0x14 w
  | .stgN64K w => .k 0x15 w
  | .ldc w => .long 0x106 w
  | .lds w => .long 0x102 w
  | .ldsN32K w => .k 0x16 w
  | .ldsN64K w => .k 0x17 w
  | .sts w => .long 0x103 w
  | .stsN32K w => .k 0x18 w
  | .stsN64K w => .k 0x19 w
  | .ldx w => .long 0x104 w
  | .stx w => .long 0x105 w
  | .pref w => .long 0x107 w
  | .ldb w => .long 0x108 w
  | .stb w => .long 0x109 w
  | .cmntPin w => .long 0x10A w
  | .cmntUnpin w => .long 0x10A w
  | .cmntClean w => .long 0x10A w
  | .cmntEvict w => .long 0x10A w
  | .cmntL1inv w => .long 0x10A w
  | .cpy w => .long 0x120 w
  | .cpym w => .long 0x121 w
  | .cpyg w => .long 0x122 w
  | .cpygSpad w => .long 0x122 w
  | .publ w => .long 0x123 w
  | .cwait w => .long 0x124 w
  | .cwaitStat w => .long 0x124 w
  | .wptr w => .long 0x125 w
  | .ccan w => .long 0x126 w
  | .atom w => .long 0x130 w
  | .red w => .long 0x131 w
  | .atoms w => .long 0x132 w
  | .atomx w => .long 0x133 w
  | .tbegin w => .long 0x140 w
  | .tcommit w => .long 0x141 w
  | .tabort w => .long 0x142 w
  | .tstat w => .long 0x143 w
  | .fence w => .long 0x148 w
  | .bar w => .long 0x149 w
  | .cbar w => .long 0x14A w
  | .cbarCopy w => .long 0x14A w
  | .arrive w => .long 0x14B w
  | .waitv w => .long 0x14C w
  | .tokenWait w => .long 0x14D w
  | .tokenPass w => .long 0x14D w
  | .mrsv w => .long 0x160 w
  | .mrsvAcc w => .long 0x160 w
  | .mrel w => .long 0x161 w
  | .mrelAcc w => .long 0x161 w
  | .mma w => .long 0x162 w
  | .mwait w => .long 0x163 w
  | .mwaitAll w => .long 0x163 w
  | .mdrain w => .long 0x164 w
  | .mzero w => .long 0x165 w
  | .msave w => .long 0x166 w
  | .mload w => .long 0x167 w
  | .mchk w => .long 0x168 w
  | .japp w => .long 0x180 w
  | .emit w => .long 0x181 w
  | .jsync w => .long 0x182 w
  | .jsyncCtx w => .long 0x182 w
  | .jtrunc w => .long 0x183 w
  | .jseed w => .long 0x184 w
  | .sopen w => .long 0x188 w
  | .sclose w => .long 0x189 w
  | .csrr w => .long 0x1C0 w
  | .csrw w => .long 0x1C1 w
  | .csrxSwap w => .long 0x1C2 w
  | .csrxSet w => .long 0x1C2 w
  | .csrxClr w => .long 0x1C2 w
  | .trapret w => .long 0x1C3 w
  | .region w => .long 0x1C4 w
  | .tlbinvCtx w => .long 0x1C6 w
  | .tlbinvRange w => .long 0x1C6 w
  | .tlbinvAll w => .long 0x1C6 w
  | .selftestLane w => .long 0x1C5 w
  | .selftestL1 w => .long 0x1C5 w
  | .selftestEngine w => .long 0x1C5 w
  | .selftestRfull w => .long 0x1C5 w
  | .selftestLink w => .long 0x1C5 w
  | .caramelHalt w => .caramel 0x00 w
  | .caramelMatch w => .caramel 0x01 w
  | .caramelMatchx w => .caramel 0x02 w
  | .caramelRecv w => .caramel 0x03 w
  | .caramelWaitn w => .caramel 0x04 w
  | .caramelComb w => .caramel 0x05 w
  | .caramelCombo w => .caramel 0x06 w
  | .caramelCvt w => .caramel 0x07 w
  | .caramelFwd w => .caramel 0x08 w
  | .caramelMcast w => .caramel 0x09 w
  | .caramelSend w => .caramel 0x0A w
  | .caramelGath w => .caramel 0x0B w
  | .caramelScat w => .caramel 0x0C w
  | .caramelDrop w => .caramel 0x0D w
  | .caramelLdk w => .caramel 0x0E w
  | .caramelSetk w => .caramel 0x0F w
  | .caramelAddk w => .caramel 0x10 w
  | .caramelBrk w => .caramel 0x11 w
  | .caramelBnz w => .caramel 0x12 w
  | .caramelLoopk w => .caramel 0x13 w
  | .caramelPost w => .caramel 0x14 w
  | .caramelDone w => .caramel 0x15 w
  | .unassignedOpcode w => .raw w
  | .caramelIllegalWord (some x) => .raw (.w32 x)
  | .caramelIllegalWord none => .event
  | .exitDrainComplete => .event
  | .yieldTimeout => .event
  | .publSwap => .event
  | .copySectorDelivered => .event
  | .copyPreemptPause => .event
  | .scFenceMarker => .event
  | .waitvPoll => .event
  | .commitTokenHandover => .event
  | .edetwaitTimeout => .event
  | .mrsvCopyComplete => .event
  | .mrelPerform => .event
  | .engineGrant => .event
  | .engineEntryAge => .event
  | .engineCommandComplete => .event
  | .jsyncStallTimeout => .event
  | .journalRecordAtPartner => .event
  | .journalAck => .event
  | .replayJournalFetch => .event
  | .streamCloseDrain => .event
  | .streamClosed => .event
  | .tlbinvComplete => .event
  | .longResultReturn => .event
  | .parkCommit => .event
  | .pageFaultResolved => .event
  | .ottEntryGrant => .event
  | .tableWalkDone => .event
  | .lldWindowEnd => .event
  | .reformBinAgeExpiry => .event
  | .reformBinDraw => .event
  | .reformDetDrain => .event
  | .wcDrain => .event
  | .wcAgeExpiry => .event
  | .wcDrainAck => .event
  | .remoteReadAtOwner => .event
  | .remoteWriteAtOwner => .event
  | .streamRequestAtOwner => .event
  | .lowWaterUpdate => .event
  | .lwmIdleSend => .event
  | .remoteAnswer => .event
  | .remoteTimeout => .event
  | .busyResend => .event
  | .yptPacketExpire => .event
  | .ownerRestart => .event
  | .linkDown => .event
  | .linkRecover => .event
  | .membershipChange => .event
  | .packageRejoin => .event
  | .arm => .event
  | .seal => .event
  | .disarm => .event
  | .windowDataStore => .event
  | .caramelProgramStart => .event
  | .caramelPacketArrival => .event
  | .caramelTransferAck => .event
  | .caramelAbortReceived => .event
  | .mailboxSubmit => .event
  | .mailboxDonebitClear => .event
  | .serviceSubmission => .event
  | .unmap => .event
  | .migrate => .event
  | .reclaim => .event
  | .exportFrames => .event
  | .unexportFrames => .event
  | .depSampleOnUpdate => .event
  | .depSampleTimer => .event
  | .clusterDispatch => .event
  | .priorityPreemption => .event
  | .preemptionHalted => .event
  | .teamEndChannelsQuiet => .event
  | .teamEndEngineDone => .event
  | .peerWindowCloseAck => .event
  | .launchRetire => .event
  | .contextCreate => .event
  | .contextDestroy => .event
  | .bankroleWrite => .event
  | .tgtctxWrite => .event
  | .tpcWrite => .event
  | .errstatClear => .event
  | .jpartnerWrite => .event
  | .translationCsrWrite => .event
  | .meyeStart => .event
  | .meyeCountDone => .event
  | .registerWrite => .event
  | .hostBar0InvalidAccess => .event
  | .correctionWindowEnd => .event
  | .elogAck => .event
  | .bootRomVerify => .event
  | .dieAdmission => .event
  | .engineSelftestStage => .event
  | .powerOff => .event
  | .hubReset => .event
  | .firmwareRestart => .event
  | .thermalThrottle => .event
  | .thermalRecover => .event
  | .overTemperatureTrip => .event
  | .postedEntryPerformed => .event
  | .scatWritesPerformed => .event
  | .journalTruncationAtPartner => .event

-- END FORMS
/-- A Boolean field of one bit. -/
def bit (b : Bool) : Nat := if b then 1 else 0

/-- The bits of a word of formats W and X (Table 5.7). -/
def longBits (op9 : Nat) (w : LongWord) : Nat :=
  (if w.lit.isSome then 3 else 2) + 4 * bit w.s + 2 ^ 3 * op9 + 2 ^ 12 * w.sub6.toNat + 2 ^ 18 * w.gp.toNat
  + 2 ^ 25 * bit w.gn + 2 ^ 26 * w.d.toNat + 2 ^ 34 * w.a.toNat + 2 ^ 42 * w.b.toNat + 2 ^ 50 * w.c.toNat
  + 2 ^ 58 * w.m6.toNat + 2 ^ 64 * (w.lit.getD 0#32).toNat

/-- The bits and the length in bytes of a form; an event has no word. -/
def Form.bits : Form → Option (Nat × Nat)
  | .d16 w => some (4 * bit w.s + 8 * w.rsvd.toNat + 64 * w.idx.toNat, 2)
  | .k op w => some (1 + 4 * bit w.s + 8 * op + 2 ^ 10 * w.g.toNat + 2 ^ 13 * bit w.n + 2 ^ 14 * w.d.toNat
      + 2 ^ 20 * w.a.toNat + 2 ^ 26 * w.b.toNat, 4)
  | .j op w => some (1 + 4 * bit w.s + 8 * op + 2 ^ 10 * w.g.toNat + 2 ^ 13 * bit w.n + 2 ^ 14 * w.d.toNat
      + 2 ^ 20 * w.imm.toNat, 4)
  | .b op w => some (1 + 4 * bit w.s + 8 * op + 2 ^ 10 * w.g.toNat + 2 ^ 13 * bit w.n + 2 ^ 14 * w.off.toNat, 4)
  | .long op w => some (longBits op w, if w.lit.isSome then 12 else 8)
  | .caramel op w => some (2 ^ 27 * op + 2 ^ 23 * w.x.toNat + 2 ^ 19 * w.y.toNat + 2 ^ 15 * w.z.toNat
      + w.imm.toNat, 4)
  | .raw (.w16 x) => some (x.toNat, 2)
  | .raw (.w32 x) => some (x.toNat, 4)
  | .raw (.w64 x) => some (x.toNat, 8)
  | .raw (.w96 x) => some (x.toNat, 12)
  | .event => none

/-- The bytes of an instruction in ascending address order; an event has none. -/
def encode (i : Instr) : List Byte :=
  match (form i).bits with
  | some (x, n) => leBytes n x
  | none => []

/-- The instruction read from a word of the table of operations: `nbits` bits given, those above it
zero. 16 bits are a dictionary code; 32 bits with [1:0] = 01 a core short form, and with other low bits
a Caramel word, since the two spaces are told apart by where a word is fetched and not by its bits
(log 10); 64 and 96 bits a word of formats W and X. -/
def decodeTableWord (nbits w : Nat) : Option Instr :=
  let x := w % 2 ^ nbits
  if nbits = 32 && x % 4 != 1 then some (decodeCaramel x)
  else some (decodeWord x)

end Sys2Proof
end

