-- ==== Sys2Proof/Machine/Bits.lean ====
section
/-! DEFINITION. Sparse tables, bit fields, sign and zero extension, sub-elements, and byte memories. -/

namespace Sys2Proof.Machine

/-! ### Sparse tables -/

/-- The entry of number `k`, if listed. -/
def tget {α : Type} : Tab α → Nat → Option α
  | [], _ => none
  | (i, x) :: r, k => if i = k then some x else tget r k

/-- The entry of number `k`, or `d` where none is listed. -/
def tgetD {α : Type} (t : Tab α) (k : Nat) (d : α) : α := (tget t k).getD d

/-- Lists `x` under `k`, keeping the numbers rising. -/
def tset {α : Type} : Tab α → Nat → α → Tab α
  | [], k, x => [(k, x)]
  | (i, y) :: r, k, x => if k < i then (k, x) :: (i, y) :: r else if i = k then (k, x) :: r else (i, y) :: tset r k x

/-- Removes the entry of number `k`. -/
def tdel {α : Type} (t : Tab α) (k : Nat) : Tab α := t.filter (fun e => e.1 != k)

/-- Writes a word into a table whose unlisted numbers hold zero. -/
def wset (t : Tab Word) (k : Nat) (x : Word) : Tab Word := if x = 0 then tdel t k else tset t k x

/-- Reads a word from such a table. -/
def wget (t : Tab Word) (k : Nat) : Word := tgetD t k 0

/-- Applies `f` to every listed entry. -/
def tmap {α : Type} (f : Nat → α → α) (t : Tab α) : Tab α := t.map (fun e => (e.1, f e.1 e.2))

/-- Replaces element `i` of a list. -/
def lset {α : Type} (l : List α) (i : Nat) (x : α) : List α := l.set i x

/-- Applies `f` to element `i` of a list. -/
def lmod {α : Type} (l : List α) (i : Nat) (f : α → α) : List α := l.modify i f

/-! ### Numbers -/

/-- Bit `i` of a number. -/
def nbit (x i : Nat) : Bool := x / 2 ^ i % 2 == 1

/-- The signed value of the low `w` bits (R148). -/
def sxInt (w x : Nat) : Int :=
  let y := x % 2 ^ w
  if w = 0 then 0 else if y < 2 ^ (w - 1) then (y : Int) else (y : Int) - (2 ^ w : Nat)

/-- An integer narrowed to `w` bits, modulo 2^w. -/
def wrap (w : Nat) (x : Int) : Nat := (x % ((2 ^ w : Nat) : Int)).toNat

/-- An integer narrowed to a 64-bit word. -/
def toWord (x : Int) : Word := BitVec.ofNat 64 (wrap 64 x)

/-- The low `w` bits sign-extended to a word. -/
def sxWord (w x : Nat) : Word := toWord (sxInt w x)

/-- The low `w` bits zero-extended to a word. -/
def zxWord (w x : Nat) : Word := BitVec.ofNat 64 (x % 2 ^ w)

/-- A number as a word, modulo 2^64. -/
def word (x : Nat) : Word := BitVec.ofNat 64 x

/-- The address `a + 2 × off` of a transfer, modulo 2^56 (R76, R121). -/
def relTarget (a : Word) (off : Int) : Word := word (wrap 56 ((a.toNat : Int) + 2 * off))

/-- The sub-elements of width `w` of a word, sub-element 0 first (R98). -/
def elems (w : Nat) (x : Word) : List Nat :=
  (List.range (64 / w)).map (fun k => x.toNat / 2 ^ (w * k) % 2 ^ w)

/-- A word from sub-elements of width `w`, each narrowed to `w` bits. -/
def ofElems (w : Nat) : List Nat → Nat
  | [] => 0
  | x :: r => x % 2 ^ w + 2 ^ w * ofElems w r

/-- Sub-element `k` of width `w`. -/
def elem (w k : Nat) (x : Word) : Nat := x.toNat / 2 ^ (w * k) % 2 ^ w

/-- The number of true entries. -/
def countTrue (l : List Bool) : Nat := (l.filter id).length

/-- Position of the highest set bit plus one; zero for zero. -/
def bitLength (x : Nat) : Nat := if x = 0 then 0 else Nat.log2 x + 1

/-- The insertion of a number into a rising list without repeats. -/
def insertNat (x : Nat) : List Nat → List Nat
  | [] => [x]
  | y :: r => if x < y then x :: y :: r else if x = y then y :: r else y :: insertNat x r

/-- A rising list without repeats of the same numbers. -/
def sortNat (l : List Nat) : List Nat := l.foldr insertNat []

/-- The least number of a list. -/
def minNat : List Nat → Option Nat
  | [] => none
  | x :: r => match minNat r with
    | none => some x
    | some y => some (if x ≤ y then x else y)

/-! ### Byte memories -/

/-- One byte of a memory whose unlisted addresses read as zero (log 8, R206). -/
def memByte : List Host.Cell → Nat → Byte
  | [], _ => 0
  | (x, c) :: r, a => if x = a then c else memByte r a

/-- Writes one byte, keeping the canonical form: addresses rising, no byte listed that equals zero. -/
def memSet : List Host.Cell → Nat → Byte → List Host.Cell
  | [], a, b => if b = 0 then [] else [(a, b)]
  | (x, c) :: r, a, b =>
    if a < x then (if b = 0 then (x, c) :: r else (a, b) :: (x, c) :: r)
    else if a = x then (if b = 0 then r else (a, b) :: r)
    else (x, c) :: memSet r a b

/-- `n` bytes from `a` in ascending address order. -/
def memRead (m : List Host.Cell) (a : Nat) : Nat → List Byte
  | 0 => []
  | n + 1 => memByte m a :: memRead m (a + 1) n

/-- Writes bytes at ascending addresses. -/
def memWrite (m : List Host.Cell) (a : Nat) : List Byte → List Host.Cell
  | [] => m
  | b :: r => memWrite (memSet m a b) (a + 1) r

/-- The little-endian number in `n` bytes at `a` (R4). -/
def memNat (m : List Host.Cell) (a n : Nat) : Nat := leNat (memRead m a n)

/-- Writes the `n` low bytes of a number, little-endian. -/
def memWriteNat (m : List Host.Cell) (a n x : Nat) : List Host.Cell := memWrite m a (leBytes n x)

/-- Writes listed cells one after another. -/
def memPatch (m : List Host.Cell) (cells : List Host.Cell) : List Host.Cell :=
  cells.foldl (fun acc c => memSet acc c.1 c.2) m

/-- Drops the bytes of `[a, a + n)`. -/
def memDrop (m : List Host.Cell) (a n : Nat) : List Host.Cell := m.filter (fun c => c.1 < a || a + n ≤ c.1)

/-- The canonical form: addresses strictly rising, and no listed byte equal to what an unlisted address reads as. -/
def Memory.wf : List Host.Cell → Bool
  | [] => true
  | [(_, b)] => b != 0
  | (x, b) :: (y, c) :: r => b != 0 && decide (x < y) && Memory.wf ((y, c) :: r)

end Sys2Proof.Machine
end

