-- ==== Sys2Proof/Machine/Num.lean ====
section
/-! DEFINITION. Number formats: what a pattern stands for, exact arithmetic, rounding, overflow, NaNs and
stochastic draws (chapter 10). -/

namespace Sys2Proof.Machine

/-- A value: a NaN with its sign and fraction of `fw` bits, an infinity, or (−1)^neg × m × 2^e. -/
inductive Num where
  | nan (neg : Bool) (f fw : Nat)
  | inf (neg : Bool)
  | fin (neg : Bool) (m : Nat) (e : Int)
  deriving DecidableEq, Repr

/-- How a format uses its largest exponent (Table 10.1). -/
inductive FmtKind where
  | ieee                 -- infinities and NaNs
  | e4m3                 -- one NaN fraction, no infinity
  | plain                -- neither
  deriving DecidableEq, Repr

/-- A floating-point layout (Table 10.1). -/
structure Fmt where
  ew   : Nat
  fw   : Nat
  bias : Int
  kind : FmtKind
  deriving DecidableEq, Repr

def fmtF32 : Fmt := ⟨8, 23, 127, .ieee⟩
def fmtBf16 : Fmt := ⟨8, 7, 127, .ieee⟩
def fmtF16 : Fmt := ⟨5, 10, 15, .ieee⟩
def fmtE4m3 : Fmt := ⟨4, 3, 7, .e4m3⟩
def fmtE5m2 : Fmt := ⟨5, 2, 15, .ieee⟩
def fmtE3m2 : Fmt := ⟨3, 2, 3, .plain⟩
def fmtE2m3 : Fmt := ⟨2, 3, 1, .plain⟩
def fmtE2m1 : Fmt := ⟨2, 1, 1, .plain⟩

/-- The layout of a floating-point type code, or of an MX type's element (Tables 5.8 and 10.3). -/
def fmtOf (t : Nat) : Option Fmt :=
  match t with
  | 0x08 => some fmtF32
  | 0x09 => some fmtBf16
  | 0x0A => some fmtF16
  | 0x0B | 0x10 => some fmtE4m3
  | 0x0C | 0x11 => some fmtE5m2
  | 0x12 => some fmtE3m2
  | 0x13 => some fmtE2m3
  | 0x14 => some fmtE2m1
  | _ => none

/-- The width of a layout. -/
def Fmt.width (f : Fmt) : Nat := 1 + f.ew + f.fw

/-- The pattern of sign, exponent and fraction. -/
def Fmt.pack (f : Fmt) (neg : Bool) (e frac : Nat) : Nat :=
  (if neg then 2 ^ (f.ew + f.fw) else 0) + e * 2 ^ f.fw + frac

/-- The value of a pattern (R160, R161). -/
def Fmt.read (f : Fmt) (x : Nat) : Num :=
  let frac := x % 2 ^ f.fw
  let e := x / 2 ^ f.fw % 2 ^ f.ew
  let neg := nbit x (f.ew + f.fw)
  let top := 2 ^ f.ew - 1
  if e == top && f.kind == .ieee then (if frac = 0 then .inf neg else .nan neg frac f.fw)
  else if e == top && f.kind == .e4m3 && frac == 2 ^ f.fw - 1 then .nan neg frac f.fw
  else if e = 0 then .fin neg frac (1 - f.bias - (f.fw : Int))
  else .fin neg (2 ^ f.fw + frac) ((e : Int) - f.bias - (f.fw : Int))

/-- The largest finite pattern of a sign (Table 10.2). -/
def Fmt.max (f : Fmt) (neg : Bool) : Nat :=
  match f.kind with
  | .ieee => f.pack neg (2 ^ f.ew - 2) (2 ^ f.fw - 1)
  | .e4m3 => f.pack neg (2 ^ f.ew - 1) (2 ^ f.fw - 2)
  | .plain => f.pack neg (2 ^ f.ew - 1) (2 ^ f.fw - 1)

/-- A NaN in the layout (R173): fraction cut or padded at the top, quiet bit set. A layout without NaN
gives 0; what an MX block does then is its caller's. -/
def Fmt.nan (f : Fmt) (neg : Bool) (frac fw : Nat) : Nat :=
  match f.kind with
  | .ieee =>
    let g := if fw ≤ f.fw then frac * 2 ^ (f.fw - fw) else frac / 2 ^ (fw - f.fw)
    f.pack neg (2 ^ f.ew - 1) (if nbit g (f.fw - 1) then g else g + 2 ^ (f.fw - 1))
  | .e4m3 => f.pack neg (2 ^ f.ew - 1) (2 ^ f.fw - 1)
  | .plain => 0

/-- The default NaN (Table 10.9): positive, the quiet bit alone. -/
def Num.dflt : Num := .nan false 1 1

/-- Whether IEEE 754 overflows to infinity in a rounding mode: 0 RNE, 1 RZ, 2 RDN, 3 RUP (R171). -/
def ovfInf (rm : Nat) (neg : Bool) : Bool := rm == 0 || (rm == 3 && !neg) || (rm == 2 && neg)

/-- The overflow result of Table 10.8. -/
def Fmt.overflow (f : Fmt) (rm : Nat) (sat neg : Bool) : Nat :=
  if sat || !ovfInf rm neg then f.max neg
  else match f.kind with
    | .ieee => f.pack neg (2 ^ f.ew - 1) 0
    | .e4m3 => f.nan neg 0 0
    | .plain => f.max neg

/-- An infinite input in the layout (R171). -/
def Fmt.ofInf (f : Fmt) (sat neg : Bool) : Nat := f.overflow 0 sat neg

/-- Whether a discarded part rounds away from zero: `n` is the kept magnitude, `r` the remainder of
`2^sh`, `st` says that a little more than the remainder was discarded. `draw` is a stochastic draw (R174). -/
def roundUp (rm : Nat) (neg : Bool) (n r sh : Nat) (st : Bool) (draw : Option Nat) : Bool :=
  if r = 0 && !st then false else
  match draw with
  | some u => decide (u * 2 ^ sh < r * 2 ^ 24)
  | none =>
    match rm with
    | 0 => let h := 2 ^ sh
           if 2 * r < h then false else if 2 * r > h || st then true else n % 2 == 1
    | 1 => false
    | 2 => neg
    | _ => !neg

/-- Rounds the magnitude m × 2^e (and a little more when `st`) to a multiple of 2^q: the multiple. -/
def roundAt (rm : Nat) (neg : Bool) (m : Nat) (e q : Int) (st : Bool) (draw : Option Nat) : Nat :=
  if q ≤ e then m * 2 ^ (e - q).toNat + (if st && roundUp rm neg 0 0 1 true none then 1 else 0)
  else
    let sh := (q - e).toNat
    let n := m / 2 ^ sh
    if roundUp rm neg n (m % 2 ^ sh) sh st draw then n + 1 else n

/-- The grid spacing exponent that a magnitude meets in a layout (R161, R171). -/
def Fmt.quantum (f : Fmt) (m : Nat) (e : Int) : Int :=
  let low := 1 - f.bias - (f.fw : Int)
  let q := (bitLength m : Int) - 1 + e - (f.fw : Int)
  if q < low then low else q

/-- Rounds a finite magnitude into the layout (R171, R172, R174). -/
def Fmt.roundMag (f : Fmt) (rm : Nat) (sat neg : Bool) (m : Nat) (e : Int) (st : Bool) (draw : Option Nat) : Nat :=
  if m = 0 then f.pack neg 0 0 else
  let q := f.quantum m e
  let n := roundAt rm neg m e q st draw
  let om := if draw.isSome then 0 else rm
  if n < 2 ^ f.fw then f.pack neg 0 n
  else
    let (n', q') := if n = 2 ^ (f.fw + 1) then (2 ^ f.fw, q + 1) else (n, q)
    let ex := q' + (f.fw : Int) + f.bias
    let x := f.pack neg ex.toNat (n' - 2 ^ f.fw)
    let lim := f.max neg
    if ex > ((2 ^ f.ew : Nat) : Int) - 1 || x > lim then f.overflow om sat neg else x

/-- A value rounded into the layout (R171 to R174). -/
def Fmt.round (f : Fmt) (rm : Nat) (sat : Bool) (draw : Option Nat) : Num → Nat
  | .nan s fr fw => f.nan s fr fw
  | .inf s => f.ofInf sat s
  | .fin s m e => f.roundMag rm sat s m e false draw

/-! ### Exact arithmetic (R171, R177, R179) -/

/-- The first NaN among operands, in the entry's order (R177). -/
def firstNan : List Num → Option Num
  | [] => none
  | .nan s f w :: _ => some (.nan s f w)
  | _ :: r => firstNan r

/-- The sign of an exact zero sum (R179). -/
def zeroSign (rm : Nat) (a b : Bool) : Bool := if a && b then true else if !a && !b then false else rm == 2

/-- A signed magnitude as an integer. -/
def sgn (neg : Bool) (m : Nat) : Int := if neg then -(m : Int) else (m : Int)

/-- The exact sum of two finite values, with the sign of a zero by R179. -/
def finAdd (rm : Nat) (s1 : Bool) (m1 : Nat) (e1 : Int) (s2 : Bool) (m2 : Nat) (e2 : Int) : Num :=
  let e := if e1 ≤ e2 then e1 else e2
  let x := sgn s1 (m1 * 2 ^ (e1 - e).toNat) + sgn s2 (m2 * 2 ^ (e2 - e).toNat)
  if x = 0 then
    (if m1 = 0 && m2 = 0 then .fin (zeroSign rm s1 s2) 0 0 else .fin (rm == 2) 0 0)
  else .fin (x < 0) x.natAbs e

/-- a + b, NaN order a, b. -/
def numAdd (rm : Nat) (a b : Num) : Num :=
  match firstNan [a, b] with
  | some n => n
  | none =>
    match a, b with
    | .inf s, .inf t => if s == t then .inf s else Num.dflt
    | .inf s, _ => .inf s
    | _, .inf t => .inf t
    | .fin s m e, .fin t n f => finAdd rm s m e t n f
    | _, _ => Num.dflt

/-- Negation; a NaN keeps its sign. -/
def numNeg : Num → Num
  | .nan s f w => .nan s f w
  | .inf s => .inf (!s)
  | .fin s m e => .fin (!s) m e

/-- a × b, NaN order a, b; 0 × inf is invalid. -/
def numMul (a b : Num) : Num :=
  match firstNan [a, b] with
  | some n => n
  | none =>
    match a, b with
    | .inf s, .inf t => .inf (s != t)
    | .inf s, .fin t m _ => if m = 0 then Num.dflt else .inf (s != t)
    | .fin s m _, .inf t => if m = 0 then Num.dflt else .inf (s != t)
    | .fin s m e, .fin t n f => .fin (s != t) (m * n) (e + f)
    | _, _ => Num.dflt

/-- a × b + c exactly, NaN order a, b, c (R177, R184). -/
def numFma (rm : Nat) (a b c : Num) : Num :=
  match firstNan [a, b, c] with
  | some n => n
  | none =>
    match numMul a b with
    | .nan s f w => .nan s f w
    | p => numAdd rm p c

/-- Comparison of two values that are not NaN: −0 equals +0 (R141). -/
def numCmp (a b : Num) : Ordering :=
  match a, b with
  | .inf s, .inf t => if s == t then .eq else if s then .lt else .gt
  | .inf s, _ => if s then .lt else .gt
  | _, .inf t => if t then .gt else .lt
  | .fin s m e, .fin t n f =>
    let g := if e ≤ f then e else f
    compare (sgn s (m * 2 ^ (e - g).toNat)) (sgn t (n * 2 ^ (f - g).toNat))
  | _, _ => .eq

/-- Whether a value is a NaN. -/
def Num.isNan : Num → Bool
  | .nan _ _ _ => true
  | _ => false

/-- Whether a value is zero. -/
def Num.isZero : Num → Bool
  | .fin _ m _ => m == 0
  | _ => false

/-- The sign of a value. -/
def Num.neg : Num → Bool
  | .nan s _ _ => s
  | .inf s => s
  | .fin s _ _ => s

/-- The smaller of two values, NaN order a, b; −0 is below +0 (R178). -/
def numMin (a b : Num) : Num :=
  match firstNan [a, b] with
  | some n => n
  | none => match numCmp a b with
    | .lt => a
    | .gt => b
    | .eq => if a.isZero && b.isZero then (if a.neg then a else b) else a

/-- The larger of two values, NaN order a, b; −0 is below +0 (R178). -/
def numMax (a b : Num) : Num :=
  match firstNan [a, b] with
  | some n => n
  | none => match numCmp a b with
    | .gt => a
    | .lt => b
    | .eq => if a.isZero && b.isZero then (if a.neg then b else a) else a

/-- A finite value rounded to an integer (R188, R189). -/
def finToInt (rm : Nat) (neg : Bool) (m : Nat) (e : Int) (draw : Option Nat) : Int :=
  sgn neg (roundAt rm neg m e 0 false draw)

/-- An integer saturated to a type's range. -/
def satInt (signed : Bool) (w : Nat) (x : Int) : Int :=
  let lo : Int := if signed then -((2 ^ (w - 1) : Nat) : Int) else 0
  let hi : Int := if signed then ((2 ^ (w - 1) : Nat) : Int) - 1 else ((2 ^ w : Nat) : Int) - 1
  if x < lo then lo else if x > hi then hi else x

/-- An integer as a value. -/
def intNum (x : Int) : Num := .fin (x < 0) x.natAbs 0

/-- A NaN written back in the layout it came from is quieted; any other pattern stays (R177, R178). -/
def Fmt.same (f : Fmt) (x : Num) : Nat := f.round 0 false none x

/-! ### Stochastic draws (R175) -/

/-- The 24-bit draw u of R175. -/
def srDraw (k n lc : Nat) (tid e : Nat) : Nat :=
  let M := 2 ^ 64
  let x := (k + (n + 1) * 0x9E3779B97F4A7C15) % M
  let x := (x ^^^ ((lc * 0xD6E8FEB86659FD93) % M)) ^^^ (tid * 2 ^ 8 + e)
  let x := ((x ^^^ (x / 2 ^ 30)) * 0xBF58476D1CE4E5B9) % M
  let x := ((x ^^^ (x / 2 ^ 27)) * 0x94D049BB133111EB) % M
  let x := x ^^^ (x / 2 ^ 31)
  x / 2 ^ 40 % 2 ^ 24

end Sys2Proof.Machine
end

