-- ==== Sys2Proof/Machine/State.lean ====
section
/-! DEFINITION. The state of one package as plain data, its reset value, and the reasons a step can stop. -/

namespace Sys2Proof.Machine

/-! ### Threads and groups (chapters 07, 17, 21) -/

/-- A loop-stack entry (R118, Table 7.7). -/
structure LoopEntry where
  start : BitVec 56
  stop  : BitVec 56
  count : BitVec 32
  deriving DecidableEq, Repr

/-- TXS, the transaction state of a thread (R306, Table 17.1). -/
inductive TxState where
  | none_ | opened | doomed
  deriving DecidableEq, Repr

/-- Where a thread is held: it has arrived at a team barrier, a cluster barrier or a TOKEN.pass, or its
group waits in WAITV on the object at a physical address, or in TOKEN.wait, of a REFORM launch (R311, R317, R115). -/
inductive Held where
  | bar (id : Nat)
  | cbar (id : Nat)
  | token
  | waitv (pa va pc : Nat) (acq : Bool) (cp wp : Nat)  -- WAITV at `pc` on an object of the package's memory, with its policy (R214, R313)
  | tokenWait
  | peer (owner pa va pc : Nat) (acq : Bool) (cp wp : Nat)  -- WAITV at `pc` on an object of a peer's memory, with its policy (R215, R313)
  | ccWait (n since : Nat)               -- CBAR.copy with a count, and when it began to wait (R312)
  | filing                               -- a REFORM that found no bin (R115)
  deriving DecidableEq, Repr

/-- A region entry (R347): PC, snapshot of the loop stack, snapshot of TXS. -/
structure RegionEntry where
  pc    : Word
  loops : List LoopEntry
  txs   : TxState
  deriving DecidableEq, Repr

/-- A sector that a lane read in its transaction, with the value read (R307). -/
structure TxRead where
  lane   : Nat
  sector : Nat
  bytes  : List Byte
  deriving DecidableEq, Repr

/-- Bytes that a lane has written in its transaction, with the order number of the store, its address, and the policy and
partition of the access (R214, R307). -/
structure TxWrite where
  id    : Nat
  lane  : Nat
  va    : Nat
  pa    : Nat
  cp    : Nat
  wp    : Nat
  bytes : List Byte
  deriving DecidableEq, Repr

/-- One thread (R98 to R100, R306, R347). An unlisted v-register holds zero; bit 0 of `p` is p0. -/
structure Thread where
  live  : Bool
  tid   : Nat
  v     : Tab Word
  p     : BitVec 128
  pc    : Word
  loops : List LoopEntry
  entry : RegionEntry
  txs   : TxState
  txw   : Word
  held  : Option Held
  bad   : List Nat                   -- v-registers whose code word holds an error that cannot be corrected (R358)
  rmt   : Bool                       -- it has left a group that had a remote atomic since its region entry (R285)
  far   : Bool                       -- it has read a peer's memory, so that its FENCEs are taken at .sys (R269)
  wrote : Bool                       -- it has written a peer's memory, so that its FENCE.sc is taken at .sys (R269, R300)
  filedR : List TxRead               -- the read and write sets that it takes along while a REFORM bin holds it (R115, R307)
  filedW : List TxWrite
  filed : Nat                        -- when a REFORM bin took it (R116)
  deriving DecidableEq, Repr

/-- The destination of a return-buffer slot: a v-register, an s-register or a predicate (R105). -/
inductive Dest where
  | v (n : Nat)
  | s (n : Nat)
  | p (n : Nat)
  deriving DecidableEq, Repr

/-- A trap's cause and detail (Tables 21.1 and 21.2). -/
structure TrapInfo where
  cause : Nat
  taddr : Word
  tinfo : Word
  deriving DecidableEq, Repr

/-- What a return-buffer slot holds: nothing yet, its results by lane (an s-register's stands at 0), or
the failure of its instruction (R105, R108). -/
inductive SlotState where
  | pending
  | filled (res : List (Nat × Word))
  | failed (t : TrapInfo)
  deriving DecidableEq, Repr

/-- A return-buffer slot: destination, enabled lanes, the lanes that were active at the instruction (R344), the destination's value
by lane at the start of the stretch (prior of R105; an s-register's stands at 0), the instruction's order number and address. -/
structure Slot where
  dest  : Dest
  lanes : List Nat
  act   : List Nat
  old   : List (Nat × Word)
  id    : Nat
  pc    : Word
  st    : SlotState
  deriving DecidableEq, Repr

/-- What is saved of one handler thread (R344): next PC, loop stack, TXS, TXW. -/
structure SavedThread where
  lane  : Nat
  pc    : Word
  loops : List LoopEntry
  txs   : TxState
  txw   : Word
  deriving DecidableEq, Repr

/-- The trap record (R344, R345): RESUME, the stretch and the registers at its start, the handler threads, and the TXS
and TXW of the others. -/
structure TrapRecord where
  resume  : Word
  park    : Bool
  stretch : List Slot
  start   : List (Tab Word × BitVec 128)
  startS  : Tab Word
  threads : List SavedThread
  others  : List (Nat × TxState × Word)
  deriving DecidableEq, Repr

/-- Why a group waits at issue, holding nothing (R64, R110, R112 and the entries that name the wait). -/
inductive Stall where
  | ott                              -- no outstanding-transaction entry (R110)
  | walk (pages : List Nat)          -- translation misses by page base (R64)
  | missFull                         -- 256 pending misses on the die (R64)
  | detFull                          -- the DET store buffer is full (R315)
  | token                            -- the commit token (R315, R316)
  | channel                          -- no IDLE copy channel (R232)
  | streamRoom                       -- OUT would pass 1,024 (R276)
  | bankRole                         -- the waits of R209
  | engineRoom                       -- the request table is full (R244)
  | fault                            -- a page fault in handler mode or under R285
  | journal (pos : Nat)              -- JSYNC, on a journal position (R373)
  | order                            -- earlier accesses that the entry names
  | quota                            -- the lost-locality quota (R113)
  | ccWait                           -- CBAR.copy (R312)
  deriving DecidableEq, Repr

/-- What a blocked group waits in (R104, R112). -/
inductive Block where
  | exit | waitv | fence | tlbinv
  deriving DecidableEq, Repr

/-- The issue status of a group context (R104, R112, R347). -/
inductive GStatus where
  | running                              -- may issue
  | parking (blocking : Bool) (pc next : Word) (lanes : List Nat)  -- at a park point, waiting for the return buffer
  | blocked (b : Block) (w : LongWord) (len : Nat) (d16 : Option D16Word)  -- in a blocking instruction, after its park
  | pageFault (t : TrapInfo) (handler : Bool) (entry : Option Nat) (place : Option (Word × List Nat)) (back : GStatus)  -- a fault is
                                         -- with the hub firmware, of an instruction at issue, of an entry of the table, or of a slot
                                         -- at its park, whose address and active lanes stand in `place`; and what follows (R62, R346, R285)
  | trapping (t : TrapInfo) (tpc resume : Word) (park latched : Bool) (lanes : List Nat)  -- a trap waits for outstanding local long
                                         -- results that another unit brings (R344)
  | halted                               -- its team halted (R338)
  deriving DecidableEq, Repr

/-- A translation (R54, R57): type, permissions, policy, and the page it holds for. -/
structure Xl where
  mt   : Nat
  w    : Bool
  x    : Bool
  z    : Bool
  wp   : Nat
  cp   : Nat
  aux  : Nat
  va0  : Nat
  size : Nat
  base : Nat
  heap : Bool
  deriving DecidableEq, Repr

/-- One group context (R99, R112, R137, R139, R342, R344, R363, R368, R399). -/
structure Group where
  threads  : List Thread
  sreg     : Tab Word
  rb       : List Slot
  start    : List (Tab Word × BitVec 128)  -- v-registers and predicates by lane at the start of the stretch (R105)
  startS   : Tab Word                -- s-registers at the start of the stretch
  lc       : Word
  lcr      : Word
  prio     : Nat
  status   : GStatus
  stall    : Option (Stall × Nat)    -- the wait and when it began (R110)
  parked   : Bool                    -- the blocking instruction at the issue PC has completed its park
  yielded  : Option (List Nat)       -- after a YIELD: the contexts that have yet to issue once (R131)
  age      : Nat                     -- stamp of the last issue (R112)
  since    : Nat                     -- the count of issues of its core at its last issue (R112)
  waited   : Bool                    -- it has waited for something else than its turn since that issue (R112)
  order    : Nat                     -- when the context was allocated (R113)
  tcause   : Word
  tpc      : Word
  taddr    : Word
  tinfo    : Word
  hm       : Option TrapRecord
  errstat  : Word
  errAddr  : Word                    -- TADDR and TINFO of the error latched first (R343)
  errInfo  : Word
  tgtctx   : BitVec 12
  gjp      : Word
  txr      : List TxRead
  txw      : List TxWrite
  rmtOp    : Bool                    -- a remote ATOM, RED or ATOMX since the region entry (R285)
  poisonPc : List Word               -- the instructions that have met EUNCORR since the last park point (R347)
  walked   : List (Nat × Nat)        -- page bases whose walk failed, with the fault kind (R61)
  regionAt : Nat                     -- order number at the region entry: what was issued since has none lower
  granted  : Bool                    -- a freed table entry is kept for the group (R110)
  tags     : List Nat                -- victim tags (R113)
  sbad     : List Nat                -- s-registers that hold an error that cannot be corrected (R358)
  deriving DecidableEq, Repr

/-! ### Accesses in flight (chapters 07, 12, 13, 15, 17) -/

/-- A scope (Table 16.1). -/
inductive Scope where
  | grp | team | clus | dev | sys
  deriving DecidableEq, Repr

/-- The orders an access carries (Table 16.2) and its scope; a hint replaces CP (R214). -/
structure Ord where
  acq   : Bool
  rel   : Bool
  sc    : Bool
  scope : Scope
  hint  : Option Nat
  deriving DecidableEq, Repr

/-- One lane's access to memory: its virtual address and translation. -/
structure Acc where
  lane : Nat
  va   : Nat
  xl   : Xl
  deriving DecidableEq, Repr

/-- A scratchpad access: the lane, the rank's core and the offset (R227). -/
structure SAcc where
  lane : Nat
  core : Nat
  off  : Nat
  deriving DecidableEq, Repr

/-- An atomic lane: address, operand and the new value of cas (R303). -/
structure AtomLane where
  acc : Acc
  b   : Word
  n   : Word
  deriving DecidableEq, Repr

/-- An atomic lane in a scratchpad. -/
structure SAtomLane where
  acc : SAcc
  b   : Word
  n   : Word
  deriving DecidableEq, Repr

/-- What an entry of the outstanding-transaction table still has to do (R109). -/
inductive Work where
  | values                                                    -- results already known
  | load (ty : Nat) (retain : Bool) (tx : List Nat) (lanes : List Acc)  -- LDC retains; the lanes in transaction (R307)
  | store (ty : Nat) (lanes : List (Acc × Word))
  | loadBlock (ty : Nat) (lanes : List (List (Acc × Nat)))    -- the pieces of payload and metadata, page by page (R229)
  | storeBlock (ty : Nat) (lanes : List (List (Acc × Nat) × List Byte))
  | sload (ty : Nat) (lanes : List SAcc)
  | sstore (ty : Nat) (lanes : List (SAcc × Word))
  | atom (op ty stream : Nat) (lanes : List AtomLane)
  | satom (op ty : Nat) (lanes : List SAtomLane)
  | cmnt (op : Nat) (lines : List Acc)
  | pref (lvl lines : Nat) (lanes : List Nat)
  | arrive (acc : Acc) (amount : Nat)
  | publ (acc : Acc) (scope : Scope)
  | launch (lanes : List (Nat × Acc)) (kept : Option (List Word))  -- the record of the first lane once read (R16)
  | cwait (chan gen : Nat) (trapForm : Bool)
  | mrsv (id : Nat)
  | engine (handle : Nat)                                     -- an engine command is in the table (R244)
  | sclose (stream : Nat)
  | emit (lanes : List (Acc × Word)) (ty : Nat) (thr : Nat)
  | jseed
  | selftest (pattern : Nat) (arg : Word)
  | remote (left : List Nat)                                  -- lanes sent to a peer and not yet answered
  | buffered                                                  -- the write stands in the DET store buffer (R315)
  | inval (lines : List Nat)                                  -- written; invalidations of port buffers are pending (R299)
  | done                                                      -- nothing left; the entry is to be released
  deriving DecidableEq, Repr

/-- An entry of the outstanding-transaction table (R109, R110). `got` holds results of lanes that have
returned while others are outstanding, `bad` the failure of the lowest failed lane so far. -/
structure OttEntry where
  id    : Nat
  grp   : Nat
  pc    : Word
  long  : Bool
  lanes : List Nat
  act   : List Nat                   -- the lanes that were active at the instruction (R344)
  unif  : Bool
  tids  : List (Nat × Nat)           -- the threads that it is in the program order of, as (lane, TID) (R290)
  ord   : Ord
  work  : Work
  got   : List (Nat × Word)
  buf   : List (Nat × Nat × List Byte)  -- bytes of a lane's block that have returned, by their offset in it
  bad   : Option (Nat × TrapInfo)
  deriving DecidableEq, Repr

/-- A write-combining entry (R217): peer, line, bytes by offset, context mask, transport sequence once sent, and
the virtual addresses that were stored to by group, instruction and lane, for TADDR (R219). -/
structure WcEntry where
  peer  : Nat
  line  : Nat
  bytes : Tab Byte
  ctxs  : List Nat
  seq   : Option Nat
  stamp : Nat
  hint  : Option Nat                 -- the hint of the store that last wrote into it (R214)
  cp    : Nat                        -- the CP and WP of the page that it lies in (R59)
  wp    : Nat
  tids  : List Nat                   -- the threads that stored into it (R290)
  vas   : List (Nat × Nat × Nat × Nat)
  deriving DecidableEq, Repr

/-- A write sent at a preemption whose answer is awaited: its transport sequence, the group contexts of its mask, each with
the address that it stored to, and its threads (R219, R290). -/
structure SentWrite where
  id   : Nat
  ctxs : List (Nat × Option Word)
  tids : List Nat
  deriving DecidableEq, Repr

/-- A buffered global write of a team without the commit token (R315). -/
structure DetEntry where
  id    : Nat
  grp   : Nat
  pc    : Word
  region : Nat
  lanes : List Nat
  unif  : Bool
  tids  : List (Nat × Nat)
  ord   : Ord
  work  : Work
  deriving DecidableEq, Repr

/-- A cached L1 line (R212): line number (PA div 128), data, mark (0 normal, 1 evict-first, 2 retain). -/
structure L1Line where
  line : Nat
  bank : Nat                         -- the bank group of role 01 that holds it (R205, R209)
  grp  : Nat                         -- the group context whose load filled it (R113)
  mark : Nat
  data : List Byte
  bad  : List Nat                    -- 8-byte words of it that hold an error that cannot be corrected, with 16 × STRUCT added
                                     -- where the error came with the line from memory (R358, R362)
  deriving DecidableEq, Repr

/-! ### Copy channels (R232 to R239) -/

/-- A channel's state (Table 13.2). -/
inductive ChState where
  | idle | active | done | stopped | cancelled
  deriving DecidableEq, Repr

/-- What a channel copies. -/
inductive CopyKind where
  | cpy | cpym | cpyg | cpygSpad
  deriving DecidableEq, Repr

/-- A copy channel: command, pointers, held translations, and what CWAIT is to report. -/
structure Channel where
  st    : ChState
  gen   : Nat
  kind  : CopyKind
  grp   : Nat
  ctx   : Nat
  src   : Nat
  dst   : Nat
  len   : Nat
  mask  : Nat
  hint  : Nat
  p     : Nat
  fkind : Nat
  fva   : Nat
  pubId : Option Nat
  held  : List Xl
  olds  : List (Nat × Byte)          -- by offset, bytes of the source that a block write has replaced since another part of the
                                     -- block was read: they are delivered as they were (R168, R230)
  after : Nat                        -- accesses of the issuing group with a lower number come first (R236)
  tids  : List Nat                   -- and those of the threads that issued the command (R290)
  open_ : Bool                       -- the open count of R236 still counts this command
  waitRemote : Bool
  paused : Bool
  deriving DecidableEq, Repr

/-! ### The matrix engine (chapter 14) -/

/-- An operand-buffer reservation (R243, Table 14.6). -/
structure Reservation where
  id   : Nat
  offs : Nat
  len  : Nat
  moff : Nat
  ty   : Nat
  b16  : Bool
  inl  : Bool
  src  : Nat                         -- the address that its bytes are copied from
  ready : Bool                       -- its copy is complete
  grp  : Nat
  stamp : Nat
  deriving DecidableEq, Repr

/-- A pass kept in a tile's log (R254): its parameter words, its register operands, the records that it read with what
they held, and the 8-byte units that it read of scratchpads (space 2 × core) and operand buffers (2 × core + 1). -/
structure PassLog where
  words : List Word
  aop   : List Byte
  bop   : List Byte
  recs  : List (Nat × Nat)
  kept  : List (Nat × Reservation)
  units : List (Nat × Nat × Word)
  deriving DecidableEq, Repr

/-- A physical accumulator tile (R241, R242, R254): its binding (team's core, logical id, number of the
binding), the elements (s, e) by row × 128 + column, the shadow, the checksum of each row and column as a pair of the same
form, the log of its passes, the corrections since it was bound, and the TAG of its last pass. What is unlisted
is (−0, −0). -/
structure Tile where
  bound  : Option (Nat × Nat × Nat)
  elems  : Tab (BitVec 32 × BitVec 32)
  shadow : Tab (BitVec 32 × BitVec 32)
  ckRow  : Tab (BitVec 32 × BitVec 32)
  ckCol  : Tab (BitVec 32 × BitVec 32)
  log    : List PassLog
  corr   : Nat
  tag    : Nat
  deriving DecidableEq, Repr

/-- An engine command in the request table (R244). -/
inductive EngCmd where
  | mma (words : List Word) (aop bop : List Byte)
  | mdrain (flags : Nat) (desc dest : Word)
  | mzero
  | msave (va : Word)
  | mload (va : Word)
  | mchk
  | mrelTiles
  | mrelBuf (id : Nat)
  | selftest
  | written (lines : List Nat)                                -- written to memory; invalidations of port buffers are pending (R299)
  deriving DecidableEq, Repr

/-- A request-table entry (R244, R245): who issued it, its entry of the outstanding-transaction table, its
handle (R260), the tiles that it names by logical id and binding, the records, with what they held, and scratchpad words
that it names, the values that units of its operands had before writes made during its pass, and its translations. -/
structure EngEntry where
  core  : Nat
  grp   : Nat
  ott   : Nat
  pc    : Word
  stamp : Nat
  handle : Nat
  prio  : Nat
  aged  : Bool
  cmd   : EngCmd
  tiles : List (Nat × Nat)
  recs  : List (Nat × Nat)
  kept  : List (Nat × Reservation)
  words : List (Nat × Nat)
  olds  : List (Nat × Nat × Word)
  stage : Nat                        -- bytes of the staging array (R249)
  xls   : List Xl
  ctx   : Nat
  tok   : Bool                       -- a global MDRAIN of a deterministic launch (R245, R263)
  deriving DecidableEq, Repr

/-- A failed engine command whose trap has not been raised yet (R267), with its destination address. -/
structure EngFail where
  core : Nat
  grp  : Nat
  handle : Nat
  stamp : Nat
  pc   : Word
  dest : Word
  trap : TrapInfo
  deriving DecidableEq, Repr

/-- One quad's matrix engine (R241, R244, R361). -/
structure Engine where
  tiles   : List Tile
  gens    : Tab Nat
  table   : Tab EngEntry
  granted : Option Nat
  disabled : Bool
  keep    : List Nat                 -- cores whose team was resident when the engine was disabled (R361)
  fails   : List EngFail
  deriving DecidableEq, Repr

/-! ### Teams -/

/-- The engine state of a preempted team (R242, R268): its tiles, its ungranted commands in table order, its
failures not yet raised, and the GENs of its quad's entries, so that its handles stay valid. -/
structure SavedEngine where
  gens  : Tab Nat
  tiles : List Tile
  cmds  : List EngEntry
  fails : List EngFail
  deriving DecidableEq, Repr

/-- The step of Table 25.1 an ending team stands at (R382). -/
inductive EndStep where
  | none_ | channels | engine | window
  deriving DecidableEq, Repr

/-- A REFORM bin (R115): its key, its threads with the LC and LCR each carries, and when the oldest of them was filed. -/
structure Bin where
  pc      : Word
  held    : Bool
  threads : List (Thread × Word × Word)
  stamp   : Nat
  deriving DecidableEq, Repr

/-- What a halting team posts (R338, R344): the trap, its PC and the group's GIX. -/
structure HaltRec where
  trap : TrapInfo
  pc   : Word
  gix  : Nat
  deriving DecidableEq, Repr

/-- A resident team (R12, R21, R205, R311 to R317, R382). -/
structure Team where
  launch  : Nat                      -- launch slot
  cix     : Nat                      -- CIX as CSR 0x003 shows it
  tix     : Nat
  groups  : Tab Group
  spad    : List Host.Cell
  spadBad : List Nat                 -- scratchpad words that hold an error that cannot be corrected (R358)
  opBad   : List Nat                 -- such words of the operand buffer
  role    : Word                     -- BANKROLE
  opbuf   : List Host.Cell
  resv    : List Reservation
  chan    : List Channel
  cc      : Nat
  bins    : List (Option Bin)
  ott     : List OttEntry
  wc      : List WcEntry
  sent    : List SentWrite
  det     : List DetEntry
  l1      : List L1Line
  window  : Bool                     -- the team's own peer window is open (R227)
  closed  : List Nat                 -- ranks whose close this core has acknowledged (R227)
  acked   : List Nat                 -- ranks that have acknowledged this team's close
  hasToken : Bool
  hadToken : Bool
  halt    : Option HaltRec
  ending  : EndStep
  quota   : Nat                      -- Q of R113
  events  : Nat                      -- E of R113
  issued  : Nat                      -- slots issued since the team was dispatched (R112)
  pack    : List Nat                 -- contexts that R114 has packed into the slot of the last issue on the vector port, and that
                                     -- have yet to issue in it
  packAge : Nat                      -- stamp of that issue
  fences  : List (Nat × Nat × List Nat)  -- narrow releasing FENCEs made while the DET store buffer held writes: order number, rank of
                                     -- the scope, threads (R293, R297, R316)
  stopping : Bool                    -- a preemption has stopped its groups (R350)
  eng     : Option SavedEngine       -- engine state not yet bound after a resume (R242)
  deriving DecidableEq, Repr

/-- What a core keeps from team to team: its CSRs and translation cache (R63, R101, R113). -/
structure CoreRegs where
  lldwin : Word
  lldthr : Word
  lldmin : Word
  wcage  : Word
  selftest : Word
  tlb    : List (Nat × Xl)
  disabled : Bool
  deriving DecidableEq, Repr

/-- A pending translation miss (R64). -/
structure Miss where
  ctx  : Nat
  page : Nat
  waiters : List (Nat × Nat)         -- core and group context
  deriving DecidableEq, Repr

/-- One compute die (R63, R64, R360, R389, R398); number 8 holds the correction counts of the hub die. -/
structure Die where
  admitted : Bool
  excluded : Bool
  throttled : Bool
  tlb     : List (Nat × Xl)
  walk    : List (Nat × Nat × Nat)   -- context, table entry address, entry (R63)
  misses  : List Miss
  corr    : Tab Nat                  -- corrections of this window by structure and row (R360)
  spares  : Tab Nat                  -- spares used, by structure and unit (R361)
  slices  : Nat                      -- L2 slices recorded as disabled in service, a bit each (R361, R396)
  deriving DecidableEq, Repr

/-! ### Contexts (chapters 04, 15, 23, 25) -/

/-- The stream state words (Table 15.3) and the owners the stream has reached. -/
structure Stream where
  next  : BitVec 32
  lwm   : BitVec 32
  out   : Nat
  st    : Nat                        -- 0 CLOSED, 1 OPEN, 2 CLOSING
  owners : List Nat
  unacked : List Nat                 -- owners whose closing update is not acknowledged
  told  : BitVec 32                  -- the last LWM a request carried (R276)
  live  : List (BitVec 32)           -- outstanding serials
  deriving DecidableEq, Repr

/-- The journal gate's state (R375). -/
inductive Gate where
  | noPart | seeding | normal | lost
  deriving DecidableEq, Repr

/-- A live journal record (Table 23.1): position, its 32 bytes, and whether the partner has it. -/
structure JRec where
  pos  : Nat
  data : List Byte
  deriving DecidableEq, Repr

/-- A held emit of a lane (R368): threshold, target and bytes, launch slot, issuing group, address, and its leaf's CP and
WP. -/
structure HeldEmit where
  thr   : Nat
  pa    : Nat
  bytes : List Byte
  launch : Nat
  core : Nat
  grp  : Nat
  va   : Nat
  cp   : Nat
  wp   : Nat
  deriving DecidableEq, Repr

/-- A context (R25, R53, R60, R275, R365, R399). -/
structure Context where
  hbase : Word
  hlimit : Word
  hoffs : Word
  ptroot : Word
  useHbase : Word                    -- their values at the last TLBINV (R53)
  useHlimit : Word
  useHoffs : Word
  usePtroot : Word
  jpartner : Word
  jpos : Nat
  jack : Nat
  cack : Nat
  tb : Nat
  gate : Gate
  jsent : Nat                        -- the position that is sent next (R367)
  seedTo : Nat                       -- the JPOS at which SEEDING was entered (Table 23.2)
  seedBy : Option (Nat × Nat × Word) -- the JSEED that waits: core, entry, and COPIED (R375)
  seedDone : List (Nat × Word)       -- results of JSEEDs whose team is preempted (R376)
  former : List Nat                  -- the partners before this seeding, whose stores are not released (R375)
  records : List JRec
  emits : List HeldEmit
  streams : Tab Stream
  incseen : Tab Nat
  sel : List Nat                     -- publish-buffer ids whose SEL is 1 (R60)
  torn : List Nat
  openCpyg : Tab Nat
  mailbox : Option Nat
  deriving DecidableEq, Repr

/-! ### Launches (chapters 01, 02, 25) -/

/-- A launch record as read (Tables 1.2 to 1.4): its sixteen words. -/
abbrev LaunchRecord := List Word

/-- Launch states (Table 2.3); DONE frees the slot. -/
inductive LState where
  | waiting | ready | placing | running
  deriving DecidableEq, Repr

/-- Where a cluster of a launch stands (R32, R37). -/
inductive CState where
  | resident (cores : List Nat)      -- cores in TIX order
  | saved                            -- preempted, awaiting re-placement
  | retired
  deriving DecidableEq, Repr

/-- A launch in its slot (R27, R29, R376, R384). -/
structure Launch where
  rec_  : LaunchRecord
  ctx   : Nat
  seq   : Nat                        -- acceptance order
  qpos  : Int                        -- place in its queue (R29, R38)
  st    : LState
  deps  : List Bool                  -- latched DEP slots
  dict  : Option (List Word)         -- the installed dictionary, or none when DICT = 0
  dictBad : Option Nat               -- the fault kind of an unreadable dictionary (R14)
  dictWait : Bool                    -- a NOTVALID on the dictionary is with the firmware
  next  : Nat                        -- clusters dispatched so far
  clus  : Tab CState
  ended : List (Nat × Nat)           -- (CIX, TIX) of teams that have retired
  fault : Option (Nat × Nat × HaltRec)  -- (CIX, TIX) and record of the fault chosen
  errs  : Nat
  service : Bool
  deriving DecidableEq, Repr

/-- A mailbox (Table 2.1). -/
structure Mailbox where
  op     : Word
  recaddr : Word
  status : Nat
  reason : Nat
  busy   : Bool
  done   : Bool
  bind   : Nat
  bound  : Bool
  kept   : Option LaunchRecord       -- the record of a submission that waits, once read (R16)
  deriving DecidableEq, Repr

/-- A leaf that a request of the management mailbox meets (R67): the address of its entry, the entry, its level and its page. -/
structure Leaf where
  at_   : Nat
  entry : Nat
  level : Nat
  va    : Nat
  deriving DecidableEq, Repr

/-- A request of the management mailbox as it was read when it started (R67): virtual address, length, context, new physical
address, and the leaves of its range. -/
structure MgmtReq where
  va  : Nat
  len : Nat
  ctx : Nat
  new : Nat
  leaves : List Leaf
  deriving DecidableEq, Repr

/-! ### Remote requests (chapter 15) -/

/-- What a request asks of its owner. -/
inductive ReqKind where
  | read
  | write
  | stream
  | marker                           -- FENCE.sc.sys (R299)
  | lwm                              -- a low-water update (R276)
  | closing                          -- a closing update (Table 15.4)
  | record                           -- a journal record (R367)
  | trunc                            -- a truncation of the journal (R374)
  | car                              -- a transfer of a collective (R329)
  | abort                            -- the end of a collective program with an error (R330)
  | release                          -- a former partner's store is let go (R375, R385)
  | gone                             -- a context has been destroyed (R279)
  deriving DecidableEq, Repr

/-- An outstanding remote request at its initiator (R270 to R273). -/
structure Req where
  id     : Nat
  kind   : ReqKind
  owner  : Nat
  ctx    : Nat
  core   : Nat
  grp    : Nat
  ott    : Nat
  lane   : Nat
  pc     : Word
  va     : Nat
  vas    : List Nat                  -- the addresses that were stored to, of a drained entry (R65, R219)
  pa     : Nat
  len    : Nat
  parts  : List (Nat × Nat)          -- the ranges of a read that is one access in several places (R168)
  offs   : List Nat                  -- the offsets of the parts in a block that is read
  data   : List (Nat × List Byte)    -- addresses and bytes of a write
  laid   : List (Nat × Byte)         -- the team's own buffered bytes that a read returns instead (R316)
  acq    : Bool                      -- the access is an acquire (R297)
  cp     : Nat                       -- policy and partition that the owner applies (R59, R214)
  wp     : Nat
  pols   : List (Nat × Nat)          -- those of each part, where they may differ (R215)
  op     : Nat
  ty     : Nat
  b      : Word
  n      : Word
  stream : Nat
  serial : BitVec 32
  inc    : Nat
  sends  : Nat
  busy   : Bool
  deriving DecidableEq, Repr

/-- A preempted cluster's image (R352, Table 21.5): the cores it ran on by TIX, and its live teams by TIX
with their outstanding remote requests (R284). -/
structure Image where
  launch : Nat
  cix    : Nat
  cores  : List Nat
  teams  : List (Nat × Team × List Req)
  deriving DecidableEq, Repr

/-- An entry of the owner's result cache (R278). -/
structure CacheEntry where
  pkg    : Nat
  ctx    : Nat
  stream : Nat
  serial : BitVec 32
  old    : Word
  yst    : Nat
  op     : Nat                       -- the operation and its type, in the word of the YST
  ty     : Nat
  deriving DecidableEq, Repr

/-- A stream record of the owner (R278). -/
structure StreamRec where
  pkg    : Nat
  ctx    : Nat
  stream : Nat
  lwm    : BitVec 32
  deriving DecidableEq, Repr

/-- One piece of a store to a window page. -/
structure WinPart where
  va   : Nat
  pa   : Nat
  mt   : Nat
  data : List Byte
  deriving DecidableEq, Repr

/-- A store to a window page on its way to the hub: the pieces of an STB are performed as one (R168, R320, R323). -/
structure WinStore where
  ctx   : Nat
  core  : Nat
  grp   : Nat
  ott   : Nat
  lane  : Nat
  n64   : Bool                       -- made by STG.n64 (Table 18.1)
  parts : List WinPart
  deriving DecidableEq, Repr

/-! ### Collectives (chapter 18) -/

/-- A combine buffer b0 to b15: empty, waiting for a packet by sender's rank and segment, or full with its
segment, type, tag and the codes of its SEG items (R328). -/
inductive CBuf where
  | empty
  | expect (rank seg : Nat)
  | full (seg ty : Nat) (tag : Option (Nat × Nat)) (items : List Nat)
  deriving DecidableEq, Repr

/-- A collective packet (R329): the sender's rank, SLOT, SEQ, EPOCH, segment id, type, tag and items. -/
structure CPacket where
  src   : Nat
  slot  : Nat
  seq   : BitVec 32
  epoch : Nat
  seg   : Nat
  ty    : Nat
  tag   : Option (Nat × Nat)
  items : List Nat
  deriving DecidableEq, Repr

/-- A transfer that its receiver has not acknowledged: its number, buffer, receiver and packet (R333). -/
structure CTransfer where
  id   : Nat
  buf  : Nat
  peer : Nat
  pkt  : CPacket
  deriving DecidableEq, Repr

/-- A SCAT whose writes are not performed: its number, buffer, the address of its word, and its bytes (R333). -/
structure CScat where
  id    : Nat
  buf   : Nat
  pc    : Word
  va    : Nat
  bytes : List Byte
  deriving DecidableEq, Repr

/-- The state of an armed slot's program: queued on its unit, executing, or ended (R324, R330). A free slot is
not listed. -/
inductive SlotPhase where
  | queued | running | ended
  deriving DecidableEq, Repr

/-- A collective slot (R319 to R337): its context, record, place in the order of ARMs, snapshot of members by
rank and EPOCH, and the program's PC, counters, buffers and outstanding transfers; `filled` lists the keys
that have filled a buffer (R329), and `waiting` says that the word at the PC waits. -/
structure CSlot where
  ctx     : Nat
  phase   : SlotPhase
  rec_    : List Word
  order   : Nat
  members : List Nat
  epoch   : Nat
  pc      : Int
  k       : List (BitVec 32)
  b       : List CBuf
  out     : List CTransfer
  scats   : List CScat
  filled  : List (Nat × Nat)
  bad     : List Nat                 -- buffers that hold an error that cannot be corrected (R358)
  sentTo  : List Nat                 -- the ranks that the word at the PC has sent to while it waits (R333)
  sealed  : Bool
  waiting : Bool
  deriving DecidableEq, Repr

/-- The post of a program's end that waits for the firmware to map its DONEOBJ (R330). -/
structure CPost where
  ctx    : Nat
  va     : Nat
  state  : Nat
  cause  : Nat
  errcnt : Nat
  fpc    : Word
  faddr  : Word
  finfo  : Word
  deriving DecidableEq, Repr

/-! ### Messages of the outside world -/

/-- What the outside world, the firmware or the carrier brings to the package, with its data (heading
Host interface of the inventory). Each message is one step of the table. -/
inductive Message where
  | pageFaultResolved (core grp : Nat) (found : Bool) (writes : List Host.Cell)
  | dictResolved (launch : Nat) (found : Bool) (writes : List Host.Cell)
  -- with policy and partition of each part, the first standing for those that are not listed; `whole` marks a block write
  | remoteReadAtOwner (pkg port req inc : Nat) (acq : Bool) (pols : List (Nat × Nat)) (parts : List (Nat × Nat))
  | remoteWriteAtOwner (pkg seq inc : Nat) (pols : List (Nat × Nat)) (whole : Bool) (data : List (Nat × List Byte))
  | streamRequestAtOwner (pkg ctx stream : Nat) (serial lwm : BitVec 32) (inc req pa op ty cp wp : Nat) (b n : Word)
  | lowWaterUpdate (pkg ctx stream : Nat) (lwm : BitVec 32) (req : Nat)
  | scFenceMarker (pkg port req : Nat)
  | remoteAnswer (req yst : Nat) (data : List Byte) (inc : Nat)
  | wcDrainAck (seq yst inc : Nat)
  | yptExpire (index : Nat)
  | linkDown (a b : Nat)
  | linkRecover (a b : Nat)
  | relay (src dst : Nat) (m : Message)      -- a packet between two others that takes its detour here (R44)
  | carrierConfig (pkgid pod : Nat) (ue : List Nat)  -- the carrier's configuration: PKGID, N, and the ports that run UE (R41, R42)
  | wayMasks (masks : List Nat)              -- the steward firmware sets WPM0 to WPM7 (R215)
  | membershipChange (live : Nat) (incs : List (Nat × Nat))  -- with the incarnations of the packages that become live (R325, R380)
  | packageRejoin (pkg inc : Nat)
  | carPacket (pkg req : Nat) (p : CPacket)
  | carTransferAck (slot id : Nat)
  | carAbort (slot : Nat) (seq : BitVec 32) (pkg req : Nat)
  | hubResolved (ctx page : Nat) (found : Bool) (writes : List Host.Cell)
  | mailboxRecaddr (m : Nat) (v : Word)      -- a host write of RECADDR; mailbox 64 is the management mailbox
  | mailboxOp (m : Nat) (op : Word)          -- a host write of the OP word
  | donebitClear (m : Nat)
  | service (recaddr : Word)
  | contextCreate (ctx mailbox : Nat) (incs : List (Nat × Nat))
  | contextDestroy (ctx : Nat)
  | journalRecord (pkg ctx pos base : Nat) (data : List Byte) (req inc : Nat)
  | journalAck (pkg ctx upTo : Nat)
  | journalTruncation (pkg ctx base req : Nat)
  | storeRelease (pkg ctx req : Nat)         -- a former partner lets its store go (R375, R385)
  | peerContextGone (pkg ctx req : Nat)      -- a requester's context has been destroyed (R279)
  -- the stores for (origin, ctx) that other packages hold, as (package, TB, records), the current JPARTNER, and where the
  -- firmware maps the image: context, virtual and physical address, and the page table entries
  | replayFetch (origin ctx : Nat) (stores : List (Nat × Nat × List (Nat × List Byte))) (partner : Option Nat)
      (into va pa : Nat) (entries : List Host.Cell)
  | hostBar0 (write : Bool) (offset : Nat)
  | elogAck
  | bootRom (ecdsa lms version firmware : Bool) (incs : List (Nat × Nat))
  | dieAdmission (die : Nat) (power train init selftest : Bool)
  | engineSelftest (bad : List Nat)
  | powerOff
  | hubReset
  | firmwareRestart (incs : List (Nat × Nat))
  | ownerRestart
  | throttle (dies : List Nat)
  | recover
  | trip
  | meyeDone
  | correctionWindow (die : Nat)
  | softError (struct die unit row pa : Nat) -- a correctable error is met in a structure of Table 22.1; `pa` for the L2 and HBM
  | sectorError (sector kind : Nat)          -- an error strikes a sector of HBM: 1 correctable, 2 not; 3 its copy in the L2
  | spadError (core word : Nat)              -- one that is not correctable strikes a scratchpad word
  | opbufError (core word : Nat)             -- one strikes a word of an operand buffer
  | l1Error (core line word : Nat)           -- one strikes a word of a line in an L1
  | regError (core grp n : Nat) (half : Option Nat)  -- one strikes a v-register in a half of a group, or an s-register
  | stagingError (core chan : Nat)           -- one strikes what a copy channel has staged
  | combineError (slot buf : Nat)            -- one strikes a combine buffer of a collective program
  | l2TagError (set way : Nat)               -- one strikes the tag of a line of the L2
  | tileError (quad tile : Nat) (elems rows cols : List (Nat × BitVec 32 × BitVec 32))  -- errors strike a tile: elements, checksums of rows and of columns
  deriving DecidableEq, Repr

/-- A packet on its way: its destination, the port that it leaves by, and the intermediary of a detour (R42, R44). -/
structure Packet where
  dst  : Nat
  port : Nat
  via  : Option Nat
  msg  : Message
  deriving DecidableEq, Repr

/-- What a port runs: the scale-up group, Ultra Ethernet, or nothing (R42). -/
inductive PortMode where
  | scaleUp | ethernet | disabled
  deriving DecidableEq, Repr

/-! ### The package -/

/-- The subject of the step being made: for an instruction its group, address, length and dictionary
code (R74); for an event the unit it acts on. -/
structure Cursor where
  core : Nat
  grp  : Nat
  pc   : Word
  len  : Nat
  d16  : Option D16Word
  id   : Nat
  deriving DecidableEq, Repr

/-- A location that a narrow release has marked: its space (0 the package's memory, 1 + core a scratchpad, 2^30 + the number of a
saved team its scratchpad, 2^16 + 4096 × context + id a publish buffer), its bytes, the releasing core or the number of its saved
team, the order number below which what it carries was issued, and the rank of its scope (R297). -/
structure Mark where
  space : Nat
  pa    : Nat
  len   : Nat
  core  : Nat
  stamp : Nat
  rank  : Nat
  deriving DecidableEq, Repr

/-- A cached line of the L2 (R213, R216): line number, dirty, mark (0 normal, 1 evict-first, 2 retain), pin. -/
structure L2Line where
  way   : Nat
  line  : Nat
  dirty : Bool
  mark  : Nat
  pin   : Option Nat
  deriving DecidableEq, Repr

/-- The state of the package. -/
structure State where
  -- the model's own fields (logs 1 to 3)
  timing : List Nat
  inbox  : List Message
  msg    : Option Message
  iss    : Cursor
  stamp  : Nat
  free   : Nat
  hostRead : Word
  -- compute dies
  teams  : Tab Team
  cores  : Tab CoreRegs
  engines : Tab Engine
  dies   : Tab Die
  -- memory
  mem    : List Host.Cell
  poison : List Nat                  -- sectors whose value is lost (R358, R362)
  l2lost : List Nat                  -- those of them that an error of the L2 has cost their value (Table 22.1)
  renewed : List Nat                 -- bytes of poisoned sectors that have been overwritten since (R362)
  upsets : List (Nat × Nat)          -- sectors holding an error the environment placed: 1 correctable, 2 not, 3 not and in the L2
  l2     : Tab (List L2Line)
  wpm    : List Nat
  exported : List Nat                -- exported 64 KiB frames (R67)
  migrating : List (Nat × Nat)       -- context and page under migration (R68)
  -- contexts and launches
  ctxs   : Tab Context
  launches : Tab Launch
  lseq   : Nat
  served : Tab Nat                   -- context served last by PRIO level (R31)
  head   : Option Nat
  images : List Image
  preempting : List (Nat × Nat)      -- launch and cluster being halted
  rects : List (Nat × List Nat × List (Nat × Nat))  -- launch, cores of a rectangle that preemption clears for it, and the
                                     -- clusters that are halted for it, as launch and CIX (R37)
  svcq : List (Word × Option LaunchRecord)  -- service submissions that wait for the firmware, with the record once read (R16, R26)
  svcStat : Nat                      -- status and reason of the last service submission (R24)
  mboxes : Tab Mailbox
  mgmt   : Mailbox
  mgmtReq : Option MgmtReq           -- the request that the management mailbox carries out (R67)
  -- hub
  powered : Bool
  stage  : Nat
  svclvl : Nat
  bootFail : Nat
  admits  : Nat
  excl   : Nat
  attempts : Nat
  devWrites : List (Nat × List Byte) -- what service groups have stored into device registers, oldest first (R52, R58)
  steward : Bool                     -- an interrupt of the steward firmware is pending
  pkgid  : Nat
  pod    : Nat
  uePorts : List Nat                 -- the ports of N − 1 to 14 that run Ultra Ethernet (R42)
  live   : Nat                       -- live packages, a bit per PKGID (R325)
  epoch  : Nat
  peerdead : BitVec 16
  inc    : Nat
  peerInc : Tab Nat                  -- the incarnation of each package, as the steward firmware knows it (R380)
  links  : List (Nat × Nat)          -- links declared down (R44)
  tmoremote : Word
  elogaddr : Word
  elogcause : Word
  secnt  : Word
  mvdd   : Tab Word
  mhbmt  : Tab Word
  mhbmv  : Tab Word
  meye   : Word
  defmap : List Host.Cell            -- the fused defect map (R395)
  defrt  : List Word                 -- its run-time section (R395)
  -- peers
  reqs   : List Req
  out    : List Packet               -- packets sent and not yet dropped
  held   : List Message              -- acquire reads of peers that wait for a narrow release to be carried (R297)
  winq   : List WinStore             -- window stores on their way to the hub (R320)
  resultCache : List CacheEntry
  streamRecs : List StreamRec
  seqDone : List (Nat × Nat × Nat)   -- (package, transport sequence) performed here, and its answer (R270)
  portBufs : List (Nat × Nat × List Byte × List Nat)  -- port, line, bytes, and words with an error as an L1 marks them (R299, R362)
  pendInv : List (Nat × Nat)         -- port and line of an invalidation not yet applied (R299)
  marks  : List Mark                 -- locations that narrow releases have marked (R297)
  partnerJ : List (Nat × Nat × Nat × List Byte)  -- (package, context, position) and record (R367)
  partnerTb : List (Nat × Nat × Nat) -- base of each partner journal (R374)
  -- collectives
  cslots : Tab CSlot
  corder : Nat
  heldPk : List CPacket              -- packets that no MATCH has named (R329)
  cposts : List CPost                -- posts of ended programs that wait for the firmware (R330)
  hubFaults : List (Nat × Nat × Bool)  -- contexts and pages whose NOTVALID the hub has passed to the firmware, and
                                       -- whether it has found no mapping (R321, R323)
  deriving DecidableEq, Repr

/-- Why the machine stops with a fault. No fault here is an exception that the spec describes: an
exception is taken and gives a next state. -/
inductive Fault where
  /-- The step is a group's instruction, and the cursor names no resident group that may issue: a state
  that no fetch leads to. Raised by every instruction's meaning. Safe. -/
  | noIssuingGroup
  /-- The step is an event whose subject does not exist or whose condition does not hold: a state that
  no scheduler turn leads to. Raised by the meanings of events. Safe. -/
  | notEnabled
  deriving DecidableEq, Repr

/-- Why a step has no meaning here. -/
inductive Refusal where
  /-- The instruction is not modelled yet. Raised in Dispatch only. Safe. -/
  | notModelled (mnemonic : String)
  deriving DecidableEq, Repr

/-- The cursor before any step (log 2). -/
def Cursor.zero : Cursor := ⟨0, 0, 0, 0, none, 0⟩

/-- A mailbox at reset (Table 2.1). -/
def Mailbox.reset : Mailbox := ⟨0, 0, 0, 0, false, false, 0, false, none⟩

/-- The CSRs of a core at reset (Table 7.2). -/
def CoreRegs.reset : CoreRegs := ⟨0x40, 0x10100, 0x4, 0x800, 0, [], false⟩

/-- A die before its admission (R389). -/
def Die.reset : Die := ⟨false, false, false, [], [], [], [], [], 0⟩

/-- A tile that nothing is bound to (R241). -/
def Tile.reset : Tile := ⟨none, [], [], [], [], [], 0, 0⟩

/-- An engine at reset (R241, R244). -/
def Engine.reset : Engine := ⟨[.reset, .reset, .reset, .reset], [], [], none, false, [], []⟩

/-- The package right after reset: the values the spec gives (Tables 2.1, 7.2, 26.1, 26.6 and R387), and
where it gives none those of logs 1 to 8. -/
def State.reset : State :=
  { timing := [], inbox := [], msg := none, iss := Cursor.zero, stamp := 0, free := 0, hostRead := 0,
    teams := [], cores := [], engines := [], dies := [],
    mem := [], poison := [], l2lost := [], renewed := [], upsets := [], l2 := [],
    wpm := [0xFFFF, 0xFFFF, 0xFFFF, 0xFFFF, 0xFFFF, 0xFFFF, 0xFFFF, 0xFFFF],
    exported := [], migrating := [],
    ctxs := [], launches := [], lseq := 0, served := [], head := none, images := [], preempting := [], rects := [], svcq := [], svcStat := 0,
    mboxes := [], mgmt := Mailbox.reset, mgmtReq := none,
    powered := true, stage := 0, svclvl := 0, bootFail := 0, admits := 0, excl := 0, attempts := 0,
    devWrites := [], steward := false, pkgid := 0, pod := 1, uePorts := [], live := 1, epoch := 0, peerdead := 0, inc := 0, peerInc := [], links := [],
    tmoremote := 0x4E20, elogaddr := 0, elogcause := 0, secnt := 0, mvdd := [], mhbmt := [], mhbmv := [],
    meye := 0, defmap := [(0, 1), (0x10, 0x7D), (0x11, 0x46), (0x12, 0xB8), (0x13, 0xE8)], defrt := [],
    reqs := [], out := [], held := [], winq := [], resultCache := [], streamRecs := [], seqDone := [],
    portBufs := [], pendInv := [], marks := [], partnerJ := [], partnerTb := [],
    cslots := [], corder := 0, heldPk := [], cposts := [], hubFaults := [] }

end Sys2Proof.Machine
end

