-- ==== Sys2Proof/Machine/Operands.lean ====
section
/-! DEFINITION. Type codes, launch record fields, operand forms, modifier layouts, and the decode checks
of Table 5.11. -/

namespace Sys2Proof.Machine

/-! ### Type codes (Table 5.8) -/

/-- Width in bits of a type code. -/
def tyBits (t : Nat) : Nat :=
  match t with
  | 0x00 | 0x01 => 64
  | 0x02 | 0x03 | 0x08 => 32
  | 0x04 | 0x05 | 0x09 | 0x0A => 16
  | 0x06 | 0x07 | 0x0B | 0x0C | 0x0D | 0x10 | 0x11 | 0x15 | 0x16 => 8
  | 0x12 | 0x13 => 6
  | 0x0E => 5
  | 0x14 | 0x17 | 0x18 => 4
  | 0x0F => 3
  | _ => 0

/-- The signed integer types i64, i32, i16, i8 and i4. -/
def tySigned (t : Nat) : Bool := t == 0 || t == 2 || t == 4 || t == 6 || t == 0x18

/-- A value of the type's width as an integer. -/
def tyInt (t x : Nat) : Int := if tySigned t then sxInt (tyBits t) x else ((x % 2 ^ tyBits t : Nat) : Int)

/-- A value read from memory, extended to a register: by sign for i types, by zero otherwise (R222). -/
def tyExt (t x : Nat) : Word := if tySigned t then sxWord (tyBits t) x else zxWord (tyBits t) x

/-! ### Launch record fields (Tables 1.2 to 1.4) -/

/-- Word `i` of a launch record. -/
def recWord (r : LaunchRecord) (i : Nat) : Word := r.getD i 0

/-- A field of word `i`. -/
def recFld (r : LaunchRecord) (i lo w : Nat) : Nat := bitsAt (recWord r i).toNat lo w

/-- CODE. -/
def recCode (r : LaunchRecord) : Word := word (recFld r 0 0 56)
/-- DICT. -/
def recDict (r : LaunchRecord) : Nat := recFld r 1 0 56
/-- ARGS. -/
def recArgs (r : LaunchRecord) : Word := word (recFld r 2 0 56)
/-- TRAPH. -/
def recTraph (r : LaunchRecord) : Word := word (recFld r 7 0 56)
/-- The group width W of WCODE. -/
def recWidth (r : LaunchRecord) : Nat := 8 * 2 ^ recFld r 4 0 2
/-- GPT, groups per team. -/
def recGpt (r : LaunchRecord) : Nat := recFld r 4 2 7
/-- CSHAPE. -/
def recShape (r : LaunchRecord) : Nat := recFld r 4 9 4
/-- VREGS. -/
def recVregs (r : LaunchRecord) : Nat := recFld r 4 13 8
/-- SCRATCH, in bytes. -/
def recScratch (r : LaunchRecord) : Nat := 4096 * recFld r 4 21 8
/-- DET. -/
def recDet (r : LaunchRecord) : Bool := recFld r 3 48 1 == 1
/-- REFORM. -/
def recReform (r : LaunchRecord) : Bool := recFld r 3 49 1 == 1
/-- JRNL. -/
def recJrnl (r : LaunchRecord) : Bool := recFld r 3 50 1 == 1
/-- REPLAY. -/
def recReplay (r : LaunchRecord) : Bool := recFld r 3 51 1 == 1
/-- PRIO. -/
def recPrio (r : LaunchRecord) : Nat := recFld r 6 0 3
/-- CTXID. -/
def recCtx (r : LaunchRecord) : Nat := recFld r 6 4 12

/-- Columns and rows of a cluster shape (Table 1.5). -/
def shapeDims (c : Nat) : Nat × Nat :=
  match c with
  | 0 => (1, 1) | 1 => (2, 1) | 2 => (1, 2) | 3 => (2, 2)
  | 4 => (4, 2) | 5 => (2, 4) | 6 => (6, 2) | 7 => (2, 6)
  | _ => (0, 0)

/-- The number of teams of a cluster of the launch (R17). -/
def recTeams (r : LaunchRecord) : Nat := (shapeDims (recShape r)).1 * (shapeDims (recShape r)).2

/-- The number of clusters of the grid (R11). -/
def recClusters (r : LaunchRecord) : Nat := recFld r 3 0 16 * recFld r 3 16 16 * recFld r 3 32 16

/-- CIX of the cluster dispatched `n`-th: x fastest, then y, then z (Table 7.2, 0x003; R32). -/
def cixOf (r : LaunchRecord) (n : Nat) : Nat :=
  let cx := recFld r 3 0 16
  let cy := recFld r 3 16 16
  n % cx + 2 ^ 16 * (n / cx % cy) + 2 ^ 32 * (n / (cx * cy))

/-! ### Operand forms (R79 to R82) -/

/-- How an entry uses a register field. -/
inductive Use where
  | unused                 -- must be 0x00
  | src (n : Nat)          -- `n` consecutive source registers
  | dst (n : Nat)          -- `n` consecutive destination registers
  | psrc                   -- a predicate source
  | pdst                   -- a predicate destination
  | imm                    -- an immediate code
  deriving DecidableEq, Repr

/-- The port rule of an entry (R81). -/
inductive Port where
  | normal                 -- uniform when every named register is an s-register
  | vector                 -- vector port only
  | uniform                -- uniform only: check 11 as if D were an s-register destination
  | lanes                  -- REDL and BCAST: a uniform result formed from lanes
  deriving DecidableEq, Repr

/-- What the decode checks need to know of an entry. Each Bool is true when the check passes. -/
structure Shape where
  form  : Bool := true
  sub   : Bool := true
  m6    : Bool := true
  d     : Use := .unused
  a     : Use := .unused
  b     : Use := .unused
  c     : Use := .unused
  litA  : Bool := false    -- the literal of X stands for A
  dIn   : Bool := false    -- D is read too
  sr    : Bool := false    -- s62 and s63 are read for stochastic rounding (R175)
  port  : Port := .normal
  ok10  : Bool := true
  ok12  : Bool := true
  ok13  : Bool := true
  deriving DecidableEq, Repr

/-- A field names a v-register (R79). -/
def isV (f : BitVec 8) : Bool := f.toNat < 192

/-- The `n` registers from a field pass check 9: no v-register past VREGS, no s-register past s63. -/
def rangeOk (vregs : Nat) (f : BitVec 8) (n : Nat) : Bool :=
  if isV f then f.toNat + n ≤ vregs else f.toNat + n ≤ 256

/-- Check 9 for one field. -/
def useOk9 (vregs : Nat) (u : Use) (f : BitVec 8) : Bool :=
  match u with
  | .src n | .dst n => rangeOk vregs f n
  | .psrc | .pdst => f.toNat < 128
  | _ => true

/-- The registers that the used fields name, as (field, is a destination). -/
def namedRegs (sh : Shape) (w : LongWord) : List (BitVec 8 × Bool) :=
  let one (u : Use) (f : BitVec 8) : List (BitVec 8 × Bool) :=
    match u with
    | .src _ => [(f, false)]
    | .dst _ => [(f, true)]
    | _ => []
  let b := if w.lit.isSome then [] else one sh.b w.b
  let a := if w.lit.isSome && sh.litA then [] else one sh.a w.a
  one sh.d w.d ++ a ++ b ++ one sh.c w.c

/-- Whether an entry names a predicate as a source (R140). -/
def hasPsrc (sh : Shape) : Bool := sh.a == .psrc || sh.b == .psrc || sh.c == .psrc

/-- Check 11 (R81). -/
def ok11 (sh : Shape) (w : LongWord) : Bool :=
  let regs := namedRegs sh w
  let dsts := regs.filter (·.2)
  match sh.port with
  | .vector => dsts.all (fun r => isV r.1)
  | .uniform => regs.all (fun r => !isV r.1)
  | .lanes => true
  | .normal =>
    let sDst := dsts.any (fun r => !isV r.1)
    let vDst := dsts.any (fun r => isV r.1)
    let vSrc := regs.any (fun r => !r.2 && isV r.1)
    !(sDst && (vSrc || vDst || hasPsrc sh))

/-- An instruction runs on the uniform port when it names registers and all are s-registers (R81), a cross-lane one never
(R183). -/
def isUniform (sh : Shape) (w : LongWord) : Bool :=
  let regs := namedRegs sh w
  match sh.port with
  | .vector | .lanes => false
  | .uniform => true
  | .normal => !regs.isEmpty && regs.all (fun r => !isV r.1) && !hasPsrc sh
      && sh.d != .pdst

/-- Checks 6 to 13 of Table 5.11, in their order: the reason of the first that fails. -/
def decodeFail (sh : Shape) (w : LongWord) (vregs : Nat) : Option Nat :=
  let x := w.lit.isSome
  let unusedOk (u : Use) (f : BitVec 8) : Bool := u != .unused || f == 0#8
  if !sh.form then some 0x06
  else if !sh.sub then some 0x07
  else if !sh.m6 then some 0x08
  else if !(useOk9 vregs sh.d w.d && (x && sh.litA || useOk9 vregs sh.a w.a) && (x || useOk9 vregs sh.b w.b)
      && useOk9 vregs sh.c w.c) then some 0x09
  else if !(unusedOk sh.d w.d && (if x && sh.litA then w.a == 0#8 else unusedOk sh.a w.a)
      && (if x then w.b == 0#8 else unusedOk sh.b w.b) && unusedOk sh.c w.c && sh.ok10) then some 0x0A
  else if !ok11 sh w then some 0x0B
  else if !sh.ok12 then some 0x0C
  else if !sh.ok13 then some 0x0D
  else none

/-! ### Literals (R82) -/

/-- The literal of an X form, or zero. -/
def litNat (w : LongWord) : Nat := (w.lit.getD 0#32).toNat

/-- The literal as a signed number. -/
def litInt (w : LongWord) : Int := sxInt 32 (litNat w)

/-- The literal as the 64-bit operand of a type (R82). -/
def litWord (t : Nat) (w : LongWord) : Word :=
  let n := tyBits t
  if n = 64 then (if tySigned t then sxWord 32 (litNat w) else zxWord 32 (litNat w))
  else word (ofElems n (List.replicate (64 / n) (litNat w)))

/-- Check 12 for a typed literal: at 16 bits or fewer, LIT32 is the extension of its low bits (R82). -/
def litFits (t : Nat) (w : LongWord) : Bool :=
  let n := tyBits t
  w.lit.isNone || n > 16 || n == 0 ||
    (if tySigned t then wrap 32 (sxInt n (litNat w)) == litNat w else litNat w % 2 ^ n == litNat w)

/-! ### Modifier layouts (R84 to R86) -/

/-- SCOPE of layout M. -/
def scopeOf (n : Nat) : Scope :=
  match n with
  | 0 => .grp | 1 => .team | 2 => .clus | 3 => .dev | _ => .sys

/-- The width of a scope, narrowest first. -/
def scopeRank : Scope → Nat
  | .grp => 0 | .team => 1 | .clus => 2 | .dev => 3 | .sys => 4

/-- SCOPE and ORD of layout M (Table 5.9); a hint is 1 evict-first, 2 retain, 3 bypass, the codes of CP. -/
def ordOf (m6 : BitVec 6) : Ord :=
  let o := m6.toNat / 8
  { acq := o == 1 || o == 3 || o == 4, rel := o == 2 || o == 3 || o == 4, sc := o == 4,
    scope := scopeOf (m6.toNat % 8),
    hint := if o == 5 then some 1 else if o == 6 then some 2 else if o == 7 then some 3 else none }

/-- The orders of an access that carries none. -/
def Ord.relaxed : Ord := ⟨false, false, false, .grp, none⟩

/-- Layout M with the ORD values in `admitted` (R86). -/
def layoutM (admitted : List Nat) (m6 : BitVec 6) : Bool := m6.toNat % 8 ≤ 4 && admitted.contains (m6.toNat / 8)

/-- Layout F (R85): `rounds` when the instruction rounds, `sat` when it has a saturating form, `sr` when
the result type admits stochastic rounding. -/
def layoutF (rounds sat sr : Bool) (m6 : BitVec 6) : Bool :=
  m6.toNat < 16 && (rounds || m6.toNat % 4 == 0) && (sat || !nbit m6.toNat 2)
  && (!nbit m6.toNat 3 || (sr && rounds && m6.toNat % 4 == 0))

/-- The result types that admit SR = 1 (R85). -/
def srType (t : Nat) : Bool := t == 0x06 || t == 0x07 || (0x0B ≤ t && t ≤ 0x18)

/-- Layout I (Table 5.9), SAT where the entry has it. -/
def layoutI (sat : Bool) (m6 : BitVec 6) : Bool := m6 == 0#6 || (sat && m6 == 1#6)

/-- SUB6 as a number. -/
def subNo (w : LongWord) : Nat := w.sub6.toNat

/-! ### The long instruction of a short form (R76) -/

/-- The long word of a K form. -/
def kLong (sub : Nat) (w : KWord) : LongWord :=
  { s := w.s, sub6 := BitVec.ofNat 6 sub, gp := w.g.zeroExtend 7, gn := w.n, d := w.d.zeroExtend 8,
    a := w.a.zeroExtend 8, b := w.b.zeroExtend 8, c := 0, m6 := 0, lit := none }

/-- The long word of a K form whose C is its D (FFMA, Table 5.6). -/
def kLongFma (sub : Nat) (w : KWord) : LongWord := { kLong sub w with c := w.d.zeroExtend 8 }

/-- The long word of a K form of BITF, with the table of its operation in C. -/
def kLongBitf (lut : Nat) (w : KWord) : LongWord := { kLong 0 w with c := BitVec.ofNat 8 lut }

/-- The long word of a J form: A is D, and LIT32 the sign-extended immediate. -/
def jLong (sub : Nat) (w : JWord) : LongWord :=
  { s := w.s, sub6 := BitVec.ofNat 6 sub, gp := w.g.zeroExtend 7, gn := w.n, d := w.d.zeroExtend 8,
    a := w.d.zeroExtend 8, b := 0, c := 0, m6 := 0, lit := some (w.imm.signExtend 32) }

/-- The long word of a B form: LIT32 is the sign-extended offset. -/
def bLong (w : BWord) : LongWord :=
  { s := w.s, sub6 := 0, gp := w.g.zeroExtend 7, gn := w.n, d := 0, a := 0, b := 0, c := 0, m6 := 0,
    lit := some (w.off.signExtend 32) }

end Sys2Proof.Machine
end

