-- ==== Sys2Proof/Machine/Regs.lean ====
section
/-! DEFINITION. Reading and updating the pieces of the state: teams, groups, threads, registers, contexts,
and the return buffer of R105. -/

namespace Sys2Proof.Machine

/-! ### Pieces of the package -/

/-- The core's CSRs (Table 7.2). -/
def coreRegs (s : State) (core : Nat) : CoreRegs := tgetD s.cores core CoreRegs.reset

/-- Updates a core's CSRs. -/
def modCore (s : State) (core : Nat) (f : CoreRegs → CoreRegs) : State :=
  { s with cores := tset s.cores core (f (coreRegs s core)) }

/-- A die's record. -/
def dieOf (s : State) (d : Nat) : Die := tgetD s.dies d Die.reset

/-- Updates a die. -/
def modDie (s : State) (d : Nat) (f : Die → Die) : State := { s with dies := tset s.dies d (f (dieOf s d)) }

/-- The die of a core; cores are numbered die × 48 + row × 6 + column (R33). -/
def dieNo (core : Nat) : Nat := core / 48

/-- The quad of a core, numbered die × 12 + q with q = 3⌊y/2⌋ + ⌊x/2⌋ (R33). -/
def quadNo (core : Nat) : Nat := 12 * (core / 48) + 3 * (core % 48 / 6 / 2) + core % 6 / 2

/-- The engine of a quad. -/
def engineOf (s : State) (q : Nat) : Engine := tgetD s.engines q Engine.reset

/-- Updates an engine. -/
def modEngine (s : State) (q : Nat) (f : Engine → Engine) : State :=
  { s with engines := tset s.engines q (f (engineOf s q)) }

/-- Writes a team back. -/
def setTeam (s : State) (core : Nat) (t : Team) : State := { s with teams := tset s.teams core t }

/-- Updates the team resident on a core. -/
def modTeam (s : State) (core : Nat) (f : Team → Team) : State :=
  match tget s.teams core with
  | some t => setTeam s core (f t)
  | none => s

/-- Updates a group of a team. -/
def Team.modGroup (t : Team) (g : Nat) (f : Group → Group) : Team :=
  match tget t.groups g with
  | some x => { t with groups := tset t.groups g (f x) }
  | none => t

/-- Updates a group context of a core. -/
def modGroup (s : State) (core g : Nat) (f : Group → Group) : State := modTeam s core (fun t => t.modGroup g f)

/-- The group in a context of a core. -/
def groupAt (s : State) (core g : Nat) : Option Group := (tget s.teams core).bind (fun t => tget t.groups g)

/-- The threads of a group by lane. -/
def laneList (g : Group) : List Nat := List.range g.threads.length

/-- Updates the thread in a lane. -/
def Group.modLane (g : Group) (l : Nat) (f : Thread → Thread) : Group := { g with threads := g.threads.modify l f }

/-- A thread that never ran, for a lane that holds none. -/
def Thread.empty : Thread := ⟨false, 0, [], 1, 0, [], ⟨0, [], .none_⟩, .none_, 0, none, [], false, false, false, [], [], 0⟩

/-- A group context as allocated, with no thread (Table 7.1, R137, R342, R399). -/
def Group.empty : Group :=
  { threads := [], sreg := [], rb := [], start := [], startS := [], lc := 0, lcr := 0, prio := 0, status := .running, stall := none,
    parked := false, yielded := none, age := 0, since := 0, waited := false, order := 0, tcause := 0, tpc := 0, taddr := 0, tinfo := 0, hm := none,
    errstat := 0, errAddr := 0, errInfo := 0, tgtctx := 0xFFF, gjp := 0, txr := [], txw := [], rmtOp := false,
    poisonPc := [], walked := [], regionAt := 0, granted := false, tags := [], sbad := [] }

/-- The thread in a lane. -/
def Group.lane (g : Group) (l : Nat) : Thread := g.threads.getD l Thread.empty

/-- A context as created: every word zero, stream 0 open (R60, R275, R365, Table 4.2). -/
def Context.fresh : Context :=
  { hbase := 0, hlimit := 0, hoffs := 0, ptroot := 0, useHbase := 0, useHlimit := 0, useHoffs := 0, usePtroot := 0,
    jpartner := 0, jpos := 0, jack := 0, cack := 0, tb := 0, gate := .noPart, jsent := 0, seedTo := 0, seedBy := none, seedDone := [], former := [], records := [], emits := [],
    streams := [(0, ⟨0, 0, 0, 1, [], [], 0, []⟩)], incseen := [], sel := [], torn := [], openCpyg := [],
    mailbox := none }

/-- The context of a CTXID. -/
def ctxOf (s : State) (c : Nat) : Context := tgetD s.ctxs c Context.fresh

/-- Updates a context that exists. -/
def modCtx (s : State) (c : Nat) (f : Context → Context) : State :=
  match tget s.ctxs c with
  | some x => { s with ctxs := tset s.ctxs c (f x) }
  | none => s

/-- A stream as a context that has not used it holds it (R275). -/
def Stream.zero : Stream := ⟨0, 0, 0, 0, [], [], 0, []⟩

/-- The stream of a context. -/
def streamOf (c : Context) (n : Nat) : Stream := tgetD c.streams n Stream.zero

/-- Updates a stream. -/
def modStream (s : State) (c n : Nat) (f : Stream → Stream) : State :=
  modCtx s c (fun x => { x with streams := tset x.streams n (f (streamOf x n)) })

/-- The launch in a slot. -/
def launchAt (s : State) (n : Nat) : Option Launch := tget s.launches n

/-- Updates a launch. -/
def modLaunch (s : State) (n : Nat) (f : Launch → Launch) : State :=
  match tget s.launches n with
  | some x => { s with launches := tset s.launches n (f x) }
  | none => s

/-- The record of a team's launch. -/
def recOf (s : State) (t : Team) : LaunchRecord := ((launchAt s t.launch).map (·.rec_)).getD []

/-- Whether a team belongs to a service launch, CTXID 0xFFF (R24, R354). -/
def isService (s : State) (t : Team) : Bool := ((launchAt s t.launch).map (·.service)).getD false

/-- The context of a team's launch. -/
def teamCtx (s : State) (t : Team) : Nat := ((launchAt s t.launch).map (·.ctx)).getD 0

/-- The cores of a team's cluster in TIX order (R17, R32). -/
def clusterCores (s : State) (t : Team) : List Nat :=
  match launchAt s t.launch with
  | some l => match (l.clus.filter (fun e => cixOf l.rec_ e.1 == t.cix)).head? with
    | some (_, .resident cs) => cs
    | _ => []
  | none => []

/-- The next order number. -/
def fresh (s : State) : State × Nat := ({ s with stamp := s.stamp + 1 }, s.stamp)

/-! ### Registers and predicates (R98, R99, R105) -/

/-- The slot that a destination has been pending under since it entered `pend`: the first appended. -/
def slotOf (g : Group) (d : Dest) : Option Slot := g.rb.find? (fun x => x.dest == d)

/-- What a listed lane value holds. -/
def laneVal (l : List (Nat × Word)) (k : Nat) : Word := ((l.find? (fun e => e.1 == k)).map (·.2)).getD 0

/-- The v-register of a lane as an instruction reads it: prior while a long write is pending (R105). -/
def readV (g : Group) (l n : Nat) : Word :=
  match slotOf g (.v n) with
  | some x => laneVal x.old l
  | none => wget (g.lane l).v n

/-- The s-register of a group as an instruction reads it (R105). -/
def readS (g : Group) (n : Nat) : Word :=
  match slotOf g (.s n) with
  | some x => laneVal x.old 0
  | none => wget g.sreg n

/-- The register that an 8-bit field names, as lane `l` reads it (R79). -/
def readReg (g : Group) (l : Nat) (f : BitVec 8) : Word :=
  if isV f then readV g l f.toNat else readS g (f.toNat - 192)

/-- A predicate as an instruction reads it; p0 is true (R79, R105). -/
def readP (g : Group) (l n : Nat) : Bool :=
  if n = 0 then true else
  match slotOf g (.p n) with
  | some x => laneVal x.old l != 0
  | none => (g.lane l).p.getLsbD n

/-- Writes a v-register of a thread, with fresh check symbols (R359). -/
def Thread.writeV (t : Thread) (n : Nat) (x : Word) : Thread := { t with v := wset t.v n x, bad := t.bad.filter (· != n) }

/-- Writes a predicate of a thread; a write of p0 is discarded (R79). -/
def Thread.writeP (t : Thread) (n : Nat) (b : Bool) : Thread :=
  if n = 0 then t else
  { t with p := if b then t.p ||| (1#128 <<< n) else t.p &&& ~~~(1#128 <<< n) }

/-- Writes a v-register of a lane. -/
def Group.writeV (g : Group) (l n : Nat) (x : Word) : Group := g.modLane l (fun t => t.writeV n x)

/-- Writes a predicate of a lane. -/
def Group.writeP (g : Group) (l n : Nat) (b : Bool) : Group := g.modLane l (fun t => t.writeP n b)

/-- Writes an s-register of a group. -/
def Group.writeS (g : Group) (n : Nat) (x : Word) : Group := { g with sreg := wset g.sreg n x, sbad := g.sbad.filter (· != n) }

/-- Writes the register that a field names: in lane `l`, or once for the group. -/
def Group.writeReg (g : Group) (l : Nat) (f : BitVec 8) (x : Word) : Group :=
  if isV f then g.writeV l f.toNat x else g.writeS (f.toNat - 192) x

/-- The destination that a register field names. -/
def destOf (f : BitVec 8) : Dest := if isV f then .v f.toNat else .s (f.toNat - 192)

/-- The destination `k` registers after a field's. -/
def destAt (f : BitVec 8) (k : Nat) : Dest := if isV f then .v (f.toNat + k) else .s (f.toNat - 192 + k)

/-- Register `k` places after the one a field names. -/
def readRegAt (g : Group) (l : Nat) (f : BitVec 8) (k : Nat) : Word := readReg g l (f + BitVec.ofNat 8 k)

/-- A group in which a stretch opens: what its registers hold is what they held at the start (R105). -/
def Group.openStretch (g : Group) : Group := { g with start := g.threads.map (fun t => (t.v, t.p)), startS := g.sreg }

/-- The v-registers and predicates of a lane at the start of the stretch. -/
def Group.startOf (g : Group) (l : Nat) : Tab Word × BitVec 128 := g.start.getD l ([], 1)

/-- prior of a destination by lane, its value at the start of the stretch, for the `old` of a slot (R6, R105). -/
def destVals (g : Group) (d : Dest) : List (Nat × Word) :=
  match d with
  | .v n => (laneList g).map (fun l => (l, wget (g.startOf l).1 n))
  | .s n => [(0, wget g.startS n)]
  | .p n => (laneList g).map (fun l => (l, if n = 0 || (g.startOf l).2.getLsbD n then 1 else 0))

/-- Appends a slot to the return buffer (R105). -/
def Group.addSlot (g : Group) (d : Dest) (lanes act : List Nat) (id : Nat) (pc : Word) : Group :=
  { g with rb := g.rb ++ [⟨d, lanes, act, destVals g d, id, pc, .pending⟩] }

/-- The results of destination `k` of an entry: its lanes are numbered k × 64 + lane. -/
def resOf (k : Nat) (got : List (Nat × Word)) : List (Nat × Word) :=
  (got.filter (fun e => e.1 / 64 == k)).map (fun e => (e.1 % 64, e.2))

/-- Gives the pending slots of instruction `id` their results, in their order, `k` counting them. -/
def fillFrom (rb : List Slot) (id : Nat) (k : Nat) (got : List (Nat × Word)) : List Slot :=
  match rb with
  | [] => []
  | x :: r =>
    if x.id == id && x.st == .pending then { x with st := .filled (resOf k got) } :: fillFrom r id (k + 1) got
    else x :: fillFrom r id k got

/-- Marks the pending slots of instruction `id` failed (R108). -/
def failSlots (rb : List Slot) (id : Nat) (t : TrapInfo) : List Slot :=
  rb.map (fun x => if x.id == id && x.st == .pending then { x with st := .failed t } else x)

/-- The limits of R106: 32 destinations in v-registers and predicates, 8 in s-registers; the failing
limit as TINFO[0] names it. -/
def stretchFull (g : Group) (ds : List Dest) : Option Nat :=
  let isS (d : Dest) : Bool := match d with | .s _ => true | _ => false
  let ns := (g.rb.filter (fun x => isS x.dest)).length
  let nv := g.rb.length - ns
  let ks := (ds.filter isS).length
  if nv + (ds.length - ks) > 32 then some 0 else if ns + ks > 8 then some 1 else none

/-- Commits one slot (R107); a failed slot writes nothing (R355). -/
def Group.commitSlot (g : Group) (x : Slot) : Group :=
  match x.st with
  | .filled res =>
    match x.dest with
    | .s n => g.writeS n (laneVal res 0)
    | .v n => x.lanes.foldl (fun a l => a.writeV l n (laneVal res l)) g
    | .p n => x.lanes.foldl (fun a l => a.writeP l n (laneVal res l != 0)) g
  | _ => g

/-- Commits every slot in program order and opens a new stretch (R107). -/
def Group.commit (g : Group) : Group :=
  { (g.rb.foldl Group.commitSlot g).openStretch with rb := [], poisonPc := [] }

/-! ### Lanes (R80, R111) -/

/-- The lanes of the handler's threads, in handler mode (R344). -/
def handlerLanes (g : Group) : Option (List Nat) := g.hm.map (fun r => r.threads.map (·.lane))

/-- A thread takes part in the choice of the issue PC: it is live and not held (R111, R311), and in
handler mode it is one of the handler's (R344). -/
def laneReady (g : Group) (l : Nat) : Bool :=
  (g.lane l).live && (g.lane l).held.isNone && ((handlerLanes g).map (·.contains l)).getD true

/-- The issue PC: the lowest next PC among the threads that take part (R111). -/
def issuePc (g : Group) : Option Word :=
  (minNat (((laneList g).filter (laneReady g)).map (fun l => (g.lane l).pc.toNat))).map word

/-- The active lanes: those whose next PC is the issue PC (R111). -/
def activeLanes (g : Group) (pc : Word) : List Nat :=
  (laneList g).filter (fun l => laneReady g l && (g.lane l).pc == pc)

/-- The enabled lanes: active, and the guard true (R80). -/
def enabledLanes (g : Group) (w : LongWord) (act : List Nat) : List Nat :=
  act.filter (fun l => readP g l w.gp.toNat != w.gn)

/-! ### Latched errors and the log (R66, R363, R364) -/

/-- Latches an error in a group's status: the first is kept, a further one sets MORE (R363). -/
def Group.latch (g : Group) (cause kind : Nat) (addr info : Word) : Group :=
  if nbit g.errstat.toNat 1 then { g with errstat := g.errstat ||| 0x100000 }
  else { g with errstat := (g.errstat &&& 1) ||| 2 ||| word (cause * 2 ^ 8) ||| word (kind * 2 ^ 16),
                errAddr := addr, errInfo := info }

/-- Latches PINFULL (R231). -/
def Group.latchPin (g : Group) : Group := { g with errstat := g.errstat ||| 1 }

end Sys2Proof.Machine
end

