-- ==== Sys2Proof/Machine/Access.lean ====
section
/-! DEFINITION. Translation, memory types, the caches, the error log, and the performing of accesses to
memory, scratchpads and peers (chapters 04, 12, 13, 15, 16, 17, 22). -/

namespace Sys2Proof.Machine

/-! ### The error log (R349, R363, R364) -/

/-- Saturating addition on a field. -/
def satAdd (w x k : Nat) : Nat := if x + k ≥ 2 ^ w then 2 ^ w - 1 else x + k

/-- Logs an event: the first is held, a later one adds 1 to COUNT and sets OVF once COUNT has saturated; a violation interrupts
the steward firmware (R349, R364, Table 22.4, log 87). -/
def logEvent (s : State) (pa event struct die : Nat) (hub : Bool) (unit : Nat) : State :=
  if nbit s.elogaddr.toNat 63 then
    let c := bitsAt s.elogcause.toNat 32 16
    let ovf := nbit s.elogcause.toNat 48 || c == 0xFFFF
    let low := s.elogcause.toNat % 2 ^ 32
    { s with elogcause := word (low + 2 ^ 32 * satAdd 16 c 1 + (if ovf then 2 ^ 48 else 0)), steward := s.steward || event == 4 }
  else
    { s with
      elogaddr := word (pa % 2 ^ 52 + 2 ^ 63),
      elogcause := word (event + 2 ^ 4 * struct + 2 ^ 8 * (if hub then 0 else die) + (if hub then 2 ^ 11 else 0)
        + 2 ^ 12 * unit),
      steward := s.steward || event == 4 }

/-- Logs an error that cannot be corrected in a structure of a core; what PA is of it the spec does not say (R364,
log 3). -/
def logLost (s : State) (struct core : Nat) : State :=
  logEvent { s with free := s.free + 1 } ((Config.value s.free).toNat % 2 ^ 52) 3 struct (dieNo core) false (core % 48)

/-- Logs a violation, which the model places on the hub (R349, log 87). -/
def logViolation (s : State) (pa : Nat) : State := logEvent s pa 4 0 0 true 0

/-! ### Caches of lines (R211 to R216) -/

/-- The first address past the HBM of the package (Table 4.1). -/
def hbmTop : Nat := 0x00B2D05E0000

/-- The home slice of a physical address, die × 16 + slice (R211). -/
def homeSlice (pa : Nat) : Nat :=
  (bitsAt pa 7 7) ^^^ (bitsAt pa 14 7) ^^^ (bitsAt pa 21 7) ^^^ (bitsAt pa 28 7) ^^^ (bitsAt pa 35 7)
  ^^^ (bitsAt pa 42 7) ^^^ (bitsAt pa 49 3)

/-- The L2 set of a physical address, numbered across the slices (R211). -/
def l2Set (pa : Nat) : Nat := 1024 * homeSlice pa + bitsAt pa 14 10

/-- A way of `mask` that holds no line of the set. -/
def freeWay (ls : List L2Line) (mask : Nat) : Option Nat :=
  ((List.range 16).filter (fun w => nbit mask w && !(ls.any (fun x => x.way == w)))).head?

/-- The victim among the eligible ways: evict-first lines first, then the least recently used that is not
retain, then the least recently used; pinned lines never (Table 12.3, R216). -/
def l2Victim (ls : List L2Line) (mask : Nat) : Option L2Line :=
  let el := ls.filter (fun x => nbit mask x.way && x.pin.isNone)
  match el.find? (fun x => x.mark == 1) with
  | some x => some x
  | none => match el.find? (fun x => x.mark == 0) with
    | some x => some x
    | none => el.head?

/-- The mark of a policy: CP 01 evict-first, 10 retain (Table 12.3). -/
def markOf (cp : Nat) : Nat := if cp == 1 then 1 else if cp == 2 then 2 else 0

/-- An access to a line of the L2 with a policy, a partition mask and whether it writes: the lines of the
set in order of use, least recent first (Tables 12.3 and 12.4). -/
def l2Access (ls : List L2Line) (line cp mask : Nat) (write : Bool) : List L2Line :=
  let cp := if mask = 0 then 3 else cp
  match ls.find? (fun x => x.line == line) with
  | some x =>
    let mark := if cp == 3 then (if write then x.mark else 1) else if cp == 0 then x.mark else markOf cp
    ls.filter (fun y => y.line != line) ++ [{ x with mark := mark, dirty := x.dirty || write }]
  | none =>
    if cp == 3 then ls else
    match freeWay ls mask with
    | some w => ls ++ [⟨w, line, write, markOf cp, none⟩]
    | none => match l2Victim ls mask with
      | some v => ls.filter (fun y => y.way != v.way) ++ [⟨v.way, line, write, markOf cp, none⟩]
      | none => ls

/-- The L2's record of one access to a physical address (R213 to R215). -/
def l2Touch (s : State) (pa cp wp : Nat) (write : Bool) : State :=
  let k := l2Set pa
  { s with l2 := tset s.l2 k (l2Access (tgetD s.l2 k []) (pa / 128) cp (s.wpm.getD wp 0) write) }

/-- The lines of `[pa, pa + n)`. -/
def linesOf (pa n : Nat) : List Nat := if n = 0 then [] else (List.range ((pa + n - 1) / 128 - pa / 128 + 1)).map (· + pa / 128)

/-- The L2's record of an access to `[pa, pa + n)`: of each line of it (R213, R214). -/
def l2TouchAll (s : State) (pa n cp wp : Nat) (write : Bool) : State :=
  (linesOf pa n).foldl (fun s l => l2Touch s (128 * l) cp wp write) s

/-- The bank groups of a role, in ascending number (R205). -/
def roleGroups (role : Word) (r : Nat) : List Nat := (List.range 32).filter (fun i => bitsAt role.toNat (2 * i) 2 == r)

/-- Capacity of a core's L1 in lines: 256 for each bank group of role 01 (R205, R211). -/
def l1Lines (t : Team) : Nat := 256 * (roleGroups t.role 1).length

/-- The bank group that a new line takes: the lowest with room (the model's choice, log 33: the spec places no line). -/
def l1Room (t : Team) (ls : List L1Line) : Nat :=
  ((roleGroups t.role 1).find? (fun i => (ls.filter (fun x => x.bank == i)).length < 256)).getD 0

/-- The physical bank of a scratchpad offset (R206). -/
def spadBank (role : Word) (off : Nat) : Nat :=
  let gs := roleGroups role 0
  let lb := off / 8 % (8 * gs.length)
  8 * gs.getD (lb / 8) 0 + lb % 8

/-- The physical bank of an operand-buffer offset (R243). -/
def opbufBank (off : Nat) : Nat := 8 * (off / 2 ^ 15) + off % 2 ^ 15 / 8 % 8

/-- The line that an L1 fill displaces: an evict-first line, else the oldest not marked retain, else the oldest. -/
def l1Victim (ls : List L1Line) : Option L1Line :=
  match ls.find? (fun x => x.mark == 1) with
  | some x => some x
  | none => match ls.find? (fun x => x.mark == 0) with
    | some x => some x
    | none => ls.head?

/-- A line that another group's fill displaced becomes a victim tag of the group that had filled it,
which keeps eight (R113). -/
def addTag (t : Team) (v : L1Line) (grp : Nat) : Team :=
  if v.grp = grp then t
  else t.modGroup v.grp (fun g => { g with tags := (v.line :: g.tags.filter (· != v.line)).take 8 })

/-- The words of a line that come from poisoned sectors of memory, as an L1 marks them (R362). -/
def lineBad (s : State) (line : Nat) : List Nat :=
  (List.range 16).filterMap (fun w =>
    let sec := 4 * line + w / 4
    if s.poison.contains sec then some (w + 16 * (if s.l2lost.contains sec then 3 else 4)) else none)

/-- Puts a line into the L1 for a load of a group (R212, Table 12.3). -/
def l1Fill (t : Team) (grp line mark : Nat) (data : List Byte) (bad : List Nat) : Team :=
  let rest := t.l1.filter (fun x => x.line != line)
  if l1Lines t = 0 then t
  else if rest.length < l1Lines t then { t with l1 := rest ++ [⟨line, l1Room t rest, grp, mark, data, bad⟩] }
  else match l1Victim rest with
    | some v => addTag { t with l1 := rest.filter (fun x => x.line != v.line) ++ [⟨line, v.bank, grp, mark, data, bad⟩] } v grp
    | none => t

/-- A load that misses the L1 and matches one of its group's tags counts an event and clears the tag (R113). -/
def missTag (t : Team) (grp line : Nat) : Team :=
  match tget t.groups grp with
  | some g =>
    if g.tags.contains line then
      { t.modGroup grp (fun g => { g with tags := g.tags.filter (· != line) }) with events := t.events + 1 }
    else t
  | none => t

/-- A load of a group that misses the L1 fills it with a line of memory, the poison of its sectors with it (R212, R362). -/
def l1Take (s : State) (core grp line mark : Nat) : State :=
  modTeam s core (fun t => l1Fill (missTag t grp line) grp line mark (memRead s.mem (line * 128) 128) (lineBad s line))

/-- Drops a line from the L1. -/
def l1Drop (t : Team) (line : Nat) : Team := { t with l1 := t.l1.filter (fun x => x.line != line) }

/-! ### Translation (R51 to R64) -/

/-- The outcome of resolving an address: a translation, a fault kind of Table 4.8, or a miss that a walk
must resolve, by the base of its 64 KiB page. -/
inductive Tr where
  | ok (x : Xl)
  | fault (kind : Nat)
  | miss (page : Nat)
  deriving DecidableEq, Repr

/-- The heap's translation (R54), when the address lies in it. -/
def heapXl (c : Context) (va : Nat) : Option Xl :=
  let h := c.useHbase.toNat
  let base := bitsAt h 30 26
  let limit := bitsAt c.useHlimit.toNat 30 26
  if nbit h 0 && base * 2 ^ 30 ≤ va && va < limit * 2 ^ 30 then
    let va0 := va / 2 ^ 30 * 2 ^ 30
    some { mt := 0, w := nbit h 1, x := false, z := nbit h 2, wp := bitsAt h 3 3, cp := bitsAt h 6 2, aux := 0,
           va0 := va0, size := 2 ^ 30, base := (va0 + bitsAt c.useHoffs.toNat 30 22 * 2 ^ 30) % 2 ^ 52, heap := true }
  else none

/-- The page size of a leaf by level (Table 4.3). -/
def pageSize (level : Nat) : Nat := if level = 2 then 2 ^ 30 else if level = 1 then 2 ^ 21 else 2 ^ 16

/-- The index of an address at a level (Table 4.3). -/
def walkIndex (va level : Nat) : Nat :=
  match level with
  | 3 => bitsAt va 43 13
  | 2 => bitsAt va 30 13
  | 1 => bitsAt va 21 9
  | _ => bitsAt va 16 5

/-- The size of the table at a level (Table 4.3). -/
def tableSize (level : Nat) : Nat :=
  match level with
  | 3 => 2 ^ 16
  | 2 => 2 ^ 16
  | 1 => 2 ^ 12
  | _ => 256

/-- A leaf entry is well formed (R57, Table 4.5). -/
def leafOk (s : State) (e level : Nat) : Bool :=
  let mt := bitsAt e 4 3
  let aux := bitsAt e 52 12
  let size := pageSize level
  let pfn := bitsAt e 16 36 * 2 ^ 16
  bitsAt e 13 3 == 0 && level != 3
  && pfn % (if mt == 7 then 2 * size else size) == 0
  && (!nbit e 3 || mt == 0) && (!nbit e 12 || mt == 0 || mt == 7)
  && (if mt == 5 then aux < 16 && aux != s.pkgid else mt == 7 || aux == 0)

/-- The translation of a leaf. -/
def leafXl (va e level : Nat) : Xl :=
  let size := pageSize level
  { mt := bitsAt e 4 3, w := nbit e 2, x := nbit e 3, z := nbit e 12, wp := bitsAt e 9 3, cp := bitsAt e 7 2,
    aux := bitsAt e 52 12, va0 := va / size * size, size := size, base := bitsAt e 16 36 * 2 ^ 16, heap := false }

/-- The walk from a table down (R55 to R57): a translation, or the fault kind it ends with. `read` gives
the 8-byte entry at an address. -/
def walkFrom (s : State) (read : Nat → Nat) (va table : Nat) : Nat → Except Nat Xl
  | 0 =>
    let e := read (table + 8 * walkIndex va 0)
    if !nbit e 0 then .error 0x2
    else if nbit e 1 && leafOk s e 0 then .ok (leafXl va e 0) else .error 0x3
  | level + 1 =>
    let e := read (table + 8 * walkIndex va (level + 1))
    if !nbit e 0 then .error 0x2
    else if nbit e 1 then (if leafOk s e (level + 1) then .ok (leafXl va e (level + 1)) else .error 0x3)
    else
      let next := bitsAt e 8 44 * 2 ^ 8
      if bitsAt e 2 6 != 0 || bitsAt e 52 12 != 0 || next % tableSize level != 0 then .error 0x3
      else walkFrom s read va next level

/-- No translation CSR of a context has been written since the last TLBINV that covers it (R53). -/
def Context.settled (c : Context) : Bool :=
  c.useHbase == c.hbase && c.useHlimit == c.hlimit && c.useHoffs == c.hoffs && c.usePtroot == c.ptroot

/-- A context as an access at an address finds it: until the TLBINV each access uses the old or the new value of a written CSR,
which one being free (R53, log 64). -/
def ctxNow (s : State) (ctx va : Nat) : Context :=
  let c := ctxOf s ctx
  let pick (reg : Nat) (old new : Word) : Word := if Config.takesNew s.stamp va reg then new else old
  if c.settled then c
  else { c with useHbase := pick 0 c.useHbase c.hbase, useHlimit := pick 1 c.useHlimit c.hlimit,
                useHoffs := pick 2 c.useHoffs c.hoffs, usePtroot := pick 3 c.usePtroot c.ptroot }

/-- The root of a context's tables, in effect (Table 4.2). -/
def rootOf (c : Context) : Nat := bitsAt c.usePtroot.toNat 16 36 * 2 ^ 16

/-- A translation that consults no TLB: the heap, then the tables in memory (R54, R56). The hub, the copy
channels and the walkers translate so. -/
def resolve (s : State) (ctx va : Nat) : Except Nat Xl :=
  let c := ctxNow s ctx va
  if va ≥ 2 ^ 56 then .error 0x1
  else match heapXl c va with
    | some x => .ok x
    | none =>
      if !nbit c.usePtroot.toNat 0 then .error 0x2
      else walkFrom s (fun a => memNat s.mem a 8) va (rootOf c) 3

/-- A cached translation that covers an address (R63). -/
def tlbFind (tlb : List (Nat × Xl)) (ctx va : Nat) : Option Xl :=
  (tlb.find? (fun e => e.1 == ctx && decide (e.2.va0 ≤ va) && decide (va < e.2.va0 + e.2.size))).map (·.2)

/-- A group's translation of an address (R54, R63, R64): the heap, the core's and the die's TLB, the
outcome of a finished walk, or a miss. -/
def translate (s : State) (core ctx : Nat) (walked : List (Nat × Nat)) (va : Nat) : Tr :=
  let c := ctxNow s ctx va
  if va ≥ 2 ^ 56 then .fault 0x1
  else match heapXl c va with
    | some x => .ok x
    | none =>
      if !nbit c.usePtroot.toNat 0 then .fault 0x2
      else match tlbFind (coreRegs s core).tlb ctx va with
        | some x => .ok x
        | none => match tlbFind (dieOf s (dieNo core)).tlb ctx va with
          | some x => .ok x
          | none => match walked.find? (fun e => e.1 == va / 2 ^ 16 * 2 ^ 16) with
            | some e => .fault e.2
            | none => .miss (va / 2 ^ 16 * 2 ^ 16)

/-- SEL of a publish buffer (R60). -/
def selOf (s : State) (ctx id : Nat) : Bool := (ctxOf s ctx).sel.contains id

/-- The physical address of an access; a page of MT 7 resolves to its front, or to its back (R60). -/
def physAddr (s : State) (ctx : Nat) (x : Xl) (va : Nat) (back : Bool) : Nat :=
  let pa := x.base + (va - x.va0)
  if x.mt == 7 && (selOf s ctx x.aux != back) then pa + x.size else pa % 2 ^ 52

/-- The kinds of access that Table 4.6 tells apart. -/
inductive AKind where
  | load | ldc | store | ldb | stb | rmw | fetch | cmnt | pref | emit | launch | arrive | waitv | publ
  | copySrc | copyDst | tx
  deriving DecidableEq, Repr

/-- The memory types that an access kind admits (Table 4.6). -/
def admits (k : AKind) (mt : Nat) : Bool :=
  match k with
  | .load => mt == 0 || mt == 5 || mt == 7
  | .ldc => mt == 0 || mt == 7
  | .store | .stb => mt ≤ 3 || mt == 5
  | .ldb | .copySrc | .pref => mt == 0 || mt == 5 || mt == 7
  | .rmw | .waitv => mt == 0 || mt == 5
  | .fetch | .cmnt | .launch | .arrive | .tx => mt == 0
  | .emit => mt == 4
  | .publ | .copyDst => mt == 7

/-- The accesses that need W (Table 4.5, R59, R313). -/
def needsW (k : AKind) : Bool :=
  match k with
  | .store | .stb | .rmw | .emit | .arrive | .copyDst => true
  | _ => false

/-- The cause of a fault kind (Table 4.8); `remote` for MT 5. -/
def kindCause (kind : Nat) (remote : Bool) : Nat :=
  match kind with
  | 0x2 => 0x04
  | 0x4 => 0x13
  | 0x5 => 0x02
  | 0x8 => if remote then 0x07 else 0x05
  | _ => 0x05

/-- The trap of a fault kind at a virtual address (R61). -/
def kindTrap (kind va : Nat) : TrapInfo := ⟨kindCause kind false, word va, word kind⟩

/-- TINFO of a remote trap (Table 15.2). -/
def remoteInfo (kind yst peer stream serial reason : Nat) : Word :=
  word (kind + 2 ^ 4 * yst + 2 ^ 8 * peer + 2 ^ 12 * stream + 2 ^ 16 * serial + 2 ^ 48 * reason)

/-- The outcome of one lane's checks. -/
inductive LaneTr where
  | ok (x : Xl)
  | trap (t : TrapInfo)
  | notValid
  | miss (page : Nat)
  deriving DecidableEq, Repr

/-- The physical addresses of the device registers (Table 4.1). -/
def deviceBase : Nat := 0xF000000000000

/-- A physical range is populated (R52, R66). For a page of MT 0, 4 or 7 whose address lies among the device registers the spec
gives no outcome; the model takes it as a hole (log 70). -/
def populated (pa n : Nat) : Bool := pa + n ≤ hbmTop

/-- A physical range of a page of MT 6 lies in no hole (R52). One in the range of the HBM the model takes as device registers, as
Table 4.6 has it, where Table 4.1 has HBM (DESIGN CHOICE, log 95). -/
def deviceRange (pa n : Nat) : Bool := populated pa n || deviceBase ≤ pa

/-- A lane's checks in the order of Table 4.7, with PEERDEAD after step 6 (R273). `align` is the required
alignment; `wide` says the access is n32 or n64, for MT 6 (R59). A LAUNCH meets WINKIND on any MT but 0 (R134). -/
def checkLane (s : State) (core ctx : Nat) (service : Bool) (walked : List (Nat × Nat)) (k : AKind)
    (va align : Nat) (wide : Bool) : LaneTr :=
  if va % align != 0 && k != .pref then .trap ⟨0x03, word va, 0⟩
  else match translate s core ctx walked va with
    | .fault 0x2 => .notValid
    | .fault kind => .trap (kindTrap kind va)
    | .miss p => .miss p
    | .ok x =>
      if x.mt == 6 && k != .launch then
        (if !service then .trap (kindTrap 0x5 va)
         else if !((k == .load || k == .store) && wide) then .trap (kindTrap 0x4 va)
         else if k == .store && !x.w then .trap (kindTrap 0x6 va)
         else .ok x)
      else if !admits k x.mt then .trap (kindTrap 0x4 va)
      else if needsW k && !x.w then .trap (kindTrap 0x6 va)
      else if k == .fetch && !x.x then .trap (kindTrap 0x7 va)
      else if x.mt == 5 && s.peerdead.getLsbD x.aux && k != .copySrc then
        .trap ⟨0x08, word va, remoteInfo 0 6 x.aux 0 0 0⟩
      else .ok x

/-- What the lanes of an instruction come to (R62, R223). -/
inductive LanesTr where
  | ok (l : List Acc)
  | trap (t : TrapInfo)
  | pageFault (va : Nat)
  | misses (pages : List Nat)
  deriving DecidableEq, Repr

/-- The outcome of an instruction whose lanes' checks are `r`, lowest lane first (R62): a trap of the
lowest failing lane, else a page fault, else every lane's access. Misses are resolved first (R64). -/
def joinLanes (r : List (Nat × Nat × LaneTr)) : LanesTr :=
  let misses := r.filterMap (fun e => match e.2.2 with | .miss p => some p | _ => none)
  if !misses.isEmpty then .misses (sortNat misses) else
  match r.findSome? (fun e => match e.2.2 with | .trap t => some t | _ => none) with
  | some t => .trap t
  | none =>
    match r.findSome? (fun e => match e.2.2 with | .notValid => some e.2.1 | _ => none) with
    | some va => .pageFault va
    | none => .ok (r.filterMap (fun e => match e.2.2 with | .ok x => some ⟨e.1, e.2.1, x⟩ | _ => none))

/-! ### Errors in memory (R358 to R362) -/

/-- The sectors that `[pa, pa + n)` touches. -/
def sectorsOf (pa n : Nat) : List Nat := if n = 0 then [] else (List.range ((pa + n - 1) / 32 - pa / 32 + 1)).map (· + pa / 32)

/-- Appends a record to the run-time section of the defect map, which holds 512; die 8 is the hub (R395). -/
def appendRt (s : State) (struct die unit row : Nat) : State :=
  if s.defrt.length < 512 then
    { s with defrt := s.defrt ++ [word (struct + 2 ^ 4 * (die % 8) + (if die ≥ 8 then 2 ^ 7 else 0) + 2 ^ 8 * (unit % 64) + 2 ^ 16 * (row % 2 ^ 16))] }
  else s

/-- Adds 1 to a field of SECNT, saturating (Table 22.4). -/
def bumpSecnt (s : State) (lo w : Nat) : State :=
  let x := s.secnt.toNat
  let v := bitsAt x lo w
  { s with secnt := word (x - v * 2 ^ lo + satAdd w v 1 * 2 ^ lo) }

/-- Counts a correction of a row of a structure (R358 to R361, R364): the third of a row in a window makes
the fault lasting, which retires the row to a spare, whose count begins anew, or without a spare disables the unit. Each
correction is one event of the log; `unit` is its UNIT there, `inst` the unit's own number, and die 8 is the hub. -/
def countCorrection (s : State) (addr struct die unit inst key row : Nat) (disable : State → State) : State :=
  let n := tgetD (dieOf s die).corr key 0 + 1
  let s := modDie (bumpSecnt s 0 32) die (fun d => { d with corr := tset d.corr key n })
  let log (s : State) (event : Nat) : State := logEvent s addr event struct die (decide (die ≥ 8)) unit
  if n != 3 then log s 1
  else
    let used := tgetD (dieOf s die).spares (struct * 64 + inst) 0
    if used < 1 then
      let s := modDie s die (fun d => { d with spares := tset d.spares (struct * 64 + inst) (used + 1), corr := tdel d.corr key })
      log (appendRt (bumpSecnt s 48 16) struct die inst row) 2
    else log (disable (appendRt s struct die inst row)) 5

/-- A slice of the L2 without a spare is recorded as disabled, and keeps serving (R361). -/
def disableSlice (die slice : Nat) (s : State) : State := modDie s die (fun d => { d with slices := d.slices ||| 2 ^ slice })

/-- A sector's value is lost: nothing of it has been overwritten since; `l2` says that an error of the L2 has cost it (R362). -/
def poisonSector (s : State) (sec : Nat) (l2 : Bool) : State :=
  { s with poison := insertNat sec s.poison, l2lost := if l2 then insertNat sec s.l2lost else s.l2lost.filter (· != sec),
           renewed := s.renewed.filter (fun a => a / 32 != sec) }

/-- The key of a row's count: its structure, its unit and the row (R360). -/
def corrKey (struct unit row : Nat) : Nat := struct * 2 ^ 60 + unit * 2 ^ 32 + row

/-- The row of HBM of an address, in the instance of its home slice: a row of 8 KiB holds 64 lines of one slice. Which lines
share a row the spec does not say (R360, log 54). -/
def hbmRow (pa : Nat) : Nat := pa / 2 ^ 20

/-- A correctable error of HBM is corrected and counted by its row (R358, R360). -/
def correctHbm (s : State) (pa : Nat) : State :=
  let die := homeSlice pa / 16
  let unit := homeSlice pa % 16
  countCorrection s pa 4 die unit unit (corrKey 4 unit (hbmRow pa)) (hbmRow pa) (disableSlice die unit)

/-- An access that meets a placed error: a correctable one is corrected and counted; one that is not
correctable poisons its sector and is logged (R358, R362, R364). -/
def meetUpset (s : State) (sec : Nat) : State :=
  let pa := sec * 32
  let die := homeSlice pa / 16
  let unit := homeSlice pa % 16
  match s.upsets.find? (fun u => u.1 == sec) with
  | none => s
  | some (_, 1) => correctHbm { s with upsets := s.upsets.filter (fun u => u.1 != sec) } pa
  | some (_, k) =>
    logEvent (poisonSector { s with upsets := s.upsets.filter (fun u => u.1 != sec) } sec (k == 3)) pa 3 (if k == 3 then 3 else 4) die false unit

/-- The errors that an access to `[pa, pa + n)` meets. -/
def meetUpsets (s : State) (pa n : Nat) : State := if s.upsets.isEmpty then s else (sectorsOf pa n).foldl meetUpset s

/-- Whether an access to `[pa, pa + n)` consumes poison (R362). -/
def poisoned (s : State) (pa n : Nat) : Bool := (sectorsOf pa n).any (fun x => s.poison.contains x)

/-- Whether an access to `[pa, pa + n)` finds a value that is lost: poison, or a placed error that is not correctable and that
it is the first to meet (R362). -/
def lostAt (s : State) (pa n : Nat) : Bool :=
  poisoned s pa n || s.upsets.any (fun u => u.2 != 1 && (sectorsOf pa n).contains u.1)

/-- STRUCT of the poison in `[pa, pa + n)`: the L2's, or HBM's (Tables 22.1 and 22.2). -/
def poisonStruct (s : State) (pa n : Nat) : Nat := if (sectorsOf pa n).any (fun x => s.poison.contains x && s.l2lost.contains x) then 3 else 4

/-! ### Writing memory at its home -/

/-- Sends an invalidation to every port buffer that holds a line (R299); the buffers drop it when the
invalidation is applied. -/
def sendInval (s : State) (line : Nat) : State :=
  let hit := s.portBufs.filter (fun b => b.2.1 == line && !s.pendInv.contains (b.1, line))
  { s with pendInv := s.pendInv ++ hit.map (fun b => (b.1, line)) }

/-- A port buffer applies an invalidation: it drops the line (R299). -/
def applyInval (s : State) (p : Nat × Nat) : State :=
  { s with portBufs := s.portBufs.filter (fun b => !(b.1 == p.1 && b.2.1 == p.2)), pendInv := s.pendInv.filter (· != p) }

/-- Every pending invalidation is applied, as a release at .sys has it before it is performed (R299). -/
def applyAll (s : State) : State := s.pendInv.foldl applyInval s

/-- The bytes of a sector, by address. -/
def sectorBytes (sec : Nat) : List Nat := (List.range 32).map (· + 32 * sec)

/-- Overwriting all 32 bytes of a poisoned sector clears it, in one write or in several (R362, log 88). -/
def clearPoison (s : State) (pa n : Nat) : State :=
  if s.poison.isEmpty then s else
  let hit := (sectorsOf pa n).filter (fun x => s.poison.contains x)
  let renewed := s.renewed ++ (hit.flatMap sectorBytes).filter (fun a => decide (pa ≤ a) && decide (a < pa + n) && !s.renewed.contains a)
  let gone := hit.filter (fun x => (sectorBytes x).all (fun a => renewed.contains a))
  { s with poison := s.poison.filter (fun x => !gone.contains x), l2lost := s.l2lost.filter (fun x => !gone.contains x),
           renewed := renewed.filter (fun a => !gone.contains (a / 32)) }

/-- Writes bytes at their home slice: memory, port buffers; what it overwrites of a poisoned sector counts (R211, R299,
R362). -/
def homeWrite (s : State) (pa : Nat) (bs : List Byte) : State :=
  let whole := (sectorsOf pa bs.length).filter (fun x => pa ≤ x * 32 && x * 32 + 32 ≤ pa + bs.length)
  let s := { s with mem := memWrite s.mem pa bs, upsets := s.upsets.filter (fun x => !whole.contains x.1) }
  (linesOf pa bs.length).foldl sendInval (clearPoison s pa bs.length)

/-- Refreshes or drops nothing but the listed lines of a core's L1: a line present takes the memory's
bytes, so the L1 holds no copy older than what the core has just accessed; an error of its own stays in a word that is not
written whole (R212, R291, R358). -/
def l1Refresh (s : State) (core pa n : Nat) : State :=
  modTeam s core (fun t =>
    let ls := linesOf pa n
    let kept (line w : Nat) : Bool := w < 16 && !(decide (pa ≤ 128 * line + 8 * w) && decide (128 * line + 8 * w + 8 ≤ pa + n))
    { t with l1 := t.l1.map (fun x => if ls.contains x.line then
        { x with data := memRead s.mem (x.line * 128) 128, bad := x.bad.filter (kept x.line) ++ lineBad s x.line } else x) })

/-- Drops the lines of `[pa, pa + n)` from a core's L1 (R291, R305). -/
def l1DropRange (s : State) (core pa n : Nat) : State := modTeam s core (fun t => (linesOf pa n).foldl l1Drop t)

/-- Empties a core's L1, as an acquire at .clus or wider does (R212). -/
def l1Clear (s : State) (core : Nat) : State := modTeam s core (fun t => { t with l1 := [] })

/-- Whether an acquire of a scope invalidates the L1 (R212). -/
def clearsL1 (o : Ord) : Bool := o.acq && scopeRank o.scope ≥ 2

/-- Work with a lane in a peer's memory. -/
def workRemote (w : Work) : Bool :=
  match w with
  | .load _ _ _ ls => ls.any (fun a => a.xl.mt == 5)
  | .store _ ls => ls.any (fun a => a.1.xl.mt == 5)
  | .loadBlock _ ls => ls.any (fun b => b.any (fun a => a.1.xl.mt == 5))
  | .storeBlock _ ls => ls.any (fun b => b.1.any (fun a => a.1.xl.mt == 5))
  | .atom _ _ _ ls => ls.any (fun a => a.acc.xl.mt == 5)
  | .remote _ => true
  | _ => false

/-- The order of an access: on a peer's memory it is taken at .sys scope, whatever SCOPE holds (R269). -/
def effOrd (o : Ord) (w : Work) : Ord := if workRemote w then { o with scope := .sys } else o

/-- The policy of an access: its hint, else the page's CP (R214). -/
def policy (o : Ord) (x : Xl) : Nat := o.hint.getD x.cp

/-- Reads `n` bytes for a group of `core` through the L1 (MT 0 and 7), filling it as the policy says (R212 to R214). The spec gives a
line's mark at its fill only: in the model a hit under policy evict-first marks the line evict-first, one that an LDC filled
as retain too (DESIGN CHOICE, log 94). -/
def cachedRead (s : State) (core ctx grp : Nat) (o : Ord) (retain : Bool) (x : Xl) (va n : Nat) : State × List Byte :=
  let pa := physAddr s ctx x va false
  let cp := policy o x
  match tget s.teams core with
  | none => (s, memRead s.mem pa n)
  | some t =>
    match (if cp == 3 then none else t.l1.find? (fun y => y.line == pa / 128)) with
    | some y => (setTeam s core { t with l1 := t.l1.filter (fun z => z.line != y.line) ++ [if cp == 1 then { y with mark := 1 } else y] },
        (y.data.drop (pa % 128)).take n)
    | none =>
      let s := l2Touch (if cp == 3 then meetUpsets s pa n else meetUpsets s (pa / 128 * 128) 128) pa cp x.wp false
      let s := if cp == 3 then l1DropRange s core pa n else l1Take s core grp (pa / 128) (if retain then 2 else if cp == 1 then 1 else 0)
      (s, memRead s.mem pa n)

/-! ### The deterministic store buffer and transactions as loads see them (R307, R316) -/

/-- The space of a physical address: 0 is the package's own memory, 4096 + package a peer's. -/
def spaceOf (x : Xl) : Nat := if x.mt == 5 then 4096 + x.aux else 0

/-- The pieces of a byte string that stands in pieces of memory: space, address and bytes of each. -/
def pieceBytes (s : State) (ctx : Nat) : List (Acc × Nat) → List Byte → List (Nat × Nat × List Byte)
  | [], _ => []
  | p :: r, bs => (spaceOf p.1.xl, physAddr s ctx p.1.xl p.1.va false, bs.take p.2) :: pieceBytes s ctx r (bs.drop p.2)

/-- The bytes that a store entry of a DET buffer names, in lane order: (space, address, byte). -/
def detBytes (s : State) (ctx : Nat) (w : Work) : List (Nat × Nat × Byte) :=
  let spread (x : Nat × Nat × List Byte) : List (Nat × Nat × Byte) := x.2.2.zipIdx.map (fun b => (x.1, x.2.1 + b.2, b.1))
  match w with
  | .store ty ls => ls.flatMap (fun e =>
      spread (spaceOf e.1.xl, physAddr s ctx e.1.xl e.1.va false, leBytes (tyBits ty / 8) e.2.toNat))
  | .storeBlock _ ls => ls.flatMap (fun e => (pieceBytes s ctx e.1 e.2).flatMap spread)
  | _ => []

/-- The buffer's order of draining: ascending group context, issue order within each (R315). -/
def detOrder (d : List DetEntry) : List DetEntry :=
  (sortNat (d.map (·.grp))).flatMap (fun g => d.filter (fun e => e.grp == g))

/-- The bytes of a space that the team's buffered stores hold for a load with order number `id`: those of stores
issued before it, in the order of draining (R316). -/
def detOver (s : State) (t : Team) (ctx space id : Nat) : List (Nat × Byte) :=
  if t.det.isEmpty then [] else
  ((detOrder (t.det.filter (fun d => d.id < id))).flatMap (fun e => detBytes s ctx e.work)).filterMap (fun w =>
    if w.1 == space then some w.2 else none)

/-- Bytes read at `pa` with writes laid over them, the last of each byte. -/
def layOver (ws : List (Nat × Byte)) (pa : Nat) (bs : List Byte) : List Byte :=
  if ws.isEmpty then bs else
  (bs.zipIdx).map (fun b => (ws.foldl (fun acc w => if w.1 == pa + b.2 then w.2 else acc) b.1))

/-- Bytes read at `pa`, with the team's own buffered stores laid over them (R316). -/
def detOverlay (s : State) (t : Team) (ctx id pa : Nat) (bs : List Byte) : List Byte := layOver (detOver s t ctx 0 id) pa bs

/-- Bytes read at `pa` in a lane's transaction: its own buffered writes of stores before the load, and memory (R307). -/
def txOverlay (g : Group) (l id pa : Nat) (bs : List Byte) : List Byte :=
  layOver ((g.txw.filter (fun w => w.lane == l && w.id < id)).flatMap (fun w => (w.bytes.zipIdx).map (fun b => (w.pa + b.2, b.1)))) pa bs

/-! ### Atomic operations (R303) -/

/-- The new memory value of an atomic operation (R303, R286). -/
def atomNew (op ty : Nat) (m b n : Nat) : Nat :=
  let w := tyBits ty
  let f := fun (g : Num → Num → Num) => fmtF32.round 0 false none (g (fmtF32.read m) (fmtF32.read b))
  match op with
  | 0 => if ty == 8 then f (numAdd 0) else (m + b) % 2 ^ w
  | 1 => if ty == 8 then f numMin else if tyInt ty m ≤ tyInt ty b then m else b
  | 2 => if ty == 8 then f numMax else if tyInt ty m ≥ tyInt ty b then m else b
  | 3 => m &&& b
  | 4 => m ||| b
  | 5 => m ^^^ b
  | 6 => b
  | _ => if m == b then n else m

/-! ### Blocks (R165, R166, R170, R229) -/

/-- Payload bytes of a block type (Table 10.5). -/
def payBytes (t : Nat) : Nat := 4 * tyBits t

/-- Bytes of separately placed metadata (Table 10.5). -/
def metaBytes (t : Nat) : Nat := if 0x0D ≤ t && t ≤ 0x0F then 4 else 1

/-- The number of payload registers of a block (R229). -/
def payRegs (t : Nat) : Nat := (payBytes t + 7) / 8

/-- The 8-byte registers of a byte string. -/
def regsOfBytes (bs : List Byte) : Nat → List Word
  | 0 => []
  | n + 1 => word (leNat (bs.take 8)) :: regsOfBytes (bs.drop 8) n

/-- A block's payload with the element codes of Table 10.7 replaced by their substitutes. -/
def substPayload (t : Nat) (bs : List Byte) : List Byte :=
  if 0x0D ≤ t && t ≤ 0x0F then
    let b := tyBits t
    let x := leNat bs
    let es := (List.range 32).map (fun i => bitsAt x (b * i) b)
    leBytes bs.length (ofElems b (es.map (fun e => if e == 2 ^ (b - 1) then 0 else e)))
  else bs

/-- Metadata as a block store writes it (R170): E = 0xFF as 0xFE, Z[7:4] of iz4 as zero. -/
def substMeta (t : Nat) (x : Nat) : Nat :=
  if 0x0D ≤ t && t ≤ 0x0F then (if x % 256 == 0xFF then x % 2 ^ 32 - 1 else x % 2 ^ 32)
  else if t == 0x17 then x % 16 else x % 256

/-! ### Which entry may be performed (R217, R218, R276, R289, R291, R297, R315, R323) -/

/-- The bytes that work names, as (lane, space, first, length): space 0 is local memory, 1 + core a scratchpad by
8-byte words, 4096 + package peer memory. -/
def workRanges (s : State) (ctx : Nat) (w : Work) : List (Nat × Nat × Nat × Nat) :=
  let one (a : Acc) (n : Nat) : Nat × Nat × Nat × Nat := (a.lane, spaceOf a.xl, physAddr s ctx a.xl a.va false, n)
  let sp (a : SAcc) : Nat × Nat × Nat × Nat := (a.lane, 1 + a.core, a.off / 8 * 8, 8)
  match w with
  | .load ty _ _ ls => ls.map (fun a => one a (tyBits ty / 8))
  | .store ty ls => ls.map (fun e => one e.1 (tyBits ty / 8))
  | .loadBlock _ ls => ls.flatMap (fun b => b.map (fun p => one p.1 p.2))
  | .storeBlock _ ls => ls.flatMap (fun b => b.1.map (fun p => one p.1 p.2))
  | .sload _ ls => ls.map sp
  | .sstore _ ls => ls.map (fun e => sp e.1)
  | .atom _ ty _ ls => ls.map (fun e => one e.acc (tyBits ty / 8))
  | .satom _ _ ls => ls.map (fun e => sp e.acc)
  | .arrive a _ => [one a 4]
  | _ => []

/-- The ranges of an entry's requests and of its stores to windows that have no answer yet. -/
def sentRanges (s : State) (e : OttEntry) : List (Nat × Nat × Nat × Nat) :=
  match e.work with
  | .remote _ =>
    (s.reqs.filter (fun r => r.ott == e.id && r.grp == e.grp)).flatMap (fun r =>
      let ps : List (Nat × Nat) := match r.kind with
        | .read => r.parts
        | .write => r.data.map (fun d => (d.1, d.2.length))
        | .stream => [(r.pa, r.len)]
        | _ => []
      ps.map (fun p => (r.lane % 64, 4096 + r.owner, p.1, p.2)))
  | _ => []

/-- The threads in whose program order a lane's access stands: a uniform access stands in that of every lane (R290). -/
def OttEntry.tidsOf (e : OttEntry) (lane : Nat) : List Nat :=
  if e.unif then e.tids.map (·.2) else (e.tids.filter (fun x => x.1 == lane)).map (·.2)

/-- The bytes that an entry names, each with the threads in whose program order the access stands. -/
def entryRanges (s : State) (ctx : Nat) (e : OttEntry) : List (List Nat × Nat × Nat × Nat) :=
  (workRanges s ctx e.work ++ sentRanges s e).map (fun r => (e.tidsOf r.1, r.2))

/-- Two lists of threads share one. -/
def sharesThread (a b : List Nat) : Bool := a.any (fun x => b.contains x)

/-- Two accesses that are performed in program order: they name a byte of memory and share a thread (R291), or name one
word of a scratchpad and belong to one group (R227). -/
def rangesMeet (oneGroup : Bool) (a b : List Nat × Nat × Nat × Nat) : Bool :=
  a.2.1 == b.2.1 && decide (a.2.2.1 < b.2.2.1 + b.2.2.2) && decide (b.2.2.1 < a.2.2.1 + a.2.2.2)
  && (sharesThread a.1 b.1 || (oneGroup && 1 ≤ a.2.1 && a.2.1 < 4096))

/-- Two entries share a thread (R290, R301). -/
def sharesLane (a b : OttEntry) : Bool := sharesThread (a.tids.map (·.2)) (b.tids.map (·.2))

/-- The core that a team is resident on. -/
def coreOf (s : State) (t : Team) : Option Nat :=
  (s.teams.find? (fun e => e.2.launch == t.launch && e.2.cix == t.cix && e.2.tix == t.tix)).map (·.1)

/-- A drained write with bytes of a line of a peer awaits its acknowledgement: one that the team sent at a preemption, or one of the
team's core, whichever team had it then (R218, R219). -/
def sentHolds (s : State) (t : Team) (peer line : Nat) : Bool :=
  s.reqs.any (fun r => r.kind == .write && r.owner == peer && (t.sent.any (fun x => x.id == r.id) || (r.ott == 0 && coreOf s t == some r.core))
    && r.data.any (fun d => (linesOf d.1 d.2.length).contains line))

/-- Combined bytes of a line of a peer are not acknowledged: an entry of the team holds them, or they were sent at a
preemption (R217 to R219). -/
def wcHolds (s : State) (t : Team) (peer line : Nat) : Bool :=
  t.wc.any (fun e => e.peer == peer && e.line == line) || sentHolds s t peer line

/-- The pieces of peers' memory that work stores into the combining buffer, as (space, first, length): those of an STG
that is not a release (R217). -/
def combines (s : State) (ctx : Nat) (o : Ord) (w : Work) : List (Nat × Nat × Nat) :=
  match w with
  | .store _ _ => if o.rel then [] else ((workRanges s ctx w).filter (fun r => r.2.1 ≥ 4096)).map (·.2)
  | _ => []

/-- The peer lines that work names, other than those it may combine into (R217, R218). -/
def peerLines (s : State) (ctx : Nat) (o : Ord) (w : Work) : List (Nat × Nat) :=
  if !(combines s ctx o w).isEmpty then [] else
  match w with
  | .arrive _ _ => []
  | _ => (workRanges s ctx w).flatMap (fun r => if r.2.1 ≥ 4096 then (linesOf r.2.2.1 r.2.2.2).map (fun l => (r.2.1 - 4096, l)) else [])

/-- The peer lines for which work would take a new combining entry. -/
def newLines (s : State) (ctx : Nat) (t : Team) (o : Ord) (w : Work) : Nat :=
  (sortNat (((combines s ctx o w).filter (fun r => !(t.wc.any (fun x => x.peer + 4096 == r.1 && x.line == r.2.1 / 128 && x.seq.isNone)))).map
    (fun r => r.2.1 / 128 * 16 + (r.1 - 4096)))).length

/-- The entries that another event ends: those with lanes at a peer or the hub, those that wait for the token, and those
of a channel, an engine command, a stream, a reservation or the journal. -/
def workBusy : Work → Bool
  | .remote _ | .cwait _ _ _ | .engine _ | .sclose _ | .mrsv _ | .publ _ _ | .jseed | .buffered => true
  | _ => false

/-- A stream operation with lanes at a peer that has not taken its serials (R276). -/
def takesSerial (w : Work) : Bool :=
  match w with
  | .atom _ _ _ ls => ls.any (fun a => a.acc.xl.mt == 5)
  | _ => false

/-- An EMIT that has not entered the gate. -/
def isEmit (w : Work) : Bool :=
  match w with
  | .emit _ _ _ => true
  | _ => false

/-- A LAUNCH. -/
def isLaunch (w : Work) : Bool :=
  match w with
  | .launch _ _ => true
  | _ => false

/-- The stream of an atomic. -/
def streamNo (w : Work) : Nat :=
  match w with
  | .atom _ _ st _ => st
  | _ => 0

/-- Work that stores into a window (R320). -/
def isWindow (w : Work) : Bool :=
  let win (x : Xl) : Bool := 1 ≤ x.mt && x.mt ≤ 3
  match w with
  | .store _ ls => ls.any (fun a => win a.1.xl)
  | .storeBlock _ ls => ls.any (fun b => b.1.any (fun a => win a.1.xl))
  | _ => false

/-- Work of an agent of its own, which no order of a thread waits for but by its own instruction (R290, R310). -/
def otherAgent (w : Work) : Bool :=
  match w with
  | .engine _ | .mrsv _ | .cwait _ _ _ => true
  | _ => false

/-- A buffered write counts as performed at .grp and .team (R316). -/
def countsDone (scope : Scope) (w : Work) : Bool := otherAgent w || (w == .buffered && scopeRank scope ≤ 1)

/-- Work of a read-modify-write that is not applied: an atomic at home or in a scratchpad, at a peer, or, of what a DET store
buffer holds with an acquire, a RED. -/
def rmwLeft (s : State) (x : OttEntry) : Bool :=
  match x.work with
  | .atom _ _ _ _ | .satom _ _ _ | .buffered => true
  | .remote _ => s.reqs.any (fun r => r.ott == x.id && r.grp == x.grp && r.kind == .stream)
  | _ => false

/-- A release counts an entry as performed at its scope; a LAUNCH does so for a write that waits for the commit token, which
does not hold it back (R135, R316). -/
def relDone (e : OttEntry) (x : OttEntry) : Bool :=
  countsDone (effOrd e.ord e.work).scope x.work || (x.work == .buffered && isLaunch e.work)

/-- The translations that an entry's work holds. -/
def workXls : Work → List Xl
  | .load _ _ _ ls => ls.map (·.xl)
  | .store _ ls => ls.map (·.1.xl)
  | .loadBlock _ ls => ls.flatMap (fun b => b.map (·.1.xl))
  | .storeBlock _ ls => ls.flatMap (fun b => b.1.map (·.1.xl))
  | .atom _ _ _ ls => ls.map (·.acc.xl)
  | .cmnt _ ls => ls.map (·.xl)
  | .arrive a _ | .publ a _ => [a.xl]
  | .launch ls _ => ls.map (·.2.xl)
  | .emit ls _ _ => ls.map (·.1.xl)
  | _ => []

/-- An entry waits for an earlier one of a thread that they share, or of its group: an acquire that is a read-modify-write
orders the accesses of its whole group (R227, R276, R289, R291, R305, R323, R372). -/
def waitsFor (s : State) (ctx : Nat) (e x : OttEntry) : Bool :=
  (sharesLane e x && (((effOrd e.ord e.work).rel && !relDone e x) || x.ord.acq))
  || (e.grp == x.grp && ((x.ord.acq && rmwLeft s x) || (isEmit e.work && isEmit x.work)))
  || (e.grp == x.grp && isWindow e.work && isWindow x.work)
  || (takesSerial e.work && takesSerial x.work && streamNo e.work == streamNo x.work && e.grp == x.grp)
  || (entryRanges s ctx x).any (fun a => (entryRanges s ctx e).any (rangesMeet (e.grp == x.grp) a))

/-- The number that stands for the core of a preempted team (R352). -/
def savedCore (launch cix tix : Nat) : Nat := 1000 + 16 * (launch + 4096 * cix) + tix

/-- The team that made a mark, resident or saved, with the requests that are kept with it. -/
def markTeam (s : State) (core : Nat) : Option (Team × List Req) :=
  match tget s.teams core with
  | some t => some (t, [])
  | none => s.images.findSome? (fun i => (i.teams.find? (fun x => savedCore i.launch i.cix x.1 == core)).map (·.2))

/-- A team has performed, at .sys scope, what it issued before an order number, its combined and buffered writes among it. -/
def carriedBy (s : State) (core stamp : Nat) (t : Team) (kept : List Req) : Bool :=
  t.sent.isEmpty && t.wc.all (fun e => e.vas.all (fun v => decide (stamp ≤ v.2.1))) && t.det.all (fun d => decide (stamp ≤ d.id))
  && (s.reqs.filter (fun r => r.core == core) ++ kept).all (fun r => !(r.kind == .write || r.kind == .stream) || r.ott == 0 || decide (stamp ≤ r.ott))

/-- The core that made a mark has performed, at .sys scope, the writes that its narrow release carries: no invalidation of a
port buffer is pending, and nothing of its team is combined, buffered, or sent to a peer and not acknowledged (R219, R297,
R299, R315). -/
def carried (s : State) (m : Mark) : Bool :=
  s.pendInv.isEmpty && ((markTeam s m.core).map (fun x => carriedBy s m.core m.stamp x.1 x.2)).getD true

/-- The space of marks of a publish buffer: a release by PUBL is read at any byte of it (R240, R297). -/
def bufSpace (ctx id : Nat) : Nat := 2 ^ 16 + 4096 * ctx + id

/-- An acquire of a scope at bytes of a space meets no mark of a narrower release that is not carried (R297). -/
def markFreeIn (s : State) (rank space pa n : Nat) : Bool :=
  s.marks.all (fun m => m.space != space || m.rank ≥ rank || carried s m || m.pa + m.len ≤ pa || pa + n ≤ m.pa)

/-- The same at bytes of the package's own memory. At .sys, where a peer may read a publish buffer by its frames, no buffer holds
a mark that is not carried. -/
def markFree (s : State) (rank : Nat) (pa n : Nat) : Bool :=
  markFreeIn s rank 0 pa n
  && (rank < 4 || s.marks.all (fun m => m.space < 2 ^ 16 || m.space ≥ 2 ^ 30 || m.rank ≥ rank || carried s m))

/-- Marks of a release that carries what its core issued before an order number; marks whose writes are carried go (R297). -/
def addMarks (s : State) (core rank stamp : Nat) (ws : List (Nat × Nat × Nat)) : State :=
  if ws.isEmpty then s
  else { s with marks := s.marks.filter (fun m => !carried s m) ++ ws.map (fun w => ⟨w.1, w.2.1, w.2.2, core, stamp, rank⟩) }

/-- A FENCE with acquire takes the reads before it: it waits for every narrower release that is not carried (R293, R297). -/
def marksFree (s : State) (rank : Nat) : Bool := s.marks.all (fun m => m.rank ≥ rank || carried s m)

/-- Whether a combining entry holds bytes of a group, or of a thread that has left it (R218, R290). -/
def WcEntry.of (w : WcEntry) (grp : Nat) (tids : List Nat) : Bool := w.ctxs.contains grp || sharesThread w.tids tids

/-- Whether a write that was sent at a preemption holds bytes of a group, or of a thread that has left it (R219, R290). -/
def SentWrite.of (w : SentWrite) (grp : Nat) (tids : List Nat) : Bool := w.ctxs.any (fun c => c.1 == grp) || sharesThread w.tids tids

/-- An entry stands in the program order of a group's accesses, or of one of some threads, which may have been in another group
when they made it (R115, R290). -/
def OttEntry.of (e : OttEntry) (grp : Nat) (tids : List Nat) : Bool := e.grp == grp || sharesThread tids (e.tids.map (·.2))

/-- What a group, or one of some threads, combined before an order number is not acknowledged (R217, R219, R290). -/
def combinedBefore (t : Team) (grp : Nat) (tids : List Nat) (id : Nat) : Bool :=
  t.wc.any (fun w => w.vas.any (fun v => (v.1 == grp || sharesThread w.tids tids) && decide (v.2.1 < id)))
  || t.sent.any (fun w => w.of grp tids)

/-- A global write of R315 that is not performed. -/
def globalWrite (w : Work) : Bool :=
  match w with
  | .store _ _ | .storeBlock _ _ | .atom _ _ _ _ | .publ _ _ | .remote _ | .buffered => true
  | _ => false

/-- The buffered write that is drained next, or is being performed: the first in the order of draining (R315). -/
def detHead (t : Team) : Option DetEntry := (detOrder t.det).head?

/-- The entry with the work that it stands for: that of the DET store buffer for a buffered one. -/
def realEntry (t : Team) (e : OttEntry) : OttEntry :=
  if e.work == .buffered then
    match t.det.find? (fun d => d.id == e.id) with
    | some d => { e with work := d.work }
    | none => e
  else e

/-- Everything that the team's groups have combined is acknowledged, as a release at .clus or wider waits for: it carries
what other threads of the team have handed to its own (R218, R219, R289, R294). -/
def wcQuiet (t : Team) : Bool := t.wc.isEmpty && t.sent.isEmpty

/-- The conditions under which an entry of the table is performed: those that earlier entries and the team's
buffers put on it (R217, R218, R225, R289, R291, R294, R297, R315). -/
def inOrder (s : State) (ctx : Nat) (t : Team) (e : OttEntry) : Bool :=
  let o := effOrd e.ord e.work
  let mine := combines s ctx e.ord e.work
  t.ott.all (fun x => x.id ≥ e.id || !waitsFor s ctx e x)
  && (!(o.rel && scopeRank o.scope ≥ 2) || wcQuiet t)
  && (peerLines s ctx e.ord e.work).all (fun p => !wcHolds s t p.1 p.2)
  && (mine.isEmpty || (decide (t.wc.length + newLines s ctx t e.ord e.work ≤ 64 || newLines s ctx t e.ord e.work > 64)
      && t.ott.all (fun x => x.id ≥ e.id || !((combines s ctx x.ord x.work).any (fun a =>
          mine.any (fun b => a.1 == b.1 && decide (a.2.1 < b.2.1 + b.2.2) && decide (b.2.1 < a.2.1 + a.2.2)))))))
  && (!o.acq || ((workRanges s ctx e.work).all (fun r => markFreeIn s (scopeRank o.scope) r.2.1 r.2.2.1 r.2.2.2)
      && (workXls e.work).all (fun x => x.mt != 7 || markFreeIn s (scopeRank o.scope) (bufSpace ctx x.aux) 0 1)))
  && (!(globalWrite e.work || (o.rel && scopeRank o.scope ≥ 2 && !isLaunch e.work)) ||
      match detHead t with | none => true | some d => t.hasToken && d.id == e.id)

/-- Work that is written and whose invalidations of port buffers are pending (R299, R300). -/
def invalLeft (s : State) (w : Work) : Bool :=
  match w with
  | .inval ls => s.pendInv.any (fun p => ls.contains p.2)
  | _ => false

/-- A translation that a channel holds or obtains; it keeps two beyond the one in use (R69). -/
def chanXl (s : State) (c : Channel) (va : Nat) : Except Nat Xl :=
  match c.held.find? (fun x => decide (x.va0 ≤ va) && decide (va < x.va0 + x.size)) with
  | some x => .ok x
  | none => resolve s c.ctx va

/-- The offsets of a channel's source that lie at `[pa, pa + n)` of the package's memory, with their physical addresses. -/
def chanPlaces (s : State) (c : Channel) (pa n : Nat) : List (Nat × Nat) :=
  (List.range (c.len / 2 ^ 16 + 2)).flatMap (fun i =>
    let page := c.src / 2 ^ 16 * 2 ^ 16 + 2 ^ 16 * i
    let lo := if page ≤ c.src then c.src else page
    let hi := if c.src + c.len ≤ page + 2 ^ 16 then c.src + c.len else page + 2 ^ 16
    if hi ≤ lo then [] else
    match chanXl s c lo with
    | .error _ => []
    | .ok x =>
      if x.mt == 5 then [] else
      let q := physAddr s c.ctx x lo false
      ((List.range n).filter (fun k => decide (q ≤ pa + k) && decide (pa + k < q + (hi - lo)))).map (fun k =>
        (lo - c.src + (pa + k - q), pa + k)))

/-- A channel before a block write to pieces of the package's memory: where it has read a part of the block and not the rest, it
keeps what it has not read as it is, by whole 8-byte units, so that it delivers one block (R168, R230, R302). -/
def Channel.keepOlds (s : State) (ps : List (Nat × Nat)) (c : Channel) : Channel :=
  if c.st != .active || c.kind == .cpygSpad then c else
  let at_ := ps.flatMap (fun p => chanPlaces s c p.1 p.2)
  if at_.any (fun x => decide (x.1 < c.p)) && at_.any (fun x => decide (c.p ≤ x.1)) then
    let units := ps.flatMap (fun p => chanPlaces s c (p.1 / 8 * 8) ((p.1 + p.2 + 7) / 8 * 8 - p.1 / 8 * 8))
    { c with olds := units.foldl (fun os x =>
        if x.1 < c.p || os.any (fun o => o.1 == x.1) then os else os ++ [(x.1, memByte s.mem x.2)]) c.olds }
  else c

/-- Every channel before a block write, those of preempted teams among them (R168, R350). -/
def keepOlds (s : State) (ps : List (Nat × Nat)) : State :=
  let keep (t : Team) : Team := { t with chan := t.chan.map (Channel.keepOlds s ps) }
  { s with teams := tmap (fun _ t => keep t) s.teams,
           images := s.images.map (fun i => { i with teams := i.teams.map (fun x => (x.1, keep x.2.1, x.2.2)) }) }

/-- A sector of a channel's source as it delivers it: the bytes that it has kept stand before what memory holds (R168). -/
def Channel.layOlds (c : Channel) (bs : List Byte) : List Byte :=
  if c.olds.isEmpty then bs else bs.zipIdx.map (fun b => ((c.olds.find? (fun o => o.1 == c.p + b.2)).map (·.2)).getD b.1)

/-- A page that a channel meets under migration: it waits (R68, R69). -/
def migratingPage (s : State) (ctx va : Nat) : Bool := s.migrating.any (fun m => m.1 == ctx && m.2 == va / 2 ^ 16 * 2 ^ 16)

/-- The channel's next sector of a side lies on a page under migration that it holds no translation of. -/
def sideWaits (s : State) (c : Channel) (va : Nat) : Bool :=
  (match chanXl s c va with | .error 0x2 => true | _ => false) && migratingPage s c.ctx va

/-- The channel waits for a migration of its source or its destination page (R68, R69, R236). -/
def chanWaits (s : State) (c : Channel) : Bool :=
  (c.kind != .cpygSpad && sideWaits s c (c.src + c.p)) || ((c.kind == .cpyg || c.kind == .cpygSpad) && sideWaits s c (c.dst + c.p))

/-- A channel that goes on has read some of the bytes of a block of its source, given by its pieces, and not all: a block store
with a piece in a peer's memory waits, so that what the channel delivers of the block is one store's (R168, R230, log 73). -/
def cutsBlock (s : State) (ctx : Nat) (ps : List (Nat × Nat)) : Bool :=
  s.teams.any (fun t => t.2.chan.any (fun c =>
    c.st == .active && !c.paused && c.kind != .cpygSpad && c.ctx == ctx && !chanWaits s c
    && ps.any (fun p => decide (p.1 < c.src + c.p) && decide (c.src < p.1 + p.2))
    && ps.any (fun p => decide (c.src + c.p < p.1 + p.2) && decide (p.1 < c.src + c.len))))

/-- A block lies in the memories of several packages, and an access of this package to what it has at one of them is
outstanding there: a block access waits, so that it and the other do not part the block between them (R168, log 75). -/
def blockParted (s : State) (ctx : Nat) (ps : List (Acc × Nat)) : Bool :=
  ps.any (fun x => x.1.xl.mt == 5) && ps.any (fun x => spaceOf x.1.xl != ((ps.head?.map (fun y => spaceOf y.1.xl)).getD 0))
  && s.reqs.any (fun r => (r.kind == .read || r.kind == .write) && ps.any (fun x =>
    let a := physAddr s ctx x.1.xl x.1.va false
    x.1.xl.mt == 5 && x.1.xl.aux == r.owner
      && ((if r.parts.isEmpty then [(r.pa, r.len)] else r.parts) ++ r.data.map (fun d => (d.1, d.2.length))).any (fun q =>
        decide (q.1 < a + x.2) && decide (a < q.1 + q.2))))

/-- Nothing is in the middle of the blocks of work. -/
def blocksWhole (s : State) (ctx : Nat) (w : Work) : Bool :=
  match w with
  | .loadBlock _ ls => ls.all (fun b => !blockParted s ctx b)
  | .storeBlock _ ls => ls.all (fun b => !blockParted s ctx b.1
      && !(b.1.any (fun x => x.1.xl.mt == 5) && cutsBlock s ctx (b.1.map (fun x => (x.1.va, x.2)))))
  | _ => true

/-- An entry that nothing but its order holds back, and that no event of its own performs; a buffered write is one once
its team holds the token and it is first in the order of draining (R315). -/
def mayPerform (s : State) (ctx : Nat) (t : Team) (e : OttEntry) : Bool :=
  let e := realEntry t e
  !workBusy e.work && !invalLeft s e.work && blocksWhole s ctx e.work && inOrder s ctx t e

/-! ### Results and completion of entries (R109) -/

/-- Latches an error in the status of a group (R66, R363). -/
def latchErr (s : State) (core grp cause kind : Nat) (addr info : Word) : State :=
  modGroup s core grp (fun g => g.latch cause kind addr info)

/-- Takes an entry out of the table: a long one gives its slots their results or their failure, and a posted one
latches the failure of its lowest failed lane (R66, R108, R109, R274). -/
def finishEntry (s : State) (core : Nat) (e : OttEntry) : State :=
  let s := modTeam s core (fun t =>
    let t := { t with ott := t.ott.filter (fun x => x.id != e.id), det := t.det.filter (fun d => d.id != e.id) }
    if e.long then
      t.modGroup e.grp (fun g =>
        let upd (rb : List Slot) : List Slot := match e.bad with
          | some (_, tr) => failSlots rb e.id tr
          | none => fillFrom rb e.id 0 e.got
        match g.hm with
        | some r => { g with rb := upd g.rb, hm := some { r with stretch := upd r.stretch } }
        | none => { g with rb := upd g.rb })
    else t)
  match e.long, e.bad with
  | false, some (_, tr) => latchErr s core e.grp tr.cause (bitsAt tr.tinfo.toNat 0 4) tr.taddr tr.tinfo
  | _, _ => s

/-- Writes an entry back. -/
def putEntry (s : State) (core : Nat) (e : OttEntry) : State :=
  modTeam s core (fun t => { t with ott := t.ott.map (fun x => if x.id == e.id then e else x) })

/-- Records the failure of a lane; the lowest lane's is kept (R223). -/
def OttEntry.fail (e : OttEntry) (lane : Nat) (t : TrapInfo) : OttEntry :=
  match e.bad with
  | some (l, _) => if lane < l then { e with bad := some (lane, t) } else e
  | none => { e with bad := some (lane, t) }

/-- The lines that an access wrote and whose invalidations are pending: it is acknowledged once they are applied (R299,
R300). -/
def stillPending (s : State) (lines : List Nat) : List Nat := lines.filter (fun l => s.pendInv.any (fun p => p.2 == l))

/-- Releases an entry when no lane of it is left at a peer or at the hub. -/
def settle (s : State) (core : Nat) (e : OttEntry) : State :=
  match e.work with
  | .remote [] => finishEntry s core e
  | .inval [] => finishEntry s core e
  | .done => finishEntry s core e
  | _ => putEntry s core e

/-! ### Paths between packages (R42 to R45) -/

/-- The port of package `a` that meets package `b` in a pod of `n` (R42). -/
def portTo (n a b : Nat) : Nat := (b + 2 * n - a - 1) % n

/-- What a port runs (R42). -/
def portMode (s : State) (p : Nat) : PortMode :=
  if p + 1 < s.pod then .scaleUp else if p ≥ 15 || s.uePorts.contains p then .ethernet else .disabled

/-- A SELFTEST of a link runs at a port: it has the link down for the test (R392). -/
def portTested (s : State) (p : Nat) : Bool :=
  s.teams.any (fun t => t.2.ott.any (fun e => match e.work with | .selftest 4 a => a.toNat % 32 == p | _ => false))

/-- The direct link between two packages of the pod is healthy (R42, R44). -/
def linkUp (s : State) (a b : Nat) : Bool :=
  a != b && decide (a < s.pod) && decide (b < s.pod) && portMode s (portTo s.pod a b) == .scaleUp
  && !(a == s.pkgid && portTested s (portTo s.pod a b)) && !(b == s.pkgid && portTested s (portTo s.pod b a))
  && !s.links.contains (a, b) && !s.links.contains (b, a)

/-- The path from `a` to `b`: the direct link, else through the lowest live package with healthy links to both; none when
there is no such package (R44). -/
def routeOf (s : State) (a b : Nat) : Option (Option Nat) :=
  if linkUp s a b then some none
  else ((List.range s.pod).find? (fun k => k != a && k != b && nbit s.live k && linkUp s a k && linkUp s k b)).map some

/-- The port of the destination at which a packet of this package arrives (R42, R44). -/
def arrivalPort (s : State) (dst : Nat) : Nat :=
  portTo s.pod dst (match routeOf s s.pkgid dst with | some (some k) => k | _ => s.pkgid)

/-- Sends a packet by the path of the moment; without a path it is lost, and its request times out (R44, R45). -/
def sendTo (s : State) (dst : Nat) (m : Message) : State :=
  match routeOf s s.pkgid dst with
  | some via => { s with out := s.out ++ [⟨dst, portTo s.pod s.pkgid (via.getD dst), via, m⟩] }
  | none => s

/-- A packet between two others takes its detour through this package's hub: it leaves by the direct link, of which
there must be one (R44). -/
def relayPacket (s : State) (dst : Nat) (m : Message) : State :=
  if linkUp s s.pkgid dst then { s with out := s.out ++ [⟨dst, portTo s.pod s.pkgid dst, none, m⟩] } else s

/-! ### Remote requests (R270 to R276) -/

/-- A request with the fields that every kind has. -/
def Req.base (id : Nat) (kind : ReqKind) (owner ctx core grp ott lane : Nat) (pc : Word) (va pa len inc : Nat) : Req :=
  { id := id, kind := kind, owner := owner, ctx := ctx, core := core, grp := grp, ott := ott, lane := lane, pc := pc,
    va := va, vas := [], pa := pa, len := len, parts := if kind == .read then [(pa, len)] else [], offs := [], data := [], laid := [], acq := false,
    cp := 0, wp := 0, pols := [], op := 0, ty := 0, b := 0, n := 0, stream := 0, serial := 0, inc := inc, sends := 1, busy := false }

/-- Policy and partition of the parts of a request. -/
def Req.policies (r : Req) : List (Nat × Nat) := if r.pols.isEmpty then [(r.cp, r.wp)] else r.pols

/-- The packet of a request, as its owner receives it. -/
def packetOf (s : State) (r : Req) : Message :=
  match r.kind with
  | .read => .remoteReadAtOwner s.pkgid (arrivalPort s r.owner) r.id r.inc r.acq r.policies r.parts
  | .write => .remoteWriteAtOwner s.pkgid r.id r.inc r.policies (r.op == 1) r.data
  | .stream => .streamRequestAtOwner s.pkgid r.ctx r.stream r.serial (streamOf (ctxOf s r.ctx) r.stream).lwm
      r.inc r.id r.pa r.op r.ty r.cp r.wp r.b r.n
  | .marker => .scFenceMarker s.pkgid (arrivalPort s r.owner) r.id
  | .lwm | .closing => .lowWaterUpdate s.pkgid r.ctx r.stream (streamOf (ctxOf s r.ctx) r.stream).lwm r.id
  | .record => .journalRecord s.pkgid r.ctx r.pa (ctxOf s r.ctx).tb (r.data.flatMap (·.2)) r.id r.inc
  | .trunc => .journalTruncation s.pkgid r.ctx r.pa r.id
  | .abort => .carAbort r.stream r.serial s.pkgid r.id
  | .release => .storeRelease s.pkgid r.ctx r.id
  | .gone => .peerContextGone s.pkgid r.ctx r.id
  | .car =>
    match (tget s.cslots r.stream).bind (fun x => x.out.find? (fun y => y.id == r.id)) with
    | some y => .carPacket s.pkgid r.id y.pkt
    | none => .carPacket s.pkgid r.id ⟨0, r.stream, 0, 0, 0, 0, none, []⟩

/-- Sends a request for the first time or again (R270, R272); one on a stream carries the stream's LWM (R276). -/
def sendReq (s : State) (r : Req) : State :=
  let s := sendTo s r.owner (packetOf s r)
  match r.kind with
  | .stream | .lwm | .closing => modStream s r.ctx r.stream (fun x => { x with told := x.lwm })
  | _ => s

/-- Enters a new request that is not sent yet: one of its entry's must be answered first (R224, R286). -/
def heldReq (s : State) (r : Req) : State := { s with reqs := s.reqs ++ [{ r with sends := 0 }], stamp := s.stamp + 1 }

/-- Enters a new request and sends it; one to a peer whose bit in PEERDEAD is set is not sent, and ends with GONE (R273). -/
def newReq (s : State) (r : Req) : State :=
  if s.peerdead.getLsbD r.owner then heldReq s r else sendReq { s with reqs := s.reqs ++ [r], stamp := s.stamp + 1 } r

/-- The incarnation of an owner that a context has seen (R275). -/
def incOf (s : State) (ctx owner : Nat) : Nat := tgetD (ctxOf s ctx).incseen owner 0

/-- Tells a peer something that it acknowledges: the notice is sent again until then (R45, R271, R272). -/
def notify (s : State) (kind : ReqKind) (owner ctx slot : Nat) (seq : BitVec 32) : State :=
  newReq s { Req.base s.stamp kind owner ctx 0 0 0 0 0 0 0 0 (incOf s ctx owner) with stream := slot, serial := seq }

/-- Takes the next serial of a stream (R276) and notes the owner it reaches; with none outstanding LWM is that serial. -/
def takeSerial (s : State) (ctx stream owner : Nat) : State × BitVec 32 :=
  let st := streamOf (ctxOf s ctx) stream
  (modStream s ctx stream (fun x => { x with
      next := x.next + 1, owners := insertNat owner x.owners, live := x.live ++ [x.next],
      lwm := if x.live.isEmpty then x.next else x.lwm }), st.next)

/-- An operation of a stream has its outcome: OUT falls, and LWM is the oldest serial not yet answered (Table 15.3). -/
def retireSerial (s : State) (r : Req) : State :=
  modStream s r.ctx r.stream (fun x =>
    let live := x.live.filter (· != r.serial)
    { x with out := x.out - 1, live := live, lwm := live.headD x.next })

/-! ### Pieces of a block (R57, R166, R229) -/

/-- The physical pieces of a block access, in the package's own memory. -/
def localPieces (s : State) (ctx : Nat) (ps : List (Acc × Nat)) : List (Nat × Nat) :=
  ps.map (fun p => (physAddr s ctx p.1.xl p.1.va false, p.2))

/-! ### Scratchpad words (R206, R358) -/

/-- Reads scratchpad bytes of a core's team. -/
def spadRead (s : State) (core off n : Nat) : List Byte :=
  match tget s.teams core with
  | some t => memRead t.spad off n
  | none => List.replicate n 0

/-- The 8-byte words of a list that a write of `n` bytes at `off` leaves as they were: those that it does not cover. -/
def wordsLeft (ws : List Nat) (off n : Nat) : List Nat := ws.filter (fun w => !(decide (off ≤ 8 * w) && decide (8 * w + 8 ≤ off + n)))

/-- A unit of a scratchpad (space 2 × core) or an operand buffer (2 × core + 1) as memory holds it now. -/
def unitNow (s : State) (space w : Nat) : Word :=
  match tget s.teams (space / 2) with
  | some t => word (memNat (if space % 2 = 0 then t.spad else t.opbuf) (8 * w) 8)
  | none => 0

/-- The 8-byte units that `n` bytes at `off` of a space touch, with what they hold. -/
def unitsAt (s : State) (space off n : Nat) : List (Nat × Nat × Word) :=
  if n = 0 then [] else
  (List.range ((off + n - 1) / 8 - off / 8 + 1)).map (fun i => (space, off / 8 + i, unitNow s space (off / 8 + i)))

/-- A pass keeps values that units had: it may have read them before a write (R260). -/
def EngEntry.note (us : List (Nat × Nat × Word)) (x : EngEntry) : EngEntry :=
  match x.cmd with
  | .mma _ _ _ => { x with olds := x.olds ++ us }
  | _ => x

/-- The pass that runs in a quad, if one does, keeps the values of the units that are about to be written (R260). -/
def noteUnits (s : State) (space off n : Nat) : State :=
  let q := quadNo (space / 2)
  match (engineOf s q).granted with
  | none => s
  | some slot => modEngine s q (fun e => { e with
      table := tmap (fun i x => if i == slot then x.note (unitsAt s space off n) else x) e.table })

/-- Writes scratchpad bytes of a core's team; a word written whole holds no error (R358). -/
def spadWrite (s : State) (core off : Nat) (bs : List Byte) : State :=
  modTeam (noteUnits s (2 * core) off bs.length) core (fun t => { t with spad := memWrite t.spad off bs, spadBad := wordsLeft t.spadBad off bs.length })

end Sys2Proof.Machine
end

