-- ==== Sys2Proof/Machine/Gate.lean ====
section
/-! DEFINITION. The journal gate and what a partner's loss does to it (R365 to R376). -/

namespace Sys2Proof.Machine

/-- The partner that JPARTNER names with V = 1 (R367). -/
def partnerOf (c : Context) : Option Nat := if nbit c.jpartner.toNat 4 then some (c.jpartner.toNat % 16) else none

/-- The gate holds a partner: SEEDING or NORMAL (Table 23.2). -/
def gateLive (c : Context) : Bool := c.gate == .seeding || c.gate == .normal

/-- A package has yet to hear that its store of an earlier time, when it was the partner, is let go: records for the store that it
begins now follow that (R375, R385). -/
def letsGo (s : State) (ctx p : Nat) : Bool := s.reqs.any (fun r => r.kind == .release && r.ctx == ctx && r.owner == p)

/-- Sends the records from `jsent` on, as far as 4,096 past the partner's acknowledgement (R367). -/
def sendRecords (s : State) (ctx : Nat) : Nat → State
  | 0 => s
  | n + 1 =>
    let c := ctxOf s ctx
    match partnerOf c with
    | none => s
    | some p =>
      if !gateLive c || c.jsent ≥ c.jpos || c.jsent ≥ c.cack + 4096 || letsGo s ctx p then s
      else
        let s' := modCtx s ctx (fun c => { c with jsent := c.jsent + 1 })
        match c.records.find? (fun r => r.pos == c.jsent) with
        | none => sendRecords s' ctx n
        | some r =>
          let q := Req.base s.stamp .record p ctx 0 0 0 0 0 0 r.pos 32 (incOf s ctx p)
          sendRecords (newReq s' { q with data := [(0, r.data)] }) ctx n

/-- The number that stands for the core of a team that has retired: no group hears of an error then. -/
def retiredCore : Nat := 999

/-- Latches an error in the status of a group that is resident or saved (R66, R219). -/
def latchHeld (s : State) (core grp cause kind : Nat) (addr info : Word) : State :=
  if core < 999 then latchErr s core grp cause kind addr info
  else { s with images := s.images.map (fun i => { i with teams := i.teams.map (fun x =>
    if savedCore i.launch i.cix x.1 == core then (x.1, x.2.1.modGroup grp (fun g => g.latch cause kind addr info), x.2.2) else x) }) }

/-- Writes a held emit at its physical address, once; a hole is an error response that its group latches
(R66, R368, R372). -/
def emitOne (s : State) (e : HeldEmit) : State :=
  if !populated e.pa e.bytes.length then latchHeld (logViolation s e.pa) e.core e.grp 0x05 8 (word e.va) 8
  else homeWrite (l2Touch s e.pa e.cp e.wp true) e.pa e.bytes

/-- Performs the held emits whose thresholds the partner's acknowledgement covers, in their order (R368). -/
def runEmits (s : State) (ctx : Nat) : State :=
  let c := ctxOf s ctx
  if !gateLive c then s
  else
    let go := c.emits.filter (fun e => e.thr ≤ c.cack)
    go.foldl emitOne (modCtx s ctx (fun c => { c with emits := c.emits.filter (fun e => e.thr > c.cack) }))

/-- The outstanding journal requests of a context end. -/
def dropRecords (s : State) (ctx : Nat) : State :=
  { s with reqs := s.reqs.filter (fun r => !((r.kind == .record || r.kind == .trunc) && r.ctx == ctx)) }

/-- The result of the JSEED that waits is written; a preempted team finds it when it resumes (R375, R376). -/
def seedResult (s : State) (ctx : Nat) (flags : Nat) : State :=
  match (ctxOf s ctx).seedBy with
  | none => s
  | some (core, id, copied) =>
    let w := word (copied.toNat + flags)
    let s := modCtx s ctx (fun c => { c with seedBy := none })
    match (tget s.teams core).bind (fun t => t.ott.find? (fun e => e.id == id)) with
    | some e => finishEntry s core { e with got := [(0, w)] }
    | none => modCtx s ctx (fun c => { c with seedDone := c.seedDone ++ [(id, w)] })

/-- The partner is lost: the gate enters LOST, CACK is TB, held emits stay held (R367, R368, R375). -/
def gateLost (s : State) (ctx : Nat) : State :=
  if !gateLive (ctxOf s ctx) then s
  else seedResult (modCtx (dropRecords s ctx) ctx (fun c => { c with gate := .lost, cack := c.tb })) ctx (2 * 2 ^ 56 + 2 ^ 63)

/-- The wait of every JSYNC that CACK covers is over, whatever becomes of the gate before it goes on (R373): it waits for
position 0, which nothing else waits for. -/
def coverSyncs (s : State) (ctx : Nat) : State :=
  let k := (ctxOf s ctx).cack
  let ended (g : Group) : Group := match g.stall with
    | some (.journal p, n) => if p ≤ k then { g with stall := some (.journal 0, n) } else g
    | _ => g
  { s with teams := tmap (fun _ t => if teamCtx s t == ctx then { t with groups := tmap (fun _ g => ended g) t.groups } else t) s.teams }

/-- SEEDING is complete when the partner has acknowledged every position below the JPOS at its start; the
former partners' stores are released (Table 23.2, R375). -/
def settleGate (s : State) (ctx : Nat) : State :=
  let c := ctxOf s ctx
  let s :=
    if c.gate == .seeding && c.cack ≥ c.seedTo then
      let s := (c.former.filter (fun p => partnerOf c != some p)).foldl (fun s p => notify s .release p ctx 0 0) s
      seedResult (modCtx s ctx (fun c => { c with gate := .normal, former := [] })) ctx 0
    else s
  coverSyncs (runEmits (sendRecords s ctx 4096) ctx) ctx

/-- The partners whose stores are to be released, the present one among them. -/
def formers (c : Context) : List Nat :=
  match partnerOf c with
  | some p => insertNat p c.former
  | none => c.former

/-- Enters SEEDING with a new partner (R375). Every partner since the gate was last NORMAL is a former one, whose store is
released once the gate reaches NORMAL again. -/
def startSeed (s : State) (ctx peer : Nat) (by_ : Option (Nat × Nat × Word)) : State :=
  settleGate (modCtx (dropRecords s ctx) ctx (fun c => { c with
    former := formers c,
    jpartner := word (16 + peer), gate := .seeding, cack := c.tb, jsent := c.tb, seedTo := c.jpos, seedBy := by_ })) ctx

/-- Enters NOPART (R375): its partner becomes the former one. A JSEED that waits ends as with a lost partner. -/
def noPartner (s : State) (ctx peer : Nat) : State :=
  seedResult (modCtx (dropRecords s ctx) ctx (fun c => { c with
      former := formers c, jpartner := word (peer % 16), gate := .noPart, cack := c.tb }))
    ctx (2 * 2 ^ 56 + 2 ^ 63)

/-- WHY of Table 23.5: 0 when a JSEED is accepted, else the lowest reason that applies. -/
def seedWhy (s : State) (ctx peer : Nat) : Nat :=
  let c := ctxOf s ctx
  if peer == s.pkgid || partnerOf c == some peer then 1
  else if s.peerdead.getLsbD peer then 2
  else if c.gate == .seeding then 3
  else if peer ≥ s.pod || !nbit s.live peer then 4
  else 0

end Sys2Proof.Machine
end

