-- ==== Sys2Proof/Machine/Submit.lean ====
section
/-! DEFINITION. Barrier objects, and the launch unit's acceptance of a record (chapters 01 and 02). -/

namespace Sys2Proof.Machine

/-! ### Barrier objects (R22, R23, Table 1.7) -/

/-- Adds to COUNT of the object at a physical address, modulo 2^32 (R22). -/
def addCount (s : State) (pa amount : Nat) : State :=
  homeWrite s pa (leBytes 4 ((memNat s.mem pa 4 + amount) % 2 ^ 32))

/-- Whether the object at a physical address is reached: COUNT ≥ TARGET, unsigned (R22). -/
def reached (s : State) (pa : Nat) : Bool := decide (memNat s.mem (pa + 4) 4 ≤ memNat s.mem pa 4)

/-- Posts an object: STATE, CAUSE and ERRCNT, FCAUSE and the fault fields, then COUNT + 1 (R23). A hole takes
nothing and is logged (R66). The post is a release at .sys: what is pending at the port buffers is applied first (R299). Of a
rejection R23 names STATE, CAUSE and COUNT; the model writes the other fields as zero (log 67). -/
def postObject (s : State) (pa st cause errs : Nat) (fc : Nat) (fpc faddr finfo fid : Word) : State :=
  if pa + 64 > hbmTop then logViolation s pa else
  let s := homeWrite (applyAll s) (pa + 8) (leBytes 4 (st + 2 ^ 8 * cause + 2 ^ 16 * errs))
  let s := homeWrite s (pa + 12) (leBytes 4 fc)
  let s := homeWrite s (pa + 16) (leBytes 8 fpc.toNat ++ leBytes 8 faddr.toNat ++ leBytes 8 finfo.toNat ++ leBytes 8 fid.toNat)
  addCount s pa 1

/-- The physical address of a writable MT 0 page's byte, as the launch unit translates DONE and the DEPs
(R20): 64 bytes in a page of MT 0 with W = 1 and in no hole (Table 4.8); a NOTVALID has been with the firmware before. -/
def writableMt0 (s : State) (ctx va : Nat) : Option Nat :=
  match resolve s ctx va with
  | .ok x =>
    let pa := physAddr s ctx x va false
    if x.mt == 0 && x.w && pa + 64 ≤ hbmTop then some pa else none
  | .error _ => none

/-- The launch unit or the hub accesses bytes of a page: an error there is met, and the L2 takes their lines under the page's
policy and partition (R213, R215, R358). -/
def touchAt (s : State) (ctx va n : Nat) (write : Bool) : State :=
  match resolve s ctx va with
  | .ok x =>
    let pa := physAddr s ctx x va false
    if populated pa n then l2TouchAll (meetUpsets s pa n) pa n x.cp x.wp write else s
  | .error _ => s

/-- The address in a hole that an access to an object reaches (R66). -/
def objectHole (s : State) (ctx va : Nat) : Option Nat :=
  match resolve s ctx va with
  | .ok x =>
    let pa := physAddr s ctx x va false
    if x.mt == 0 && x.w && pa + 64 > hbmTop then some pa else none
  | .error _ => none

/-! ### Checks on a record (R20, Table 1.6) -/

/-- A reserved bit of Tables 1.2 to 1.4 is set. -/
def recReserved (r : LaunchRecord) : Bool :=
  [0, 1, 2, 7, 8, 9, 10, 11, 12].any (fun i => recFld r i 56 8 != 0)
  || recFld r 3 52 12 != 0 || recFld r 4 29 35 != 0 || recFld r 6 3 1 != 0 || recFld r 6 16 48 != 0
  || [13, 14, 15].any (fun i => recWord r i != 0)

/-- A field is outside the range that Tables 1.2 to 1.5 state. -/
def recRange (r : LaunchRecord) : Bool :=
  recFld r 3 0 16 == 0 || recFld r 3 16 16 == 0 || recFld r 3 32 16 == 0
  || recGpt r == 0 || recGpt r > 64 || recShape r > 7
  || recVregs r < 8 || recVregs r > 192 || recVregs r % 8 != 0 || recFld r 4 21 8 > 240

/-- An address breaks its alignment or is zero where it must not be. -/
def recAlign (r : LaunchRecord) : Bool :=
  recFld r 0 0 56 == 0 || recFld r 0 0 56 % 128 != 0 || recDict r % 4096 != 0 || recFld r 2 0 56 % 64 != 0
  || recFld r 7 0 56 % 2 != 0 || [8, 9, 10, 11].any (fun i => recFld r i 0 56 % 64 != 0)
  || recFld r 12 0 56 == 0 || recFld r 12 0 56 % 64 != 0

/-- The number of bank groups with a role code. -/
def roleCount (role code : Nat) : Nat := ((List.range 32).filter (fun g => bitsAt role (2 * g) 2 == code)).length

/-- A budget of R12 is exceeded. -/
def recBudget (r : LaunchRecord) : Bool :=
  let threads := recWidth r * recGpt r
  threads > 2048 || threads * recVregs r > 65536 || recScratch r > 32768 * roleCount (recWord r 5).toNat 0

/-- BANKROLE holds a code 11, or fewer than two groups of code 01. -/
def recRole (r : LaunchRecord) : Bool := roleCount (recWord r 5).toNat 3 != 0 || roleCount (recWord r 5).toNat 1 < 2

/-- The first of the checks of R20 that need no translation, as a reason of Table 1.6; 0 when all pass. -/
def recForm (ctx : Nat) (r : LaunchRecord) : Nat :=
  if recReserved r then 0x01
  else if recRange r then 0x02
  else if recAlign r then 0x03
  else if recBudget r then 0x04
  else if recRole r then 0x05
  else if recReplay r && !recDet r then 0x06
  else if [8, 9, 10, 11].any (fun i => recFld r i 0 56 == recFld r 12 0 56) then 0x07
  else if recCtx r != ctx then 0x09
  else 0

/-- DONE and the non-zero DEPs of a record. -/
def recObjects (r : LaunchRecord) : List Nat := recFld r 12 0 56 :: ([8, 9, 10, 11].map (fun i => recFld r i 0 56)).filter (· != 0)

/-- The first failing check of R20 in its order, as a reason of Table 1.6; 0 when every check passes. -/
def recReason (s : State) (ctx : Nat) (r : LaunchRecord) : Nat :=
  if recForm ctx r != 0 then recForm ctx r
  else if (recObjects r).any (fun va => (writableMt0 s ctx va).isNone) then 0x08
  else 0

/-! ### NOTVALIDs of the launch unit (R20, R26) -/

/-- A translation ends with NOTVALID, and the firmware has not yet said that it finds no mapping. -/
def notValid (s : State) (ctx va : Nat) : Bool :=
  (match resolve s ctx va with | .error 0x2 => true | _ => false) && !s.hubFaults.contains (ctx, va / 2 ^ 16 * 2 ^ 16, true)

/-- A NOTVALID is passed to the firmware. -/
def askFirmware (s : State) (ctx va : Nat) : State :=
  let f := (ctx, va / 2 ^ 16 * 2 ^ 16, false)
  { s with hubFaults := s.hubFaults.filter (· != f) ++ [f] }

/-- The firmware has an address's page before it. -/
def asked (s : State) (ctx va : Nat) : Bool := s.hubFaults.contains (ctx, va / 2 ^ 16 * 2 ^ 16, false)

/-- The firmware's answers about pages are used up. -/
def dropTold (s : State) (ctx : Nat) (vas : List Nat) : State :=
  { s with hubFaults := s.hubFaults.filter (fun f => !(f.1 == ctx && f.2.2 && vas.any (fun va => va / 2 ^ 16 * 2 ^ 16 == f.2.1))) }

/-- The address that the last check of R20 passes to the firmware, if any. -/
def recNeeds (s : State) (ctx : Nat) (r : LaunchRecord) : Option Nat :=
  if recForm ctx r != 0 then none else (recObjects r).find? (notValid s ctx)

/-- The dictionary as installed (R14): its words with entry 0 ILLEGAL, or the fault kind of an
unreadable one. -/
def readDict (s : State) (ctx : Nat) (r : LaunchRecord) : Except Nat (List Word) :=
  match resolve s ctx (recDict r) with
  | .error k => .error k
  | .ok x =>
    let pa := physAddr s ctx x (recDict r) false
    if x.mt != 0 then .error (if x.mt == 6 && recCtx r != 0xFFF then 0x5 else 0x4)
    else if pa + 4096 > hbmTop then .error 0x8
    else
      .ok (0xFFFFFFFD :: (List.range 1023).map (fun i => word (memNat s.mem (pa + 4 * (i + 1)) 4)))

/-- The physical address of a dictionary. -/
def dictAddr (s : State) (ctx : Nat) (r : LaunchRecord) : Nat :=
  match resolve s ctx (recDict r) with
  | .ok x => physAddr s ctx x (recDict r) false
  | .error _ => 0

/-- Samples the unlatched DEP slots of a launch: an acquire at .sys, which does not complete before a narrower release that it
meets is carried (R23, R30, R297, Table 16.3). Of a DEP whose page no longer translates, or is no longer a writable page of MT 0, when
it is sampled after acceptance the spec says nothing: in the model it is not reached, and a NOTVALID is not passed to the firmware
(DESIGN CHOICE, log 95). -/
def sampleDeps (s : State) (l : Launch) : Launch :=
  { l with deps := (l.deps.zipIdx).map (fun e => e.1 ||
      (match writableMt0 s l.ctx (recFld l.rec_ (8 + e.2) 0 56) with
       | some pa => reached s pa && markFree s 4 pa 64
       | none => false)) }

/-- The objects of the unlatched DEP slots are read (R213, R23). -/
def touchDeps (s : State) (l : Launch) : State :=
  (l.deps.zipIdx.filter (fun e => !e.1)).foldl (fun s e =>
    let va := recFld l.rec_ (8 + e.2) 0 56
    if (writableMt0 s l.ctx va).isSome then touchAt s l.ctx va 8 false else s) s

/-- Queue places: a launch joins the tail of its queue, or re-enters at its head (R29, R38). -/
def tailPos (s : State) : Int := (s.launches.foldl (fun m e => if e.2.qpos > m then e.2.qpos else m) 0) + 1

/-- The place before every launch of the queues. -/
def headPos (s : State) : Int := (s.launches.foldl (fun m e => if e.2.qpos < m then e.2.qpos else m) 0) - 1

/-! ### The head (R29, R31, R38) -/

/-- The READY launches of a priority level. -/
def readyAt (s : State) (p : Nat) : List (Nat × Launch) := s.launches.filter (fun e => e.2.st == .ready && recPrio e.2.rec_ == p)

/-- The highest level with a READY launch. -/
def topLevel (s : State) : Option Nat := [7, 6, 5, 4, 3, 2, 1, 0].find? (fun p => !(readyAt s p).isEmpty)

/-- The context whose turn it is among those of a level: the next in ascending CTXID after the one served
last, round-robin (R31). -/
def nextContext (last : Option Nat) (cs : List Nat) : Nat :=
  match last with
  | none => (minNat cs).getD 0
  | some k => (minNat (cs.filter (fun c => k < c))).getD ((minNat cs).getD 0)

/-- The first launch of a queue. -/
def firstOf : List (Nat × Launch) → Option (Nat × Launch)
  | [] => none
  | x :: r => match firstOf r with
    | none => some x
    | some y => if x.2.qpos ≤ y.2.qpos then some x else some y

/-- Makes the first launch of the chosen queue of a level the head; it is PLACING (R31). -/
def takeHead (s : State) (p : Nat) : State :=
  let c := nextContext (tget s.served p) ((readyAt s p).map (·.2.ctx))
  match firstOf ((readyAt s p).filter (fun e => e.2.ctx == c)) with
  | none => s
  | some (n, _) => { modLaunch s n (fun l => { l with st := .placing }) with head := some n, served := tset s.served p c }

/-- The head after launches have become READY or a head has left: a launch of higher priority overtakes it,
and it returns to the head of its queue (R31). -/
def settleHead (s : State) : State :=
  match topLevel s with
  | none => s
  | some p =>
    match s.head.bind (launchAt s) with
    | none => takeHead s p
    | some l =>
      if p ≤ recPrio l.rec_ then s
      else takeHead (modLaunch s (s.head.getD 0) (fun l => { l with st := .ready, qpos := headPos s })) p

/-- Reads the dictionary of a launch that has become READY (R14). -/
def installDict (s : State) (n : Nat) : State :=
  match launchAt s n with
  | none => s
  | some l =>
    if recDict l.rec_ = 0 then s
    else match readDict s l.ctx l.rec_ with
      | .ok ws => modLaunch (touchAt s l.ctx (recDict l.rec_) 4096 false) n (fun l => { l with dict := some ws, dictWait := false })
      | .error k =>
        if k = 0x2 then modLaunch s n (fun l => { l with dictWait := true })
        else modLaunch (if k = 0x8 then logViolation s (dictAddr s l.ctx l.rec_) else s) n (fun l => { l with dictBad := some k, dictWait := false })

/-- A launch becomes READY at the tail of its queue (R29): the dictionary is read then (R14). -/
def makeReady (s : State) (n : Nat) : State :=
  settleHead (installDict (modLaunch s n (fun l => { l with st := .ready, qpos := tailPos s })) n)

/-- A slot that no launch holds, below 4,096 (R27). -/
def freeSlot (s : State) : Option Nat := ((List.range 4096).find? (fun i => (tget s.launches i).isNone))

/-- Submits a record that has been read (R20, R26, R27): the status and the reason of Tables 2.2 and 1.6. R20 passes a NOTVALID
to the firmware for its last check; the DONE of a record rejected before it is not passed, and nothing is posted (log 67). -/
def submit (s : State) (ctx : Nat) (service : Bool) (r : LaunchRecord) : State × Nat × Nat :=
  let reason := recReason s ctx r
  let s := dropTold s ctx (if recForm ctx r = 0 then recObjects r else [])
  if reason != 0 then
    let done := recFld r 12 0 56
    (match (if done != 0 && done % 64 == 0 then writableMt0 s ctx done else none) with
     | some pa => postObject (touchAt s ctx done 64 true) pa 3 reason 0 0 0 0 0 0
     | none => s, 0x01, reason)
  else
    match freeSlot s with
    | none => (s, 0x02, 0)
    | some n =>
      if (s.launches.filter (fun e => e.2.ctx == ctx)).length ≥ 256 then (s, 0x02, 0)
      else
        let deps := [8, 9, 10, 11].map (fun i => recFld r i 0 56 == 0)
        let l : Launch :=
          { rec_ := r, ctx := ctx, seq := s.lseq, qpos := 0, st := .waiting, deps := deps, dict := none,
            dictBad := none, dictWait := false, next := 0, clus := [], ended := [], fault := none, errs := 0,
            service := service }
        let s := touchDeps s l
        let l := sampleDeps s l
        let s := { s with launches := tset s.launches n l, lseq := s.lseq + 1 }
        (if l.deps.all id then makeReady s n else s, 0x00, 0)

/-- The sixteen words of a record at a physical address (R16). The launch unit is not among R362's consumers of poison, and the spec
does not say what it takes from a poisoned sector of a record or a dictionary: the model takes the stored bytes (DESIGN CHOICE,
log 95). -/
def readRecord (s : State) (pa : Nat) : LaunchRecord := (List.range 16).map (fun i => word (memNat s.mem (pa + 8 * i) 8))

/-- Where a record lies: the physical address of 128 bytes of a page of MT 0 (R26). -/
def recordAt (s : State) (ctx va : Nat) : Option Nat :=
  match resolve s ctx va with
  | .ok x => if x.mt == 0 then some (physAddr s ctx x va false) else none
  | .error _ => none

/-- The record of a submission on the mailbox or service path: as it was read when it began to wait, else as memory holds it
now; none when it cannot be read (R16, R26). -/
def recordOf (s : State) (ctx va : Nat) (kept : Option LaunchRecord) : Option LaunchRecord :=
  match kept with
  | some r => some r
  | none => (recordAt s ctx va).bind (fun pa => if pa + 128 > hbmTop then none else some (readRecord s pa))

/-- The address that a submission on the mailbox or service path must first pass to the firmware (R20, R26). -/
def submitNeeds (s : State) (ctx va : Nat) (kept : Option LaunchRecord) : Option Nat :=
  if va = 0 || va % 128 != 0 then none
  else if kept.isNone && notValid s ctx va then some va
  else (recordOf s ctx va kept).bind (recNeeds s ctx)

/-- A submission on the mailbox or service path (R26): the record is read first, and once (R16). -/
def submitAt (s : State) (ctx : Nat) (service : Bool) (va : Nat) (kept : Option LaunchRecord) : State × Nat × Nat :=
  if va = 0 || va % 128 != 0 then (s, 0x01, 0x03)
  else match recordOf s ctx va kept with
    | some r => submit (dropTold (if kept.isSome then s else touchAt s ctx va 128 false) ctx [va]) ctx service r
    | none => match recordAt s ctx va with
      | some pa => (logViolation s pa, 0x01, 0x0B)
      | none => (dropTold s ctx [va], 0x01, 0x0B)

end Sys2Proof.Machine
end

