-- ==== Sys2Proof/Machine/Perform.lean ====
section
/-! DEFINITION. The performing of the entries of the outstanding-transaction table: loads, stores, blocks,
scratchpad accesses, atomics, cache maintenance, transactions and submissions (R109 and the entries of
chapters 08, 13, 15 and 17). -/

namespace Sys2Proof.Machine

/-- The HOLE trap of a local access (Table 4.8). -/
def holeTrap (va : Nat) : TrapInfo := ⟨0x05, word va, 8⟩

/-- EUNCORR at an address, from a structure of Table 22.1 (R362). -/
def uncorrTrap (va struct unit : Nat) : TrapInfo := ⟨0x10, word va, word (struct * 16 + unit * 256)⟩

/-- What an entry's meaning has come to while its lanes are performed in ascending order. -/
structure Perf where
  st   : State
  e    : OttEntry
  left : List Nat

/-- A lane has failed; the lowest lane's failure is kept. -/
def Perf.fail (p : Perf) (lane : Nat) (t : TrapInfo) : Perf := { p with e := p.e.fail lane t }

/-- A lane's access has reached a hole: the hub logs it (R66). -/
def Perf.hole (p : Perf) (lane pa va : Nat) : Perf := { p with st := logViolation p.st pa }.fail lane (holeTrap va)

/-- GONE of a store whose combining entry is keyed by a dead peer (R273). -/
def goneTrap (peer va : Nat) : TrapInfo := ⟨0x08, word va, remoteInfo 0 6 peer 0 0 0⟩

/-- Enters a repeatable read at a peer (R270): `parts` are one access (R168), `pols` their policies and partitions where they may
differ (R215). -/
def peerRead (p : Perf) (core ctx : Nat) (a : Acc) (key op ty : Nat) (parts : List (Nat × Nat)) (offs : List Nat)
    (pols : List (Nat × Nat)) : Perf :=
  let laid := match tget p.st.teams core with
    | some t => detOver p.st t ctx (spaceOf a.xl) p.e.id
    | none => []
  let r := Req.base p.st.stamp .read a.xl.aux ctx core p.e.grp p.e.id key p.e.pc a.va (physAddr p.st ctx a.xl a.va false)
    (parts.map (·.2)).sum (incOf p.st ctx a.xl.aux)
  let r := { r with op := op, ty := ty, parts := parts, offs := offs, laid := laid, acq := p.e.ord.acq,
                    cp := policy p.e.ord a.xl, wp := a.xl.wp, pols := pols }
  { p with st := newReq p.st r, left := p.left ++ [key] }

/-- A request of the entry to the same owner that writes one of the bytes is not answered: lanes that write one byte
do so in ascending order (R224). -/
def writesBefore (s : State) (e : OttEntry) (owner : Nat) (data : List (Nat × List Byte)) : Bool :=
  s.reqs.any (fun r => r.ott == e.id && r.grp == e.grp && r.kind == .write && r.owner == owner
    && r.data.any (fun a => data.any (fun b => decide (a.1 < b.1 + b.2.length) && decide (b.1 < a.1 + a.2.length))))

/-- Enters a write at a peer, outside the combining buffer (R217): `data` are one access (R168), a block's where there are
policies and partitions for its pieces (R215). -/
def peerWrite (p : Perf) (core ctx : Nat) (a : Acc) (key : Nat) (data : List (Nat × List Byte)) (pols : List (Nat × Nat)) : Perf :=
  let r := Req.base p.st.stamp .write a.xl.aux ctx core p.e.grp p.e.id key p.e.pc a.va (physAddr p.st ctx a.xl a.va false)
    ((data.map (·.2.length)).sum) (incOf p.st ctx a.xl.aux)
  let r := { r with data := data, cp := policy p.e.ord a.xl, wp := a.xl.wp, pols := pols, op := if pols.isEmpty then 0 else 1 }
  { p with st := if writesBefore p.st p.e a.xl.aux data then heldReq p.st r else newReq p.st r, left := p.left ++ [key] }

/-- Changes threads of a team, in its groups and in its bins. -/
def modThreads (s : State) (core : Nat) (tids : List Nat) (f : Thread → Thread) : State :=
  let g (x : Thread) : Thread := if x.live && tids.contains x.tid then f x else x
  modTeam s core (fun t => { t with
    groups := tmap (fun _ y => { y with threads := y.threads.map g }) t.groups,
    bins := t.bins.map (fun b => b.map (fun b => { b with threads := b.threads.map (fun x => (g x.1, x.2)) })) })

/-- Threads of a team have read a peer's memory: their FENCEs are taken at .sys from now on (R269). -/
def noteFar (s : State) (core : Nat) (tids : List Nat) : State := modThreads s core tids (fun x => { x with far := true })

/-- Threads of a team have written a peer's memory: their FENCE.sc are taken at .sys from now on (R269, R300). -/
def noteWrote (s : State) (core : Nat) (tids : List Nat) : State := modThreads s core tids (fun x => { x with wrote := true })

/-- Merges a store into the combining buffer (R217). Under which policy and partition an entry drains that stores of several have
written into the spec does not say: in the model under those of the last (DESIGN CHOICE, log 95). -/
def wcMerge (s : State) (core : Nat) (e : OttEntry) (a : Acc) (pa : Nat) (bs : List Byte) : State :=
  modTeam (noteWrote s core (e.tidsOf a.lane)) core (fun t =>
    let line := pa / 128
    let x := a.xl
    let put (w : WcEntry) : WcEntry :=
      { w with bytes := (bs.zipIdx).foldl (fun m b => tset m (pa % 128 + b.2) b.1) w.bytes, ctxs := insertNat e.grp w.ctxs,
               hint := e.ord.hint, cp := x.cp, wp := x.wp, tids := (e.tidsOf a.lane).foldl (fun l n => insertNat n l) w.tids,
               vas := w.vas ++ [(e.grp, e.id, a.lane, a.va)] }
    if t.wc.any (fun w => w.peer == x.aux && w.line == line && w.seq.isNone) then
      { t with wc := t.wc.map (fun w => if w.peer == x.aux && w.line == line && w.seq.isNone then put w else w) }
    else { t with wc := t.wc ++ [put ⟨x.aux, line, [], [], none, s.stamp, none, 0, 0, [], []⟩] })

/-- The status word of an outcome (Table 17.2). -/
def txStatus (outcome code winner txs : Nat) : Word := word (outcome + 2 ^ 8 * code + 2 ^ 16 * winner + 2 ^ 22 * txs)

/-- A sector that a lane has read in its transaction enters the group's read set, or the lane is past its limit (R307). -/
def recordRead (s : State) (core grp lane sec : Nat) (bs : List Byte) : State :=
  modGroup s core grp (fun g =>
    if (g.lane lane).txs != .opened then g
    else if (g.txr.any (fun r => r.sector == sec)) || (sortNat (g.txr.map (·.sector))).length < 256 then
      { g with txr := g.txr ++ [⟨lane, sec, bs⟩] }
    else g.modLane lane (fun t => { t with txs := .doomed, txw := txStatus 4 0 0 0 }))

/-- A lane's value from memory as its group sees it: through the L1, under its team's buffered stores and, over them, the
writes of its own transaction, of which `tx` are the lanes that the access is made in; what is recorded of a sector is the value
read, the team's buffered bytes in it (R226, R307, R316). -/
def laneRead (s : State) (core ctx : Nat) (e : OttEntry) (retain : Bool) (tx : List Nat) (a : Acc) (n : Nat) : State × List Byte :=
  let pa := physAddr s ctx a.xl a.va false
  match tget s.teams core with
  | none => (s, [])
  | some t =>
    let g := (tget t.groups e.grp).getD Group.empty
    if !tx.isEmpty && a.xl.mt == 0 then
      let r := cachedRead s core ctx e.grp e.ord retain a.xl (a.va / 32 * 32) 32
      let bs := detOverlay r.1 t ctx e.id (pa / 32 * 32) r.2
      (tx.foldl (fun s l => recordRead s core e.grp l (pa / 32) bs) r.1,
        tx.foldr (fun l bs => txOverlay g l e.id pa bs) ((bs.drop (pa % 32)).take n))
    else
      let (s, bs) := cachedRead s core ctx e.grp e.ord retain a.xl a.va n
      (s, detOverlay s t ctx e.id pa bs)

/-- The error that a load consumes: in the line of the L1 that it hits, of the L1 itself or come with the line from memory, or
the poison of memory (R362). -/
def readLost (s : State) (core : Nat) (o : Ord) (x : Xl) (va pa n : Nat) : Option TrapInfo :=
  let hit := if policy o x == 3 then none else (tget s.teams core).bind (fun t => t.l1.find? (fun y => y.line == pa / 128))
  match hit with
  | some y =>
    match y.bad.find? (fun w => decide (8 * (w % 16) < pa % 128 + n) && decide (pa % 128 < 8 * (w % 16) + 8)) with
    | some w => some (if w < 16 then uncorrTrap va 2 ((Config.value s.free).toNat % 256) else uncorrTrap va (w / 16) 0)
    | none => none
  | none => if poisoned s pa n then some (uncorrTrap va (poisonStruct s pa n) 0) else none

/-- What a load of a device register returns: the spec gives no map of them, so any value (R52, R58). -/
def deviceRead (s : State) : State × Word := ({ s with free := s.free + 1 }, Config.value s.free)

/-- One lane of a load (R226). -/
def performLoad (core ctx ty : Nat) (retain : Bool) (tx : List Nat) (p : Perf) (a : Acc) : Perf :=
  let n := tyBits ty / 8
  let pa := physAddr p.st ctx a.xl a.va false
  if a.xl.mt == 5 then peerRead p core ctx a a.lane 0 ty [(pa, n)] [] []
  else if a.xl.mt == 6 then
    (if !deviceRange pa n then p.hole a.lane pa a.va
     else let r := deviceRead p.st
       { p with st := r.1, e := { p.e with got := p.e.got ++ [(a.lane, tyExt ty (r.2.toNat % 2 ^ tyBits ty))] } })
  else if !populated pa n then p.hole a.lane pa a.va
  else match readLost p.st core p.e.ord a.xl a.va pa n with
    | some t => p.fail a.lane t
    | none =>
      let (s, bs) := laneRead p.st core ctx p.e retain (if p.e.unif then tx else tx.filter (· == a.lane)) a n
      { p with st := s, e := { p.e with got := p.e.got ++ [(a.lane, tyExt ty (leNat bs))] } }

/-- Bytes written at their home under a policy, with the core's own L1 kept no older (R212, R226). -/
def homeStore (s : State) (core pa cp wp : Nat) (bs : List Byte) : State :=
  let s := l2TouchAll (meetUpsets s pa bs.length) pa bs.length cp wp true
  l1Refresh (homeWrite s pa bs) core pa bs.length

/-- A store's bytes at their home (R212, R226). -/
def storeHome (s : State) (core ctx : Nat) (o : Ord) (x : Xl) (va : Nat) (bs : List Byte) : State :=
  homeStore s core (physAddr s ctx x va false) (policy o x) x.wp bs

/-- A store to a window goes to the hub, with its pieces (R320). -/
def windowStore (p : Perf) (core ctx key : Nat) (n64 : Bool) (ps : List (Acc × List Byte)) : Perf :=
  let parts := ps.map (fun x => (⟨x.1.va, physAddr p.st ctx x.1.xl x.1.va false, x.1.xl.mt, x.2⟩ : WinPart))
  { p with st := { p.st with winq := p.st.winq ++ [⟨ctx, core, p.e.grp, p.e.id, key, n64, parts⟩] }, left := p.left ++ [key] }

/-- A store enters the combining buffer; an entry keyed by a dead peer is discarded, and GONE is latched (R273, R219). -/
def wcStore (p : Perf) (core : Nat) (a : Acc) (pa : Nat) (bs : List Byte) : Perf :=
  if p.st.peerdead.getLsbD a.xl.aux then p.fail a.lane (goneTrap a.xl.aux a.va) else { p with st := wcMerge p.st core p.e a pa bs }

/-- One lane of a store (R226, R217, R320). -/
def performStore (core ctx : Nat) (ty : Nat) (p : Perf) (a : Acc) (x : Word) : Perf :=
  let bytes := tyBits ty / 8
  let bs := leBytes bytes x.toNat
  let pa := physAddr p.st ctx a.xl a.va false
  if a.xl.mt == 5 then
    (if p.e.ord.rel then peerWrite p core ctx a a.lane [(pa, bs)] [] else wcStore p core a pa bs)
  else if a.xl.mt == 6 then
    (if deviceRange pa bytes then { p with st := { p.st with devWrites := p.st.devWrites ++ [(pa, bs)] } } else p.hole a.lane pa a.va)
  else if a.xl.mt != 0 then windowStore p core ctx a.lane (ty == 1) [(a, bs)]
  else if !populated pa bytes then p.hole a.lane pa a.va
  else { p with st := storeHome p.st core ctx p.e.ord a.xl a.va bs }

/-- The registers that an LDB's bytes give: payload registers, then the metadata register (R195, R229). -/
def blockRegs (ty lane : Nat) (bs : List Byte) : List (Nat × Word) :=
  let nd := payRegs ty
  let md := leNat (bs.drop (payBytes ty))
  (regsOfBytes (bs.take (payBytes ty)) nd).zipIdx.map (fun r => (64 * r.2 + lane, r.1))
    ++ [(64 * nd + lane, word (if metaBytes ty == 4 then md else md % 256))]

/-- The peers that pieces of a block name. -/
def peersOf (ps : List (Acc × Nat)) : List Nat := sortNat ((ps.filter (fun p => p.1.xl.mt == 5)).map (·.1.xl.aux))

/-- The lines of pieces of the package's own memory. -/
def pieceLines (qs : List (Nat × Nat)) : List Nat := sortNat (qs.flatMap (fun q => linesOf q.1 q.2))

/-- The lines of pieces with their translations. -/
def blockLines (qs : List (Xl × Nat × Nat)) : List Nat := pieceLines (qs.map (·.2))

/-- The line of the L1 that may serve a block read: the one that holds all of it, when no piece of it is read under bypass
(R168, Table 12.3). -/
def blockLine (o : Ord) (qs : List (Xl × Nat × Nat)) : Option Nat :=
  match blockLines qs with
  | [l] => if qs.any (fun q => policy o q.1 == 3) then none else some l
  | _ => none

/-- The policy under which a line of a block is filled: that of the first piece in it. -/
def linePolicy (o : Ord) (qs : List (Xl × Nat × Nat)) (l : Nat) : Nat :=
  ((qs.find? (fun q => (linesOf q.2.1 q.2.2).contains l)).map (fun q => policy o q.1)).getD 0

/-- The bytes of one indivisible read of pieces of the package's own memory, each under its own page's policy and partition: from
a line of the L1, else from their homes, the lines then filling the L1 (R113, R168, R212, R215, R230). -/
def blockRead (s : State) (core ctx : Nat) (e : OttEntry) (serve : Option Nat) (qs : List (Xl × Nat × Nat)) : State × List Byte :=
  match tget s.teams core with
  | none => (s, [])
  | some t =>
    let lay (q : Xl × Nat × Nat) (bs : List Byte) : List Byte := detOverlay s t ctx e.id q.2.1 bs
    match serve.bind (fun l => t.l1.find? (fun y => y.line == l)) with
    | some y => (s, qs.flatMap (fun q => lay q ((y.data.drop (q.2.1 % 128)).take q.2.2)))
    | none =>
      let s := qs.foldl (fun s q => l2TouchAll (meetUpsets s q.2.1 q.2.2) q.2.1 q.2.2 (policy e.ord q.1) q.1.wp false) s
      let s := (blockLines qs).foldl (fun s l =>
        let cp := linePolicy e.ord qs l
        if cp == 3 then modTeam s core (fun t => l1Drop t l)
        else l1Take (meetUpsets s (l * 128) 128) core e.grp l (if cp == 1 then 1 else 0)) s
      (s, qs.flatMap (fun q => lay q (memRead s.mem q.2.1 q.2.2)))

/-- The error that an LDB consumes in the line of the L1 that serves it, or in memory (R362). -/
def blockLost (s : State) (core : Nat) (o : Ord) (serve : Option Nat) (va : Nat) (qs : List (Xl × Nat × Nat)) : Option TrapInfo :=
  let o := if serve.isSome then o else { o with hint := some 3 }
  qs.findSome? (fun q => readLost s core o q.1 va q.2.1 q.2.2)

/-- The pieces of a block with their lengths and offsets. -/
def offsetsOf (k : Nat) : List (Acc × Nat) → List (Acc × Nat × Nat)
  | [] => []
  | x :: r => (x.1, x.2, k) :: offsetsOf (k + x.2) r

/-- The bytes of a lane's block in the order of their offsets, once they have all returned. -/
def blockOf (buf : List (Nat × Nat × List Byte)) (lane : Nat) : List Byte :=
  let mine := buf.filter (fun x => x.1 == lane)
  (sortNat (mine.map (·.2.1))).flatMap (fun o => ((mine.find? (fun x => x.2.1 == o)).map (·.2.2)).getD [])

/-- One lane of LDB: payload and metadata read as one access at their homes, or of their peer (R166, R229, R230);
pieces that lie in the memories of different packages are read where they lie, none of them in the L1 (log 75). -/
def performLoadBlock (core ctx ty : Nat) (p : Perf) (ps : List (Acc × Nat)) : Perf :=
  match ps with
  | [] => p
  | (a, _) :: _ =>
    match peersOf ps with
    | [] =>
      let qs := (ps.map (·.1.xl)).zip (localPieces p.st ctx ps)
      let serve := blockLine p.e.ord qs
      match qs.find? (fun q => !populated q.2.1 q.2.2) with
      | some q => p.hole a.lane q.2.1 a.va
      | none => match blockLost p.st core p.e.ord serve a.va qs with
        | some t => p.fail a.lane t
        | none =>
          let (s, bs) := blockRead p.st core ctx p.e serve qs
          { p with st := s, e := { p.e with got := p.e.got ++ blockRegs ty a.lane bs } }
    | peers =>
      let xs := offsetsOf 0 ps
      let own := (xs.filter (fun x => x.1.xl.mt != 5)).map (fun x => (x, physAddr p.st ctx x.1.xl x.1.va false))
      match own.find? (fun x => !populated x.2 x.1.2.1) with
      | some x => p.hole a.lane x.2 a.va
      | none => match own.findSome? (fun x => blockLost p.st core p.e.ord none a.va [(x.1.1.xl, x.2, x.1.2.1)]) with
        | some t => p.fail a.lane t
        | none =>
          let p := own.foldl (fun (p : Perf) x =>
            let r := blockRead p.st core ctx p.e none [(x.1.1.xl, x.2, x.1.2.1)]
            { p with st := r.1, e := { p.e with buf := p.e.buf ++ [(a.lane, x.1.2.2, r.2)] } }) p
          peers.foldl (fun p k =>
            let mine := xs.filter (fun x => x.1.xl.mt == 5 && x.1.xl.aux == k)
            match mine.head? with
            | some b => peerRead p core ctx { b.1 with lane := a.lane, va := a.va } (64 * k + a.lane) 1 ty
                (mine.map (fun x => (physAddr p.st ctx x.1.xl x.1.va false, x.2.1))) (mine.map (·.2.2))
                (mine.map (fun x => (policy p.e.ord x.1.xl, x.1.xl.wp)))
            | none => p) p

/-- The pieces of a byte string, each with its bytes. -/
def splitPieces : List (Acc × Nat) → List Byte → List (Acc × List Byte)
  | [], _ => []
  | x :: r, bs => (x.1, bs.take x.2) :: splitPieces r (bs.drop x.2)

/-- One lane of STB: payload and metadata written as one access at their homes, to a window or to their peer (R166,
R229, R230), in one block even for a channel that has read a part of it (R168). -/
def performStoreBlock (core ctx : Nat) (p : Perf) (ps : List (Acc × Nat)) (bs : List Byte) : Perf :=
  match ps with
  | [] => p
  | (a, _) :: _ =>
    let xs := splitPieces ps bs
    let home := (ps.filter (fun x => x.1.xl.mt == 0)).map (fun x => (physAddr p.st ctx x.1.xl x.1.va false, x.2))
    match home.find? (fun q => !populated q.1 q.2) with
    | some q => p.hole a.lane q.1 a.va
    | none =>
      let p := { p with st := keepOlds p.st home }
      let p := (xs.filter (fun x => x.1.xl.mt == 0)).foldl (fun (p : Perf) x =>
        { p with st := storeHome p.st core ctx p.e.ord x.1.xl x.1.va x.2 }) p
      let win := xs.filter (fun x => 1 ≤ x.1.xl.mt && x.1.xl.mt ≤ 3)
      let p := if win.isEmpty then p else windowStore p core ctx (64 * 16 + a.lane) false win
      (peersOf ps).foldl (fun p k =>
        let mine := xs.filter (fun x => x.1.xl.mt == 5 && x.1.xl.aux == k)
        match mine.head? with
        | some b => peerWrite p core ctx { b.1 with lane := a.lane, va := a.va } (64 * k + a.lane)
            (mine.map (fun x => (physAddr p.st ctx x.1.xl x.1.va false, x.2))) (mine.map (fun x => (policy p.e.ord x.1.xl, x.1.xl.wp)))
        | none => p) p

/-- One lane of an atomic on memory (R304, R305, R286). -/
def performAtom (core ctx op ty stream : Nat) (hold : Bool) (p : Perf) (a : AtomLane) : Perf :=
  let n := tyBits ty / 8
  let pa := physAddr p.st ctx a.acc.xl a.acc.va false
  if a.acc.xl.mt == 5 then
    let (s, ser) := takeSerial p.st ctx stream a.acc.xl.aux
    let r := Req.base s.stamp .stream a.acc.xl.aux ctx core p.e.grp p.e.id a.acc.lane p.e.pc a.acc.va pa n (incOf s ctx a.acc.xl.aux)
    let r := { r with op := op, ty := ty, b := a.b, n := a.n, stream := stream, serial := ser, cp := a.acc.xl.cp, wp := a.acc.xl.wp }
    { p with st := if hold && !p.left.isEmpty then heldReq s r else newReq s r, left := p.left ++ [a.acc.lane] }
  else if !populated pa n then p.hole a.acc.lane pa a.acc.va
  else if poisoned p.st pa n then p.fail a.acc.lane (uncorrTrap a.acc.va (poisonStruct p.st pa n) 0)
  else
    let m := memNat p.st.mem pa n
    let s := l2Touch (meetUpsets p.st pa n) pa a.acc.xl.cp a.acc.xl.wp true
    let new := atomNew op ty m (a.b.toNat % 2 ^ tyBits ty) (a.n.toNat % 2 ^ tyBits ty)
    let s := l1DropRange (homeWrite s pa (leBytes n new)) core pa n
    { p with st := s, e := { p.e with got := p.e.got ++ [(a.acc.lane, tyExt ty m)] } }

/-- A word of a scratchpad that holds an uncorrectable error (R362). -/
def spadPoison (s : State) (core off : Nat) : Bool :=
  ((tget s.teams core).map (fun t => t.spadBad.contains (off / 8))).getD false

/-- EUNCORR of a scratchpad word: it names the bank that holds the word (R206, Table 22.2). -/
def spadTrap (s : State) (core off : Nat) : TrapInfo :=
  uncorrTrap 0 2 (((tget s.teams core).map (fun t => spadBank t.role off)).getD 0)

/-- One lane of a scratchpad load (R227). -/
def performSLoad (ty : Nat) (p : Perf) (a : SAcc) : Perf :=
  if spadPoison p.st a.core a.off then p.fail a.lane (spadTrap p.st a.core a.off)
  else { p with e := { p.e with got := p.e.got ++ [(a.lane, tyExt ty (leNat (spadRead p.st a.core a.off (tyBits ty / 8))))] } }

/-- One lane of a scratchpad atomic (R304, R305). -/
def performSAtom (op ty : Nat) (p : Perf) (a : SAtomLane) : Perf :=
  if spadPoison p.st a.acc.core a.acc.off then p.fail a.acc.lane (spadTrap p.st a.acc.core a.acc.off)
  else
    let n := tyBits ty / 8
    let m := leNat (spadRead p.st a.acc.core a.acc.off n)
    let new := atomNew op ty m (a.b.toNat % 2 ^ tyBits ty) (a.n.toNat % 2 ^ tyBits ty)
    { p with st := spadWrite p.st a.acc.core a.acc.off (leBytes n new),
             e := { p.e with got := p.e.got ++ [(a.acc.lane, tyExt ty m)] } }

/-- Pins a line for a context: filled if absent, refused when the set holds 12 pinned lines (R216, R231). Of a line that can take no way
(WPM mask 0, or every eligible way pinned below twelve pins) the spec says nothing: the model latches PINFULL, and it fills a
line of a CP-bypass page as a normal one and pins it (DESIGN CHOICE, log 94). -/
def pinLine (s : State) (ctx core grp pa : Nat) (x : Xl) : State :=
  let line := pa / 128
  let k := l2Set pa
  let ls := tgetD s.l2 k []
  if ls.any (fun y => y.line == line && y.pin.isSome) then s
  else if (ls.filter (fun y => y.pin.isSome)).length ≥ 12 then modGroup s core grp Group.latchPin
  else
    let mask := s.wpm.getD x.wp 0
    let ls := l2Access ls line (if x.cp == 3 then 0 else x.cp) mask false
    if ls.any (fun y => y.line == line) then
      { s with l2 := tset s.l2 k (ls.map (fun y => if y.line == line then { y with pin := some ctx } else y)) }
    else modGroup s core grp Group.latchPin

/-- One line of a CMNT (Table 13.1). -/
def cmntLine (core ctx grp op : Nat) (x : Xl) (s : State) (pa : Nat) : State :=
  let line := pa / 128
  let k := l2Set pa
  let ls := tgetD s.l2 k []
  match op with
  | 0 => pinLine s ctx core grp pa x
  | 1 => { s with l2 := tset s.l2 k (ls.map (fun y => if y.line == line && y.pin == some ctx then { y with pin := none } else y)) }
  | 2 => { s with l2 := tset s.l2 k (ls.map (fun y => if y.line == line then { y with dirty := false } else y)) }
  | 3 => { s with l2 := tset s.l2 k ((ls.filter (fun y => y.line != line || y.pin.isSome)).map
            (fun y => if y.line == line then { y with dirty := false } else y)) }
  | _ => modTeam s core (fun t => l1Drop t line)

/-- One line of a CMNT (R231). One in a hole has an error response (R66). -/
def performCmnt (core ctx op : Nat) (p : Perf) (a : Acc) : Perf :=
  let pa := physAddr p.st ctx a.xl a.va false
  if populated pa 128 then { p with st := cmntLine core ctx p.e.grp op a.xl p.st pa } else p.hole a.lane pa a.va

/-- A line of a peer that a PREF names is read by its owner, which fills it; nobody waits for the answer, and a PREF to a
dead peer is dropped (R228, R270, R273). -/
def prefPeer (s : State) (core ctx cp : Nat) (e : OttEntry) (x : Xl) (va pa : Nat) : State :=
  if s.peerdead.getLsbD x.aux then s else
  let r := Req.base s.stamp .read x.aux ctx core e.grp e.id 0 e.pc va pa 128 (incOf s ctx x.aux)
  newReq s { r with op := 6, cp := cp, wp := x.wp }

/-- One lane of a PREF: lines into the L2, and with LVL 01 into the L1, marked as the policy says (R213, R228). A line in a hole
is dropped, and its target logs it (R66, R349). -/
def performPref (core ctx lvl lines : Nat) (p : Perf) (va0 : Nat) : Perf :=
  { p with st := (List.range lines).foldl (fun s i =>
      let va := va0 / 128 * 128 + 128 * i
      match resolve s ctx va with
      | .ok x =>
        let pa := physAddr s ctx x va false
        let cp := if lvl == 2 then 2 else if lvl == 3 then 1 else x.cp
        if x.mt == 5 then prefPeer s core ctx cp p.e x va pa
        else if !(x.mt == 0 || x.mt == 7) then s
        else if !populated pa 128 then logViolation s pa
        else
          let s := l2Touch (meetUpsets s pa 128) pa cp x.wp false
          if lvl == 1 && cp != 3 && !(((tget s.teams core).map (fun t => t.l1.any (fun y => y.line == pa / 128))).getD false) then
            l1Take s core p.e.grp (pa / 128) (markOf cp % 2)
          else s
      | .error _ => s) p.st }

/-! ### Transactions (R309) -/

/-- The lines and sectors of a lane's write set. -/
def txWriteSectors (g : Group) (l : Nat) : List Nat :=
  sortNat ((g.txw.filter (fun w => w.lane == l)).flatMap (fun w => sectorsOf w.pa w.bytes.length))

/-- The sectors of a lane's read set. -/
def txReadSectors (g : Group) (l : Nat) : List Nat := sortNat ((g.txr.filter (fun r => r.lane == l)).map (·.sector))

/-- Two lanes of one group conflict: the earlier writes a sector that the later reads or writes, or reads
one that the later writes (R309). -/
def txConflict (g : Group) (k l : Nat) : Bool :=
  (txWriteSectors g k).any (fun x => (txReadSectors g l).contains x || (txWriteSectors g l).contains x)
  || (txReadSectors g k).any (fun x => (txWriteSectors g l).contains x)

/-- The lanes that still win after the contest within the group, and the losers with their winners. -/
def txContest (g : Group) : List Nat → List Nat → List (Nat × Nat) → List Nat × List (Nat × Nat)
  | [], win, lose => (win, lose)
  | l :: r, win, lose =>
    match win.find? (fun k => txConflict g k l) with
    | some k => txContest g r win (lose ++ [(l, k)])
    | none => txContest g r (win ++ [l]) lose

/-- Every sector of a lane's read set still holds the recorded value (R309). -/
def txValid (s : State) (g : Group) (l : Nat) : Bool :=
  (g.txr.filter (fun r => r.lane == l)).all (fun r => memRead s.mem (r.sector * 32) 32 == r.bytes)

/-- A commit of a winning lane, a release at .dev of what it writes; a store to a hole has its error latched (R66, R297, R309). -/
def txCommitLane (core grp : Nat) (s : State) (l : Nat) : State :=
  match groupAt s core grp with
  | none => s
  | some g =>
    if txValid s g l then
      let s := (g.txw.filter (fun w => w.lane == l)).foldl (fun s w =>
        if populated w.pa w.bytes.length then homeStore s core w.pa w.cp w.wp w.bytes
        else latchErr (logViolation s w.pa) core grp 0x05 8 (word w.va) 8) s
      let s := addMarks s core (scopeRank .dev) s.stamp ((g.txw.filter (fun w => w.lane == l)).map (fun w => (0, w.pa, w.bytes.length)))
      modGroup s core grp (fun g => g.modLane l (fun t => { t with txw := txStatus 1 0 0 0 }))
    else modGroup s core grp (fun g => g.modLane l (fun t => { t with txw := txStatus 3 0 0 0 }))

/-- TCOMMIT of the enabled lanes: the state and each lane's result (R309). -/
def commitTx (s : State) (core grp : Nat) (lanes : List Nat) : State × List (Nat × Word) :=
  match groupAt s core grp with
  | none => (s, [])
  | some g =>
    let tx := lanes.filter (fun l => (g.lane l).txs != .none_)
    let op := tx.filter (fun l => (g.lane l).txs == .opened)
    let (win, lose) := txContest g op [] []
    let s := lose.foldl (fun s x => modGroup s core grp (fun g => g.modLane x.1 (fun t => { t with txw := txStatus 2 0 x.2 0 }))) s
    let s := win.foldl (txCommitLane core grp) (if tx.isEmpty then s else l1Clear s core)
    let g := (groupAt s core grp).getD g
    let got := lanes.map (fun l => (l, if tx.contains l then (g.lane l).txw else 0))
    (modGroup s core grp (fun g =>
      let g := tx.foldl (fun g l => g.modLane l (fun t => { t with txs := .none_ })) g
      { g with txr := g.txr.filter (fun r => !tx.contains r.lane), txw := g.txw.filter (fun w => !tx.contains w.lane) }), got)

/-- The physical address of a LAUNCH lane's record. -/
def launchPa (s : State) (ctx : Nat) (x : Nat × Acc) : Nat := physAddr s ctx x.2.xl x.2.va false

/-- The record of a LAUNCH lane: as kept while it waits for the firmware, else as memory holds it (R16). -/
def launchRec (s : State) (ctx : Nat) (x : Nat × Acc) (kept : Option LaunchRecord) : LaunchRecord :=
  kept.getD (readRecord s (launchPa s ctx x))

/-- The next lane of a LAUNCH submits its record; other submissions may fall between the lanes (R133, R135). A lane whose
record lies in a hole has nothing submitted (R134). A NOTVALID of DONE or DEP goes to the firmware, the record being
kept (R16, R20). -/
def launchStep (s : State) (core ctx : Nat) (e : OttEntry) : State :=
  match e.work with
  | .launch (x :: r) kept =>
    match (if e.got.isEmpty then (x :: r).find? (fun y => !populated (launchPa s ctx y) 128) else none) with
    | some y => finishEntry (logViolation s (launchPa s ctx y)) core (e.fail y.1 (holeTrap y.2.va))
    | none =>
      let c := launchRec s ctx x kept
      match recNeeds s ctx c with
      | some va => putEntry (askFirmware (if kept.isSome then s else touchAt s ctx x.2.va 128 false) ctx va) core { e with work := .launch (x :: r) (some c) }
      | none =>
        let (s, status, reason) := submit (if kept.isSome then s else touchAt s ctx x.2.va 128 false) ctx false c
        let e := { e with work := .launch r none, got := e.got ++ [(x.1, word (status + 2 ^ 8 * reason))] }
        if r.isEmpty then finishEntry s core e else putEntry s core e
  | _ => finishEntry s core e

/-- A LAUNCH waits for the firmware. -/
def launchWaits (s : State) (ctx : Nat) (w : Work) : Bool :=
  match w with
  | .launch (x :: _) (some c) => ((recNeeds s ctx (launchRec s ctx x (some c))).map (asked s ctx)).getD false
  | _ => false

/-- The errors that an entry's accesses to memory meet, but for lines that the L1 holds (R358, R362). -/
def meetEntry (s : State) (core ctx : Nat) (e : OttEntry) : State :=
  if s.upsets.isEmpty then s
  else
    let cached (pa : Nat) : Bool := ((tget s.teams core).map (fun t => t.l1.any (fun y => y.line == pa / 128))).getD false
    (workRanges s ctx e.work).foldl (fun s r => if r.2.1 == 0 && !cached r.2.2.1 then meetUpsets s r.2.2.1 r.2.2.2 else s) s

/-- The locations that work writes in the package's own memory. -/
def localWrites (s : State) (ctx : Nat) (w : Work) : List (Nat × Nat) :=
  match w with
  | .store _ _ | .storeBlock _ _ | .atom _ _ _ _ | .arrive _ _ =>
    ((workRanges s ctx w).filter (fun r => r.2.1 == 0)).map (fun r => (r.2.2.1, r.2.2.2))
  | _ => []

/-- The locations that a release marks, with their spaces: those that it writes in the package's memory and in scratchpads,
and for a PUBL its buffer, with both halves of the page that it names (R60, R240, R297). -/
def markedPlaces (s : State) (ctx : Nat) (w : Work) : List (Nat × Nat × Nat) :=
  match w with
  | .sstore _ _ | .satom _ _ _ => (workRanges s ctx w).map (·.2)
  | .publ a _ => [(bufSpace ctx a.xl.aux, 0, 1), (0, a.xl.base, 2 * a.xl.size)]
  | _ => (localWrites s ctx w).map (fun x => (0, x))

/-- The narrow FENCEs of an entry's threads before it whose team still buffers writes that they carry (R293, R297, R316). -/
def fencesOf (t : Team) (tids : List Nat) (id : Nat) : List (Nat × Nat × List Nat) :=
  t.fences.filter (fun f => decide (f.1 ≤ id) && sharesThread f.2.2 tids && t.det.any (fun d => decide (d.id < f.1)))

/-- A release narrower than .sys marks the locations that it writes, and so does a write that follows a narrow FENCE with release
in its thread (R293, R297). -/
def setMarks (s : State) (core ctx : Nat) (e : OttEntry) : State :=
  let ws := markedPlaces s ctx e.work
  if e.ord.rel then (if scopeRank e.ord.scope > 3 then s else addMarks s core (scopeRank e.ord.scope) s.stamp ws)
  else match tget s.teams core with
    | none => s
    | some t => (fencesOf t (e.tids.map (·.2)) e.id).foldl (fun s f => addMarks s core f.2.1 f.1 ws) s

/-- What precedes the performing of an entry: an acquire takes the L1's lines away, unless its lanes are at a peer, whose
answers do (R212); a release at .sys has every invalidation of the port buffers applied (R299). -/
def beforeEntry (s : State) (core ctx : Nat) (e : OttEntry) : State :=
  let s := if clearsL1 e.ord then l1Clear s core else s
  let o := effOrd e.ord e.work
  meetEntry (if o.rel && o.scope == .sys then applyAll s else s) core ctx e

/-- Performs what an entry has to do at home and sends what goes to a peer or to the hub; the entry is
released when nothing is left, and a write once its invalidations are applied (R109, R299, R300). -/
def performEntry (s : State) (core ctx : Nat) (e : OttEntry) : State :=
  let s := beforeEntry s core ctx e
  let hold : Bool := ((tget s.teams core).map (fun t => recDet (recOf s t))).getD false
  let fin (p : Perf) : State :=
    let s := setMarks p.st core ctx e
    let lines := stillPending s ((localWrites s ctx e.work).flatMap (fun w => linesOf w.1 w.2))
    settle s core { p.e with work := if p.left.isEmpty then .inval lines else .remote p.left }
  let p0 : Perf := ⟨s, e, []⟩
  match e.work with
  | .values | .done | .inval _ => finishEntry s core e
  | .load ty retain tx ls => fin (ls.foldl (performLoad core ctx ty retain tx) p0)
  | .store ty ls => fin (ls.foldl (fun p x => performStore core ctx ty p x.1 x.2) p0)
  | .loadBlock ty ls => fin (ls.foldl (performLoadBlock core ctx ty) p0)
  | .storeBlock _ ls => fin (ls.foldl (fun p x => performStoreBlock core ctx p x.1 x.2) p0)
  | .sload ty ls => fin (ls.foldl (performSLoad ty) p0)
  | .sstore ty ls => fin (ls.foldl (fun p x => { p with st := spadWrite p.st x.1.core x.1.off (leBytes (tyBits ty / 8) x.2.toNat) }) p0)
  | .atom op ty st ls => fin (ls.foldl (performAtom core ctx op ty st hold) p0)
  | .satom op ty ls => fin (ls.foldl (performSAtom op ty) p0)
  | .cmnt op ls => fin (ls.foldl (performCmnt core ctx op) p0)
  | .pref lvl n ls => fin (ls.foldl (performPref core ctx lvl n) p0)
  | .arrive a k =>
    let pa := physAddr s ctx a.xl a.va false
    if !populated pa 64 then fin (p0.hole a.lane pa a.va)
    else fin { p0 with st := l1DropRange (addCount (l2Touch s pa (policy e.ord a.xl) a.xl.wp true) pa k) core pa 4 }
  | .publ a _ =>
    let x := ctxOf s ctx
    if tgetD x.openCpyg a.xl.aux 0 > 0 || x.torn.contains a.xl.aux then finishEntry (latchErr s core e.grp 0x14 0 (word a.va) 0) core e
    else finishEntry (setMarks (modCtx s ctx (fun x => { x with
        sel := if x.sel.contains a.xl.aux then x.sel.filter (· != a.xl.aux) else insertNat a.xl.aux x.sel })) core ctx e) core e
  | .launch _ _ => launchStep s core ctx e
  | .emit ls ty thr =>
    let n := ((tget s.teams core).map (·.launch)).getD 0
    let held := ls.map (fun x => (⟨thr, physAddr s ctx x.1.xl x.1.va false, leBytes (tyBits ty / 8) x.2.toNat, n, core, e.grp, x.1.va,
      x.1.xl.cp, x.1.xl.wp⟩ : HeldEmit))
    runEmits (finishEntry (modCtx s ctx (fun c => { c with emits := c.emits ++ held })) core e) ctx
  | _ => s

/-- The failure that the lanes of an entry would end with if it were performed now. -/
def trialBad (s : State) (core ctx : Nat) (e : OttEntry) : Option (Nat × TrapInfo) :=
  let p : Perf := ⟨s, { e with bad := none }, []⟩
  match e.work with
  | .sload ty ls => (ls.foldl (performSLoad ty) p).e.bad
  | .satom op ty ls => (ls.foldl (performSAtom op ty) p).e.bad
  | .load ty retain tx ls => (ls.foldl (performLoad core ctx ty retain tx) p).e.bad
  | .loadBlock ty ls => (ls.foldl (performLoadBlock core ctx ty) p).e.bad
  | .atom op ty st ls => (ls.foldl (performAtom core ctx op ty st false) p).e.bad
  | _ => none

/-- Whether performing a long entry would consume an uncorrectable error (R362): its lane and trap. -/
def entryPoisoned (s : State) (core ctx : Nat) (e : OttEntry) : Option (Nat × TrapInfo) :=
  if !e.long then none else
  match trialBad s core ctx e with
  | some (l, t) => if t.cause == 0x10 then some (l, t) else none
  | none => none

end Sys2Proof.Machine
end

