-- ==== Sys2Proof/Machine/Ops.lean ====
section
/-! DEFINITION. What every instruction shares: the end of a stretch, taking an exception and returning from
one, restart at the region entry, the halt of a team, barriers' completion, and the issue of an
instruction with its checks in the order of R343. -/

namespace Sys2Proof.Machine

/-- A list of threads' lanes, all of a group's live threads. -/
def liveLanes (g : Group) : List Nat := (laneList g).filter (fun l => (g.lane l).live)

/-- The number of live threads of a team: in its group contexts and in its REFORM bins. -/
def teamLive (t : Team) : Nat :=
  (t.groups.map (fun e => (liveLanes e.2).length)).sum
  + (t.bins.map (fun b => match b with | some b => b.threads.length | none => 0)).sum

/-! ### REFORM bins (R115, R116) -/

/-- The thread of a lane as a bin holds it: with the LC of its group, and the LCR; it carries a remote atomic of its group
and the sets of its transaction along, and one that waited for a bin waits no more (R116, R137, R285, R307, R347). -/
def binEntry (g : Group) (l stamp : Nat) : Thread × Word × Word :=
  let t := g.lane l
  ({ t with held := if t.held == some .filing then none else t.held, rmt := t.rmt || g.rmtOp, filed := stamp,
            filedR := g.txr.filter (fun r => r.lane == l), filedW := g.txw.filter (fun w => w.lane == l) }, g.lc, g.lcr)

/-- A group that a lane's thread has left: its transaction's sets go with the thread (R115, R307). -/
def Group.dropLane (g : Group) (l : Nat) : Group :=
  { g.modLane l (fun _ => Thread.empty) with
    txr := g.txr.filter (fun r => r.lane != l), txw := g.txw.filter (fun w => w.lane != l) }

/-- A thread has the key of a bin: its next PC, and HELD, which is 1 while the thread is held (R115). -/
def Bin.takes (b : Bin) (x : Thread × Word × Word) : Bool := b.pc == x.1.pc && b.held == x.1.held.isSome

/-- A bin with other threads, of which it has at least one: its age is that of the oldest. -/
def Bin.of (b : Bin) (ts : List (Thread × Word × Word)) : Bin := { b with threads := ts, stamp := (minNat (ts.map (·.1.filed))).getD b.stamp }

/-- Files a thread into the bin of its key, or into the lowest-numbered empty bin (Table 7.6); `none` when
every bin holds another key (R115). -/
def fileThread (bins : List (Option Bin)) (x : Thread × Word × Word) : Option (List (Option Bin)) :=
  match bins.findIdx? (fun b => match b with | some b => b.takes x | none => false) with
  | some i => some (bins.modify i (fun b => b.map (fun b => b.of (b.threads ++ [x]))))
  | none => match bins.findIdx? (fun b => b.isNone) with
    | some i => some (bins.set i (some ⟨x.1.pc, x.1.held.isSome, [x], x.1.filed⟩))
    | none => none

/-- Files a lane's thread; one that finds no bin stays in its context (R115). -/
def Team.fileLane (stamp grp : Nat) (t : Team) (l : Nat) : Team :=
  match tget t.groups grp with
  | none => t
  | some g =>
    match fileThread t.bins (binEntry g l stamp) with
    | some bins => { t with bins := bins }.modGroup grp (fun g => g.dropLane l)
    | none => t.modGroup grp (fun g => g.modLane l (fun y => { y with held := some (y.held.getD .filing) }))

/-- Files listed lanes of a group. The context is freed when no live thread is left in it (R115). -/
def Team.fileLanes (stamp grp : Nat) (lanes : List Nat) (t : Team) : Team :=
  let t := lanes.foldl (Team.fileLane stamp grp) t
  match tget t.groups grp with
  | some g => if (liveLanes g).isEmpty then { t with groups := tdel t.groups grp } else t
  | none => t

/-- The lanes of a group of a REFORM launch that are to be filed: all of them, once every live thread is held (R115). -/
def heldLanes (g : Group) : List Nat :=
  let ls := liveLanes g
  if g.hm.isNone && ls.all (fun l => (g.lane l).held.isSome) then ls else []

/-- Threads that have found no bin are filed anew (R115). -/
def Team.refile (stamp : Nat) (t : Team) : Team :=
  t.groups.foldl (fun t e => if (heldLanes e.2).isEmpty then t else t.fileLanes stamp e.1 (heldLanes e.2)) t

/-- Threads that have another key than the bin that they stand in go to the bin of their key or to an empty one; one that finds
none stays where it is, and the bin does not give it away (R115, log 72). -/
def settleBins (bins : List (Option Bin)) : List (Option Bin) :=
  let kept := bins.map (fun b => b.bind (fun b =>
    let ts := b.threads.filter b.takes
    if ts.isEmpty then none else some (b.of ts)))
  let out := bins.zipIdx.flatMap (fun b => match b.1 with
    | some x => (x.threads.filter (fun y => !x.takes y)).map (fun y => (b.2, y))
    | none => [])
  out.foldl (fun bs y => match fileThread bs y.2 with
    | some bs => bs
    | none => bs.modify y.1 (fun b => b.map (fun b => b.of (b.threads ++ [y.2])))) kept

/-- A wait of threads of a team is over, `f` being what becomes of such a thread: those that stand in bins change their key, and
in a REFORM launch one that has found no bin stays in its context until one takes it (R115). -/
def Team.endWait (t : Team) (h : Held) (stamp : Nat) (f : Group → Group) (k : Thread × Word × Word → Thread × Word × Word) : Team :=
  let full := !t.bins.isEmpty && t.bins.all (·.isSome)
  let stay (g : Group) (x y : Thread) : Thread := if full && g.hm.isNone && x.held == some h then { y with held := some .filing } else y
  let t' := { t with
    groups := tmap (fun _ g =>
      if g.threads.any (fun x => x.live && x.held == some h) then
        let g' := f g
        { g' with threads := List.zipWith (stay g) g.threads g'.threads }
      else g) t.groups,
    bins := settleBins (t.bins.map (fun b => b.map (fun b => { b with threads := b.threads.map (fun x => if x.1.held == some h then k x else x) }))) }
  if full then t'.refile stamp else t'

/-! ### Barriers (R311) -/

/-- The number of a team's threads that are held at a place. -/
def heldAt (t : Team) (h : Held) : Nat :=
  (t.groups.map (fun e => ((liveLanes e.2).filter (fun l => (e.2.lane l).held == some h)).length)).sum
  + (t.bins.map (fun b => match b with
      | some b => (b.threads.filter (fun x => x.1.held == some h)).length
      | none => 0)).sum

/-- A thread that a completed wait releases: it continues, with a region entry at its next PC (R311, R347). -/
def Thread.release (x : Thread) (h : Held) : Thread :=
  if x.held == some h then { x with held := none, entry := ⟨x.pc, x.loops, x.txs⟩, rmt := false } else x

/-- A thread that WAITV releases: it continues, and its region entry stays (R313, R347). -/
def Thread.wake (x : Thread) (h : Held) : Thread := if x.held == some h then { x with held := none } else x

/-- Releases the threads that a team holds at a WAITV (R115, R313). -/
def wakeHeld (t : Team) (h : Held) (stamp : Nat) : Team :=
  t.endWait h stamp (fun g => { g with threads := g.threads.map (fun x => x.wake h) }) (fun x => (x.1.wake h, x.2))

/-- Releases the threads that a team holds at a place; LCR is LC for their groups (R115, R347). -/
def releaseHeld (t : Team) (h : Held) (stamp : Nat) : Team :=
  t.endWait h stamp
    (fun g => { g with
      threads := g.threads.map (fun x => x.release h), lcr := g.lc, regionAt := stamp,
      rmtOp := g.rmtOp && !(g.threads.all (fun x => !x.live || x.held == some h)) })
    (fun x => (x.1.release h, x.2.1, x.2.1))

/-- The places at which threads of a team are held, in its groups and bins. -/
def heldPlaces (t : Team) : List Held :=
  t.groups.flatMap (fun e => (liveLanes e.2).filterMap (fun l => (e.2.lane l).held))
  ++ t.bins.flatMap (fun b => match b with | some b => b.threads.filterMap (fun x => x.1.held) | none => [])

/-- When a group of a team began to wait for the cluster-copy count. -/
def ccSince (g : Group) : Option Nat :=
  match g.stall with
  | some (.ccWait, n) => some n
  | _ => none

/-- No group of the team, but one, and no filed thread has waited longer for the cluster-copy count (R312). -/
def ccFirst (t : Team) (grp since : Nat) : Bool :=
  t.groups.all (fun e => e.1 == grp || match ccSince e.2 with | some k => decide (since ≤ k) | none => true)
  && (heldPlaces t).all (fun h => match h with | .ccWait _ k => decide (since ≤ k) | _ => true)

/-- The threads that a REFORM launch has filed in CBAR.copy continue as the count reaches theirs, in the order in which they
began to wait; each is an acquire at .clus (R115, R312). -/
def settleCc (stamp : Nat) : Nat → Team → Team
  | 0, t => t
  | k + 1, t =>
    match (heldPlaces t).find? (fun h => match h with | .ccWait n since => ccFirst t 64 since && decide (n ≤ t.cc) | _ => false) with
    | some (.ccWait n since) => settleCc stamp k (releaseHeld { t with cc := t.cc - n, l1 := [] } (.ccWait n since) stamp)
    | _ => t

/-- Completes every barrier whose live threads have all arrived: the 16 of the team, and the 4 of its
cluster, whose completion is an acquire at .clus for every team (R311). -/
def completeBarriers (s : State) (core : Nat) : State :=
  match tget s.teams core with
  | none => s
  | some t =>
    let s := (List.range 16).foldl (fun s i => modTeam s core (fun t =>
      if heldAt t (.bar i) = teamLive t && teamLive t != 0 then releaseHeld t (.bar i) s.stamp else t)) s
    let cs := clusterCores s t
    (List.range 4).foldl (fun s i =>
      let ts := cs.filterMap (fun c => (tget s.teams c).filter (fun x => x.launch == t.launch && x.cix == t.cix))
      let live := (ts.map teamLive).sum
      if live != 0 && (ts.map (fun t => heldAt t (.cbar i))).sum = live then
        cs.foldl (fun s c => modTeam s c (fun x =>
          if x.launch == t.launch && x.cix == t.cix then { releaseHeld x (.cbar i) s.stamp with l1 := [] } else x)) s
      else s) s

/-! ### Copy channels and the CWAITs that wait for them (R232, R238) -/

/-- A channel holds a final state. -/
def Channel.final (c : Channel) : Bool := c.st == .done || c.st == .stopped || c.st == .cancelled

/-- The status word of a channel (Table 13.4). -/
def Channel.word (c : Channel) : Word :=
  Machine.word (c.p % 2 ^ 48 + 2 ^ 48 * c.fkind + 2 ^ 56 * (match c.st with | .done => 0 | .stopped => 1 | .cancelled => 2 | _ => 3))

/-- The status word of a stale handle. -/
def staleWord : Word := word (3 * 2 ^ 56)

/-- Serves one CWAIT: a stale handle at once, a final state to the first that waits, which frees the channel. -/
def serveWaiter (core : Nat) (s : State) (e : OttEntry) : State :=
  match tget s.teams core, e.work with
  | some t, .cwait k gen trapForm =>
    match t.chan[k]? with
    | none => finishEntry s core { e with got := [(0, staleWord)] }
    | some c =>
      if c.gen != gen || c.st == .idle then finishEntry s core { e with got := [(0, staleWord)] }
      else if c.final then
        let s := modTeam s core (fun t => { t with chan := lmod t.chan k (fun c => { c with st := .idle }) })
        if trapForm && c.st == .stopped then finishEntry s core (e.fail 0 ⟨0x14, Machine.word c.fva, c.word⟩)
        else finishEntry s core { e with got := [(0, c.word)] }
      else s
  | _, _ => s

/-- Serves the CWAITs of a team in the order in which they were issued. -/
def serveWaiters (s : State) (core : Nat) : State :=
  match tget s.teams core with
  | some t => t.ott.foldl (serveWaiter core) s
  | none => s

/-- A CPYG reaches its final state: its open count falls, and TORN says whether it was DONE (R236). -/
def closeCpyg (s : State) (c : Channel) (done : Bool) : State :=
  match c.pubId with
  | some id =>
    if c.open_ then modCtx s c.ctx (fun x => { x with
        torn := if done then x.torn.filter (· != id) else insertNat id x.torn,
        openCpyg := tset x.openCpyg id (tgetD x.openCpyg id 0 - 1) })
    else s
  | none => s

/-- Drops the outstanding reads of a channel (R234). -/
def dropChanReads (s : State) (core k : Nat) : State :=
  { s with reqs := s.reqs.filter (fun r => !(r.core == core && r.op == 3 && r.lane == k && r.kind == .read)) }

/-- Cancels an active channel as CCAN does (R239). -/
def cancelChan (s : State) (core k : Nat) (c : Channel) : State :=
  if c.st != .active then s
  else modTeam (dropChanReads (closeCpyg s c false) core k) core (fun t =>
    { t with chan := lmod t.chan k (fun c => { c with st := .cancelled, open_ := false, waitRemote := false }) })

/-! ### The halt of a team (R338, R344) -/

/-- Begins the end of a team whose last live thread has left (R382): the active channels are cancelled as
CCAN cancels them, a cancelled CPYG setting TORN (R236, R239). -/
def beginEnd (s : State) (core : Nat) : State :=
  match tget s.teams core with
  | none => s
  | some t =>
    if t.ending != .none_ then s else
    let s := t.chan.zipIdx.foldl (fun s c => cancelChan s core c.2 c.1) s
    modTeam s core (fun t => { t with ending := .channels })

/-- Stream operations of a team that have taken no serial give their places in OUT back (R276). -/
def giveBackOut (s : State) (core : Nat) : State :=
  match tget s.teams core with
  | none => s
  | some t =>
    ((t.ott.map (·.work)) ++ (t.det.map (·.work))).foldl (fun s w =>
      match w with
      | .atom _ _ st ls => modStream s (teamCtx s t) st (fun x => { x with out := x.out - (ls.filter (fun a => a.acc.xl.mt == 5)).length })
      | _ => s) s

/-- What becomes of a halting team's writes and stream operations at peers: those not sent are dropped, a stream operation
giving its serial back; of those sent the end of the team waits for the answer, and a write is not sent again (R276, R338). -/
def haltReqs (s : State) (core : Nat) : State :=
  match tget s.teams core with
  | none => s
  | some t =>
    let mine (r : Req) : Bool := match r.kind with
      | .stream => r.core == core
      | .write => (r.core == core && r.ott != 0) || t.wc.any (fun w => w.seq == some r.id) || t.sent.any (fun w => w.id == r.id)
      | _ => false
    let unsent (r : Req) : Bool := mine r && r.sends == 0 && !r.busy
    let s := (s.reqs.filter (fun r => unsent r && r.kind == .stream)).foldl retireSerial s
    let left := s.reqs.filter (fun r => !unsent r)
    modTeam { s with reqs := left } core (fun t => { t with
      wc := [], sent := (left.filter (fun r => mine r && r.kind == .write)).map (fun r => ⟨r.id, [], []⟩) })

/-- The team halts: every thread leaves the live set, its stores not yet performed are discarded, those on their way to a
window among them, and its copies into the operand buffer with their ranges; the record is kept for DONE, and its end begins
(R258, R338, R344). -/
def haltTeam (s : State) (core : Nat) (h : HaltRec) : State :=
  let s := haltReqs (giveBackOut s core) core
  let s := modTeam { s with winq := s.winq.filter (fun x => x.core != core) } core (fun t => { t with
    groups := tmap (fun _ g => { g with threads := g.threads.map (fun x => { x with live := false, held := none }),
                                        status := .halted, stall := none }) t.groups,
    bins := t.bins.map (fun _ => none),
    ott := [], det := [], resv := t.resv.filter (·.ready),
    halt := match t.halt with | some x => some x | none => some h })
  completeBarriers (beginEnd s core) core

/-! ### Restart at the region entry (R347, R234, R268) -/

/-- Restarts a group at its region entries: the open stretch, posted entries not yet sent, buffered
stores, channels and ungranted engine commands issued since the region entry are discarded; a close of a stream has been made
(R287), an EMIT that has issued stays (R376), and a thread that a barrier held arrives again (R347, log 86). -/
def regionRestart (s : State) (core grp : Nat) : State :=
  match groupAt s core grp with
  | none => s
  | some g =>
    let at_ := g.regionAt
    let mine (c : Channel) : Bool := c.grp == grp && c.after ≥ at_ && c.st != .idle
    let s := match tget s.teams core with
      | none => s
      | some t => t.chan.zipIdx.foldl (fun s c => if mine c.1 then cancelChan s core c.2 c.1 else s) s
    let s := modEngine s (quadNo core) (fun e => { e with
      table := e.table.filter (fun x => x.2.core != core || x.2.grp != grp || x.2.stamp < at_ || e.granted == some x.1
        || (match x.2.cmd with | .written _ => true | _ => false)) })
    let inTable (id : Nat) : Bool := (engineOf s (quadNo core)).table.any (fun x => x.2.core == core && x.2.ott == id)
    let s := modTeam s core (fun t => { t with
      ott := t.ott.filter (fun e => e.grp != grp || (match e.work with
        | .remote _ | .inval _ => !e.long
        | .buffered => e.id < at_
        | .engine _ => inTable e.id
        | .sclose _ | .emit _ _ _ => true
        | _ => false)),
      det := t.det.filter (fun e => e.grp != grp || e.id < at_),
      resv := t.resv.filter (fun x => x.grp != grp || x.stamp < at_),
      chan := t.chan.map (fun c => if mine c then { c with st := .idle } else c) })
    let s := serveWaiters s core
    modGroup s core grp (fun g => { g.openStretch with
      rb := [], status := .running, stall := none, parked := false, txr := [], txw := [], lc := g.lcr,
      threads := g.threads.map (fun x => if x.live then
        { x with pc := x.entry.pc, loops := x.entry.loops, txs := .none_, txw := 0, held := none } else x) })

/-! ### Taking an exception (R108, R341 to R345) -/

/-- The entries of a group with a result to return, and those before them that they wait for; other posted entries stay as
they are (R108, R338, R344). -/
def resultEntries (s : State) (ctx : Nat) (t : Team) (grp : Nat) : List OttEntry :=
  (t.ott.filter (fun e => e.grp == grp)).foldr (fun e l =>
    if e.long || l.any (fun x => waitsFor s ctx x e) then e :: l else l) []

/-- A pattern of SELFTEST that runs in its entry (R392). -/
def isSelftest (w : Work) : Bool := match w with | .selftest _ _ => true | _ => false

/-- An uncorrectable error of a scratchpad or of the L1 that an entry meets is logged; one of the L2 or of HBM was logged when it
was found (R364). -/
def logPoison (s : State) (core : Nat) (p : Option (Nat × TrapInfo)) : State :=
  match p with
  | some (_, tr) => if bitsAt tr.tinfo.toNat 4 4 == 2 then logLost s 2 core else s
  | none => s

/-- The outstanding local long results of a group enter its return buffer, lowest first; performing one may make the next
possible (R108, R344). One that meets an uncorrectable error is not performed: it, its lane and its trap (R362); unless the group
is `told` of it by its slot (R285, R346). -/
def completeLocal (s : State) (core grp : Nat) (told : Bool) : Nat → State × Option (OttEntry × Nat × TrapInfo)
  | 0 => (s, none)
  | n + 1 =>
    match tget s.teams core with
    | none => (s, none)
    | some t =>
      let ctx := teamCtx s t
      match (resultEntries s ctx t grp).find? (fun e => mayPerform s ctx t e && !launchWaits s ctx e.work && !isSelftest e.work) with
      | none => (s, none)
      | some e =>
        let s := beforeEntry s core ctx e
        let p := entryPoisoned s core ctx e
        let s := logPoison s core p
        match (if told then none else p) with
        | some (l, tr) => (s, some (e, l, tr))
        | none => completeLocal (performEntry s core ctx (realEntry t e)) core grp told n

/-- A trap makes every OPEN thread DOOMED with OUTCOME 5 (Table 17.1). -/
def Thread.doom (x : Thread) (outcome code : Nat) : Thread :=
  if x.txs == .opened then { x with txs := .doomed, txw := txStatus outcome code 0 0 } else x

/-- A fetch at an address that lies in a hole is logged at its target (R349). -/
def logFetch (s : State) (ctx : Nat) (pc : Word) : State :=
  match resolve s ctx pc.toNat with
  | .ok x =>
    let pa := physAddr s ctx x pc.toNat false
    if x.mt == 0 && x.x && !populated pa 2 then logViolation s pa else s
  | .error _ => s

/-- Whether a fetch at an address faults with a kind that no firmware resolves, a hole among them (R52, R344). -/
def fetchFaults (s : State) (ctx : Nat) (pc : Word) : Bool :=
  match resolve s ctx pc.toNat with
  | .ok x => !(x.mt == 0 && x.x && populated (physAddr s ctx x pc.toNat false) 2)
  | .error k => k != 0x2

/-- The delivery of a trap: TCAUSE, TPC, TADDR and TINFO are written; the record keeps RESUME, the stretch and the handler
lanes' next PC, loop stack and transaction words; the handler lanes go to TRAPH in a fresh stretch, in handler mode. With
no handler, in handler mode, or when the fetch at TRAPH faults, the team halts instead (R342, R344, R345). -/
def deliverTrap (s : State) (core grp : Nat) (t : TrapInfo) (tpc resume : Word) (park latched : Bool)
    (lanes : List Nat) : State :=
  match tget s.teams core, groupAt s core grp with
  | some tm, some g =>
    let r := recOf s tm
    let set (g : Group) : Group := { g with
      tcause := word (t.cause + (if park then 0x100 else 0) + (if latched then 0x200 else 0)),
      tpc := word (tpc.toNat % 2 ^ 56), taddr := t.taddr, tinfo := t.tinfo }
    let doomed := g.threads.map (fun x => x.doom 5 0)
    let rec_ : TrapRecord :=
      { resume := resume, park := park, stretch := g.rb, start := g.start, startS := g.startS,
        threads := lanes.map (fun l => let x := doomed.getD l Thread.empty; ⟨l, x.pc, x.loops, x.txs, x.txw⟩),
        others := ((List.range g.threads.length).filter (fun l => !lanes.contains l)).map
          (fun l => let x := doomed.getD l Thread.empty; (l, x.txs, x.txw)) }
    if recTraph r = 0 || g.hm.isSome || fetchFaults s (teamCtx s tm) (recTraph r) then
      let s := if recTraph r = 0 || g.hm.isSome then s else logFetch s (teamCtx s tm) (recTraph r)
      haltTeam (modGroup s core grp set) core ⟨t, tpc, grp⟩
    else
      modGroup s core grp (fun g =>
        { (set g).openStretch with
          threads := (doomed.zipIdx).map (fun x =>
            if lanes.contains x.2 then { x.1 with loops := [], pc := recTraph r, txs := .none_ }
            else { x.1 with txs := .none_ }),
          hm := some rec_, rb := [], status := .running, stall := none, parked := false })
  | _, _ => s

/-- The lanes at which an uncorrectable error of an entry is delivered: the live threads that were active at its instruction
(R344). -/
def entryAct (s : State) (core : Nat) (e : OttEntry) : List Nat :=
  ((groupAt s core e.grp).map (fun g => e.act.filter (fun l => (g.lane l).live))).getD []

/-- An instruction is to be delivered as a trap, or issued again: its entry, its slots, and the range of an MRSV go (R258,
R347). -/
def dropEntry (s : State) (core : Nat) (e : OttEntry) : State :=
  modTeam s core (fun t =>
    { t.modGroup e.grp (fun g => { g with rb := g.rb.filter (fun x => x.id != e.id) }) with
      ott := t.ott.filter (fun y => y.id != e.id),
      resv := (match e.work with | .mrsv i => t.resv.filter (fun v => v.id != i) | _ => t.resv) })

/-- A local long result of a group is outstanding that another unit brings: a copy channel, the matrix engine, the launch unit, or a self-test
(R108, R344). A remote result and that of a JSEED are saved as pending (R284, R376). -/
def resultsOut (s : State) (core grp : Nat) : Bool :=
  match tget s.teams core with
  | none => false
  | some t => t.ott.any (fun e => e.grp == grp && e.long && (match e.work with
    | .cwait _ _ _ | .mrsv _ | .engine _ | .launch _ _ | .selftest _ _ => true
    | _ => false))

/-- A trap is delivered once the results that other units bring are in (R344). -/
def awaitTrap (s : State) (core grp : Nat) (t : TrapInfo) (tpc resume : Word) (park latched : Bool) (lanes : List Nat) : State :=
  if resultsOut s core grp then
    modGroup s core grp (fun g => { g with status := .trapping t tpc resume park latched lanes, stall := none })
  else deliverTrap s core grp t tpc resume park latched lanes

/-- The instruction at a PC has met an uncorrectable error and the group restarts at its region entries (R347). -/
def poisonRestart (s : State) (core grp : Nat) (pc : Word) : State :=
  modGroup (regionRestart s core grp) core grp (fun g => { g with poisonPc := pc :: g.poisonPc })

/-- The group is told of an uncorrectable error in its return buffer: it does not restart for one (R285, R346). -/
def toldOf (s : State) (core grp : Nat) : Bool := ((groupAt s core grp).map (fun g => g.hm.isSome || g.rmtOp)).getD true

/-- Taking an exception: outstanding local long results enter the return buffer, and the trap is delivered. When one of
them meets an uncorrectable error, the group restarts at its region entry instead; or, when the instruction meets it again, that
error is delivered, the others' results entering as they are (R108, R344, R347). -/
def takeTrap (s : State) (core grp : Nat) (t : TrapInfo) (tpc resume : Word) (park latched : Bool)
    (lanes : List Nat) : State :=
  match completeLocal s core grp (toldOf s core grp) 4160 with
  | (s, none) => awaitTrap s core grp t tpc resume park latched lanes
  | (s, some (e, _, tr)) =>
    if ((groupAt s core grp).map (fun g => g.poisonPc.contains e.pc)).getD false then
      awaitTrap (completeLocal (dropEntry s core e) core grp true 4160).1 core grp tr e.pc e.pc false false (entryAct s core e)
    else poisonRestart s core grp e.pc

/-- A group with its handler's record restored, before the park that a park trap completes (R355). -/
def Group.unwound (g : Group) (r : TrapRecord) : Group :=
  let back (x : Thread × Nat) : Thread :=
    match r.threads.find? (fun y => y.lane == x.2) with
    | some y => { x.1 with pc := r.resume, loops := y.loops, txs := y.txs, txw := y.txw }
    | none => match r.others.find? (fun y => y.1 == x.2) with
      | some y => { x.1 with txs := y.2.1, txw := y.2.2 }
      | none => x.1
  { g with threads := g.threads.zipIdx.map back, rb := r.stretch, start := r.start, startS := r.startS, hm := none }

/-- The return from a handler (R355): the record's stretch, loop stacks, TXS and TXW are restored, a park trap's
park is completed, every thread of H continues at RESUME, and the held threads are released. -/
def returnFromTrap (s : State) (core grp : Nat) : State :=
  modGroup s core grp (fun g =>
    match g.hm with
    | none => g
    | some r => if r.park then (g.unwound r).commit else g.unwound r)

/-- A group consumes an uncorrectable error at the instruction of an entry (R347, R362, R346, R285): in
handler mode it waits for the firmware and keeps what it waited for, with a remote atomic since the region entry it is told,
the second time at one instruction it traps, and otherwise it restarts. -/
def consumePoison (s : State) (core ctx : Nat) (e : OttEntry) (t : TrapInfo) : State :=
  match groupAt s core e.grp with
  | none => s
  | some g =>
    if g.hm.isSome then modGroup s core e.grp (fun g => { g with status := .pageFault t true (some e.id) none g.status })
    else if g.rmtOp then performEntry s core ctx e
    else if g.poisonPc.contains e.pc then takeTrap (dropEntry s core e) core e.grp t e.pc e.pc false false (entryAct s core e)
    else poisonRestart s core e.grp e.pc

/-- A group waits for the firmware at an error that it has consumed (R346). -/
def waitsForFirmware (t : Team) (grp : Nat) : Bool :=
  match tget t.groups grp with
  | some g => (match g.status with | .pageFault _ _ _ _ _ => true | _ => false)
  | none => false

/-! ### Advancing (R111, R119, R137) -/

/-- An entry of the loop stack contains an address (R119). -/
def LoopEntry.contains (e : LoopEntry) (a : Word) : Bool :=
  decide (e.start.toNat ≤ a.toNat) && decide (a.toNat ≤ e.stop.toNat)

/-- The loop stack after a taken transfer to an address (Table 7.8); the top entry is first. -/
def popLoops : List LoopEntry → Word → List LoopEntry
  | [], _ => []
  | e :: r, a => if e.contains a then e :: r else popLoops r a

/-- The loop stack and next PC after the instruction at `pc` completes without a taken transfer (Table 7.8). -/
def endCheck : List LoopEntry → Word → Word → List LoopEntry × Word
  | [], _, next => ([], next)
  | e :: r, pc, next =>
    if e.stop.toNat = pc.toNat then
      if e.count.toNat > 1 then ({ e with count := e.count - 1 } :: r, word e.start.toNat)
      else endCheck r pc next
    else (e :: r, next)

/-- The next PC of a lane that the instruction does not transfer. -/
def Thread.advance (t : Thread) (pc next : Word) : Thread :=
  let x := endCheck t.loops pc next
  { t with loops := x.1, pc := x.2 }

/-- What issuing an instruction comes to, when it does not stop. -/
structure Eff where
  st   : State
  xfer : List (Nat × Word) := []     -- lanes with a next PC of their own
  post : State → State := fun s => s -- what follows once the lanes have advanced

/-- Why an instruction does not take effect when it is offered for issue. -/
inductive Stop where
  | trap (t : TrapInfo)                     -- an issue trap
  | software (t : TrapInfo)                 -- TRAP: it retires, and TPC is past it (R132)
  | latched (t : TrapInfo)                  -- a latched error is raised (R343)
  | stall (st : Stall)                      -- it waits at issue
  | misses (pages : List Nat)               -- translations are missing (R64)
  | pageFault (va : Nat)                    -- NOTVALID (R62)
  | waiting (b : Block) (s : State)         -- a blocking instruction waits after its park
  | failed (s : State) (t : TrapInfo)       -- a failure that it is told of, in a state where it is no longer kept (R267)

/-- The issuing instruction and what it is issued in. -/
structure Ic where
  s    : State
  core : Nat
  grp  : Nat
  t    : Team
  g    : Group
  r    : LaunchRecord
  ctx  : Nat
  svc  : Bool
  w    : LongWord
  sh   : Shape
  pc   : Word
  len  : Nat
  act  : List Nat
  en   : List Nat
  uni  : Bool

/-- The lanes that a register-naming instruction acts in: one for the group on the uniform port (R81). -/
def Ic.lanes (c : Ic) : List Nat := if c.uni then [0] else c.en

/-- The threads in whose program order the instruction's accesses stand, by lane: a uniform access stands in that of every
enabled lane (R225, R290). -/
def Ic.tids (c : Ic) : List (Nat × Nat) := c.en.map (fun l => (l, (c.g.lane l).tid))

/-- A register as a lane reads it. -/
def Ic.rd (c : Ic) (l : Nat) (f : BitVec 8) : Word := readReg c.g l f

/-- The address after the instruction. -/
def Ic.next (c : Ic) : Word := c.pc + word c.len

/-- A trap of EILL with a reason (Table 5.11), naming the dictionary code when there is one (R90). -/
def eill (reason : Nat) (d16 : Option D16Word) : TrapInfo :=
  ⟨0x01, 0, match d16 with
    | some d => word (reason + 2 ^ 8 * d.idx.toNat + 2 ^ 18)
    | none => word reason⟩

/-- EILL of an entry's own value checks: no dictionary code is named (Table 21.1). -/
def ill (reason : Nat) : Stop := .trap (eill reason none)

/-- A group after its instruction at `pc` retires: every active lane advances, or goes where the instruction sends
it; LC counts the instruction; an executed S of 1 is a park point (R72, R104, R119, R137). -/
def retireGroup (pc next : Word) (act : List Nat) (xfer : List (Nat × Word)) (park : Bool) (g : Group) : Group :=
  let g := act.foldl (fun g l => g.modLane l (fun t =>
    match xfer.find? (fun x => x.1 == l) with
    | some x => { t with pc := x.2 }
    | none => t.advance pc next)) g
  { g with
    lc := g.lc + 1, parked := false, stall := none, granted := false, walked := [], yielded := none,
    status := if park then .parking false pc next act else g.status }

/-- The issuing group retires its instruction. -/
def retire (s : State) (core grp : Nat) (pc next : Word) (act : List Nat) (xfer : List (Nat × Word)) (park : Bool) : State :=
  modGroup s core grp (retireGroup pc next act xfer park)

/-- How an instruction is issued: its class (Table 7.3), what a transaction makes of it (R308), the
destinations of a long one. -/
structure Issue where
  blocking : Bool := false
  entry    : Bool := false            -- takes an entry of the table (R109)
  tx       : Option Nat := none       -- the ETXN reason when an enabled lane is in transaction
  dests    : List Dest := []          -- destinations that count under R106
  flag     : LaunchRecord → Bool := fun _ => true   -- the launch's flags admit the opcode (check 13)
  pre      : Ic → Option TrapInfo := fun _ => none  -- EILL with reason 0x0E, and EPRIV (steps 3 and 4 of R343)
  late     : Ic → Option Stop := fun _ => none      -- ETXN of a transactional access (step 5 of R343)

/-- Whether the table has no entry for a group now (R110). -/
def ottFull (t : Team) (grp : Nat) : Bool :=
  match tget t.groups grp with
  | none => true
  | some g =>
    if g.granted then false
    else
      let kept := (t.groups.filter (fun e => e.2.granted)).length
      let own (g : Nat) : Nat := (t.ott.filter (fun e => e.grp == g)).length
      let waiting := t.groups.any (fun e => e.1 != grp && own e.1 < 64 && (match e.2.stall with | some (.ott, _) => true | _ => false))
      t.ott.length + kept ≥ 512 || own grp ≥ 64 || waiting

/-- The effective priority of a group: 4 once its core has made 1,024 issues since its last, as a part whose ports issue
without a pause does after 1,024 core cycles (R112, log 57). -/
def effPrio (t : Team) (g : Group) : Nat := if t.issued ≥ g.since + 1024 then 4 else g.prio

/-- A group may be offered for issue: its team is not stopped, has its tiles, and has not ended; the group waits
for nothing but its turn (R112, R131, R242, R350). -/
def mayIssue (t : Team) (g : Group) : Bool :=
  !t.stopping && t.eng.isNone && t.ending == .none_ && g.status == .running && g.yielded.isNone && (issuePc g).isSome

/-- Registers the misses of a group with its die (R64). -/
def registerMisses (s : State) (core grp ctx : Nat) (pages : List Nat) : State :=
  modDie s (dieNo core) (fun d => pages.foldl (fun d p =>
    if d.misses.any (fun m => m.ctx == ctx && m.page == p) then
      { d with misses := d.misses.map (fun m => if m.ctx == ctx && m.page == p then
          { m with waiters := m.waiters.filter (fun x => x != (core, grp)) ++ [(core, grp)] } else m) }
    else { d with misses := d.misses ++ [⟨ctx, p, [(core, grp)]⟩] }) d)

/-- A group begins to wait at issue, holding nothing: an entry kept for it goes to others. A wait for another cause is another wait
(R64, R110, R244). -/
def stallGroup (s : State) (core grp : Nat) (st : Stall) : State :=
  modGroup { s with stamp := s.stamp + 1 } core grp (fun g =>
    { g with granted := false, stall := match g.stall with
      | some (x, n) => some (st, if x == st then n else s.stamp)
      | none => some (st, s.stamp) })

/-- The state that a stop leaves. A trap taken at an instruction whose executed S is 1 makes no park: for TRAP, which TRAPRET
resumes after, the spec does not say whether its park is made then; the model drops it, and the stretch goes on (log 71). -/
def stopState (c : Ic) (st : Stop) : Host.Outcome State Fault Refusal :=
  match st with
  | .trap t => .next (takeTrap c.s c.core c.grp t c.pc c.pc false false c.act)
  | .software t =>
    .next (takeTrap (modGroup c.s c.core c.grp (fun g => { g with lc := g.lc + 1 })) c.core c.grp t c.next c.next false false c.act)
  | .latched t =>
    .next (takeTrap (modGroup c.s c.core c.grp (fun g => { g with lc := g.lc + 1 })) c.core c.grp t c.pc c.pc false true c.act)
  | .stall st => .next (stallGroup c.s c.core c.grp st)
  | .misses ps =>
    let d := dieOf c.s (dieNo c.core)
    let new := ps.filter (fun p => !d.misses.any (fun m => m.ctx == c.ctx && m.page == p))
    if d.misses.length + new.length > 256 && d.misses.length != 0 then .next (stallGroup c.s c.core c.grp .missFull)
    else .next (stallGroup (registerMisses c.s c.core c.grp c.ctx ps) c.core c.grp (.walk ps))
  | .pageFault va =>
    .next (modGroup c.s c.core c.grp (fun g =>
      { g with status := .pageFault ⟨0x04, word va, 0x2⟩ (g.hm.isSome || g.rmtOp) none none .running, walked := [], stall := none }))
  | .waiting b s => .next (modGroup s c.core c.grp (fun g => { g with status := .blocked b c.w c.len s.iss.d16, stall := none }))
  | .failed s t =>
    if t.cause != 0x10 then .next (takeTrap s c.core c.grp t c.pc c.pc false false c.act)
    else if c.g.hm.isSome then .next (modGroup s c.core c.grp (fun g => { g with status := .pageFault t true none none .running, stall := none }))
    else if c.g.rmtOp || c.g.poisonPc.contains c.pc then .next (takeTrap s c.core c.grp t c.pc c.pc false false c.act)
    else .next (poisonRestart s c.core c.grp c.pc)

/-- The issuing instruction of a group, before any check. -/
def issueIc (s : State) (w : LongWord) (sh : Shape) (t : Team) (g : Group) : Ic :=
  let act := activeLanes g s.iss.pc
  { s := s, core := s.iss.core, grp := s.iss.grp, t := t, g := g, r := recOf s t, ctx := teamCtx s t, svc := isService s t,
    w := w, sh := sh, pc := s.iss.pc, len := s.iss.len, act := act, en := enabledLanes g w act, uni := isUniform sh w }

/-- A blocking instruction at its park point: the stretch is committed and the group is parked (R107, R108). -/
def Ic.atPark (c : Ic) : Ic :=
  let s := modGroup c.s c.core c.grp (fun g => { g.commit with parked := true })
  match tget s.teams c.core with
  | some t => match tget t.groups c.grp with
    | some g => { c with s := s, t := t, g := g }
    | none => c
  | none => c

/-- The registers that the entry reads, by field and count; s62 and s63 for stochastic rounding (R175). -/
def sourceRegs (sh : Shape) (w : LongWord) : List (BitVec 8 × Nat) :=
  let one (u : Use) (f : BitVec 8) : List (BitVec 8 × Nat) := match u with | .src n => [(f, n)] | _ => []
  (if w.lit.isSome && sh.litA then [] else one sh.a w.a) ++ (if w.lit.isSome then [] else one sh.b w.b) ++ one sh.c w.c
  ++ (match sh.d with | .src n => [(w.d, n)] | .dst n => if sh.dIn then [(w.d, n)] else [] | _ => [])
  ++ (if sh.sr then [(254#8, 2)] else [])

/-- The registers of a field and those after it: whether they are v-registers, and their numbers. -/
def regSpan (x : BitVec 8 × Nat) : List (Bool × Nat) :=
  (List.range x.2).map (fun k => (isV x.1, (if isV x.1 then x.1.toNat else x.1.toNat - 192) + k))

/-- A lane's v-register is in a code word that holds an error: one lane of its half has lost it. -/
def wordLost (g : Group) (n l : Nat) : Bool := (laneList g).any (fun m => m / 32 == l / 32 && (g.lane m).bad.contains n)

/-- A write in listed lanes covers the whole code word of a half: every lane of a 32-lane half is among them; a group of 8 or 16
lanes shares its word with others, and writes a part of it (R114, R359). -/
def wholeHalf (g : Group) (lanes : List Nat) (h : Nat) : Bool :=
  decide (32 ≤ g.threads.length) && (List.range 32).all (fun i => lanes.contains (32 * h + i))

/-- The first register with an error that the instruction reads: a source, or, as R359 has it, the destination of a short result
that it writes in some lanes of a half only; that of a long one is read when it is committed (log 54). -/
def lostRegister (c : Ic) (short : Bool) : Option (Bool × Nat) :=
  if c.g.sbad.isEmpty && c.g.threads.all (fun t => t.bad.isEmpty) then none else
  let out (u : Use) (f : BitVec 8) : List (Bool × Nat) := match u with | .dst n => (regSpan (f, n)).filter (·.1) | _ => []
  let dests := if short then out c.sh.d c.w.d ++ out c.sh.c c.w.c else []
  match ((sourceRegs c.sh c.w).flatMap regSpan).find? (fun r =>
      if r.1 then c.en.any (fun l => (c.g.lane l).bad.contains r.2) else c.g.sbad.contains r.2) with
  | some r => some r
  | none => dests.find? (fun r => c.en.any (fun l => !wholeHalf c.g c.en (l / 32) && wordLost c.g r.2 l))

/-- EUNCORR of a register (Table 22.2). -/
def registerTrap (r : Bool × Nat) : TrapInfo := ⟨0x10, 0, word (16 * (if r.1 then 1 else 7) + 256 * r.2)⟩

/-- The checks of steps 3 to 5 of R343: EILL with reason 0x0E, EPRIV, and ETXN. -/
def issueTrap (c : Ic) (k : Issue) : Option TrapInfo :=
  match k.pre c with
  | some t => some t
  | none =>
    match k.tx with
    | some reason => if c.en.any (fun l => (c.g.lane l).txs != .none_) then some ⟨0x0D, 0, word reason⟩ else none
    | none => none

/-- An instruction of the group that the cursor names is offered for issue: the decode checks, EILL with reason 0x0E and
EPRIV, ETXN, for a blocking instruction its park and those checks again, then ESTRETCH, the table entry, and the errors of the
registers that it reads (R362). An instruction
with no enabled lane retires without an effect (R80, R104, R106, R108 to R110, R343). Whether a blocking instruction's guard and
operands are those of its issue or those after its park the spec does not say: the model evaluates them again after the commit
(DESIGN CHOICE, log 94). -/
def offer (s : State) (w : LongWord) (sh : Shape) (k : Issue) : Except (Host.Outcome State Fault Refusal) Ic :=
  match tget s.teams s.iss.core with
  | none => .error (.fault .noIssuingGroup)
  | some t =>
  match tget t.groups s.iss.grp with
  | none => .error (.fault .noIssuingGroup)
  | some g =>
  let c := issueIc s w sh t g
  if c.act.isEmpty then .error (.fault .noIssuingGroup) else
  match decodeFail { sh with ok13 := k.flag c.r } w (recVregs c.r) with
  | some reason => .error (stopState c (.trap (eill reason s.iss.d16)))
  | none =>
  match (if k.blocking && !g.parked && !g.rb.isEmpty && !c.en.isEmpty then issueTrap c k else none) with
  | some t => .error (stopState c (.trap t))
  | none =>
  if k.blocking && !g.parked && !g.rb.isEmpty then
    .error (.next (modGroup s c.core c.grp (fun g => { g with status := .parking true c.pc c.next c.act })))
  else
  let c := if k.blocking && !g.parked then c.atPark else c
  if c.en.isEmpty then .error (.next (retire c.s c.core c.grp c.pc c.next c.act [] (w.s && !k.blocking)))
  else
  match issueTrap c k with
  | some t => .error (stopState c (.trap t))
  | none =>
  match k.late c with
  | some st => .error (stopState c st)
  | none =>
  match (if k.dests.isEmpty then none else stretchFull c.g k.dests) with
  | some n => .error (stopState c (.trap ⟨0x12, 0, word n⟩))
  | none =>
  if k.entry && ottFull c.t c.grp then .error (stopState c (.stall .ott)) else
  match lostRegister c k.dests.isEmpty with
  | some r => .error (stopState c (.failed (logLost c.s (if r.1 then 1 else 7) c.core) (registerTrap r)))
  | none => .ok c

/-- The issue of an instruction: it is offered, then its own checks and effect follow, and its retirement. -/
def issue (s : State) (w : LongWord) (sh : Shape) (k : Issue) (body : Ic → Except Stop Eff) :
    Host.Outcome State Fault Refusal :=
  match offer s w sh k with
  | .error o => o
  | .ok c =>
    match body c with
    | .ok e => .next (e.post (retire e.st c.core c.grp c.pc c.next c.act e.xfer (w.s && !k.blocking)))
    | .error st => stopState c st

/-! ### Effects that many entries share -/

/-- A short result written to D in every lane that the instruction acts in (R105). -/
def shortResult (c : Ic) (f : Nat → Word) : Eff :=
  { st := modGroup c.s c.core c.grp (fun g => c.lanes.foldl (fun g l => g.writeReg l c.w.d (f l)) g) }

/-- A predicate result written to p[D] in every enabled lane (R140). -/
def predResult (c : Ic) (f : Nat → Bool) : Eff :=
  { st := modGroup c.s c.core c.grp (fun g => c.en.foldl (fun g l => g.writeP l c.w.d.toNat (f l)) g) }

/-- A long instruction enters the table and appends a slot for each destination (R105, R109). -/
def enterLong (c : Ic) (dests : List Dest) (o : Ord) (work : Work) (got : List (Nat × Word)) : Eff :=
  let id := c.s.stamp
  let e : OttEntry := ⟨id, c.grp, c.pc, true, c.en, c.act, c.uni, c.tids, o, work, got, [], none⟩
  { st := modTeam { c.s with stamp := id + 1 } c.core (fun t =>
      { t.modGroup c.grp (fun g => dests.foldl (fun g d => g.addSlot d c.en c.act id c.pc) g) with ott := t.ott ++ [e] }) }

/-- A posted instruction enters the table (R109). -/
def enterPosted (c : Ic) (o : Ord) (work : Work) : Eff :=
  let id := c.s.stamp
  let e : OttEntry := ⟨id, c.grp, c.pc, false, c.en, c.act, c.uni, c.tids, o, work, [], [], none⟩
  { st := modTeam { c.s with stamp := id + 1 } c.core (fun t => { t with ott := t.ott ++ [e] }) }

/-- The results of a register-only long instruction, by lane of destination 0. -/
def laneResults (c : Ic) (f : Nat → Word) : List (Nat × Word) := c.lanes.map (fun l => (l, f l))

/-- A long instruction whose results are known when it issues and enter the return buffer when they
return (R102). -/
def longResult (c : Ic) (f : Nat → Word) : Eff :=
  enterLong c [destOf c.w.d] Ord.relaxed .values (laneResults c f)

/-- An Except from a check. -/
def need (b : Bool) (st : Stop) : Except Stop Unit := if b then .ok () else .error st

end Sys2Proof.Machine
end

