-- ==== Sys2Proof/Machine/Fetch.lean ====
section
/-! DEFINITION. The fetch of a group's next instruction (R70, R71, R343), and the ends of the waits at issue. -/

namespace Sys2Proof.Machine

/-- What fetching comes to: the instruction and its length, or a stop. -/
inductive Fetched where
  | run (i : Instr) (len : Nat)
  | stop (st : Stop)

/-- The physical address of the parcel at an address, or why it cannot be fetched: in a hole, which its target logs, or
poisoned (R58, R66, R71, R362). -/
def fetchParcel (s : State) (core ctx : Nat) (service : Bool) (walked : List (Nat × Nat)) (va : Nat) : Except Stop Nat :=
  match checkLane s core ctx service walked .fetch va 2 false with
  | .ok x =>
    let pa := physAddr s ctx x va false
    if !populated pa 2 then .error (.failed (logViolation s pa) (holeTrap va))
    else if lostAt s pa 2 then .error (.failed (meetUpsets s pa 2) ⟨0x10, word va, word (16 * poisonStruct (meetUpsets s pa 2) pa 2)⟩)
    else .ok pa
  | .trap t => .error (.trap t)
  | .notValid => .error (.pageFault va)
  | .miss p => .error (.misses [p])

/-- The bytes of `n` parcels from an address: those that memory holds when the fetch is made. The spec leaves to timing
whether a fetch still finds older bytes after a write to the code; the model keeps no copy of code, its own choice
(R15, log 60). -/
def fetchBytes (s : State) (core ctx : Nat) (service : Bool) (walked : List (Nat × Nat)) (va : Nat) : Nat → Except Stop (List Byte)
  | 0 => .ok []
  | n + 1 =>
    match fetchParcel s core ctx service walked va with
    | .error st => .error st
    | .ok pa =>
      match fetchBytes s core ctx service walked (va + 2) n with
      | .error st => .error st
      | .ok bs => .ok (memRead s.mem pa 2 ++ bs)

/-- The instruction at an address: its first parcel gives its length, and every parcel is fetched before any
check of it (R70, R71). -/
def fetchAt (s : State) (core ctx : Nat) (service : Bool) (walked : List (Nat × Nat)) (pc : Nat) : Fetched :=
  match fetchBytes s core ctx service walked pc 1 with
  | .error st => .stop st
  | .ok first =>
    let n := lengthOf (leNat first)
    match fetchBytes s core ctx service walked pc (n / 2) with
    | .error st => .stop st
    | .ok bs =>
      match decode bs with
      | .ok (i, _) => .run i n
      | .error _ => .stop (.pageFault pc)

/-- What the fetch of `n` bytes leaves: the correctable errors that it meets are corrected (R358), and the L2 takes the lines under
their page's policy and partition (R213, R215). -/
def fetchMeets (s : State) (core ctx : Nat) (service : Bool) (walked : List (Nat × Nat)) (pc n : Nat) : State :=
  (List.range (n / 2)).foldl (fun s i =>
    let va := pc + 2 * i
    match fetchParcel s core ctx service walked va, checkLane s core ctx service walked .fetch va 2 false with
    | .ok pa, .ok x => l2Touch (meetUpsets s pa 2) pa x.cp x.wp false
    | _, _ => s) s

/-- The cursor of a group's instruction. -/
def setCursor (s : State) (core grp : Nat) (pc : Word) (len : Nat) : State := { s with iss := ⟨core, grp, pc, len, none, 0⟩ }

/-- A word that has no effect, for the subject of a fetch that fails. -/
def nopWord : LongWord := ⟨false, 0, 0, false, 0, 0, 0, 0, 0, none⟩

/-- The subject of a group's fetch: nothing of the instruction is known but its address. -/
def fetchIc (s : State) (core grp : Nat) (t : Team) (g : Group) (pc : Word) : Ic :=
  { s := setCursor s core grp pc 0, core := core, grp := grp, t := t, g := g, r := recOf s t, ctx := teamCtx s t,
    svc := isService s t, w := nopWord, sh := {}, pc := pc, len := 0, act := activeLanes g pc, en := activeLanes g pc, uni := false }

/-- A group offers its next instruction: the instruction and the state with the cursor set, or the outcome of
a fetch that fails. -/
def fetchGroup (s : State) (core grp : Nat) : Option (Except (Host.Outcome State Fault Refusal) (Instr × State)) :=
  match tget s.teams core with
  | none => none
  | some t =>
    match tget t.groups grp with
    | none => none
    | some g =>
      match issuePc g with
      | none => none
      | some pc =>
        match fetchAt s core (teamCtx s t) (isService s t) g.walked pc.toNat with
        | .run i n => some (.ok (i, setCursor (fetchMeets s core (teamCtx s t) (isService s t) g.walked pc.toNat n) core grp pc n))
        | .stop st => some (.error (stopState (fetchIc s core grp t g pc) st))

end Sys2Proof.Machine
end

