-- ==== Sys2Proof/Machine/Control.lean ====
section
/-! DEFINITION. The control class, OP9 0x000 to 0x00F, and the words that raise EILL (chapters 05 and 08). -/

namespace Sys2Proof.Machine

/-- Layout Z (Table 5.9). -/
def layoutZ (w : LongWord) : Bool := w.m6 == 0#6

/-- The shape of a W form with no operand. -/
def shapeW (w : LongWord) : Shape := { form := w.lit.isNone, sub := w.sub6 == 0#6, m6 := layoutZ w }

/-- The shape of an X form with no operand. -/
def shapeX (w : LongWord) : Shape := { form := w.lit.isSome, sub := w.sub6 == 0#6, m6 := layoutZ w }

/-- NOP (R122). -/
def execNop (w : LongWord) (s : State) : Host.Outcome State Fault Refusal :=
  issue s w (shapeW w) {} (fun c => .ok { st := c.s })

/-! ### Transfers (R121, R123, R124) -/

/-- A taken BRA, BRX or LBRK of a lane: the loop-stack rule of R119. -/
def takeBranch (s : State) (core grp : Nat) (ts : List (Nat × Word)) : State :=
  modGroup s core grp (fun g => ts.foldl (fun g x => g.modLane x.1 (fun t => { t with loops := popLoops t.loops x.2 })) g)

/-- The link register takes the address after the instruction (R123). -/
def writeLink (c : Ic) (s : State) : State :=
  modGroup s c.core c.grp (fun g => (if isV c.w.d then c.en else [0]).foldl (fun g l => g.writeReg l c.w.d c.next) g)

/-- Relative transfers: BRA, CALL and their B forms. -/
def jumpRel (w : LongWord) (sh : Shape) (link : Bool) (s : State) : Host.Outcome State Fault Refusal :=
  issue s w sh {} (fun c =>
    let t := relTarget c.pc (litInt w)
    let ts := c.en.map (fun l => (l, t))
    let s := if link then writeLink c c.s else takeBranch c.s c.core c.grp ts
    .ok { st := s, xfer := ts })

/-- Register transfers: BRX, CALLX and RET. The target is read before the link is written. -/
def jumpReg (w : LongWord) (sh : Shape) (link loops : Bool) (s : State) : Host.Outcome State Fault Refusal :=
  issue s w sh {} (fun c =>
    let ts := c.en.map (fun l => (l, c.rd l w.a))
    match ts.find? (fun x => x.2.getLsbD 0) with
    | some x => .error (.trap ⟨0x03, x.2, 0⟩)
    | none =>
      let s := if link then writeLink c c.s else c.s
      let s := if loops then takeBranch s c.core c.grp ts else s
      .ok { st := s, xfer := ts })

/-- The shape of CALL: an X form whose D is the link. -/
def shapeCall (w : LongWord) : Shape := { shapeX w with d := .dst 1 }

/-- BRA (R123). -/
def execBra (w : LongWord) (s : State) : Host.Outcome State Fault Refusal := jumpRel w (shapeX w) false s

/-- The B form of BRA (R76). -/
def execBraB (w : BWord) (s : State) : Host.Outcome State Fault Refusal := jumpRel (bLong w) (shapeX (bLong w)) false s

/-- BRX (R123). -/
def execBrx (w : LongWord) (s : State) : Host.Outcome State Fault Refusal :=
  jumpReg w { shapeW w with a := .src 1 } false true s

/-- CALL (R123). -/
def execCall (w : LongWord) (s : State) : Host.Outcome State Fault Refusal := jumpRel w (shapeCall w) true s

/-- The B form of CALL, which links in v0 (R76). -/
def execCallB (w : BWord) (s : State) : Host.Outcome State Fault Refusal := jumpRel (bLong w) (shapeCall (bLong w)) true s

/-- CALLX (R123). -/
def execCallx (w : LongWord) (s : State) : Host.Outcome State Fault Refusal :=
  jumpReg w { shapeW w with d := .dst 1, a := .src 1 } true false s

/-- RET (R123). -/
def execRet (w : LongWord) (s : State) : Host.Outcome State Fault Refusal :=
  jumpReg w { shapeW w with a := .src 1 } false false s

/-! ### LOOP, LBRK (R125 to R127) -/

/-- LOOP with a count by lane (R125, R126). Where a LOOP with c = 0 stands at the END of an enclosing entry Table 7.8 has two rows for it:
the model takes the first, and makes no END check for that lane (DESIGN CHOICE, log 95). -/
def loopWith (w : LongWord) (sh : Shape) (count : Ic → Nat → Nat) (s : State) : Host.Outcome State Fault Refusal :=
  issue s w sh {} (fun c =>
    let start := c.pc + 12
    let stop := c.pc + word (2 * (litNat w % 2 ^ 16))
    let zero := c.en.filter (fun l => count c l == 0)
    let push := c.en.filter (fun l => count c l != 0)
    match push.find? (fun l => (c.g.lane l).loops.length ≥ 4) with
    | some l => .error (.trap ⟨0x0A, 0, word l⟩)
    | none =>
      let go (past : Word) : Eff :=
        { st := modGroup c.s c.core c.grp (fun g => push.foldl (fun g l => g.modLane l (fun t =>
            { t with loops := ⟨BitVec.ofNat 56 start.toNat, BitVec.ofNat 56 stop.toNat, BitVec.ofNat 32 (count c l)⟩ :: t.loops })) g),
          xfer := push.map (fun l => (l, start)) ++ zero.map (fun l => (l, past)) }
      if zero.isEmpty then .ok (go 0)
      else match fetchParcel c.s c.core c.ctx c.svc c.g.walked stop.toNat with
        | .error st => .error st
        | .ok pa => .ok (go (stop + word (lengthOf (memNat c.s.mem pa 2)))))

/-- The shape of LOOP: EOFF below 6 raises EILL with reason 0x0C (R126). -/
def shapeLoop (w : LongWord) : Shape :=
  { form := w.lit.isSome, sub := w.sub6 == 0#6, m6 := layoutZ w, a := .src 1,
    ok12 := litNat w % 2 ^ 16 ≥ 6 && litNat w / 2 ^ 16 == 0 }

/-- LOOP, count from A[31:0] (R125). -/
def execLoop (w : LongWord) (s : State) : Host.Outcome State Fault Refusal :=
  loopWith w (shapeLoop w) (fun c l => (c.rd l w.a).toNat % 2 ^ 32) s

/-- LOOP with a literal count (R125). -/
def execLoopImm (w : LongWord) (s : State) : Host.Outcome State Fault Refusal :=
  loopWith w { form := w.lit.isSome, m6 := layoutZ w, ok12 := litNat w % 2 ^ 16 ≥ 6 } (fun _ _ => litNat w / 2 ^ 16) s

/-- LBRK (R127). -/
def execLbrk (w : LongWord) (s : State) : Host.Outcome State Fault Refusal :=
  issue s w (shapeX w) {} (fun c =>
    let ts := c.en.filterMap (fun l => match (c.g.lane l).loops with
      | e :: _ => some (l, relTarget (word e.stop.toNat) (litInt w))
      | [] => none)
    .ok { st := takeBranch c.s c.core c.grp ts, xfer := ts })

/-! ### YIELD, TRAP, CLOCK, ELECT, SETPRIO -/

/-- The groups that a YIELD lets go first: the other ready ones of the core at the same or a higher effective priority
(R131). -/
def yieldsTo (c : Ic) : List Nat :=
  (c.t.groups.filter (fun e => e.1 != c.grp && mayIssue c.t e.2 && e.2.stall.isNone
    && decide (effPrio c.t c.g ≤ effPrio c.t e.2))).map (·.1)

/-- YIELD: the group is not ready until those groups have each issued once or 64 core cycles have passed; with no such
group it stays ready (R131). -/
def execYield (w : LongWord) (s : State) : Host.Outcome State Fault Refusal :=
  issue s w (shapeW w) {} (fun c =>
    let l := yieldsTo c
    .ok { st := c.s, post := fun s => modGroup s c.core c.grp (fun g => { g with yielded := if l.isEmpty then none else some l }) })

/-- TRAP (R132). -/
def execTrap (w : LongWord) (s : State) : Host.Outcome State Fault Refusal :=
  issue s w { shapeW w with form := true } {} (fun _ => .error (.software ⟨0x11, 0, word (litNat w)⟩))

/-- CLOCK: every enabled lane receives LC, which does not include the CLOCK (R137). -/
def execClock (w : LongWord) (s : State) : Host.Outcome State Fault Refusal :=
  issue s w { shapeW w with d := .dst 1 } {} (fun c => .ok (shortResult c (fun _ => c.g.lc)))

/-- ELECT: the enabled lane of lowest LANEPOS (R138). -/
def execElect (w : LongWord) (s : State) : Host.Outcome State Fault Refusal :=
  issue s w { shapeW w with d := .pdst } {} (fun c => .ok (predResult c (fun l => minNat c.en == some l)))

/-- SETPRIO (R139). -/
def execSetprio (w : LongWord) (s : State) : Host.Outcome State Fault Refusal :=
  issue s w { form := w.lit.isNone, sub := subNo w < 4, m6 := layoutZ w } {}
    (fun c => .ok { st := modGroup c.s c.core c.grp (fun g => { g with prio := subNo w }) })

/-! ### LAUNCH (R133 to R135) -/

/-- What the lanes' checks come to: a trap, a page fault, misses, or every lane's access (R62, R223). -/
def joined (r : List (Nat × Nat × LaneTr)) : Except Stop (List Acc) :=
  match joinLanes r with
  | .ok l => .ok l
  | .trap t => .error (.trap t)
  | .pageFault va => .error (.pageFault va)
  | .misses ps => .error (.misses ps)

/-- The checks of lanes that name memory (R62, R223). -/
def checkLanes (c : Ic) (k : AKind) (align : Nat) (wide : Bool) (vas : List (Nat × Nat)) : Except Stop (List Acc) :=
  joined (vas.map (fun x => (x.1, x.2, checkLane c.s c.core c.ctx c.svc c.g.walked k x.2 align wide)))

/-- LAUNCH: a release at .sys, then one submission for each enabled lane (R133). -/
def execLaunch (w : LongWord) (s : State) : Host.Outcome State Fault Refusal :=
  issue s w { shapeW w with d := .dst 1, a := .src 1 } { entry := true, tx := some 2, dests := [destOf w.d] } (fun c => do
    let ls ← checkLanes c .launch 128 false (c.lanes.map (fun l => (l, (c.rd l w.a).toNat)))
    let ls := if !isV w.d then ls else
      if isV w.a then ls else c.en.filterMap (fun l => (ls.head?).map (fun a => { a with lane := l }))
    .ok (enterLong c [destOf w.d] ⟨false, true, false, .sys, none⟩ (.launch (ls.map (fun a => (a.lane, a))) none) []))

/-! ### REFORM (R115, R116, R128) -/

/-- Files listed lanes of a group of a core (R115). -/
def fileLanes (s : State) (core grp : Nat) (lanes : List Nat) : State :=
  modTeam { s with stamp := s.stamp + 1 } core (Team.fileLanes s.stamp grp lanes)

/-- In a REFORM launch a group whose live threads are all held files them (R115). -/
def fileHeld (s : State) (core grp : Nat) : State :=
  match tget s.teams core, groupAt s core grp with
  | some t, some g => if recReform (recOf s t) && !(heldLanes g).isEmpty then fileLanes s core grp (heldLanes g) else s
  | _, _ => s

/-- REFORM: files every live thread of the group under its next PC (R128). Where it stands at a loop's END, R119's check would send a
lane that is not enabled to START and R128 keys it by the address after the REFORM: the model makes the check first, and files the
thread under what follows (DESIGN CHOICE, log 95). -/
def execReform (w : LongWord) (s : State) : Host.Outcome State Fault Refusal :=
  issue s w (shapeX w) { blocking := true, tx := some 2, flag := recReform } (fun c =>
    .ok { st := c.s,
          xfer := c.en.map (fun l => (l, relTarget c.pc (litInt w))),
          post := fun s => match groupAt s c.core c.grp with
            | some g => fileLanes s c.core c.grp (liveLanes g)
            | none => s })

/-! ### EXIT (R129, R130) -/

/-- The TIDs of the live threads of a group. -/
def liveTids (g : Group) : List Nat := (liveLanes g).map (fun l => (g.lane l).tid)

/-- Whether the group's entries are released and its combining entries drained and acknowledged: those of its context and
those that its threads have brought from another (R129, R218, R290). -/
def drained (t : Team) (grp : Nat) : Bool :=
  match tget t.groups grp with
  | none => true
  | some g =>
    let ts := liveTids g
    !(t.ott.any (fun e => e.grp == grp || sharesThread ts (e.tids.map (·.2)))) && !(t.wc.any (fun e => e.of grp ts))
    && !(t.sent.any (fun w => w.of grp ts))

/-- The trap of a latched error (R343, R363). -/
def latchedTrap (g : Group) : Option TrapInfo :=
  if nbit g.errstat.toNat 1 then some ⟨bitsAt g.errstat.toNat 8 8, g.errAddr, g.errInfo⟩ else none

/-- The enabled threads leave the live set; a group without a live thread frees its context; the team's
last thread begins its end, and barriers no longer count the threads that left (R129, R311, R382). -/
def endThreads (s : State) (core grp : Nat) (lanes : List Nat) : State :=
  let s := modGroup s core grp (fun g => lanes.foldl (fun g l => g.modLane l (fun t => { t with live := false, loops := [] })) g)
  let s := modTeam s core (fun t =>
    match tget t.groups grp with
    | some g => if (liveLanes g).isEmpty then { t with groups := tdel t.groups grp } else t
    | none => t)
  let s := completeBarriers (fileHeld s core grp) core
  match tget s.teams core with
  | some t => if teamLive t = 0 then beginEnd s core else s
  | none => s

/-- EXIT, when it is offered again or for the first time: it waits for the group's entries and combining
entries, raises a latched error, and ends the enabled threads (R129). -/
def exitBody (c : Ic) : Except Stop Eff :=
  if !drained c.t c.grp then .error (.waiting .exit c.s)
  else match latchedTrap c.g with
    | some t => .error (.latched t)
    | none => .ok { st := endThreads c.s c.core c.grp c.en }

/-- EXIT (R129). -/
def execExit (w : LongWord) (s : State) : Host.Outcome State Fault Refusal :=
  issue s w (shapeW w) { blocking := true, tx := some 2 } exitBody

/-! ### Words that raise EILL (R77, R87, R88) -/

/-- EILL with a reason for the word at the cursor. -/
def illegalWord (reason : Nat) (s : State) : Host.Outcome State Fault Refusal :=
  match groupAt s s.iss.core s.iss.grp with
  | none => .fault .noIssuingGroup
  | some g =>
    let act := activeLanes g s.iss.pc
    if act.isEmpty then .fault .noIssuingGroup
    else .next (takeTrap s s.iss.core s.iss.grp (eill reason s.iss.d16) s.iss.pc s.iss.pc false false act)

/-- The 16-bit ILLEGAL, which names entry 0 (R88, R90). -/
def execIllegalD16 (s : State) : Host.Outcome State Fault Refusal :=
  illegalWord 0x02 { s with iss := { s.iss with d16 := some ⟨false, 0, 0⟩ } }

/-- The 32-bit ILLEGAL (R88). -/
def execIllegalK (_ : BitVec 32) (s : State) : Host.Outcome State Fault Refusal := illegalWord 0x02 s

/-- The 64-bit ILLEGAL (R88). -/
def execIllegalW (_ : LongWord) (s : State) : Host.Outcome State Fault Refusal := illegalWord 0x02 s

/-- The 96-bit ILLEGAL (R88). -/
def execIllegalX (_ : LongWord) (s : State) : Host.Outcome State Fault Refusal := illegalWord 0x02 s

/-- An opcode that Tables 5.6 and 5.10 leave unassigned: reason 0x04 for OP7, 0x05 for OP9 (R77, R87). -/
def execUnassignedOpcode (w : RawWord) (s : State) : Host.Outcome State Fault Refusal :=
  match w with
  | .w16 _ => illegalWord 0x01 s
  | .w32 _ => illegalWord 0x04 s
  | .w64 _ => illegalWord 0x05 s
  | .w96 _ => illegalWord 0x05 s

end Sys2Proof.Machine
end

