-- ==== Sys2Proof/Machine/Predicate.lean ====
section
/-! DEFINITION. Predicate instructions, OP9 0x020 to 0x024 (chapter 08). -/

namespace Sys2Proof.Machine

/-- COMB of Table 8.1: a result combined with p[C]. -/
def combine (comb : Nat) (x pc : Bool) : Bool :=
  match comb with
  | 0 => x
  | 1 => x && pc
  | 2 => x || pc
  | _ => x != pc

/-- COND 0 to 5 of Table 8.1 on an ordering. -/
def condHolds (cond : Nat) (o : Ordering) : Bool :=
  match cond with
  | 0 => o == .eq
  | 1 => o != .eq
  | 2 => o == .lt
  | 3 => o != .gt
  | 4 => o == .gt
  | _ => o != .lt

/-- COND on floating-point values (R141, Table 8.1). -/
def fcondHolds (cond : Nat) (a b : Num) : Bool :=
  let nan := a.isNan || b.isNan
  if cond == 6 then !nan
  else if cond == 7 then nan
  else if nan then cond == 1
  else condHolds cond (numCmp a b)

/-- The shape of PSETI and PSETF: M6 is COND, COMB and a zero (R141). -/
def shapePset (w : LongWord) (form sub : Bool) (conds : Nat) : Shape :=
  { form := form, sub := sub, m6 := w.m6.toNat < 32 && w.m6.toNat % 8 < conds,
    d := .pdst, a := .src 1, b := .src 1, c := .psrc,
    ok10 := w.m6.toNat / 8 != 0 || w.c == 0#8, ok12 := litFits (subNo w) w }

/-- The second operand: the register, or the literal of the type (R82, Table 9.1). -/
def opB (c : Ic) (t l : Nat) : Word := if c.w.lit.isSome then litWord t c.w else c.rd l c.w.b

/-- PSETI (R141). -/
def execPseti (w : LongWord) (s : State) : Host.Outcome State Fault Refusal :=
  issue s w (shapePset w true (subNo w ≤ 7) 6) {} (fun c =>
    let t := subNo w
    .ok (predResult c (fun l =>
      combine (w.m6.toNat / 8) (condHolds (w.m6.toNat % 8) (compare (tyInt t (c.rd l w.a).toNat) (tyInt t (opB c t l).toNat)))
        (readP c.g l w.c.toNat))))

/-- PSETF (R141). -/
def execPsetf (w : LongWord) (s : State) : Host.Outcome State Fault Refusal :=
  let t := subNo w
  issue s w (shapePset w w.lit.isNone (8 ≤ t && t ≤ 0xA) 8) {} (fun c =>
    let f := (fmtOf t).getD fmtF32
    let val (x : Word) : Num := f.read (x.toNat % 2 ^ f.width)
    .ok (predResult c (fun l =>
      combine (w.m6.toNat / 8) (fcondHolds (w.m6.toNat % 8) (val (c.rd l w.a)) (val (c.rd l w.b))) (readP c.g l w.c.toNat))))

/-- PLOP (R142). -/
def execPlop (w : LongWord) (s : State) : Host.Outcome State Fault Refusal :=
  issue s w { form := w.lit.isNone, m6 := layoutZ w, d := .pdst, a := .psrc, b := .psrc, c := .psrc,
              ok10 := subNo w / 16 != 0 || w.c == 0#8 } {} (fun c =>
    .ok (predResult c (fun l =>
      let i := (if readP c.g l w.a.toNat then 2 else 0) + (if readP c.g l w.b.toNat then 1 else 0)
      combine (subNo w / 16) (nbit (subNo w) i) (readP c.g l w.c.toNat))))

/-- Sixty-four predicates of a lane from p[b] on, as a word (R143). -/
def predWord (g : Group) (l b : Nat) : Word :=
  word (ofElems 1 ((List.range 64).map (fun i => if readP g l (b + i) then 1 else 0)))

/-- PMOV.get (R143). -/
def execPmovGet (w : LongWord) (s : State) : Host.Outcome State Fault Refusal :=
  issue s w { form := w.lit.isNone, sub := subNo w < 4, m6 := layoutZ w, d := .dst 1, port := .vector } {} (fun c =>
    .ok (shortResult c (fun l => predWord c.g l (64 * (subNo w / 2)))))

/-- PMOV.set (R143). -/
def execPmovSet (w : LongWord) (s : State) : Host.Outcome State Fault Refusal :=
  issue s w { form := w.lit.isNone, sub := subNo w < 4, m6 := layoutZ w, a := .src 1, port := .vector } {} (fun c =>
    .ok { st := modGroup c.s c.core c.grp (fun g => c.en.foldl (fun g l =>
      (List.range 64).foldl (fun g i => g.writeP l (64 * (subNo w / 2) + i) ((c.rd l w.a).getLsbD i)) g) g) })

/-- The enabled lanes in which p[A] is true (R144). -/
def voters (c : Ic) : List Nat := c.en.filter (fun l => readP c.g l c.w.a.toNat)

/-- PVOTE to a predicate: a Boolean of c and n (R144). -/
def pvoteP (w : LongWord) (op : Nat) (f : Nat → Nat → Bool) (s : State) : Host.Outcome State Fault Refusal :=
  issue s w { form := w.lit.isNone, sub := subNo w == op, m6 := layoutZ w, d := .pdst, a := .psrc } {} (fun c =>
    .ok (predResult c (fun _ => f (voters c).length c.en.length)))

/-- PVOTE to a v-register (R144). -/
def pvoteV (w : LongWord) (op : Nat) (f : List Nat → Nat) (s : State) : Host.Outcome State Fault Refusal :=
  issue s w { form := w.lit.isNone, sub := subNo w == op, m6 := layoutZ w, d := .dst 1, a := .psrc, port := .vector } {}
    (fun c => .ok (shortResult c (fun _ => word (f (voters c)))))

/-- PVOTE.some (R144). -/
def execPvoteSome (w : LongWord) (s : State) : Host.Outcome State Fault Refusal := pvoteP w 0 (fun c _ => c != 0) s
/-- PVOTE.every (R144). -/
def execPvoteEvery (w : LongWord) (s : State) : Host.Outcome State Fault Refusal := pvoteP w 1 (fun c n => c == n) s
/-- PVOTE.same (R144). -/
def execPvoteSame (w : LongWord) (s : State) : Host.Outcome State Fault Refusal := pvoteP w 2 (fun c n => c == 0 || c == n) s
/-- PVOTE.mask: bit LANEPOS of each voter (R144). -/
def execPvoteMask (w : LongWord) (s : State) : Host.Outcome State Fault Refusal :=
  pvoteV w 3 (fun ls => (ls.map (fun l => 2 ^ l)).sum) s
/-- PVOTE.count (R144). -/
def execPvoteCount (w : LongWord) (s : State) : Host.Outcome State Fault Refusal := pvoteV w 4 List.length s

end Sys2Proof.Machine
end

