-- ==== Sys2Proof/Machine/Integer.lean ====
section
/-! DEFINITION. Integer, address and bit instructions, OP9 0x040 to 0x058 (chapter 09). -/

namespace Sys2Proof.Machine

/-- fit of Table 9.1. -/
def fitInt (sat : Bool) (t : Nat) (v : Int) : Nat :=
  wrap (tyBits t) (if sat then satInt (tySigned t) (tyBits t) v else v)

/-- A word from its sub-elements of a type. -/
def perElem (t : Nat) (f : Nat → Nat) : Word := word (ofElems (tyBits t) ((List.range (64 / tyBits t)).map f))

/-- get of Table 9.1. -/
def getInt (t k : Nat) (x : Word) : Int := tyInt t (elem (tyBits t) k x)

/-- SAT of layout I. -/
def satBit (w : LongWord) : Bool := w.m6 == 1#6

/-- The shape of two operands, the second a register or a literal of the type in SUB6 (R145, R147). -/
def shapeInt (w : LongWord) (sat : Bool) : Shape :=
  { sub := subNo w ≤ 7, m6 := layoutI sat w.m6, d := .dst 1, a := .src 1, b := .src 1, ok12 := litFits (subNo w) w }

/-- The shape of one operand, W only. -/
def shapeInt1 (w : LongWord) (sub sat : Bool) : Shape :=
  { form := w.lit.isNone, sub := sub, m6 := layoutI sat w.m6, d := .dst 1, a := .src 1 }

/-- An integer instruction with one short result by lane. -/
def intInstr (w : LongWord) (sh : Shape) (f : Ic → Nat → Word) (s : State) : Host.Outcome State Fault Refusal :=
  issue s w sh {} (fun c => .ok (shortResult c (f c)))

/-- Two operands combined as integers by sub-element, with fit (R149, R150). -/
def intBin (w : LongWord) (sat : Bool) (f : Int → Int → Int) (s : State) : Host.Outcome State Fault Refusal :=
  let t := subNo w
  intInstr w (shapeInt w sat) (fun c l =>
    perElem t (fun k => fitInt (satBit w) t (f (getInt t k (c.rd l w.a)) (getInt t k (opB c t l))))) s

/-- One operand by sub-element. -/
def intUn (w : LongWord) (sh : Shape) (f : Nat → Nat → Nat) (s : State) : Host.Outcome State Fault Refusal :=
  let t := subNo w
  intInstr w sh (fun c l => perElem t (fun k => f t (elem (tyBits t) k (c.rd l w.a)))) s

/-! ### IADD, ISUB, IMIN, IMAX, IMUL, IMULH, IMAD (R149, R150) -/

/-- IADD (R149). -/
def execIadd (w : LongWord) (s : State) : Host.Outcome State Fault Refusal := intBin w true (· + ·) s
/-- IADD.i32 in format K (R76). -/
def execIaddI32K (w : KWord) (s : State) : Host.Outcome State Fault Refusal := intBin (kLong 2 w) true (· + ·) s
/-- IADD.i64 in format K (R76). -/
def execIaddI64K (w : KWord) (s : State) : Host.Outcome State Fault Refusal := intBin (kLong 0 w) true (· + ·) s
/-- IADD.i32 in format J (R76). -/
def execIaddI32J (w : JWord) (s : State) : Host.Outcome State Fault Refusal := intBin (jLong 2 w) true (· + ·) s
/-- IADD.i64 in format J (R76). -/
def execIaddI64J (w : JWord) (s : State) : Host.Outcome State Fault Refusal := intBin (jLong 0 w) true (· + ·) s
/-- ISUB (R149). -/
def execIsub (w : LongWord) (s : State) : Host.Outcome State Fault Refusal := intBin w true (· - ·) s
/-- ISUB.i32 in format K (R76). -/
def execIsubI32K (w : KWord) (s : State) : Host.Outcome State Fault Refusal := intBin (kLong 2 w) true (· - ·) s
/-- IMIN (R149). -/
def execImin (w : LongWord) (s : State) : Host.Outcome State Fault Refusal := intBin w false (fun a b => if a ≤ b then a else b) s
/-- IMAX (R149). -/
def execImax (w : LongWord) (s : State) : Host.Outcome State Fault Refusal := intBin w false (fun a b => if b ≤ a then a else b) s
/-- IMUL (R150). -/
def execImul (w : LongWord) (s : State) : Host.Outcome State Fault Refusal := intBin w true (· * ·) s
/-- IMUL.i32 in format K (R76). -/
def execImulI32K (w : KWord) (s : State) : Host.Outcome State Fault Refusal := intBin (kLong 2 w) true (· * ·) s
/-- IMULH: the high half of the 2w-bit product (R150). -/
def execImulh (w : LongWord) (s : State) : Host.Outcome State Fault Refusal :=
  intBin w false (fun a b => (a * b) / ((2 ^ tyBits (subNo w) : Nat) : Int)) s

/-- IMAD (R150). -/
def execImad (w : LongWord) (s : State) : Host.Outcome State Fault Refusal :=
  let t := subNo w
  intInstr w { shapeInt w true with c := .src 1 } (fun c l =>
    perElem t (fun k => fitInt (satBit w) t
      (getInt t k (c.rd l w.a) * getInt t k (opB c t l) + getInt t k (c.rd l w.c)))) s

/-! ### IDIV (R151) -/

/-- The quotient of R151. -/
def quotInt (a b : Int) : Int := if b = 0 then -1 else a.tdiv b

/-- The remainder of R151. -/
def remInt (a b : Int) : Int := if b = 0 then a else a - a.tdiv b * b

/-- IDIV: both sources are read before either result is written (R151). -/
def execIdiv (w : LongWord) (s : State) : Host.Outcome State Fault Refusal :=
  let t := subNo w
  issue s w { shapeInt w false with c := .dst 1 } {} (fun c =>
    let res (f : Int → Int → Int) (l : Nat) : Word :=
      perElem t (fun k => wrap (tyBits t) (f (getInt t k (c.rd l w.a)) (getInt t k (opB c t l))))
    .ok { st := modGroup c.s c.core c.grp (fun g => c.lanes.foldl (fun g l =>
      let g := g.writeReg l w.d (res quotInt l)
      if w.c == w.d then g else g.writeReg l w.c (res remInt l)) g) })

/-! ### IABS, POPC, CLZ, BREV (R152) -/

/-- IABS (R152). -/
def execIabs (w : LongWord) (s : State) : Host.Outcome State Fault Refusal :=
  intUn w (shapeInt1 w (subNo w ≤ 7 && subNo w % 2 == 0) true) (fun t x => fitInt (satBit w) t (tyInt t x).natAbs) s

/-- POPC (R152). -/
def execPopc (w : LongWord) (s : State) : Host.Outcome State Fault Refusal :=
  intUn w (shapeInt1 w (subNo w ≤ 7) false) (fun t x => ((List.range (tyBits t)).filter (nbit x)).length) s

/-- CLZ (R152). -/
def execClz (w : LongWord) (s : State) : Host.Outcome State Fault Refusal :=
  intUn w (shapeInt1 w (subNo w ≤ 7) false) (fun t x => tyBits t - bitLength x) s

/-- BREV (R152). -/
def execBrev (w : LongWord) (s : State) : Host.Outcome State Fault Refusal :=
  intUn w (shapeInt1 w (subNo w ≤ 7) false)
    (fun t x => ofElems 1 ((List.range (tyBits t)).map (fun i => if nbit x (tyBits t - 1 - i) then 1 else 0))) s

/-! ### SHL, SHR, SHRA, ROT (R153) -/

/-- A shift of each sub-element by the count in the same sub-element (R153). -/
def shiftInstr (w : LongWord) (sat : Bool) (f : Nat → Nat → Nat → Nat) (s : State) : Host.Outcome State Fault Refusal :=
  let t := subNo w
  intInstr w (shapeInt w sat) (fun c l =>
    perElem t (fun k => f t (elem (tyBits t) k (c.rd l w.a)) (elem (tyBits t) k (opB c t l)))) s

/-- SHL of a sub-element; a count of the width or more shifts every bit out (R153). -/
def shlElem (sat : Bool) (t x n : Nat) : Nat :=
  let m := if n < tyBits t then n else tyBits t
  if sat then fitInt true t (tyInt t x * ((2 ^ m : Nat) : Int)) else x * 2 ^ m % 2 ^ tyBits t

/-- SHR of a sub-element (R153). -/
def shrElem (t x n : Nat) : Nat := if n < tyBits t then x / 2 ^ n else 0

/-- SHRA of a sub-element: the signed reading, whatever the type (R153). -/
def shraElem (t x n : Nat) : Nat :=
  let m := if n < tyBits t then n else tyBits t
  wrap (tyBits t) (sxInt (tyBits t) x / ((2 ^ m : Nat) : Int))

/-- ROT of a sub-element (R153). -/
def rotElem (t x n : Nat) : Nat :=
  let e := n % tyBits t
  (x * 2 ^ e + x / 2 ^ (tyBits t - e)) % 2 ^ tyBits t

/-- SHL (R153). -/
def execShl (w : LongWord) (s : State) : Host.Outcome State Fault Refusal := shiftInstr w true (shlElem (satBit w)) s
/-- SHL.n32 in format K (R76). -/
def execShlN32K (w : KWord) (s : State) : Host.Outcome State Fault Refusal := shiftInstr (kLong 3 w) true (shlElem false) s
/-- SHL.n32 in format J (R76). -/
def execShlN32J (w : JWord) (s : State) : Host.Outcome State Fault Refusal := shiftInstr (jLong 3 w) true (shlElem false) s
/-- SHR (R153). -/
def execShr (w : LongWord) (s : State) : Host.Outcome State Fault Refusal := shiftInstr w false shrElem s
/-- SHR.n32 in format K (R76). -/
def execShrN32K (w : KWord) (s : State) : Host.Outcome State Fault Refusal := shiftInstr (kLong 3 w) false shrElem s
/-- SHR.n32 in format J (R76). -/
def execShrN32J (w : JWord) (s : State) : Host.Outcome State Fault Refusal := shiftInstr (jLong 3 w) false shrElem s
/-- SHRA (R153). -/
def execShra (w : LongWord) (s : State) : Host.Outcome State Fault Refusal := shiftInstr w false shraElem s
/-- ROT (R153). -/
def execRot (w : LongWord) (s : State) : Host.Outcome State Fault Refusal := shiftInstr w false rotElem s

/-! ### BITF (R154) -/

/-- The table function of R154 on 64 bits: A selects least, D most. -/
def bitfWord (tbl : Nat) (a b d : Word) : Word :=
  word (ofElems 1 ((List.range 64).map (fun i =>
    let j := (if a.getLsbD i then 1 else 0) + (if b.getLsbD i then 2 else 0) + (if d.getLsbD i then 4 else 0)
    if nbit tbl j then 1 else 0)))

/-- BITF, with the table in C; D is read only where the table depends on it (R154). -/
def bitf (w : LongWord) (s : State) : Host.Outcome State Fault Refusal :=
  intInstr w { shapeInt w false with c := .imm, dIn := w.c.toNat % 16 != w.c.toNat / 16 } (fun c l =>
    bitfWord w.c.toNat (c.rd l w.a) (opB c (subNo w) l) (c.rd l w.d)) s

/-- BITF (R154). -/
def execBitf (w : LongWord) (s : State) : Host.Outcome State Fault Refusal := bitf w s
/-- BITF, table 0x88, in format K (R76, R154). -/
def execBitfAndK (w : KWord) (s : State) : Host.Outcome State Fault Refusal := bitf (kLongBitf 0x88 w) s
/-- BITF, table 0xEE, in format K (R76, R154). -/
def execBitfOrK (w : KWord) (s : State) : Host.Outcome State Fault Refusal := bitf (kLongBitf 0xEE w) s
/-- BITF, table 0x66, in format K (R76, R154). -/
def execBitfXorK (w : KWord) (s : State) : Host.Outcome State Fault Refusal := bitf (kLongBitf 0x66 w) s
/-- BITF, table 0x88, in format J (R76, R154). -/
def execBitfAndJ (w : JWord) (s : State) : Host.Outcome State Fault Refusal := bitf { jLong 0 w with c := 0x88 } s

/-! ### BFX, BFI (R155) -/

/-- The length m of the field that a field operand names in a sub-element of width w (R155). -/
def fieldLen (w f : Nat) : Nat :=
  let p := f % 256
  let q := f / 256 % 256
  if p < w && q != 0 then (if q < w - p then q else w - p) else 0

/-- BFX of a sub-element (R155). -/
def bfxElem (t x f : Nat) : Nat :=
  let m := fieldLen (tyBits t) f
  let v := x / 2 ^ (f % 256 % 64) % 2 ^ m
  if m = 0 then 0 else if tySigned t then wrap (tyBits t) (sxInt m v) else v

/-- BFI of a sub-element (R155). -/
def bfiElem (t d x f : Nat) : Nat :=
  let m := fieldLen (tyBits t) f
  let p := f % 256
  if m = 0 then d else d % 2 ^ p + 2 ^ p * (x % 2 ^ m) + d / 2 ^ (p + m) * 2 ^ (p + m)

/-- BFX (R155). -/
def execBfx (w : LongWord) (s : State) : Host.Outcome State Fault Refusal :=
  let t := subNo w
  intInstr w { shapeInt w false with sub := t ≤ 3 } (fun c l =>
    perElem t (fun k => bfxElem t (elem (tyBits t) k (c.rd l w.a)) (elem (tyBits t) k (opB c t l)))) s

/-- BFI (R155). A field of no bits puts nothing, and the short result is written all the same (R105): with D pending, the model writes
D back as read, prior(D), over an earlier short write, which the spec leaves open (DESIGN CHOICE, log 94). -/
def execBfi (w : LongWord) (s : State) : Host.Outcome State Fault Refusal :=
  let t := subNo w
  intInstr w { shapeInt w false with sub := t ≤ 3, dIn := true } (fun c l =>
    perElem t (fun k => bfiElem t (elem (tyBits t) k (c.rd l w.d)) (elem (tyBits t) k (c.rd l w.a)) (elem (tyBits t) k (opB c t l)))) s

/-! ### SEL, MOV, MOVI, MOVS (R156) -/

/-- SEL (R156). -/
def execSel (w : LongWord) (s : State) : Host.Outcome State Fault Refusal :=
  intInstr w { shapeInt w false with c := .psrc, port := .vector } (fun c l =>
    if readP c.g l w.c.toNat then c.rd l w.a else opB c (subNo w) l) s

/-- MOV, once decoded (R156). -/
def movReg (w : LongWord) (s : State) : Host.Outcome State Fault Refusal :=
  intInstr w (shapeInt1 w (subNo w == 0) false) (fun c l => c.rd l w.a) s

/-- MOV (R156). -/
def execMov (w : LongWord) (s : State) : Host.Outcome State Fault Refusal := movReg w s
/-- MOV in format K, whose unused B passes check 10 only as 0 (R76). -/
def execMovK (w : KWord) (s : State) : Host.Outcome State Fault Refusal := movReg (kLong 0 w) s

/-- MOVI, once decoded (R156). -/
def movImm (w : LongWord) (s : State) : Host.Outcome State Fault Refusal :=
  intInstr w { form := w.lit.isSome, sub := subNo w ≤ 7, m6 := layoutZ w, d := .dst 1, a := .imm,
               ok10 := w.a == 0#8 || w.a == w.d, ok12 := litFits (subNo w) w }
    (fun _ _ => litWord (subNo w) w) s

/-- MOVI (R156). -/
def execMovi (w : LongWord) (s : State) : Host.Outcome State Fault Refusal := movImm w s
/-- MOVI.i32 in format J (R76). -/
def execMoviI32J (w : JWord) (s : State) : Host.Outcome State Fault Refusal := movImm (jLong 2 w) s

/-- put of Table 9.1. -/
def putElem (w k : Nat) (x : Word) (v : Nat) : Word :=
  word (ofElems w ((List.range (64 / w)).map (fun i => if i = k then v else elem w i x)))

/-- MOVS (R156). -/
def execMovs (w : LongWord) (s : State) : Host.Outcome State Fault Refusal :=
  let t := subNo w
  let j := w.c.toNat % 16
  let k := w.c.toNat / 16
  intInstr w { shapeInt1 w ((2 ≤ t && t ≤ 7) || t == 0x18) false with
      c := .imm, dIn := true, ok12 := j < 64 / tyBits t && k < 64 / tyBits t }
    (fun c l => putElem (tyBits t) k (c.rd l w.d) (elem (tyBits t) j (c.rd l w.a))) s

/-! ### LEA, CVTI (R157, R158) -/

/-- LEA (R157). -/
def execLea (w : LongWord) (s : State) : Host.Outcome State Fault Refusal :=
  let t := subNo w
  intInstr w { shapeInt w false with
      sub := t == 0 || t == 2 || t == 3, c := .imm, ok12 := litFits t w && w.c.toNat < 8 }
    (fun c l =>
      let b := (opB c t l).toNat
      let x := if t = 0 then word b else if t = 2 then sxWord 32 b else zxWord 32 b
      c.rd l w.a + x * word (2 ^ (w.c.toNat % 8))) s

/-- A type code that CVTI admits. -/
def cvtiType (t : Nat) : Bool := t ≤ 7 || t == 0x18

/-- One lane of CVTI: source type, destination type, part, saturation (R158). -/
def cvtiWord (src dst p : Nat) (sat : Bool) (a d : Word) : Word :=
  let ws := tyBits src
  let wd := tyBits dst
  let m := 64 / (if ws < wd then wd else ws)
  if ws < wd then perElem dst (fun i => fitInt sat dst (getInt src (p * m + i) a))
  else if ws > wd then
    perElem dst (fun i => if p * m ≤ i && i < p * m + m then fitInt sat dst (getInt src (i - p * m) a) else elem wd i d)
  else perElem dst (fun i => fitInt sat dst (getInt src i a))

/-- CVTI (R158). -/
def execCvti (w : LongWord) (s : State) : Host.Outcome State Fault Refusal :=
  let src := w.c.toNat % 32
  let p := w.c.toNat / 32
  let ws := tyBits src
  let wd := tyBits (subNo w)
  intInstr w { shapeInt1 w (cvtiType (subNo w)) true with
      c := .imm, dIn := wd < ws, ok12 := cvtiType src && p < (if ws < wd then wd / ws else ws / wd) }
    (fun c l => cvtiWord src (subNo w) p (satBit w) (c.rd l w.a) (c.rd l w.d)) s

end Sys2Proof.Machine
end

