-- ==== Sys2Proof/Machine/Float.lean ====
section
/-! DEFINITION. Floating-point instructions, OP9 0x080 to 0x08C (chapter 11, R181 to R192). -/

namespace Sys2Proof.Machine

/-- The layout of a floating-point type. -/
def fmtT (t : Nat) : Fmt := (fmtOf t).getD fmtF32

/-- fv of Table 11.1. -/
def fv (t k : Nat) (x : Word) : Num := (fmtT t).read (elem (tyBits t) k x)

/-- RM of layout F. -/
def rmOf (w : LongWord) : Nat := w.m6.toNat % 4

/-- SAT of layout F. -/
def satOf (w : LongWord) : Bool := nbit w.m6.toNat 2

/-- The draw of an element of a lane's result when SR is 1 (R175); the TID term is 0 on the uniform port. -/
def drawOf (c : Ic) (l e : Nat) : Option Nat :=
  if nbit c.w.m6.toNat 3 then
    some (srDraw (readS c.g 62).toNat (readS c.g 63).toNat c.g.lc.toNat (if c.uni then 0 else (c.g.lane l).tid) e)
  else none

/-- rnd of Table 11.1 for element `e` of a lane. -/
def rnd (c : Ic) (t l e : Nat) (v : Num) : Nat := (fmtT t).round (rmOf c.w) (satOf c.w) (drawOf c l e) v

/-- The shape of a floating-point instruction with a literal form (R182). -/
def shapeF (w : LongWord) (m6 : Bool) : Shape :=
  { sub := 8 ≤ subNo w && subNo w ≤ 0xA, m6 := m6, d := .dst 1, a := .src 1, b := .src 1, ok12 := litFits (subNo w) w }

/-- The shape of one floating-point operand, W only. -/
def shapeF1 (w : LongWord) (m6 : Bool) : Shape :=
  { form := w.lit.isNone, sub := 8 ≤ subNo w && subNo w ≤ 0xA, m6 := m6, d := .dst 1, a := .src 1 }

/-- RM and SAT, no SR. -/
def layoutFRS (w : LongWord) : Bool := layoutF true true false w.m6

/-- FADD, FSUB and FMUL: two operands and one rounding (R184). -/
def floatBin (w : LongWord) (f : Nat → Num → Num → Num) (s : State) : Host.Outcome State Fault Refusal :=
  let t := subNo w
  intInstr w (shapeF w (layoutFRS w)) (fun c l =>
    perElem t (fun k => rnd c t l k (f (rmOf w) (fv t k (c.rd l w.a)) (fv t k (opB c t l))))) s

/-- FFMA, once decoded (R184). -/
def floatFma (w : LongWord) (s : State) : Host.Outcome State Fault Refusal :=
  let t := subNo w
  intInstr w { shapeF w (layoutFRS w) with c := .src 1 } (fun c l =>
    perElem t (fun k => rnd c t l k
      (numFma (rmOf w) (fv t k (c.rd l w.a)) (fv t k (opB c t l)) (fv t k (c.rd l w.c))))) s

/-- FMIN and FMAX, once decoded (R186). -/
def floatPick (w : LongWord) (f : Num → Num → Num) (s : State) : Host.Outcome State Fault Refusal :=
  let t := subNo w
  intInstr w (shapeF w (layoutZ w)) (fun c l =>
    perElem t (fun k => (fmtT t).same (f (fv t k (c.rd l w.a)) (fv t k (opB c t l))))) s

/-- FADD (R184). -/
def execFadd (w : LongWord) (s : State) : Host.Outcome State Fault Refusal := floatBin w numAdd s
/-- FADD.f32 in format K (R76). -/
def execFaddF32K (w : KWord) (s : State) : Host.Outcome State Fault Refusal := floatBin (kLong 8 w) numAdd s
/-- FADD.bf16 in format K (R76). -/
def execFaddBf16K (w : KWord) (s : State) : Host.Outcome State Fault Refusal := floatBin (kLong 9 w) numAdd s
/-- FSUB: the sign of a b that is no NaN is inverted (R184). -/
def execFsub (w : LongWord) (s : State) : Host.Outcome State Fault Refusal :=
  floatBin w (fun rm a b => numAdd rm a (numNeg b)) s
/-- FMUL (R184). -/
def execFmul (w : LongWord) (s : State) : Host.Outcome State Fault Refusal := floatBin w (fun _ => numMul) s
/-- FMUL.f32 in format K (R76). -/
def execFmulF32K (w : KWord) (s : State) : Host.Outcome State Fault Refusal := floatBin (kLong 8 w) (fun _ => numMul) s
/-- FMUL.bf16 in format K (R76). -/
def execFmulBf16K (w : KWord) (s : State) : Host.Outcome State Fault Refusal := floatBin (kLong 9 w) (fun _ => numMul) s
/-- FFMA (R184). -/
def execFfma (w : LongWord) (s : State) : Host.Outcome State Fault Refusal := floatFma w s
/-- FFMA.f32 in format K, with C = D (Table 5.6). -/
def execFfmaF32K (w : KWord) (s : State) : Host.Outcome State Fault Refusal := floatFma (kLongFma 8 w) s
/-- FFMA.bf16 in format K, with C = D (Table 5.6). -/
def execFfmaBf16K (w : KWord) (s : State) : Host.Outcome State Fault Refusal := floatFma (kLongFma 9 w) s
/-- FMIN (R186). -/
def execFmin (w : LongWord) (s : State) : Host.Outcome State Fault Refusal := floatPick w numMin s
/-- FMIN.f32 in format K (R76). -/
def execFminF32K (w : KWord) (s : State) : Host.Outcome State Fault Refusal := floatPick (kLong 8 w) numMin s
/-- FMAX (R186). -/
def execFmax (w : LongWord) (s : State) : Host.Outcome State Fault Refusal := floatPick w numMax s
/-- FMAX.f32 in format K (R76). -/
def execFmaxF32K (w : KWord) (s : State) : Host.Outcome State Fault Refusal := floatPick (kLong 8 w) numMax s

/-! ### FCLASS, FRND (R187, R188) -/

/-- The class bit of a value (R187). -/
def classBit (f : Fmt) : Num → Nat
  | .nan _ fr fw => if nbit fr (fw - 1) then 9 else 8
  | .inf neg => if neg then 0 else 7
  | .fin neg m _ =>
    if m = 0 then (if neg then 3 else 4)
    else if m < 2 ^ f.fw then (if neg then 2 else 5)
    else (if neg then 1 else 6)

/-- FCLASS (R187). -/
def execFclass (w : LongWord) (s : State) : Host.Outcome State Fault Refusal :=
  let t := subNo w
  intInstr w (shapeF1 w (layoutZ w)) (fun c l => perElem t (fun k => 2 ^ classBit (fmtT t) (fv t k (c.rd l w.a)))) s

/-- A value rounded to an integral one, its sign kept (R188). -/
def frndNum (rm : Nat) : Num → Num
  | .fin neg m e => if 0 ≤ e then .fin neg m e else .fin neg (finToInt rm neg m e none).natAbs 0
  | v => v

/-- FRND (R188). -/
def execFrnd (w : LongWord) (s : State) : Host.Outcome State Fault Refusal :=
  let t := subNo w
  intInstr w (shapeF1 w (layoutF true false false w.m6)) (fun c l =>
    perElem t (fun k => (fmtT t).same (frndNum (rmOf w) (fv t k (c.rd l w.a))))) s

/-! ### FCVT, FCVTI, ICVTF (R189) -/

/-- A floating-point type of FCVT. -/
def fcvtType (t : Nat) : Bool := 8 ≤ t && t ≤ 0xC

/-- The part selection of R158: `f i x` converts the source sub-element x for destination sub-element i. -/
def convert (ws wd p : Nat) (f : Nat → Nat → Nat) (a d : Word) : Word :=
  let m := 64 / (if ws < wd then wd else ws)
  let from_ (i : Nat) : Nat := if ws < wd then p * m + i else if ws > wd then i - p * m else i
  word (ofElems wd ((List.range (64 / wd)).map (fun i =>
    if ws > wd && !(p * m ≤ i && i < p * m + m) then elem wd i d else f i (elem ws (from_ i) a))))

/-- The shape of the three conversions: the source type and P in C (R189). -/
def shapeCvt (w : LongWord) (sub m6 src : Bool) : Shape :=
  let ws := tyBits (w.c.toNat % 32)
  let wd := tyBits (subNo w)
  { form := w.lit.isNone, sub := sub, m6 := m6, d := .dst 1, a := .src 1, c := .imm, dIn := wd < ws, sr := nbit w.m6.toNat 3,
    ok12 := src && w.c.toNat / 32 < (if ws < wd then wd / ws else ws / wd) }

/-- A conversion by lane. -/
def convInstr (w : LongWord) (sh : Shape) (f : Ic → Nat → Nat → Nat → Nat) (s : State) : Host.Outcome State Fault Refusal :=
  intInstr w sh (fun c l => convert (tyBits (w.c.toNat % 32)) (tyBits (subNo w)) (w.c.toNat / 32) (f c l) (c.rd l w.a) (c.rd l w.d)) s

/-- FCVT (R189). -/
def execFcvt (w : LongWord) (s : State) : Host.Outcome State Fault Refusal :=
  let src := w.c.toNat % 32
  convInstr w (shapeCvt w (fcvtType (subNo w)) (layoutF true true (srType (subNo w)) w.m6) (fcvtType src))
    (fun c l e x => rnd c (subNo w) l e ((fmtT src).read x)) s

/-- A value converted to an integer type: always saturated, a NaN gives 0 (R173, R189). -/
def toIntElem (rm dst : Nat) (draw : Option Nat) : Num → Nat
  | .nan _ _ _ => 0
  | .inf neg => wrap (tyBits dst) (satInt (tySigned dst) (tyBits dst) (if neg then -(2 ^ 70) else 2 ^ 70))
  | .fin neg m e =>
    if e ≥ 70 && m != 0 then wrap (tyBits dst) (satInt (tySigned dst) (tyBits dst) (if neg then -(2 ^ 70) else 2 ^ 70))
    else wrap (tyBits dst) (satInt (tySigned dst) (tyBits dst) (finToInt rm neg m e draw))

/-- FCVTI (R189). -/
def execFcvti (w : LongWord) (s : State) : Host.Outcome State Fault Refusal :=
  let src := w.c.toNat % 32
  convInstr w (shapeCvt w (cvtiType (subNo w)) (layoutF true false (srType (subNo w)) w.m6) (fcvtType src))
    (fun c l e x => toIntElem (rmOf w) (subNo w) (drawOf c l e) ((fmtT src).read x)) s

/-- ICVTF (R189). -/
def execIcvtf (w : LongWord) (s : State) : Host.Outcome State Fault Refusal :=
  let src := w.c.toNat % 32
  convInstr w (shapeCvt w (fcvtType (subNo w)) (layoutF true true (srType (subNo w)) w.m6) (cvtiType src))
    (fun c l e x => rnd c (subNo w) l e (intNum (tyInt src x))) s

/-! ### FDOT, FSCALE (R190, R192) -/

/-- The exact sum of two products and an addend: NaNs in the order A.2k, B.2k, A.2k+1, B.2k+1, C.k; an
exact zero takes its sign from all three terms (R179, R190). -/
def numDot (rm : Nat) (a0 b0 a1 b1 c : Num) : Num :=
  match firstNan [a0, b0, a1, b1, c] with
  | some n => n
  | none =>
    let p := numMul a0 b0
    let q := numMul a1 b1
    if p.isNan || q.isNan then Num.dflt else
    match numAdd rm p q with
    | .nan x y z => .nan x y z
    | pq =>
      match numAdd rm pq c with
      | .fin _ 0 e =>
        if p.isZero && q.isZero && c.isZero then
          .fin (if p.neg && q.neg && c.neg then true else if !p.neg && !q.neg && !c.neg then false else rm == 2) 0 e
        else .fin (rm == 2) 0 e
      | v => v

/-- FDOT (R190). -/
def execFdot (w : LongWord) (s : State) : Host.Outcome State Fault Refusal :=
  let t := subNo w
  intInstr w { shapeF1 w (layoutFRS w) with sub := t == 9 || t == 0xA, b := .src 1, c := .src 1 } (fun c l =>
    perElem 8 (fun k => rnd c 8 l k
      (numDot (rmOf w) (fv t (2 * k) (c.rd l w.a)) (fv t (2 * k) (c.rd l w.b)) (fv t (2 * k + 1) (c.rd l w.a))
        (fv t (2 * k + 1) (c.rd l w.b)) (fv 8 k (c.rd l w.c))))) s

/-- A value scaled by 2^n. Past 1,000 either way every value of the three types rounds alike (R192). -/
def scaleNum (v : Num) (n : Int) : Num :=
  let n := if n > 1000 then 1000 else if n < -1000 then -1000 else n
  match v with
  | .fin neg m e => if m = 0 then .fin neg 0 0 else .fin neg m (e + n)
  | v => v

/-- FSCALE (R192). -/
def execFscale (w : LongWord) (s : State) : Host.Outcome State Fault Refusal :=
  let t := subNo w
  intInstr w { shapeF1 w (layoutFRS w) with b := .src 1 } (fun c l =>
    perElem t (fun k => rnd c t l k (scaleNum (fv t k (c.rd l w.a)) (sxInt (tyBits t) (elem (tyBits t) k (c.rd l w.b)))))) s

end Sys2Proof.Machine
end

