-- ==== Sys2Proof/Machine/Special.lean ====
section
/-! DEFINITION. The special functions, OP9 0x0C0 to 0x0C7 (R193, R194). Each value is formed in fixed
point with far more bits than a result holds, and rounded once. -/

namespace Sys2Proof.Machine

/-- The fraction bits of the fixed-point values below. -/
def fxBits : Nat := 384

/-- One in fixed point. -/
def fxOne : Nat := 2 ^ fxBits

/-- The product of two fixed-point values, cut. -/
def fxMul (a b : Nat) : Nat := a * b / fxOne

/-- The quotient of two fixed-point values, cut. -/
def fxDiv (a b : Nat) : Nat := a * fxOne / b

/-- Σ z^(2k+1) / (2k+1) for k from `k` on, `n` terms, `p` the power so far: alternating or not. -/
def oddSeries (z2 : Nat) (alt : Bool) : Nat → Nat → Nat → Int
  | 0, _, _ => 0
  | n + 1, k, p =>
    (if alt && k % 2 == 1 then -((p / (2 * k + 1) : Nat) : Int) else ((p / (2 * k + 1) : Nat) : Int))
      + oddSeries z2 alt n (k + 1) (fxMul p z2)

/-- atanh of a fixed-point value of at most one third. -/
def fxAtanh (z : Nat) : Nat := (oddSeries (fxMul z z) false 128 0 z).toNat

/-- atan of the reciprocal of a number of at least 5. -/
def fxAtanInv (x : Nat) : Nat := (oddSeries (fxOne / (x * x)) true 90 0 (fxOne / x)).toNat

/-- π, by 16 atan(1/5) − 4 atan(1/239). -/
def fxPi : Nat := 16 * fxAtanInv 5 - 4 * fxAtanInv 239

/-- ln 2, by 2 atanh(1/3). -/
def fxLn2 : Nat := 2 * fxAtanh (fxOne / 3)

/-- Σ t^k / k! for k from `k` on, `n` terms, `p` the term so far. -/
def expSeries (t : Nat) : Nat → Nat → Nat → Nat
  | 0, _, _ => 0
  | n + 1, k, p => p + expSeries t n (k + 1) (fxMul p t / (k + 1))

/-- e^t for a fixed-point t below one. -/
def fxExp (t : Nat) : Nat := expSeries t 90 0 fxOne

/-- Σ (−1)^k t^(2k+1) / (2k+1)! from a term on. -/
def sinSeries (t2 : Nat) : Nat → Nat → Nat → Int
  | 0, _, _ => 0
  | n + 1, k, p =>
    (if k % 2 = 0 then (p : Int) else -(p : Int)) + sinSeries t2 n (k + 1) (fxMul p t2 / ((2 * k + 2) * (2 * k + 3)))

/-- sin of a fixed-point angle of at most π/2. -/
def fxSin (t : Nat) : Nat := (sinSeries (fxMul t t) 50 0 t).toNat

/-- Bit by bit, the square root of a number: `n` result bits are still to be tried. -/
def isqrtFrom (x : Nat) : Nat → Nat → Nat
  | 0, r => r
  | n + 1, r => if (r + 2 ^ n) * (r + 2 ^ n) ≤ x then isqrtFrom x n (r + 2 ^ n) else isqrtFrom x n r

/-- The integer square root. -/
def isqrt (x : Nat) : Nat := isqrtFrom x (bitLength x / 2 + 1) 0

/-- A rounded value whose magnitude is m × 2^e and, when `st`, a little more. -/
def rndMag (f : Fmt) (rm : Nat) (neg : Bool) (m : Nat) (e : Int) (st : Bool) : Nat := f.roundMag rm false neg m e st none

/-- A fixed-point magnitude rounded to nearest even, cut digits standing for a little more. -/
def rndFx (f : Fmt) (neg : Bool) (x : Nat) : Nat := rndMag f 0 neg x (-(fxBits : Int)) true

/-- One of a layout. -/
def fOne (f : Fmt) (neg : Bool) : Nat := rndMag f 0 neg 1 0 false

/-- The default NaN of a layout. -/
def fNan (f : Fmt) : Nat := f.round 0 false none Num.dflt

/-- An infinity of a layout. -/
def fInf (f : Fmt) (neg : Bool) : Nat := f.round 0 false none (.inf neg)

/-- A zero of a layout. -/
def fZero (f : Fmt) (neg : Bool) : Nat := f.pack neg 0 0

/-- 1/x (R193, Table 11.3). -/
def fRcp (f : Fmt) (rm : Nat) : Num → Nat
  | .nan s a b => f.nan s a b
  | .inf neg => fZero f neg
  | .fin neg m e =>
    if m = 0 then fInf f neg else
    let k := 2 * bitLength m + 80
    rndMag f rm neg (2 ^ k / m) (-(k : Int) - e) (2 ^ k % m != 0)

/-- √x. -/
def fSqrt (f : Fmt) (rm : Nat) : Num → Nat
  | .nan s a b => f.nan s a b
  | .inf neg => if neg then fNan f else fInf f false
  | .fin neg m e =>
    if m = 0 then fZero f neg
    else if neg then fNan f
    else
      let (m, e) := if e % 2 = 0 then (m, e) else (2 * m, e - 1)
      let x := m * 2 ^ 120
      let r := isqrt x
      rndMag f rm false r (e / 2 - 60) (r * r != x)

/-- 1/√x. -/
def fRsq (f : Fmt) : Num → Nat
  | .nan s a b => f.nan s a b
  | .inf neg => if neg then fNan f else fZero f false
  | .fin neg m e =>
    if m = 0 then fInf f neg
    else if neg then fNan f
    else
      let (m, e) := if e % 2 = 0 then (m, e) else (2 * m, e - 1)
      let x := 2 ^ 240 / m
      let r := isqrt x
      rndMag f 0 false r (-120 - e / 2) (r * r != x || 2 ^ 240 % m != 0)

/-- A finite value as an integer part and a fixed-point fraction, rounded down. -/
def fxSplit (neg : Bool) (m : Nat) (e : Int) : Int × Nat :=
  let x : Int := sgn neg m * (if 0 ≤ e then ((2 ^ (e.toNat + fxBits) : Nat) : Int) else ((2 ^ (fxBits - (-e).toNat) : Nat) : Int))
  (x / (fxOne : Int), (x % (fxOne : Int)).toNat)

/-- 2^x. -/
def fExp2 (f : Fmt) : Num → Nat
  | .nan s a b => f.nan s a b
  | .inf neg => if neg then fZero f false else fInf f false
  | .fin neg m e =>
    if m = 0 then fOne f false else
    let (n, fr) := fxSplit neg m e
    let n := if n > 1000 then 1000 else if n < -1000 then -1000 else n
    if fr = 0 then rndMag f 0 false 1 n false
    else rndMag f 0 false (fxExp (fxMul fr fxLn2)) (n - (fxBits : Int)) true

/-- log2 x. -/
def fLog2 (f : Fmt) : Num → Nat
  | .nan s a b => f.nan s a b
  | .inf neg => if neg then fNan f else fInf f false
  | .fin neg m e =>
    if m = 0 then fInf f true
    else if neg then fNan f
    else
      let k : Int := (bitLength m : Int) - 1 + e
      let one := 2 ^ (bitLength m - 1)
      if m = one then f.round 0 false none (intNum k)
      else
        let z := (m - one) * fxOne / (m + one)
        let y : Int := k * (fxOne : Int) + (fxDiv (2 * fxAtanh z) fxLn2 : Nat)
        rndFx f (y < 0) y.natAbs

/-- sin of π times a number of quarter turns `q` and a fraction `r` of a quarter turn, in fixed point. -/
def sinQuarter (f : Fmt) (q : Nat) (r : Nat) (flip : Bool) : Nat :=
  let neg := (2 ≤ q) != flip
  let r := if q % 2 = 0 then r else fxOne - r
  if r = fxOne then fOne f neg else rndFx f neg (fxSin (fxMul r fxPi / 2))

/-- sin(π·x). -/
def fSinPi (f : Fmt) : Num → Nat
  | .nan s a b => f.nan s a b
  | .inf _ => fNan f
  | .fin neg m e =>
    if m = 0 then fZero f neg else
    let (n, fr) := fxSplit false m e
    if fr = 0 then fZero f neg
    else
      let q := (2 * (n % 2)).toNat + (if 2 * fr ≥ fxOne then 1 else 0)
      sinQuarter f q (2 * fr % fxOne) neg

/-- cos(π·x) as sin(π(x + 1/2)). -/
def fCosPi (f : Fmt) : Num → Nat
  | .nan s a b => f.nan s a b
  | .inf _ => fNan f
  | .fin _ m e =>
    if m = 0 then fOne f false else
    let (n, fr) := fxSplit false m e
    if fr = 0 then fOne f (n % 2 == 1)
    else if 2 * fr = fxOne then fZero f false
    else
      let q := (2 * (n % 2)).toNat + (if 2 * fr ≥ fxOne then 1 else 0) + 1
      sinQuarter f (q % 4) (2 * fr % fxOne) false

/-- tanh x: the operand itself below 2^−12, and one from 10 on (Table 11.3). -/
def fTanh (f : Fmt) : Num → Nat
  | .nan s a b => f.nan s a b
  | .inf neg => fOne f neg
  | .fin neg m e =>
    if m = 0 then fZero f neg else
    let (n, fr) := fxSplit false m e
    if n ≥ 10 then fOne f neg
    else if n = 0 && fr < 2 ^ (fxBits - 12) then f.round 0 false none (.fin neg m e)
    else
      let t := ((n * (fxOne : Int)).toNat + fr) / 2 ^ 5
      let sq (y : Nat) : Nat := fxMul y y
      let y := sq (sq (sq (sq (sq (sq (fxExp t))))))
      rndFx f neg (fxDiv (y - fxOne) (y + fxOne))

/-- A special function by sub-element, a long instruction (R183, R193). -/
def specialInstr (w : LongWord) (anyRm : Bool) (f : Fmt → Nat → Num → Nat) (s : State) : Host.Outcome State Fault Refusal :=
  let t := subNo w
  issue s w (shapeF1 w (if anyRm then layoutF true false false w.m6 else layoutZ w)) { entry := true, dests := [destOf w.d] }
    (fun c => .ok (longResult c (fun l => perElem t (fun k => f (fmtT t) (rmOf w) (fv t k (c.rd l w.a))))))

/-- FRCP (R194). -/
def execFrcp (w : LongWord) (s : State) : Host.Outcome State Fault Refusal := specialInstr w true fRcp s
/-- FRSQ (R194). -/
def execFrsq (w : LongWord) (s : State) : Host.Outcome State Fault Refusal := specialInstr w false (fun f _ => fRsq f) s
/-- FSQRT (R194). -/
def execFsqrt (w : LongWord) (s : State) : Host.Outcome State Fault Refusal := specialInstr w true fSqrt s
/-- FEXP2 (R194). -/
def execFexp2 (w : LongWord) (s : State) : Host.Outcome State Fault Refusal := specialInstr w false (fun f _ => fExp2 f) s
/-- FLOG2 (R194). -/
def execFlog2 (w : LongWord) (s : State) : Host.Outcome State Fault Refusal := specialInstr w false (fun f _ => fLog2 f) s
/-- FSIN (R194). -/
def execFsin (w : LongWord) (s : State) : Host.Outcome State Fault Refusal := specialInstr w false (fun f _ => fSinPi f) s
/-- FCOS (R194). -/
def execFcos (w : LongWord) (s : State) : Host.Outcome State Fault Refusal := specialInstr w false (fun f _ => fCosPi f) s
/-- FTANH (R194). -/
def execFtanh (w : LongWord) (s : State) : Host.Outcome State Fault Refusal := specialInstr w false (fun f _ => fTanh f) s

end Sys2Proof.Machine
end

