-- ==== Sys2Proof/Machine/Block.lean ====
section
/-! DEFINITION. Blocks in registers, OP9 0x0D0 to 0x0D5, and the values of block elements (chapters 10
and 11, R162 to R170, R195 to R199). -/

namespace Sys2Proof.Machine

/-! ### Values of elements -/

/-- The number of elements that one register holds in slot form (R169, R195). -/
def slotsOf (t : Nat) : Nat := if t == 0x14 || t == 0x0F || t == 0x17 then 16 else 8

/-- Payload registers in slot form, np (R195). -/
def slotRegs (t : Nat) : Nat := 32 / slotsOf t

/-- An MX type. -/
def isMx (t : Nat) : Bool := 0x10 ≤ t && t ≤ 0x15

/-- An SX type. -/
def isSx (t : Nat) : Bool := 0x0D ≤ t && t ≤ 0x0F

/-- The mantissa width M of an SX type (Table 10.4). -/
def sxM (t : Nat) : Nat := tyBits t - 1

/-- σ of a quad in an SX word (Table 10.6). -/
def sxShift (md q : Nat) : Nat := bitsAt md (8 + 3 * q) 3

/-- E of an SX word as it reads (Table 10.7). -/
def sxExp (md : Nat) : Nat := if md % 256 == 0xFF then 0xFE else md % 256

/-- The element value P_i of an MX type (Table 10.3). -/
def mxElem (t code : Nat) : Num :=
  if t == 0x15 then
    let x := sxInt 8 code
    .fin (x < 0) x.natAbs (-6)
  else (fmtT t).read code

/-- A value scaled by a power of two exactly. -/
def numScale (k : Int) : Num → Num
  | .fin neg m e => .fin neg m (e + k)
  | v => v

/-- The zero point Z' (R164). -/
def zeroPoint (t md : Nat) : Nat := if t == 0x17 then md % 16 else md % 256

/-- The value of element `i` of a block from its code and metadata (R162 to R164, R170). -/
def blockVal (t md i code : Nat) : Num :=
  if isMx t then (if md % 256 == 0xFF then Num.dflt else numScale ((md % 256 : Nat) - 127 : Int) (mxElem t code))
  else if isSx t then
    let m := code % 2 ^ sxM t
    .fin (m != 0 && nbit code (sxM t)) m ((sxExp md : Nat) - 127 - (sxShift md (i / 4) : Nat) - (sxM t : Nat) : Int)
  else intNum ((code % 2 ^ tyBits t : Nat) - (zeroPoint t md : Nat) : Int)

/-! ### Register ranges (R195) -/

/-- Element `i` of a block range in slot form: the low bits of its slot. -/
def slotCode (regs : List Word) (t i : Nat) : Nat :=
  elem (64 / slotsOf t) (i % slotsOf t) (regs.getD (i / slotsOf t) 0) % 2 ^ tyBits t

/-- The registers of slot-form codes. -/
def slotWords (t : Nat) (codes : List Nat) : List Word :=
  (List.range (slotRegs t)).map (fun r => word (ofElems (64 / slotsOf t) ((codes.drop (r * slotsOf t)).take (slotsOf t))))

/-- Registers of a float block: 16 for f32, 8 for bf16. -/
def floatRegs (t : Nat) : Nat := if t == 8 then 16 else 8

/-- The elements of a float range. -/
def floatVals (regs : List Word) (t : Nat) : List Num :=
  let n := 64 / tyBits t
  (List.range 32).map (fun i => fv t (i % n) (regs.getD (i / n) 0))

/-- Words of codes packed at width `w`. -/
def packWords (w : Nat) (codes : List Nat) : List Word :=
  (List.range (codes.length * w / 64)).map (fun r => word (ofElems w ((codes.drop (r * (64 / w))).take (64 / w))))

/-- The registers of a range as a lane reads them. -/
def rangeOf (c : Ic) (l : Nat) (f : BitVec 8) (n : Nat) : List Word := (List.range n).map (readRegAt c.g l f)

/-- The destinations of a range. -/
def rangeDests (f : BitVec 8) (n : Nat) : List Dest := (List.range n).map (destAt f)

/-- A long block instruction that writes a range: `f` gives a lane's registers. -/
def blockInstr (w : LongWord) (sh : Shape) (n : Nat) (f : Ic → Nat → List Word) (s : State) : Host.Outcome State Fault Refusal :=
  let ds := rangeDests w.d n
  issue s w sh { entry := true, dests := ds } (fun c =>
    .ok (enterLong c ds Ord.relaxed .values (c.lanes.flatMap (fun l =>
      (f c l).zipIdx.map (fun r => (64 * r.2 + l, r.1))))))

/-! ### BQNT (R196) -/

/-- floor(log2) of a finite magnitude that is not zero. -/
def floorLog2 (m : Nat) (e : Int) : Int := (bitLength m : Int) - 1 + e

/-- floor(log2) of the largest magnitude of the finite values, `inf` standing for an infinity; none when
all are zero. -/
def maxLog2 (inf : Option Int) (xs : List Num) : Option Int :=
  xs.foldl (fun a x =>
    let k : Option Int := match x with
      | .fin _ m e => if m = 0 then none else some (floorLog2 m e)
      | .inf _ => inf
      | .nan _ _ _ => none
    match a, k with
    | some a, some k => some (if a < k then k else a)
    | some a, none => some a
    | none, k => k) none

/-- Clamps to a range. -/
def clampInt (lo hi x : Int) : Int := if x < lo then lo else if x > hi then hi else x

/-- emax of an MX type (R196). -/
def mxEmax (t : Nat) : Int :=
  match t with
  | 0x10 => 8 | 0x11 => 15 | 0x12 => 4 | 0x13 => 2 | 0x14 => 2 | _ => 0

/-- An element code of an MX type, in the SAT row (R171, R172). -/
def mxCode (t rm : Nat) (draw : Option Nat) (v : Num) : Nat :=
  if t == 0x15 then
    match v with
    | .nan _ _ _ => 0
    | .inf neg => if neg then 0x80 else 0x7F
    | .fin neg m e => wrap 8 (satInt true 8 (sgn neg (roundAt rm neg m e (-6) false draw)))
  else (fmtT t).round rm true draw v

/-- An element code of an SX type under E and σ (R172, R173, R196). -/
def sxCode (t : Nat) (expo : Nat) (shift : Nat) (rm : Nat) (draw : Option Nat) (v : Num) : Nat :=
  let top := 2 ^ sxM t - 1
  let code (neg : Bool) (n : Nat) : Nat :=
    let n := if n > top then top else n
    if n = 0 then 0 else n + (if neg then 2 ^ sxM t else 0)
  match v with
  | .nan _ _ _ => 0
  | .inf neg => code neg (top + 1)
  | .fin neg m e => code neg (roundAt rm neg m e ((expo : Int) - 127 - (shift : Int) - (sxM t : Int)) false draw)

/-- The integer that an element rounds to for an IZ block; an infinity lies beyond every code. -/
def izInt (rm : Nat) (draw : Option Nat) : Num → Option Int
  | .nan _ _ _ => none
  | .inf neg => some (if neg then -(2 ^ 140) else 2 ^ 140)
  | .fin neg m e => some (finToInt rm neg m e draw)

/-- A block's element codes and metadata (R196). -/
def quantise (t rm : Nat) (draw : Nat → Option Nat) (xs : List Num) : List Nat × Nat :=
  if isMx t then
    if xs.any Num.isNan then (List.replicate 32 0, 0xFF)
    else
      let x : Nat := match maxLog2 none xs with
        | none => 0x7F
        | some k => (clampInt 0 254 (k - mxEmax t + 127)).toNat
      (xs.zipIdx.map (fun v => mxCode t rm (draw v.2) (numScale (127 - (x : Int)) v.1)), x)
  else if isSx t then
    let expo : Nat := match maxLog2 (some 128) xs with
      | none => 0
      | some k => (clampInt 0 254 (k + 128)).toNat
    let shift (q : Nat) : Nat := match maxLog2 (some 128) ((xs.drop (4 * q)).take 4) with
      | none => 7
      | some k => (clampInt 0 7 ((expo : Int) - 128 - k)).toNat
    let md := expo + ((List.range 8).map (fun q => shift q * 2 ^ (8 + 3 * q))).sum
    (xs.zipIdx.map (fun v => sxCode t expo (shift (v.2 / 4)) rm (draw v.2) v.1), md)
  else
    let zmax : Int := ((2 ^ tyBits t : Nat) : Int) - 1
    let ys := xs.zipIdx.map (fun v => izInt rm (draw v.2) v.1)
    let lo : Int := (ys.filterMap id).foldl (fun (a : Option Int) y =>
      match a with
      | none => some y
      | some a => some (if y < a then y else a)) none |>.getD 0
    let z := clampInt 0 zmax (-lo)
    (ys.map (fun y => match y with | none => z.toNat | some y => (clampInt 0 zmax (y + z)).toNat), z.toNat)

/-- The float type in C that the register range is checked with (R89, R196, R197): where C names neither f32 nor bf16, the spec does
not say whether the range is of 16 or of 8 registers, and the model takes bf16's 8 (DESIGN CHOICE, log 94). -/
def floatC (w : LongWord) : Nat := if w.c.toNat % 32 == 8 then 8 else 9

/-- C names f32 or bf16 and nothing else. -/
def floatCOk (w : LongWord) : Bool := w.c.toNat == 8 || w.c.toNat == 9

/-- BQNT (R196). -/
def execBqnt (w : LongWord) (s : State) : Host.Outcome State Fault Refusal :=
  let t := subNo w
  let np := slotRegs t
  let ft := floatC w
  blockInstr w
    { form := w.lit.isNone, sub := 0x0D ≤ t && t ≤ 0x17, m6 := layoutF true false true w.m6, sr := nbit w.m6.toNat 3,
      d := .dst (np + 1), a := .src (floatRegs ft), c := .imm, ok12 := floatCOk w }
    (np + 1) (fun c l =>
      let r := quantise t (rmOf w) (drawOf c l) (floatVals (rangeOf c l w.a (floatRegs ft)) ft)
      slotWords t r.1 ++ [word r.2]) s

/-! ### BDEQ, ZPSUB (R197) -/

/-- The metadata of a range: the meaningful bits of its last register (R195). -/
def rangeMeta (t : Nat) (x : Word) : Nat := if isSx t then x.toNat % 2 ^ 32 else x.toNat % 256

/-- BDEQ (R197). -/
def execBdeq (w : LongWord) (s : State) : Host.Outcome State Fault Refusal :=
  let t := subNo w
  let np := slotRegs t
  let ft := floatC w
  blockInstr w
    { form := w.lit.isNone, sub := 0x0D ≤ t && t ≤ 0x17, m6 := layoutFRS w,
      d := .dst (floatRegs ft), a := .src (np + 1), c := .imm, ok12 := floatCOk w }
    (floatRegs ft) (fun c l =>
      let regs := rangeOf c l w.a (np + 1)
      let md := rangeMeta t (regs.getD np 0)
      packWords (tyBits ft) ((List.range 32).map (fun i =>
        (fmtT ft).round (rmOf w) (satOf w) none (blockVal t md i (slotCode regs t i))))) s

/-- ZPSUB (R197). -/
def execZpsub (w : LongWord) (s : State) : Host.Outcome State Fault Refusal :=
  let t := subNo w
  let np := slotRegs t
  let wd := if t == 0x16 then 16 else 8
  blockInstr w
    { form := w.lit.isNone, sub := t == 0x16 || t == 0x17, m6 := layoutZ w, d := .dst (32 * wd / 64), a := .src (np + 1) }
    (32 * wd / 64) (fun c l =>
      let regs := rangeOf c l w.a (np + 1)
      let z := zeroPoint t (rangeMeta t (regs.getD np 0))
      packWords wd ((List.range 32).map (fun i => wrap wd ((slotCode regs t i : Int) - (z : Int))))) s

/-! ### PACK, UNPACK, AMAXB (R198, R199) -/

/-- A type with a dense form of its own. -/
def denseType (t : Nat) : Bool := t == 0x12 || t == 0x13 || t == 0x0E || t == 0x0F

/-- PACK (R198). -/
def execPack (w : LongWord) (s : State) : Host.Outcome State Fault Refusal :=
  let t := subNo w
  let np := slotRegs t
  let nd := payRegs t
  blockInstr w
    { form := w.lit.isNone, sub := denseType t, m6 := layoutZ w, d := .dst (nd + 1), a := .src (np + 1) }
    (nd + 1) (fun c l =>
      let regs := rangeOf c l w.a (np + 1)
      let x := ofElems (tyBits t) ((List.range 32).map (slotCode regs t))
      (List.range nd).map (fun q => word (x / 2 ^ (64 * q) % 2 ^ 64)) ++ [regs.getD np 0]) s

/-- UNPACK (R198). -/
def execUnpack (w : LongWord) (s : State) : Host.Outcome State Fault Refusal :=
  let t := subNo w
  let np := slotRegs t
  let nd := payRegs t
  blockInstr w
    { form := w.lit.isNone, sub := denseType t, m6 := layoutZ w, d := .dst (np + 1), a := .src (nd + 1) }
    (np + 1) (fun c l =>
      let regs := rangeOf c l w.a (nd + 1)
      let x := ofElems 64 ((regs.take nd).map BitVec.toNat)
      slotWords t ((List.range 32).map (fun i => bitsAt x (tyBits t * i) (tyBits t))) ++ [regs.getD nd 0]) s

/-- The largest magnitude of a list of values, NaNs first (R199). -/
def absMax (xs : List Num) : Num :=
  match firstNan xs with
  | some (.nan _ f fw) => .nan false f fw
  | _ => xs.foldl (fun a x =>
      let x : Num := match x with
        | .fin _ m e => .fin false m e
        | .inf _ => .inf false
        | v => v
      if numCmp a x == .lt then x else a) (.fin false 0 0)

/-- AMAXB (R199). -/
def execAmaxb (w : LongWord) (s : State) : Host.Outcome State Fault Refusal :=
  let t := subNo w
  blockInstr w
    { form := w.lit.isNone, sub := t == 8 || t == 9, m6 := layoutZ w, d := .dst 1, a := .src (floatRegs t) }
    1 (fun c l => [word (fmtF32.round 0 false none (absMax (floatVals (rangeOf c l w.a (floatRegs t)) t)))]) s

end Sys2Proof.Machine
end

