-- ==== Sys2Proof/Machine/Memory.lean ====
section
/-! DEFINITION. Loads and stores of global memory, scratchpads, blocks; prefetch and cache maintenance
(chapter 13), with what transactions and deterministic mode make of them (chapter 17). -/

namespace Sys2Proof.Machine

/-- opB of an address: the B register, or the literal sign-extended (R222). -/
def addrB (c : Ic) (l : Nat) : Word := if c.w.lit.isSome then sxWord 32 (litNat c.w) else c.rd l c.w.b

/-- The effective address of a lane (R222). -/
def effAddr (c : Ic) (l : Nat) : Nat := (c.rd l c.w.a + addrB c l).toNat

/-- The lanes with their effective addresses. -/
def effLanes (c : Ic) : List (Nat × Nat) := c.lanes.map (fun l => (l, effAddr c l))

/-- The thread of a lane is in transaction (R307). -/
def inTx (c : Ic) (l : Nat) : Bool := (c.g.lane l).txs != .none_

/-- The lanes that a lane of an access stands for: all enabled ones on the uniform port. -/
def anyTx (c : Ic) : Bool := c.en.any (inTx c)

/-- ETXN with a reason (R308). -/
def etxn (n : Nat) : Stop := .trap ⟨0x0D, 0, word n⟩

/-- EDETWAIT with a reason (R316, R317). -/
def edetwait (n : Nat) : Stop := .trap ⟨0x0F, 0, word n⟩

/-- ORD values of loads, stores, scratchpad loads and stores (R86). -/
def mLoad (w : LongWord) : Bool := layoutM [0, 1, 4, 5, 6, 7] w.m6
def mStore (w : LongWord) : Bool := layoutM [0, 2, 4, 5, 6, 7] w.m6
def mSLoad (w : LongWord) : Bool := layoutM [0, 1] w.m6
def mSStore (w : LongWord) : Bool := layoutM [0, 2] w.m6
def mRmw (w : LongWord) : Bool := layoutM [0, 1, 2, 3, 4] w.m6

/-- The shape of a load or store of the types 0x00 to 0x07 (R222). -/
def shapeMem (w : LongWord) (m6 : Bool) (d : Use) : Shape :=
  { sub := subNo w ≤ 7, m6 := m6, d := d, a := .src 1, b := .src 1 }

/-- A release at .clus or wider waits until its team holds the token and its buffer has drained (R316). -/
def detRelease (c : Ic) (o : Ord) : Except Stop Unit :=
  need (!(recDet c.r && o.rel && scopeRank o.scope ≥ 2) || (c.t.det.isEmpty && (c.t.hasToken || c.t.hadToken))) (.stall .token)

/-- A group outside the lost-locality quota may not issue a load that allocates in L1 (R113). -/
def overQuota (c : Ic) : Bool :=
  nbit (coreRegs c.s c.core).lldthr.toNat 16 &&
    decide ((c.t.groups.filter (fun e => e.2.order < c.g.order)).length ≥ c.t.quota)

/-- The enabled lanes in transaction for which a lane of an access is made: on the uniform port all of them (R81). -/
def txOf (c : Ic) (l : Nat) : List Nat := (if c.uni then c.en else [l]).filter (inTx c)

/-- ETXN of a transactional LDG or STG: with an order, or to a page that is not MT 0, whose translation is needed for
that (R308, R343). -/
def txLate (c : Ic) : Option Stop :=
  let o := ordOf c.w.m6
  if !anyTx c then none
  else if o.acq || o.rel || o.sc then some (etxn 3)
  else
    let trs := ((effLanes c).filter (fun x => !(txOf c x.1).isEmpty)).map (fun x => translate c.s c.core c.ctx c.g.walked x.2)
    let misses := trs.filterMap (fun t => match t with | .miss p => some p | _ => none)
    if !misses.isEmpty then some (.misses (sortNat misses))
    else if trs.any (fun t => match t with | .ok x => x.mt != 0 | _ => false) then some (etxn 4)
    else none

/-- A RED that a team's DET store buffer holds names bytes of a range of a space (R316). -/
def redBuffered (s : State) (t : Team) (ctx space pa n : Nat) : Bool :=
  t.det.any (fun d => match d.work with
    | .atom _ ty _ as => as.any (fun x =>
        let p := physAddr s ctx x.acc.xl x.acc.va false
        spaceOf x.acc.xl == space && decide (p < pa + n) && decide (pa < p + tyBits ty / 8))
    | _ => false)

/-- A load touches bytes that a buffered RED or PUBL of its team names (R316). -/
def meetsBuffered (c : Ic) (ls : List (Acc × Nat)) : Bool :=
  ls.any (fun a => redBuffered c.s c.t c.ctx (spaceOf a.1.xl) (physAddr c.s c.ctx a.1.xl a.1.va false) a.2)
  || c.t.det.any (fun d => match d.work with
    | .publ a _ => ls.any (fun x => x.1.xl.mt == 7 && x.1.xl.aux == a.xl.aux)
    | _ => false)

/-- LDG and LDC, once decoded (R226). -/
def loadGlobal (w : LongWord) (k : AKind) (s : State) : Host.Outcome State Fault Refusal :=
  issue s w (shapeMem w (mLoad w) (.dst 1)) { entry := true, dests := [destOf w.d], late := txLate } (fun c => do
    need (!overQuota c) (.stall .quota)
    let ls ← checkLanes c k (tyBits (subNo w) / 8) (subNo w == 1 || subNo w == 3) (effLanes c)
    let work := Work.load (subNo w) (k == .ldc) (c.en.filter (inTx c)) ls
    need (!meetsBuffered c (ls.map (fun a => (a, tyBits (subNo w) / 8)))) (.stall .token)
    detRelease c (effOrd (ordOf w.m6) work)
    .ok (enterLong c [destOf w.d] (ordOf w.m6) work []))

/-- LDG (R226). -/
def execLdg (w : LongWord) (s : State) : Host.Outcome State Fault Refusal := loadGlobal w .load s
/-- LDG n32 in format K (R76). -/
def execLdgN32K (w : KWord) (s : State) : Host.Outcome State Fault Refusal := loadGlobal (kLong 3 w) .load s
/-- LDG n64 in format K (R76). -/
def execLdgN64K (w : KWord) (s : State) : Host.Outcome State Fault Refusal := loadGlobal (kLong 1 w) .load s
/-- LDC: LDG with a retained fill, on MT 0 and 7 (R226). -/
def execLdc (w : LongWord) (s : State) : Host.Outcome State Fault Refusal := loadGlobal w .ldc s

/-! ### Global writes in deterministic mode (R315 to R317) -/

/-- What a global write of a team does in a deterministic launch: it is performed, buffered, or waits. -/
inductive DetWay where
  | direct | buffer
  deriving DecidableEq, Repr

/-- The way of a buffered kind of global write: a team that has passed the token raises EDETWAIT, one that
does not hold it buffers the write, or waits when the buffer is full (R315, R317). -/
def detBuffered (c : Ic) : Except Stop DetWay :=
  if !recDet c.r || c.t.hasToken then .ok .direct
  else if c.t.hadToken then .error (edetwait 3)
  else if c.t.det.length ≥ 256 then .error (.stall .detFull)
  else .ok .buffer

/-- The way of a global write that needs the token at issue (R315). -/
def detToken (c : Ic) : Except Stop Unit :=
  if !recDet c.r || c.t.hasToken then .ok ()
  else if c.t.hadToken then .error (edetwait 3)
  else .error (.stall .token)


/-- A store of a team without the token whose order is taken at .grp or .team: it counts as performed there once it is buffered, so
that nothing waits for it as for an acquire (R316). -/
def storeCounts (o : Ord) (work : Work) : Bool :=
  match work with
  | .store _ _ | .storeBlock _ _ => decide (scopeRank (effOrd o work).scope ≤ 1)
  | _ => false

/-- A write enters the DET store buffer, and holds its entry of the table until it is performed (R109, R315). -/
def enterDet (c : Ic) (o : Ord) (work : Work) : Eff :=
  let id := c.s.stamp
  let o' := if storeCounts o work then { o with acq := false } else o
  let e : OttEntry := ⟨id, c.grp, c.pc, false, c.en, c.act, c.uni, c.tids, o', .buffered, [], [], none⟩
  { st := modTeam { c.s with stamp := id + 1 } c.core (fun t =>
      { t with det := t.det ++ [⟨id, c.grp, c.pc, 0, c.en, c.uni, c.tids, o, work⟩], ott := t.ott ++ [e] }) }

/-- A write to a peer's memory that follows a narrow FENCE with release in its thread is a release at .sys of what the fence
carries: it waits for the commit token and the drain while its team buffers such writes (R269, R293, R316). -/
def detFenced (c : Ic) (work : Work) : Except Stop Unit :=
  need (!(recDet c.r && workRemote work && !(fencesOf c.t (c.tids.map (·.2)) c.s.stamp).isEmpty)) (.stall .token)

/-- A posted global write: buffered or in the table (R109, R315). -/
def postGlobal (c : Ic) (o : Ord) (work : Work) : Except Stop Eff := do
  detRelease c (effOrd o work)
  detFenced c work
  match ← detBuffered c with
  | .direct => .ok (enterPosted c o work)
  | .buffer => .ok (enterDet c o work)

/-! ### STG (R226) -/

/-- The lines of a group's write set (R307). -/
def txLines (g : Group) : List Nat := sortNat (g.txw.map (fun w => w.pa / 128))

/-- A transactional store of a lane: buffered on OPEN with its policy and partition, a lane past 64 lines DOOMED,
discarded on DOOMED (R214, R307). -/
def txStore (s : State) (core ctx grp : Nat) (o : Ord) (a : Acc) (bs : List Byte) : State :=
  let pa := physAddr s ctx a.xl a.va false
  modGroup s core grp (fun g =>
    if (g.lane a.lane).txs != .opened then g
    else if (txLines g).contains (pa / 128) || (txLines g).length < 64 then
      { g with txw := g.txw ++ [⟨s.stamp, a.lane, a.va, pa, policy o a.xl, a.xl.wp, bs⟩] }
    else g.modLane a.lane (fun t => { t with txs := .doomed, txw := txStatus 4 0 0 0 }))

/-- STG, once decoded (R226, R307, R315). A store that the uniform port makes for lanes in transaction is the lowest
one's (log 61). -/
def storeGlobal (w : LongWord) (s : State) : Host.Outcome State Fault Refusal :=
  issue s w (shapeMem w (mStore w) (.src 1)) { entry := true, late := txLate } (fun c => do
    let o := ordOf w.m6
    let n := tyBits (subNo w) / 8
    let ls ← checkLanes c .store n (subNo w == 1 || subNo w == 3) (effLanes c)
    let s := ls.foldl (fun s a => match txOf c a.lane with
      | l :: _ => txStore s c.core c.ctx c.grp o { a with lane := l } (leBytes n (c.rd a.lane w.d).toNat)
      | [] => s) c.s
    let rest := (ls.filter (fun a => (txOf c a.lane).isEmpty)).map (fun a => (a, c.rd a.lane w.d))
    if rest.isEmpty then .ok (enterPosted { c with s := s } o .done)
    else postGlobal { c with s := s } o (.store (subNo w) rest))

/-- STG (R226). -/
def execStg (w : LongWord) (s : State) : Host.Outcome State Fault Refusal := storeGlobal w s
/-- STG n32 in format K (R76). -/
def execStgN32K (w : KWord) (s : State) : Host.Outcome State Fault Refusal := storeGlobal (kLong 3 w) s
/-- STG n64 in format K (R76). -/
def execStgN64K (w : KWord) (s : State) : Host.Outcome State Fault Refusal := storeGlobal (kLong 1 w) s

/-! ### Scratchpads (R227) -/

/-- A lane's scratchpad access, or its trap: natural alignment, range, peer window (R223, R227). -/
def checkSpad (c : Ic) (peer : Bool) (n : Nat) (l ea : Nat) : Except TrapInfo SAcc :=
  let size := recScratch c.r
  if ea % n != 0 then .error ⟨0x03, word ea, 0⟩
  else if !peer then
    (if ea + n ≤ size then .ok ⟨l, c.core, ea⟩ else .error ⟨0x05, word ea, 8⟩)
  else
    let rank := bitsAt ea 20 4
    let off := ea % 2 ^ 20
    if ea ≥ 2 ^ 24 || rank ≥ recTeams c.r || off + n > size then .error ⟨0x05, word ea, 8⟩
    else if rank == c.t.tix then .ok ⟨l, c.core, off⟩
    else if c.t.closed.contains rank then .error ⟨0x06, word ea, 0⟩
    else match (clusterCores c.s c.t)[rank]? with
      | some k => .ok ⟨l, k, off⟩
      | none => .error ⟨0x06, word ea, 0⟩

/-- The lanes' scratchpad accesses; the lowest failing lane's trap (R223). -/
def checkSpads (c : Ic) (peer : Bool) (n : Nat) (vas : List (Nat × Nat)) : Except Stop (List SAcc) :=
  vas.foldr (fun x r => match checkSpad c peer n x.1 x.2 with
    | .error t => .error (.trap t)
    | .ok a => match r with
      | .ok l => .ok (a :: l)
      | .error e => .error e) (.ok [])

/-- LDS and LDX (R227). -/
def loadSpad (w : LongWord) (peer : Bool) (s : State) : Host.Outcome State Fault Refusal :=
  issue s w (shapeMem w (mSLoad w) (.dst 1)) { entry := true, dests := [destOf w.d] } (fun c => do
    let ls ← checkSpads c peer (tyBits (subNo w) / 8) (effLanes c)
    .ok (enterLong c [destOf w.d] (ordOf w.m6) (.sload (subNo w) ls) []))

/-- STS and STX (R227). -/
def storeSpad (w : LongWord) (peer : Bool) (s : State) : Host.Outcome State Fault Refusal :=
  issue s w (shapeMem w (mSStore w) (.src 1)) { entry := true } (fun c => do
    let ls ← checkSpads c peer (tyBits (subNo w) / 8) (effLanes c)
    detRelease c (ordOf w.m6)
    .ok (enterPosted c (ordOf w.m6) (.sstore (subNo w) (ls.map (fun a => (a, c.rd a.lane w.d))))))

/-- LDS (R227). -/
def execLds (w : LongWord) (s : State) : Host.Outcome State Fault Refusal := loadSpad w false s
/-- LDS n32 in format K (R76). -/
def execLdsN32K (w : KWord) (s : State) : Host.Outcome State Fault Refusal := loadSpad (kLong 3 w) false s
/-- LDS n64 in format K (R76). -/
def execLdsN64K (w : KWord) (s : State) : Host.Outcome State Fault Refusal := loadSpad (kLong 1 w) false s
/-- STS (R227). -/
def execSts (w : LongWord) (s : State) : Host.Outcome State Fault Refusal := storeSpad w false s
/-- STS n32 in format K (R76). -/
def execStsN32K (w : KWord) (s : State) : Host.Outcome State Fault Refusal := storeSpad (kLong 3 w) false s
/-- STS n64 in format K (R76). -/
def execStsN64K (w : KWord) (s : State) : Host.Outcome State Fault Refusal := storeSpad (kLong 1 w) false s
/-- LDX (R227). -/
def execLdx (w : LongWord) (s : State) : Host.Outcome State Fault Refusal := loadSpad w true s
/-- STX (R227). -/
def execStx (w : LongWord) (s : State) : Host.Outcome State Fault Refusal := storeSpad w true s

/-! ### PREF, CMNT (R228, R231) -/

/-- PREF (R228): it never traps except in decode. -/
def execPref (w : LongWord) (s : State) : Host.Outcome State Fault Refusal :=
  issue s w { a := .src 1, b := .src 1 } { entry := true } (fun c => do
    need (!(w.m6.toNat % 4 == 1 && overQuota c)) (.stall .quota)
    .ok (enterPosted c Ord.relaxed (.pref (w.m6.toNat % 4) (subNo w + 1) ((effLanes c).map (·.2)))))

/-- The step of Table 4.7 at which a check ends; a miss ends before the walk's outcome is known, and PEERDEAD is tested
after step 6. -/
def checkStep : LaneTr → Nat
  | .ok _ => 8
  | .miss _ => 3
  | .notValid => 3
  | .trap t =>
    if t.cause == 0x08 then 7
    else match t.tinfo.toNat % 16 with
      | 0x0 => 1
      | 0x1 => 2
      | 0x3 => 4
      | 0x4 | 0x5 => 5
      | _ => 6

/-- Of the checks of the parts of one access, that whose step comes first decides (R61). -/
def firstCheck : List LaneTr → Option LaneTr
  | [] => none
  | x :: r => match firstCheck r with
    | some y => if checkStep y < checkStep x then some y else some x
    | none => some x

/-- The outcome of an access whose parts' checks are given: a failure names the lane's ea (R223). -/
def partsCheck (ea : Nat) (rs : List LaneTr) : LaneTr :=
  match firstCheck rs with
  | some (.trap t) => .trap { t with taddr := word ea }
  | some r => r
  | none => .notValid

/-- An access in several parts, each with its address, alignment and length, in every lane (R57, R62, R223): the parts of
each lane, or a stop. -/
def checkParts (c : Ic) (k : AKind) (lanes : List (Nat × Nat × List (Nat × Nat × Nat))) : Except Stop (List (List (Acc × Nat))) := do
  let check (p : Nat × Nat × Nat) : LaneTr := checkLane c.s c.core c.ctx c.svc c.g.walked k p.1 p.2.1 false
  let _ ← joined (lanes.map (fun x => (x.1, x.2.1, partsCheck x.2.1 (x.2.2.map check))))
  .ok (lanes.map (fun x => x.2.2.filterMap (fun p => match check p with
    | .ok y => some (⟨x.1, p.1, y⟩, p.2.2)
    | _ => none)))

/-- The CMNT operations (Table 13.1): every line is to lie in a page of MT 0 (R231). -/
def cmnt (w : LongWord) (op : Nat) (s : State) : Host.Outcome State Fault Refusal :=
  issue s w { sub := subNo w == op, a := .src 1, b := .src 1 } { entry := true } (fun c => do
    let ls ← checkParts c .cmnt ((effLanes c).map (fun x =>
      (x.1, x.2, (x.2, 1, 128) :: (List.range w.m6.toNat).map (fun i => (x.2 / 128 * 128 + 128 * (i + 1), 1, 128)))))
    .ok (enterPosted c Ord.relaxed (.cmnt op (ls.flatMap (fun l => l.map (fun x => { x.1 with va := x.1.va / 128 * 128 }))))))

/-- CMNT.pin (R231). -/
def execCmntPin (w : LongWord) (s : State) : Host.Outcome State Fault Refusal := cmnt w 0 s
/-- CMNT.unpin (R231). -/
def execCmntUnpin (w : LongWord) (s : State) : Host.Outcome State Fault Refusal := cmnt w 1 s
/-- CMNT.clean (R231). -/
def execCmntClean (w : LongWord) (s : State) : Host.Outcome State Fault Refusal := cmnt w 2 s
/-- CMNT.evict (R231). -/
def execCmntEvict (w : LongWord) (s : State) : Host.Outcome State Fault Refusal := cmnt w 3 s
/-- CMNT.l1inv (R231). -/
def execCmntL1inv (w : LongWord) (s : State) : Host.Outcome State Fault Refusal := cmnt w 4 s

/-! ### LDB, STB (R229, R230) -/

/-- The shape of a block access: payload registers and one of metadata from D; C = 0x00 is inline (R229). -/
def shapeBlock (w : LongWord) (m6 : Bool) (d : Nat → Use) : Shape :=
  { sub := 0x0D ≤ subNo w && subNo w ≤ 0x17, m6 := m6, d := d (payRegs (subNo w) + 1), a := .src 1, b := .src 1,
    c := if w.c == 0#8 then .imm else .src 1 }

/-- The part of a block at an address, with its alignment; one that runs onto another page is two, each with its own
translation (R57). -/
def blockParts (va align n : Nat) : List (Nat × Nat × Nat) :=
  let k := 2 ^ 16 - va % 2 ^ 16
  if n ≤ k then [(va, align, n)] else [(va, align, k), (va + k, 1, n - k)]

/-- The parts of a lane's block: payload and metadata, behind it or at C (R229, R230). -/
def laneBlock (c : Ic) (x : Nat × Nat) : List (Nat × Nat × Nat) :=
  let ty := subNo c.w
  if c.w.c == 0#8 then blockParts x.2 4 (payBytes ty + 4)
  else blockParts x.2 4 (payBytes ty) ++ blockParts (c.rd x.1 c.w.c).toNat (metaBytes ty) (metaBytes ty)

/-- The lanes' block accesses, by the pieces of payload and metadata (R229, R230). -/
def checkBlocks (c : Ic) (k : AKind) : Except Stop (List (List (Acc × Nat))) :=
  checkParts c k ((effLanes c).map (fun x => (x.1, x.2, laneBlock c x)))

/-- LDB (R229). -/
def execLdb (w : LongWord) (s : State) : Host.Outcome State Fault Refusal :=
  let nd := payRegs (subNo w)
  let ds := (List.range (nd + 1)).map (destAt w.d)
  issue s w (shapeBlock w (mLoad w) .dst) { entry := true, tx := some 2, dests := ds } (fun c => do
    need (!overQuota c) (.stall .quota)
    let ls ← checkBlocks c .ldb
    need (!meetsBuffered c ls.flatten) (.stall .token)
    let work := Work.loadBlock (subNo w) ls
    detRelease c (effOrd (ordOf w.m6) work)
    .ok (enterLong c ds (ordOf w.m6) work []))

/-- STB (R229). -/
def execStb (w : LongWord) (s : State) : Host.Outcome State Fault Refusal :=
  issue s w (shapeBlock w (mStore w) .src) { entry := true, tx := some 2 } (fun c => do
    let ty := subNo w
    let nd := payRegs ty
    let ls ← checkBlocks c .stb
    let work := (ls.zip c.lanes).map (fun x =>
      let regs := (List.range nd).map (fun q => (readRegAt c.g x.2 w.d q).toNat)
      let pay := substPayload ty ((regs.flatMap (fun r => leBytes 8 r)).take (payBytes ty))
      let md := substMeta ty (readRegAt c.g x.2 w.d nd).toNat
      (x.1, pay ++ leBytes (if w.c == 0#8 then 4 else metaBytes ty) md))
    postGlobal c (ordOf w.m6) (.storeBlock ty work))

end Sys2Proof.Machine
end

