-- ==== Sys2Proof/Machine/Copy.lean ====
section
/-! DEFINITION. Copy channels and publish buffers, OP9 0x120 to 0x126 (R232 to R240). -/

namespace Sys2Proof.Machine

/-- The handle of a channel's current command (R232). -/
def handleOf (k gen : Nat) : Word := word (k + 4 * gen)

/-- The channel that a handle names, unless it is stale (R232, R238). -/
def chanOf (t : Team) (h : Word) : Option (Nat × Channel) :=
  let k := h.toNat % 4
  match t.chan[k]? with
  | some c => if h.toNat / 2 ^ 32 == 0 && h.toNat / 4 == c.gen && c.st != .idle then some (k, c) else none
  | none => none

/-- A channel with nothing to do, as at dispatch (Table 13.2). -/
def Channel.idle : Channel :=
  { st := .idle, gen := 0, kind := .cpy, grp := 0, ctx := 0, src := 0, dst := 0, len := 0, mask := 0, hint := 0, p := 0,
    fkind := 0, fva := 0, pubId := none, held := [], olds := [], after := 0, tids := [], open_ := false, waitRemote := false, paused := false }

/-- The shape of CPY, CPYM and CPYG (Table 13.3). -/
def shapeCpy (w : LongWord) (sub : Bool) : Shape :=
  { sub := sub, m6 := w.m6.toNat < 4, d := .dst 1, a := .src 1, b := .src 1, c := .src 1, port := .uniform }

/-- The first destination page of a CPYG: its buffer id, the kind of its failure, or that it is under
migration (R236, R69). -/
def firstPage (s : State) (ctx va : Nat) : Except (Option Nat) Nat :=
  match resolve s ctx va with
  | .ok x => if x.mt != 7 then .error (some 4) else if !x.w then .error (some 6) else .ok x.aux
  | .error k => if k == 2 && s.migrating.any (fun m => m.1 == ctx && m.2 == va / 2 ^ 16 * 2 ^ 16) then .error none else .error (some k)

/-- What a copy names that does not exist: kind HOLE, at the value that names it. -/
def copyHole (v : Nat) : Stop := .trap ⟨0x05, word v, 8⟩

/-- The checks of R236 on the operands: alignment, the scratchpad range, the other bits of C, the mask and
the windows of its ranks. -/
def checkCopy (c : Ic) (kind : CopyKind) (src dst n mask craw : Nat) : Except Stop Unit := do
  let al (v : Nat) : Stop := .trap ⟨0x03, word v, 0⟩
  need (src % 32 == 0) (al src)
  need (dst % 32 == 0) (al dst)
  need (n % 32 == 0 && n < 2 ^ 40) (al n)
  let size := recScratch c.r
  match kind with
  | .cpy =>
    need (craw < 2 ^ 20) (copyHole craw)
    need (dst + n ≤ size) (copyHole dst)
  | .cpym =>
    need (bitsAt craw 20 12 == 0 && craw / 2 ^ 44 == 0) (copyHole craw)
    need (dst + n ≤ size) (copyHole dst)
    need (mask != 0 && mask < 2 ^ recTeams c.r) (copyHole craw)
    need (!(c.t.closed.any (fun r => nbit mask r))) (.trap ⟨0x06, word craw, 0⟩)
  | .cpyg => .ok ()
  | .cpygSpad => need (src + n ≤ size) (copyHole src)

/-- Starts a channel: its handle, and the count of open CPYG commands (R232, R236). Two points the spec leaves open (DESIGN CHOICE,
log 94): GEN rises before the handle is formed, so that a channel's first command has GEN 1; and a copy of no bytes is DONE at
once, a CPYM without an arrival, a CPYG without a translation, a count, or an effect on TORN. -/
def startCopy (w : LongWord) (kind : CopyKind) (sub : Bool) (s : State) : Host.Outcome State Fault Refusal :=
  issue s w (shapeCpy w sub) { entry := true, tx := some 2, dests := [destOf w.d] } (fun c => do
    let src := (c.rd 0 w.a).toNat
    let craw := (c.rd 0 w.c).toNat
    let n := if w.lit.isSome then litNat w else (c.rd 0 w.b).toNat
    let pub := kind == .cpyg || kind == .cpygSpad
    let dst := if pub then craw else craw % 2 ^ 20
    let mask := if kind == .cpym then bitsAt craw 32 12 else 0
    checkCopy c kind src dst n mask craw
    let k ← (match c.t.chan.findIdx? (fun x => x.st == .idle) with
      | some k => .ok k
      | none => .error (.stall .channel))
    let page := if pub && n != 0 then firstPage c.s c.ctx dst else .error (some 0)
    need (page != .error none || !pub || n == 0) (.stall .order)
    let gen := (((c.t.chan[k]?).map (·.gen)).getD 0 + 1) % 2 ^ 30
    let base : Channel :=
      { Channel.idle with
        st := if n = 0 then .done else .active, gen := gen, kind := kind, grp := c.grp, ctx := c.ctx, src := src, dst := dst,
        len := n, mask := mask, hint := w.m6.toNat % 4, after := c.s.stamp, tids := c.tids.map (·.2) }
    let ch : Channel := if !pub || n = 0 then base else
      match page with
      | .ok id => { base with pubId := some id, open_ := true }
      | .error kd => { base with st := .stopped, fkind := kd.getD 0, fva := dst }
    let s := modTeam c.s c.core (fun t => { t with chan := t.chan.set k ch })
    let s := match ch.pubId with
      | some id => modCtx s c.ctx (fun x => { x with openCpyg := tset x.openCpyg id (tgetD x.openCpyg id 0 + 1) })
      | none => s
    .ok (enterLong { c with s := s } [destOf w.d] Ord.relaxed .values [(0, handleOf k gen)]))

/-- CPY (R236). -/
def execCpy (w : LongWord) (s : State) : Host.Outcome State Fault Refusal := startCopy w .cpy (w.sub6 == 0#6) s
/-- CPYM (R236). -/
def execCpym (w : LongWord) (s : State) : Host.Outcome State Fault Refusal := startCopy w .cpym (w.sub6 == 0#6) s
/-- CPYG from global memory (R236). -/
def execCpyg (w : LongWord) (s : State) : Host.Outcome State Fault Refusal := startCopy w .cpyg (w.sub6 == 0#6) s
/-- CPYG from the scratchpad (R236). -/
def execCpygSpad (w : LongWord) (s : State) : Host.Outcome State Fault Refusal := startCopy w .cpygSpad (subNo w == 1) s

/-- WPTR (R237). -/
def execWptr (w : LongWord) (s : State) : Host.Outcome State Fault Refusal :=
  issue s w { shapeW w with d := .dst 1, a := .src 1, port := .uniform } { entry := true, dests := [destOf w.d] } (fun c =>
    let x := match chanOf c.t (c.rd 0 w.a) with
      | some (_, ch) => word ch.p
      | none => word (2 ^ 64 - 1)
    .ok (enterLong c [destOf w.d] Ord.relaxed .values [(0, x)]))

/-- CWAIT and CWAIT.stat (R238): a stale handle has its status at once. The status is an acquire at .team: what follows in
the group is performed after it. -/
def waitCopy (w : LongWord) (sub : Nat) (s : State) : Host.Outcome State Fault Refusal :=
  issue s w { shapeW w with sub := subNo w == sub, d := .dst 1, a := .src 1, port := .uniform } { entry := true, dests := [destOf w.d] } (fun c =>
    match chanOf c.t (c.rd 0 w.a) with
    | none => .ok (enterLong c [destOf w.d] Ord.relaxed .values [(0, staleWord)])
    | some (k, ch) =>
      .ok { enterLong c [destOf w.d] ⟨true, false, false, .team, none⟩ (.cwait k ch.gen (sub == 0)) [] with
            post := fun s => serveWaiters s c.core })

/-- CWAIT (R238). -/
def execCwait (w : LongWord) (s : State) : Host.Outcome State Fault Refusal := waitCopy w 0 s
/-- CWAIT.stat (R238). -/
def execCwaitStat (w : LongWord) (s : State) : Host.Outcome State Fault Refusal := waitCopy w 1 s

/-- CCAN (R239). -/
def execCcan (w : LongWord) (s : State) : Host.Outcome State Fault Refusal :=
  issue s w { shapeW w with a := .src 1, port := .uniform } { entry := true } (fun c =>
    let s := match chanOf c.t (c.rd 0 w.a) with
      | some (k, ch) =>
        if ch.st == .stopped then modTeam c.s c.core (fun t => { t with chan := lmod t.chan k (fun x => { x with st := .cancelled }) })
        else cancelChan c.s c.core k ch
      | none => c.s
    .ok { enterPosted { c with s := s } Ord.relaxed .done with post := fun s => serveWaiters s c.core })

/-- PUBL (R240). -/
def execPubl (w : LongWord) (s : State) : Host.Outcome State Fault Refusal :=
  issue s w { shapeW w with m6 := w.m6.toNat ≤ 4, a := .src 1, port := .uniform } { entry := true, tx := some 2 } (fun c => do
    let ls ← checkLanes c .publ 1 false [(0, (c.rd 0 w.a).toNat)]
    let o : Ord := ⟨false, true, false, scopeOf (w.m6.toNat % 8), none⟩
    match ls with
    | a :: _ =>
      match ← detBuffered c with
      | .direct => .ok (enterPosted c o (.publ a o.scope))
      | .buffer => .ok (enterDet c o (.publ a o.scope))
    | [] => .ok (enterPosted c o .done))

/-- PUBL_SWAP: a PUBL that nothing earlier holds back swaps the front at every slice, or latches ECOPY; it
is performed then (R240, R379). The cursor's id names its entry. -/
def execPublSwap (s : State) : Host.Outcome State Fault Refusal :=
  match tget s.teams s.iss.core with
  | none => .fault .notEnabled
  | some t =>
    match (t.ott.find? (fun e => e.id == s.iss.id)).map (realEntry t) with
    | some e =>
      (match e.work with
       | .publ _ _ => if inOrder s (teamCtx s t) t e then .next (performEntry s s.iss.core (teamCtx s t) e) else .fault .notEnabled
       | _ => .fault .notEnabled)
    | none => .fault .notEnabled

/-! ### Delivery (R233, R236) -/

/-- A channel keeps the translations it has used last. -/
def Channel.hold (c : Channel) (x : Xl) : Channel :=
  if x.heap then c else { c with held := (x :: c.held.filter (fun y => y != x)).take 3 }

/-- A channel stops at its write pointer with a fault kind at an address (R233). -/
def stopChan (s : State) (core k : Nat) (c : Channel) (kind va : Nat) : State :=
  serveWaiters (modTeam (closeCpyg s c false) core (fun t =>
    { t with chan := t.chan.set k { c with st := .stopped, fkind := kind, fva := va, open_ := false, waitRemote := false } })) core

/-- The cores that a channel delivers into: its own, or those of the ranks in the mask (R236). -/
def chanCores (s : State) (core : Nat) (c : Channel) : List Nat :=
  match tget s.teams core with
  | some t => if c.kind == .cpym then (clusterCores s t).zipIdx.filterMap (fun x => if nbit c.mask x.2 then some x.1 else none) else [core]
  | none => []

/-- The last byte of a copy is delivered: DONE; a CPYM arrives at every rank (R236). -/
def finishChan (s : State) (core k : Nat) (c : Channel) : State :=
  let s := if c.kind == .cpym then
      (chanCores s core c).foldl (fun s r => modTeam s r (fun t => settleCc s.stamp 2048 { t with cc := (t.cc + 1) % 2 ^ 32 })) s
    else closeCpyg s c true
  serveWaiters (modTeam s core (fun t => { t with chan := t.chan.set k { c with st := .done, open_ := false } })) core

/-- Every L1 drops the lines of `[pa, pa + n)`: the back of a publish buffer has new bytes, and no load that finds it as the
front is to see older ones (R240). -/
def dropBack (s : State) (pa n : Nat) : State := s.teams.foldl (fun s t => l1DropRange s t.1 pa n) s

/-- Delivers a sector's bytes at the destination of a channel and advances P (R233, R236); a sector whose destination page
is under migration is read again later (R68). -/
def deliver (s : State) (core k : Nat) (c : Channel) (bs : List Byte) : State :=
  let go (s : State) (c : Channel) : State :=
    let c := { c with p := c.p + 32, olds := c.olds.filter (fun o => decide (c.p + 32 ≤ o.1)), waitRemote := false }
    if c.p ≥ c.len then finishChan s core k c else modTeam s core (fun t => { t with chan := t.chan.set k c })
  match c.kind with
  | .cpy | .cpym => go ((chanCores s core c).foldl (fun s r => spadWrite s r (c.dst + c.p) bs) s) c
  | _ =>
    let va := c.dst + c.p
    match chanXl s c va with
    | .error kd =>
      if sideWaits s c va then modTeam s core (fun t => { t with chan := t.chan.set k { c with waitRemote := false } })
      else stopChan s core k c kd va
    | .ok x =>
      if x.mt != 7 || some x.aux != c.pubId then stopChan s core k c 4 va
      else if !x.w then stopChan s core k c 6 va
      else
        let pa := physAddr s c.ctx x va true
        if !populated pa 32 then stopChan (logViolation s pa) core k c 8 va
        else go (dropBack (homeWrite (l2Touch s pa x.cp x.wp true) pa bs) pa 32) (c.hold x)

/-- What the channel's group, or a thread that issued the command, issued before it is performed: accesses, those in the DET
buffer among them, and stores in the combining buffer (R236, R290, Table 16.3). -/
def groupBefore (t : Team) (c : Channel) : Bool :=
  !(t.ott.any (fun e => e.of c.grp c.tids && decide (e.id < c.after) && !otherAgent e.work))
  && !combinedBefore t c.grp c.tids c.after

/-- A channel may read its next sector: it is active, not paused, no remote read of it is outstanding, and
what its group issued before the command is performed before it begins (R234, R236): one that has begun waits for no
acknowledgement (R350). -/
def chanReady (t : Team) (c : Channel) : Bool :=
  c.st == .active && !c.paused && !c.waitRemote && (c.p != 0 || groupBefore t c)
  && !(t.stopping && c.p % 2 ^ 16 == 0)

/-- One sector of a channel: it is read and delivered, or asked of its owner, or the channel stops (R233, R236). -/
def copySector (s : State) (core k : Nat) (c : Channel) : State :=
  if c.kind == .cpygSpad then
    (if (List.range 4).any (fun i => spadPoison s core (c.src + c.p + 8 * i)) then stopChan (logLost s 2 core) core k c 8 (c.src + c.p)
     else deliver s core k c (spadRead s core (c.src + c.p) 32))
  else
    let va := c.src + c.p
    match chanXl s c va with
    | .error kd => stopChan s core k c kd va
    | .ok x =>
      let svc := ((tget s.teams core).map (isService s)).getD false
      if !admits .copySrc x.mt then stopChan s core k c (if x.mt == 6 && !svc then 5 else 4) va
      else
        let pa := physAddr s c.ctx x va false
        let c := c.hold x
        if x.mt == 5 then
          (if s.peerdead.getLsbD x.aux then stopChan s core k c 8 va
           else
             let r := Req.base s.stamp .read x.aux c.ctx core c.grp 0 k 0 va pa 32 (incOf s c.ctx x.aux)
             newReq (modTeam s core (fun t => { t with chan := t.chan.set k { c with waitRemote := true } })) { r with op := 3, n := word c.gen, cp := c.hint, wp := x.wp })
        else if !populated pa 32 then stopChan (logViolation s pa) core k c 8 va
        else if lostAt s pa 32 then stopChan (meetUpsets s pa 32) core k c 8 va
        else deliver (l2Touch (meetUpsets s pa 32) pa c.hint x.wp false) core k c (c.layOlds (memRead s.mem pa 32))

/-- COPY_SECTOR_DELIVERED: the channel in the cursor's id delivers its next sector or stops (R233). -/
def execCopySectorDelivered (s : State) : Host.Outcome State Fault Refusal :=
  match tget s.teams s.iss.core with
  | none => .fault .notEnabled
  | some t =>
    match t.chan[s.iss.id]? with
    | some c => if chanReady t c && !chanWaits s c then .next (copySector s s.iss.core s.iss.id c) else .fault .notEnabled
    | none => .fault .notEnabled

/-- COPY_PREEMPT_PAUSE: at a multiple of 64 KiB, or at once when its next sector waits on a remote answer (R234). -/
def execCopyPreemptPause (s : State) : Host.Outcome State Fault Refusal :=
  match tget s.teams s.iss.core with
  | none => .fault .notEnabled
  | some t =>
    match t.chan[s.iss.id]? with
    | some c =>
      if t.stopping && c.st == .active && !c.paused && (c.p % 2 ^ 16 == 0 || c.waitRemote) then
        .next (modTeam (dropChanReads s s.iss.core s.iss.id) s.iss.core (fun t =>
          { t with chan := lmod t.chan s.iss.id (fun c => { c with paused := true, waitRemote := false, held := [] }) }))
      else .fault .notEnabled
    | none => .fault .notEnabled

end Sys2Proof.Machine
end

