-- ==== Sys2Proof/Machine/Journal.lean ====
section
/-! DEFINITION. The journal instructions, OP9 0x180 to 0x184, and the journal's events (R369 to R377). -/

namespace Sys2Proof.Machine

/-- EJOURNAL with a reason at a position (R369, Table 23.3). -/
def ejournal (s : State) (ctx reason : Nat) (pos : Word) : TrapInfo :=
  ⟨0x0E, pos, word (reason + 2 ^ 8 * ((ctxOf s ctx).jpartner.toNat % 16))⟩

/-- The reason of a gate without a partner: 1 NOPART, 2 LOST (Table 23.2). -/
def gateReason (c : Context) : Option Nat :=
  match c.gate with
  | .noPart => some 1
  | .lost => some 2
  | _ => none

/-- The 32 bytes of a record (Table 23.1). -/
def recordBytes (pkg kind pos : Nat) (a p0 p1 : Word) : List Byte :=
  leBytes 8 a.toNat ++ leBytes 8 (kind + 2 ^ 4 * pkg + 2 ^ 16 * (pos % 2 ^ 48)) ++ leBytes 8 p0.toNat ++ leBytes 8 p1.toNat

/-- JAPP (R371): it reaches the gate behind the group's earlier EMITs (R368). -/
def execJapp (w : LongWord) (s : State) : Host.Outcome State Fault Refusal :=
  issue s w { form := w.lit.isNone, sub := 1 ≤ subNo w && subNo w ≤ 4, m6 := layoutZ w, a := .src 3 }
    { entry := true, tx := some 2, flag := recJrnl } (fun c => do
    let j := ctxOf c.s c.ctx
    need (j.gate != .noPart) (.trap (ejournal c.s c.ctx 1 c.g.gjp))
    need (j.jpos + c.lanes.length ≤ j.tb + 2 ^ 20) (.trap (ejournal c.s c.ctx 4 c.g.gjp))
    detToken c
    need (!c.t.ott.any (fun x => x.grp == c.grp && isEmit (realEntry c.t x).work)) (.stall .order)
    let recs := c.lanes.zipIdx.map (fun l => (⟨j.jpos + l.2,
      recordBytes c.s.pkgid (subNo w) (j.jpos + l.2) (c.rd l.1 w.a) (readRegAt c.g l.1 w.a 1) (readRegAt c.g l.1 w.a 2)⟩ : JRec))
    let s := modCtx c.s c.ctx (fun j => { j with records := j.records ++ recs, jpos := j.jpos + recs.length })
    let s := modGroup s c.core c.grp (fun g => { g with gjp := word (j.jpos + recs.length) })
    .ok (enterPosted { c with s := sendRecords s c.ctx recs.length } Ord.relaxed .done))

/-- EMIT: a release store at .sys into the gate with the group's threshold (R372). -/
def execEmit (w : LongWord) (s : State) : Host.Outcome State Fault Refusal :=
  issue s w (shapeMem w (layoutZ w) (.src 1)) { entry := true, tx := some 2, flag := fun r => recJrnl r && !recReplay r } (fun c => do
    let ls ← checkLanes c .emit (tyBits (subNo w) / 8) false (effLanes c)
    match gateReason (ctxOf c.s c.ctx) with
    | some r => .error (.trap (ejournal c.s c.ctx r c.g.gjp))
    | none =>
      detToken c
      .ok (enterPosted c ⟨false, true, false, .sys, none⟩ (.emit (ls.map (fun a => (a, c.rd a.lane w.d))) (subNo w) c.g.gjp.toNat)))

/-- The position that a JSYNC waits for, kept from its first issue (R373). -/
def syncPos (c : Ic) (first : Nat) : Nat :=
  match c.g.stall with
  | some (.journal p, _) => p
  | _ => first

/-- JSYNC and JSYNC.ctx (R373). -/
def journalSync (w : LongWord) (sub : Bool) (first : Ic → Nat) (s : State) : Host.Outcome State Fault Refusal :=
  issue s w { form := w.lit.isNone, sub := sub, m6 := layoutZ w, port := .uniform } { blocking := true, tx := some 2, flag := recJrnl } (fun c => do
    let j := ctxOf c.s c.ctx
    let p := syncPos c (first c)
    if c.g.stall.any (fun x => x.1 == .journal 0) then .ok { st := c.s } else
    match gateReason j with
    | some r => .error (.trap (ejournal c.s c.ctx r (word p)))
    | none => if p ≤ j.cack then .ok { st := c.s } else .error (.stall (.journal p)))

/-- JSYNC: the group's own position (R373). -/
def execJsync (w : LongWord) (s : State) : Host.Outcome State Fault Refusal :=
  journalSync w (w.sub6 == 0#6) (fun c => c.g.gjp.toNat) s
/-- JSYNC.ctx: JPOS at issue (R373). -/
def execJsyncCtx (w : LongWord) (s : State) : Host.Outcome State Fault Refusal :=
  journalSync w (subNo w == 1) (fun c => (ctxOf c.s c.ctx).jpos) s

/-- A JSYNC of a group whose wait is not over raises EJOURNAL with a reason (R373). -/
def failSync (s : State) (reason core grp : Nat) : Option State :=
  match tget s.teams core, groupAt s core grp with
  | some t, some g =>
    match g.stall, issuePc g with
    | some (.journal p, _), some pc =>
      if p = 0 then none
      else some (takeTrap s core grp (ejournal s (teamCtx s t) reason (word p)) pc pc false false (activeLanes g pc))
    | _, _ => none
  | _, _ => none

/-- JSYNC_STALL_TIMEOUT: CACK has not advanced for 2^24 core cycles of the wait (R373). -/
def execJsyncStallTimeout (s : State) : Host.Outcome State Fault Refusal :=
  match failSync s 3 s.iss.core s.iss.grp with
  | some t => .next t
  | none => .fault .notEnabled

/-- A context's gate is NOPART or LOST: every JSYNC that waits on it raises EJOURNAL (R373). -/
def endSyncs (s : State) (ctx : Nat) : State :=
  match gateReason (ctxOf s ctx) with
  | none => s
  | some r =>
    ((s.teams.filter (fun t => teamCtx s t.2 == ctx)).flatMap (fun t => t.2.groups.map (fun g => (t.1, g.1)))).foldl
      (fun s x => (failSync s r x.1 x.2).getD s) s

/-- A context loses its partner (R367, R373, R375). -/
def partnerLost (s : State) (ctx : Nat) : State := endSyncs (gateLost s ctx) ctx

/-- Every context whose partner is a package that is marked dead loses it (R367). -/
def losePartner (s : State) (peer : Nat) : State :=
  s.ctxs.foldl (fun s e => if partnerOf e.2 == some peer then partnerLost s e.1 else s) s

/-- The journal's base rises: records below it are dropped here and at the partner (R374). -/
def truncate (s : State) (ctx base : Nat) : State :=
  let s := modCtx s ctx (fun c => { c with
    tb := base, records := c.records.filter (fun r => r.pos ≥ base), jsent := if c.jsent < base then base else c.jsent,
    cack := if gateLive c then (if c.cack < base then base else c.cack) else base })
  let s := { s with reqs := s.reqs.filter (fun r => !(r.kind == .record && r.ctx == ctx && decide (r.pa < base))) }
  let c := ctxOf s ctx
  match (if gateLive c then partnerOf c else none) with
  | some p => settleGate (newReq s (Req.base s.stamp .trunc p ctx 0 0 0 0 0 0 base 0 (incOf s ctx p))) ctx
  | none => s

/-- JTRUNC (R374). -/
def execJtrunc (w : LongWord) (s : State) : Host.Outcome State Fault Refusal :=
  issue s w { form := w.lit.isNone, sub := w.sub6 == 0#6, m6 := layoutZ w, a := .src 1, port := .uniform } { entry := true, flag := recJrnl } (fun c => do
    let j := ctxOf c.s c.ctx
    let t := c.rd 0 w.a
    if t.toNat ≤ j.tb then .ok (enterPosted c Ord.relaxed .done)
    else
      need (t.toNat ≤ j.jack) (.trap (ejournal c.s c.ctx 5 t))
      .ok (enterPosted { c with s := truncate c.s c.ctx t.toNat } Ord.relaxed .done))

/-- JSEED (R375, Table 23.5). -/
def execJseed (w : LongWord) (s : State) : Host.Outcome State Fault Refusal :=
  issue s w { sub := w.sub6 == 0#6, m6 := layoutZ w, d := .dst 1, a := .src 1, litA := true, port := .uniform }
    { entry := true, dests := [destOf w.d], flag := recJrnl } (fun c =>
    let peer := (if w.lit.isSome then litNat w else (c.rd 0 w.a).toNat) % 16
    let j := ctxOf c.s c.ctx
    let why := seedWhy c.s c.ctx peer
    if why != 0 then .ok (enterLong c [destOf w.d] Ord.relaxed .values [(0, word (2 ^ 56 * why + 2 ^ 63))])
    else
      let copied := word ((j.jpos - j.tb) % 2 ^ 48)
      .ok { enterLong c [destOf w.d] Ord.relaxed .jseed [] with
            post := fun s => startSeed s c.ctx peer (some (c.core, c.s.stamp, copied)) })

/-! ### The partner's side, and the acknowledgement (R367, R374) -/

/-- The base of a partner store. -/
def storeBase (s : State) (pkg ctx : Nat) : Option Nat := (s.partnerTb.find? (fun x => x.1 == pkg && x.2.1 == ctx)).map (·.2.2)

/-- The records of a partner store. -/
def storeOf (s : State) (pkg ctx : Nat) : List (Nat × List Byte) :=
  (s.partnerJ.filter (fun x => x.1 == pkg && x.2.1 == ctx)).map (fun x => (x.2.2.1, x.2.2.2))

/-- The highest position below which a store holds every record, from its base. -/
def heldUpTo (recs : List (Nat × List Byte)) (p : Nat) : Nat → Nat
  | 0 => p
  | n + 1 => if recs.any (fun r => r.1 == p) then heldUpTo recs (p + 1) n else p

/-- Sends an answer without data. -/
def answer (s : State) (pkg req yst : Nat) (data : List Byte) : State :=
  sendTo s pkg (.remoteAnswer req yst data s.inc)

/-- A store's base rises to `base`. -/
def setBase (s : State) (pkg ctx base : Nat) : State :=
  { s with
    partnerTb := (s.partnerTb.filter (fun x => !(x.1 == pkg && x.2.1 == ctx))) ++ [(pkg, ctx, base)],
    partnerJ := s.partnerJ.filter (fun x => !(x.1 == pkg && x.2.1 == ctx && x.2.2.1 < base)) }

/-- The partner's acknowledgement. -/
def ackStore (s : State) (pkg ctx : Nat) : State :=
  let recs := storeOf s pkg ctx
  sendTo s pkg (.journalAck s.pkgid ctx (heldUpTo recs ((storeBase s pkg ctx).getD 0) recs.length))

/-- JOURNAL_RECORD_AT_PARTNER (R367): a record of another package is stored once by its key. -/
def execJournalRecordAtPartner (s : State) : Host.Outcome State Fault Refusal :=
  match s.msg with
  | some (.journalRecord pkg ctx pos base data req inc) =>
    if inc != s.inc then .next (answer s pkg req 2 [])
    else
      let s := if (storeBase s pkg ctx).isNone then setBase s pkg ctx base else s
      let recs := storeOf s pkg ctx
      if pos < (storeBase s pkg ctx).getD 0 || recs.any (fun r => r.1 == pos) then .next (ackStore s pkg ctx)
      else if recs.length ≥ 2 ^ 20 || s.partnerJ.length ≥ 2 ^ 22 then .next (answer s pkg req 1 [])
      else .next (ackStore { s with partnerJ := s.partnerJ ++ [(pkg, ctx, pos, data)] } pkg ctx)
  | _ => .fault .notEnabled

/-- JOURNAL_TRUNCATION at the partner: the stored records below the new base are dropped (R374). -/
def execJournalTruncationAtPartner (s : State) : Host.Outcome State Fault Refusal :=
  match s.msg with
  | some (.journalTruncation pkg ctx base req) =>
    let s := if (storeBase s pkg ctx).all (fun b => b < base) then setBase s pkg ctx base else s
    .next (answer s pkg req 0 [])
  | _ => .fault .notEnabled

/-- JOURNAL_ACK (R365, R367, R368): CACK and JACKPOS follow the current partner's acknowledgement, seeding
may complete, and the emits that it covers are performed. -/
def execJournalAck (s : State) : Host.Outcome State Fault Refusal :=
  match s.msg with
  | some (.journalAck pkg ctx upTo) =>
    let c := ctxOf s ctx
    if !(gateLive c && partnerOf c == some pkg) then .next s
    else
      let upTo := if upTo > c.jpos then c.jpos else upTo
      let s := { s with reqs := s.reqs.filter (fun r => !(r.kind == .record && r.ctx == ctx && r.pa < upTo)) }
      .next (settleGate (modCtx s ctx (fun c => { c with
        cack := if c.cack < upTo then upTo else c.cack, jack := if c.jack < upTo then upTo else c.jack })) ctx)
  | _ => .fault .notEnabled

/-! ### Replay (R377) -/

/-- The bytes of a journal image: a header of TB, COUNT and the key, then the gapless run of records. -/
def replayImage (origin ctx base : Nat) (recs : List (Nat × List Byte)) : List Byte :=
  let run := (List.range (heldUpTo recs base recs.length - base)).flatMap (fun i =>
    ((recs.find? (fun r => r.1 == base + i)).map (·.2)).getD [])
  leBytes 8 base ++ leBytes 8 (run.length / 32) ++ leBytes 8 (origin + 2 ^ 4 * ctx) ++ leBytes 8 0 ++ run

/-- The position that a store's records reach without a gap from its base. -/
def storeReach (x : Nat × Nat × List (Nat × List Byte)) : Nat := heldUpTo x.2.2 x.2.1 x.2.2.length

/-- The store that the firmware uses, of those for a key (R377): this package's own and those of other packages, none marked dead;
the one that reaches furthest, and of two that reach the same position the current JPARTNER's. -/
def replayStore (s : State) (origin ctx : Nat) (stores : List (Nat × Nat × List (Nat × List Byte))) (partner : Option Nat) :
    Option (Nat × Nat × List (Nat × List Byte)) :=
  let own := match storeBase s origin ctx with
    | some b => [(s.pkgid, b, storeOf s origin ctx)]
    | none => []
  (own ++ stores.filter (fun x => x.1 != s.pkgid && nbit s.live x.1 && !s.peerdead.getLsbD x.1)).foldl (fun best x =>
    match best with
    | none => some x
    | some y => if storeReach y < storeReach x || (storeReach y == storeReach x && partner == some x.1) then some x else some y) none

/-- `n` bytes from an address are mapped to consecutive frames, with MT 0 and W = 0 (R377). -/
def mappedReadOnly (s : State) (ctx va pa n : Nat) : Bool :=
  va % 2 ^ 16 == 0 && (List.range ((n + 2 ^ 16 - 1) / 2 ^ 16)).all (fun i =>
    match resolve s ctx (va + 2 ^ 16 * i) with
    | .ok x => x.mt == 0 && !x.w && physAddr s ctx x (va + 2 ^ 16 * i) false == pa + 2 ^ 16 * i
    | .error _ => false)

/-- REPLAY_JOURNAL_FETCH (R377): the firmware fetches a store, places its image in frames and writes the page table entries
that map it read-only. The current JPARTNER is that of the context here, when its package is the origin. -/
def execReplayJournalFetch (s : State) : Host.Outcome State Fault Refusal :=
  match s.msg with
  | some (.replayFetch origin ctx stores partner into va pa entries) =>
    match replayStore s origin ctx stores (if origin = s.pkgid then partnerOf (ctxOf s ctx) else partner) with
    | none => .fault .notEnabled
    | some x =>
      let bs := replayImage origin ctx x.2.1 x.2.2
      let s := { s with mem := memPatch s.mem entries }
      if populated pa bs.length && mappedReadOnly s into va pa bs.length then .next (homeWrite s pa bs) else .fault .notEnabled
  | _ => .fault .notEnabled

end Sys2Proof.Machine
end

