-- ==== Sys2Proof/Machine/Engine.lean ====
section
/-! DEFINITION. The matrix engine: operand geometry, accumulation, checks and check points (R241 to R256). -/

namespace Sys2Proof.Machine

/-! ### The parameter block (Tables 14.1 and 14.2) -/

/-- A field of a parameter word. -/
def pw (ws : List Word) (i lo w : Nat) : Nat := bitsAt (ws.getD i 0).toNat lo w

/-- M of a pass. -/
def passM (ws : List Word) : Nat := 64 * (pw ws 0 0 2 + 1)
/-- N of a pass. -/
def passN (ws : List Word) : Nat := 64 * (pw ws 0 2 2 + 1)
/-- K of a pass. -/
def passK (ws : List Word) : Nat := 32 * (pw ws 0 4 9 + 1)
/-- First row of the region. -/
def passRow (ws : List Word) : Nat := 64 * pw ws 1 2 2
/-- First column of the region. -/
def passCol (ws : List Word) : Nat := 64 * pw ws 1 4 2
/-- Tiles in a row of the grid, nc. -/
def passNc (ws : List Word) : Nat := (passCol ws + passN ws + 127) / 128

/-- r and g of a type of Table 14.2; 0 for a type outside it. -/
def mmaClass (t : Nat) : Nat :=
  match t with
  | 0x09 | 0x0A => 1
  | 0x0B | 0x0C | 0x0D | 0x10 | 0x11 | 0x15 | 0x16 => 2
  | 0x0E | 0x0F | 0x12 | 0x13 | 0x14 | 0x17 => 4
  | _ => 0

/-- A plain type of Table 14.2. -/
def mmaPlain (t : Nat) : Bool := 0x09 ≤ t && t ≤ 0x0C

/-- The tiles of the region: logical id, row and column in the grid (R246). -/
def passTiles (ws : List Word) : List (Nat × Nat × Nat) :=
  let r0 := passRow ws / 128
  let c0 := passCol ws / 128
  let r1 := (passRow ws + passM ws - 1) / 128
  let c1 := (passCol ws + passN ws - 1) / 128
  (List.range (r1 - r0 + 1)).flatMap (fun i => (List.range (c1 - c0 + 1)).map (fun j =>
    (pw ws 1 0 2 + (r0 + i) * passNc ws + (c0 + j), r0 + i, c0 + j)))

/-! ### Operands (R247 to R249) -/

/-- One operand of a pass: from registers, a scratchpad or a reservation. -/
structure Opnd where
  ty    : Nat
  reg   : Bool
  first : Nat
  rank  : Nat
  off   : Nat
  rp    : Nat
  tp    : Nat
  rot   : Nat
  rsv   : Nat
  rows  : Nat
  k     : Nat
  deriving DecidableEq, Repr

/-- Operand A, or B. -/
def passOpnd (ws : List Word) (isB : Bool) : Opnd :=
  let i := if isB then 4 else 2
  { ty := pw ws 0 (if isB then 18 else 13) 5, reg := pw ws 0 (if isB then 24 else 23) 1 == 1, first := pw ws i 0 8,
    rank := pw ws i 20 4, off := pw ws i 0 20, rp := pw ws i 24 20, tp := pw ws i 44 20, rot := pw ws (i + 1) 0 4,
    rsv := pw ws (i + 1) 4 6, rows := if isB then passN ws else passM ws, k := passK ws }

/-- The offset of element (r, k) before rotation: its slab of 256 and its row, then `within` the slab (R247). -/
def Opnd.at_ (o : Opnd) (r k within : Nat) : Nat := o.off + k / 256 * o.tp + r * o.rp + within

/-- The scratchpad banks of a team, B (R206). -/
def spadBanks (t : Team) : Nat := 8 * roleCount t.role.toNat 0

/-- The word of a scratchpad that R247 reads for row `r` and the word at `x`. -/
def rotWord (b rot r x : Nat) : Nat :=
  if b = 0 then x else x / b * b + (x % b + (if rot = 0 then 0 else r * 2 ^ (rot - 1) % b)) % b

/-- Payload bytes of a reservation's block, and its block length (R248). -/
def resvBlock (v : Reservation) : Nat × Nat := if v.b16 then (payBytes v.ty / 2, 16) else (payBytes v.ty, 32)

/-- Where element (r, k) of a block operand lies: the offset P of its block, and the offset of the block's
metadata with its length (R248). -/
def Opnd.block (o : Opnd) (v : Reservation) (r k : Nat) : Nat × Nat × Nat :=
  let (ps, l) := resvBlock v
  let p := o.at_ r k (k % 256 / l * (if v.inl then ps + 4 else ps))
  if v.inl then (p, p + ps, 4) else (p, v.moff + p / ps * metaBytes v.ty, metaBytes v.ty)

/-- The byte ranges that element (r, k) of a reservation's operand takes, as offsets within it. -/
def Opnd.resvBytes (o : Opnd) (v : Reservation) (r k : Nat) : List (Nat × Nat) :=
  if mmaPlain o.ty then [(o.at_ r k (k % 256 * (tyBits o.ty / 8)), tyBits o.ty / 8)]
  else
    let (p, m, n) := o.block v r k
    [(p, (resvBlock v).1), (m, n)]

/-- Where an operand is read from: the core of its rank, that team's banks and the record. -/
structure OpSrc where
  o     : Opnd
  core  : Nat
  banks : Nat
  resv  : Option Reservation
  bytes : List Byte
  deriving DecidableEq, Repr

/-- The element positions of an operand. -/
def Opnd.elems (o : Opnd) : List (Nat × Nat) := (List.range o.rows).flatMap (fun r => (List.range o.k).map (fun k => (r, k)))

/-- The 8-byte units that an element takes: space 2 × core for its scratchpad, 2 × core + 1 for its operand
buffer, and the unit's number. -/
def OpSrc.units (x : OpSrc) (r k : Nat) : List (Nat × Nat) :=
  if x.o.reg then []
  else match x.resv with
    | none => [(2 * x.core, rotWord x.banks x.o.rot r (x.o.at_ r k (k % 256 * tyBits x.o.ty / 8) / 8))]
    | some v => (x.o.resvBytes v r k).flatMap (fun b =>
        (List.range ((v.offs + b.1 + b.2 - 1) / 8 - (v.offs + b.1) / 8 + 1)).map (fun i => (2 * x.core + 1, (v.offs + b.1) / 8 + i)))

/-- `n` bytes at `a` of a space read by units. -/
def unitBytes (rd : Nat → Nat → Word) (space a n : Nat) : Nat :=
  leNat ((List.range n).map (fun i => BitVec.ofNat 8 ((rd space ((a + i) / 8)).toNat / 2 ^ (8 * ((a + i) % 8)))))

/-- The value of element (r, k) (R160 to R164, R247 to R249). -/
def OpSrc.value (x : OpSrc) (rd : Nat → Nat → Word) (r k : Nat) : Num :=
  let b := tyBits x.o.ty
  if x.o.reg then (fmtT x.o.ty).read (leNat ((x.bytes.drop ((r * x.o.k + k) * b / 8)).take (b / 8)))
  else match x.resv with
    | none =>
      let a := x.o.at_ r k (k % 256 * (b / 8))
      (fmtT x.o.ty).read ((rd (2 * x.core) (rotWord x.banks x.o.rot r (a / 8))).toNat / 2 ^ (8 * (a % 8)) % 2 ^ b)
    | some v =>
      if mmaPlain x.o.ty then (fmtT x.o.ty).read (unitBytes rd (2 * x.core + 1) (v.offs + x.o.at_ r k (k % 256 * (b / 8))) (b / 8))
      else
        let (p, m, n) := x.o.block v r k
        let i := k % (resvBlock v).2
        let code := unitBytes rd (2 * x.core + 1) (v.offs + p + i * b / 8) ((i * b % 8 + b + 7) / 8) / 2 ^ (i * b % 8) % 2 ^ b
        blockVal x.o.ty (unitBytes rd (2 * x.core + 1) (v.offs + m) n) i code

/-! ### Accumulation (R251, R252) -/

/-- −0 in both parts: what an unlisted element holds. -/
def elemZero : BitVec 32 × BitVec 32 := (0x80000000#32, 0x80000000#32)

/-- An element of a tile. -/
def elemAt (t : Tab (BitVec 32 × BitVec 32)) (k : Nat) : BitVec 32 × BitVec 32 := tgetD t k elemZero

/-- The sum of two F32 patterns, rounded to nearest even. -/
def f32Add (a b : BitVec 32) : BitVec 32 := BitVec.ofNat 32 (fmtF32.round 0 false none (numAdd 0 (fmtF32.read a.toNat) (fmtF32.read b.toNat)))

/-- The difference, likewise. -/
def f32Sub (a b : BitVec 32) : BitVec 32 :=
  BitVec.ofNat 32 (fmtF32.round 0 false none (numAdd 0 (fmtF32.read a.toNat) (numNeg (fmtF32.read b.toNat))))

/-- A pattern that is not an infinity or a NaN. -/
def f32Finite (a : BitVec 32) : Bool := bitsAt a.toNat 23 8 != 0xFF

/-- The exact sum of a group's products, with the NaN rules of R252. -/
def groupSum (ps : List (Num × Num)) : Num :=
  match firstNan (ps.flatMap (fun p => [p.1, p.2])) with
  | some n => n
  | none => match ps.map (fun p => numMul p.1 p.2) with
    | [] => .fin false 0 0
    | p :: r => r.foldl (numAdd 0) p

/-- One group of R251 added to (s, e). An element that ZERO has set stays as it is while every product is −0, so that it
drains as −0 (R252). -/
def accumulate (x : BitVec 32 × BitVec 32) (ps : List (Num × Num)) : BitVec 32 × BitVec 32 :=
  let sum := groupSum ps
  if x == elemZero && sum.isZero && sum.neg then x else
  let p := BitVec.ofNat 32 (fmtF32.round 0 false none sum)
  let t := f32Add x.1 p
  if !f32Finite t then (t, 0#32)
  else
    let z := f32Sub t x.1
    (t, f32Add x.2 (f32Add (f32Sub x.1 (f32Sub t z)) (f32Sub p z)))

/-- The groups of `g` pairs of a row, `n` of them. -/
def groupsOf (g : Nat) (l : List (Num × Num)) : Nat → List (List (Num × Num))
  | 0 => []
  | n + 1 => l.take g :: groupsOf g (l.drop g) n

/-- An element after a pass over one row of A and one of B (R251). -/
def accumElem (g : Nat) (a b : List Num) (x : BitVec 32 × BitVec 32) : BitVec 32 × BitVec 32 :=
  (groupsOf g (a.zip b) (a.length / g)).foldl accumulate x

/-- The value that leaves a tile, c = rne(s + e) (R251). -/
def drained32 (x : BitVec 32 × BitVec 32) : BitVec 32 := f32Add x.1 x.2

/-- The position within a pass of element `k` of the tile at (ti, tj) of its grid. -/
def passPos (ws : List Word) (ti tj k : Nat) : Option (Nat × Nat) :=
  let r := 128 * ti + k / 128
  let c := 128 * tj + k % 128
  if passRow ws ≤ r && r < passRow ws + passM ws && passCol ws ≤ c && c < passCol ws + passN ws
  then some (r - passRow ws, c - passCol ws) else none

/-- A tile's elements with those of a region given by `f`; an element that equals (−0, −0) is not listed. -/
def mapElems (t : Tab (BitVec 32 × BitVec 32)) (f : Nat → BitVec 32 × BitVec 32 → BitVec 32 × BitVec 32) : Tab (BitVec 32 × BitVec 32) :=
  (List.range 16384).filterMap (fun k =>
    let x := f k (elemAt t k)
    if x == elemZero then none else some (k, x))

/-! ### Checksums (R254)

The spec gives what a checksum is the sum of and leaves its roundings to the TwoSum rule; the model's reading is log 63. -/

/-- The magnitude of a value. -/
def numAbs : Num → Num
  | .fin _ m e => .fin false m e
  | .inf _ => .inf false
  | v => v

/-- The exact sum of values; −0 when there is none. -/
def exactSum (xs : List Num) : Num :=
  match firstNan xs with
  | some n => n
  | none => xs.foldl (numAdd 0) (.fin true 0 0)

/-- A value as a pair: its rounding, and the rounding of what that leaves. -/
def pairOf (x : Num) : BitVec 32 × BitVec 32 :=
  let s := BitVec.ofNat 32 (fmtF32.round 0 false none x)
  if s == 0x80000000#32 then elemZero
  else if !f32Finite s then (s, 0#32)
  else (s, BitVec.ofNat 32 (fmtF32.round 0 false none (numAdd 0 x (numNeg (fmtF32.read s.toNat)))))

/-- The value that an element or a checksum stands for, c of R254. -/
def cNum (t : Tab (BitVec 32 × BitVec 32)) (k : Nat) : Num := fmtF32.read (drained32 (elemAt t k)).toNat

/-- The elements of a row of a tile, or of a column. -/
def lineElems (col : Bool) (l : Nat) : List Nat := (List.range 128).map (fun i => if col then 128 * i + l else 128 * l + i)

/-- A table of the 128 checksums of rows or columns. -/
def ckTable (f : Nat → BitVec 32 × BitVec 32) : Tab (BitVec 32 × BitVec 32) :=
  (List.range 128).filterMap (fun l => let x := f l; if x == elemZero then none else some (l, x))

/-- Checksums formed from the c of a tile's elements (Table 14.4). -/
def formCk (col : Bool) (t : Tab (BitVec 32 × BitVec 32)) : Tab (BitVec 32 × BitVec 32) :=
  ckTable (fun l => pairOf (exactSum ((lineElems col l).map (cNum t))))

/-- Rows of an operand added element by element. -/
def sumRows (rs : List (List Num)) : List Num :=
  (List.range ((rs.headD []).length)).map (fun k => exactSum (rs.map (fun r => r.getD k (.fin true 0 0))))

/-- The checksums after a pass over the tile at (ti, tj): of a row, its products are those of the row of A with the sum of
the region's rows of B; of a column likewise (R254). -/
def passCk (ws : List Word) (as bs : List (List Num)) (col : Bool) (ti tj : Nat) (ck : Tab (BitVec 32 × BitVec 32)) :
    Tab (BitVec 32 × BitVec 32) :=
  let g := mmaClass (pw ws 0 13 5)
  ckTable (fun l =>
    let ps := (lineElems col l).filterMap (passPos ws ti tj)
    match ps with
    | [] => elemAt ck l
    | (i, j) :: _ =>
      if col then accumElem g (sumRows (ps.map (fun p => as.getD p.1 []))) (bs.getD j []) (elemAt ck l)
      else accumElem g (as.getD i []) (sumRows (ps.map (fun p => bs.getD p.2 []))) (elemAt ck l))

/-- A row or a column of a tile fails its comparison: |Σ c − CK| > 2^−18 × (Σ |c| + |CK|), all of them finite (R254). -/
def lineFails (t : Tile) (col : Bool) (l : Nat) : Bool :=
  let cs := (lineElems col l).map (cNum t.elems)
  let ck := cNum (if col then t.ckCol else t.ckRow) l
  match exactSum cs, ck with
  | .fin s m e, .fin _ _ _ =>
    numCmp (numAbs (numAdd 0 (.fin s m e) (numNeg ck))) (numScale (-18) (numAdd 0 (exactSum (cs.map numAbs)) (numAbs ck))) == .gt
  | _, _ => false

/-- The rows, or the columns, of a tile that fail. -/
def failing (t : Tile) (col : Bool) : List Nat := (List.range 128).filter (lineFails t col)

/-! ### Tiles (R242) -/

/-- A tile just bound (R242, Table 14.4). -/
def Tile.fresh (core lid stamp : Nat) : Tile := { Tile.reset with bound := some (core, lid, stamp) }

/-- The physical tile of a binding. -/
def tileOf (e : Engine) (stamp : Nat) : Option (Nat × Tile) :=
  (e.tiles.zipIdx.find? (fun x => match x.1.bound with | some (_, _, b) => b == stamp | none => false)).map (fun x => (x.2, x.1))

/-- Updates a physical tile. -/
def modTile (s : State) (q i : Nat) (f : Tile → Tile) : State := modEngine s q (fun e => { e with tiles := lmod e.tiles i f })

/-- Bindings of a team's logical id, as a group sees them: those that no MREL of the group has named (R242). -/
def heldTile (e : Engine) (core grp lid : Nat) : Option Nat :=
  let gone (b : Nat) : Bool := e.table.any (fun x => x.2.core == core && x.2.grp == grp && x.2.cmd == .mrelTiles && x.2.tiles.any (fun y => y.2 == b))
  ((e.tiles.filterMap (fun t => match t.bound with
    | some (c, l, b) => if c == core && l == lid && !gone b then some b else none
    | none => none))).foldl (fun a b => match a with
      | some x => some (if x < b then b else x)
      | none => some b) none

/-! ### Checks (R254 to R256) -/

/-- A check point: the shadow takes the elements and the log empties (R255). -/
def checkPoint (s : State) (q i : Nat) : State := modTile s q i (fun t => { t with shadow := t.elems, log := [] })

/-- Clears a tile: elements, shadow, checksums and log (Table 14.4). -/
def clearTile (s : State) (q i : Nat) : State :=
  modTile s q i (fun t => { t with elems := [], shadow := [], ckRow := [], ckCol := [], log := [] })

/-- A unit holds an error that cannot be corrected (R358). -/
def unitLost (s : State) (space w : Nat) : Bool :=
  ((tget s.teams (space / 2)).map (fun t => (if space % 2 = 0 then t.spadBad else t.opBad).contains w)).getD false

/-- A unit as a recompute reads it: the value that the pass read, unless it has been written since, when it
is that or the value now, which one being open (R256). -/
def unitAgain (s : State) (l : PassLog) (space w : Nat) : Word :=
  let now := unitNow s space w
  match l.units.find? (fun u => u.1 == space && u.2.1 == w) with
  | some u => if u.2.2 == now || Config.readsOld s.free (w * 1024 + space) then u.2.2 else now
  | none => now

/-- The sources of a pass of the team on a core, for its two operands; `kept` are the records that the pass named at its
issue, which it reads though they be released since (R268). -/
def passSrc (s : State) (core : Nat) (ws : List Word) (aop bop : List Byte) (kept : List (Nat × Reservation)) (isB : Bool) : OpSrc :=
  let o := passOpnd ws isB
  let rc := ((tget s.teams core).map (fun t => (clusterCores s t).getD o.rank core)).getD core
  let rt := tget s.teams rc
  { o := o, core := rc, banks := (rt.map spadBanks).getD 0,
    resv := if o.rsv = 0 then none else
      ((kept.find? (fun v => v.1 == rc && v.2.id == o.rsv)).map (·.2)).or (rt.bind (fun t => t.resv.find? (fun v => v.id == o.rsv))),
    bytes := if isB then bop else aop }

/-- One row of an operand. -/
def OpSrc.row (x : OpSrc) (rd : Nat → Nat → Word) (r : Nat) : List Num := (List.range x.o.k).map (x.value rd r)

/-- An element recomputed from its shadow by the logged passes in their order (R254). -/
def recompute (s : State) (core lid : Nat) (t : Tile) (k : Nat) : BitVec 32 × BitVec 32 :=
  t.log.foldl (fun x l =>
    match (passTiles l.words).find? (fun y => y.1 == lid) with
    | none => x
    | some (_, ti, tj) => match passPos l.words ti tj k with
      | none => x
      | some (i, j) =>
        let rd := unitAgain s l
        accumElem (mmaClass (pw l.words 0 13 5)) ((passSrc s core l.words l.aop l.bop l.kept false).row rd i)
          ((passSrc s core l.words l.aop l.bop l.kept true).row rd j) x) (elemAt t.shadow k)

/-- What a check of a tile comes to: it passes, it corrects an element, or it is uncorrectable (R254). -/
inductive Checked where
  | pass | corrected (k : Nat) | bad
  deriving DecidableEq, Repr

/-- Disables an engine that has no spare left; the teams resident on its quad then run on, later ones are refused (R361). -/
def disableEngine (q : Nat) (s : State) : State :=
  modEngine s q (fun e => if e.disabled then e else
    { e with disabled := true, keep := (s.teams.map (·.1)).filter (fun c => quadNo c == q) })

/-- Checks a tile (R254 to R256, R360, R364): with one row and one column that fail their common element is recomputed and
the tile is checked again. -/
def checkTile (s : State) (q i : Nat) : State × Checked :=
  match (engineOf s q).tiles[i]? with
  | none => (s, .pass)
  | some t =>
    let unit := Config.engineUnit q % 64
    let addr (k : Nat) : Nat := t.tag + 2 ^ 32 * (k / 128) + 2 ^ 40 * (k % 128) + 2 ^ 48 * i
    let lost : State × Checked := (logEvent { clearTile s q i with free := s.free + 1 } (addr 0) 3 5 (q / 12) false unit, .bad)
    match failing t false, failing t true, t.bound with
    | [], [], _ => (s, .pass)
    | [r], [c], some (core, lid, _) =>
      let k := 128 * r + c
      let x := recompute s core lid t k
      let t' : Tile := { t with elems := if x == elemZero then tdel t.elems k else tset t.elems k x, corr := satAdd 16 t.corr 1 }
      if (failing t' false).isEmpty && (failing t' true).isEmpty then
        let s := countCorrection (bumpSecnt s 32 16) (addr k) 5 (q / 12) unit (q % 12) (5 * 2 ^ 60 + q * 2 ^ 16 + 16384 * i + k)
          (k % 128) (disableEngine q)
        (modTile { s with free := s.free + 1 } q i (fun _ => t'), .corrected k)
      else lost
    | _, _, _ => lost

/-- Checks tiles in turn and makes check points of those that pass; true when every one does. -/
def checkTiles (s : State) (q : Nat) (is : List Nat) : State × Bool :=
  is.foldl (fun x i =>
    let r := checkTile x.1 q i
    if r.2 == .bad then (r.1, false) else (checkPoint r.1 q i, x.2)) (s, true)

end Sys2Proof.Machine
end

