-- ==== Sys2Proof/Machine/Matrix.lean ====
section
/-! DEFINITION. The matrix instructions, OP9 0x160 to 0x168, and the events of the engine (R257 to R268). -/

namespace Sys2Proof.Machine

/-! ### Issue -/

/-- A matrix instruction is uniform only and has no modifier (R257). -/
def shapeM (w : LongWord) (sub : Bool) : Shape := { form := w.lit.isNone, sub := sub, m6 := layoutZ w, port := .uniform }

/-- EMMA with a reason (Table 14.3). -/
def emma (n : Nat) : TrapInfo := ⟨0x15, 0, word n⟩

/-- EOPBUF with a reason (Table 14.3). -/
def eopbuf (n : Nat) : TrapInfo := ⟨0x0C, 0, word n⟩

/-- The engine of the issuing core's quad. -/
def Ic.eng (c : Ic) : Engine := engineOf c.s (quadNo c.core)

/-- The engine is disabled for a team, or not in service (R361, R391). -/
def engineOff (s : State) (core : Nat) : Bool :=
  let e := engineOf s (quadNo core)
  s.svclvl < 2 || (e.disabled && !e.keep.contains core)

/-- The core of a rank that the engine may reach: in its quad and in the team's cluster (R247). -/
def rankCore (c : Ic) (rank : Nat) : Option Nat :=
  match (clusterCores c.s c.t)[rank]? with
  | some k => if quadNo k == quadNo c.core then some k else none
  | none => none

/-- Enters a command in the request table (R244): it waits at issue while the table, or the staging array,
has no room (R249), and its handle is the entry and its GEN (R260). -/
def enterTable (c : Ic) (cmd : EngCmd) (tiles recs : List (Nat × Nat)) (kept : List (Nat × Reservation)) (words : List (Nat × Nat))
    (stage : Nat) (xls : List Xl) (tok : Bool) : Except Stop (State × Nat) :=
  let e := c.eng
  match (List.range 32).find? (fun i => (tget e.table i).isNone) with
  | none => .error (.stall .engineRoom)
  | some i =>
    if stage != 0 && (e.table.map (fun x => x.2.stage)).sum + stage > 128 * 1024 then .error (.stall .engineRoom)
    else
      let gen := (tgetD e.gens i 0 + 1) % 2 ^ 27
      let h := i + 32 * gen
      let x : EngEntry :=
        { core := c.core, grp := c.grp, ott := c.s.stamp, pc := c.pc, stamp := c.s.stamp, handle := h, prio := recPrio c.r,
          aged := false, cmd := cmd, tiles := tiles, recs := recs, kept := kept, words := words, olds := [], stage := stage, xls := xls,
          ctx := c.ctx, tok := tok }
      .ok (modEngine c.s (quadNo c.core) (fun e => { e with table := tset e.table i x, gens := tset e.gens i gen }), h)

/-- A posted engine command: its entry of the outstanding-transaction table is released when it completes. -/
def postEngine (c : Ic) (r : State × Nat) : Eff := enterPosted { c with s := r.1 } Ord.relaxed (.engine r.2)

/-- The held tiles of a mask of logical ids, with their bindings; none when one is not held (R242). -/
def maskTiles (c : Ic) (mask : Nat) : Option (List (Nat × Nat)) :=
  ((List.range 4).filter (nbit mask)).foldr (fun l r =>
    match heldTile c.eng c.core c.grp l, r with
    | some b, some r => some ((l, b) :: r)
    | _, _ => none) (some [])

/-- An access of a group that the engine's reads and writes come after (R260, R263). -/
def engineWaits (w : Work) : Bool :=
  match w with
  | .values | .done | .engine _ | .cwait _ _ _ | .sclose _ | .jseed | .selftest _ _ | .mrsv _ => false
  | _ => true

/-! ### MRSV (R258) -/

/-- A range of the operand buffer lies wholly in groups of role 10 (R243). -/
def inRole10 (role : Word) (offs len : Nat) : Bool :=
  decide (offs + len ≤ 2 ^ 20) && (List.range 32).all (fun g =>
    decide ((g + 1) * 32768 ≤ offs) || decide (offs + len ≤ g * 32768) || bitsAt role.toNat (2 * g) 2 == 2)

/-- The lowest free place of a range (R243). -/
def placeRange (t : Team) (len : Nat) : Option Nat :=
  ((List.range 4096).map (256 * ·)).find? (fun o =>
    inRole10 t.role o len && t.resv.all (fun v => decide (v.offs + v.len ≤ o) || decide (o + len ≤ v.offs)))

/-- The lowest free reservation id, 1 to 63. -/
def freeResv (t : Team) : Option Nat := ((List.range 63).map (· + 1)).find? (fun i => !(t.resv.any (fun v => v.id == i)))

/-- A record of Table 14.6 is bad (R258): reserved bits, LEN, TYPE, B16, or metadata past LEN. -/
def badRecord (r : Nat) : Bool :=
  let len := bitsAt r 0 20
  let ty := bitsAt r 40 5
  let b16 := nbit r 45
  let ps := if b16 then payBytes ty / 2 else payBytes ty
  r / 2 ^ 47 != 0 || len % 256 != 0 || len < 256 || mmaClass ty == 0
  || (b16 && !(isMx ty || ty == 0x16 || ty == 0x17))
  || (!mmaPlain ty && !nbit r 46 && decide (bitsAt r 20 20 + len / ps * metaBytes ty > len))

/-- The result of MRSV when it is refused (Table 14.7). -/
def refused (why : Nat) : Word := word (2 ^ 56 * why + 2 ^ 63)

/-- MRSV of a range: placed or refused; the copy completes in MRSV_COPY_COMPLETE (R258). -/
def execMrsv (w : LongWord) (s : State) : Host.Outcome State Fault Refusal :=
  issue s w { shapeM w (w.sub6 == 0#6) with form := w.lit.isNone || w.sub6 != 0#6, d := .dst 1, a := .src 2 }
    { entry := true, tx := some 2, dests := [destOf w.d] } (fun c => do
    let src := (c.rd 0 w.a).toNat
    let r := (readRegAt c.g 0 w.a 1).toNat
    need (src % 256 == 0 && !badRecord r) (.trap (emma 0x0B))
    let len := bitsAt r 0 20
    match placeRange c.t len, freeResv c.t with
    | none, _ => .ok (enterLong c [destOf w.d] Ord.relaxed .values [(0, refused 1)])
    | _, none => .ok (enterLong c [destOf w.d] Ord.relaxed .values [(0, refused 2)])
    | some o, some i =>
      let v : Reservation :=
        { id := i, offs := o, len := len, moff := bitsAt r 20 20, ty := bitsAt r 40 5, b16 := nbit r 45, inl := nbit r 46,
          src := src, ready := false, grp := c.grp, stamp := c.s.stamp }
      let s := modTeam c.s c.core (fun t => { t with resv := t.resv ++ [v] })
      .ok (enterLong { c with s := s } [destOf w.d] Ord.relaxed (.mrsv i) [(0, word (i + 2 ^ 20 * o))]))

/-- MRSV of tiles: all or nothing (R242, R258, R361). -/
def execMrsvAcc (w : LongWord) (s : State) : Host.Outcome State Fault Refusal :=
  issue s w { shapeM w (subNo w == 1) with form := true, d := .dst 1, a := .src 1, litA := true }
    { entry := true, tx := some 2, dests := [destOf w.d] } (fun c =>
    let mask := (if w.lit.isSome then litNat w else (c.rd 0 w.a).toNat) % 16
    let ids := (List.range 4).filter (nbit mask)
    let free := (c.eng.tiles.zipIdx.filter (fun x => x.1.bound.isNone)).map (·.2)
    let res (s : State) (x : Word) : Except Stop Eff := .ok (enterLong { c with s := s } [destOf w.d] Ord.relaxed .values [(0, x)])
    if engineOff c.s c.core || free.length < ids.length then res c.s (refused 3)
    else if ids.any (fun l => (heldTile c.eng c.core c.grp l).isSome) then res c.s (refused 4)
    else res ((ids.zip free).foldl (fun s x => modTile { s with stamp := s.stamp + 1 } (quadNo c.core) x.2
      (fun _ => Tile.fresh c.core x.1 s.stamp)) c.s) (word mask))

/-- Bytes written to an operand buffer. -/
def opbufWrite (s : State) (core off : Nat) (bs : List Byte) : State :=
  modTeam (noteUnits s (2 * core + 1) off bs.length) core (fun t => { t with opbuf := memWrite t.opbuf off bs, opBad := wordsLeft t.opBad off bs.length })

/-- The end of an MRSV's copy: the range is ready and the result returns, or the range is released and the
failure is the instruction's (R258). -/
def finishResv (s : State) (core id : Nat) (e : OttEntry) : State :=
  finishEntry (modTeam s core (fun t => { t with
    resv := if e.bad.isSome then t.resv.filter (fun v => v.id != id)
            else t.resv.map (fun v => if v.id == id then { v with ready := true } else v) })) core e

/-- What a page is to the source of a copy: its memory type, or the kind that it is refused with; a page of MT 6 is a
device's to a service group (R59, R236). -/
def sourceKind (svc : Bool) (mt : Nat) : Option Nat :=
  if admits .copySrc mt then none else some (if mt == 6 && !svc then 5 else 4)

/-- One 32-byte piece of a copy read at its home (R236, R258); those of a peer's memory are asked for together. -/
def resvSector (core ctx : Nat) (svc : Bool) (v : Reservation) (p : Perf) (i : Nat) : Perf :=
  let va := v.src + 32 * i
  match resolve p.st ctx va with
  | .error k => { p with e := p.e.fail 0 (kindTrap k va) }
  | .ok x =>
    match sourceKind svc x.mt with
    | some k => { p with e := p.e.fail 0 (kindTrap k va) }
    | none =>
    if x.mt == 5 then (if p.st.peerdead.getLsbD x.aux then { p with e := p.e.fail 0 (goneTrap x.aux va) } else p)
    else
      let pa := physAddr p.st ctx x va false
      if !populated pa 32 then { p with st := logViolation p.st pa, e := p.e.fail 0 (holeTrap va) }
      else if lostAt p.st pa 32 then
        { p with st := meetUpsets p.st pa 32, e := p.e.fail 0 (uncorrTrap va (poisonStruct (meetUpsets p.st pa 32) pa 32) 0) }
      else { p with st := opbufWrite (l2Touch (meetUpsets p.st pa 32) pa x.cp x.wp false) core (v.offs + 32 * i) (memRead p.st.mem pa 32) }

/-- The pieces of a copy that lie in peers' memory: peer, access, physical address and offset. -/
def resvPeer (s : State) (ctx : Nat) (v : Reservation) : List (Nat × Acc × Nat × Nat) :=
  (List.range (v.len / 32)).filterMap (fun i =>
    match resolve s ctx (v.src + 32 * i) with
    | .ok x => if x.mt == 5 then some (x.aux, ⟨0, v.src + 32 * i, x⟩, physAddr s ctx x (v.src + 32 * i) false, 32 * i) else none
    | .error _ => none)

/-- A copy asks each peer that holds a part of its source for that part, as one access: no block of it is read in two
(R168, R258). -/
def resvAsk (core ctx : Nat) (v : Reservation) (p : Perf) : Perf :=
  let ps := resvPeer p.st ctx v
  (sortNat (ps.map (·.1))).foldl (fun p k =>
    let mine := ps.filter (fun x => x.1 == k)
    match mine.head? with
    | some x => peerRead p core ctx x.2.1 k 5 v.id (mine.map (fun y => (y.2.2.1, 32))) (mine.map (·.2.2.2))
        (mine.map (fun y => (policy p.e.ord y.2.1.xl, y.2.1.xl.wp)))
    | none => p) p

/-- The first address of the copy that is not valid (R62). -/
def resvNotValid (s : State) (ctx : Nat) (v : Reservation) : Option Nat :=
  ((List.range (v.len / 32)).map (fun i => v.src + 32 * i)).find? (fun va => match resolve s ctx va with | .error 2 => true | _ => false)

/-- An access that the group, or a thread of the MRSV, issued before it is not performed (R258, R290, Table 16.3). -/
def resvBehind (t : Team) (e : OttEntry) : Bool :=
  t.ott.any (fun x => x.of e.grp (e.tids.map (·.2)) && x.id < e.id && engineWaits x.work) || combinedBefore t e.grp (e.tids.map (·.2)) e.id

/-- MRSV_COPY_COMPLETE: the copy of the reservation in the cursor's id, once what the group issued before
is performed: a page that is not valid restarts the group, an uncorrectable error is consumed, another
fault fails the instruction, and each releases the range (R258). -/
def execMrsvCopyComplete (s : State) : Host.Outcome State Fault Refusal :=
  let core := s.iss.core
  match tget s.teams core with
  | none => .fault .notEnabled
  | some t =>
    match t.resv.find? (fun v => v.id == s.iss.id), t.ott.find? (fun e => match e.work with | .mrsv i => i == s.iss.id | _ => false) with
    | some v, some e =>
      let ctx := teamCtx s t
      if waitsForFirmware t e.grp || !inOrder s ctx t e || resvBehind t e then .fault .notEnabled
      else match groupAt s core e.grp with
      | none => .fault .notEnabled
      | some g =>
      match resvNotValid s ctx v with
      | some va =>
        .next (modGroup s core e.grp (fun g => { g with
          status := .pageFault ⟨0x04, word va, 0x2⟩ (g.hm.isSome || g.rmtOp) (some e.id) none g.status, stall := none }))
      | none =>
        let p := (List.range (v.len / 32)).foldl (resvSector core ctx (isService s t) v) ⟨s, e, []⟩
        let p := if p.e.bad.isSome then p else resvAsk core ctx v p
        match p.e.bad with
        | some (_, tr) =>
          if tr.cause == 0x10 && !g.rmtOp then .next (consumePoison p.st core ctx e tr)
          else .next (finishResv p.st core v.id p.e)
        | none => if p.left.isEmpty then .next (finishResv p.st core v.id p.e) else .next (putEntry p.st core { p.e with work := .remote p.left })
    | _, _ => .fault .notEnabled

/-! ### MREL (R259) -/

/-- MREL of a range: it takes a table entry and is performed in MREL_PERFORM. -/
def execMrel (w : LongWord) (s : State) : Host.Outcome State Fault Refusal :=
  issue s w { shapeM w (w.sub6 == 0#6) with form := true, a := .src 1, litA := true } { entry := true, tx := some 2 } (fun c => do
    let id := (if w.lit.isSome then litNat w else (c.rd 0 w.a).toNat) % 64
    let gone : Bool := c.eng.table.any (fun x => x.2.core == c.core && x.2.cmd == .mrelBuf id)
    need (c.t.resv.any (fun v => v.id == id) && !gone) (.trap (eopbuf 4))
    .ok (postEngine c (← enterTable c (.mrelBuf id) [] [(c.core, id)] [] [] 0 [] false)))

/-- MREL of tiles. -/
def execMrelAcc (w : LongWord) (s : State) : Host.Outcome State Fault Refusal :=
  issue s w { shapeM w (subNo w == 1) with form := true, a := .src 1, litA := true } { entry := true, tx := some 2 } (fun c => do
    let mask := (if w.lit.isSome then litNat w else (c.rd 0 w.a).toNat) % 16
    match maskTiles c mask with
    | none => .error (.trap (eopbuf 4))
    | some ts => .ok (postEngine c (← enterTable c .mrelTiles ts [] [] [] 0 [] false)))

/-! ### MMA (R246 to R250, R260) -/

/-- The checks of one operand: (order, trap) for each that fails; EPEERGONE comes after 0x05 (R250). -/
def opndFails (c : Ic) (ws : List Word) (isB : Bool) : List (Nat × TrapInfo) :=
  let o := passOpnd ws isB
  let base := ws.getD (if isB then 4 else 2) 0
  let fail (b : Bool) (k : Nat) (t : TrapInfo) : List (Nat × TrapInfo) := if b then [(k, t)] else []
  let em (b : Bool) (n : Nat) : List (Nat × TrapInfo) := fail b (10 * n) (emma n)
  let form := em (o.rot > 8 || (o.rot != 0 && o.rsv != 0)) 8 ++ em (!mmaPlain o.ty && (o.rsv == 0 || o.reg)) 9
  if o.reg then
    let q := o.k * tyBits o.ty / 64
    form ++ em (decide (o.rows * o.k * tyBits o.ty / 8 > 16384)
      || decide (o.first + (o.rows + c.g.threads.length - 1) / c.g.threads.length * q > recVregs c.r)) 10
  else
    let rec_ : Option Reservation :=
      ((rankCore c o.rank).bind (fun k => tget c.s.teams k)).bind (fun t => t.resv.find? (fun v => v.id == o.rsv))
    let unit := if mmaPlain o.ty then 8 else
      match rec_ with
      | some v => if v.b16 then payBytes o.ty / 2 else payBytes o.ty
      | none => payBytes o.ty
    let form := form ++ em (o.off % unit != 0 || o.rp % unit != 0 || (o.k > 256 && o.tp % unit != 0)) 7
    match rankCore c o.rank with
    | none => form ++ em true 5
    | some k =>
      let form := form ++ fail (k != c.core && c.t.closed.contains o.rank) 55 ⟨0x06, base, 0⟩
      match tget c.s.teams k with
      | none => form
      | some rt =>
        if o.rsv == 0 then
          let x : OpSrc := ⟨o, k, spadBanks rt, none, []⟩
          form ++ em (o.elems.any (fun e => (x.units e.1 e.2).any (fun u => decide (8 * u.2 + 8 > recScratch c.r)))) 6
        else
          let gone : Bool := c.eng.table.any (fun y => y.2.core == k && y.2.cmd == .mrelBuf o.rsv)
          match rt.resv.find? (fun v => v.id == o.rsv && v.ready && !gone) with
          | none => form ++ fail true 201 (eopbuf 1)
          | some v =>
            form ++ fail (o.elems.any (fun e => (o.resvBytes { v with ty := o.ty } e.1 e.2).any (fun b => decide (b.1 + b.2 > v.len)))) 202 (eopbuf 2)
              ++ fail (v.ty != o.ty) 203 (eopbuf 3)

/-- The checks of R250: the trap of the first that fails. -/
def mmaFail (c : Ic) (ws : List Word) : Option TrapInfo :=
  let at_ := pw ws 0 13 5
  let bt := pw ws 0 18 5
  let res (i lo : Nat) : Bool := pw ws i lo (64 - lo) != 0
  let em (b : Bool) (n : Nat) : List (Nat × TrapInfo) := if b then [(10 * n, emma n)] else []
  if engineOff c.s c.core then some (emma 0x0C)
  else
    let reserved := res 0 25 || res 1 7 || res 3 10 || res 5 10 || res 6 32 || res 7 0
      || (pw ws 0 23 1 == 1 && pw ws 2 8 16 != 0) || (pw ws 0 24 1 == 1 && pw ws 4 8 16 != 0)
    let typesOk := mmaClass at_ != 0 && mmaClass at_ == mmaClass bt
    let tiles := passTiles ws
    let geom := decide (passRow ws + passM ws > 256) || decide (passCol ws + passN ws > 256)
      || tiles.any (fun t => t.1 > 3 || (heldTile c.eng c.core c.grp t.1).isNone)
    let fails := em reserved 1 ++ em (!typesOk) 2 ++ em (typesOk && decide (passK ws > 4096 * mmaClass at_)) 3 ++ em geom 4
    let fails := fails ++ (if typesOk then opndFails c ws false ++ opndFails c ws true else [])
    (fails.foldl (fun (a : Option (Nat × TrapInfo)) f =>
      match a with
      | none => some f
      | some x => if f.1 < x.1 then some f else some x) none).map (·.2)

/-- The snapshot of a register operand (R249). -/
def snapshot (c : Ic) (o : Opnd) : List Byte :=
  if !o.reg then [] else
  let q := o.k * tyBits o.ty / 64
  let w := c.g.threads.length
  (List.range o.rows).flatMap (fun r => (List.range q).flatMap (fun j =>
    leBytes 8 (readV c.g (r % w) (o.first + r / w * q + j)).toNat))

/-- The first register with an error among those of a register operand (R249, R362). -/
def snapshotLost (c : Ic) (o : Opnd) : Option (Bool × Nat) :=
  if !o.reg || c.g.threads.all (fun t => t.bad.isEmpty) then none else
  let q := o.k * tyBits o.ty / 64
  let w := c.g.threads.length
  (((List.range o.rows).flatMap (fun r => (List.range q).map (fun j => (r % w, o.first + r / w * q + j)))).find? (fun x =>
    (c.g.lane x.1).bad.contains x.2)).map (fun x => (true, x.2))

/-- The units that an operand reads, each once. -/
def opndUnits (x : OpSrc) : List (Nat × Nat) := (x.o.elems.flatMap (fun e => x.units e.1 e.2)).eraseDups

/-- The lowest scratchpad offset of words that lie in both lists; of several scratchpads the least offset. -/
def overlapAt (a b : List (Nat × Nat)) : Option Nat := minNat ((a.filter (fun x => b.contains x)).map (fun x => 8 * x.2))

/-- The words of scratchpads among units. -/
def spadWords (us : List (Nat × Nat)) : List (Nat × Nat) := us.filter (fun u => u.1 % 2 == 0)

/-- MMA (R260). -/
def execMma (w : LongWord) (s : State) : Host.Outcome State Fault Refusal :=
  issue s w { shapeM w (w.sub6 == 0#6) with d := .dst 1, a := .src 8 } { entry := true, tx := some 2, dests := [destOf w.d] } (fun c => do
    let ws := (List.range 8).map (readRegAt c.g 0 w.a)
    match mmaFail c ws with
    | some t => .error (.trap t)
    | none =>
      let src (b : Bool) : OpSrc := passSrc c.s c.core ws [] [] [] b
      let us := opndUnits (src false) ++ opndUnits (src true)
      let drains := c.eng.table.flatMap (fun x => match x.2.cmd with
        | .mdrain _ _ _ => if x.2.core == c.core then x.2.words else []
        | _ => [])
      match overlapAt (spadWords us) drains with
      | some o => .error (.trap ⟨0x0B, word o, 0⟩)
      | none =>
        match (snapshotLost c (passOpnd ws false)).or (snapshotLost c (passOpnd ws true)) with
        | some r => .error (.failed (logLost c.s 1 c.core) (registerTrap r))
        | none =>
        let aop := snapshot c (passOpnd ws false)
        let bop := snapshot c (passOpnd ws true)
        let tiles := (passTiles ws).filterMap (fun t => (heldTile c.eng c.core c.grp t.1).map (fun b => (t.1, b)))
        let recs := [src false, src true].filterMap (fun x => if x.o.reg || x.o.rsv == 0 then none else some (x.core, x.o.rsv))
        let kept := [src false, src true].filterMap (fun x => x.resv.map (fun v => (x.core, v)))
        let r ← enterTable c (.mma ws aop bop) tiles recs kept (spadWords us) (aop.length + bop.length) [] false
        .ok (enterLong { c with s := r.1 } [destOf w.d] Ord.relaxed .values [(0, word r.2)]))

/-! ### MWAIT (R261, R267) -/

/-- The failure of a covered command, oldest first (R267). -/
def coveredFail (c : Ic) (p : EngFail → Bool) : Option EngFail :=
  (c.eng.fails.filter (fun f => f.core == c.core && f.grp == c.grp && p f)).foldl (fun a f =>
    match a with
    | none => some f
    | some x => if f.stamp < x.stamp then some f else some x) none

/-- MWAIT for the commands that `busy` names in the table and `p` among the failures. -/
def waitEngine (w : LongWord) (sh : Shape) (busy : Ic → EngEntry → Bool) (p : Ic → EngFail → Bool) (s : State) :
    Host.Outcome State Fault Refusal :=
  issue s w sh { blocking := true, tx := some 2 } (fun c => do
    need (!(c.eng.table.any (fun x => busy c x.2 && x.2.tok) && !c.t.hasToken)) (.stall .token)
    need (!(c.eng.table.any (fun x => busy c x.2))) (.stall .order)
    match coveredFail c (p c) with
    | none => .ok { st := c.s }
    | some f =>
      .error (.failed (modEngine c.s (quadNo c.core) (fun e => { e with fails := e.fails.filter (fun y => y != f) })) f.trap))

/-- MWAIT of a handle: a stale one ends the wait at once (R261). -/
def execMwait (w : LongWord) (s : State) : Host.Outcome State Fault Refusal :=
  waitEngine w { shapeM w (w.sub6 == 0#6) with a := .src 1 }
    (fun c x => x.core == c.core && x.handle == (c.rd 0 w.a).toNat)
    (fun c f => f.handle == (c.rd 0 w.a).toNat) s

/-- MWAIT.all (R261). -/
def execMwaitAll (w : LongWord) (s : State) : Host.Outcome State Fault Refusal :=
  waitEngine w (shapeM w (subNo w == 1)) (fun c x => x.core == c.core && x.grp == c.grp) (fun _ _ => true) s

/-! ### MDRAIN, MZERO, MSAVE, MLOAD, MCHK -/

/-- Translations of addresses that an engine command touches, one for each page: misses are resolved first,
the lowest failing address traps, a NOTVALID faults (R54, R62). -/
def checkPages (c : Ic) (vas : List Nat) : Except Stop (List Xl) :=
  let rs := vas.map (fun va => (va, translate c.s c.core c.ctx c.g.walked va))
  let misses := rs.filterMap (fun r => match r.2 with | .miss p => some p | _ => none)
  if !misses.isEmpty then .error (.misses (sortNat misses))
  else match rs.findSome? (fun r => match r.2 with | .fault k => if k == 2 then none else some (kindTrap k r.1) | _ => none) with
    | some t => .error (.trap t)
    | none => match rs.findSome? (fun r => match r.2 with | .fault _ => some r.1 | _ => none) with
      | some va => .error (.pageFault va)
      | none => .ok ((rs.filterMap (fun r => match r.2 with | .ok x => some x | _ => none)).eraseDups)

/-- The bases of the 64 KiB pages of byte ranges. -/
def pagesOf (rs : List (Nat × Nat)) : List Nat :=
  sortNat (rs.flatMap (fun r => if r.2 = 0 then [] else
    (List.range ((r.1 + r.2 - 1) / 65536 - r.1 / 65536 + 1)).map (fun i => if i = 0 then r.1 else (r.1 / 65536 + i) * 65536)))

/-- Bytes of an element of a drain (Table 14.8). -/
def drainWidth (ty : Nat) : Nat := if ty == 8 then 4 else 2

/-- A bad MDRAIN descriptor (Table 14.8). -/
def badDrain (d : Nat) : Bool :=
  let ty := bitsAt d 22 5
  let pitch := bitsAt d 0 20
  d / 2 ^ 30 != 0 || nbit d 27 || !(ty == 8 || ty == 9 || ty == 0xA) || pitch % 32 != 0 || decide (pitch < 128 * drainWidth ty)

/-- The rows of a drain: first byte and length. -/
def drainRows (d base : Nat) : List (Nat × Nat) :=
  (List.range 128).map (fun i => (base + i * bitsAt d 0 20, 128 * drainWidth (bitsAt d 22 5)))

/-- The scratchpad words of tile logs of a team. -/
def logWords (e : Engine) (core : Nat) : List (Nat × Nat) :=
  e.tiles.flatMap (fun t => match t.bound with
    | some (c, _, _) => if c == core then t.log.flatMap (fun l => spadWords (l.units.map (fun u => (u.1, u.2.1)))) else []
    | none => [])

/-- MDRAIN (R262, R263). -/
def execMdrain (w : LongWord) (s : State) : Host.Outcome State Fault Refusal :=
  issue s w { shapeM w (subNo w < 8) with a := .src 2 } { entry := true, tx := some 2 } (fun c => do
    let dst := (c.rd 0 w.a).toNat
    let dw := readRegAt c.g 0 w.a 1
    let d := dw.toNat
    let lid := bitsAt d 20 2
    let spad := nbit (subNo w) 1
    need (!badDrain d && (if spad then dst < 2 ^ 24 else dst % 32 == 0)) (.trap (emma 0x0B))
    match heldTile c.eng c.core c.grp lid with
    | none => .error (.trap (emma 4))
    | some b =>
      let go (words : List (Nat × Nat)) (xls : List Xl) (tok : Bool) : Except Stop Eff := do
        .ok (postEngine c (← enterTable c (.mdrain (subNo w) dw (c.rd 0 w.a)) [(lid, b)] [] [] words 0 xls tok))
      if spad then
        match rankCore c (bitsAt dst 20 4) with
        | none => .error (.trap (emma 5))
        | some k =>
          need (k == c.core || !c.t.closed.contains (bitsAt dst 20 4)) (.trap ⟨0x06, word dst, 0⟩)
          let rows := drainRows d (dst % 2 ^ 20)
          need (rows.all (fun r => decide (r.1 + r.2 ≤ recScratch c.r))) (.trap (emma 6))
          let words := rows.flatMap (fun r => (List.range ((r.1 + r.2 - 1) / 8 - r.1 / 8 + 1)).map (fun i => (2 * k, r.1 / 8 + i)))
          let busy := c.eng.table.flatMap (fun x => match x.2.cmd with
            | .mma _ _ _ => if x.2.core == c.core then x.2.words else []
            | _ => [])
          match overlapAt words (busy ++ logWords c.eng c.core) with
          | some o => .error (.trap ⟨0x0B, word o, 0⟩)
          | none => go words [] false
      else
        need (!(recDet c.r && c.t.hadToken && !c.t.hasToken)) (edetwait 3)
        let xls ← checkPages c (pagesOf (drainRows d dst))
        need (xls.all (fun x => x.mt == 0 && x.w)) (.trap (emma 0x0B))
        go [] xls (recDet c.r))

/-- MZERO (R264). -/
def execMzero (w : LongWord) (s : State) : Host.Outcome State Fault Refusal :=
  issue s w (shapeM w (subNo w != 0 && subNo w < 16)) { entry := true, tx := some 2 } (fun c => do
    match maskTiles c (subNo w) with
    | none => .error (.trap (emma 4))
    | some ts => .ok (postEngine c (← enterTable c .mzero ts [] [] [] 0 [] false)))

/-- MSAVE and MLOAD (R265). -/
def tileMemory (w : LongWord) (save : Bool) (s : State) : Host.Outcome State Fault Refusal :=
  issue s w { shapeM w (subNo w < 4) with a := .src 1 } { entry := true, tx := some 2 } (fun c => do
    let va := c.rd 0 w.a
    need (va.toNat % 128 == 0) (.trap (emma 0x0B))
    match heldTile c.eng c.core c.grp (subNo w) with
    | none => .error (.trap (emma 4))
    | some b =>
      let xls ← checkPages c (pagesOf [(va.toNat, 131072)])
      need (xls.all (fun x => x.mt == 0 && (x.w || !save))) (.trap (emma 0x0B))
      .ok (postEngine c (← enterTable c (if save then .msave va else .mload va) [(subNo w, b)] [] [] [] 0 xls false)))

/-- MSAVE (R265). -/
def execMsave (w : LongWord) (s : State) : Host.Outcome State Fault Refusal := tileMemory w true s
/-- MLOAD (R265). -/
def execMload (w : LongWord) (s : State) : Host.Outcome State Fault Refusal := tileMemory w false s

/-- MCHK (R266): the status returns when the check is made. -/
def execMchk (w : LongWord) (s : State) : Host.Outcome State Fault Refusal :=
  issue s w { shapeM w (subNo w < 4) with d := .dst 1 } { entry := true, tx := some 2, dests := [destOf w.d] } (fun c => do
    match heldTile c.eng c.core c.grp (subNo w) with
    | none => .error (.trap (emma 4))
    | some b =>
      let r ← enterTable c .mchk [(subNo w, b)] [] [] [] 0 [] false
      .ok (enterLong { c with s := r.1 } [destOf w.d] Ord.relaxed (.engine r.2) []))

/-! ### Completion of a command (R251 to R267) -/

/-- The destination address of a command, for FADDR (R383). -/
def EngCmd.dest : EngCmd → Word
  | .mdrain _ _ d => d
  | .msave a => a
  | _ => 0

/-- A command leaves the table: a posted one's entry is released, MCHK returns its status, and a failure is
kept for MWAIT, or is MCHK's own; in handler mode a MCHK that meets an uncorrectable error stays, and acts again once the firmware
has resolved it (R244, R266, R267, R346). -/
def endCommand (s : State) (q slot : Nat) (x : EngEntry) (status : Word) (fail : Option TrapInfo) : State :=
  let again : Bool := x.cmd == .mchk && (fail.map (·.cause)) == some 0x10
    && ((groupAt s x.core x.grp).map (fun g => g.hm.isSome && !g.rmtOp)).getD false
  let s := modEngine s q (fun e => { e with
    table := if again then e.table else tdel e.table slot, granted := if e.granted == some slot then none else e.granted,
    fails := match fail with
      | some t => if x.cmd == .mchk then e.fails else e.fails ++ [⟨x.core, x.grp, x.handle, x.stamp, x.pc, x.cmd.dest, t⟩]
      | none => e.fails })
  match (tget s.teams x.core).bind (fun t => t.ott.find? (fun e => e.id == x.ott)) with
  | none => s
  | some e =>
    match e.work, fail with
    | .engine _, none => finishEntry s x.core { e with got := [(0, status)] }
    | .engine _, some t =>
      if x.cmd != .mchk then finishEntry s x.core e
      else if t.cause == 0x10 && !(((groupAt s x.core x.grp).map (·.rmtOp)).getD true) then
        consumePoison s x.core x.ctx e t
      else finishEntry s x.core (e.fail 0 t)
    | _, _ => s

/-- The physical tiles of an entry, with their logical ids; none when one is no longer bound (R242). -/
def entryTiles (e : Engine) (x : EngEntry) : Option (List (Nat × Nat)) :=
  x.tiles.foldr (fun t r => match tileOf e t.2, r with
    | some (i, _), some r => some ((t.1, i) :: r)
    | _, _ => none) (some [])

/-- The physical address of a byte of an engine command. -/
def engPa (s : State) (x : EngEntry) (va : Nat) : Option (Nat × Xl) :=
  (x.xls.find? (fun y => decide (y.va0 ≤ va) && decide (va < y.va0 + y.size))).map (fun y => (physAddr s x.ctx y va false, y))

/-- A write of an engine command at its home: an address that is not populated is an error response (R66, R267). The
issuing core's L1 keeps no older line of it, so that a load after MWAIT reads what was drained (R294). -/
def engWrite (x : EngEntry) (r : State × Option TrapInfo) (va : Nat) (bs : List Byte) : State × Option TrapInfo :=
  match engPa r.1 x va with
  | none => r
  | some (pa, y) =>
    if !populated pa bs.length then (logViolation r.1 pa, r.2.orElse (fun _ => some (holeTrap va)))
    else (l1DropRange (homeWrite (l2TouchAll (meetUpsets r.1 pa bs.length) pa bs.length y.cp y.wp true) pa bs) x.core pa bs.length, r.2)

/-- One element of a drain: rounded, or added to the destination's (R262). -/
def drainElem (ty rm : Nat) (add : Bool) (old : Nat) (c : BitVec 32) : Nat :=
  let v := fmtF32.read c.toNat
  (fmtT ty).round rm false none (if add then numAdd rm ((fmtT ty).read old) v else v)

/-- Writes a tile out (R262, R263). -/
def drainTile (s : State) (x : EngEntry) (flags : Nat) (d dest : Word) (t : Tile) : State × Option TrapInfo :=
  let ty := bitsAt d.toNat 22 5
  let wd := drainWidth ty
  let rm := bitsAt d.toNat 28 2
  let add := nbit flags 0
  (List.range 16384).foldl (fun r k =>
    let o := k / 128 * bitsAt d.toNat 0 20 + k % 128 * wd
    let c := drained32 (elemAt t.elems k)
    if nbit flags 1 then
      let core := (((tget r.1.teams x.core).map (fun t => clusterCores r.1 t)).getD []).getD (bitsAt dest.toNat 20 4) x.core
      let a := dest.toNat % 2 ^ 20 + o
      if add && spadPoison r.1 core a then (logLost r.1 2 core, r.2.orElse (fun _ => some { spadTrap r.1 core a with taddr := 0 }))
      else (spadWrite r.1 core a (leBytes wd (drainElem ty rm add (leNat (spadRead r.1 core a wd)) c)), r.2)
    else
      let va := dest.toNat + o
      match engPa r.1 x va with
      | none => r
      | some (pa, _) =>
        if add && populated pa wd && lostAt r.1 pa wd then
          let s := meetUpsets r.1 pa wd
          (s, r.2.orElse (fun _ => some (uncorrTrap va (poisonStruct s pa wd) 0)))
        else engWrite x r va (leBytes wd (drainElem ty rm add (memNat r.1.mem pa wd) c))) (s, none)

/-- Writes a tile's image (R265). -/
def saveTile (s : State) (x : EngEntry) (va : Word) (t : Tile) : State × Option TrapInfo :=
  (List.range 16384).foldl (fun r k =>
    let e := elemAt t.elems k
    engWrite x r (va.toNat + 8 * k) (leBytes 4 e.1.toNat ++ leBytes 4 e.2.toNat)) (s, none)

/-- Reads a tile's image (R265). -/
def loadTile (s : State) (x : EngEntry) (va : Word) : State × Option TrapInfo × Tab (BitVec 32 × BitVec 32) :=
  (List.range 16384).foldl (fun r k =>
    let a := va.toNat + 8 * k
    match engPa r.1 x a with
    | none => r
    | some (pa, y) =>
      if !populated pa 8 then (logViolation r.1 pa, r.2.1.orElse (fun _ => some (holeTrap a)), r.2.2)
      else if lostAt r.1 pa 8 then
        let s := meetUpsets r.1 pa 8
        (s, r.2.1.orElse (fun _ => some (uncorrTrap a (poisonStruct s pa 8) 0)), r.2.2)
      else
        let s := l2Touch (meetUpsets r.1 pa 8) pa y.cp y.wp false
        let e := (BitVec.ofNat 32 (memNat s.mem pa 4), BitVec.ofNat 32 (memNat s.mem (pa + 4) 4))
        (s, r.2.1, if e == elemZero then r.2.2 else r.2.2 ++ [(k, e)])) (s, none, [])

/-- A pass over one tile of its region (R251): elements, and with ZERO first the region at (−0, −0). -/
def passTile (ws : List Word) (as bs : List (List Num)) (ti tj : Nat) (t : Tab (BitVec 32 × BitVec 32)) : Tab (BitVec 32 × BitVec 32) :=
  let g := mmaClass (pw ws 0 13 5)
  mapElems t (fun k x => match passPos ws ti tj k with
    | some (i, j) => accumElem g (as.getD i []) (bs.getD j []) (if pw ws 1 6 1 == 1 then elemZero else x)
    | none => x)

/-- A tile with its region set to (−0, −0). -/
def zeroRegion (ws : List Word) (ti tj : Nat) (t : Tab (BitVec 32 × BitVec 32)) : Tab (BitVec 32 × BitVec 32) :=
  if pw ws 1 6 1 == 1 then mapElems t (fun k x => if (passPos ws ti tj k).isSome then elemZero else x) else t

/-- A tile at (ti, tj) of the grid after a pass: elements, shadow, checksums, log and TAG (R251, R254, R255). With ZERO the
checksums are formed again of what stays of the tile. -/
def passOver (ws : List Word) (as bs : List (List Num)) (ti tj : Nat) (l : PassLog) (t : Tile) : Tile :=
  let base (col : Bool) (ck : Tab (BitVec 32 × BitVec 32)) : Tab (BitVec 32 × BitVec 32) :=
    if pw ws 1 6 1 == 1 then formCk col (zeroRegion ws ti tj t.elems) else ck
  { t with elems := passTile ws as bs ti tj t.elems, shadow := zeroRegion ws ti tj t.shadow,
           ckRow := passCk ws as bs false ti tj (base false t.ckRow), ckCol := passCk ws as bs true ti tj (base true t.ckCol),
           log := t.log ++ [l], tag := pw ws 6 0 32 }

/-- The EUNCORR of a unit that a pass reads: it names the bank that holds it (R206, R243, Table 22.2). -/
def unitTrap (s : State) (u : Nat × Nat) : TrapInfo :=
  if u.1 % 2 = 0 then { spadTrap s (u.1 / 2) (8 * u.2) with taddr := 0 } else uncorrTrap 0 2 (opbufBank (8 * u.2))

/-- A unit as a running pass reads it: a value that it had before a write made during the pass, or the value now, which
one being open (R260). -/
def unitDuring (s : State) (x : EngEntry) (space w : Nat) : Word :=
  let cs := (x.olds.filter (fun u => u.1 == space && u.2.1 == w)).map (·.2.2) ++ [unitNow s space w]
  cs.getD (Config.pickOld s.free (w * 1024 + space) % cs.length) 0

/-- A pass (R251 to R255): the checks that come before it, the sums, the log, and the check after a pass
with a register operand. -/
def runPass (s : State) (q : Nat) (x : EngEntry) (ws : List Word) (aop bop : List Byte) (tiles : List (Nat × Nat)) :
    State × Option TrapInfo :=
  let a := passSrc s x.core ws aop bop x.kept false
  let b := passSrc s x.core ws aop bop x.kept true
  let us := opndUnits a ++ opndUnits b
  let bad := us.find? (fun u => unitLost s u.1 u.2)
  match bad with
  | some u => (logLost s 2 (u.1 / 2), some (unitTrap s u))
  | none =>
    let first := tiles.filter (fun t => pw ws 1 6 1 == 1 ||
      (((engineOf s q).tiles[t.2]?).map (fun t => decide (t.log.length ≥ 64))).getD false)
    let r := checkTiles s q (first.map (·.2))
    if !r.2 then (r.1, some ⟨0x10, 0, 0x50⟩)
    else
      let rd := unitDuring r.1 x
      let as := (List.range a.o.rows).map (a.row rd)
      let bs := (List.range b.o.rows).map (b.row rd)
      let lg : PassLog := ⟨ws, aop, bop, x.recs, x.kept, us.map (fun u => (u.1, u.2, rd u.1 u.2))⟩
      let s := (passTiles ws).foldl (fun s y =>
        match tiles.find? (fun t => t.1 == y.1) with
        | none => s
        | some (_, i) => modTile s q i (passOver ws as bs y.2.1 y.2.2 lg)) { r.1 with free := r.1.free + 1 }
      if (passOpnd ws false).reg || (passOpnd ws true).reg then
        let r := checkTiles s q (tiles.map (·.2))
        (r.1, if r.2 then none else some ⟨0x10, 0, 0x50⟩)
      else (s, none)

/-- The status of MCHK (Table 14.9). -/
def chkStatus (r : Checked) (corr : Nat) : Word :=
  match r with
  | .corrected k => word (k / 128 + 2 ^ 8 * (k % 128) + 2 ^ 16 + 2 ^ 32 * corr)
  | _ => word (2 ^ 32 * corr)

/-- A SELFTEST result (Table 26.5). -/
def selftestWord (pattern result unit_ fails : Nat) : Word := word (pattern + 2 ^ 4 * result + 2 ^ 8 * unit_ + 2 ^ 16 * fails)

/-- The number of units that a pattern tells apart, for UNIT (Table 26.5). -/
def selftestUnits (pattern : Nat) : Nat := if pattern = 0 then 33 else if pattern = 4 then 8 else 256

/-- A pattern runs: whether the hardware passes, and where it fails, is the environment's (R392). The result
is also SELFTESTSTAT's. -/
def runSelftest (s : State) (core pattern : Nat) : State × Word :=
  let o := Config.outcome s.free
  let w := if o % 2 = 0 then selftestWord pattern 0 0 0
    else selftestWord pattern 1 (o / 2 % selftestUnits pattern) (1 + o / 2 / selftestUnits pattern % 0xFFFF)
  (modCore { s with free := s.free + 1 } core (fun c => { c with selftest := w }), w)

/-- A granted command on its tiles (R251 to R266): the state, MCHK's status, and a failure. A check that is
uncorrectable ends the command without its effect. -/
def runCommand (s : State) (q : Nat) (x : EngEntry) (tiles : List (Nat × Nat)) : State × Word × Option TrapInfo :=
  let is := tiles.map (·.2)
  let i := is.headD 0
  let tile (s : State) : Tile := (engineOf s q).tiles.getD i Tile.reset
  let lost : Option TrapInfo := some ⟨0x10, 0, 0x50⟩
  match x.cmd with
  | .mma ws aop bop => let r := runPass s q x ws aop bop tiles; (r.1, 0, r.2)
  | .mzero => (is.foldl (fun s i => clearTile s q i) s, 0, none)
  | .mchk =>
    let r := checkTile s q i
    if r.2 == .bad then (r.1, 0, lost) else (checkPoint r.1 q i, chkStatus r.2 (tile r.1).corr, none)
  | .mdrain f d a =>
    let r := checkTile s q i
    if r.2 == .bad then (r.1, 0, lost)
    else
      let y := drainTile r.1 x f d a (tile r.1)
      (if nbit f 2 then checkPoint y.1 q i else clearTile y.1 q i, 0, y.2)
  | .msave a =>
    let r := checkTile s q i
    if r.2 == .bad then (r.1, 0, lost)
    else
      let y := saveTile r.1 x a (tile r.1)
      (checkPoint y.1 q i, 0, y.2)
  | .mload a =>
    let y := loadTile s x a
    match y.2.1 with
    | some t => (y.1, 0, some t)
    | none =>
      let fill (t : Tile) : Tile :=
        { t with elems := y.2.2, shadow := y.2.2, ckRow := formCk false y.2.2, ckCol := formCk true y.2.2, log := [] }
      (modTile y.1 q i fill, 0, none)
  | .selftest => let r := runSelftest s x.core 2; (r.1, r.2, none)
  | .mrelTiles | .mrelBuf _ | .written _ => (s, 0, none)

/-! ### Tiles and commands of resumed teams (R242, R268) -/

/-- Commands by the order of their entry in the table. -/
def insertCmd (x : EngEntry) : List EngEntry → List EngEntry
  | [] => [x]
  | y :: r => if x.stamp ≤ y.stamp then x :: y :: r else y :: insertCmd x r

/-- The GENs of two quads: of each entry the larger (R268). -/
def maxGens (a b : Tab Nat) : Tab Nat :=
  a.foldl (fun r x => if tgetD r x.1 0 < x.2 then tset r x.1 x.2 else r) b

/-- Re-enters saved commands in the request table, in their order (R268). -/
def enterSaved (e : Engine) : List EngEntry → Engine
  | [] => e
  | x :: r =>
    match (List.range 32).find? (fun i => (tget e.table i).isNone) with
    | some i => enterSaved { e with table := tset e.table i x } r
    | none => enterSaved e r

/-- Binds saved tiles to free physical tiles, lowest first. -/
def bindSaved (tiles : List Tile) : List Tile → List Tile
  | [] => tiles
  | x :: r =>
    match tiles.findIdx? (fun t => t.bound.isNone) with
    | some i => bindSaved (tiles.set i x) r
    | none => tiles

/-- The resumed teams of a quad bind their tiles, and their commands re-enter the table, where enough are free
(R242, R268). -/
def settleTiles (s : State) (q : Nat) : State :=
  ((s.teams.filter (fun x => quadNo x.1 == q)).map (·.1)).foldl (fun s core =>
    match (tget s.teams core).bind (·.eng) with
    | none => s
    | some k =>
      let e := engineOf s q
      if (e.tiles.filter (fun t => t.bound.isNone)).length < k.tiles.length || 32 - e.table.length < k.cmds.length then s
      else
        let s := modTeam s core (fun t => { t with eng := none })
        modEngine s q (fun e => enterSaved
          { e with tiles := bindSaved e.tiles k.tiles, fails := e.fails ++ k.fails, gens := maxGens k.gens e.gens } k.cmds)) s

/-- The bytes of memory that a command writes, as address and length. -/
def EngCmd.rows : EngCmd → List (Nat × Nat)
  | .mdrain f d a => if nbit f 1 then [] else drainRows d.toNat a.toNat
  | .msave a => [(a.toNat, 131072)]
  | _ => []

/-- The lines of memory that a command writes. -/
def engLines (s : State) (x : EngEntry) : List Nat :=
  x.cmd.rows.flatMap (fun r => (List.range ((r.1 + r.2 - 1) / 128 - r.1 / 128 + 1)).filterMap (fun i =>
    (engPa s x (r.1 / 128 * 128 + 128 * i)).map (fun p => p.1 / 128)))

/-- A command has taken effect: it leaves, or, where invalidations of what it wrote are pending, stays unacknowledged until they are
applied, its failure kept as if it had left (R299). -/
def commandDone (s : State) (q slot : Nat) (x : EngEntry) (status : Word) (fail : Option TrapInfo) : State :=
  match stillPending s (engLines s x) with
  | [] => settleTiles (endCommand s q slot x status fail) q
  | lines => modEngine s q (fun e => { e with
      table := tset e.table slot { x with cmd := .written lines, tiles := [], recs := [], kept := [], words := [], olds := [], stage := 0, xls := [] },
      granted := none,
      fails := match fail with
        | some t => e.fails ++ [⟨x.core, x.grp, x.handle, x.stamp, x.pc, x.cmd.dest, t⟩]
        | none => e.fails })

/-- ENGINE_COMMAND_COMPLETE: the granted command of the quad in the cursor's core takes effect and leaves; or, with its slot + 1 in
the cursor's id, a command that waits for the invalidations of what it wrote is acknowledged (R299). -/
def execEngineCommandComplete (s : State) : Host.Outcome State Fault Refusal :=
  let q := s.iss.core
  let e := engineOf s q
  if s.iss.id != 0 then
    match tget e.table (s.iss.id - 1) with
    | some x =>
      (match x.cmd with
       | .written lines =>
         if (stillPending s lines).isEmpty then .next (settleTiles (endCommand s q (s.iss.id - 1) x 0 none) q) else .fault .notEnabled
       | _ => .fault .notEnabled)
    | none => .fault .notEnabled
  else match e.granted with
  | none => .fault .notEnabled
  | some slot =>
    match tget e.table slot with
    | none => .fault .notEnabled
    | some x =>
      match entryTiles e x with
      | none => .next (settleTiles (endCommand s q slot x 0 (some (emma 4))) q)
      | some ts =>
        let r := runCommand s q x ts
        .next (commandDone r.1 q slot x r.2.1 r.2.2)

/-! ### Grant, ageing and release (R242, R244, R245, R259) -/

/-- The threads in whose program order a command stands (R290). -/
def engTids (t : Team) (x : EngEntry) : List Nat := ((t.ott.find? (fun e => e.id == x.ott)).map (fun e => e.tids.map (·.2))).getD []

/-- Everything that the group, or a thread that issued the command, issued before it is performed; a write in the DET store
buffer counts for a command that touches memory (R260, R263, R290). -/
def earlierPerformed (s : State) (x : EngEntry) : Bool :=
  match tget s.teams x.core with
  | none => true
  | some t =>
    !(t.ott.any (fun e => e.of x.grp (engTids t x) && e.id < x.stamp && engineWaits e.work && (e.work != .buffered || !x.xls.isEmpty)))

/-- The group of an entry waits for the firmware at it (R346). -/
def toldAt (s : State) (x : EngEntry) : Bool :=
  match groupAt s x.core x.grp with
  | none => false
  | some g =>
    match g.status with
    | .pageFault _ _ (some i) _ _ => i == x.ott
    | _ => false

/-- An entry is eligible: a global MDRAIN of a deterministic launch once its team holds the token and the team's store buffer
has drained (R244, R245, R315). -/
def eligible (s : State) (e : Engine) (x : EngEntry) : Bool :=
  (match x.cmd with | .mrelTiles | .mrelBuf _ | .written _ => false | _ => true)
  && !(e.table.any (fun y => y.2.stamp < x.stamp && y.2.tiles.any (fun a => x.tiles.any (fun b => a.2 == b.2))))
  && (!x.tok || ((tget s.teams x.core).map (fun t => t.hasToken && t.det.isEmpty)).getD false)
  && earlierPerformed s x && !toldAt s x

/-- The priority of an entry (R245). -/
def EngEntry.priority (x : EngEntry) : Nat := if x.aged then 8 else x.prio

/-- The entry that the arbiter grants (R245). -/
def arbiter (s : State) (e : Engine) : Option (Nat × EngEntry) :=
  (e.table.filter (fun x => eligible s e x.2)).foldl (fun a x =>
    match a with
    | none => some x
    | some y => if x.2.priority > y.2.priority || (x.2.priority == y.2.priority && x.2.stamp < y.2.stamp) then some x else some y) none

/-- ENGINE_GRANT (R245): a command one of whose tiles has been released performs nothing and fails (R242). -/
def execEngineGrant (s : State) : Host.Outcome State Fault Refusal :=
  let q := s.iss.core
  let e := engineOf s q
  if e.granted.isSome then .fault .notEnabled
  else match arbiter s e with
    | none => .fault .notEnabled
    | some (slot, x) =>
      match entryTiles e x with
      | none => .next (settleTiles (endCommand s q slot x 0 (some (emma 4))) q)
      | some _ => .next (modEngine s q (fun e => { e with granted := some slot }))

/-- ENGINE_ENTRY_AGE: the entry in the cursor's id counts as priority 8 (R245). -/
def execEngineEntryAge (s : State) : Host.Outcome State Fault Refusal :=
  let e := engineOf s s.iss.core
  match tget e.table s.iss.id with
  | some x =>
    if x.aged || e.granted == some s.iss.id then .fault .notEnabled
    else .next (modEngine s s.iss.core (fun e => { e with table := tset e.table s.iss.id { x with aged := true } }))
  | none => .fault .notEnabled

/-- An MREL may be performed: every earlier entry that names its tiles or reads its record has completed,
and what the group issued before is performed (R259). -/
def mrelReady (s : State) (e : Engine) (x : EngEntry) : Bool :=
  (match x.cmd with | .mrelTiles | .mrelBuf _ => true | _ => false)
  && !(e.table.any (fun y => y.2.stamp < x.stamp &&
      (y.2.tiles.any (fun a => x.tiles.any (fun b => a.2 == b.2)) || y.2.recs.any (fun a => x.recs.contains a))))
  && !(x.cmd != .mrelTiles && ((tget s.teams x.core).map (fun t => t.resv.any (fun v => x.recs.contains (x.core, v.id) && !v.ready))).getD false)

/-- The release that an MREL makes: the tiles become free, or the range, after a check of the tiles whose
logs name the record (R259, Table 14.4); with a tile that an earlier MREL has released it performs nothing and fails (R242). -/
def mrelPerform (s : State) (q slot : Nat) (x : EngEntry) : State :=
  let e := engineOf s q
  match x.cmd with
  | .mrelBuf id =>
    let is := (e.tiles.zipIdx.filter (fun t => t.1.log.any (fun l => l.recs.contains (x.core, id)))).map (·.2)
    let r := checkTiles s q is
    endCommand (modTeam r.1 x.core (fun t => { t with resv := t.resv.filter (fun v => v.id != id) })) q slot x 0
      (if r.2 then none else some ⟨0x10, 0, 0x50⟩)
  | _ =>
    match entryTiles e x with
    | none => endCommand s q slot x 0 (some (emma 4))
    | some ts => endCommand (ts.foldl (fun s t => modTile s q t.2 (fun _ => Tile.reset)) s) q slot x 0 none

/-- MREL_PERFORM (R259): of the entry in the cursor's id of the quad in its core. -/
def execMrelPerform (s : State) : Host.Outcome State Fault Refusal :=
  let e := engineOf s s.iss.core
  match tget e.table s.iss.id with
  | some x => if mrelReady s e x then .next (settleTiles (mrelPerform s s.iss.core s.iss.id x) s.iss.core) else .fault .notEnabled
  | none => .fault .notEnabled

end Sys2Proof.Machine
end

