-- ==== Sys2Proof/Machine/Sync.lean ====
section
/-! DEFINITION. Atomics, transactions, fences, barriers, barrier objects and the commit token (chapters
15 to 17), with the events that end their waits. -/

namespace Sys2Proof.Machine

/-! ### ATOM, RED, ATOMS, ATOMX (R286, R303 to R305) -/

/-- A type that the atomics admit. -/
def atomType (t : Nat) : Bool := t ≤ 3 || t == 8

/-- An OP that the type admits; the others raise EILL with reason 0x0C. -/
def atomOp (op t : Nat) : Bool := op ≤ 7 && !(t == 8 && 3 ≤ op && op ≤ 5)

/-- The shape of an atomic: cas takes a pair in B and has no X form. -/
def shapeAtom (w : LongWord) (d : Use) (high : Bool) : Shape :=
  let op := w.c.toNat % 16
  { form := w.lit.isNone || op != 7, sub := atomType (subNo w), m6 := mRmw w, d := d, a := .src 1,
    b := if op == 7 then .src 2 else .src 1, c := .imm,
    ok12 := litFits (subNo w) w && atomOp op (subNo w) && high }

/-- The lanes of an atomic with their operands. -/
def atomLanes (c : Ic) (ls : List Acc) : List AtomLane :=
  ls.map (fun a => ⟨a, opB c (subNo c.w) a.lane, readRegAt c.g a.lane c.w.b 1⟩)

/-- The operations that go to a peer reserve their places in OUT of the stream, or wait (R276). -/
def reserveOut (c : Ic) (stream : Nat) (ls : List Acc) : Except Stop State :=
  let k := (ls.filter (fun a => a.xl.mt == 5)).length
  let st := streamOf (ctxOf c.s c.ctx) stream
  if k = 0 then .ok c.s
  else if st.out + k > 1024 then .error (.stall .streamRoom)
  else .ok (modGroup (modStream c.s c.ctx stream (fun x => { x with out := x.out + k })) c.core c.grp (fun g => { g with rmtOp := true }))

/-- The checks of the lanes of a read-modify-write; one in a peer's memory on a stream that is not OPEN fails with EWIN
(R223, R275). -/
def checkAtoms (c : Ic) (stream : Nat) : Except Stop (List Acc) :=
  let open_ := (streamOf (ctxOf c.s c.ctx) stream).st == 1
  joined (c.lanes.map (fun l =>
    let va := (c.rd l c.w.a).toNat
    (l, va, match checkLane c.s c.core c.ctx c.svc c.g.walked .rmw va (tyBits (subNo c.w) / 8) false with
      | .ok x => if x.mt == 5 && !open_ then .trap ⟨0x13, word va, remoteInfo 0 0 x.aux stream 0 1⟩ else .ok x
      | r => r)))

/-- ATOM and ATOMX on a stream (R286, R305). -/
def atomLong (w : LongWord) (stream : Nat) (high : Bool) (s : State) : Host.Outcome State Fault Refusal :=
  issue s w (shapeAtom w (.dst 1) high) { entry := true, tx := some 2, dests := [destOf w.d] } (fun c => do
    let ls ← checkAtoms c stream
    detToken c
    let s ← reserveOut c stream ls
    .ok (enterLong { c with s := s } [destOf w.d] (ordOf w.m6) (.atom (w.c.toNat % 16) (subNo w) stream (atomLanes c ls)) []))

/-- ATOM, on stream 0 for a peer's memory (R305). -/
def execAtom (w : LongWord) (s : State) : Host.Outcome State Fault Refusal := atomLong w 0 (w.c.toNat < 16) s

/-- ATOMX, on the stream in C[7:4] (R286). -/
def execAtomx (w : LongWord) (s : State) : Host.Outcome State Fault Refusal := atomLong w (w.c.toNat / 16) true s

/-- RED (R305). -/
def execRed (w : LongWord) (s : State) : Host.Outcome State Fault Refusal :=
  issue s w (shapeAtom w .unused (w.c.toNat < 16)) { entry := true, tx := some 2 } (fun c => do
    let ls ← checkAtoms c 0
    let work := Work.atom (w.c.toNat % 16) (subNo w) 0 (atomLanes c ls)
    detRelease c (effOrd (ordOf w.m6) work)
    detFenced c work
    let way ← detBuffered c
    let s ← reserveOut c 0 ls
    match way with
    | .direct => .ok (enterPosted { c with s := s } (ordOf w.m6) work)
    | .buffer => .ok (enterDet { c with s := s } (ordOf w.m6) work))

/-- ATOMS (R305). -/
def execAtoms (w : LongWord) (s : State) : Host.Outcome State Fault Refusal :=
  issue s w (shapeAtom w (.dst 1) (w.c.toNat < 32)) { entry := true, dests := [destOf w.d] } (fun c => do
    let n := tyBits (subNo w) / 8
    let ls ← checkSpads c (nbit w.c.toNat 4) n (c.lanes.map (fun l => (l, (c.rd l w.a).toNat)))
    detRelease c (ordOf w.m6)
    .ok (enterLong c [destOf w.d] (ordOf w.m6) (.satom (w.c.toNat % 16) (subNo w)
      (ls.map (fun a => ⟨a, opB c (subNo w) a.lane, readRegAt c.g a.lane w.b 1⟩))) []))

/-! ### Transactions (R306 to R309) -/

/-- TBEGIN: the enabled lanes open with empty sets (Table 17.1). -/
def execTbegin (w : LongWord) (s : State) : Host.Outcome State Fault Refusal :=
  issue s w (shapeW w) { entry := true, tx := some 1 } (fun c =>
    .ok (enterPosted { c with s := modGroup c.s c.core c.grp (fun g =>
      let g := c.en.foldl (fun g l => g.modLane l (fun t => { t with txs := .opened })) g
      { g with txr := g.txr.filter (fun r => !c.en.contains r.lane), txw := g.txw.filter (fun r => !c.en.contains r.lane) }) }
      Ord.relaxed .done))

/-- Whether the earlier accesses of listed lanes' threads are performed at a scope (R289, R301, R316). -/
def earlierDone (c : Ic) (scope : Scope) (lanes : List Nat) : Bool :=
  let ts := lanes.map (fun l => (c.g.lane l).tid)
  c.t.ott.all (fun x => !sharesThread ts (x.tids.map (·.2)) || countsDone scope x.work)

/-- What TCOMMIT waits for: every transactional load of the group, and, when a lane in transaction is enabled, the
accesses that a release at .dev orders for those lanes and the releases that an acquire meets (R289, R297, R309). -/
def commitReady (c : Ic) : Bool :=
  let tx := c.en.filter (inTx c)
  c.t.ott.all (fun x => !(x.grp == c.grp && (match x.work with | .load _ _ l _ => !l.isEmpty | _ => false)))
  && (tx.isEmpty || (earlierDone c .dev tx && wcQuiet c.t && marksFree c.s 3))

/-- TCOMMIT: once the team's DET store buffer has drained, the group's transactional loads have returned and the earlier
accesses that its release orders are performed, the commit is made; it is acq_rel at .dev (R309, R315). Its status returns once
the invalidations of the lines that it wrote are applied (R299). -/
def execTcommit (w : LongWord) (s : State) : Host.Outcome State Fault Refusal :=
  issue s w { shapeW w with d := .dst 1, port := .vector } { entry := true, dests := [destOf w.d] } (fun c => do
    detToken c
    need (c.t.det.isEmpty) (.stall .token)
    need (commitReady c) (.stall .order)
    let r := commitTx c.s c.core c.grp c.en
    let lines := stillPending r.1 ((c.g.txw.filter (fun x => r.2.any (fun y => y.1 == x.lane && y.2.toNat % 256 == 1))).flatMap
      (fun x => linesOf x.pa x.bytes.length))
    .ok (enterLong { c with s := r.1 } [destOf w.d] Ord.relaxed (if lines.isEmpty then .values else .inval lines) r.2))

/-- TABORT: the OPEN enabled lanes are DOOMED with the code (Table 17.1). -/
def execTabort (w : LongWord) (s : State) : Host.Outcome State Fault Refusal :=
  issue s w { shapeW w with form := true, ok12 := litNat w < 256 } { entry := true } (fun c =>
    .ok (enterPosted { c with s := modGroup c.s c.core c.grp (fun g =>
      c.en.foldl (fun g l => g.modLane l (fun t => t.doom 6 (litNat w))) g) } Ord.relaxed .done))

/-- TXS as Table 17.2 writes it. -/
def txsCode : TxState → Nat
  | .none_ => 0 | .opened => 1 | .doomed => 2

/-- TSTAT: TXW with the TXS field (R309). -/
def execTstat (w : LongWord) (s : State) : Host.Outcome State Fault Refusal :=
  issue s w { shapeW w with d := .dst 1, port := .vector } { entry := true, dests := [destOf w.d] } (fun c =>
    .ok (enterLong c [destOf w.d] Ord.relaxed .values
      (c.en.map (fun l => (l, (c.g.lane l).txw ||| word (2 ^ 22 * txsCode (c.g.lane l).txs))))))

/-! ### Resuming a blocked group -/

/-- A group blocked in an instruction offers it again: the state that its meaning runs in, with `id` for
what has ended the wait. -/
def resumeBlocked (s : State) (core grp id : Nat) : Option (Block × LongWord × State) :=
  match groupAt s core grp with
  | none => none
  | some g =>
    match g.status, issuePc g with
    | .blocked b w len d16, some pc =>
      some (b, w, modGroup { s with iss := ⟨core, grp, pc, len, d16, id⟩ } core grp (fun g => { g with status := .running }))
    | _, _ => none

/-- The end of a wait in a blocking instruction: the instruction acts again. -/
def resumeWith (s : State) (b : Block) (id : Nat) (f : LongWord → State → Host.Outcome State Fault Refusal) :
    Host.Outcome State Fault Refusal :=
  match resumeBlocked s s.iss.core s.iss.grp id with
  | some (b', w, s') => if b' == b then f w s' else .fault .notEnabled
  | none => .fault .notEnabled

/-- EXIT_DRAIN_COMPLETE: a waiting EXIT whose group has drained acts again (R129). -/
def execExitDrainComplete (s : State) : Host.Outcome State Fault Refusal :=
  match tget s.teams s.iss.core with
  | some t => if drained t s.iss.grp then resumeWith s .exit 0 execExit else .fault .notEnabled
  | none => .fault .notEnabled

/-! ### FENCE (R299, R310) -/

/-- The live peers of the package. -/
def livePeers (s : State) : List Nat := (List.range 16).filter (fun p => nbit s.live p && p != s.pkgid)

/-- Sends the sc marker of a group to every live peer (R299). -/
def sendMarkers (c : Ic) : State :=
  (livePeers c.s).foldl (fun s p => newReq s (Req.base s.stamp .marker p c.ctx c.core c.grp 0 0 c.pc 0 0 0 0)) c.s

/-- A thread of the fence has read a peer's memory, or, where the fence is sc, has written it: the fence's acquire, and its place
among sc fences, are at .sys (R269, R300). -/
def farRead (c : Ic) (sc : Bool) : Bool := c.en.any (fun l => (c.g.lane l).far || (sc && (c.g.lane l).wrote))

/-- A write to a peer's memory of the fence's threads stands in the DET store buffer: the fence orders it at .sys, and waits for
the commit token (R269, R316). -/
def farBuffered (c : Ic) : Bool :=
  let ts := c.en.map (fun l => (c.g.lane l).tid)
  c.t.det.any (fun d => workRemote d.work && sharesThread ts (d.tids.map (·.2)))

/-- A narrow FENCE with release, made while the DET store buffer holds writes of its team: they count as performed there, and what
follows it marks the locations that it writes (R293, R297, R316). -/
def noteFence (c : Ic) (o : Ord) (s : State) : State :=
  if o.rel && !c.t.det.isEmpty then
    modTeam s c.core (fun t => { t with
      fences := t.fences.filter (fun f => t.det.any (fun d => decide (d.id < f.1))) ++ [(s.stamp, scopeRank o.scope, c.tids.map (·.2))] })
  else s

/-- FENCE (R310). A release has what the team has combined drained whatever its scope, since it is taken at .sys for that and
carries what other groups have handed over, and every invalidation that they wait for applied (R218, R269, R294, R299); its
acquire is taken at .sys after a read of a peer's memory, its sc after any access to one (R269). With `id` 1 in the cursor every answer of its marker has come. -/
def execFence (w : LongWord) (s : State) : Host.Outcome State Fault Refusal :=
  issue s w { shapeW w with m6 := layoutM [1, 2, 3, 4] w.m6 } { blocking := true, tx := some 2 } (fun c => do
    let o := ordOf w.m6
    detRelease c o
    need (!(o.rel && farBuffered c)) (.stall .token)
    need (!o.rel || earlierDone c o.scope c.en) (.stall .order)
    need (!(o.rel || o.scope == .sys) || wcQuiet c.t) (.stall .order)
    match (if o.scope == .sys then latchedTrap c.g else none) with
    | some t => .error (.latched t)
    | none =>
      let far := farRead c o.sc
      need (!o.acq || c.s.iss.id == 1 || marksFree c.s (if far then 4 else scopeRank o.scope)) (.stall .order)
      let s := if o.rel then applyAll c.s else c.s
      if o.sc && (o.scope == .sys || far) && c.s.iss.id != 1 && !(livePeers c.s).isEmpty then .error (.waiting .fence (sendMarkers { c with s := s }))
      else .ok { st := noteFence c o (if clearsL1 o || (o.acq && far) then l1Clear s c.core else s) })

/-! ### BAR, CBAR (R311, R312) -/

/-- The enabled lanes arrive at a place and are held there; in a REFORM launch a group that has arrived whole is filed before the
barrier completes, the last one too (R115, R311). -/
def arriveAt (c : Ic) (h : Held) (s : State) : State :=
  let s := modGroup s c.core c.grp (fun g => c.en.foldl (fun g l => g.modLane l (fun t => { t with held := some h })) g)
  completeBarriers (fileHeld s c.core c.grp) c.core

/-- BAR and CBAR of threads: what precedes the arrival in the lanes' threads is performed first, at .team or .clus; the
group's combined stores count at .clus. Neither waits for the commit token (R40, log 62), nor for another agent. -/
def barrier (w : LongWord) (ids : Nat) (scope : Scope) (h : Nat → Held) (s : State) : Host.Outcome State Fault Refusal :=
  issue s w { shapeW w with sub := subNo w < ids } { blocking := true, tx := some 2 } (fun c => do
    need (earlierDone c .team c.en) (.stall .order)
    need (scope == .team || wcQuiet c.t) (.stall .order)
    .ok { st := c.s, post := arriveAt c (h (subNo w)) })

/-- BAR (R311). -/
def execBar (w : LongWord) (s : State) : Host.Outcome State Fault Refusal := barrier w 16 .team .bar s

/-- CBAR (R311). -/
def execCbar (w : LongWord) (s : State) : Host.Outcome State Fault Refusal := barrier w 4 .clus .cbar s

/-- In a REFORM launch a group that waits files its threads (R115). -/
def holdAll (c : Ic) (h : Held) (s : State) : State :=
  fileHeld (modGroup s c.core c.grp (fun g => (liveLanes g).foldl (fun g l => g.modLane l (fun t =>
    { t with held := some (t.held.getD h) })) g)) c.core c.grp

/-- A region entry at the next PC for the listed lanes, as REGION sets it (R347, R356). -/
def setEntries (s : State) (core grp : Nat) (lanes : List Nat) : State :=
  modGroup { s with stamp := s.stamp + 1 } core grp (fun g =>
    let g := lanes.foldl (fun g l => g.modLane l (fun t => { t with entry := ⟨t.pc, t.loops, t.txs⟩, rmt := false })) g
    { g with lcr := g.lc, regionAt := s.stamp, rmtOp := false })

/-- CBAR.copy (R312); the end of its wait is a region entry, also when it ends at once (R347). -/
def execCbarCopy (w : LongWord) (s : State) : Host.Outcome State Fault Refusal :=
  issue s w { form := w.lit.isSome || w.a != 0#8, sub := 4 ≤ subNo w && subNo w < 8, m6 := layoutZ w,
              a := .src 1, litA := true, port := .uniform } { blocking := true, tx := some 2 } (fun c => do
    let n := if w.lit.isSome then litNat w else (c.rd 0 w.a).toNat % 2 ^ 32
    let mine := (ccSince c.g).getD c.s.stamp
    if n == 0 || (ccFirst c.t c.grp mine && decide (n ≤ c.t.cc)) then
      .ok { st := modTeam c.s c.core (fun t => { t with cc := t.cc - n, l1 := [] }),
            post := fun s => modTeam (setEntries s c.core c.grp c.en) c.core (settleCc s.stamp 2048) }
    else if recReform c.r && c.g.hm.isNone then .ok { st := c.s, post := holdAll c (.ccWait n mine) }
    else .error (.stall .ccWait))

/-! ### ARRIVE, WAITV (R313) -/

/-- ARRIVE (R313). -/
def execArrive (w : LongWord) (s : State) : Host.Outcome State Fault Refusal :=
  issue s w { sub := w.sub6 == 0#6, m6 := layoutM [0, 2] w.m6, a := .src 1, b := .src 1, port := .uniform } { entry := true } (fun c => do
    let ls ← checkLanes c .arrive 64 false [(0, (c.rd 0 w.a).toNat)]
    detRelease c (ordOf w.m6)
    let n := if w.lit.isSome then litNat w else (c.rd 0 w.b).toNat % 2 ^ 32
    match ls with
    | a :: _ => .ok (enterPosted c (ordOf w.m6) (.arrive a n))
    | [] => .ok (enterPosted c (ordOf w.m6) .done))

/-- Whether a poll of a peer's object by a group is outstanding. -/
def pollOut (s : State) (core grp : Nat) : Bool := s.reqs.any (fun r => r.core == core && r.grp == grp && r.kind == .read && r.op == 4)

/-- A read of COUNT and TARGET of a peer's object for a group, or, under number 64, for filed threads, with its policy and
partition (R215, R270); the team's own buffered bytes stand before the owner's (R316). -/
def pollObject (s : State) (core ctx grp owner pa va : Nat) (pc : Word) (acq : Bool) (cp wp : Nat) : State :=
  let r := Req.base s.stamp .read owner ctx core grp 0 0 pc va pa 8 (incOf s ctx owner)
  let laid := match tget s.teams core with
    | some t => detOver s t ctx (4096 + owner) s.stamp
    | none => []
  newReq s { r with op := 4, acq := acq, cp := cp, wp := wp, laid := laid }

/-- A waiting group reads a peer's object, unless it has a read of it outstanding. -/
def pollPeer (c : Ic) (o : Ord) (a : Acc) : State :=
  if pollOut c.s c.core c.grp then c.s
  else pollObject c.s c.core c.ctx c.grp a.xl.aux (physAddr c.s c.ctx a.xl a.va false) a.va c.pc o.acq (policy o a.xl) a.xl.wp

/-- COUNT has reached TARGET in the first eight bytes of an object (R22). -/
def reachedIn (bs : List Byte) : Bool := decide (leNat ((bs.drop 4).take 4) ≤ leNat (bs.take 4))

/-- An object of the package's own memory is reached as a team's reads see it: with its own buffered bytes (R22, R316). -/
def reachedBy (s : State) (core pa : Nat) : Bool :=
  match tget s.teams core with
  | some t => reachedIn (detOverlay s t (teamCtx s t) s.stamp pa (memRead s.mem pa 8))
  | none => reached s pa

/-- The read that a WAITV makes of its object, as an entry that stands last in the order of the table (R290). -/
def objectRead (c : Ic) (a : Acc) : OttEntry :=
  ⟨c.s.stamp, c.grp, c.pc, true, c.en, c.act, true, c.tids, Ord.relaxed, .load 1 false [] [a], [], [], none⟩

/-- The read waits for a RED or a PUBL that the DET store buffer holds: for one that names the object, and for a RED with acquire
of its group (R305, R316). -/
def readBuffered (c : Ic) (a : Acc) : Bool :=
  meetsBuffered c [(a, 8)]
  || c.t.ott.any (fun x => x.work == .buffered && x.ord.acq && (x.grp == c.grp || sharesLane (objectRead c a) x))

/-- WAITV (R313): its reads of the object keep the order of its threads' earlier accesses (R291, R305). With `id` 1 in the cursor a peer has answered that its object is reached, with `id` 2 that it is not. -/
def execWaitv (w : LongWord) (s : State) : Host.Outcome State Fault Refusal :=
  issue s w { shapeW w with m6 := layoutM [0, 1] w.m6, a := .src 1, port := .uniform } { blocking := true, tx := some 2 } (fun c => do
    let o := ordOf w.m6
    let ls ← checkLanes c .waitv 64 false [(0, (c.rd 0 w.a).toNat)]
    match ls with
    | [] => .ok { st := c.s }
    | a :: _ =>
      let pa := physAddr c.s c.ctx a.xl a.va false
      need (!readBuffered c a) (.stall .token)
      need (c.s.iss.id == 1 || inOrder c.s c.ctx c.t (objectRead c a)) (.stall .order)
      if a.xl.mt == 5 then
        (if c.s.iss.id == 1 then .ok { st := if o.acq then l1Clear c.s c.core else c.s }
         else if c.s.iss.id == 2 && recReform c.r && c.g.hm.isNone then
           .ok { st := c.s, post := holdAll c (.peer a.xl.aux pa a.va c.pc.toNat o.acq (policy o a.xl) a.xl.wp) }
         else .error (.waiting .waitv (pollPeer c o a)))
      else
        let s := l2Touch (meetUpsets c.s pa 8) pa (policy o a.xl) a.xl.wp false
        if !populated pa 64 then .error (.failed (logViolation c.s pa) (holeTrap a.va))
        else if poisoned s pa 8 then .error (.failed s (uncorrTrap a.va (poisonStruct s pa 8) 0))
        else if reachedBy s c.core pa && (!o.acq || markFree s (scopeRank o.scope) pa 8) then
          .ok { st := if clearsL1 o then l1Clear s c.core else l1DropRange s c.core pa 8 }
        else if recReform c.r && c.g.hm.isNone then .ok { st := s, post := holdAll c (.waitv pa a.va c.pc.toNat (clearsL1 o) (policy o a.xl) a.xl.wp) }
        else .error (.waiting .waitv s))

/-- The objects of peers that filed threads of a team wait on. -/
def peerWaits (t : Team) : List Held :=
  (heldPlaces t).foldl (fun l h => match h with | .peer _ _ _ _ _ _ _ => if l.contains h then l else l ++ [h] | _ => l) []

/-- A read of a peer's object for filed threads is outstanding. -/
def heldPollOut (s : State) (core owner pa va : Nat) (pc : Nat) : Bool :=
  s.reqs.any (fun r => r.core == core && r.grp == 64 && r.kind == .read && r.op == 4 && r.owner == owner && r.pa == pa && r.va == va
    && r.pc.toNat == pc)

/-- Filed threads' object at a peer is read again, unless a RED that their team buffers names it (R316). -/
def pollHeld (s : State) (core ctx : Nat) (h : Held) : State :=
  match h with
  | .peer owner pa va pc acq cp wp =>
    if heldPollOut s core owner pa va pc || ((tget s.teams core).map (fun t => redBuffered s t ctx (4096 + owner) pa 8)).getD false then s
    else pollObject s core ctx 64 owner pa va (word pc) acq cp wp
  | _ => s

/-- Filed threads whose WAITV on a peer's object has failed stand at it again, with HELD = 0, and meet the failure when they
issue it (R115, R271). -/
def retryWaitv (t : Team) (h : Held) (pc stamp : Nat) : Team :=
  let back (x : Thread) : Thread := if x.held == some h then { x with held := none, pc := word pc } else x
  t.endWait h stamp (fun g => { g with threads := g.threads.map back }) (fun x => (back x.1, x.2))

/-- The waits of filed threads on a local object. -/
def localWaits (t : Team) (pa : Nat) : List Held :=
  (heldPlaces t).foldl (fun l h => match h with | .waitv a _ _ _ _ _ => if a != pa || l.contains h then l else l ++ [h] | _ => l) []

/-- A RED that a team buffers names a local object (R316). -/
def objectBuffered (s : State) (core pa : Nat) : Bool := ((tget s.teams core).map (fun t => redBuffered s t (teamCtx s t) 0 pa 8)).getD false

/-- A read of a local object for filed threads, once no buffered RED names it: they continue once it is reached, those with acquire
once the releases that it meets are carried; at an error they issue their WAITV again and meet it there (R115, R297, R313, R316,
R362). -/
def wakeOne (core : Nat) (s : State) (h : Held) : State :=
  match h with
  | .waitv pa _ pc acq cp wp =>
    if objectBuffered s core pa then s else
    let s := l2Touch (meetUpsets s pa 8) pa cp wp false
    if poisoned s pa 8 then modTeam s core (fun t => retryWaitv t h pc s.stamp)
    else if reachedBy s core pa && (!acq || markFree s 4 pa 8) then
      let s := modTeam (l1DropRange s core pa 8) core (fun t => wakeHeld t h s.stamp)
      if acq then l1Clear s core else s
    else s
  | _ => s

/-- The object at a physical address is read for the threads that a REFORM launch has filed at it (R115, R313). -/
def wakeWaitv (s : State) (core pa : Nat) : State :=
  match tget s.teams core with
  | some t => (localWaits t pa).foldl (wakeOne core) s
  | none => s

/-- WAITV_POLL: a waiting WAITV reads its object again; of the threads that a REFORM launch has filed, those whose object,
at the physical address in the cursor's id, is reached continue, and a peer's object, numbered from context 64 on, is read
again (R313, R115). -/
def execWaitvPoll (s : State) : Host.Outcome State Fault Refusal :=
  match tget s.teams s.iss.core with
  | none => .fault .notEnabled
  | some t =>
    if 64 ≤ s.iss.grp then
      (match (peerWaits t)[s.iss.grp - 64]? with
       | some h => .next (pollHeld s s.iss.core (teamCtx s t) h)
       | none => .fault .notEnabled)
    else if s.iss.id = 0 then resumeWith s .waitv 0 execWaitv
    else .next (wakeWaitv s s.iss.core s.iss.id)

/-! ### The commit token (R314 to R317) -/

/-- A team's place in the order of (CIX, TIX). -/
def teamKey (cix tix : Nat) : Nat := 16 * cix + tix

/-- A team takes the token: an acquire at .dev; its buffer then drains entry by entry, before any other of its global
writes (R314, R315); a TOKEN.wait that a REFORM launch has filed ends. -/
def giveToken (s : State) (core : Nat) : State :=
  modTeam s core (fun t => releaseHeld { t with hasToken := true, l1 := [] } .tokenWait s.stamp)

/-- The teams of a launch that are resident, with their cores. -/
def launchTeams (s : State) (n : Nat) : List (Nat × Team) := s.teams.filter (fun e => e.2.launch == n)

/-- The places of a launch's teams that have neither retired nor passed the token, resident or saved or, as
the first of a cluster that is not dispatched, still to come. -/
def tokenWaiters (s : State) (n : Nat) (l : Launch) : List Nat :=
  ((launchTeams s n).filter (fun e => !e.2.hadToken)).map (fun e => teamKey e.2.cix e.2.tix)
  ++ ((s.images.filter (fun i => i.launch == n)).flatMap (fun i => (i.teams.filter (fun x => !x.2.1.hadToken)).map
      (fun x => teamKey i.cix x.1)))
  ++ (if l.next < recClusters l.rec_ then [teamKey (cixOf l.rec_ l.next) 0] else [])

/-- With no holder, the token of a deterministic launch goes to the team of lowest (CIX, TIX) that has not
had it, when that team is resident (R314). -/
def settleToken (s : State) (n : Nat) : State :=
  match launchAt s n with
  | none => s
  | some l =>
    if !recDet l.rec_ || (launchTeams s n).any (fun e => e.2.hasToken)
      || s.images.any (fun i => i.launch == n && i.teams.any (fun x => x.2.1.hasToken)) then s
    else match minNat (tokenWaiters s n l) with
      | none => s
      | some k => match (launchTeams s n).find? (fun e => teamKey e.2.cix e.2.tix == k && !e.2.hadToken) with
        | some e => giveToken s e.1
        | none => s

/-- R314's conditions on a team that gives the token up: its global writes are performed, those sent at a preemption among
them, and no global MDRAIN of it is ungranted, saved or in progress. -/
def tokenFree (s : State) (core : Nat) (t : Team) : Bool :=
  !(t.ott.any (fun e => globalWrite e.work)) && wcQuiet t && t.det.isEmpty
  && !((engineOf s (quadNo core)).table.any (fun e => e.2.core == core && e.2.tok))
  && ((t.eng.map (fun e => e.cmds.all (fun x => !x.tok))).getD true)

/-- The token leaves a team (R314). -/
def dropToken (s : State) (core : Nat) : State :=
  match tget s.teams core with
  | none => s
  | some t =>
    if !t.hasToken then s
    else settleToken (modTeam s core (fun t => releaseHeld { t with hasToken := false, hadToken := true } .token s.stamp)) t.launch

/-- COMMIT_TOKEN_HANDOVER: every live thread of the holding team has arrived at TOKEN.pass and R314's
conditions hold (R314, R317). -/
def execCommitTokenHandover (s : State) : Host.Outcome State Fault Refusal :=
  match tget s.teams s.iss.core with
  | none => .fault .notEnabled
  | some t =>
    if t.hasToken && heldAt t .token == teamLive t && teamLive t != 0 && tokenFree s s.iss.core t then .next (dropToken s s.iss.core)
    else .fault .notEnabled

/-- EDETWAIT at issue of a TOKEN.wait whose team has passed the token; the checks of transactions come first (R317, R343). -/
def passedWait (c : Ic) : Option TrapInfo :=
  if recDet c.r && c.t.hadToken && !c.t.hasToken && !anyTx c then some ⟨0x0F, 0, word 3⟩ else none

/-- TOKEN.wait (R317). -/
def execTokenWait (w : LongWord) (s : State) : Host.Outcome State Fault Refusal :=
  issue s w { shapeW w with sub := w.sub6 == 0#6 } { blocking := true, tx := some 2, pre := passedWait } (fun c => do
    if !recDet c.r then .ok { st := c.s }
    else if c.t.hasToken then .ok { st := c.s, post := fun s => setEntries s c.core c.grp c.en }
    else if recReform c.r && c.g.hm.isNone then .ok { st := c.s, post := holdAll c .tokenWait }
    else .error (.stall .token))

/-- TOKEN.pass (R317). -/
def execTokenPass (w : LongWord) (s : State) : Host.Outcome State Fault Refusal :=
  issue s w { shapeW w with sub := subNo w == 1 } { blocking := true, tx := some 2 } (fun c =>
    if !recDet c.r || (c.t.hadToken && !c.t.hasToken) then .ok { st := c.s }
    else .ok { st := c.s, post := arriveAt c .token })

/-! ### EDETWAIT (R40) -/

/-- A result that the group waits for at its park waits for a buffered write with acquire (R289, R316). -/
def parkWaits (t : Team) (grp : Nat) : Bool :=
  t.ott.any (fun e => e.grp == grp && e.long && t.ott.any (fun x => x.work == .buffered && x.ord.acq && decide (x.id < e.id) && sharesLane e x))

/-- A global MDRAIN of a group waits for the token (R245, R315). -/
def drainWaits (s : State) (core : Nat) (t : Team) (grp : Nat) : Bool :=
  let mine (x : EngEntry) : Bool := x.core == core && x.grp == grp && x.tok
  !t.hasToken && ((engineOf s (quadNo core)).table.any (fun x => mine x.2) || ((t.eng.map (fun e => e.cmds.any mine)).getD false))

/-- A thread is held where it waits in WAITV. -/
def heldWaitv (h : Option Held) : Bool :=
  match h with
  | some (.waitv _ _ _ _ _ _) | some (.peer _ _ _ _ _ _ _) => true
  | _ => false

/-- A thread is held where it waits for the commit token. -/
def heldToken (h : Option Held) : Bool := h == some .token || h == some .tokenWait

/-- The kind of wait of R40 that a group is in: 1 WAITV, 2 the token. A group of which a thread can issue is in none. -/
def detWaitKind (s : State) (core : Nat) (t : Team) (grp : Nat) (g : Group) : Option Nat :=
  let token : Option Nat := if t.hasToken then none else some 2
  match g.status, g.stall with
  | .blocked .waitv _ _ _, _ => some 1
  | .blocked .exit _ _ _, _ =>
    if t.det.any (fun e => e.grp == grp || sharesThread (liveTids g) (e.tids.map (·.2))) || drainWaits s core t grp then token else none
  | .parking _ _ _ _, _ => if parkWaits t grp then token else none
  | _, some (.token, _) => token
  | _, some (.detFull, _) => token
  | _, _ =>
    if (issuePc g).isSome then none
    else if (liveLanes g).any (fun l => heldToken (g.lane l).held) && !t.hasToken then some 2
    else if (liveLanes g).any (fun l => heldWaitv (g.lane l).held) then some 1
    else none

/-- A thread is held: at a barrier, at the token or at an object; one that waits for a bin is not. -/
def heldThere (h : Option Held) : Bool := h.isSome && h != some .filing

/-- Every live thread of a group is held: at a barrier, CBAR.copy among them, or its group in a wait of R40. -/
def groupHeld (s : State) (core : Nat) (t : Team) (grp : Nat) (g : Group) : Bool :=
  (detWaitKind s core t grp g).isSome || (ccSince g).isSome || (liveLanes g).all (fun l => heldThere (g.lane l).held)

/-- A team is blocked in the sense of R40. -/
def teamBlocked (s : State) (core : Nat) (t : Team) : Bool :=
  let binWait := t.bins.any (fun b => match b with
    | some b => b.threads.any (fun x => heldWaitv x.1.held || (heldToken x.1.held && !t.hasToken))
    | none => false)
  t.groups.all (fun e => groupHeld s core t e.1 e.2)
  && t.bins.all (fun b => match b with | some b => b.threads.all (fun x => x.1.held.isSome) | none => true)
  && (binWait || t.groups.any (fun e => (detWaitKind s core t e.1 e.2).isSome))

/-- Every team of lower (CIX, TIX) of the launch has retired or is blocked (R40). Whether a preempted team counts as blocked the spec
does not say: the model never counts one so, whatever its threads were saved in (DESIGN CHOICE, log 95). -/
def lowerBlocked (s : State) (t : Team) : Bool :=
  let k := teamKey t.cix t.tix
  (launchTeams s t.launch).all (fun e => teamKey e.2.cix e.2.tix ≥ k || teamBlocked s e.1 e.2)
  && !(s.images.any (fun i => i.launch == t.launch && i.teams.any (fun x => decide (teamKey x.2.1.cix x.2.1.tix < k))))
  && (match launchAt s t.launch with
      | some l => l.next ≥ recClusters l.rec_ || decide (k ≤ teamKey (cixOf l.rec_ l.next) 0)
      | none => true)

/-- The lanes of a group at which an EDETWAIT of a kind is raised and its TPC: those at the issue PC, or, when every thread is
held, those that wait so in one TOKEN.pass, or, where no bin has taken them, in one TOKEN.wait or WAITV, at that instruction.
At threads that a bin holds, which are in no group, the model raises none: R40 raises it at a group (log 27). -/
def detWaitAt (g : Group) (kind : Nat) : List Nat × Word :=
  match issuePc g with
  | some pc => (activeLanes g pc, pc)
  | none =>
    let ls := (liveLanes g).filter (fun l => if kind = 1 then heldWaitv (g.lane l).held else heldToken (g.lane l).held)
    match minNat (ls.map (fun l => (g.lane l).pc.toNat)) with
    | some p => (ls.filter (fun l => (g.lane l).pc.toNat == p), word p - 8)
    | none => ([], 0)

/-- EDETWAIT_TIMEOUT (R40). The spec does not say whether it can be raised at threads that stand in REFORM bins, which are in no
group: the model raises none there (DESIGN CHOICE, log 93). -/
def execEdetwaitTimeout (s : State) : Host.Outcome State Fault Refusal :=
  match tget s.teams s.iss.core, groupAt s s.iss.core s.iss.grp with
  | some t, some g =>
    match detWaitKind s s.iss.core t s.iss.grp g with
    | some k =>
      let (ls, pc) := detWaitAt g k
      if recDet (recOf s t) && lowerBlocked s t && !ls.isEmpty then
        let s' := modGroup s s.iss.core s.iss.grp (fun g => ls.foldl (fun g l => g.modLane l (fun x => { x with held := none })) g)
        .next (takeTrap s' s.iss.core s.iss.grp ⟨0x0F, 0, word k⟩ pc pc false false ls)
      else .fault .notEnabled
    | none => .fault .notEnabled
  | _, _ => .fault .notEnabled

end Sys2Proof.Machine
end

