-- ==== Sys2Proof/Machine/Remote.lean ====
section
/-! DEFINITION. Streams, the owner's and the initiator's side of the peer transport, write combining, links and
membership (chapters 03, 12, 15 and 18: R44, R217 to R219, R269 to R287, R299, R325, R380). -/

namespace Sys2Proof.Machine

/-! ### SOPEN, SCLOSE (R275, R287) -/

/-- The shape of SOPEN and SCLOSE. -/
def shapeStream (w : LongWord) (d : Use) : Shape :=
  { sub := w.sub6 == 0#6, m6 := layoutZ w, d := d, a := .src 1, litA := true, port := .uniform }

/-- The stream that the operand names. -/
def streamArg (c : Ic) : Nat := (if c.w.lit.isSome then litNat c.w else (c.rd 0 c.w.a).toNat) % 16

/-- SOPEN (R287, Table 15.5). -/
def execSopen (w : LongWord) (s : State) : Host.Outcome State Fault Refusal :=
  issue s w (shapeStream w (.dst 1)) { entry := true, dests := [destOf w.d] } (fun c =>
    let n := streamArg c
    let x := streamOf (ctxOf c.s c.ctx) n
    let why := if n = 0 then 3 else if x.st == 1 then 1 else if x.st == 2 then 2 else 0
    let s := if why = 0 then modStream c.s c.ctx n (fun x => { x with st := 1, lwm := x.next, told := x.next }) else c.s
    .ok (enterLong { c with s := s } [destOf w.d] Ord.relaxed .values
      [(0, word (x.next.toNat + 2 ^ 32 * n + 2 ^ 56 * why + (if why = 0 then 0 else 2 ^ 63)))]))

/-- A team whose SCLOSEs of a stream are released. -/
def releaseSclose (n : Nat) (t : Team) : Team := { t with ott := t.ott.filter (fun x => x.work != .sclose n) }

/-- A stream whose operations are all answered, in CLOSING, has sent its updates and had them acknowledged:
it is CLOSED, and the SCLOSE entries that wait for it are released, those of preempted teams among them (Table 15.4, R287). -/
def streamClosed (s : State) (ctx n : Nat) : State :=
  let s := modStream s ctx n (fun x => { x with st := 0, owners := [], unacked := [] })
  let mine (l : Nat) : Bool := ((launchAt s l).map (·.ctx)).getD 0 == ctx
  { s with
    teams := tmap (fun _ t => if mine t.launch then releaseSclose n t else t) s.teams,
    images := s.images.map (fun i => if mine i.launch then { i with teams := i.teams.map (fun x => (x.1, releaseSclose n x.2.1, x.2.2)) } else i) }

/-- SCLOSE (R287): an OPEN stream 1 to 15 enters CLOSING. -/
def execSclose (w : LongWord) (s : State) : Host.Outcome State Fault Refusal :=
  issue s w (shapeStream w .unused) { entry := true } (fun c =>
    let n := streamArg c
    if n = 0 || (streamOf (ctxOf c.s c.ctx) n).st != 1 then .ok (enterPosted c Ord.relaxed .done)
    else .ok (enterPosted { c with s := modStream c.s c.ctx n (fun x => { x with st := 2 }) } Ord.relaxed (.sclose n)))

/-- STREAM_CLOSE_DRAIN: OUT of the CLOSING stream in the cursor (context in core, stream in id) is 0; a
low-water update goes to each live owner that the stream has reached (Table 15.4). -/
def execStreamCloseDrain (s : State) : Host.Outcome State Fault Refusal :=
  let ctx := s.iss.core
  let n := s.iss.id
  let x := streamOf (ctxOf s ctx) n
  if x.st != 2 || x.out != 0 || x.owners.isEmpty || !x.unacked.isEmpty then .fault .notEnabled
  else
    let live := x.owners.filter (fun o => !s.peerdead.getLsbD o)
    let s := modStream s ctx n (fun x => { x with lwm := x.next, told := x.next, unacked := live, owners := [] })
    .next (live.foldl (fun s o =>
      newReq s { Req.base s.stamp .closing o ctx 0 0 0 0 0 0 0 0 (incOf s ctx o) with stream := n }) s)

/-- STREAM_CLOSED: every closing update is acknowledged (Table 15.4). -/
def execStreamClosed (s : State) : Host.Outcome State Fault Refusal :=
  let x := streamOf (ctxOf s s.iss.core) s.iss.id
  if x.st == 2 && x.out == 0 && x.owners.isEmpty && x.unacked.isEmpty then .next (streamClosed s s.iss.core s.iss.id)
  else .fault .notEnabled

/-! ### The end of a request at its initiator (R270 to R274, R282) -/

/-- Removes a request. -/
def dropReq (s : State) (id : Nat) : State := { s with reqs := s.reqs.filter (fun r => r.id != id) }

/-- The entry that a request belongs to. -/
def entryOf (s : State) (r : Req) : Option OttEntry := (tget s.teams r.core).bind (fun t => t.ott.find? (fun e => e.id == r.ott))

/-- Two writes of a peer's memory that are performed in order: they write one byte, or are drains of one line (R218, R224). -/
def writesMeet (x q : Req) : Bool :=
  x.owner == q.owner && ((x.ott == 0 && q.ott == 0 && x.pa == q.pa) || x.data.any (fun a => q.data.any (fun b =>
    decide (a.1 < b.1 + b.2.length) && decide (b.1 < a.1 + a.2.length))))

/-- A request of an entry that is not sent yet may be sent: no earlier one of the entry, and for writes none that is
performed before it, is unanswered; the drains of a core count as one entry's (R218, R224, R286). -/
def mayFollow (s : State) (q : Req) : Bool :=
  !(s.reqs.any (fun x => x.ott == q.ott && x.core == q.core && x.kind == q.kind && decide (x.id < q.id)
    && (q.kind != .write || writesMeet x q)))

/-- Sends the requests that waited for the answer which has come, with the incarnation seen now (R218, R224, R286). -/
def sendNextLane (s : State) (r : Req) : State :=
  (s.reqs.filter (fun q => q.ott == r.ott && q.core == r.core && q.kind == r.kind && q.sends == 0 && !q.busy
    && !s.peerdead.getLsbD q.owner)).foldl (fun s q =>
    if mayFollow s q then
      let q := { q with sends := 1, inc := incOf s q.ctx q.owner }
      sendReq { s with reqs := s.reqs.map (fun x => if x.id == q.id then q else x) } q
    else s) s

/-- A lane of an entry has its outcome: what it brings is put into the entry by `f`. With its last an acquire takes the
lines of the core's L1 away (R212), a reservation's copy ends (R258), and the entry is released. -/
def laneDone (s : State) (r : Req) (f : OttEntry → OttEntry) : State :=
  match entryOf s r with
  | none => sendNextLane s r
  | some e =>
    match e.work with
    | .remote left =>
      let s := if r.kind == .write then noteWrote s r.core (e.tidsOf (r.lane % 64)) else noteFar s r.core (e.tidsOf (r.lane % 64))
      let left := left.filter (· != r.lane)
      let e := f { e with work := .remote left }
      let s := if left.isEmpty && e.ord.acq then l1Clear s r.core else s
      let s := if left.isEmpty && r.kind == .read && r.op == 5 then finishResv s r.core r.ty e else settle s r.core e
      sendNextLane s r
    | _ => s

/-- The trap of a request that ends without success (R273, R274, Table 15.2). -/
def remoteTrap (r : Req) (yst : Nat) : TrapInfo :=
  let cause := if yst == 3 || yst == 4 then 0x07 else if r.kind == .stream then 0x09 else 0x08
  let ser := if r.kind == .stream then r.serial.toNat else 0
  ⟨cause, word r.va, remoteInfo (if cause == 7 then 8 else 0) yst r.owner (if r.kind == .stream then r.stream else 0) ser 0⟩

/-- The address that a group stored to through an entry, for TADDR: with one instruction that of its lowest lane; where several
instructions stored into it the spec names none (R219, R274, R341). -/
def WcEntry.vaOf (e : WcEntry) (g : Nat) : Option Word :=
  match e.vas.filter (fun x => x.1 == g) with
  | [] => none
  | x :: r =>
    if r.all (fun y => y.2.1 == x.2.1) then some (word (r.foldl (fun a y => if y.2.2.1 < a.2.2.1 then y else a) x).2.2.2) else none

/-- Updates every team, resident or saved. -/
def modTeams (s : State) (f : Team → Team) : State :=
  { s with teams := tmap (fun _ t => f t) s.teams,
           images := s.images.map (fun i => { i with teams := i.teams.map (fun x => (x.1, f x.2.1, x.2.2)) }) }

/-- A team whose writes were sent at its preemption hears of their acknowledgement (R219). -/
def sentDone (s : State) (seq : Nat) : State := modTeams s (fun t => { t with sent := t.sent.filter (fun w => w.id != seq) })

/-- Latches the error of a drain that was sent at a preemption, in the resident or saved status (R219). -/
def sentFails (s : State) (seq : Nat) (cause kind : Nat) (info : Word) : State :=
  modTeams s (fun t => match t.sent.find? (fun w => w.id == seq) with
    | some w => w.ctxs.foldl (fun t c => t.modGroup c.1 (fun g => g.latch cause kind (c.2.getD (Config.value s.free)) info)) t
    | none => t)

/-- Latches the error of a drain in every group that wrote into its entry, which leaves the buffer, and in the
groups whose writes were sent with it at a preemption (R219). -/
def drainFails (s : State) (seq yst peer : Nat) : State :=
  let rmt := yst == 3 || yst == 4
  let cause := if rmt then 0x07 else 0x08
  let kind := if rmt then 8 else 0
  let info := remoteInfo kind yst peer 0 0 0
  let s' := s.teams.foldl (fun s e =>
    match e.2.wc.find? (fun x => x.seq == some seq) with
    | none => s
    | some x =>
      let s := x.ctxs.foldl (fun s g => latchErr s e.1 g cause kind ((x.vaOf g).getD (Config.value s.free)) info) s
      modTeam s e.1 (fun t => { t with wc := t.wc.filter (fun y => y.seq != some seq) })) s
  let s' := sentDone (sentFails s' seq cause kind info) seq
  { s' with free := s'.free + 1 }

/-- A group that waits in FENCE.sc.sys for its markers acts again once none is outstanding (R299). -/
def markerDone (s : State) (r : Req) : State :=
  if s.reqs.any (fun q => q.kind == .marker && q.core == r.core && q.grp == r.grp && q.pc == r.pc) then s
  else match resumeWith { s with iss := { s.iss with core := r.core, grp := r.grp } } .fence 1 execFence with
    | .next s' => s'
    | _ => s

/-- A WAITV on a peer's object that cannot be read raises the request's trap at its group (R273, R274). -/
def pollFails (s : State) (r : Req) (t : TrapInfo) : State :=
  match groupAt s r.core r.grp with
  | some g =>
    match g.status, issuePc g with
    | .blocked .waitv _ _ _, some pc =>
      takeTrap (modGroup s r.core r.grp (fun g => { g with status := .running })) r.core r.grp t pc pc false false (activeLanes g pc)
    | _, _ => s
  | none => s

/-- Filed threads whose object at a peer a request has read: the place where they are held (R115, R313). -/
def pollPlace (r : Req) : Held := .peer r.owner r.pa r.va r.pc.toNat r.acq r.cp r.wp

/-- A request ends with NOMAP, UNCORR, LOST, GONE or, for a stream operation, STALE (R273, R274, R282). -/
def failReq (s : State) (r : Req) (yst : Nat) : State :=
  let s := dropReq s r.id
  let t := remoteTrap r yst
  match r.kind with
  | .read =>
    if r.op == 3 then
      (match (tget s.teams r.core).bind (fun t => t.chan[r.lane]?) with
       | some c => if c.waitRemote && word c.gen == r.n then stopChan s r.core r.lane c 8 r.va else s
       | none => s)
    else if r.op == 4 then
      (if r.grp == 64 then modTeam s r.core (fun x => retryWaitv x (pollPlace r) r.pc.toNat s.stamp) else pollFails s r t)
    else if r.op == 6 then s
    else laneDone s r (fun e => e.fail (r.lane % 64) t)
  | .write => if (entryOf s r).isSome then laneDone s r (fun e => e.fail (r.lane % 64) t) else sendNextLane (drainFails s r.id yst r.owner) r
  | .stream => laneDone (retireSerial s r) r (fun e => e.fail (r.lane % 64) t)
  | .marker => markerDone s r
  | .closing => modStream s r.ctx r.stream (fun x => { x with unacked := x.unacked.filter (· != r.owner) })
  | .lwm | .record | .trunc | .car | .abort | .release | .gone => s

/-- The parts of a read with the bytes that have come for each: physical address and bytes, in the order of the parts. -/
def partBytes : List (Nat × Nat) → List Byte → List (Nat × List Byte)
  | [], _ => []
  | p :: r, bs => (p.1, bs.take p.2) :: partBytes r (bs.drop p.2)

/-- What a read returns of each of its parts: the team's own buffered bytes stand before the owner's (R316). -/
def Req.returned (r : Req) (data : List Byte) : List (List Byte) :=
  (partBytes r.parts data).map (fun (x : Nat × List Byte) => layOver r.laid x.1 x.2)

/-- A lane's block has one more of its parts; with the last its registers are known (R195, R229). -/
def OttEntry.takeBlock (e : OttEntry) (r : Req) (data : List Byte) : OttEntry :=
  let l := r.lane % 64
  let e := { e with buf := e.buf ++ (r.offs.zip (r.returned data)).map (fun (x : Nat × List Byte) => (l, x.1, x.2)) }
  match e.work with
  | .remote left => if left.any (fun k => k % 64 == l) then e else { e with got := e.got ++ blockRegs r.ty l (blockOf e.buf l) }
  | _ => e

/-- The threads of a team that are held at a place. -/
def placeTids (s : State) (core : Nat) (h : Held) : List Nat :=
  match tget s.teams core with
  | none => []
  | some t =>
    t.groups.flatMap (fun g => ((liveLanes g.2).filter (fun l => (g.2.lane l).held == some h)).map (fun l => (g.2.lane l).tid))
    ++ t.bins.flatMap (fun b => match b with | some b => (b.threads.filter (fun x => x.1.held == some h)).map (·.1.tid) | none => [])

/-- A peer has answered the read of an object that a WAITV waits on (R313): COUNT and TARGET say whether it is reached. -/
def pollDone (s : State) (r : Req) (data : List Byte) : State :=
  let yes := reachedIn (r.returned data).flatten
  let s := if r.grp == 64 then noteFar s r.core (placeTids s r.core (pollPlace r))
    else noteFar s r.core (((groupAt s r.core r.grp).map liveTids).getD [])
  if r.grp == 64 then
    (if !yes then s
     else modTeam s r.core (fun t => { wakeHeld t (pollPlace r) s.stamp with l1 := if r.acq then [] else t.l1 }))
  else
    let reform := ((tget s.teams r.core).map (fun t => recReform (recOf s t))).getD false
    if !yes && !reform then s
    else match resumeWith { s with iss := { s.iss with core := r.core, grp := r.grp } } .waitv (if yes then 1 else 2) execWaitv with
      | .next s' => s'
      | _ => s

/-- The value of `w` bits that a lane reads. -/
def laneValue (r : Req) (data : List Byte) : Nat × Word := (r.lane, tyExt r.ty (leNat data % 2 ^ tyBits r.ty))

/-- A request ends with DONE (R271). -/
def doneReq (s : State) (r : Req) (data : List Byte) : State :=
  let s := dropReq s r.id
  match r.kind with
  | .read =>
    match r.op with
    | 0 => laneDone s r (fun e => { e with got := e.got ++ [laneValue r (r.returned data).flatten] })
    | 1 => laneDone s r (fun e => e.takeBlock r data)
    | 3 =>
      (match (tget s.teams r.core).bind (fun t => t.chan[r.lane]?) with
       | some c => if c.waitRemote && word c.gen == r.n then deliver s r.core r.lane c data else s
       | none => s)
    | 4 => pollDone s r data
    | 5 =>
      (match (tget s.teams r.core).bind (fun t => t.resv.find? (fun v => v.id == r.ty)) with
       | some v => laneDone ((r.offs.zip (r.returned data)).foldl (fun s x => opbufWrite s r.core (v.offs + x.1) x.2) s) r id
       | none => s)
    | _ => s
  | .write => laneDone s r id
  | .stream => laneDone (retireSerial s r) r (fun e => { e with got := e.got ++ [laneValue r data] })
  | .marker => markerDone s r
  | .closing => modStream s r.ctx r.stream (fun x => { x with unacked := x.unacked.filter (· != r.owner) })
  | .release => settleGate s r.ctx
  | .lwm | .record | .trunc | .car | .abort | .gone => s

/-- The transport sequence of a drained write is another from now on (R282). -/
def renumberWrite (s : State) (old new : Nat) : State :=
  modTeams s (fun t => { t with
    wc := t.wc.map (fun e => if e.seq == some old then { e with seq := some new } else e),
    sent := t.sent.map (fun w => if w.id == old then { w with id := new } else w) })

/-- The acknowledged entry leaves its buffer. -/
def wcDone (s : State) (seq : Nat) : State :=
  { s with teams := tmap (fun _ t => { t with wc := t.wc.filter (fun e => e.seq != some seq) }) s.teams }

/-- A write that a team has sent to a peer and that is not performed is discarded once the team has halted, be it preempted since: it
is not sent again (R338, log 90). -/
def abandoned (s : State) (r : Req) : Bool :=
  let of (t : Team) : Bool := t.halt.isSome && t.sent.any (fun w => w.id == r.id)
  r.kind == .write && (s.teams.any (fun e => of e.2) || s.images.any (fun i => i.teams.any (fun x => of x.2.1)))

/-- A discarded write is over; one that waited for it goes (R218). -/
def endAbandoned (s : State) (r : Req) : State :=
  sendNextLane (wcDone (sentDone (dropReq s r.id) r.id) r.id) r

/-- A STALE answer (R282): INCSEEN takes the new incarnation; every stream operation that was sent with the
old one is uncertain, a read is sent again, an unacknowledged write is sent again under a new sequence, and
a journal partner is lost (R367). Writes keep their order, those that are not sent yet with them (R218, R224). -/
def staleOwner (s : State) (ctx owner inc : Nat) : State :=
  let s := modCtx { s with peerInc := tset s.peerInc owner inc } ctx (fun c => { c with incseen := tset c.incseen owner inc })
  let mine (r : Req) : Bool := r.ctx == ctx && r.owner == owner && r.inc != inc
  let unsent (r : Req) : Bool := r.sends == 0 && !r.busy
  let s := { s with reqs := s.reqs.map (fun (r : Req) => if mine r && unsent r && r.kind != ReqKind.write then { r with inc := inc } else r) }
  let s := (s.reqs.filter mine).foldl (fun s r =>
    let r' : Req := { r with id := s.stamp, inc := inc, busy := false }
    let again (s : State) : State :=
      if unsent r then heldReq (dropReq s r.id) r' else newReq (dropReq s r.id) { r' with sends := 1 }
    match r.kind with
    | .stream => failReq s r 2
    | .write => if abandoned s r then endAbandoned s r else again (renumberWrite s r.id s.stamp)
    | .read => again s
    | _ => s) s
  if partnerOf (ctxOf s ctx) == some owner then partnerLost s ctx else s

/-- A peer is marked dead (R273): its bit in PEERDEAD, the firmware is told, every outstanding request to it
ends with GONE, the combining entries keyed by it are discarded with GONE latched, and journals lose it. -/
def markDead (s : State) (peer : Nat) : State :=
  let s := { s with peerdead := s.peerdead ||| (1#16 <<< peer), steward := true }
  let s := s.teams.foldl (fun s e =>
    (e.2.wc.filter (fun x => x.peer == peer && x.seq.isNone)).foldl (fun s x =>
      modTeam (x.ctxs.foldl (fun s g => latchErr s e.1 g 0x08 0 ((x.vaOf g).getD (Config.value s.free)) (remoteInfo 0 6 peer 0 0 0)) { s with free := s.free + 1 }) e.1 (fun t =>
        { t with wc := t.wc.filter (fun y => y != x) })) s) s
  let s := (s.reqs.filter (fun r => r.owner == peer)).foldl (fun s r => failReq s r 6) s
  losePartner s peer

/-! ### Answers, timeouts and resends (R271 to R273) -/

/-- REMOTE_ANSWER (R271): one with no outstanding request is discarded (R270, R284). -/
def execRemoteAnswer (s : State) : Host.Outcome State Fault Refusal :=
  match s.msg with
  | some (.remoteAnswer req yst data inc) =>
    match s.reqs.find? (fun r => r.id == req) with
    | none => .next s
    | some r =>
      match yst with
      | 0 => .next (doneReq s r data)
      | 1 => .next { s with reqs := s.reqs.map (fun x => if x.id == req then { x with busy := true, sends := 0 } else x) }
      | 2 => .next (staleOwner s r.ctx r.owner inc)
      | 3 => .next (failReq s r 3)
      | 4 => .next (failReq s r 4)
      | _ => .next s
  | _ => .fault .notEnabled

/-- REMOTE_TIMEOUT (R272, R273): the request is sent again, and the fourth timeout ends it with LOST; one to a peer that is
marked dead ends with GONE. -/
def execRemoteTimeout (s : State) : Host.Outcome State Fault Refusal :=
  match s.reqs.find? (fun r => r.id == s.iss.id) with
  | none => .fault .notEnabled
  | some r =>
    if s.peerdead.getLsbD r.owner then .next (failReq s r 6)
    else if r.busy || r.sends = 0 then .fault .notEnabled
    else if abandoned s r then .next (endAbandoned s r)
    else if r.sends < 4 then
      .next (sendReq { s with reqs := s.reqs.map (fun x => if x.id == r.id then { x with sends := x.sends + 1 } else x) } r)
    else .next (markDead (failReq s r 5) r.owner)

/-- BUSY_RESEND (R272): the count of unanswered sends starts again. -/
def execBusyResend (s : State) : Host.Outcome State Fault Refusal :=
  match s.reqs.find? (fun r => r.id == s.iss.id && r.busy) with
  | none => .fault .notEnabled
  | some r =>
    if abandoned s r then .next (endAbandoned s r)
    else .next (sendReq { s with reqs := s.reqs.map (fun x => if x.id == r.id then { x with busy := false, sends := 1 } else x) } r)

/-- YPT_PACKET_EXPIRE (R277): a packet that a hub has held too long is dropped. -/
def execYptPacketExpire (s : State) : Host.Outcome State Fault Refusal :=
  match s.msg with
  | some (.yptExpire i) => if i < s.out.length then .next { s with out := s.out.eraseIdx i } else .fault .notEnabled
  | _ => .fault .notEnabled

/-- LWM_IDLE_SEND (R276): the stream in the cursor has an LWM that no request has carried. -/
def execLwmIdleSend (s : State) : Host.Outcome State Fault Refusal :=
  let ctx := s.iss.core
  let n := s.iss.id
  let x := streamOf (ctxOf s ctx) n
  if x.told == x.lwm || x.st == 0 then .fault .notEnabled
  else
    let s := modStream s ctx n (fun x => { x with told := x.lwm })
    .next ((x.owners.filter (fun o => !s.peerdead.getLsbD o)).foldl (fun s o =>
      newReq s { Req.base s.stamp .lwm o ctx 0 0 0 0 0 0 0 0 (incOf s ctx o) with stream := n }) s)

/-! ### Write combining (R217 to R219) -/

/-- Whether an earlier drained entry of the same key, or one sent at a preemption, of this team or of one that had the core before,
awaits its acknowledgement (R218, R219). -/
def wcBehind (s : State) (t : Team) (e : WcEntry) : Bool :=
  t.wc.any (fun x => x.peer == e.peer && x.line == e.line && x.seq.isSome) || sentHolds s t e.peer e.line

/-- A store waits for a free entry, and this one, the oldest that is not drained, drains first (R217). -/
def wcOldest (s : State) (t : Team) (e : WcEntry) : Bool :=
  t.wc.all (fun x => x.seq.isSome || e.stamp ≤ x.stamp)
  && t.ott.any (fun x => x.work != .buffered && decide (0 < newLines s (teamCtx s t) t x.ord x.work)
    && decide (64 < t.wc.length + newLines s (teamCtx s t) t x.ord x.work))

/-- An entry of the table drains a combining entry before it is performed: it names the line, or it is a release of the team
whose order is taken at .clus or wider (R217, R218, R269, R294). -/
def wcDrainedBy (s : State) (ctx : Nat) (e : WcEntry) (x : OttEntry) : Bool :=
  let o := effOrd x.ord x.work
  (peerLines s ctx x.ord x.work).contains (e.peer, e.line)
  || (o.rel && decide (scopeRank o.scope ≥ 2))

/-- What makes an entry drain (R217, R218): its mask is full, a store waits for its place, an access names its line or
releases, a group waits in an instruction that drains the team's entries, or a group of its mask exits. -/
def wcMustDrain (s : State) (t : Team) (e : WcEntry) : Bool :=
  e.bytes.length ≥ 128 || wcOldest s t e || t.ott.any (fun x => wcDrainedBy s (teamCtx s t) e (realEntry t x))
  || t.groups.any (fun g => match g.2.status, g.2.stall with
      | .blocked .exit _ _ _, _ => e.of g.1 (liveTids g.2)
      | _, some (.order, _) => true
      | _, _ => false)

/-- Bytes by offset as pieces: address and bytes of each run. -/
def byteRuns (base : Nat) (bs : Tab Byte) : List (Nat × List Byte) :=
  bs.foldr (fun b l => match l with
    | x :: r => if x.1 == base + b.1 + 1 then (base + b.1, b.2 :: x.2) :: r else (base + b.1, [b.2]) :: l
    | [] => [(base + b.1, [b.2])]) []

/-- Sends an entry to its owner as one write (R218), with its policy and partition (R59, R214); behind an earlier drain of its
key, which only a preemption brings about, it goes once that is acknowledged (R219). -/
def wcSend (s : State) (core : Nat) (e : WcEntry) : State :=
  match tget s.teams core with
  | none => s
  | some t =>
    let ctx := teamCtx s t
    let r := Req.base s.stamp .write e.peer ctx core 0 0 0 0 0 (e.line * 128) 128 (incOf s ctx e.peer)
    let s' := modTeam s core (fun t => { t with wc := t.wc.map (fun x => if x == e then { x with seq := some s.stamp } else x) })
    let r := { r with data := byteRuns (e.line * 128) e.bytes, cp := e.hint.getD e.cp, wp := e.wp, vas := e.vas.map (·.2.2.2) }
    if wcBehind s t e then heldReq s' r else newReq s' r

/-- WC_DRAIN (R218): the entry in the cursor's id of the core's buffer. -/
def execWcDrain (s : State) : Host.Outcome State Fault Refusal :=
  match (tget s.teams s.iss.core).bind (fun t => (t.wc[s.iss.id]?).map (fun e => (t, e))) with
  | none => .fault .notEnabled
  | some (t, e) => if e.seq.isNone && wcMustDrain s t e && !wcBehind s t e then .next (wcSend s s.iss.core e) else .fault .notEnabled

/-- WC_AGE_EXPIRY (R218): the entry's age has reached WCAGE. -/
def execWcAgeExpiry (s : State) : Host.Outcome State Fault Refusal :=
  match (tget s.teams s.iss.core).bind (fun t => (t.wc[s.iss.id]?).map (fun e => (t, e))) with
  | none => .fault .notEnabled
  | some (t, e) => if e.seq.isNone && !wcBehind s t e then .next (wcSend s s.iss.core e) else .fault .notEnabled

/-- WC_DRAIN_ACK (R218, R219): the owner's answer to a write, combined or not. -/
def execWcDrainAck (s : State) : Host.Outcome State Fault Refusal :=
  match s.msg with
  | some (.wcDrainAck seq yst inc) =>
    match s.reqs.find? (fun r => r.id == seq && r.kind == .write) with
    | none => .next s
    | some r =>
      match yst with
      | 0 => .next (wcDone (sentDone (doneReq s r []) seq) seq)
      | 1 => if abandoned s r then .next (endAbandoned s r) else .next { s with reqs := s.reqs.map (fun x => if x.id == seq then { x with busy := true, sends := 0 } else x) }
      | 2 => .next (staleOwner s r.ctx r.owner inc)
      | _ => .next (failReq s r yst)
  | _ => .fault .notEnabled

/-! ### The owner (R269, R274, R278 to R281, R299) -/

/-- A range lies in exported frames and in populated memory (R67, R269). -/
def exportedRange (s : State) (pa n : Nat) : Bool :=
  populated pa n && [pa / 65536, (pa + (n - 1)) / 65536].all (fun f => s.exported.contains f)

/-- An owner logs an error that an access of a peer has met, and interrupts the steward firmware (R274). -/
def ownerLost (s : State) (pa struct : Nat) : State :=
  { logEvent s pa 3 struct (homeSlice pa / 16) false (homeSlice pa % 16) with steward := true }

/-- The status of an owner's access: DONE, NOMAP or UNCORR; the last two are logged and interrupt the steward firmware (R274). -/
def ownerStatus (s : State) (pa n : Nat) : State × Nat :=
  if !exportedRange s pa n then (logViolation s pa, 3)
  else
    let s := meetUpsets s pa n
    if poisoned s pa n then (ownerLost s pa (poisonStruct s pa n), 4) else (s, 0)

/-- A line as a port's read buffer answers it: from the buffer, else from the home slice, which fills it, the poison of its
sectors with it; the buffer holds 64 lines (R299, R362). -/
def portRead (s : State) (port cp wp line : Nat) : State × List Byte × List Nat :=
  match s.portBufs.find? (fun b => b.1 == port && b.2.1 == line) with
  | some b => (s, b.2.2)
  | none =>
    let s := meetUpsets s (line * 128) 128
    let x := (memRead s.mem (line * 128) 128, lineBad s line)
    let mine := s.portBufs.filter (fun b => b.1 == port)
    let kept := if mine.length ≥ 64 then s.portBufs.filter (fun b => some b != mine.head?) else s.portBufs
    (l2Touch { s with portBufs := kept ++ [(port, line, x)] } (line * 128) cp wp false, x)

/-- Policy and partition of a part of an access (R215). -/
def polAt (pols : List (Nat × Nat)) (i : Nat) : Nat × Nat := pols.getD i (pols.headD (0, 0))

/-- The address and STRUCT of the first word with an error that lies in a range, of a line as a port answers it. -/
def wordAt (line : Nat) (bad : List Nat) (p : Nat × Nat) : Option (Nat × Nat) :=
  (bad.find? (fun w => decide (128 * line + 8 * (w % 16) < p.1 + p.2) && decide (p.1 < 128 * line + 8 * (w % 16) + 8))).map
    (fun w => (128 * line + 8 * (w % 16), w / 16))

/-- The bytes of a range as a port's buffer answers them, and the first error that they hold. -/
def portBytes (port : Nat) (pol : Nat × Nat) (x : State × List Byte × Option (Nat × Nat)) (p : Nat × Nat) : State × List Byte × Option (Nat × Nat) :=
  let y := (linesOf p.1 p.2).foldl (fun (y : State × List Byte × Option (Nat × Nat)) l =>
    let z := portRead y.1 port pol.1 pol.2 l
    (z.1, y.2.1 ++ z.2.1, y.2.2.orElse (fun _ => wordAt l z.2.2 p))) (x.1, [], x.2.2)
  (y.1, x.2.1 ++ (y.2.1.drop (p.1 % 128)).take p.2, y.2.2)

/-- A port whose invalidations of some lines are applied (R299). -/
def applyAt (s : State) (port : Nat) (lines : List Nat) : State :=
  (s.pendInv.filter (fun p => p.1 == port && lines.contains p.2)).foldl applyInval s

/-- A read that is one access in several lines takes no old line beside a new one: what is pending at its port for them
is applied first (R168, R299, R302). -/
def oneAccess (s : State) (port : Nat) (parts : List (Nat × Nat)) : State :=
  let ls := sortNat (parts.flatMap (fun p => linesOf p.1 p.2))
  if ls.length ≤ 1 then s else applyAt s port ls

/-- A message to the hub waits there (R297, R299). -/
def holdMsg (s : State) (m : Message) : State := { s with held := s.held.filter (· != m) ++ [m] }

/-- A read of a peer at its owner: what its port's buffer holds is not read at home again, an error of it included (R270, R274,
R299). -/
def ownerRead (s : State) (pkg port req : Nat) (pols : List (Nat × Nat)) (parts : List (Nat × Nat)) : State :=
  match parts.find? (fun p => !exportedRange s p.1 p.2) with
  | some p => answer (logViolation s p.1) pkg req 3 []
  | none =>
    let x := parts.zipIdx.foldl (fun x p => portBytes port (polAt pols p.2) x p.1) (oneAccess s port parts, [], none)
    match x.2.2 with
    | some (pa, struct) => answer (ownerLost x.1 pa struct) pkg req 4 []
    | none => answer x.1 pkg req 0 x.2.1

/-- REMOTE_READ_AT_OWNER (R270, R282, R299): a read of another incarnation is STALE, and an acquire waits for the narrower
releases that it meets (R297). A packet of a port that is none of the group's is not taken (R42). -/
def execRemoteReadAtOwner (s : State) : Host.Outcome State Fault Refusal :=
  match s.msg with
  | some (.remoteReadAtOwner pkg port req inc acq pols parts) =>
    if s.pod ≤ port + 1 then .next s
    else if inc != s.inc then .next (answer s pkg req 2 [])
    else if acq && parts.any (fun p => !markFree s 4 p.1 p.2) then
      .next (holdMsg s (.remoteReadAtOwner pkg port req inc acq pols parts))
    else .next (ownerRead s pkg port req pols parts)
  | _ => .fault .notEnabled

/-- The acknowledgement of a write at the owner. -/
def ackWrite (s : State) (pkg seq yst : Nat) : State := sendTo s pkg (.wcDrainAck seq yst s.inc)

/-- Invalidations of some bytes' lines are pending at a port (R299). -/
def invalPending (s : State) (ps : List (Nat × Nat)) : Bool :=
  let ls := ps.flatMap (fun p => linesOf p.1 p.2)
  s.pendInv.any (fun p => ls.contains p.2)

/-- The bytes of a write's pieces. -/
def dataRanges (data : List (Nat × List Byte)) : List (Nat × Nat) := data.map (fun d => (d.1, d.2.length))

/-- A write of a peer at its owner, performed in one step, `whole` where it is a block's; an address that is not exported leaves
memory as it is (R168, R218, R269, R274). -/
def ownerWrite (s : State) (pols : List (Nat × Nat)) (whole : Bool) (data : List (Nat × List Byte)) : State × Nat :=
  match (dataRanges data).find? (fun d => !exportedRange s d.1 d.2) with
  | some d => (logViolation s d.1, 3)
  | none =>
    (data.zipIdx.foldl (fun s x =>
      let d := x.1
      let k := polAt pols x.2
      homeWrite (l2TouchAll (meetUpsets s d.1 d.2.length) d.1 d.2.length k.1 k.2 true) d.1 d.2)
      (if whole then keepOlds s (dataRanges data) else s), 0)

/-- REMOTE_WRITE_AT_OWNER (R270, R282, R299): a transport sequence is performed at most once, and a repeat has the first
acknowledgement; a write of another incarnation is STALE. A write is acknowledged once its invalidations are applied. -/
def execRemoteWriteAtOwner (s : State) : Host.Outcome State Fault Refusal :=
  match s.msg with
  | some (.remoteWriteAtOwner pkg seq inc pols whole data) =>
    let ack (s : State) (yst : Nat) : State :=
      if invalPending s (dataRanges data) then holdMsg s (.remoteWriteAtOwner pkg seq inc pols whole data) else ackWrite s pkg seq yst
    if inc != s.inc then .next (ackWrite s pkg seq 2)
    else match s.seqDone.find? (fun x => x.1 == pkg && x.2.1 == seq) with
      | some x => .next (ack s x.2.2)
      | none =>
        let r := ownerWrite s pols whole data
        .next (ack { r.1 with seqDone := r.1.seqDone ++ [(pkg, seq, r.2)] } r.2)
  | _ => .fault .notEnabled

/-- Serial a is older than serial b (R276). -/
def olderSerial (a b : BitVec 32) : Bool := decide (1 ≤ (b - a).toNat) && decide ((b - a).toNat ≤ 2 ^ 31)

/-- The LWM steps of R278: the stream's record takes a newer LWM and older entries are retired. -/
def lwmSteps (s : State) (pkg ctx stream : Nat) (lwm : BitVec 32) : State × BitVec 32 :=
  let same (p c n : Nat) : Bool := p == pkg && c == ctx && n == stream
  match s.streamRecs.find? (fun x => same x.pkg x.ctx x.stream) with
  | none => ({ s with streamRecs := s.streamRecs ++ [⟨pkg, ctx, stream, lwm⟩] }, lwm)
  | some x =>
    if olderSerial x.lwm lwm then
      ({ s with
          streamRecs := s.streamRecs.map (fun y => if same y.pkg y.ctx y.stream then { y with lwm := lwm } else y),
          resultCache := s.resultCache.filter (fun y => !(same y.pkg y.ctx y.stream && olderSerial y.serial lwm)) }, lwm)
    else (s, x.lwm)

/-- The operation of a stream request, performed once at the home slice (R278, R299). -/
def ownerAtomic (s : State) (pa op ty cp wp : Nat) (b n : Word) : State × Nat × Word :=
  let k := tyBits ty / 8
  let r := ownerStatus s pa k
  if r.2 != 0 then (r.1, r.2, 0)
  else
    let m := memNat r.1.mem pa k
    let new := atomNew op ty m (b.toNat % 2 ^ tyBits ty) (n.toNat % 2 ^ tyBits ty)
    (homeWrite (l2Touch r.1 pa cp wp true) pa (leBytes k new), 0, word m)

/-- STREAM_REQUEST_AT_OWNER (R278, R280): the answer of an operation waits until the invalidations of its line are applied
(R299), and an operation on bytes that a narrower release has marked until that is carried (R297). -/
def execStreamRequestAtOwner (s : State) : Host.Outcome State Fault Refusal :=
  match s.msg with
  | some (.streamRequestAtOwner pkg ctx stream serial lwm inc req pa op ty cp wp b n) =>
    let m : Message := .streamRequestAtOwner pkg ctx stream serial lwm inc req pa op ty cp wp b n
    let k := tyBits ty / 8
    let ans (s : State) (e : CacheEntry) : State :=
      if invalPending s [(pa, k)] then holdMsg s m else answer s pkg req e.yst (leBytes 8 e.old.toNat)
    if inc != s.inc then .next (answer s pkg req 2 [])
    else
      let r := lwmSteps s pkg ctx stream lwm
      let s := r.1
      if olderSerial serial r.2 then .next s
      else match s.resultCache.find? (fun e => e.pkg == pkg && e.ctx == ctx && e.stream == stream && e.serial == serial) with
        | some e => .next (ans s e)
        | none =>
          if s.resultCache.length ≥ 65536 then .next (answer s pkg req 1 [])
          else if !markFree s 4 pa k then .next (holdMsg s m)
          else
            let x := ownerAtomic s pa op ty cp wp b n
            let e : CacheEntry := ⟨pkg, ctx, stream, serial, x.2.2, x.2.1, op, ty⟩
            .next (ans { x.1 with resultCache := x.1.resultCache ++ [e] } e)
  | _ => .fault .notEnabled

/-- What a held message waits for is over: the releases that it meets are carried, and the invalidations of its lines are
applied (R297, R299). -/
def heldReady (s : State) (m : Message) : Bool :=
  match m with
  | .remoteReadAtOwner _ _ _ _ _ _ parts => parts.all (fun p => markFree s 4 p.1 p.2)
  | .remoteWriteAtOwner _ _ _ _ _ data => !invalPending s (dataRanges data)
  | .streamRequestAtOwner _ _ _ _ _ _ _ pa _ ty _ _ _ _ => markFree s 4 pa (tyBits ty / 8) && !invalPending s [(pa, tyBits ty / 8)]
  | _ => true

/-- LOW_WATER_UPDATE at the owner (R278). -/
def execLowWaterUpdate (s : State) : Host.Outcome State Fault Refusal :=
  match s.msg with
  | some (.lowWaterUpdate pkg ctx stream lwm req) => .next (answer (lwmSteps s pkg ctx stream lwm).1 pkg req 0 [])
  | _ => .fault .notEnabled

/-- SC_FENCE_MARKER at the owner: answered after every invalidation that is pending at its port is applied (R299). -/
def execScFenceMarker (s : State) : Host.Outcome State Fault Refusal :=
  match s.msg with
  | some (.scFenceMarker pkg port req) =>
    .next (answer ((s.pendInv.filter (fun p => p.1 == port)).foldl applyInval s) pkg req 0 [])
  | _ => .fault .notEnabled

/-- A requester's context is gone: its entries and records are retired (R279, R385). -/
def retireContext (s : State) (pkg ctx : Nat) : State :=
  { s with
    resultCache := s.resultCache.filter (fun e => !(e.pkg == pkg && e.ctx == ctx)),
    streamRecs := s.streamRecs.filter (fun e => !(e.pkg == pkg && e.ctx == ctx)),
    partnerJ := s.partnerJ.filter (fun e => !(e.1 == pkg && e.2.1 == ctx)),
    partnerTb := s.partnerTb.filter (fun e => !(e.1 == pkg && e.2.1 == ctx)) }

/-- What every owner restart does (R281, R381): INC advances; the result cache, the stream records, the
transport sequences, the port buffers, the requests that wait in the hub and the stores held for others are lost. -/
def ownerRestart (s : State) : State :=
  { applyAll s with
    inc := (s.inc + 1) % 2 ^ 16, resultCache := [], streamRecs := [], seqDone := [], portBufs := [], held := [],
    partnerJ := [], partnerTb := [] }

/-- OWNER_RESTART (R281). -/
def execOwnerRestart (s : State) : Host.Outcome State Fault Refusal :=
  match s.msg with
  | some .ownerRestart => .next (ownerRestart s)
  | _ => .fault .notEnabled

/-! ### Links and membership (R44, R45, R273, R325, R380) -/

/-- Links without the one between two packages. -/
def dropLink (s : State) (a b : Nat) : List (Nat × Nat) := s.links.filter (fun l => l != (a, b) && l != (b, a))

/-- LINK_DOWN (R44): new traffic between the two packages detours. -/
def execLinkDown (s : State) : Host.Outcome State Fault Refusal :=
  match s.msg with
  | some (.linkDown a b) => .next { s with links := dropLink s a b ++ [(a, b)] }
  | _ => .fault .notEnabled

/-- LINK_RECOVER (R45): new traffic returns to the direct link. -/
def execLinkRecover (s : State) : Host.Outcome State Fault Refusal :=
  match s.msg with
  | some (.linkRecover a b) => .next { s with links := dropLink s a b }
  | _ => .fault .notEnabled

/-- PACKAGE_REJOIN (R273, R380): the firmware clears the package's PEERDEAD bit and sets its INCSEEN entries. A request that was
formed while the bit was set ends with GONE first. -/
def execPackageRejoin (s : State) : Host.Outcome State Fault Refusal :=
  match s.msg with
  | some (.packageRejoin pkg inc) =>
    let s := if s.peerdead.getLsbD pkg then (s.reqs.filter (fun r => r.owner == pkg)).foldl (fun s r => failReq s r 6) s else s
    .next { s with peerdead := s.peerdead &&& ~~~(1#16 <<< pkg), peerInc := tset s.peerInc pkg inc,
                   ctxs := tmap (fun _ c => { c with incseen := tset c.incseen pkg inc }) s.ctxs }
  | _ => .fault .notEnabled

end Sys2Proof.Machine
end

