-- ==== Sys2Proof/Machine/Collective.lean ====
section
/-! DEFINITION. Collectives on the hub die: alias windows, membership, the Caramel machine and its packets
(chapters 03 and 18: R48 to R50, R221, R319 to R337). -/

namespace Sys2Proof.Machine

/-! ### The hub's accesses in a context (R321, R323) -/

/-- A physical piece of an access of the hub, with the policy fields of its page. -/
structure HubPiece where
  pa  : Nat
  len : Nat
  cp  : Nat
  wp  : Nat
  deriving DecidableEq, Repr

/-- What an access of the hub comes to: its physical pieces, a wait for the firmware, or a failure with its
kind and address. -/
inductive HubAcc where
  | ok (ps : List HubPiece)
  | wait (s : State)
  | fail (s : State) (kind va : Nat)

/-- The kinds of access that the hub makes: of a collective record, of other data, a translation for a later read alone, and writes. -/
inductive HubUse where
  | record | read | probe | write
  deriving DecidableEq, Repr

/-- The piece of an access that lies in one page, with the checks of Table 4.7: a record lies in MT 0 (R321), other
reads take MT 0 and 7, writes MT 0 with W. -/
def hubPiece (s : State) (ctx va n : Nat) (u : HubUse) : Except Nat HubPiece :=
  match resolve s ctx va with
  | .error k => .error k
  | .ok x =>
    let room := x.va0 + x.size - va
    let m := if n ≤ room then n else room
    let pa := physAddr s ctx x va false
    if x.mt == 6 then .error 0x5
    else if !(x.mt == 0 || ((u == .read || u == .probe) && x.mt == 7)) then .error 0x4
    else if u == .write && !x.w then .error 0x6
    else if !populated pa m then .error 0x8
    else if (u == .record || u == .read) && lostAt s pa m then .error 0x0
    else .ok ⟨pa, m, x.cp, x.wp⟩

/-- The pieces of `n` bytes, or the kind and address of the first failure. -/
def hubSpan (s : State) (ctx va n : Nat) (u : HubUse) : Nat → Except (Nat × Nat) (List HubPiece)
  | 0 => .ok []
  | f + 1 =>
    if n = 0 then .ok []
    else match hubPiece s ctx va n u with
      | .error k => .error (k, va)
      | .ok p =>
        match hubSpan s ctx (va + p.len) (n - p.len) u f with
        | .error e => .error e
        | .ok ps => .ok (p :: ps)

/-- The physical address of a virtual one that translates. -/
def vaPa (s : State) (ctx va : Nat) : Nat :=
  match resolve s ctx va with
  | .ok x => physAddr s ctx x va false
  | .error _ => 0

/-- The bytes of an access from a virtual address that lie in its page. -/
def hubRoom (s : State) (ctx va n : Nat) : Nat :=
  match resolve s ctx va with
  | .ok x => if n ≤ x.va0 + x.size - va then n else x.va0 + x.size - va
  | .error _ => 0

/-- An access of the hub in a context: a NOTVALID goes to the firmware, which maps the page or finds no
mapping (R323); one that reaches a hole is logged (R66), and so is an error that it is the first to meet (R364). -/
def hubAccess (s : State) (ctx va n : Nat) (u : HubUse) : HubAcc :=
  match hubSpan s ctx va n u 8 with
  | .ok ps => .ok ps
  | .error (0x2, a) =>
    let page := a / 2 ^ 16 * 2 ^ 16
    if s.hubFaults.contains (ctx, page, true) then
      .fail { s with hubFaults := s.hubFaults.filter (fun x => x != (ctx, page, true)) } 0x2 a
    else .wait { s with hubFaults := s.hubFaults.filter (fun x => x != (ctx, page, false)) ++ [(ctx, page, false)] }
  | .error (k, a) => .fail (if k = 8 then logViolation s (vaPa s ctx a) else if k = 0 then meetUpsets s (vaPa s ctx a) (hubRoom s ctx a n) else s) k a

/-- A context waits for the firmware at an access of the hub. -/
def hubBusy (s : State) (ctx : Nat) : Bool := s.hubFaults.any (fun x => x.1 == ctx && !x.2.2)

/-- The bytes of pieces. -/
def piecesRead (s : State) (ps : List HubPiece) : List Byte := ps.flatMap (fun p => memRead s.mem p.pa p.len)

/-- An access to pieces takes its lines into the L2 under their pages' policies (R213, R214). -/
def piecesMeetL2 (s : State) (ps : List HubPiece) (write : Bool) : State :=
  ps.foldl (fun s p => l2TouchAll (meetUpsets s p.pa p.len) p.pa p.len p.cp p.wp write) s

/-- A read of pieces takes its lines into the L2. -/
def piecesTouch (s : State) (ps : List HubPiece) : State := piecesMeetL2 s ps false

/-- Writes bytes over pieces, at their home slices, under their pages' policies (R213). -/
def piecesWrite (s : State) : List HubPiece → List Byte → State
  | [], _ => s
  | p :: r, bs => piecesWrite (homeWrite (l2TouchAll (meetUpsets s p.pa p.len) p.pa p.len p.cp p.wp true) p.pa (bs.take p.len)) r (bs.drop p.len)

/-- Two lists of pieces have bytes in common. -/
def piecesMeet (ps qs : List HubPiece) : Bool :=
  ps.any (fun p => qs.any (fun q => decide (p.pa < q.pa + q.len) && decide (q.pa < p.pa + p.len)))

/-- The first address of pieces. -/
def piecesBase (ps : List HubPiece) : Nat := (ps.head?.map (·.pa)).getD 0

/-! ### The collective record (Table 18.2) -/

/-- A field of a record. -/
def cFld (r : List Word) (i lo w : Nat) : Nat := bitsAt (r.getD i 0).toNat lo w
/-- PROG. -/
def cProg (r : List Word) : Nat := cFld r 0 0 56
/-- SRC. -/
def cSrc (r : List Word) : Nat := cFld r 1 0 56
/-- DST. -/
def cDst (r : List Word) : Nat := cFld r 2 0 56
/-- DONEOBJ. -/
def cDone (r : List Word) : Nat := cFld r 3 0 56
/-- PROGOBJ. -/
def cProgObj (r : List Word) : Nat := cFld r 4 0 56
/-- N. -/
def cN (r : List Word) : Nat := cFld r 5 0 32
/-- SEG. -/
def cSeg (r : List Word) : Nat := cFld r 5 32 16
/-- STYPE. -/
def cStype (r : List Word) : Nat := cFld r 5 48 5
/-- CTYPE. -/
def cCtype (r : List Word) : Nat := cFld r 5 53 5
/-- ROP. -/
def cRop (r : List Word) : Nat := cFld r 5 58 3
/-- KIND. -/
def cKind (r : List Word) : Nat := cFld r 5 61 2
/-- MASK. -/
def cMask (r : List Word) : Nat := cFld r 6 0 16
/-- SEQ. -/
def cSeq (r : List Word) : BitVec 32 := BitVec.ofNat 32 (cFld r 7 0 32)
/-- ARG. -/
def cArg (r : List Word) : Nat := cFld r 7 32 32

/-- Bytes of an item in memory. -/
def cWidth (r : List Word) : Nat := tyBits (cStype r) / 8

/-- Items of part `i` of `n` items over `p` members (R49). -/
def partItems (n p i : Nat) : Nat := if i ≥ p then 0 else n / p + (if i < n % p then 1 else 0)

/-- First item of part `i` (R49). -/
def partStart (n p i : Nat) : Nat := i * (n / p) + (if i < n % p then i else n % p)

/-- Chunks of part `i` (R326). -/
def partChunks (r : List Word) (p i : Nat) : Nat := (partItems (cN r) p i + cSeg r - 1) / cSeg r

/-- The items of a segment id, as first item and count: the chunk of the part, ragged at its end (R326). -/
def segItems (r : List Word) (p seg : Nat) : Nat × Nat :=
  let i := seg % 2 ^ 16
  let c := seg / 2 ^ 16
  let n := partItems (cN r) p i
  (partStart (cN r) p i + c * cSeg r, if n ≤ c * cSeg r then 0 else if n - c * cSeg r < cSeg r then n - c * cSeg r else cSeg r)

/-- The pairs of Table 12.5. -/
def narrowPair (st ct : Nat) : Bool :=
  (st == 8 && (ct == 9 || ct == 0xA)) || ((st == 9 || st == 0xA) && (ct == 0xB || ct == 0xC))

/-- The admitted combinations of KIND, ROP, STYPE and CTYPE (R322). -/
def cAdmitted (r : List Word) : Bool :=
  match cKind r with
  | 2 => cRop r ≤ 3 && (cStype r == 8 || cStype r == 9) && cCtype r == cStype r
  | 1 => cRop r == 4 && cCtype r == cStype r
  | _ => cRop r == 4 && (cCtype r == cStype r || narrowPair (cStype r) (cCtype r))

/-- The members of a mask that are live, in ascending PKGID (R326). -/
def cMembers (s : State) (mask : Nat) : List Nat := (List.range 16).filter (fun p => nbit mask p && nbit s.live p)

/-- Checks 1 to 5 of R322, in order: the code of the first that fails, or 0. `mt` is the MT of the page of the
ARM store. -/
def cCheck (s : State) (slot mt : Nat) (r : List Word) : Nat :=
  let p := (cMembers s (cMask r)).length
  if [0, 1, 2, 3, 4].any (fun i => cFld r i 56 8 != 0) || cFld r 5 63 1 != 0 || cFld r 6 16 48 != 0
      || cRop r > 4 || cKind r == 0 then 0x01
  else if cN r == 0 || cSeg r == 0 || cSeg r % 64 != 0 || !(8 ≤ cStype r && cStype r ≤ 0xA) || !(8 ≤ cCtype r && cCtype r ≤ 0xC)
      || cSeg r * cWidth r > 65536 || !nbit (cMask r) s.pkgid
      || (List.range p).any (fun i => partChunks r p i > 65536) then 0x02
  else if cProg r % 4 != 0 || cDone r == 0 || cDone r % 64 != 0 || cProgObj r % 64 != 0 then 0x03
  else if !cAdmitted r || mt != cKind r then 0x06
  else match tget s.cslots slot with
    | some x => if x.phase != .ended then 0x0A else 0
    | none => 0

/-! ### Window stores (R319 to R324) -/

/-- The slot of a piece of a window store (R320). -/
def WinPart.slot (p : WinPart) : Nat := p.pa / 2 ^ 40 % 4096
/-- Its byte offset. -/
def WinPart.off (p : WinPart) : Nat := p.pa % 2 ^ 40

/-- The first piece of a window store. -/
def winHead (x : WinStore) : WinPart := x.parts.headD ⟨0, 0, 0, []⟩
/-- Its slot. -/
def winSlot (x : WinStore) : Nat := (winHead x).slot

/-- Two window stores of one group go to one slot (R323). -/
def winFollows (x y : WinStore) : Bool :=
  y.core == x.core && y.grp == x.grp && x.parts.any (fun p => y.parts.any (fun q => p.slot == q.slot))

/-- The window store in the cursor's id: no earlier store of its group to its slot is left (R323). -/
def winTake (s : State) : Option WinStore :=
  match s.winq[s.iss.id]? with
  | none => none
  | some x => if (s.winq.take s.iss.id).any (winFollows x) then none else some x

/-- A window store is over: it leaves the queue, and its lane is done. -/
def winDone (s : State) (x : WinStore) : State :=
  let s := { s with winq := s.winq.eraseIdx s.iss.id }
  match (tget s.teams x.core).bind (fun t => t.ott.find? (fun e => e.id == x.ott)) with
  | some e =>
    (match e.work with
     | .remote left => settle s x.core { e with work := .remote (left.filter (· != x.lane)) }
     | _ => s)
  | none => s

/-- A window store is discarded, and a cause is latched with its kind (R66). -/
def winDrop (s : State) (x : WinStore) (cause kind : Nat) : State :=
  winDone (latchErr s x.core x.grp cause kind (word (winHead x).va) (word kind)) x

/-- A store that the hub refuses and logs (Table 21.3). -/
def winRefuse (s : State) (x : WinStore) (kind : Nat) : State := winDrop (logViolation s (winHead x).pa) x 0x05 kind

/-- A slot is bound to another context than `ctx` (R319). -/
def boundElsewhere (s : State) (n ctx : Nat) : Bool := ((tget s.cslots n).map (fun c => c.ctx != ctx)).getD false

/-- A slot bound to another context (R319). -/
def foreignSlot (s : State) (x : WinStore) : Bool := boundElsewhere s (winSlot x) x.ctx

/-- The store is STG.n64 at a control offset (Table 18.1). -/
def winControl (x : WinStore) (off : Nat) : Bool := x.n64 && (winHead x).off == 0xFFFFFF0000 + off

/-- The data of a store as a number. -/
def winVal (x : WinStore) : Nat := leNat (winHead x).data

/-- A refused ARM: DONEOBJ is posted with STATE 3 and the code, or, where it cannot be written, EPROT is latched (R322). -/
def armRefused (s : State) (x : WinStore) (r : List Word) (code : Nat) : State :=
  if cDone r == 0 || cDone r % 64 != 0 then winDrop s x 0x05 0
  else match hubAccess s x.ctx (cDone r) 64 .write with
    | .ok ps => winDone (postObject (piecesMeetL2 s ps true) (piecesBase ps) 3 code 0 0 0 0 0 0) x
    | .wait s => s
    | .fail s k _ => winDrop s x 0x05 k

/-- A slot as a successful ARM leaves it (R322, R326, R328). -/
def armedSlot (s : State) (ctx : Nat) (r : List Word) : CSlot :=
  { ctx := ctx, phase := .queued, rec_ := r, order := s.corder, members := cMembers s (cMask r), epoch := s.epoch, pc := 0,
    k := List.replicate 16 0, b := List.replicate 16 .empty, out := [], scats := [], filled := [], bad := [], sentTo := [],
    sealed := false, waiting := false }

/-- Accesses that must all be possible, in order. -/
def hubAll (s : State) (ctx : Nat) : List (Nat × Nat × HubUse) → HubAcc
  | [] => .ok []
  | (va, n, u) :: r =>
    match hubAccess s ctx va n u with
    | .ok _ => hubAll s ctx r
    | e => e

/-- What a refused ARM leaves: the firmware's answers about the record's pages are used up with it. -/
def armOver (s : State) (x : WinStore) (r : List Word) : State :=
  if s.winq.contains x then s else dropTold s x.ctx [cProg r, cDone r, cProgObj r]

/-- ARM (R322). -/
def execArm (s : State) : Host.Outcome State Fault Refusal :=
  match winTake s with
  | none => .fault .notEnabled
  | some x =>
    if !winControl x 0 then .fault .notEnabled
    else if foreignSlot s x then .next (winRefuse s x 4)
    else if winVal x % 64 != 0 then .next (winDrop s x 0x05 0)
    else match hubAccess s x.ctx (winVal x) 64 .record with
      | .wait s => .next s
      | .fail s k _ => .next (winDrop s x 0x05 k)
      | .ok ps =>
        let s := piecesTouch s ps
        let r := regsOfBytes (piecesRead s ps) 8
        let code := cCheck s (winSlot x) (winHead x).mt r
        if code != 0 then .next (armRefused s x r code)
        else match hubAll s x.ctx ((cProg r, 4, .probe) :: (cDone r, 64, .write)
            :: (if cProgObj r = 0 then [] else [(cProgObj r, 64, .write)])) with
          | .wait s => .next s
          | .fail _ _ _ => .next (armOver (armRefused s x r 0x08) x r)
          | .ok _ =>
            let s := { s with cslots := tset s.cslots (winSlot x) (armedSlot s x.ctx r), corder := s.corder + 1,
                              heldPk := s.heldPk.filter (fun p => !(p.slot == winSlot x && olderSerial p.seq (cSeq r))) }
            .next (winDone s x)

/-- Updates a slot. -/
def modSlot (s : State) (n : Nat) (f : CSlot → CSlot) : State :=
  match tget s.cslots n with
  | some x => { s with cslots := tset s.cslots n (f x) }
  | none => s

/-- The word at a slot's PC is tried again. -/
def wakeSlot (s : State) (n : Nat) : State := modSlot s n (fun x => { x with waiting := false })

/-- SEAL (R323). -/
def execSeal (s : State) : Host.Outcome State Fault Refusal :=
  match winTake s with
  | none => .fault .notEnabled
  | some x =>
    if !winControl x 8 then .fault .notEnabled
    else if foreignSlot s x then .next (winRefuse s x 4)
    else match tget s.cslots (winSlot x) with
      | some c =>
        if winVal x != (cSeq c.rec_).toNat then .next (winDrop s x 0x13 4)
        else .next (winDone (wakeSlot (modSlot s (winSlot x) (fun c => { c with sealed := true })) (winSlot x)) x)
      | none => .next (winDrop s x 0x13 4)

/-! ### The end of a program (R330) -/

/-- CAUSE of an end code (Table 18.4). -/
def endCause (code : Nat) : Nat :=
  match code with
  | 0x00 => 0 | 0x01 => 0x11 | 0x02 => 0x01 | 0x03 => 0x08 | 0x04 => 0x05 | 0x05 => 0x01 | 0x06 => 0x07 | 0x07 => 0x01
  | _ => 0x11

/-- CAUSE of an end in whose place code 0x04 stands for a page of a peer's memory is ERMT (Table 4.8, Table 18.4). -/
def endCauseAt (s : State) (ctx code : Nat) (faddr : Word) : Nat :=
  match code, resolve s ctx faddr.toNat with
  | 4, .ok x => if x.mt == 5 then 0x07 else endCause code
  | _, _ => endCause code

/-- Writes and posts a DONEOBJ; one whose page is NOTVALID is posted when the firmware has mapped it (R323, R330). -/
def postEnd (s : State) (p : CPost) : State :=
  match hubAccess s p.ctx p.va 64 .write with
  | .ok ps => postObject (piecesMeetL2 s ps true) (piecesBase ps) p.state p.cause p.errcnt 0 p.fpc p.faddr p.finfo 0
  | .wait s => { s with cposts := s.cposts ++ [p] }
  | .fail s _ _ => s

/-- The posts of a context that waited for the firmware are tried again. -/
def runPosts (s : State) (ctx : Nat) : State :=
  (s.cposts.filter (fun p => p.ctx == ctx)).foldl postEnd { s with cposts := s.cposts.filter (fun p => p.ctx != ctx) }

/-- A program ends: DONEOBJ is written and posted, every end but DONE and 0x06 sends ABORT, and the packets held
for the slot are dropped (R329, R330, Table 18.3). -/
def endProgram (s : State) (n code hcode peer : Nat) (fpc faddr : Word) : State :=
  match tget s.cslots n with
  | none => s
  | some x =>
    let info := word (code + 2 ^ 8 * hcode + 2 ^ 16 * peer + 2 ^ 32 * x.epoch)
    let s := postEnd s ⟨x.ctx, cDone x.rec_, if code = 0 then 1 else 2, endCauseAt s x.ctx code faddr,
      if code = 0 then 0 else 1, fpc, faddr, info⟩
    let s := if code = 0 || code = 6 then s else
      (x.members.filter (· != s.pkgid)).foldl (fun s p => notify s .abort p x.ctx n (cSeq x.rec_)) s
    modSlot { s with heldPk := s.heldPk.filter (fun p => p.slot != n),
                     reqs := s.reqs.filter (fun r => !(r.kind == .car && r.stream == n)) } n (fun x =>
      { x with phase := .ended, b := List.replicate 16 .empty, out := [], scats := [], waiting := false })

/-- DISARM (R324). -/
def execDisarm (s : State) : Host.Outcome State Fault Refusal :=
  match winTake s with
  | none => .fault .notEnabled
  | some x =>
    if !winControl x 0x10 then .fault .notEnabled
    else if foreignSlot s x then .next (winRefuse s x 4)
    else match tget s.cslots (winSlot x) with
      | none => .next (winDone s x)
      | some c =>
        let free (s : State) : State := winDone { s with cslots := tdel s.cslots (winSlot x) } x
        if c.phase == .ended then .next (free s)
        else match hubAccess s x.ctx (cDone c.rec_) 64 .write with
          | .wait s => .next s
          | _ => .next (free (endProgram s (winSlot x) 8 0 0 0 0))

/-- What a piece of a data store comes to: the pieces of memory that take it, a wait for the firmware, or a failure with its
cause and kind. -/
inductive WinAcc where
  | ok (ps : List HubPiece)
  | wait (s : State)
  | drop (s : State) (cause kind : Nat)

/-- A piece of a data store, checked: a slot of another context, an offset that holds no data, an MT that is not KIND, and
the access at SRC + OFF (R319, R320, R323). -/
def winPiece (s : State) (ctx : Nat) (p : WinPart) : WinAcc :=
  if boundElsewhere s p.slot ctx then .drop (logViolation s p.pa) 0x05 4
  else if p.off ≥ 0xFFFFFF0000 then .drop (logViolation s p.pa) 0x05 8
  else match tget s.cslots p.slot with
    | none => .drop s 0x13 4
    | some c =>
      if cSrc c.rec_ = 0 || p.off + p.data.length > cN c.rec_ * cWidth c.rec_ then .drop (logViolation s p.pa) 0x05 8
      else if p.mt != cKind c.rec_ then .drop s 0x13 4
      else match hubAccess s ctx (cSrc c.rec_ + p.off) p.data.length .write with
        | .wait s => .wait s
        | .fail s k _ => .drop s (kindCause k false) k
        | .ok ps => .ok ps

/-- The pieces of a data store, all checked before any is written (R168, R323). -/
def winPieces (s : State) (ctx : Nat) : List WinPart → WinAcc
  | [] => .ok []
  | p :: r =>
    match winPiece s ctx p with
    | .ok ps =>
      (match winPieces s ctx r with
       | .ok qs => .ok (ps ++ qs)
       | e => e)
    | e => e

/-- WINDOW_DATA_STORE: performed at SRC + OFF, an STB as one block write, or discarded with a latched cause (R168, R320, R323). -/
def execWindowDataStore (s : State) : Host.Outcome State Fault Refusal :=
  match winTake s with
  | none => .fault .notEnabled
  | some x =>
    if winControl x 0 || winControl x 8 || winControl x 0x10 then .fault .notEnabled
    else match winPieces s x.ctx x.parts with
      | .wait s => .next s
      | .drop s cause kind => .next (winDrop s x cause kind)
      | .ok ps =>
        let s := if x.lane < 1024 then s else keepOlds s (ps.map (fun p => (p.pa, p.len)))
        .next (winDone (piecesWrite s ps (x.parts.flatMap (·.data))) x)

/-! ### Membership (R325, R326) -/

/-- The program of a slot has not ended. -/
def CSlot.live (x : CSlot) : Bool := x.phase != .ended

/-- MEMBERSHIP_CHANGE: the table is applied and EPOCH advances; every context's INCSEEN of a package that becomes live is set; a
running program one of whose members is not live ends (R325, R326, R380). -/
def execMembershipChange (s : State) : Host.Outcome State Fault Refusal :=
  match s.msg with
  | some (.membershipChange live incs) =>
    let new := (List.range 16).filter (fun p => nbit live p && !nbit s.live p && p != s.pkgid)
    if !new.all (fun p => incs.any (fun x => x.1 == p)) then .fault .notEnabled else
    let told := incs.filter (fun x => new.contains x.1)
    let seen (t : Tab Nat) : Tab Nat := told.foldl (fun t p => tset t p.1 (p.2 % 2 ^ 16)) t
    let s := { s with live := live % 2 ^ 16, epoch := (s.epoch + 1) % 2 ^ 16, peerInc := seen s.peerInc,
                      ctxs := tmap (fun _ c => { c with incseen := seen c.incseen }) s.ctxs }
    .next (s.cslots.foldl (fun s e =>
      match (if e.2.live then e.2.members.find? (fun p => !nbit s.live p) else none) with
      | some p => endProgram s e.1 3 0 p 0 0
      | none => s) s)
  | _ => .fault .notEnabled

/-! ### Packets (R329, R330, R333) -/

/-- The hub acknowledges a packet to the package that sent it. -/
def ackPacket (s : State) (pkg slot req : Nat) : State := sendTo s pkg (.carTransferAck slot req)

/-- A buffer of a slot is filled by a packet. -/
def fillBuf (x : CSlot) (i : Nat) (p : CPacket) : CSlot :=
  { x with b := x.b.set i (.full p.seg p.ty p.tag p.items), filled := (p.src, p.seg) :: x.filled,
           bad := x.bad.filter (· != i), waiting := false }

/-- The buffer that expects a packet's key. -/
def expectOf (x : CSlot) (p : CPacket) : Option Nat := x.b.findIdx? (fun b => b == .expect p.src p.seg)

/-- A transfer is complete at its sender. -/
def transferDone (s : State) (slot id : Nat) : State :=
  wakeSlot (modSlot { s with reqs := s.reqs.filter (fun r => !(r.kind == .car && r.id == id)) } slot (fun x =>
    { x with out := x.out.filter (fun y => y.id != id) })) slot

/-- Acknowledges a packet to its sender; one of the package's own is delivered inside the hub. -/
def carAck (s : State) (pkg slot req : Nat) : State :=
  if pkg = s.pkgid then transferDone s slot req else ackPacket s pkg slot req

/-- A packet finds 16 segments of its slot held and is not taken: BUSY to its sender; one of the package's own is
offered again later (R329). -/
def packetBusy (s : State) (pkg req : Nat) : Host.Outcome State Fault Refusal :=
  if pkg = s.pkgid then .fault .notEnabled else .next (answer s pkg req 1 [])

/-- A packet arrives from package `pkg` (R326, R329). -/
def packetArrives (s : State) (pkg req : Nat) (p : CPacket) : Host.Outcome State Fault Refusal :=
  let hold : Host.Outcome State Fault Refusal :=
    if (s.heldPk.filter (fun q => q.slot == p.slot)).length ≥ 16 then packetBusy s pkg req
    else .next (carAck { s with heldPk := s.heldPk ++ [p] } pkg p.slot req)
  match tget s.cslots p.slot with
  | none => hold
  | some x =>
    if olderSerial p.seq (cSeq x.rec_) then .next (carAck s pkg p.slot req)
    else if p.seq != cSeq x.rec_ then hold
    else if !x.live then .next (carAck s pkg p.slot req)
    else if p.epoch != x.epoch then .next (endProgram (carAck s pkg p.slot req) p.slot 3 0 pkg 0 0)
    else match expectOf x p with
      | none => hold
      | some i =>
        if x.filled.contains (p.src, p.seg) then .next (carAck s pkg p.slot req)
        else .next (carAck (modSlot s p.slot (fun x => fillBuf x i p)) pkg p.slot req)

/-- CARAMEL_PACKET_ARRIVAL: a packet from the fabric, or the package's own transfer that the cursor names (its slot
in core, its number in id), delivered inside the hub (R326, R329). -/
def execCaramelPacketArrival (s : State) : Host.Outcome State Fault Refusal :=
  match s.msg with
  | some (.carPacket pkg req p) => packetArrives s pkg req p
  | some _ => .fault .notEnabled
  | none =>
    match (tget s.cslots s.iss.core).bind (fun x => x.out.find? (fun y => y.id == s.iss.id && y.peer == s.pkgid)) with
    | some y => packetArrives s s.pkgid y.id y.pkt
    | none => .fault .notEnabled

/-- CARAMEL_TRANSFER_ACK (R333). -/
def execCaramelTransferAck (s : State) : Host.Outcome State Fault Refusal :=
  match s.msg with
  | some (.carTransferAck slot id) => .next (transferDone s slot id)
  | _ => .fault .notEnabled

/-- CARAMEL_ABORT_RECEIVED (R330): an ABORT of the armed SEQ ends the program with code 0x06; it is acknowledged (R45). -/
def execCaramelAbortReceived (s : State) : Host.Outcome State Fault Refusal :=
  match s.msg with
  | some (.carAbort slot seq pkg req) =>
    let s := answer s pkg req 0 []
    match tget s.cslots slot with
    | some x => if x.live && cSeq x.rec_ == seq then .next (endProgram s slot 6 0 pkg 0 0) else .next s
    | none => .next s
  | _ => .fault .notEnabled

/-! ### The machine (R328, R331, R332) -/

/-- The unit of a slot (R319). -/
def slotUnit (n : Nat) : Nat := n % 24

/-- CARAMEL_PROGRAM_START: the unit is free and the slot in the cursor's core is the first of its queue (R331). -/
def execCaramelProgramStart (s : State) : Host.Outcome State Fault Refusal :=
  match tget s.cslots s.iss.core with
  | none => .fault .notEnabled
  | some x =>
    let unit_ := s.cslots.filter (fun e => slotUnit e.1 == slotUnit s.iss.core)
    if x.phase == .queued && !(unit_.any (fun e => e.2.phase == .running))
        && !(unit_.any (fun e => e.2.phase == .queued && e.2.order < x.order)) then
      .next (modSlot s s.iss.core (fun x => { x with phase := .running }))
    else .fault .notEnabled

/-- The virtual address of the word at a slot's PC. -/
def carPc (x : CSlot) : Word := word (cProg x.rec_ + 4 * x.pc.toNat)

/-- What a word comes to. -/
inductive CarEff where
  | go (s : State) (x : CSlot)          -- the PC advances by 1
  | jump (x : CSlot) (off : Int)        -- PC + off
  | hold (s : State) (x : CSlot)        -- part of it is done, and it waits with the rest
  | wait
  | blocked (s : State)                 -- the firmware is asked for a page
  | fail (s : State) (code : Nat) (faddr : Word)
  | left (s : State) (peer : Nat)       -- code 0x03: a packet of another EPOCH, from package `peer`
  | finish (code hcode : Nat)

/-- Executes the word of the slot in the cursor's core: `ok` says that its fields are legal (R332). -/
def caramel (ok : Bool) (body : State → Nat → CSlot → CarEff) (s : State) : Host.Outcome State Fault Refusal :=
  let n := s.iss.core
  match tget s.cslots n with
  | none => .fault .notEnabled
  | some x =>
    if x.phase != .running then .fault .notEnabled
    else if !ok then .next (endProgram s n 2 0 0 (carPc x) 0)
    else match body s n x with
      | .go s y => .next (modSlot s n (fun _ => { y with pc := y.pc + 1 }))
      | .jump y off => .next (modSlot s n (fun _ => { y with pc := y.pc + off }))
      | .hold s y => .next (modSlot s n (fun _ => { y with waiting := true }))
      | .wait => .next (modSlot s n (fun x => { x with waiting := true }))
      | .blocked s => .next s
      | .fail s code a => .next (endProgram s n code 0 0 (carPc x) a)
      | .left s k => .next (endProgram s n 3 0 k (carPc x) 0)
      | .finish code h => .next (endProgram s n code h 0 (if code = 0 then 0 else carPc x) 0)

/-- A word whose fields have the listed uses: true for a field that must be zero. -/
def carFields (w : CaramelFields) (x0 y0 z0 : Bool) (imm : Nat) : Bool :=
  (!x0 || w.x == 0#4) && (!y0 || w.y == 0#4) && (!z0 || w.z == 0#4) && w.imm.toNat < 2 ^ imm

/-- A counter. -/
def kAt (x : CSlot) (i : BitVec 4) : BitVec 32 := x.k.getD i.toNat 0
/-- A buffer. -/
def bAt (x : CSlot) (i : BitVec 4) : CBuf := x.b.getD i.toNat .empty
/-- Sets a counter. -/
def setK (x : CSlot) (i : BitVec 4) (v : BitVec 32) : CSlot := { x with k := x.k.set i.toNat v }
/-- Sets a buffer. -/
def setB (x : CSlot) (i : BitVec 4) (v : CBuf) : CSlot := { x with b := x.b.set i.toNat v, bad := x.bad.filter (· != i.toNat) }

/-- What a word comes to that reads buffers: with an error in one of them that cannot be corrected, which the hub logs, the
program ends with code 0x04, which of the codes the spec does not say (R330, R358, R364, log 88). -/
def readsBufs (n : Nat) (x : CSlot) (is : List (BitVec 4)) (s : State) (eff : CarEff) : CarEff :=
  if is.any (fun i => x.bad.contains i.toNat) then .fail (logEvent s 0 3 6 0 true (slotUnit n)) 4 0 else eff

/-- A transfer or a SCAT from a buffer is outstanding (R328). -/
def bufBusy (x : CSlot) (i : BitVec 4) : Bool := x.out.any (fun t => t.buf == i.toNat) || x.scats.any (fun t => t.buf == i.toNat)

/-- The transfers outstanding, SCATs among them (R333). -/
def outstanding (x : CSlot) : Nat := x.out.length + x.scats.length

/-- The number of members. -/
def CSlot.p (x : CSlot) : Nat := x.members.length

/-- This member's rank. -/
def myRank (s : State) (x : CSlot) : Nat := (x.members.findIdx? (· == s.pkgid)).getD 0

/-- The signed IMM15. -/
def carOff (w : CaramelFields) : Int := w.imm.toInt

/-- MATCH and MATCHX: EXPECT is posted, or a held packet with the key fills the buffer now (R333). -/
def carMatch (w : CaramelFields) (rank : CSlot → Nat) (s : State) (n : Nat) (x : CSlot) : CarEff :=
  if bufBusy x w.x then .wait
  else
    let seg := (kAt x w.y).toNat
    match bAt x w.x with
    | .expect _ _ => .fail s 5 0
    | _ =>
      if rank x ≥ x.p then .fail s 5 0
      else
        let key (p : CPacket) : Bool := p.slot == n && p.seq == cSeq x.rec_ && p.src == rank x && p.seg == seg
        let s' := { s with heldPk := s.heldPk.filter (fun p => !key p) }
        match (if x.filled.contains (rank x, seg) then none else s.heldPk.find? key) with
        | some p => if p.epoch != x.epoch then .left s' (x.members.getD (rank x) 0) else .go s' (fillBuf x w.x.toNat p)
        | none => .go s' (setB x w.x (.expect (rank x) seg))

/-- MATCH (R333). -/
def execCaramelMatch (w : CaramelFields) (s : State) : Host.Outcome State Fault Refusal :=
  caramel (carFields w false false true 4) (carMatch w (fun _ => w.imm.toNat % 16)) s
/-- MATCHX (R333). -/
def execCaramelMatchx (w : CaramelFields) (s : State) : Host.Outcome State Fault Refusal :=
  caramel (carFields w false false false 0) (carMatch w (fun x => (kAt x w.z).toNat % 16)) s

/-- RECV (R333). -/
def execCaramelRecv (w : CaramelFields) (s : State) : Host.Outcome State Fault Refusal :=
  caramel (carFields w false true true 0) (fun s _ x =>
    match bAt x w.x with
    | .empty => .fail s 5 0
    | .expect _ _ => .wait
    | .full _ _ _ _ => .go s x) s

/-- WAITN (R333). -/
def execCaramelWaitn (w : CaramelFields) (s : State) : Host.Outcome State Fault Refusal :=
  caramel (carFields w true true true 6 && w.imm.toNat ≤ 32) (fun s _ x =>
    if outstanding x ≤ w.imm.toNat then .go s x else .wait) s

/-! ### COMB, COMBO, CVT (R334) -/

/-- One position of a combination. -/
def combItem (rop ty a b : Nat) : Nat :=
  let f := fmtT ty
  let x := f.read a
  let y := f.read b
  match rop with
  | 2 => f.round 0 false none (numMin x y)
  | 3 => f.round 0 false none (numMax x y)
  | _ => f.round 0 false none (numAdd 0 x y)

/-- [lo, hi) is a node of the canonical tree below [a, b) (R327). -/
def isNode (lo hi : Nat) : Nat → Nat → Nat → Bool
  | a, b, 0 => a == lo && b == hi
  | a, b, f + 1 =>
    if a == lo && b == hi then true
    else if b ≤ a + 1 then false
    else
      let m := a + (b - a + 1) / 2
      if hi ≤ m then isNode lo hi a m f else if m ≤ lo then isNode lo hi m b f else false

/-- Two tags are the children of one node of the tree over P ranks: the node, the first tag the lower. -/
def parentTag (p : Nat) (t u : Option (Nat × Nat)) : Option (Nat × Nat) :=
  match t, u with
  | some (lo, m), some (m', hi) =>
    if m == m' && lo < m && m < hi && m == lo + (hi - lo + 1) / 2 && isNode lo hi 0 p 32 then some (lo, hi) else none
  | _, _ => none

/-- COMB and COMBO (R334). -/
def carComb (w : CaramelFields) (tree : Bool) (s : State) (n : Nat) (x : CSlot) : CarEff :=
  if bufBusy x w.x then .wait
  else readsBufs n x [w.x, w.y] s <| match bAt x w.x, bAt x w.y with
    | .full s1 t1 g1 i1, .full s2 t2 g2 i2 =>
      if s1 != s2 || t1 != t2 || cRop x.rec_ ≥ 4 then .fail s 5 0
      else
        let comb (l h : List Nat) : List Nat := (l.zip h).map (fun e => combItem (cRop x.rec_) t1 e.1 e.2)
        if !tree then .go s (setB x w.x (.full s1 t1 none (comb i1 i2)))
        else match parentTag x.p g1 g2, parentTag x.p g2 g1 with
          | some g, _ => .go s (setB x w.x (.full s1 t1 (some g) (comb i1 i2)))
          | none, some g => .go s (setB x w.x (.full s1 t1 (some g) (comb i2 i1)))
          | none, none => .fail s 5 0
    | _, _ => .fail s 5 0

/-- COMB (R334). -/
def execCaramelComb (w : CaramelFields) (s : State) : Host.Outcome State Fault Refusal :=
  caramel (carFields w false false true 0) (carComb w false) s
/-- COMBO (R334). -/
def execCaramelCombo (w : CaramelFields) (s : State) : Host.Outcome State Fault Refusal :=
  caramel (carFields w false false true 0) (carComb w true) s

/-- CVT (R334, R221). -/
def execCaramelCvt (w : CaramelFields) (s : State) : Host.Outcome State Fault Refusal :=
  caramel (carFields w false true true 1) (fun s n x =>
    let (src, dst) := if w.imm == 1#15 then (cStype x.rec_, cCtype x.rec_) else (cCtype x.rec_, cStype x.rec_)
    if bufBusy x w.x then .wait
    else readsBufs n x [w.x] s <| match bAt x w.x with
      | .full g t tag is =>
        if t != src then .fail s 5 0
        else .go s (setB x w.x (.full g dst tag (is.map (fun v => (fmtT dst).round 0 false none ((fmtT src).read v)))))
      | _ => .fail s 5 0) s

/-! ### FWD, MCAST, SEND, GATH, SCAT, DROP (R335) -/

/-- One transfer of a buffer to a rank. -/
def carSend1 (n : Nat) (i : BitVec 4) (pkt : CPacket) (r : State × CSlot) (peer : Nat) : State × CSlot :=
  let id := r.1.stamp
  let x := { r.2 with out := r.2.out ++ [⟨id, i.toNat, peer, pkt⟩] }
  let s := modSlot { r.1 with stamp := id + 1 } n (fun _ => x)
  if peer = s.pkgid then (s, x)
  else (newReq s { Req.base id .car peer x.ctx 0 0 0 0 0 0 0 0 0 with stream := n }, x)

/-- Transfers of a FULL buffer to ranks, one after the other; with 32 outstanding the program waits at the next of them
(R333, R335). -/
def carSend (i : BitVec 4) (ranks : State → CSlot → List Nat) (s : State) (n : Nat) (x : CSlot) : CarEff :=
  readsBufs n x [i] s <| match bAt x i with
  | .full seg ty tag is =>
    let rs := ranks s x
    if rs.any (fun r => r ≥ x.p) then .fail s 5 0
    else
      let left := rs.filter (fun r => !x.sentTo.contains r)
      let now := left.take (32 - outstanding x)
      let pkt : CPacket := ⟨myRank s x, n, cSeq x.rec_, x.epoch, seg, ty, tag, is⟩
      let r := (now.map (fun r => x.members.getD r 0)).foldl (carSend1 n i pkt) (s, x)
      if now.length < left.length then .hold r.1 { r.2 with sentTo := x.sentTo ++ now } else .go r.1 { r.2 with sentTo := [] }
  | _ => .fail s 5 0

/-- FWD (R335). -/
def execCaramelFwd (w : CaramelFields) (s : State) : Host.Outcome State Fault Refusal :=
  caramel (carFields w false true false 0) (carSend w.x (fun _ x => [(kAt x w.z).toNat % 16])) s
/-- MCAST (R335). -/
def execCaramelMcast (w : CaramelFields) (s : State) : Host.Outcome State Fault Refusal :=
  caramel (carFields w false true true 0) (carSend w.x (fun s x => (List.range x.p).filter (· != myRank s x))) s
/-- SEND (R335). -/
def execCaramelSend (w : CaramelFields) (s : State) : Host.Outcome State Fault Refusal :=
  caramel (carFields w false true true 4) (carSend w.x (fun _ _ => [w.imm.toNat])) s

/-- The codes of items in memory. -/
def itemsOfBytes (width : Nat) (bs : List Byte) (n : Nat) : List Nat :=
  (List.range n).map (fun i => leNat ((bs.drop (i * width)).take width))

/-- −0 of a type. -/
def negZero (ty : Nat) : Nat := 2 ^ (tyBits ty - 1)

/-- A SCAT that is not performed touches bytes that an access reads: they are performed in program order (R335). -/
def scatBefore (s : State) (x : CSlot) (ps : List HubPiece) : Bool :=
  x.scats.any (fun sc => match hubSpan s x.ctx sc.va sc.bytes.length .write 8 with
    | .ok qs => piecesMeet ps qs
    | .error _ => true)

/-- GATH (R335). -/
def execCaramelGath (w : CaramelFields) (s : State) : Host.Outcome State Fault Refusal :=
  caramel (carFields w false false true 0) (fun s _ x =>
    let seg := (kAt x w.y).toNat
    let ty := cStype x.rec_
    let (first, n) := segItems x.rec_ x.p seg
    if bufBusy x w.x then .wait
    else if cSrc x.rec_ = 0 || n = 0 then .fail s 5 0
    else if !x.sealed then .wait
    else match hubAccess s x.ctx (cSrc x.rec_ + first * cWidth x.rec_) (n * cWidth x.rec_) .read with
      | .wait s => .blocked s
      | .fail s _ a => .fail s 4 (word a)
      | .ok ps =>
        if scatBefore s x ps then .wait else
        let is := itemsOfBytes (cWidth x.rec_) (piecesRead s ps) n ++ List.replicate (cSeg x.rec_ - n) (negZero ty)
        .go (piecesTouch s ps) (setB x w.x (.full seg ty (some (myRank s x, myRank s x + 1)) is))) s

/-- x / P rounded to nearest even (R335). -/
def meanItem (ty p v : Nat) : Nat :=
  let f := fmtT ty
  match f.read v with
  | .fin neg m e =>
    let m' := m * 2 ^ 64
    f.roundMag 0 false neg (m' / p) (e - 64) (m' % p != 0) none
  | y => f.round 0 false none y

/-- SCAT: the writes are performed in SCAT_WRITES_PERFORMED (R333, R335). -/
def execCaramelScat (w : CaramelFields) (s : State) : Host.Outcome State Fault Refusal :=
  caramel (carFields w false false true 0) (fun s n x =>
    readsBufs n x [w.x] s <| match bAt x w.x with
    | .full seg ty tag is =>
      if cDst x.rec_ = 0 || ty != cStype x.rec_ || seg != (kAt x w.y).toNat || (cRop x.rec_ == 1 && tag != some (0, x.p)) then .fail s 5 0
      else if outstanding x ≥ 32 then .wait
      else
        let (first, k) := segItems x.rec_ x.p seg
        let vs := (is.take k).map (fun v => if cRop x.rec_ == 1 then meanItem ty x.p v else v)
        let sc : CScat := ⟨s.stamp, w.x.toNat, carPc x, cDst x.rec_ + first * cWidth x.rec_, vs.flatMap (leBytes (cWidth x.rec_))⟩
        .go { s with stamp := s.stamp + 1 } { x with scats := x.scats ++ [sc] }
    | _ => .fail s 5 0) s

/-- SCAT_WRITES_PERFORMED: the oldest SCAT of the slot in the cursor's core is performed at the home slices
(R333, R335). -/
def execScatWritesPerformed (s : State) : Host.Outcome State Fault Refusal :=
  match tget s.cslots s.iss.core with
  | none => .fault .notEnabled
  | some x =>
    match x.scats with
    | [] => .fault .notEnabled
    | sc :: rest =>
      match hubAccess s x.ctx sc.va sc.bytes.length .write with
      | .wait s => .next s
      | .fail s _ a => .next (endProgram s s.iss.core 4 0 0 sc.pc (word a))
      | .ok ps => .next (wakeSlot (modSlot (piecesWrite s ps sc.bytes) s.iss.core (fun x => { x with scats := rest })) s.iss.core)

/-- DROP (R335). -/
def execCaramelDrop (w : CaramelFields) (s : State) : Host.Outcome State Fault Refusal :=
  caramel (carFields w false true true 0) (fun s _ x => if bufBusy x w.x then .wait else .go s (setB x w.x .empty)) s

/-! ### Counters and control (R336) -/

/-- LDK (R336). -/
def execCaramelLdk (w : CaramelFields) (s : State) : Host.Outcome State Fault Refusal :=
  let f := w.imm.toNat
  caramel (carFields w false (f != 2 && f != 3) true 4) (fun s _ x =>
    let part := (kAt x w.y).toNat % 2 ^ 16
    let put (v : Nat) : CarEff := .go s (setK x w.x (BitVec.ofNat 32 v))
    match f with
    | 0 => put (myRank s x)
    | 1 => put x.p
    | 2 => if part ≥ x.p then .fail s 5 0 else put (partChunks x.rec_ x.p part)
    | 3 => if part ≥ x.p then .fail s 5 0 else put (partItems (cN x.rec_) x.p part)
    | 4 => put (cArg x.rec_)
    | 5 => put (cSeq x.rec_).toNat
    | _ => .fail s 5 0) s

/-- SETK (R336). -/
def execCaramelSetk (w : CaramelFields) (s : State) : Host.Outcome State Fault Refusal :=
  caramel (carFields w false true true 15) (fun s _ x => .go s (setK x w.x (w.imm.zeroExtend 32))) s
/-- ADDK (R336). -/
def execCaramelAddk (w : CaramelFields) (s : State) : Host.Outcome State Fault Refusal :=
  caramel (carFields w false false true 15) (fun s _ x =>
    let v := sxInt 14 w.imm.toNat * (if w.imm.getLsbD 14 then 2 ^ 16 else 1)
    .go s (setK x w.x (BitVec.ofInt 32 ((kAt x w.y).toNat + v)))) s
/-- BRK (R336). -/
def execCaramelBrk (w : CaramelFields) (s : State) : Host.Outcome State Fault Refusal :=
  caramel (carFields w true true true 15) (fun _ _ x => .jump x (carOff w)) s
/-- BNZ (R336). -/
def execCaramelBnz (w : CaramelFields) (s : State) : Host.Outcome State Fault Refusal :=
  caramel (carFields w false true true 15) (fun _ _ x => .jump x (if kAt x w.x != 0 then carOff w else 1)) s
/-- LOOPK (R336). -/
def execCaramelLoopk (w : CaramelFields) (s : State) : Host.Outcome State Fault Refusal :=
  caramel (carFields w false true true 15) (fun _ _ x =>
    let v := kAt x w.x - 1
    .jump (setK x w.x v) (if v != 0 then carOff w else 1)) s

/-! ### POST, DONE, HALT (R337) -/

/-- POST: COUNT rises as a release at .sys does, over the writes of earlier SCATs (R299, R337). -/
def execCaramelPost (w : CaramelFields) (s : State) : Host.Outcome State Fault Refusal :=
  caramel (carFields w true true true 0) (fun s _ x =>
    if !x.scats.isEmpty then .wait
    else if cProgObj x.rec_ = 0 then .go s x
    else match hubAccess s x.ctx (cProgObj x.rec_) 64 .write with
      | .wait s => .blocked s
      | .fail s _ a => .fail s 4 (word a)
      | .ok ps => .go (addCount (applyAll (piecesMeetL2 s ps true)) (piecesBase ps) 1) x) s

/-- DONE (R337). -/
def execCaramelDone (w : CaramelFields) (s : State) : Host.Outcome State Fault Refusal :=
  caramel (carFields w true true true 0) (fun _ _ x => if outstanding x = 0 then .finish 0 0 else .wait) s

/-- HALT (R337). -/
def execCaramelHalt (w : CaramelFields) (s : State) : Host.Outcome State Fault Refusal :=
  caramel (carFields w true true true 8) (fun _ _ _ => .finish 1 w.imm.toNat) s

/-- A word that is illegal, with it; a PC past the program, or a word that cannot be read, without (R328,
R332). -/
def execCaramelIllegalWord (w : Option (BitVec 32)) (s : State) : Host.Outcome State Fault Refusal :=
  caramel true (fun s _ x =>
    match w with
    | some _ => .fail s 2 0
    | none => if x.pc < 0 || x.pc ≥ 1024 then .fail s 7 0 else .fail s 4 (carPc x)) s

end Sys2Proof.Machine
end

