-- ==== Sys2Proof/Machine/System.lean ====
section
/-! DEFINITION. The system class, OP9 0x1C0 to 0x1C6, the CSRs and the rows of their writes (chapters 07, 12,
21 and 26: R53, R65, R101, R208, R209, R345, R353 to R357, R363, R375, R391 to R396, R399). -/

namespace Sys2Proof.Machine

/-! ### The CSR table (Table 7.2) -/

/-- Access codes (R101). -/
inductive CsrAccess where
  | ro | rw | w1c | rp
  deriving DecidableEq, Repr

/-- The access code of a CSR number; none for a number that Table 7.2 does not hold. -/
def csrAccess (n : Nat) : Option CsrAccess :=
  if n ≤ 0x00B then some .ro
  else if n == 0x010 || n == 0x021 then some .rw
  else if n == 0x020 || n == 0x022 || n == 0x023 then some .ro
  else if (0x030 ≤ n && n ≤ 0x032) || n == 0x040 || n == 0x041 || n == 0x043 || n == 0x046 then some .rp
  else if n == 0x042 || n == 0x044 || n == 0x045 then some .ro
  else if 0x080 ≤ n && n ≤ 0x083 then some .rp
  else if n == 0x0A0 then some .w1c
  else if (0x0A1 ≤ n && n ≤ 0x0A3) || n == 0x0C0 then some .ro
  else if 0x0C1 ≤ n && n ≤ 0x0CF then some .rp
  else if 0x0D0 ≤ n && n ≤ 0x0DF then some .ro
  else none

/-- The CSR number of an instruction (R353). -/
def csrNo (w : LongWord) : Nat := w.b.toNat + 256 * (w.c.toNat % 16)

/-- The CSRs that CSRR and CSRX read as long instructions (R354). -/
def csrLong (n : Nat) : Bool := (0x020 ≤ n && n ≤ 0x023) || n == 0x044 || n == 0x045

/-- The context whose CSRs a group reads and writes (R399). -/
def csrCtx (c : Ic) : Nat := if c.svc then c.g.tgtctx.toNat else c.ctx

/-- A core is disabled by the fused map or in service (R396). -/
def coreDisabled (s : State) (core : Nat) : Bool :=
  nbit (memNat s.defmap (0x040 + 0x180 * (core / 48)) 6) (core % 48) || (coreRegs s core).disabled

/-- DEFMAP (R396). -/
def defmapWord (s : State) (n : Nat) : Word :=
  if n < 8 then
    word (((List.range 48).map (fun i => if coreDisabled s (48 * n + i) then 2 ^ i else 0)).sum
      + 2 ^ 48 * (memNat s.defmap (0x040 + 0x180 * n + 0x150) 2 ||| (dieOf s n).slices % 2 ^ 16))
  else if n = 8 then word (memNat s.defmap 0xC40 3 + 2 ^ 24 * memNat s.defmap 0xC48 3)
  else if n = 9 then word s.defrt.length
  else 0

/-- The margin CSR of a stack-selected register: the selection, kept under 16, and the fields of the stack
selected (Table 26.6). -/
def marginWord (t : Tab Word) : Word := wget t (wget t 16).toNat ||| wget t 16

/-- A context CSR; zero for a context that does not exist (R399). -/
def ctxCsr (c : Ic) (f : Context → Word) : Word := ((tget c.s.ctxs (csrCtx c)).map f).getD 0

/-- A CSR as lane `l` of the group sees it (Table 7.2). -/
def csrRead (c : Ic) (n l : Nat) : Word :=
  let k := coreRegs c.s c.core
  match n with
  | 0x000 => word (c.g.lane l).tid
  | 0x001 => word c.grp
  | 0x002 => word c.t.tix
  | 0x003 => word c.t.cix
  | 0x004 => word (recShape c.r + 16 * (shapeDims (recShape c.r)).1 + 256 * (shapeDims (recShape c.r)).2)
  | 0x005 => word (recFld c.r 3 0 48)
  | 0x006 => word l
  | 0x007 => word (recWidth c.r)
  | 0x008 => word (c.s.svclvl % 4)
  | 0x009 => word (recFld c.r 3 48 4)
  | 0x00A => word (c.s.pkgid % 16)
  | 0x00B => word (countTrue ((List.range 16).map (nbit c.s.live)))
  | 0x010 => c.t.role
  | 0x020 => c.g.tcause
  | 0x021 => c.g.tpc
  | 0x022 => c.g.taddr
  | 0x023 => c.g.tinfo
  | 0x030 => k.lldwin
  | 0x031 => k.lldthr
  | 0x032 => k.lldmin
  | 0x040 => k.wcage
  | 0x041 => c.s.tmoremote
  | 0x042 => word c.s.peerdead.toNat
  | 0x043 => ctxCsr c (·.jpartner)
  | 0x044 => ctxCsr c (fun x => word x.jpos)
  | 0x045 => ctxCsr c (fun x => word x.jack)
  | 0x046 => word c.g.tgtctx.toNat
  | 0x080 => ctxCsr c (·.hbase)
  | 0x081 => ctxCsr c (·.hlimit)
  | 0x082 => ctxCsr c (·.hoffs)
  | 0x083 => ctxCsr c (·.ptroot)
  | 0x0A0 => c.g.errstat
  | 0x0A1 => c.s.elogaddr
  | 0x0A2 => c.s.elogcause
  | 0x0A3 => c.s.secnt
  | 0x0C0 => k.selftest
  | 0x0C9 => marginWord c.s.mhbmt
  | 0x0CA => marginWord c.s.mhbmv
  | 0x0CB => c.s.meye
  | n => if 0x0C1 ≤ n && n ≤ 0x0C8 then wget c.s.mvdd (n - 0x0C1)
    else if 0x0D0 ≤ n && n ≤ 0x0DF then defmapWord c.s (n - 0x0D0) else 0

/-! ### Writes of CSRs (R354) -/

/-- A value that the CSR's rules refuse: EILL with reason 0x0F (R354). -/
def csrRefused : Stop := ill 0x0F

/-- Bits of a value outside a mask of admitted bits. -/
def reservedSet (x : Word) (mask : Nat) : Bool := (x &&& ~~~(word mask)) != 0

/-- A signed byte clamped to a range, as a byte (R393). -/
def clampByte (lim : Int) (x : Nat) : Nat :=
  let v := sxInt 8 x
  wrap 8 (if v < -lim then -lim else if v > lim then lim else v)

/-- The engine commands that release something, of a team, that are not performed (R209). -/
def mrelPending (s : State) (core : Nat) : Bool :=
  (engineOf s (quadNo core)).table.any (fun x => x.2.core == core &&
    (match x.2.cmd with | .mrelTiles | .mrelBuf _ => true | _ => false))

/-- A granted engine command reads an operand buffer of a core (R209). -/
def engineReads (s : State) (core : Nat) : Bool :=
  let e := engineOf s (quadNo core)
  match e.granted.bind (fun i => tget e.table i) with
  | some x => x.recs.any (fun r => r.1 == core)
  | none => false

/-- A write of BANKROLE (R208, R209): a bank group that leaves role 01 loses its lines of the L1. -/
def writeRole (c : Ic) (v : Word) : Except Stop State := do
  let old := c.t.role.toNat
  let new := v.toNat
  let fld (x g : Nat) : Nat := bitsAt x (2 * g) 2
  let gs := List.range 32
  need (gs.all (fun g => fld new g != 3)) csrRefused
  need (gs.all (fun g => fld new g == fld old g || (fld new g != 0 && fld old g != 0))) csrRefused
  need (2 ≤ (gs.filter (fun g => fld new g == 1)).length) csrRefused
  if new = old then .ok c.s
  else
    need (!(mrelPending c.s c.core || engineReads c.s c.core)) (.stall .bankRole)
    let leaves (g : Nat) : Bool := fld old g == 2 && fld new g != 2
    need (c.t.resv.all (fun v => gs.all (fun g => !leaves g || decide (v.offs + v.len ≤ g * 32768) || decide ((g + 1) * 32768 ≤ v.offs))))
      (.trap (eopbuf 5))
    .ok (modTeam c.s c.core (fun t =>
      { t with role := v, l1 := t.l1.filter (fun x => !(fld old x.bank == 1 && fld new x.bank != 1)) }))

/-- A write of a context CSR (R399). -/
def writeCtx (c : Ic) (f : Context → Context) : Except Stop State :=
  if (tget c.s.ctxs (csrCtx c)).isNone then .error csrRefused else .ok (modCtx c.s (csrCtx c) f)

/-- A write of MHBMT or MHBMV: it selects a stack and writes that stack's fields (Table 26.6). -/
def writeMargin (t : Tab Word) (x : Word) : Tab Word := wset (wset t 16 (x &&& 0xF)) (x.toNat % 16) (x &&& ~~~0xF)

/-- write(): the rules of each CSR (R354). `old` is what a read gives. -/
def csrWrite (c : Ic) (n : Nat) (x : Word) : Except Stop State :=
  let v := x.toNat
  let put (s : State) : Except Stop State := .ok s
  match n with
  | 0x010 => writeRole c x
  | 0x021 =>
    let pc := word (v % 2 ^ 56)
    put (modGroup c.s c.core c.grp (fun g => { g with tpc := pc, hm := g.hm.map (fun r => { r with resume := pc }) }))
  | 0x030 =>
    if v / 2 ^ 16 != 0 then .error csrRefused
    else put (modCore c.s c.core (fun k => { k with lldwin := if v = 0 then 1 else x }))
  | 0x031 =>
    if v / 2 ^ 17 != 0 then .error csrRefused
    else
      let s := modCore c.s c.core (fun k => { k with lldthr := x })
      put (if nbit v 16 then s else modTeam s c.core (fun t => { t with quota := 64 }))
  | 0x032 =>
    if v / 2 ^ 7 != 0 then .error csrRefused
    else put (modCore c.s c.core (fun k => { k with lldmin := if v = 0 then 1 else if v > 64 then 64 else x }))
  | 0x040 => put (modCore c.s c.core (fun k => { k with wcage := if v % 2 ^ 16 < 64 then 64 else word (v % 2 ^ 16) }))
  | 0x041 => put { c.s with tmoremote := word (v % 2 ^ 32) }
  | 0x043 =>
    if (tget c.s.ctxs (csrCtx c)).isNone then .error csrRefused
    else put (if nbit v 4 then if seedWhy c.s (csrCtx c) (v % 16) == 0 then startSeed c.s (csrCtx c) (v % 16) none else c.s
      else endSyncs (noPartner c.s (csrCtx c) (v % 16)) (csrCtx c))
  | 0x046 =>
    if v / 2 ^ 12 != 0 then .error csrRefused
    else put (modGroup c.s c.core c.grp (fun g => { g with tgtctx := BitVec.ofNat 12 v }))
  | 0x080 => if reservedSet x (0xFF + (2 ^ 26 - 1) * 2 ^ 30) then .error csrRefused else writeCtx c (fun k => { k with hbase := x })
  | 0x081 => if reservedSet x ((2 ^ 26 - 1) * 2 ^ 30) then .error csrRefused else writeCtx c (fun k => { k with hlimit := x })
  | 0x082 => if reservedSet x ((2 ^ 22 - 1) * 2 ^ 30) then .error csrRefused else writeCtx c (fun k => { k with hoffs := x })
  | 0x083 => if reservedSet x (1 + (2 ^ 36 - 1) * 2 ^ 16) then .error csrRefused else writeCtx c (fun k => { k with ptroot := x })
  | 0x0A0 =>
    put (modGroup c.s c.core c.grp (fun g =>
      let e := if nbit v 1 then g.errstat &&& 1 else g.errstat
      { g with errstat := if nbit v 0 then e &&& ~~~1 else e }))
  | 0x0C9 => if v / 2 ^ 28 != 0 then .error csrRefused else put { c.s with mhbmt := writeMargin c.s.mhbmt x }
  | 0x0CA =>
    if v / 2 ^ 12 != 0 then .error csrRefused
    else put { c.s with mhbmv := writeMargin c.s.mhbmv (word (v % 16 + 16 * clampByte 10 (v / 16 % 256))) }
  | 0x0CB =>
    if v % 32 > 23 || bitsAt v 26 6 != 0 then .error csrRefused
    else
      let kept := if nbit v 24 then 0 else c.s.meye.toNat / 2 ^ 25 * 2 ^ 25
      put { c.s with meye := word (v % 2 ^ 25 + kept) }
  | n =>
    if 0x0C1 ≤ n && n ≤ 0x0C8 then
      (if v / 2 ^ 8 != 0 then .error csrRefused
       else put { c.s with mvdd := wset c.s.mvdd (n - 0x0C1) (word (clampByte 20 v)) })
    else if v != 0 then .error csrRefused
    else put c.s

/-- EPRIV for a write of an RP CSR outside a service group (R354, step 4 of R343). -/
def csrPriv (c : Ic) : Option TrapInfo :=
  if csrAccess (csrNo c.w) == some .rp && !c.svc then some ⟨0x02, 0, word (2 ^ 16 * csrNo c.w)⟩ else none

/-- The source of a CSR write: A of the lowest enabled lane, or sA (R354). -/
def csrSrc (c : Ic) : Word := c.rd (c.en.headD 0) c.w.a

/-- A CSR as the result of a lane; on the uniform port, of the lowest enabled lane (R354). -/
def csrSeen (c : Ic) (l : Nat) : Word := csrRead c (csrNo c.w) (if c.uni then c.en.headD 0 else l)

/-- The result of CSRR and CSRX: short, or long for the CSRs of R354. -/
def csrResult (c : Ic) (s : State) : Eff :=
  if csrLong (csrNo c.w) then longResult { c with s := s } (csrSeen c) else shortResult { c with s := s } (csrSeen c)

/-- The fields of the CSR instructions (Table 21.6): C[7:4] set or a number without a CSR is reason 0x0C,
as is a write of an RO CSR (R353, R354). -/
def shapeCsr (w : LongWord) (sub : Bool) (d a : Use) (write : Bool) : Shape :=
  { form := w.lit.isNone, sub := sub, m6 := layoutZ w, d := d, a := a, b := .imm, c := .imm,
    ok12 := w.c.toNat < 16 && (csrAccess (csrNo w)).isSome && !(write && csrAccess (csrNo w) == some .ro) }

/-- How a CSR instruction with a result is issued (Table 7.3). -/
def issueCsr (w : LongWord) (pre : Ic → Option TrapInfo) : Issue :=
  if csrLong (csrNo w) then { entry := true, dests := [destOf w.d], pre := pre } else { pre := pre }

/-- CSRR (R354). -/
def execCsrr (w : LongWord) (s : State) : Host.Outcome State Fault Refusal :=
  issue s w (shapeCsr w (w.sub6 == 0#6) (.dst 1) .unused false) (issueCsr w (fun _ => none)) (fun c => .ok (csrResult c c.s))

/-- CSRW (R354). -/
def execCsrw (w : LongWord) (s : State) : Host.Outcome State Fault Refusal :=
  issue s w (shapeCsr w (w.sub6 == 0#6) .unused (.src 1) true) { pre := csrPriv } (fun c => do
    let s ← csrWrite c (csrNo w) (csrSrc c)
    .ok { st := s })

/-- CSRX: reads the old value and writes a new one; a W1C CSR admits swap only (R354). -/
def csrExchange (w : LongWord) (sub : Bool) (new : Word → Word → Word) (s : State) : Host.Outcome State Fault Refusal :=
  issue s w (shapeCsr w sub (.dst 1) (.src 1) true) (issueCsr w csrPriv) (fun c => do
    let s ← csrWrite c (csrNo w) (new (csrRead c (csrNo w) (c.en.headD 0)) (csrSrc c))
    .ok (csrResult c s))

/-- CSRX.swap (R354). -/
def execCsrxSwap (w : LongWord) (s : State) : Host.Outcome State Fault Refusal :=
  csrExchange w (w.sub6 == 0#6) (fun _ src => src) s
/-- CSRX.set (R354). -/
def execCsrxSet (w : LongWord) (s : State) : Host.Outcome State Fault Refusal :=
  csrExchange w (subNo w == 1 && csrAccess (csrNo w) != some .w1c) (fun old src => old ||| src) s
/-- CSRX.clr (R354). -/
def execCsrxClr (w : LongWord) (s : State) : Host.Outcome State Fault Refusal :=
  csrExchange w (subNo w == 2 && csrAccess (csrNo w) != some .w1c) (fun old src => old &&& ~~~src) s

/-! ### The rows of the registers' writes -/

/-- The group in the cursor writes a CSR that `p` names: its next instruction is a CSRW or a CSRX of it. -/
def writeRow (p : Nat → Bool) (s : State) : Host.Outcome State Fault Refusal :=
  match fetchGroup s s.iss.core s.iss.grp with
  | some (.ok (.csrw w, s')) => if p (csrNo w) then execCsrw w s' else .fault .notEnabled
  | some (.ok (.csrxSwap w, s')) => if p (csrNo w) then execCsrxSwap w s' else .fault .notEnabled
  | some (.ok (.csrxSet w, s')) => if p (csrNo w) then execCsrxSet w s' else .fault .notEnabled
  | some (.ok (.csrxClr w, s')) => if p (csrNo w) then execCsrxClr w s' else .fault .notEnabled
  | _ => .fault .notEnabled

/-- BANKROLE_WRITE (R208, R209). -/
def execBankroleWrite (s : State) : Host.Outcome State Fault Refusal := writeRow (· == 0x010) s
/-- TGTCTX_WRITE (R399). -/
def execTgtctxWrite (s : State) : Host.Outcome State Fault Refusal := writeRow (· == 0x046) s
/-- TPC_WRITE (R345). -/
def execTpcWrite (s : State) : Host.Outcome State Fault Refusal := writeRow (· == 0x021) s
/-- ERRSTAT_CLEAR (R363). -/
def execErrstatClear (s : State) : Host.Outcome State Fault Refusal := writeRow (· == 0x0A0) s
/-- JPARTNER_WRITE (R375). -/
def execJpartnerWrite (s : State) : Host.Outcome State Fault Refusal := writeRow (· == 0x043) s
/-- TRANSLATION_CSR_WRITE (R53). -/
def execTranslationCsrWrite (s : State) : Host.Outcome State Fault Refusal := writeRow (fun n => 0x080 ≤ n && n ≤ 0x083) s

/-- MEYE_START: the write leaves a count started (R393). -/
def execMeyeStart (s : State) : Host.Outcome State Fault Refusal :=
  match writeRow (· == 0x0CB) s with
  | .next s' => if nbit s'.meye.toNat 24 && !nbit s'.meye.toNat 25 then .next s' else .fault .notEnabled
  | o => o

/-- MEYE_COUNT_DONE: DONE is set; ERRS is the environment's, at most the 2^20 bits counted (R393). -/
def execMeyeCountDone (s : State) : Host.Outcome State Fault Refusal :=
  if nbit s.meye.toNat 24 && !nbit s.meye.toNat 25 then
    .next { s with free := s.free + 1, meye := s.meye + word (2 ^ 25 + 2 ^ 32 * (Config.outcome s.free % (2 ^ 20 + 1))) }
  else .fault .notEnabled

/-- REGISTER_WRITE: a write of a register that has no row of its own (R101); a host's write of RECADDR, ignored
while BUSY and before stage 2 is complete (R25, R388). -/
def execRegisterWrite (s : State) : Host.Outcome State Fault Refusal :=
  match s.msg with
  | some (.mailboxRecaddr m v) =>
    if m = 64 then .next (if s.mgmt.busy || s.stage < 3 then s else { s with mgmt := { s.mgmt with recaddr := v } })
    else if m > 64 then .fault .notEnabled
    else
      let x := tgetD s.mboxes m Mailbox.reset
      .next (if x.busy || s.stage < 3 then s else { s with mboxes := tset s.mboxes m { x with recaddr := v } })
  | none => writeRow (fun n => !([0x010, 0x021, 0x043, 0x046, 0x0A0].contains n || (0x080 ≤ n && n ≤ 0x083))) s
  | _ => .fault .notEnabled

/-! ### TRAPRET, REGION (R355, R356) -/

/-- EILL with reason 0x0E. -/
def wrongMode : TrapInfo := eill 0x0E none

/-- The first slot whose commit would write a part of a code word that holds an error, with its register: the old word is read
before the merge (R359). `fresh` lists the words that earlier slots write whole, as (register, half). -/
def lostSlot (g : Group) : List (Nat × Nat) → List Slot → Option (Slot × Nat)
  | _, [] => none
  | fresh, x :: r =>
    match x.dest with
    | .v n =>
      let hs := [0, 1].filter (fun h => x.lanes.any (fun l => l / 32 == h))
      if hs.any (fun h => !fresh.contains (n, h) && !wholeHalf g x.lanes h && wordLost g n (32 * h)) then some (x, n)
      else lostSlot g (fresh ++ (hs.filter (wholeHalf g x.lanes)).map (fun h => (n, h))) r
    | _ => lostSlot g fresh r

/-- The register whose error the park meets that a TRAPRET completes: its failed slots write nothing (R355, R359). -/
def returnLost (g : Group) : Option Nat :=
  match g.hm with
  | some r => if r.park then
      (lostSlot (g.unwound r) [] (r.stretch.filter (fun x => match x.st with | .failed _ => false | _ => true))).map (·.2) else none
  | none => none

/-- TRAPRET (R355). -/
def execTrapret (w : LongWord) (s : State) : Host.Outcome State Fault Refusal :=
  issue s w (shapeW w) { pre := fun c => if c.g.hm.isNone || !c.g.rb.isEmpty then some wrongMode else none } (fun c =>
    match returnLost c.g with
    | some n => .error (.failed (logLost c.s 1 c.core) (registerTrap (true, n)))
    | none => .ok { st := c.s, post := fun s => returnFromTrap s c.core c.grp })

/-- The entries of a group that REGION waits for: stores, STB, RED and ARRIVE that are not performed; one
whose writes are at a peer is sent, and REGION waits for no remote answer (R356). -/
def regionWaits (c : Ic) : Bool :=
  c.t.ott.any (fun e => e.grp == c.grp && !e.long && (match e.work with
    | .store _ _ | .sstore _ _ | .storeBlock _ _ | .atom _ _ _ _ | .arrive _ _ => true
    | .remote _ => c.s.winq.any (fun x => x.core == c.core && x.ott == e.id)
    | _ => false))

/-- REGION (R356). -/
def execRegion (w : LongWord) (s : State) : Host.Outcome State Fault Refusal :=
  issue s w (shapeW w) { blocking := true, tx := some 2, pre := fun c => if c.g.hm.isSome then some wrongMode else none } (fun c => do
    need (!regionWaits c) (.stall .order)
    .ok { st := c.s, post := fun s => setEntries s c.core c.grp c.en })

/-! ### TLBINV (R65, R357) -/

/-- What a TLBINV names: a context, or all, and a range of addresses. -/
structure TlbScope where
  ctx : Option Nat
  lo  : Nat
  hi  : Nat

/-- The context is named. -/
def TlbScope.names (t : TlbScope) (ctx : Nat) : Bool := t.ctx.all (· == ctx)

/-- A translation of a context is named: its page overlaps the range, or the heap triple, whose CSRs every form that names the
context applies, has given it (R53, R357). -/
def TlbScope.covers (t : TlbScope) (ctx : Nat) (x : Xl) : Bool :=
  t.names ctx && (x.heap || (decide (x.va0 < t.hi) && decide (t.lo < x.va0 + x.size)))

/-- Every form that names a context applies its translation CSRs (R53). -/
def Context.applyCsrs (x : Context) : Context :=
  { x with useHbase := x.hbase, useHlimit := x.hlimit, useHoffs := x.hoffs, usePtroot := x.ptroot }

/-- A page that an address lies in may be named: it is a page of 1 GiB at most. -/
def TlbScope.near (t : TlbScope) (ctx va : Nat) : Bool :=
  t.names ctx && decide (va / 2 ^ 30 * 2 ^ 30 < t.hi) && decide (t.lo < va / 2 ^ 30 * 2 ^ 30 + 2 ^ 30)

/-- Filed threads that wait in WAITV on an object of a named page issue it again, and translate anew (R65, R115, R313). -/
def retryNamed (t : TlbScope) (ctx stamp : Nat) (x : Team) : Team :=
  (heldPlaces x).foldl (fun x h => match h with
    | .waitv _ va pc _ _ _ | .peer _ _ va pc _ _ _ => if t.near ctx va then retryWaitv x h pc stamp else x
    | _ => x) x

/-- Drops the named translations from every core TLB, die TLB, walk cache and copy channel of the package, and
applies the contexts' translation CSRs (R357). -/
def dropTranslations (s : State) (t : TlbScope) : State :=
  let keep (l : List (Nat × Xl)) : List (Nat × Xl) := l.filter (fun e => !t.covers e.1 e.2)
  { s with
    cores := tmap (fun _ c => { c with tlb := keep c.tlb }) s.cores,
    dies := tmap (fun _ d => { d with tlb := keep d.tlb, walk := d.walk.filter (fun e => !t.names e.1) }) s.dies,
    teams := tmap (fun _ tm => { retryNamed t (teamCtx s tm) s.stamp tm with
      chan := tm.chan.map (fun c => { c with held := c.held.filter (fun x => !t.covers c.ctx x) }),
      groups := tmap (fun _ g => if t.names (teamCtx s tm) then { g with walked := [] } else g) (retryNamed t (teamCtx s tm) s.stamp tm).groups }) s.teams,
    images := s.images.map (fun i => { i with teams := i.teams.map (fun x => (x.1, retryNamed t (teamCtx s x.2.1) s.stamp x.2.1, x.2.2)) }),
    ctxs := tmap (fun k x => if t.names k then x.applyCsrs else x) s.ctxs }

/-- Accesses of a team that translated through a named entry are left: in its table, its buffers, its transactions, those of threads
that a REFORM bin holds among them, its engine commands (R65). -/
def teamLeft (t : TlbScope) (ctx : Nat) (x : Team) : Bool :=
  x.ott.any (fun e => (workXls e.work).any (t.covers ctx)) || x.det.any (fun e => (workXls e.work).any (t.covers ctx))
  || x.wc.any (fun e => e.seq.isNone && e.vas.any (fun v => t.near ctx v.2.2.2))
  || (t.names ctx && (x.groups.any (fun g => g.2.txw.any (fun w => (g.2.lane w.lane).txs == .opened))
    || x.bins.any (fun b => match b with | some b => b.threads.any (fun y => y.1.txs == .opened && !y.1.filedW.isEmpty) | none => false)))
  || (match x.eng with | some e => e.cmds.any (fun c => c.xls.any (t.covers ctx)) | none => false)

/-- A request of a named page that is not sent yet: one of its entry's must be answered first, or an earlier drain of its line; a
drain names every address that was stored to (R218, R224, R286). -/
def reqLeft (t : TlbScope) (r : Req) : Bool :=
  r.sends == 0 && !r.busy && (if r.vas.isEmpty then [r.va] else r.vas).any (t.near r.ctx)

/-- An access that translated through a named entry is neither performed nor sent to its peer: of a team that is resident or
preempted, of an engine command, of a store on its way to a window, or of an emit that its gate holds (R65). -/
def accessesLeft (s : State) (t : TlbScope) : Bool :=
  s.teams.any (fun e => teamLeft t (teamCtx s e.2) e.2)
  || s.images.any (fun i => i.teams.any (fun x => teamLeft t (teamCtx s x.2.1) x.2.1 || x.2.2.any (reqLeft t)))
  || s.reqs.any (reqLeft t)
  || s.ctxs.any (fun c => c.2.emits.any (fun e => t.near c.1 e.va))
  || s.engines.any (fun e => e.2.table.any (fun x => x.2.xls.any (t.covers x.2.ctx)))
  || s.winq.any (fun x => x.parts.any (fun p => t.near x.ctx p.va))

/-- What a TLBINV of a group names; EALIGN for a range that breaks its rules (R357). -/
def tlbScope (w : LongWord) (rd : BitVec 8 → Word) : Except TrapInfo TlbScope :=
  match subNo w with
  | 0 => .ok ⟨some ((rd w.c).toNat % 4096), 0, 2 ^ 56⟩
  | 1 =>
    let a := (rd w.a).toNat
    let b := (rd w.b).toNat
    if a % 65536 != 0 || b % 65536 != 0 || a + b > 2 ^ 56 then .error ⟨0x03, rd w.a, 0⟩
    else .ok ⟨some ((rd w.c).toNat % 4096), a, a + b⟩
  | _ => .ok ⟨none, 0, 2 ^ 56⟩

/-- TLBINV in a form (R357). With `id` 1 in the cursor its completion condition holds. -/
def tlbinv (w : LongWord) (sub : Bool) (a b c : Use) (s : State) : Host.Outcome State Fault Refusal :=
  issue s w { form := w.lit.isNone, sub := sub, m6 := layoutZ w, a := a, b := b, c := c, port := .uniform }
    { blocking := true, tx := some 2, pre := fun c => if c.svc then none else some ⟨0x02, 0, 0⟩ } (fun i =>
    match tlbScope w (i.rd 0) with
    | .error t => .error (.trap t)
    | .ok t =>
      if t.hi = t.lo || i.s.iss.id == 1 then .ok { st := if t.hi = t.lo then modCtx i.s (t.ctx.getD 0) Context.applyCsrs else i.s }
      else .error (.waiting .tlbinv (dropTranslations i.s t)))

/-- TLBINV.ctx (R357). -/
def execTlbinvCtx (w : LongWord) (s : State) : Host.Outcome State Fault Refusal := tlbinv w (w.sub6 == 0#6) .unused .unused (.src 1) s
/-- TLBINV.range (R357). -/
def execTlbinvRange (w : LongWord) (s : State) : Host.Outcome State Fault Refusal :=
  tlbinv w (subNo w == 1) (.src 1) (.src 1) (.src 1) s
/-- TLBINV.all (R357). -/
def execTlbinvAll (w : LongWord) (s : State) : Host.Outcome State Fault Refusal := tlbinv w (subNo w == 2) .unused .unused .unused s

/-- TLBINV_COMPLETE: every access through a dropped entry is performed or sent (R65). -/
def execTlbinvComplete (s : State) : Host.Outcome State Fault Refusal :=
  match groupAt s s.iss.core s.iss.grp with
  | none => .fault .notEnabled
  | some g =>
    match g.status with
    | .blocked .tlbinv w _ _ =>
      match tlbScope w (readReg g 0) with
      | .ok t =>
        if accessesLeft s t then .fault .notEnabled
        else resumeWith s .tlbinv 1 (fun w s =>
          if subNo w = 0 then execTlbinvCtx w s else if subNo w = 1 then execTlbinvRange w s else execTlbinvAll w s)
      | .error _ => .fault .notEnabled
    | _ => .fault .notEnabled

/-! ### SELFTEST (R391, R392) -/

/-- EPRIV of the patterns that a program may not run. -/
def selftestPriv (c : Ic) : Option TrapInfo := if c.svc then none else some ⟨0x02, 0, 0⟩

/-- SELFTEST of a pattern: `avail` says whether its unit is available for an operand. Pattern 2 takes an
entry of the request table; the others run in their entry of the outstanding-transaction table (R392). -/
def selftest (w : LongWord) (pattern : Nat) (operand : Bool) (pre : Ic → Option TrapInfo) (avail : Ic → Nat → Bool) (s : State) :
    Host.Outcome State Fault Refusal :=
  issue s w { form := w.lit.isNone, sub := subNo w == pattern, m6 := layoutZ w, d := .dst 1,
              a := if operand then .src 1 else .unused, port := .uniform }
    { entry := true, dests := [destOf w.d], pre := pre } (fun c => do
    let arg := if operand then c.rd 0 w.a else 0
    if !avail c arg.toNat then
      let x := selftestWord pattern 2 0 0
      .ok (enterLong { c with s := modCore c.s c.core (fun k => { k with selftest := x }) } [destOf w.d] Ord.relaxed .values [(0, x)])
    else if pattern = 2 then
      let r ← enterTable c .selftest [] [] [] [] 0 [] false
      .ok (enterLong { c with s := r.1 } [destOf w.d] Ord.relaxed (.engine r.2) [])
    else .ok (enterLong c [destOf w.d] Ord.relaxed (.selftest pattern arg) []))

/-- SELFTEST.lane (R392). -/
def execSelftestLane (w : LongWord) (s : State) : Host.Outcome State Fault Refusal :=
  selftest w 0 false (fun _ => none) (fun _ _ => true) s
/-- SELFTEST.l1: the bank group in A[4:0] has role 01 (R392). -/
def execSelftestL1 (w : LongWord) (s : State) : Host.Outcome State Fault Refusal :=
  selftest w 1 true (fun _ => none) (fun c a => bitsAt c.t.role.toNat (2 * (a % 32)) 2 == 1) s
/-- SELFTEST.engine: a physical tile of the quad is free and, at SVCLVL 1, a service group issues it (R391,
R392). -/
def execSelftestEngine (w : LongWord) (s : State) : Host.Outcome State Fault Refusal :=
  selftest w 2 false (fun _ => none)
    (fun c _ => c.eng.tiles.any (fun t => t.bound.isNone) && (c.svc || c.s.svclvl != 1)) s
/-- SELFTEST.rfull (R392). -/
def execSelftestRfull (w : LongWord) (s : State) : Host.Outcome State Fault Refusal :=
  selftest w 3 false selftestPriv (fun _ _ => true) s
/-- SELFTEST.link: a port of the 24 (R392). -/
def execSelftestLink (w : LongWord) (s : State) : Host.Outcome State Fault Refusal :=
  selftest w 4 true selftestPriv (fun _ a => decide (a % 32 < 24)) s

end Sys2Proof.Machine
end

