-- ==== Sys2Proof/Machine/GroupEvents.lean ====
section
/-! DEFINITION. The events of groups, of the outstanding-transaction table, of the table walkers and of the
REFORM bins (chapters 04, 07, 08 and 21: R56, R62 to R64, R107 to R117, R131, R344 to R347). -/

namespace Sys2Proof.Machine

/-! ### Entries of the table (R109, R110) -/

/-- The entry in the cursor's id of the core's table, with its team. -/
def cursorEntry (s : State) : Option (Team × OttEntry) :=
  (tget s.teams s.iss.core).bind (fun t => (t.ott.find? (fun e => e.id == s.iss.id)).map (fun e => (t, e)))

/-- A bank group loses its lines of the L1 (R209, R392). -/
def dropBank (s : State) (core bank : Nat) : State :=
  modTeam s core (fun t => { t with l1 := t.l1.filter (fun x => x.bank != bank) })

/-- A pattern of SELFTEST has run: its result enters the return buffer; pattern 1 drops the lines of the group that it
names (R392). -/
def endSelftest (s : State) (core : Nat) (e : OttEntry) (pattern arg : Nat) : State :=
  let r := runSelftest (if pattern = 1 then dropBank s core (arg % 32) else s) core pattern
  finishEntry r.1 core { e with got := [(0, r.2)] }

/-- LONG_RESULT_RETURN: the entry is performed and its results enter the return buffer (R109); an
uncorrectable error is consumed instead (R347, R362). -/
def execLongResultReturn (s : State) : Host.Outcome State Fault Refusal :=
  match cursorEntry s with
  | none => .fault .notEnabled
  | some (t, e) =>
    let ctx := teamCtx s t
    if !e.long || !mayPerform s ctx t e || waitsForFirmware t e.grp || launchWaits s ctx e.work then .fault .notEnabled
    else
      match e.work with
      | .selftest p a => .next (endSelftest s s.iss.core e p a.toNat)
      | _ =>
        let s := beforeEntry s s.iss.core ctx e
        match entryPoisoned s s.iss.core ctx e with
        | some (l, tr) => .next (consumePoison (logPoison s s.iss.core (some (l, tr))) s.iss.core ctx e tr)
        | none => .next (performEntry s s.iss.core ctx e)

/-- POSTED_ENTRY_PERFORMED: a posted entry's accesses are performed, an error response being latched (R109,
R66). -/
def execPostedEntryPerformed (s : State) : Host.Outcome State Fault Refusal :=
  match cursorEntry s with
  | none => .fault .notEnabled
  | some (t, e) =>
    let ctx := teamCtx s t
    if e.long || !mayPerform s ctx t e then .fault .notEnabled
    else .next (performEntry s s.iss.core ctx (realEntry t e))

/-- The group that a freed entry goes to: the one that has waited longest among those below their own
limit (R110). -/
def ottHeir (t : Team) : Option Nat :=
  let ws := t.groups.filterMap (fun e => match e.2.stall with
    | some (.ott, n) => if (t.ott.filter (fun x => x.grp == e.1)).length < 64 then some (n, e.1) else none
    | _ => none)
  (ws.foldl (fun (a : Option (Nat × Nat)) w => match a with
    | none => some w
    | some b => if w.1 < b.1 then some w else some b) none).map (·.2)

/-- OTT_ENTRY_GRANT (R110): the heir of the core's table keeps a free entry. -/
def execOttEntryGrant (s : State) : Host.Outcome State Fault Refusal :=
  match tget s.teams s.iss.core with
  | none => .fault .notEnabled
  | some t =>
    if t.ott.length + (t.groups.filter (fun e => e.2.granted)).length ≥ 512 then .fault .notEnabled
    else match ottHeir t with
      | some g => .next (modGroup s s.iss.core g (fun g => { g with granted := true, stall := none }))
      | none => .fault .notEnabled

/-! ### The park point (R107, R108) -/

/-- Every slot of a return buffer holds its result or its failure. -/
def rbFilled (rb : List Slot) : Bool := rb.all (fun x => x.st != .pending)

/-- The lowest failed slot of a return buffer in program order (R108). -/
def failedSlot (rb : List Slot) : Option (Slot × TrapInfo) :=
  rb.findSome? (fun x => match x.st with | .failed t => some (x, t) | _ => none)

/-- A group's park consumes the error of a code word that a slot would merge into: in handler mode it waits for the firmware, the
second time at one instruction, or with a remote atomic since the region entry, it is delivered at that instruction, in the live
threads that were active there, and otherwise the group restarts (R285, R344, R346, R347, R359, R362). -/
def consumeSlot (s : State) (core grp : Nat) (g : Group) (x : Slot) (n : Nat) : State :=
  let t := registerTrap (true, n)
  let lanes := x.act.filter (fun l => (g.lane l).live)
  let s := logLost s 1 core
  if g.hm.isSome then modGroup s core grp (fun g => { g with status := .pageFault t true none (some (x.pc, lanes)) g.status })
  else if g.rmtOp || g.poisonPc.contains x.pc then
    takeTrap (modGroup s core grp (fun g => { g with status := .running, rb := g.rb.filter (fun y => y.id != x.id) })) core grp t x.pc x.pc
      false false lanes
  else poisonRestart s core grp x.pc

/-- PARK_COMMIT: the slots are committed in program order, or the park trap of a failed slot is taken (R107,
R108, R345), or the error of a word that a slot is merged into is consumed (R359). -/
def execParkCommit (s : State) : Host.Outcome State Fault Refusal :=
  match groupAt s s.iss.core s.iss.grp with
  | none => .fault .notEnabled
  | some g =>
    match g.status with
    | .parking blocking pc next lanes =>
      if !rbFilled g.rb then .fault .notEnabled
      else match failedSlot g.rb with
        | some (x, t) =>
          .next (takeTrap (modGroup s s.iss.core s.iss.grp (fun g => { g with status := .running })) s.iss.core s.iss.grp t
            x.pc (if blocking then pc else next) true false (lanes.filter (fun l => (g.lane l).live)))
        | none =>
          match lostSlot g [] g.rb with
          | some (x, n) => .next (consumeSlot s s.iss.core s.iss.grp g x n)
          | none => .next (modGroup s s.iss.core s.iss.grp (fun g => { g.commit with status := .running, parked := blocking }))
    | _ => .fault .notEnabled

/-! ### Page faults (R62, R346, R347) -/

/-- What the firmware writes: cells of memory. A sector all of whose bytes have been overwritten holds no error then (R362). -/
def firmwareWrites (s : State) (cells : List Host.Cell) : State :=
  let whole (x : Nat) : Bool := (sectorBytes x).all (fun a => cells.any (fun c => c.1 == a))
  cells.foldl (fun s c => clearPoison s c.1 1)
    { s with mem := memPatch s.mem cells, upsets := s.upsets.filter (fun x => !whole x.1) }

/-- A group's fault is resolved: the pages are resident, and the group restarts at its region entries or,
in handler mode and under R285, its instruction acts again; without a mapping the fault is delivered at the instruction, of
which nothing is left then (R258, R285, R346, R347). -/
def groupFaultResolved (s : State) (core grp : Nat) (found : Bool) (writes : List Host.Cell) : Host.Outcome State Fault Refusal :=
  match tget s.teams core, groupAt s core grp with
  | some t, some g =>
    match g.status with
    | .pageFault tr inPlace entry place back =>
      if found then
        let s := firmwareWrites s writes
        .next (if inPlace then modGroup s core grp (fun g => { g with status := back, walked := [] }) else regionRestart s core grp)
      else
        let s' := modGroup s core grp (fun g => { g with status := .running })
        match entry.bind (fun i => t.ott.find? (fun e => e.id == i)) with
        | some e => .next (takeTrap (dropEntry s' core e) core grp tr e.pc e.pc false false (entryAct s core e))
        | none =>
          let pc := (place.map (·.1)).getD ((issuePc g).getD 0)
          .next (takeTrap s' core grp tr pc pc false false ((place.map (·.2)).getD (activeLanes g pc)))
    | _ => .fault .notEnabled
  | _, _ => .fault .notEnabled

/-! ### Table walks (R55 to R57, R63, R64) -/

/-- What a walk reads: the walk cache of its die, else memory (R56, R63). Of a table that lies in a hole or in a poisoned
sector the spec says nothing; the model reads it as plain memory (log 65). -/
def walkRead (s : State) (d : Die) (ctx a : Nat) : Nat :=
  match d.walk.find? (fun e => e.1 == ctx && e.2.1 == a) with
  | some e => e.2.2
  | none => memNat s.mem a 8

/-- The pointer entries that a walk passes, as (address, entry): those that the walk cache keeps. -/
def walkPointers (read : Nat → Nat) (va table : Nat) : Nat → List (Nat × Nat)
  | 0 => []
  | level + 1 =>
    let a := table + 8 * walkIndex va (level + 1)
    let e := read a
    if nbit e 0 && !nbit e 1 && bitsAt e 2 6 == 0 && bitsAt e 52 12 == 0 && bitsAt e 8 44 * 2 ^ 8 % tableSize level == 0 then
      (a, e) :: walkPointers read va (bitsAt e 8 44 * 2 ^ 8) level
    else []

/-- Adds an entry to a cache of a capacity, the oldest leaving. The spec gives no replacement and no sets; the model's are in
log 66. -/
def cacheAdd {α : Type} [DecidableEq α] (cap : Nat) (l : List α) (x : α) : List α :=
  let l := l.filter (· != x) ++ [x]
  l.drop (l.length - cap)

/-- A walk of a page is over for a waiting group. -/
def walkOver (s : State) (page : Nat) (r : Except Nat Xl) (ctx : Nat) (w : Nat × Nat) : State :=
  let s := match r with
    | .ok x => modCore s w.1 (fun c => { c with tlb := cacheAdd 128 c.tlb (ctx, x) })
    | .error _ => s
  modGroup s w.1 w.2 (fun g =>
    { g with
      walked := match r with | .ok _ => g.walked | .error k => (page, k) :: g.walked,
      stall := match g.stall with
        | some (.walk ps, n) => if ps.all (· == page) then none else some (.walk (ps.filter (· != page)), n)
        | x => x })

/-- TABLE_WALK_DONE: the walk of the die's miss in the cursor's id finishes (R56); misses to one page share
the walk (R64). -/
def execTableWalkDone (s : State) : Host.Outcome State Fault Refusal :=
  let d := dieOf s s.iss.core
  match d.misses[s.iss.id]? with
  | none => .fault .notEnabled
  | some m =>
    let c := ctxNow s m.ctx m.page
    let read := walkRead s d m.ctx
    let r : Except Nat Xl := if nbit c.usePtroot.toNat 0 then walkFrom s read m.page (rootOf c) 3 else .error 0x2
    let ptrs := if nbit c.usePtroot.toNat 0 then walkPointers read m.page (rootOf c) 3 else []
    let s := modDie s s.iss.core (fun d =>
      { d with
        misses := d.misses.eraseIdx s.iss.id,
        walk := ptrs.foldl (fun l p => cacheAdd 512 l (m.ctx, p.1, p.2)) d.walk,
        tlb := match r with | .ok x => cacheAdd 8192 d.tlb (m.ctx, x) | .error _ => d.tlb })
    .next (m.waiters.foldl (fun s w => walkOver s m.page r m.ctx w) s)

/-! ### The lost-locality detector, YIELD (R113, R131) -/

/-- The quota after a window with `e` events (R113). -/
def nextQuota (c : CoreRegs) (q e : Nat) : Nat :=
  let thr := c.lldthr.toNat % 2 ^ 16
  let least := c.lldmin.toNat % 2 ^ 7
  if !nbit c.lldthr.toNat 16 then 64
  else if e > thr then (if q / 2 < least then least else q / 2)
  else if 2 * e ≤ thr then (if 2 * q > 64 then 64 else 2 * q)
  else q

/-- LLD_WINDOW_END (R113). -/
def execLldWindowEnd (s : State) : Host.Outcome State Fault Refusal :=
  match tget s.teams s.iss.core with
  | none => .fault .notEnabled
  | some t => .next (setTeam s s.iss.core { t with quota := nextQuota (coreRegs s s.iss.core) t.quota t.events, events := 0 })

/-- YIELD_TIMEOUT (R131). -/
def execYieldTimeout (s : State) : Host.Outcome State Fault Refusal :=
  match groupAt s s.iss.core s.iss.grp with
  | some g => if g.yielded.isSome then .next (modGroup s s.iss.core s.iss.grp (fun g => { g with yielded := none })) else .fault .notEnabled
  | none => .fault .notEnabled

/-! ### REFORM bins (R115 to R117) -/

/-- A group can issue: it holds a context and is not blocked in a blocking instruction (R116). -/
def canIssue (g : Group) : Bool :=
  (issuePc g).isSome && !(g.parked && g.stall.isSome) && (match g.status with | .blocked _ _ _ _ => false | .halted => false | _ => true)

/-- Inserts a thread in ascending TID. -/
def insertTid (x : Thread × Word × Word) : List (Thread × Word × Word) → List (Thread × Word × Word)
  | [] => [x]
  | y :: r => if x.1.tid ≤ y.1.tid then x :: y :: r else y :: insertTid x r

/-- The lowest-numbered free group context of a core. -/
def freeContext (t : Team) : Option Nat := (List.range 64).find? (fun i => (tget t.groups i).isNone)

/-- The larger of two counts. -/
def maxWord (a b : Word) : Word := if a.toNat < b.toNat then b else a

/-- A group formed by a draw (R116, R137); a thread that brings a remote atomic since its region entry keeps the exception of
R285 on, and the sets of an open transaction come with their threads (R307). ERRSTAT, the trap CSRs and TGTCTX, of which the spec says
nothing here, start as in a context at dispatch (DESIGN CHOICE, log 95). -/
def drawnGroup (s : State) (r : LaunchRecord) (xs : List (Thread × Word × Word)) : Group :=
  Group.openStretch { Group.empty with
    threads := xs.map (fun x => { x.1 with filedR := [], filedW := [] }) ++ List.replicate (recWidth r - xs.length) Thread.empty,
    txr := xs.zipIdx.flatMap (fun x => x.1.1.filedR.map (fun y => { y with lane := x.2 })),
    txw := xs.zipIdx.flatMap (fun x => x.1.1.filedW.map (fun y => { y with lane := x.2 })),
    sreg := wset [] 0 (recArgs r),
    lc := xs.foldl (fun m x => maxWord m x.2.1) 0, lcr := xs.foldl (fun m x => maxWord m x.2.2) 0,
    age := s.stamp, order := 64 * s.stamp, regionAt := s.stamp, rmtOp := xs.any (fun x => x.1.rmt) }

/-- Threads that found no bin file again when one has emptied (R115). -/
def refile (s : State) (core : Nat) : State :=
  modTeam { s with stamp := s.stamp + 1 } core (fun t => { t with bins := settleBins t.bins }.refile s.stamp)

/-- Draws up to W threads of a bin into the lowest free context (R116), with GJP at the context's JPOS (log 86: R368 gives GJP
at dispatch only). What remains has the age of the thread of it that was filed first. -/
def drawBin (s : State) (core i : Nat) : State :=
  match tget s.teams core with
  | none => s
  | some t =>
    match freeContext t, (t.bins[i]?).join with
    | some c, some b =>
      let r := recOf s t
      let xs := (b.threads.filter b.takes).foldr insertTid []
      let rest := xs.drop (recWidth r) ++ b.threads.filter (fun x => !b.takes x)
      let s' := modTeam { s with stamp := s.stamp + 1 } core (fun t =>
        { t with groups := tset t.groups c { drawnGroup s r (xs.take (recWidth r)) with
                   since := t.issued, gjp := word (ctxOf s (teamCtx s t)).jpos },
                 bins := t.bins.set i (if rest.isEmpty then none else some (b.of rest)) })
      if rest.isEmpty then refile s' core else s'
    | _, _ => s

/-- The bin in the cursor's id of a REFORM team with a free context, HELD = 0, outside deterministic mode. -/
def drawable (s : State) : Option (Team × Bin) :=
  match tget s.teams s.iss.core with
  | none => none
  | some t =>
    let r := recOf s t
    if !recReform r || recDet r || (freeContext t).isNone then none
    else ((t.bins[s.iss.id]?).join).bind (fun b => if b.held then none else some (t, b))

/-- Of the bins with HELD = 0 that `p` admits, the one of lowest key PC. -/
def lowestOf (t : Team) (p : Bin → Bool) : Option Nat :=
  (t.bins.zipIdx.foldl (fun (a : Option (Nat × Nat)) b =>
    match b.1 with
    | some x => if x.held || !p x then a else
      match a with
      | none => some (x.pc.toNat, b.2)
      | some y => if x.pc.toNat < y.1 then some (x.pc.toNat, b.2) else some y
    | none => a) none).map (·.2)

/-- A bin may be drawn whatever its age: it holds W threads, or no group of the team can issue (Table 7.6). -/
def ripe (s : State) (t : Team) (b : Bin) : Bool :=
  b.threads.length ≥ recWidth (recOf s t) || !(t.groups.any (fun e => canIssue e.2))

/-- REFORM_BIN_DRAW: the bin holds W threads, or no group of the team can issue (Table 7.6); of several such the one of
lowest key PC is drawn first (R116). -/
def execReformBinDraw (s : State) : Host.Outcome State Fault Refusal :=
  match drawable s with
  | some (t, _) => if lowestOf t (ripe s t) == some s.iss.id then .next (drawBin s s.iss.core s.iss.id) else .fault .notEnabled
  | none => .fault .notEnabled

/-- REFORM_BIN_AGE_EXPIRY: the bin's oldest entry has aged 64 core cycles, as an older one of another bin then has too
(Table 7.6, R116). -/
def execReformBinAgeExpiry (s : State) : Host.Outcome State Fault Refusal :=
  match drawable s with
  | some (t, b) =>
    if lowestOf t (fun x => ripe s t x || decide (x.stamp ≤ b.stamp)) == some s.iss.id then .next (drawBin s s.iss.core s.iss.id)
    else .fault .notEnabled
  | none => .fault .notEnabled

/-- The bin with HELD = 0 of lowest key PC. -/
def lowestBin (t : Team) : Option Nat := lowestOf t (fun _ => true)

/-- Drains the bins in ascending key PC while a context is free. -/
def drainBins (s : State) (core : Nat) : Nat → State
  | 0 => s
  | n + 1 =>
    match (tget s.teams core).bind (fun t => if (freeContext t).isNone then none else lowestBin t) with
    | some i => drainBins (drawBin s core i) core n
    | none => s

/-- REFORM_DET_DRAIN: no group of the team can issue; every bin with HELD = 0 is drained (R117). -/
def execReformDetDrain (s : State) : Host.Outcome State Fault Refusal :=
  match tget s.teams s.iss.core with
  | none => .fault .notEnabled
  | some t =>
    let r := recOf s t
    if recReform r && recDet r && !(t.groups.any (fun e => canIssue e.2)) && (lowestBin t).isSome && (freeContext t).isSome then
      .next (drainBins s s.iss.core 64)
    else .fault .notEnabled

end Sys2Proof.Machine
end

