-- ==== Sys2Proof/Machine/Launch.lean ====
section
/-! DEFINITION. The launch unit after acceptance: dependences, placement, preemption, the end of a team and
the retirement of a launch (chapters 01, 02, 21 and 25: R21, R23, R29 to R40, R350 to R352, R382 to R386). -/

namespace Sys2Proof.Machine

/-! ### Dependences (R23, R30) -/

/-- Samples the launch in a slot; when its last DEP is latched it becomes READY (R23, R29). -/
def sampleLaunch (s : State) (n : Nat) (l : Launch) : State :=
  let l := sampleDeps s l
  let s := modLaunch (touchDeps s l) n (fun _ => l)
  if l.deps.all id then makeReady s n else s

/-- The WAITING launch in the cursor's id. -/
def waitingLaunch (s : State) : Option Launch := (launchAt s s.iss.id).bind (fun l => if l.st == .waiting then some l else none)

/-- DEP_SAMPLE_ON_UPDATE: an update has made an unlatched DEP of the launch reached (R30). -/
def execDepSampleOnUpdate (s : State) : Host.Outcome State Fault Refusal :=
  match waitingLaunch s with
  | some l => if (sampleDeps s l).deps != l.deps then .next (sampleLaunch s s.iss.id l) else .fault .notEnabled
  | none => .fault .notEnabled

/-- DEP_SAMPLE_TIMER: every 4,096 hub cycles (R30). -/
def execDepSampleTimer (s : State) : Host.Outcome State Fault Refusal :=
  match waitingLaunch s with
  | some l => .next (sampleLaunch s s.iss.id l)
  | none => .fault .notEnabled

/-! ### Placement (R33 to R35) -/

/-- The sub-positions of a shape within its anchor quad, as columns and rows (Table 2.4). -/
def subPositions (shape : Nat) : List (Nat × Nat) :=
  match shape with
  | 0 => [(0, 0), (1, 0), (0, 1), (1, 1)]
  | 1 => [(0, 0), (0, 1)]
  | 2 => [(0, 0), (1, 0)]
  | _ => [(0, 0)]

/-- The cores of a rectangle of a die in TIX order: columns first, then rows (R17, R33). -/
def rectCores (die x y : Nat) (d : Nat × Nat) : List Nat :=
  (List.range d.2).flatMap (fun r => (List.range d.1).map (fun c => 48 * die + 6 * (y + r) + (x + c)))

/-- The candidate rectangles of a shape on a die, in the order of R34 and Table 2.4. -/
def candidates (die shape : Nat) : List (List Nat) :=
  let d := shapeDims shape
  (List.range 12).flatMap (fun q =>
    let x := 2 * (q % 3)
    let y := 2 * (q / 3)
    if shape ≥ 3 && (x + d.1 > 6 || y + d.2 > 8) then []
    else (subPositions shape).map (fun p => rectCores die (x + p.1) (y + p.2) d))

/-- The candidates on the admitted dies, CD0 to CD7 (R34). -/
def allCandidates (s : State) (shape : Nat) : List (List Nat) :=
  ((List.range 8).filter (fun d => (dieOf s d).admitted)).flatMap (fun d => candidates d shape)

/-- A core is free for a launch (R33, R37). -/
def coreFree (s : State) (n core : Nat) : Bool :=
  (dieOf s (dieNo core)).admitted && !coreDisabled s core && (tget s.teams core).isNone
  && !(s.rects.any (fun r => r.1 != n && r.2.1.contains core))

/-- The first fitting rectangle (R33, R34). -/
def firstFit (s : State) (n shape : Nat) : Option (List Nat) := (allCandidates s shape).find? (fun r => r.all (coreFree s n))

/-! ### A team at dispatch (R21) -/

/-- A thread at dispatch (R21, R347). -/
def startThread (code : Word) (tid : Nat) : Thread :=
  { Thread.empty with live := true, tid := tid, pc := code, entry := ⟨code, [], .none_⟩ }

/-- A group at dispatch. Of the groups that one dispatch allocates, the spec does not say which counts as allocated earliest for R113:
in the model the lower context (DESIGN CHOICE, log 95). -/
def startGroup (r : LaunchRecord) (stamp gix : Nat) : Group :=
  Group.openStretch { Group.empty with
    threads := (List.range (recWidth r)).map (fun l => startThread (recCode r) (gix * recWidth r + l)),
    sreg := wset [] 0 (recArgs r), age := stamp, order := 64 * stamp + gix, regionAt := stamp }

/-- A team at dispatch (R21, R205). -/
def startTeam (r : LaunchRecord) (stamp n cix tix : Nat) : Team :=
  { launch := n, cix := cix, tix := tix, groups := (List.range (recGpt r)).map (fun g => (g, startGroup r stamp g)),
    spad := [], spadBad := [], opBad := [], role := recWord r 5, opbuf := [], resv := [], chan := List.replicate 4 Channel.idle, cc := 0,
    bins := List.replicate 16 none, ott := [], wc := [], sent := [], det := [], l1 := [], window := true, closed := [], acked := [],
    hasToken := false, hadToken := false, halt := none, ending := .none_, quota := 64, events := 0, issued := 0,
    pack := [], packAge := 0, fences := [], stopping := false, eng := none }

/-- A new team takes its core, its groups' GJP at the context's JPOS (R368); the engine no longer keeps the core's earlier
team (R32, R361). -/
def placeTeam (s : State) (n cix tix core : Nat) (r : LaunchRecord) : State :=
  let t := startTeam r s.stamp n cix tix
  let pos := word (ctxOf s (teamCtx s t)).jpos
  modEngine (setTeam s core { t with groups := tmap (fun _ g => { g with gjp := pos }) t.groups }) (quadNo core) (fun e => { e with keep := e.keep.filter (· != core) })

/-! ### The image of a preempted team (R352) -/

/-- Renames a core after a move from some cores to others, rank by rank. -/
def moveCore (old new : List Nat) (c : Nat) : Nat :=
  match old.findIdx? (· == c) with
  | some i => new.getD i c
  | none => c

/-- An access in a scratchpad after a move. -/
def SAcc.move (f : Nat → Nat) (a : SAcc) : SAcc := { a with core := f a.core }

/-- Work after a move. -/
def moveWork (f : Nat → Nat) (w : Work) : Work :=
  match w with
  | .sload ty ls => .sload ty (ls.map (·.move f))
  | .sstore ty ls => .sstore ty (ls.map (fun x => (x.1.move f, x.2)))
  | .satom op ty ls => .satom op ty (ls.map (fun x => { x with acc := x.acc.move f }))
  | w => w

/-- A space of scratchpad or operand-buffer units after a move. -/
def moveSpace (f : Nat → Nat) (x : Nat) : Nat := 2 * f (x / 2) + x % 2

/-- The engine state of a team after a move (R268). -/
def SavedEngine.move (f : Nat → Nat) (e : SavedEngine) : SavedEngine :=
  let log (l : PassLog) : PassLog :=
    { l with recs := l.recs.map (fun r => (f r.1, r.2)), kept := l.kept.map (fun r => (f r.1, r.2)),
             units := l.units.map (fun u => (moveSpace f u.1, u.2)) }
  { e with
    tiles := e.tiles.map (fun t => { t with bound := t.bound.map (fun b => (f b.1, b.2)), log := t.log.map log }),
    cmds := e.cmds.map (fun x => { x with
      core := f x.core, recs := x.recs.map (fun r => (f r.1, r.2)), kept := x.kept.map (fun r => (f r.1, r.2)),
      words := x.words.map (fun u => (moveSpace f u.1, u.2)) }),
    fails := e.fails.map (fun x => { x with core := f x.core }) }

/-- A group waits in a blocking instruction. -/
def GStatus.isBlocked : GStatus → Bool
  | .blocked _ _ _ _ => true
  | .pageFault _ _ _ _ back => back.isBlocked
  | _ => false

/-- The status that a group resumes with: a blocking instruction that waited waits again, and one that waited for the firmware
meets its fault again (R346, R351). -/
def GStatus.saved : GStatus → GStatus
  | .blocked _ _ _ _ => .running
  | .pageFault _ _ _ _ back => back.saved
  | x => x

/-- The restarts that groups of a stopped team wait to make at a fault are made before the team is saved (R351). -/
def restartFaults (s : State) (core : Nat) : State :=
  match tget s.teams core with
  | none => s
  | some t => t.groups.foldl (fun s g => match g.2.status with
    | .pageFault _ false _ _ _ => regionRestart s core g.1
    | _ => s) s

/-- A group as the image holds it: a blocking instruction that waited waits again after the resume (R351), and its OPEN
threads are DOOMED (Table 17.1). -/
def saveGroup (g : Group) : Group :=
  { g with
    threads := g.threads.map (fun x => x.doom 5 0),
    status := g.status.saved, parked := g.parked || g.status.isBlocked,
    stall := none, walked := [], granted := false, yielded := none, since := 0, waited := true }

/-- The OPEN threads of a bin are DOOMED when their team is preempted (Table 17.1). -/
def Bin.doom (b : Bin) : Bin := { b with threads := b.threads.map (fun x => (x.1.doom 5 0, x.2)) }

/-- Every combining entry of a core is sent, and the groups of its mask await its acknowledgement; one behind an earlier drain
of its key goes once that is acknowledged (R218, R219). -/
def sendAllWc (s : State) (core : Nat) : State :=
  match tget s.teams core with
  | none => s
  | some t =>
    let s := (t.wc.filter (fun e => e.seq.isNone)).foldl (fun s e => wcSend s core e) s
    modTeam s core (fun t => { t with
      wc := [],
      sent := t.sent ++ t.wc.filterMap (fun e => e.seq.map (fun n => ⟨n, e.ctxs.map (fun k => (k, e.vaOf k)), e.tids⟩)) })

/-- The requests of a core that its team resumes with: those of entries of its table, and stream operations of a team that has halted,
which its end awaits (R130, R284, R338). -/
def keptReqs (s : State) (core : Nat) (t : Team) : List Req :=
  s.reqs.filter (fun r => r.core == core && (r.kind == .stream || t.ott.any (fun e => e.id == r.ott)))

/-- What a core's team leaves behind when it goes: its other requests for values, its waits at the walkers. -/
def forgetCore (s : State) (core : Nat) : State :=
  { s with
    reqs := s.reqs.filter (fun r => r.core != core || (match r.kind with | .read | .marker => false | _ => true)),
    dies := tmap (fun _ d => { d with misses := d.misses.map (fun m => { m with waiters := m.waiters.filter (fun w => w.1 != core) }) }) s.dies }

/-- Renames the core that held emits and a waiting JSEED of a context name (R368, R376). -/
def renameHeld (s : State) (ctx n old new : Nat) : State :=
  modCtx s ctx (fun c => { c with
    emits := c.emits.map (fun e => if e.core == old && e.launch == n then { e with core := new } else e),
    seedBy := c.seedBy.map (fun x => if x.1 == old then (new, x.2) else x) })

/-- The space of a scratchpad by its core, or by the number of its saved team, among marks. -/
def markSpace (core : Nat) : Nat := if core < 1000 then 1 + core else 2 ^ 30 + core

/-- Renames the core that marks name, and its scratchpad: they go with the team (R297, R352). -/
def renameMarks (s : State) (old new : Nat) : State :=
  { s with marks := s.marks.map (fun m =>
      { m with core := if m.core == old then new else m.core, space := if m.space == markSpace old then markSpace new else m.space }) }

/-- Takes a team and its engine state off a core. -/
def liftTeam (s : State) (core : Nat) : State :=
  modEngine { s with teams := tdel s.teams core } (quadNo core) (fun e => { e with
    table := e.table.filter (fun x => x.2.core != core),
    granted := if (e.granted.bind (tget e.table)).any (fun x => x.core == core) then none else e.granted,
    tiles := e.tiles.map (fun t => if (t.bound.map (·.1)) == some core then Tile.reset else t),
    fails := e.fails.filter (fun x => x.core != core), keep := e.keep.filter (· != core) })

/-- Saves the team of a core: what the image holds of it, and the state without it (R352, Table 21.5). -/
def saveTeam (s : State) (core : Nat) : State × Option (Nat × Team × List Req) :=
  let s := sendAllWc (restartFaults s core) core
  match tget s.teams core with
  | none => (s, none)
  | some t =>
    let e := engineOf s (quadNo core)
    let eng : SavedEngine :=
      { gens := e.gens, tiles := e.tiles.filter (fun x => (x.bound.map (·.1)) == some core),
        cmds := ((e.table.map (·.2)).filter (fun x => x.core == core)).foldr insertCmd [],
        fails := e.fails.filter (fun x => x.core == core) }
    let eng := match t.eng with
      | some k => { k with tiles := k.tiles ++ eng.tiles, cmds := k.cmds ++ eng.cmds, fails := k.fails ++ eng.fails }
      | none => eng
    let kept := keptReqs s core t
    let t' := { t with groups := tmap (fun _ g => saveGroup g) t.groups, bins := t.bins.map (fun b => b.map Bin.doom), l1 := [], quota := 64, events := 0, issued := 0, pack := [], stopping := false,
                       chan := t.chan.map (fun c => { c with paused := false }), eng := some eng }
    let s := renameMarks (renameHeld s (teamCtx s t) t.launch core (savedCore t.launch t.cix t.tix)) core (savedCore t.launch t.cix t.tix)
    let s := { s with reqs := s.reqs.filter (fun r => !kept.any (fun k => k.id == r.id)) }
    (liftTeam (forgetCore s core) core, some (t.tix, t', kept))

/-- Sends a saved request again: under its own serial, with the stream's LWM and a new resend timer (R284); a
peer marked dead meanwhile ends it (R273). -/
def resendSaved (core : Nat) (s : State) (r : Req) : State :=
  let held := r.sends == 0 && !r.busy
  let r := { r with core := core, sends := if held then 0 else 1, busy := false }
  let s := { s with reqs := s.reqs ++ [r] }
  if s.peerdead.getLsbD r.owner then failReq s r 6
  else if held then s else sendReq s r

/-- Resumes a saved team on the core of its TIX (R37, R284, R352). -/
def resumeTeam (n ctx : Nat) (old new : List Nat) (s : State) (x : Nat × Team × List Req) : State :=
  let f := moveCore old new
  let core := new.getD x.1 0
  let t := { x.2.1 with ott := x.2.1.ott.map (fun e => { e with work := moveWork f e.work }), eng := x.2.1.eng.map (·.move f) }
  let s := renameMarks (renameHeld (setTeam s core t) ctx n (savedCore n t.cix x.1) core) (savedCore n t.cix x.1) core
  let s := x.2.2.foldl (resendSaved core) s
  let mine := (ctxOf s ctx).seedDone.filter (fun d => t.ott.any (fun e => e.id == d.1))
  mine.foldl (fun s d => match t.ott.find? (fun e => e.id == d.1) with
      | some e => finishEntry s core { e with got := [(0, d.2)] }
      | none => s)
    (modCtx s ctx (fun c => { c with seedDone := c.seedDone.filter (fun d => !mine.contains d) }))

/-! ### CLUSTER_DISPATCH (R31, R32, R39) -/

/-- The cluster that the head dispatches next: the lowest that awaits re-placement, else the next of the grid. -/
def nextCluster (l : Launch) : Option Nat :=
  match minNat ((l.clus.filter (fun e => e.2 == .saved)).map (·.1)) with
  | some k => some k
  | none => if l.next < recClusters l.rec_ then some l.next else none

/-- A launch has a cluster that is being halted. -/
def beingHalted (s : State) (n : Nat) : Bool := s.preempting.any (fun p => p.1 == n)

/-- Once every cluster is dispatched and none awaits re-placement, the head is RUNNING (R29). -/
def settlePlacing (s : State) (n : Nat) : State :=
  match launchAt s n with
  | none => s
  | some l =>
    if (nextCluster l).isSome || beingHalted s n then s
    else settleHead { modLaunch s n (fun l => { l with st := .running }) with head := none }

/-- Dispatches a cluster of a launch on a rectangle: its saved teams resume, or its teams start (R32, R37). -/
def dispatchCluster (s : State) (n k : Nat) (l : Launch) (cores : List Nat) : State :=
  let cix := cixOf l.rec_ k
  let s' := modLaunch s n (fun l => { l with clus := tset l.clus k (.resident cores), next := if k = l.next then k + 1 else l.next })
  match s.images.find? (fun i => i.launch == n && i.cix == cix) with
  | some i =>
    let s' := { s' with images := s'.images.filter (fun i => !(i.launch == n && i.cix == cix)) }
    cores.foldl (fun s c => settleTiles s (quadNo c)) (i.teams.foldl (resumeTeam n l.ctx i.cores cores) s')
  | none => { cores.zipIdx.foldl (fun s c => placeTeam s n cix c.2 c.1 l.rec_) s' with stamp := s.stamp + 1 }

/-- CLUSTER_DISPATCH (R32): a cluster for which clusters are being preempted waits until each of them has halted and been
saved (R37). -/
def execClusterDispatch (s : State) : Host.Outcome State Fault Refusal :=
  match s.head with
  | none => .fault .notEnabled
  | some n =>
    match launchAt s n with
    | none => .fault .notEnabled
    | some l =>
      if l.dictWait || beingHalted s n || s.rects.any (fun r => r.1 == n) then .fault .notEnabled
      else match nextCluster l with
        | none => .fault .notEnabled
        | some k =>
          match firstFit s n (recShape l.rec_) with
          | none => .fault .notEnabled
          | some cores => .next (settleToken (settlePlacing (dispatchCluster s n k l cores) n) n)

/-! ### Preemption (R36, R37, R350) -/

/-- The clusters that occupy a rectangle, as launch and CIX. -/
def occupants (s : State) (cores : List Nat) : List (Nat × Nat) :=
  (cores.filterMap (fun c => (tget s.teams c).map (fun t => (t.launch, t.cix)))).eraseDups

/-- The cores that a cluster covers. -/
def coverOf (s : State) (x : Nat × Nat) : Nat := (s.teams.filter (fun e => e.2.launch == x.1 && e.2.cix == x.2)).length

/-- A candidate that a head of some priority may clear: the clusters that occupy it all belong to launches of strictly
lower priority (R36). -/
def clearable (s : State) (prio : Nat) (cores : List Nat) : Bool :=
  cores.all (fun c => (dieOf s (dieNo c)).admitted && !coreDisabled s c &&
    (match tget s.teams c with
     | none => true
     | some t => decide ((((launchAt s t.launch).map (fun l => recPrio l.rec_)).getD 8) < prio)))

/-- The candidate that a blocked head clears: whose occupying clusters cover the fewest cores, the first among
equals (R36). -/
def chooseVictims (s : State) (prio shape : Nat) : Option (List Nat) :=
  (((allCandidates s shape).filter (clearable s prio)).foldl (fun (a : Option (Nat × List Nat)) r =>
    let k := ((occupants s r).map (coverOf s)).sum
    match a with
    | none => some (k, r)
    | some b => if k < b.1 then some (k, r) else some b) none).map (·.2)

/-- The index of a cluster of a launch by its CIX. -/
def clusterIndex (l : Launch) (cix : Nat) : Option Nat := (l.clus.find? (fun e => cixOf l.rec_ e.1 == cix)).map (·.1)

/-- PRIORITY_PREEMPTION (R36): every group of the clusters on the chosen rectangle stops issuing; one that no cluster occupies
is only reserved to another launch, and the head waits for it. -/
def execPriorityPreemption (s : State) : Host.Outcome State Fault Refusal :=
  match s.head with
  | none => .fault .notEnabled
  | some n =>
    match launchAt s n with
    | none => .fault .notEnabled
    | some l =>
      if l.dictWait || (nextCluster l).isNone || beingHalted s n || s.rects.any (fun r => r.1 == n)
        || (firstFit s n (recShape l.rec_)).isSome then .fault .notEnabled
      else match chooseVictims s (recPrio l.rec_) (recShape l.rec_) with
        | none => .fault .notEnabled
        | some cores =>
          let vs := occupants s cores
          if vs.isEmpty then .fault .notEnabled
          else .next { s with
            teams := tmap (fun _ t => if vs.contains (t.launch, t.cix) then { t with stopping := true } else t) s.teams,
            preempting := s.preempting ++ vs.filter (fun v => !s.preempting.contains v), rects := s.rects ++ [(n, cores, vs)] }

/-- A team that a preemption has stopped has halted (R350, Table 21.4): nothing local is outstanding, no
granted command runs, and its channels are paused. Remote answers are not waited for (R284). -/
def teamHalted (s : State) (core : Nat) (t : Team) : Bool :=
  let ctx := teamCtx s t
  let e := engineOf s (quadNo core)
  t.stopping
  && !(t.ott.any (fun x => mayPerform s ctx t x))
  && !(t.groups.any (fun g => match g.2.status with | .blocked .tlbinv _ _ _ => true | _ => false))
  && !((e.granted.bind (tget e.table)).any (fun x => x.core == core))
  && t.chan.all (fun c => c.st != .active || c.paused)
  && !(s.winq.any (fun x => x.core == core))

/-- The teams of a cluster that are resident, with their cores. -/
def residentTeams (s : State) (n cix : Nat) : List (Nat × Team) := s.teams.filter (fun e => e.2.launch == n && e.2.cix == cix)

/-- A rectangle is free once every cluster that is halted for it has left, with all its cores (R37). -/
def settleRects (s : State) : State := { s with rects := s.rects.filter (fun r => r.2.2.any (fun v => s.preempting.contains v)) }

/-- PREEMPTION_HALTED: every core of the cluster in the cursor's id has halted; the image is saved, the
rectangle is free, and the launch is READY at the head of its queue (R37, R38, R350, R352). A launch that is READY already when a
cluster of it is saved is moved to the head again, before READY launches that stood ahead of it: the spec does not say
(DESIGN CHOICE, log 93). -/
def execPreemptionHalted (s : State) : Host.Outcome State Fault Refusal :=
  match s.preempting[s.iss.id]? with
  | none => .fault .notEnabled
  | some (n, cix) =>
    let ts := residentTeams s n cix
    match (launchAt s n).bind (fun l => (clusterIndex l cix).map (fun k => (l, k))) with
    | none => .fault .notEnabled
    | some (l, k) =>
      if !ts.all (fun e => teamHalted s e.1 e.2) then .fault .notEnabled
      else
        let old := match tget l.clus k with | some (.resident cs) => cs | _ => []
        let r := ts.foldl (fun (a : State × List (Nat × Team × List Req)) e =>
          let x := saveTeam a.1 e.1
          (x.1, a.2 ++ x.2.toList)) (s, [])
        let s := { r.1 with images := r.1.images ++ [⟨n, cix, old, r.2⟩], preempting := r.1.preempting.filter (· != (n, cix)) }
        let s := modLaunch s n (fun l => { l with clus := tset l.clus k .saved })
        let s := modLaunch s n (fun l => if l.st == .placing then l else { l with st := .ready, qpos := headPos s })
        .next (settleHead (ts.foldl (fun s e => settleTiles s (quadNo e.1)) (settleRects s)))

/-! ### The end of a team (R227, R382, R383) -/

/-- TEAM_END_CHANNELS_QUIET (step 1 of Table 25.1): no channel delivers further. -/
def execTeamEndChannelsQuiet (s : State) : Host.Outcome State Fault Refusal :=
  match tget s.teams s.iss.core with
  | none => .fault .notEnabled
  | some t =>
    if t.ending == .channels && t.chan.all (fun c => c.st != .active) then
      .next (setTeam s s.iss.core { t with ending := .engine })
    else .fault .notEnabled

/-- The engine failure that counts as the team's fault: that of its first failing command (R383). -/
def engineFault (s : State) (core : Nat) : Option HaltRec :=
  (((engineOf s (quadNo core)).fails.filter (fun f => f.core == core)).foldl (fun (a : Option EngFail) f =>
    match a with
    | none => some f
    | some x => if f.stamp < x.stamp then some f else some x) none).map
    (fun f => ⟨{ f.trap with taddr := f.dest }, f.pc, f.grp⟩)

/-- TEAM_END_ENGINE_DONE (step 2): the team's engine commands have completed; tiles are unbound without a check,
reservations are released, an uncovered failure is the team's fault, and the peer window closes. -/
def execTeamEndEngineDone (s : State) : Host.Outcome State Fault Refusal :=
  match tget s.teams s.iss.core with
  | none => .fault .notEnabled
  | some t =>
    let core := s.iss.core
    let q := quadNo core
    if t.ending != .engine || t.eng.isSome || (engineOf s q).table.any (fun x => x.2.core == core) then .fault .notEnabled
    else
      let h := match t.halt with | some h => some h | none => engineFault s core
      let s := setTeam s core { t with ending := .window, window := false, resv := [], opbuf := [], halt := h }
      let s := modEngine s q (fun e => { e with
        tiles := e.tiles.map (fun x => if (x.bound.map (·.1)) == some core then Tile.reset else x),
        fails := e.fails.filter (fun x => x.core != core) })
      .next (settleTiles s q)

/-- A core's team has completed every access to another core's scratchpad that it has issued; engine commands that wait for its tiles
after a resume are among them (R227, R242, R268). -/
def peerQuiet (s : State) (t : Team) (core target : Nat) (rank : Nat) : Bool :=
  !(t.ott.any (fun e => match e.work with
    | .sload _ ls => ls.any (fun a => a.core == target)
    | .sstore _ ls => ls.any (fun a => a.1.core == target)
    | .satom _ _ ls => ls.any (fun a => a.acc.core == target)
    | _ => false))
  && !(t.chan.any (fun c => c.st == .active && c.kind == .cpym && nbit c.mask rank))
  && !((((engineOf s (quadNo core)).table.map (·.2)).filter (fun x => x.core == core)
      ++ (match t.eng with | some k => k.cmds | none => [])).any (fun x => x.words.any (fun u => u.1 == 2 * target)
        || (match x.cmd with | .mdrain f _ d => nbit f 1 && bitsAt d.toNat 20 4 == rank | _ => false)))

/-- The ranks of a cluster that have not acknowledged the close of a team's window. -/
def unacked (s : State) (core : Nat) (t : Team) : List Nat :=
  ((residentTeams s t.launch t.cix).filter (fun e => e.1 != core && !t.acked.contains e.2.tix)).map (·.2.tix)

/-- The fault of the lowest (CIX, TIX) is kept (R23). -/
def chooseFault (a : Option (Nat × Nat × HaltRec)) (cix tix : Nat) (h : HaltRec) : Option (Nat × Nat × HaltRec) :=
  match a with
  | none => some (cix, tix, h)
  | some x => if teamKey cix tix < teamKey x.1 x.2.1 then some (cix, tix, h) else some x

/-- Step 5: the team has retired, and its core becomes free. -/
def freeCore (s : State) (core : Nat) (t : Team) : State :=
  let s := renameHeld s (teamCtx s t) t.launch core retiredCore
  let s := liftTeam (forgetCore s core) core
  let s := modLaunch s t.launch (fun l => { l with
    ended := l.ended ++ [(t.cix, t.tix)],
    fault := match t.halt with | some h => chooseFault l.fault t.cix t.tix h | none => l.fault,
    errs := if t.halt.isSome then l.errs + 1 else l.errs })
  if !(residentTeams s t.launch t.cix).isEmpty || s.images.any (fun i => i.launch == t.launch && i.cix == t.cix && !i.teams.isEmpty) then s
  else
    let s := modLaunch s t.launch (fun l => match clusterIndex l t.cix with
      | some k => { l with clus := tset l.clus k .retired }
      | none => l)
    settleRects { s with preempting := s.preempting.filter (· != (t.launch, t.cix)) }

/-- Steps 4 and 5 of Table 25.1 once every core of the cluster has acknowledged the close: the token passes, and
the core becomes free. -/
def endSteps (s : State) (core : Nat) : State :=
  match tget s.teams core with
  | none => s
  | some t => settleToken (settlePlacing' (freeCore (if t.hasToken then modTeam s core (fun t => { t with hasToken := false, hadToken := true }) else s) core t) t) t.launch
where
  /-- A head whose last cluster has left while it was halted is RUNNING. -/
  settlePlacing' (s : State) (t : Team) : State := if s.head == some t.launch then settlePlacing s t.launch else s

/-- The writes and stream operations that a team has sent to peers are answered, so that DONE comes after them (R130). -/
def peersAnswered (s : State) (core : Nat) (t : Team) : Bool :=
  t.sent.isEmpty && !(s.reqs.any (fun r => r.core == core && r.kind == .stream))

/-- PEER_WINDOW_CLOSE_ACK: the core in the cursor's id acknowledges the close of the ending team's window; with
the last one the token passes and the core becomes free (R227, R382). -/
def execPeerWindowCloseAck (s : State) : Host.Outcome State Fault Refusal :=
  match tget s.teams s.iss.core with
  | none => .fault .notEnabled
  | some t =>
    if t.ending != .window then .fault .notEnabled
    else
      let done (s : State) (t : Team) : Bool := (unacked s s.iss.core t).isEmpty && peersAnswered s s.iss.core t && (!t.hasToken || tokenFree s s.iss.core t)
      match (tget s.teams s.iss.id).filter (fun p => (unacked s s.iss.core t).contains p.tix && p.launch == t.launch && p.cix == t.cix) with
      | some p =>
        if !peerQuiet s p s.iss.id s.iss.core t.tix then .fault .notEnabled
        else
          let s := modTeam s s.iss.id (fun p => { p with closed := insertNat t.tix p.closed })
          let s := modTeam s s.iss.core (fun t => { t with acked := insertNat p.tix t.acked })
          let t := { t with acked := insertNat p.tix t.acked }
          .next (if done s t then endSteps s s.iss.core else s)
      | none => if done s t then .next (endSteps s s.iss.core) else .fault .notEnabled

/-! ### LAUNCH_RETIRE (R23, R376, R384) -/

/-- The teams of a launch have all ended. -/
def allEnded (l : Launch) : Bool := decide (l.next = recClusters l.rec_) && l.clus.all (fun e => e.2 == .retired)

/-- Posts DONE for a launch (R23, Table 1.7). -/
def postDone (s : State) (l : Launch) (lost : Bool) (pa : Nat) : State :=
  let errs := if l.errs > 0xFFFF then 0xFFFF else l.errs
  match l.fault with
  | some (cix, tix, h) =>
    postObject s pa 2 (if lost then 0x0E else h.trap.cause) errs h.trap.cause h.pc h.trap.taddr h.trap.tinfo
      (word (cix % 2 ^ 48 + 2 ^ 48 * (tix % 16) + 2 ^ 52 * (h.gix % 64)))
  | none => if lost then postObject s pa 2 0x0E 0 0 0 0 0 0 else postObject s pa 1 0 0 0 0 0 0 0

/-- LAUNCH_RETIRE: DONE is posted and the slot is freed (R384), once every emit of the launch is performed or
the gate holds no partner (R376). A NOTVALID on DONE is with the firmware meanwhile; where DONE no longer translates to a
writable page of MT 0 the spec names no outcome, and the model frees the slot and posts nothing (log 44). -/
def execLaunchRetire (s : State) : Host.Outcome State Fault Refusal :=
  match launchAt s s.iss.id with
  | none => .fault .notEnabled
  | some l =>
    let c := ctxOf s l.ctx
    let held := c.emits.any (fun e => e.launch == s.iss.id)
    let done := recFld l.rec_ 12 0 56
    if l.st == .waiting || !allEnded l || (held && gateLive c) || asked s l.ctx done then .fault .notEnabled
    else if notValid s l.ctx done then .next (askFirmware s l.ctx done)
    else
      let s' := match writableMt0 s l.ctx done, objectHole s l.ctx done with
        | some pa, _ => postDone (touchAt s l.ctx done 64 true) l held pa
        | none, some pa => logViolation (dropTold s l.ctx [done]) pa
        | none, none => dropTold s l.ctx [done]
      let s' := modCtx s' l.ctx (fun c => { c with emits := c.emits.map (fun e => if e.launch == s.iss.id then { e with launch := 4096 } else e) })
      .next (settleHead { s' with launches := tdel s'.launches s.iss.id, head := if s'.head == some s.iss.id then none else s'.head })

end Sys2Proof.Machine
end

