-- ==== Sys2Proof/Machine/Hub.lean ====
section
/-! DEFINITION. The mailboxes, the service path, the management mailbox, and the creation and destruction of
contexts (chapters 02, 04, 24 and 25: R24 to R28, R67, R68, R380, R385). -/

namespace Sys2Proof.Machine

/-! ### Mailboxes (R25, R26, Tables 2.1 and 2.2) -/

/-- A mailbox as the state holds it; 64 is the management mailbox. -/
def mboxOf (s : State) (m : Nat) : Mailbox := if m = 64 then s.mgmt else tgetD s.mboxes m Mailbox.reset

/-- Writes a mailbox. -/
def setMbox (s : State) (m : Nat) (x : Mailbox) : State :=
  if m = 64 then { s with mgmt := x } else { s with mboxes := tset s.mboxes m x }

/-- STATUS becomes valid: BUSY falls and DONEBIT is set (Table 2.1). -/
def Mailbox.answer (x : Mailbox) (status reason : Nat) : Mailbox :=
  { x with status := status, reason := if status = 1 then reason else 0, busy := false, done := true, kept := none }

/-- The hub serves BAR0 beyond BOOTSTAT: stage 2 is complete (R388). -/
def bar0Open (s : State) : Bool := decide (3 ≤ s.stage)

/-- RECADDR's reserved bits are zero. -/
def recaddrOk (x : Mailbox) : Bool := x.recaddr.toNat < 2 ^ 56

/-- Runs the SUBMIT of a mailbox: it answers, or waits for the firmware with the record kept as it was read (R16, R26). -/
def runSubmit (s : State) (m : Nat) : State :=
  let x := mboxOf s m
  let va := x.recaddr.toNat
  match submitNeeds s x.bind va x.kept with
  | some a => setMbox (askFirmware s x.bind a) m { x with busy := true, kept := recordOf s x.bind va x.kept }
  | none => let r := submitAt s x.bind false va x.kept; setMbox r.1 m (x.answer r.2.1 r.2.2)

/-- A management request that Table 4.10 names. -/
def mgmtOp (op : Word) : Bool := 0x10 ≤ op.toNat && op.toNat ≤ 0x14

/-- MAILBOX_SUBMIT: a write of the OP word, ignored while BUSY; or a submission that waited for the firmware is
made (R25, R26). -/
def execMailboxSubmit (s : State) : Host.Outcome State Fault Refusal :=
  match s.msg with
  | some (.mailboxOp m op) =>
    let x := mboxOf s m
    if m > 64 then .fault .notEnabled
    else if !bar0Open s || x.busy then .next s
    else if m = 64 && x.bound && recaddrOk x && mgmtOp op then .fault .notEnabled
    else
      let x := { x with op := op }
      if m = 64 || !x.bound || op != 1 || !recaddrOk x then .next (setMbox s m (x.answer 3 0))
      else .next (runSubmit (setMbox s m x) m)
  | none =>
    let x := mboxOf s s.iss.id
    if s.iss.id < 64 && x.busy && x.bound && !((submitNeeds s x.bind x.recaddr.toNat x.kept).any (asked s x.bind)) then .next (runSubmit s s.iss.id)
    else .fault .notEnabled
  | _ => .fault .notEnabled

/-- MAILBOX_DONEBIT_CLEAR (R25). -/
def execMailboxDonebitClear (s : State) : Host.Outcome State Fault Refusal :=
  match s.msg with
  | some (.donebitClear m) =>
    if m > 64 then .fault .notEnabled
    else if !bar0Open s then .next s else .next (setMbox s m { mboxOf s m with done := false })
  | _ => .fault .notEnabled

/-- A service submission, or its wait for the firmware with the record kept as it was read (R16, R24, R26). The spec does not say
whether one that waits holds the single input of R28: in the model later submissions are accepted before it, and one that waits
again goes to the end of `svcq` (DESIGN CHOICE, log 93). -/
def runService (s : State) (recaddr : Word) (kept : Option LaunchRecord) : State :=
  match submitNeeds s 0xFFF recaddr.toNat kept with
  | some a => { askFirmware s 0xFFF a with svcq := s.svcq ++ [(recaddr, recordOf s 0xFFF recaddr.toNat kept)] }
  | none => let r := submitAt s 0xFFF true recaddr.toNat kept; { r.1 with svcStat := r.2.1 + 2 ^ 8 * r.2.2 }

/-- A peer has yet to hear of the end of the context that had a CTXID: the CTXID is not used again before (R279, log 90). -/
def goneOut (s : State) (ctx : Nat) : Bool := s.reqs.any (fun r => r.kind == .gone && r.ctx == ctx)

/-- SERVICE_SUBMISSION: of a record, or of the first that waited for the firmware (R24). -/
def execServiceSubmission (s : State) : Host.Outcome State Fault Refusal :=
  match s.msg with
  | some (.service recaddr) =>
    if (tget s.ctxs 0xFFF).isNone then .fault .notEnabled
    else if goneOut s 0xFFF then .next { s with svcq := s.svcq ++ [(recaddr, none)] }
    else .next (runService s recaddr none)
  | none =>
    match s.svcq with
    | a :: r =>
      if goneOut s 0xFFF || (submitNeeds s 0xFFF a.1.toNat a.2).any (asked s 0xFFF) then .fault .notEnabled
      else .next (runService { s with svcq := r } a.1 a.2)
    | [] => .fault .notEnabled
  | _ => .fault .notEnabled

/-! ### Page management (R67, R68, Table 4.10) -/

/-- The leaf of an address, valid or not: the entry with LEAF at level 2, 1 or 0 below valid pointers. -/
def leafFrom (s : State) (va table : Nat) : Nat → Option Leaf
  | 0 =>
    let a := table + 8 * walkIndex va 0
    let e := memNat s.mem a 8
    if nbit e 1 then some ⟨a, e, 0, va / pageSize 0 * pageSize 0⟩ else none
  | level + 1 =>
    let a := table + 8 * walkIndex va (level + 1)
    let e := memNat s.mem a 8
    if nbit e 1 then (if level + 1 = 3 then none else some ⟨a, e, level + 1, va / pageSize (level + 1) * pageSize (level + 1)⟩)
    else if nbit e 0 then leafFrom s va (bitsAt e 8 44 * 2 ^ 8) level
    else none

/-- The leaves of a range in ascending order, one for each page. -/
def leavesOf (s : State) (root va stop : Nat) : Nat → List Leaf
  | 0 => []
  | f + 1 =>
    if va ≥ stop then []
    else match leafFrom s va root 3 with
      | some l => l :: leavesOf s root (l.va + pageSize l.level) stop f
      | none => leavesOf s root (va + 2 ^ 16) stop f

/-- The leaf's page. -/
def Leaf.size (l : Leaf) : Nat := pageSize l.level

/-- The first frame of a leaf. -/
def Leaf.frame (l : Leaf) : Nat := bitsAt l.entry 16 36 * 2 ^ 16

/-- The bytes of the frames of a leaf: a publish-buffer page has two frames (R60). -/
def Leaf.span (l : Leaf) : Nat := if bitsAt l.entry 4 3 = 7 then 2 * l.size else l.size

/-- The leaf has V = 1. -/
def Leaf.valid (l : Leaf) : Bool := nbit l.entry 0

/-- Reads the block at RECADDR, and the leaves of its range; none when the block cannot be read or a reserved bit is set, or
when it does not name whole pages. A context that does not exist has no pages (log 68). Word 3 has a meaning for MIGRATE alone; of
another request the model ignores it below 2^52 and answers 0x03 from 2^52 on (DESIGN CHOICE, log 95). -/
def readBlock (s : State) : Option MgmtReq :=
  let a := s.mgmt.recaddr.toNat
  let w (i : Nat) : Nat := memNat s.mem (a + 8 * i) 8
  if a + 32 > hbmTop || w 0 ≥ 2 ^ 56 || w 1 > 2 ^ 56 || w 2 ≥ 2 ^ 12 || w 3 ≥ 2 ^ 52 then none
  else
    let c := ctxNow s (w 2) (w 0)
    let ls := if nbit c.usePtroot.toNat 0 then leavesOf s (rootOf c) (w 0) (w 0 + w 1) (w 1 / 2 ^ 16 + 1) else []
    if w 0 % 2 ^ 16 != 0 || w 1 % 2 ^ 16 != 0 || w 0 + w 1 > 2 ^ 56
      || !ls.all (fun l => decide (w 0 ≤ l.va) && decide (l.va + l.size ≤ w 0 + w 1)) then none
    else some ⟨w 0, w 1, w 2, w 3, ls⟩

/-- The 64 KiB frames of a leaf, by number. -/
def Leaf.frames (l : Leaf) : List Nat := (List.range (l.span / 2 ^ 16)).map (· + l.frame / 2 ^ 16)

/-- A line of the L2 lies in the frames of a leaf. -/
def Leaf.holds (l : Leaf) (line : Nat) : Bool := decide (l.frame ≤ 128 * line) && decide (128 * line < l.frame + l.span)

/-- A frame of the leaf holds a pinned line (R216). -/
def pinnedIn (s : State) (l : Leaf) : Bool := s.l2.any (fun e => e.2.any (fun y => y.pin.isSome && l.holds y.line))

/-- A frame of the leaf is exported. -/
def exportedIn (s : State) (l : Leaf) : Bool := l.frames.any (fun f => s.exported.contains f)

/-- The page is a publish buffer with an open CPYG (R68, R236). -/
def cpygOpen (s : State) (ctx : Nat) (l : Leaf) : Bool :=
  bitsAt l.entry 4 3 == 7 && decide (0 < tgetD (ctxOf s ctx).openCpyg (bitsAt l.entry 52 12) 0)

/-- Writes a leaf's entry. -/
def writeLeaf (s : State) (l : Leaf) (e : Nat) : State := homeWrite s l.at_ (leBytes 8 e)

/-- Clears V of the leaves and drops the range's translations, as a TLBINV of the range does (R65, R68). -/
def clearPages (s : State) (r : MgmtReq) (ls : List Leaf) : State :=
  dropTranslations (ls.foldl (fun s l => if l.valid then writeLeaf s l (l.entry - 1) else s) s) ⟨some r.ctx, r.va, r.va + r.len⟩

/-- The TLBINV of a request has completed (R65). -/
def pagesQuiet (s : State) (r : MgmtReq) : Bool := !accessesLeft s ⟨some r.ctx, r.va, r.va + r.len⟩

/-- The 64 KiB pages of a leaf, as migrating pages. -/
def Leaf.pages (ctx : Nat) (l : Leaf) : List (Nat × Nat) := (List.range (l.size / 2 ^ 16)).map (fun i => (ctx, l.va + 2 ^ 16 * i))

/-- Copies frames: bytes, and the poison of their sectors (R68, R362). -/
def copyFrames (s : State) (src dst n : Nat) : State :=
  let s := meetUpsets s src n
  let moved := (s.mem.filter (fun c => decide (src ≤ c.1) && decide (c.1 < src + n))).map (fun c => (c.1 - src + dst, c.2))
  let bad := (s.poison.filter (fun x => decide (src / 32 ≤ x) && decide (x < (src + n) / 32))).map (fun x => x - src / 32 + dst / 32)
  { s with mem := memPatch (memDrop s.mem dst n) moved,
           poison := s.poison.filter (fun x => x < dst / 32 || (dst + n) / 32 ≤ x) ++ bad,
           l2lost := s.l2lost.filter (fun x => x < dst / 32 || (dst + n) / 32 ≤ x)
             ++ bad.filter (fun x => s.l2lost.contains (x + src / 32 - dst / 32)),
           renewed := s.renewed.filter (fun a => a < dst || dst + n ≤ a)
             ++ (s.renewed.filter (fun a => decide (src ≤ a) && decide (a < src + n))).map (fun a => a - src + dst),
           upsets := s.upsets.filter (fun x => x.1 < dst / 32 || (dst + n) / 32 ≤ x.1) }

/-- The second half of a MIGRATE: the frames are copied, the new PFN is written and V is set. -/
def finishMigrate (s : State) (r : MgmtReq) : State :=
  let go := r.leaves.foldl (fun (a : State × Nat) l =>
    (writeLeaf (copyFrames a.1 l.frame a.2 l.span) l (l.entry - l.frame + a.2), a.2 + l.span)) (s, r.new)
  { go.1 with migrating := go.1.migrating.filter (fun m => !(r.leaves.flatMap (Leaf.pages r.ctx)).contains m) }

/-- The management mailbox answers. -/
def mgmtAnswer (s : State) (status : Nat) : State := { s with mgmt := s.mgmt.answer status 0, mgmtReq := none }

/-- A request of the management mailbox with an OP code: `start` when its OP word is written, which reads its block and the
entries of its pages once; or `again` when it waited for its TLBINV (R67). -/
def management (code : Nat) (start : State → MgmtReq → State) (again : State → MgmtReq → Option State) (s : State) :
    Host.Outcome State Fault Refusal :=
  match s.msg with
  | some (.mailboxOp 64 op) =>
    if op.toNat != code || !bar0Open s || s.mgmt.busy || !s.mgmt.bound || !recaddrOk s.mgmt then .fault .notEnabled
    else
      let s := { s with mgmt := { s.mgmt with op := op } }
      match readBlock s with
      | none => .next (mgmtAnswer s 3)
      | some r => .next (start s r)
  | none =>
    if s.mgmt.op.toNat != code || !s.mgmt.busy then .fault .notEnabled
    else match s.mgmtReq.bind (again s) with
      | some s => .next s
      | none => .fault .notEnabled
  | _ => .fault .notEnabled

/-- A request that does not wait. -/
def noAgain (_ : State) (_ : MgmtReq) : Option State := none

/-- A request waits for its TLBINV. -/
def mgmtWait (s : State) (r : MgmtReq) : State := { s with mgmt := { s.mgmt with busy := true }, mgmtReq := some r }

/-- UNMAP: V is cleared and a TLBINV completes; pins stay (R68). -/
def execUnmap (s : State) : Host.Outcome State Fault Refusal :=
  management 0x10
    (fun s r => let s := clearPages s r r.leaves; if pagesQuiet s r then mgmtAnswer s 0 else mgmtWait s r)
    (fun s r => if pagesQuiet s r then some (mgmtAnswer s 0) else none) s

/-- A page that MIGRATE can move: valid, in this package's memory, which pages of MT 0, 4 and 7 are. -/
def movable (l : Leaf) : Bool := l.valid && [0, 4, 7].contains (bitsAt l.entry 4 3)

/-- The new frames of the movable leaves are aligned to their pages and in populated memory; Table 4.10 gives no code for a
request that names others, and the model answers 0x03 (log 68). -/
def newFramesOk : Nat → List Leaf → Bool
  | _, [] => true
  | a, l :: r => a % l.span == 0 && decide (a + l.span ≤ hbmTop) && newFramesOk (a + l.span) r

/-- MIGRATE (R68): refused with PINNED, EXPORTED or BUSY; else V is cleared, a TLBINV completes, the frames are
copied, and the new PFN and V are written. -/
def execMigrate (s : State) : Host.Outcome State Fault Refusal :=
  management 0x11
    (fun s r =>
      let ms := r.leaves.filter movable
      let r := { r with leaves := ms }
      if ms.any (pinnedIn s) then mgmtAnswer s 0x11
      else if ms.any (exportedIn s) then mgmtAnswer s 0x12
      else if ms.any (cpygOpen s r.ctx) then mgmtAnswer s 0x10
      else if !newFramesOk r.new ms then mgmtAnswer s 3
      else
        let s := clearPages s r ms
        let s := { s with migrating := s.migrating ++ ms.flatMap (Leaf.pages r.ctx) }
        if pagesQuiet s r then mgmtAnswer (finishMigrate s r) 0 else mgmtWait s r)
    (fun s r => if pagesQuiet s r then some (mgmtAnswer (finishMigrate s r) 0) else none) s

/-- The frames of a leaf are memory of this package: not a peer's, a window's or a device's. -/
def Leaf.isLocal (l : Leaf) : Bool := [0, 4, 7].contains (bitsAt l.entry 4 3)

/-- RECLAIM (R68): BUSY while a frame holds pinned lines; else the frames' lines leave the L2. -/
def execReclaim (s : State) : Host.Outcome State Fault Refusal :=
  management 0x12
    (fun s r =>
      let ls := r.leaves.filter Leaf.isLocal
      if ls.any (pinnedIn s) then mgmtAnswer s 0x10
      else mgmtAnswer { s with l2 := tmap (fun _ es => es.filter (fun y => !ls.any (fun l => l.holds y.line))) s.l2 } 0)
    noAgain s

/-- The frames of this package's memory that a request's pages map, valid or, as UNEXPORT has it too, no longer valid. -/
def framesOf (ls : List Leaf) (unmapped : Bool) : List Nat := (ls.filter (fun l => l.isLocal && (l.valid || unmapped))).flatMap Leaf.frames

/-- EXPORT (R67). -/
def execExportFrames (s : State) : Host.Outcome State Fault Refusal :=
  management 0x13
    (fun s r => mgmtAnswer { s with exported := (framesOf r.leaves false).foldl (fun e f => insertNat f e) s.exported } 0) noAgain s

/-- UNEXPORT (R67). -/
def execUnexportFrames (s : State) : Host.Outcome State Fault Refusal :=
  management 0x14
    (fun s r => mgmtAnswer { s with exported := s.exported.filter (fun f => !(framesOf r.leaves true).contains f) } 0) noAgain s

/-! ### Contexts (R380, R385) -/

/-- The incarnations of packages as the firmware has learnt them. -/
def learnIncs (s : State) (incs : List (Nat × Nat)) : State :=
  { s with peerInc := incs.foldl (fun t p => tset t p.1 (p.2 % 2 ^ 16)) s.peerInc }

/-- The firmware brings the incarnation of every live package (R380). -/
def incsFull (s : State) (incs : List (Nat × Nat)) : Bool := (livePeers s).all (fun p => incs.any (fun x => x.1 == p))

/-- Creates a context: every word zero, stream 0 open, INCSEEN of every live package (R60, R275, R365, R380). -/
def createContext (s : State) (ctx : Nat) (mailbox : Option Nat) : State :=
  let seen := (livePeers s).foldl (fun t p => tset t p (tgetD s.peerInc p 0)) []
  let s := { s with ctxs := tset s.ctxs ctx { Context.fresh with incseen := tset seen s.pkgid s.inc, mailbox := mailbox } }
  match mailbox with
  | some m => setMbox s m { mboxOf s m with bind := ctx, bound := true }
  | none => s

/-- CONTEXT_CREATE: the firmware knows the incarnation of every live package; a mailbox below 64 is bound from SVCLVL 1 onward (R25, R380,
R390). A CTXID is used again once every peer has heard of
the end of the context that had it (R279, log 90). -/
def execContextCreate (s : State) : Host.Outcome State Fault Refusal :=
  match s.msg with
  | some (.contextCreate ctx mailbox incs) =>
    if ctx ≥ 0xFFF || (tget s.ctxs ctx).isSome || !bar0Open s || !incsFull s incs || (mboxOf s mailbox).bound && mailbox < 64
        || goneOut s ctx then .fault .notEnabled
    else .next (createContext (learnIncs s incs) ctx (if mailbox < 64 && 1 ≤ s.svclvl then some mailbox else none))
  | _ => .fault .notEnabled

/-- Takes every launch of a context away, with its teams and images; no DONE is posted (R27, R30, R385). -/
def dropLaunches (s : State) (ctx : Nat) : State :=
  let ns := (s.launches.filter (fun e => e.2.ctx == ctx)).map (·.1)
  let cores := (s.teams.filter (fun e => ns.contains e.2.launch)).map (·.1)
  let s := cores.foldl (fun s c => liftTeam (forgetCore s c) c) s
  let s := { s with
    launches := s.launches.filter (fun e => e.2.ctx != ctx),
    images := s.images.filter (fun i => !ns.contains i.launch),
    preempting := s.preempting.filter (fun p => !ns.contains p.1),
    rects := s.rects.filter (fun r => !ns.contains r.1),
    head := match s.head with | some n => if ns.contains n then none else some n | none => none }
  settleHead (cores.foldl (fun s c => settleTiles s (quadNo c)) (settleRects s))

/-- Destroys a context and releases what R385 lists. Of a mailbox request that still waits for the firmware the spec says nothing:
the model drops it, and BUSY falls (log 69). -/
def destroyContext (s : State) (ctx : Nat) : State :=
  let c := ctxOf s ctx
  let s := dropTranslations (dropLaunches s ctx) ⟨some ctx, 0, 2 ^ 56⟩
  let s := match c.mailbox with
    | some m => setMbox s m { mboxOf s m with bind := 0, bound := false, busy := false, kept := none }
    | none => s
  (livePeers s).foldl (fun s p => notify s .gone p ctx 0 0) { s with
    ctxs := tdel s.ctxs ctx,
    l2 := tmap (fun _ es => es.map (fun y => if y.pin == some ctx then { y with pin := none } else y)) s.l2,
    cslots := s.cslots.filter (fun e => e.2.ctx != ctx),
    reqs := s.reqs.filter (fun r => r.ctx != ctx || r.kind == .abort || r.kind == .gone),
    winq := s.winq.filter (fun x => x.ctx != ctx), cposts := s.cposts.filter (fun p => p.ctx != ctx),
    hubFaults := s.hubFaults.filter (fun f => f.1 != ctx),
    dies := tmap (fun _ d => { d with misses := d.misses.filter (fun m => m.ctx != ctx) }) s.dies,
    migrating := s.migrating.filter (fun m => m.1 != ctx) }

/-- CONTEXT_DESTROY (R385). -/
def execContextDestroy (s : State) : Host.Outcome State Fault Refusal :=
  match s.msg with
  | some (.contextDestroy ctx) => if ctx < 0xFFF && (tget s.ctxs ctx).isSome then .next (destroyContext s ctx) else .fault .notEnabled
  | _ => .fault .notEnabled

/-! ### Answers of the firmware to NOTVALIDs (R14, R26, R323, R347) -/

/-- The firmware has mapped a dictionary's page, or finds no mapping (R14). -/
def dictResolved (s : State) (n : Nat) (found : Bool) (writes : List Host.Cell) : State :=
  if found then installDict (firmwareWrites s writes) n
  else modLaunch s n (fun l => { l with dictWait := false, dictBad := some 2 })

/-- The firmware answers about a page of an access of the hub or of the launch unit; programs that waited act
again. -/
def hubResolved (s : State) (ctx page : Nat) (found : Bool) (writes : List Host.Cell) : State :=
  let rest := s.hubFaults.filter (· != (ctx, page, false))
  let s := if found then firmwareWrites { s with hubFaults := rest } writes else { s with hubFaults := rest ++ [(ctx, page, true)] }
  runPosts { s with cslots := tmap (fun _ x => if x.ctx == ctx then { x with waiting := false } else x) s.cslots } ctx

/-- PAGE_FAULT_RESOLVED: of a group, of a dictionary, or of the hub (R14, R26, R323, R346, R347). -/
def execPageFaultResolved (s : State) : Host.Outcome State Fault Refusal :=
  match s.msg with
  | some (.pageFaultResolved core grp found writes) => groupFaultResolved s core grp found writes
  | some (.dictResolved n found writes) =>
    if ((launchAt s n).map (·.dictWait)).getD false then .next (dictResolved s n found writes) else .fault .notEnabled
  | some (.hubResolved ctx page found writes) =>
    if s.hubFaults.contains (ctx, page, false) then .next (hubResolved s ctx page found writes) else .fault .notEnabled
  | _ => .fault .notEnabled

end Sys2Proof.Machine
end

