-- ==== Sys2Proof/Machine/Boot.lean ====
section
/-! DEFINITION. Bring-up, resets, power, the error log's acknowledgement, errors in cells, and BAR0 (chapters 21,
22 and 26: R349, R358 to R364, R387 to R398). -/

namespace Sys2Proof.Machine

/-! ### Loss of state (R281, R385, R387) -/

/-- What every loss of the hub's state leaves: an owner restart, no context with anything that a context has,
and the hub's registers at their reset values. HBM, the dies, and the run-time section stay (R387). The notices that contexts have
ended stay outstanding, and are sent again (R45, R279, R385). Of the links that are declared down the spec says nothing: the model
counts them as up again (DESIGN CHOICE, log 95; R44). -/
def hubLost (s : State) : State :=
  let s := (s.ctxs.map (·.1)).foldl destroyContext s
  { ownerRestart s with
    ctxs := [], launches := [], lseq := 0, served := [], head := none, images := [], preempting := [], rects := [], svcq := [], svcStat := 0,
    mboxes := [], mgmt := Mailbox.reset, steward := false, peerdead := 0, tmoremote := 0x4E20, elogaddr := 0, elogcause := 0,
    secnt := 0, mvdd := [], mhbmt := [], mhbmv := [], meye := 0, reqs := s.reqs.filter (fun r => r.kind == .gone), winq := [], cslots := [], corder := 0, heldPk := [], cposts := [],
    mgmtReq := none, hubFaults := [], migrating := [], exported := [], hostRead := 0, links := [] }

/-- A hub reset: the hub's state is lost, and the dies are admitted again (R387, R389); one that is excluded stays so until the
part is power-cycled (R391). -/
def hubReset (s : State) : State :=
  { hubLost s with
    teams := [], cores := tmap (fun _ c => { CoreRegs.reset with disabled := c.disabled }) s.cores,
    engines := tmap (fun _ e => { Engine.reset with disabled := e.disabled }) s.engines,
    dies := tmap (fun _ d => { Die.reset with excluded := d.excluded, spares := d.spares, slices := d.slices }) s.dies,
    l2 := [], marks := [], wpm := State.reset.wpm, stage := 0, svclvl := 0, bootFail := 0, admits := 0, attempts := 0 }

/-- HUB_RESET. -/
def execHubReset (s : State) : Host.Outcome State Fault Refusal :=
  match s.msg with
  | some .hubReset => .next (hubReset s)
  | _ => .fault .notEnabled

/-- What the firmware starts with (R24, R67, R380, R389): the service context, bound to no mailbox. -/
def startFirmware (s : State) (incs : List (Nat × Nat)) : State := createContext (learnIncs s incs) 0xFFF none

/-- The management mailbox is bound from SVCLVL 1 onward (R67). -/
def bindMgmt (s : State) : State := { s with mgmt := { s.mgmt with bound := decide (1 ≤ s.svclvl), bind := if 1 ≤ s.svclvl then 0xFFF else 0 } }

/-- FIRMWARE_RESTART: as a hub reset, but the dies' own state is kept (R387). -/
def execFirmwareRestart (s : State) : Host.Outcome State Fault Refusal :=
  match s.msg with
  | some (.firmwareRestart incs) =>
    if 3 ≤ s.stage && incsFull s incs then .next (bindMgmt (startFirmware (hubLost s) incs)) else .fault .notEnabled
  | _ => .fault .notEnabled

/-- Power is removed: everything is lost but what is fused or set by the carrier, and the loss of the hub's state is an owner
restart (R281, R387, R395). -/
def powerLost (s : State) : State :=
  { State.reset with
    timing := s.timing, inbox := s.inbox, stamp := s.stamp, free := s.free, powered := false,
    pkgid := s.pkgid, pod := s.pod, uePorts := s.uePorts, live := 2 ^ s.pkgid, inc := (s.inc + 1) % 2 ^ 16, defmap := s.defmap }

/-- POWER_OFF (R387). -/
def execPowerOff (s : State) : Host.Outcome State Fault Refusal :=
  match s.msg with
  | some .powerOff => .next (powerLost s)
  | _ => .fault .notEnabled

/-- OVER_TEMPERATURE_TRIP: the board controller removes power (R398). -/
def execOverTemperatureTrip (s : State) : Host.Outcome State Fault Refusal :=
  match s.msg with
  | some .trip => .next (powerLost s)
  | _ => .fault .notEnabled

/-! ### Boot (R388 to R390, Tables 26.1 to 26.3) -/

/-- BOOT_ROM_VERIFY: stage 1, and stage 2 when it passes; a failed check stops the part with FAIL, and a stage 2
that fails runs stage 1 again, at most three times (R389). -/
def execBootRomVerify (s : State) : Host.Outcome State Fault Refusal :=
  match s.msg with
  | some (.bootRom ecdsa lms version firmware incs) =>
    if s.stage ≥ 2 || s.bootFail != 0 || !incsFull s incs then .fault .notEnabled
    else
      let s := { s with powered := true, stage := 1 }
      if !ecdsa then .next { s with bootFail := 1 }
      else if !lms then .next { s with bootFail := 2 }
      else if !version then .next { s with bootFail := 3 }
      else if firmware then .next (startFirmware { s with stage := 3 } incs)
      else if s.attempts < 3 then .next { hubReset s with stage := 1, attempts := s.attempts + 1 }
      else .next { s with stage := 2, bootFail := 4 }
  | _ => .fault .notEnabled

/-- A die has been through stage 3. -/
def dieDone (s : State) (d : Nat) : Bool := (dieOf s d).admitted || (dieOf s d).excluded

/-- SELFTEST runs on a core as part of the boot, and SELFTESTSTAT has its result: a pass, or where it fails the environment's
(R389, R392). -/
def bootTest (pass : Bool) (pattern : Nat) (s : State) (core : Nat) : State :=
  if pass then modCore s core (fun c => { c with selftest := selftestWord pattern 0 0 0 }) else (runSelftest s core pattern).1

/-- The cores of a die that are not disabled. -/
def dieCores (s : State) (d : Nat) : List Nat := ((List.range 48).map (· + 48 * d)).filter (fun c => !coreDisabled s c)

/-- A die is excluded and recorded in the run-time section (R389, R395); STRUCT of the record is a free value, but not one that
would leave the record of an unused one (log 92). -/
def excludeDie (s : State) (d : Nat) : State :=
  appendRt { modDie s d (fun x => { x with excluded := true }) with excl := s.excl + 2 ^ d, free := s.free + 1 }
    (1 + Config.exclusionStruct s.free % 15) d 0 0

/-- DIE_ADMISSION (stage 3): in ascending number, each die is powered, trained and initialised, its cores run SELFTEST patterns 0
to 3, and it is admitted or excluded; the first admission raises SVCLVL to 1 (R389, R390). -/
def execDieAdmission (s : State) : Host.Outcome State Fault Refusal :=
  match s.msg with
  | some (.dieAdmission d power train init selftest) =>
    if s.stage != 3 || (List.range 8).find? (fun i => !dieDone s i) != some d then .fault .notEnabled
    else if !(power && train && init) then .next (excludeDie s d)
    else
      let s := (dieCores s d).foldl (bootTest selftest 3) s
      if !selftest then .next (excludeDie s d)
      else .next (bindMgmt { modDie s d (fun x => { x with admitted := true }) with
        admits := s.admits + 2 ^ d, svclvl := if s.svclvl = 0 then 1 else s.svclvl })
  | _ => .fault .notEnabled

/-- The quad of a die has a core that is not disabled. -/
def quadAlive (s : State) (q : Nat) : Bool := ((List.range 48).map (· + 48 * (q / 12))).any (fun c => quadNo c == q && !coreDisabled s c)

/-- Pattern 2 runs on an engine of the boot, on the first core of its quad that is not disabled. -/
def bootEngine (bad : List Nat) (s : State) (q : Nat) : State :=
  match (dieCores s (q / 12)).find? (fun c => quadNo c == q) with
  | some c => bootTest (!bad.contains q) 2 s c
  | none => s

/-- ENGINE_SELFTEST_STAGE (stage 4): pattern 2 runs on the engines, and failing engines of the admitted dies are recorded as disabled; with all
eight dies admitted SVCLVL becomes 2 (R389, R390). -/
def execEngineSelftestStage (s : State) : Host.Outcome State Fault Refusal :=
  match s.msg with
  | some (.engineSelftest bad) =>
    if s.stage != 3 || !(List.range 8).all (dieDone s) then .fault .notEnabled
    else
      let tested := (List.range 96).filter (fun q => (dieOf s (q / 12)).admitted && quadAlive s q)
      let s := tested.foldl (bootEngine bad) s
      let s := (tested.filter (fun q => bad.contains q)).foldl (fun s q => disableEngine q (appendRt s 5 (q / 12) (q % 12) 0)) s
      .next { s with stage := 4, svclvl := if s.admits = 0xFF then 2 else s.svclvl }
  | _ => .fault .notEnabled

/-! ### Power (R398) -/

/-- THERMAL_THROTTLE: the hottest dies drop to 350 MHz; SVCLVL is unchanged. -/
def execThermalThrottle (s : State) : Host.Outcome State Fault Refusal :=
  match s.msg with
  | some (.throttle ds) => .next ((ds.filter (fun d => decide (d < 8))).foldl (fun s d => modDie s d (fun x => { x with throttled := true })) s)
  | _ => .fault .notEnabled

/-- THERMAL_RECOVER. -/
def execThermalRecover (s : State) : Host.Outcome State Fault Refusal :=
  match s.msg with
  | some .recover => .next { s with dies := tmap (fun _ d => { d with throttled := false }) s.dies }
  | _ => .fault .notEnabled

/-! ### Errors in cells and their log (R358 to R364) -/

/-- CORRECTION_WINDOW_END: every correction count of the die returns to zero (R360). -/
def execCorrectionWindowEnd (s : State) : Host.Outcome State Fault Refusal :=
  match s.msg with
  | some (.correctionWindow d) => .next (modDie s d (fun x => { x with corr := [] }))
  | _ => .fault .notEnabled

/-- ELOG_ACK: the firmware's acknowledgement clears the log (R364), and its interrupt (log 87). -/
def execElogAck (s : State) : Host.Outcome State Fault Refusal :=
  match s.msg with
  | some .elogAck => .next { s with elogaddr := 0, elogcause := 0, steward := false }
  | _ => .fault .notEnabled

/-- What a structure of a core without a spare disables: its core (R361); the hub's buffers belong to none. -/
def disableUnit (die unit : Nat) (s : State) : State :=
  if die ≥ 8 then s
  else modCore s (48 * die + unit) (fun c => { c with disabled := true })

/-- A correctable error is met in a structure of Table 22.1, die 8 being the hub: it is corrected and counted (R358, R360,
R361). For the L2 and HBM its address names die, slice and row, the L2's way being in `row`; an engine's elements are checked by
its checksums, and only there (R254); of the others Table 22.4 gives no PA (log 3). -/
def meetSoftError (s : State) (struct die unit row pa : Nat) : State :=
  let slice := homeSlice pa
  let r := 16 * bitsAt pa 14 10 + row % 16
  if struct = 5 then s
  else if struct = 4 then correctHbm s pa
  else if struct = 3 then
    countCorrection s pa 3 (slice / 16) (slice % 16) (slice % 16) (corrKey 3 (slice % 16) r) r (disableSlice (slice / 16) (slice % 16))
  else
    countCorrection { s with free := s.free + 1 } ((Config.value s.free).toNat % 2 ^ 52) struct die unit unit
      (corrKey struct unit row) row (disableUnit die unit)

/-- An error that cannot be corrected strikes the tag of a line of the L2: the line is lost, and what it held that memory does not
is poisoned (R358, R362; the spec does not say what becomes of the line, log 88). -/
def strikeTag (s : State) (set way : Nat) : State :=
  match (tgetD s.l2 set []).find? (fun x => x.way == way) with
  | none => s
  | some x =>
    let slice := homeSlice (128 * x.line)
    let s := { s with l2 := tset s.l2 set ((tgetD s.l2 set []).filter (fun y => y.way != way)) }
    let s := if x.dirty then (List.range 4).foldl (fun s i => poisonSector s (4 * x.line + i) true) s else s
    logEvent s (128 * x.line) 3 3 (slice / 16) false (slice % 16)

/-- An error that cannot be corrected strikes a register: the code word of a v-register in one half of a group, or an
s-register (R358, Table 22.1). -/
def strikeRegister (s : State) (core grp n : Nat) (half : Option Nat) : State :=
  modGroup s core grp (fun g => match half with
    | none => { g with sbad := insertNat n g.sbad }
    | some h => { g with threads := g.threads.mapIdx (fun l t => if l / 32 == h then { t with bad := insertNat n t.bad } else t) })

/-- An error that cannot be corrected strikes what an ACTIVE channel has staged: it stops there with kind HOLE (R362). -/
def strikeStaging (s : State) (core k : Nat) : State :=
  match (tget s.teams core).bind (fun t => t.chan[k]?) with
  | some c => if c.st == .active then stopChan (logLost s 6 core) core k c 8 (c.src + c.p) else s
  | none => s

/-- Errors strike a tile: elements and checksums of rows and columns hold other values from now on (R254). -/
def strikeTile (s : State) (q i : Nat) (elems rows cols : List (Nat × BitVec 32 × BitVec 32)) : State :=
  let put (t : Tab (BitVec 32 × BitVec 32)) (xs : List (Nat × BitVec 32 × BitVec 32)) := xs.foldl (fun t x => tset t x.1 x.2) t
  modTile s q i (fun t => { t with elems := put t.elems elems, ckRow := put t.ckRow rows, ckCol := put t.ckCol cols })

/-! ### What the carrier and the steward firmware set (R41, R42, R215) -/

/-- The carrier's configuration: PKGID, N, and which of the ports N − 1 to 14 run Ultra Ethernet (R41, R42). -/
def configure (s : State) (pkgid pod : Nat) (ue : List Nat) : State :=
  if 1 ≤ pod && pod ≤ 16 && pkgid < pod then
    { s with pkgid := pkgid, pod := pod, uePorts := sortNat (ue.filter (fun p => decide (pod ≤ p + 1) && decide (p < 15))), live := 2 ^ pkgid }
  else s

/-- The way masks as the steward firmware sets them, 16 bits each (R215). -/
def setWayMasks (s : State) (masks : List Nat) : State :=
  { s with wpm := (List.range 8).map (fun i => masks.getD i 0xFFFF % 2 ^ 16) }

/-! ### BAR0 (R25, R67, R349, R388, R395) -/

/-- A register that the host may reach at an offset of BAR0 (Table 21.3). -/
def bar0Register (off : Nat) : Bool :=
  decide (off < 8) || (decide (0xF000 ≤ off) && decide (off < 0xF040))
  || (decide (0x10000 ≤ off) && decide (off < 0x11000)) || (decide (0x20000 ≤ off) && decide (off < 0x22000))

/-- BOOTSTAT (Table 26.1). -/
def bootstat (s : State) : Word :=
  word (s.stage % 16 + 2 ^ 4 * (s.svclvl % 4) + 2 ^ 8 * (s.bootFail % 256) + 2 ^ 16 * (s.admits % 256) + 2 ^ 24 * (s.excl % 256))

/-- A word of a mailbox (Table 2.1). -/
def mailboxWord (x : Mailbox) (off : Nat) : Word :=
  match off / 8 with
  | 0 => x.op
  | 1 => x.recaddr
  | 2 => word (x.status % 256 + 2 ^ 8 * (x.reason % 256) + (if x.busy then 2 ^ 16 else 0) + (if x.done then 2 ^ 17 else 0))
  | 3 => word (x.bind % 4096 + (if x.bound then 4096 else 0))
  | _ => 0

/-- What a host's read of the 8-byte word at an offset returns. -/
def bar0Read (s : State) (off : Nat) : Word :=
  if off < 8 then bootstat s
  else if !bar0Open s || !bar0Register off then 0
  else if off < 0x10000 then mailboxWord s.mgmt (off - 0xF000)
  else if off < 0x11000 then mailboxWord (mboxOf s ((off - 0x10000) / 64)) (off % 64)
  else if off < 0x21000 then word (memNat s.defmap ((off - 0x20000) / 8 * 8) 8)
  else s.defrt.getD ((off - 0x21000) / 8) 0

/-- HOST_BAR0_INVALID_ACCESS: reads return zero, writes are ignored, and the hub logs it (R349); before stage 2
is complete nothing is logged (R388). -/
def execHostBar0InvalidAccess (s : State) : Host.Outcome State Fault Refusal :=
  match s.msg with
  | some (.hostBar0 wr off) =>
    if bar0Register off then .fault .notEnabled
    else
      let s := if bar0Open s then logViolation s off else s
      .next (if wr then s else { s with hostRead := 0 })
  | _ => .fault .notEnabled

end Sys2Proof.Machine
end

