-- ==== Sys2Proof/Machine/Dictionary.lean ====
section
/-! DEFINITION. Dictionary codes (R14, R73, R74, R90). -/

namespace Sys2Proof.Machine

/-- The word of an entry executes as if it stood at the code's address; only a 32-bit core word can stand in a
dictionary (check 3). -/
def execEntry (i : Instr) (s : State) : Host.Outcome State Fault Refusal :=
  match i with
  | .braB w => execBraB w s
  | .callB w => execCallB w s
  | .iaddI32K w => execIaddI32K w s
  | .iaddI64K w => execIaddI64K w s
  | .isubI32K w => execIsubI32K w s
  | .imulI32K w => execImulI32K w s
  | .shlN32K w => execShlN32K w s
  | .shrN32K w => execShrN32K w s
  | .bitfAndK w => execBitfAndK w s
  | .bitfOrK w => execBitfOrK w s
  | .bitfXorK w => execBitfXorK w s
  | .faddF32K w => execFaddF32K w s
  | .fmulF32K w => execFmulF32K w s
  | .ffmaF32K w => execFfmaF32K w s
  | .faddBf16K w => execFaddBf16K w s
  | .fmulBf16K w => execFmulBf16K w s
  | .ffmaBf16K w => execFfmaBf16K w s
  | .fminF32K w => execFminF32K w s
  | .fmaxF32K w => execFmaxF32K w s
  | .movK w => execMovK w s
  | .ldgN32K w => execLdgN32K w s
  | .ldgN64K w => execLdgN64K w s
  | .stgN32K w => execStgN32K w s
  | .stgN64K w => execStgN64K w s
  | .ldsN32K w => execLdsN32K w s
  | .ldsN64K w => execLdsN64K w s
  | .stsN32K w => execStsN32K w s
  | .stsN64K w => execStsN64K w s
  | .iaddI32J w => execIaddI32J w s
  | .iaddI64J w => execIaddI64J w s
  | .shlN32J w => execShlN32J w s
  | .shrN32J w => execShrN32J w s
  | .bitfAndJ w => execBitfAndJ w s
  | .moviI32J w => execMoviI32J w s
  | .illegalK b => execIllegalK b s
  | .unassignedOpcode w => execUnassignedOpcode w s
  | _ => illegalWord 0x03 s

/-- The trap of a code whose dictionary could not be read (R14). -/
def dictTrap (l : Launch) (kind idx : Nat) : TrapInfo := kindTrap kind (recDict l.rec_ + 4 * idx)

/-- D16_CODE: check 1, entry 0 and DICT = 0, the fault of an unreadable dictionary, check 3, then the entry
with the S of the code OR its own (R14, R74, Table 5.11). -/
def execD16Code (w : D16Word) (s : State) : Host.Outcome State Fault Refusal :=
  let s := { s with iss := { s.iss with len := 2, d16 := some w } }
  let idx := w.idx.toNat
  match (tget s.teams s.iss.core).bind (fun t => launchAt s t.launch), groupAt s s.iss.core s.iss.grp with
  | some l, some g =>
    let act := activeLanes g s.iss.pc
    if act.isEmpty then .fault .noIssuingGroup
    else if w.rsvd != 0#3 then illegalWord 0x01 s
    else if idx = 0 || recDict l.rec_ = 0 then illegalWord 0x02 s
    else match l.dictBad with
      | some k => .next (takeTrap s s.iss.core s.iss.grp (dictTrap l k idx) s.iss.pc s.iss.pc false false act)
      | none =>
        let e := ((l.dict.getD []).getD idx 0).toNat % 2 ^ 32
        if e % 4 != 1 then illegalWord 0x03 s
        else execEntry (decode32 (if w.s && !nbit e 2 then e + 4 else e)) s
  | _, _ => .fault .noIssuingGroup

end Sys2Proof.Machine
end

