-- ==== Sys2Proof/Machine/Lane.lean ====
section
/-! DEFINITION. Cross-lane instructions, OP9 0x0E0 to 0x0E5 (R200 to R204). -/

namespace Sys2Proof.Machine

/-- The width W of the declared group. -/
def Ic.width (c : Ic) : Nat := c.g.threads.length

/-- A register as another lane reads it: a vacant lane's own reads as zero, an s-register is the group's (R81, R99, R200). -/
def otherLane (c : Ic) (l : Nat) (f : BitVec 8) : Word := if (c.g.lane l).live || !isV f then c.rd l f else 0

/-- The A register has lost its value in a live lane of a list (R358). -/
def lanesLost (c : Ic) (ls : List Nat) : Bool :=
  isV c.w.a && ls.any (fun l => (c.g.lane l).live && (c.g.lane l).bad.contains c.w.a.toNat)

/-- The lanes that an instruction reads besides its own hold a value: a lost one is consumed, enabled or not (R200, R362). -/
def readAcross (c : Ic) (ls : List Nat) : Except Stop Unit :=
  need (!lanesLost c ls) (.failed (logLost c.s 1 c.core) (registerTrap (true, c.w.a.toNat)))

/-- A cross-lane instruction on the vector port, long, with one destination by lane; `reads` lists the lanes whose A register it
reads besides its own. -/
def laneInstr (w : LongWord) (sh : Shape) (reads : Ic → List Nat) (f : Ic → Nat → Word) (s : State) :
    Host.Outcome State Fault Refusal :=
  issue s w sh { entry := true, dests := [destOf w.d] } (fun c => do
    readAcross c (reads c)
    .ok (enterLong c [destOf w.d] Ord.relaxed .values (c.en.map (fun l => (l, f c l)))))

/-- SHFL: the lane that a mode and an operand name, when it lies in the group (R201). -/
def shflLane (mode l n width : Nat) : Option Nat :=
  let s : Int := match mode with
    | 0 => (n : Int)
    | 1 => (l : Int) - (n : Int)
    | 2 => (l : Int) + (n : Int)
    | _ => ((l ^^^ n : Nat) : Int)
  if 0 ≤ s ∧ s < (width : Int) then some s.toNat else none

/-- The lanes that SHFL reads. -/
def shflReads (w : LongWord) (c : Ic) : List Nat :=
  c.en.filterMap (fun l => shflLane w.m6.toNat l ((opB c (subNo w) l).toNat % 64) c.width)

/-- SHFL: the operand's bits above 5 are ignored (R201). -/
def execShfl (w : LongWord) (s : State) : Host.Outcome State Fault Refusal :=
  laneInstr w
    { sub := subNo w ≤ 1, m6 := w.m6.toNat < 4, d := .dst 1, a := .src 1, b := .src 1, port := .vector, ok12 := litFits (subNo w) w }
    (shflReads w) (fun c l => match shflLane w.m6.toNat l ((opB c (subNo w) l).toNat % 64) c.width with
      | some k => otherLane c k w.a
      | none => c.rd l w.a) s

/-- A type code that BCAST admits. -/
def bcastType (t : Nat) : Bool := t ≤ 0xC || t == 0x18

/-- A result formed from lanes: once for an s-register, or in every enabled lane (R81, R200). -/
def splatResult (c : Ic) (x : Word) : Eff :=
  enterLong c [destOf c.w.d] Ord.relaxed .values ((if isV c.w.d then c.en else [0]).map (fun l => (l, x)))

/-- The operand of BCAST: that of the lowest enabled lane (R201). -/
def bcastOp (w : LongWord) (c : Ic) : Nat := (opB c (subNo w) ((minNat c.en).getD 0)).toNat

/-- BCAST (R201). -/
def execBcast (w : LongWord) (s : State) : Host.Outcome State Fault Refusal :=
  let t := subNo w
  issue s w
    { sub := bcastType t, m6 := layoutZ w, d := .dst 1, a := .src 1, b := .src 1, port := .lanes, ok12 := litFits t w }
    { entry := true, dests := [destOf w.d] } (fun c => do
      let i := bcastOp w c
      let l := bitsAt i 0 6 % c.width
      readAcross c [l]
      let x := elem (tyBits t) (bitsAt i 6 4 % (64 / tyBits t)) (otherLane c l w.a)
      .ok (splatResult c (perElem t (fun _ => x))))

/-- The sub-element that PERM puts at place k of a lane, as its place in the group's flat range (R201). -/
def permFrom (w : LongWord) (c : Ic) (l k : Nat) : Nat :=
  let n := 64 / tyBits (subNo w)
  elem (tyBits (subNo w)) k (c.rd l w.b) % (c.width * n)

/-- The lanes that PERM reads. -/
def permReads (w : LongWord) (c : Ic) : List Nat :=
  let n := 64 / tyBits (subNo w)
  c.en.flatMap (fun l => (List.range n).map (fun k => permFrom w c l k / n))

/-- PERM (R201). -/
def execPerm (w : LongWord) (s : State) : Host.Outcome State Fault Refusal :=
  let t := subNo w
  let n := 64 / tyBits t
  laneInstr w
    { form := w.lit.isNone, sub := t ≤ 5 || (8 ≤ t && t ≤ 0xA), m6 := layoutZ w, d := .dst 1, a := .src 1, b := .src 1, port := .vector }
    (permReads w) (fun c l => perElem t (fun k =>
      let p := permFrom w c l k
      elem (tyBits t) (p % n) (otherLane c (p / n) w.a))) s

/-- The mask of the enabled lanes whose sub-element 0 equals lane l's (R202). -/
def matchLanes (c : Ic) (t l : Nat) : List Nat :=
  c.en.filter (fun m => elem (tyBits t) 0 (c.rd m c.w.a) == elem (tyBits t) 0 (c.rd l c.w.a))

/-- MATCH: the masks, and the leader of each in p[C]; with C = p0 only the masks (R202). -/
def execMatchOp (w : LongWord) (s : State) : Host.Outcome State Fault Refusal :=
  let t := subNo w
  let ds := if w.c == 0#8 then [destOf w.d] else [destOf w.d, .p w.c.toNat]
  issue s w
    { form := w.lit.isNone, sub := t ≤ 0xC, m6 := layoutZ w, d := .dst 1, a := .src 1, c := .pdst, port := .vector }
    { entry := true, dests := ds } (fun c =>
      .ok (enterLong c ds Ord.relaxed .values
        (c.en.map (fun l => (l, word ((matchLanes c t l).map (fun m => 2 ^ m)).sum))
         ++ c.en.map (fun l => (64 + l, if minNat (matchLanes c t l) == some l then 1 else 0)))))

/-! ### REDL, SCANL (R203, R204) -/

/-- id(op, t) of Table 11.1. -/
def redId (op t : Nat) : Nat :=
  let w := tyBits t
  match fmtOf t with
  | some f => if op = 0 then f.pack true 0 0 else f.round 0 false none (.inf (op == 2))
  | none =>
    match op with
    | 1 => if tySigned t then 2 ^ (w - 1) - 1 else 2 ^ w - 1
    | 2 => if tySigned t then 2 ^ (w - 1) else 0
    | 3 => 2 ^ w - 1
    | _ => 0

/-- The combining function f of R203 on codes. -/
def redOp (op t rm a b : Nat) : Nat :=
  match fmtOf t with
  | some f =>
    let x := f.read a
    let y := f.read b
    if op = 0 then f.round rm false none (numAdd rm x y)
    else if op = 1 then f.same (numMin x y) else f.same (numMax x y)
  | none =>
    match op with
    | 0 => (a + b) % 2 ^ tyBits t
    | 1 => if tyInt t a ≤ tyInt t b then a else b
    | 2 => if tyInt t b ≤ tyInt t a then a else b
    | 3 => a &&& b
    | 4 => a ||| b
    | _ => a ^^^ b

/-- One level of the tree: neighbours combined. -/
def pairUp (f : Nat → Nat → Nat) : List Nat → List Nat
  | a :: b :: r => f a b :: pairUp f r
  | l => l

/-- The fixed balanced tree over the lane positions, `n` levels (R203). -/
def treeFold (f : Nat → Nat → Nat) : Nat → List Nat → List Nat
  | 0, l => l
  | n + 1, l => treeFold f n (pairUp f l)

/-- The running fold of SCANL: the values after each position. -/
def scanFold (f : Nat → Nat → Nat) : Option Nat → List Nat → List Nat
  | _, [] => []
  | none, x :: r => x :: scanFold f (some x) r
  | some a, x :: r => let y := f a x; y :: scanFold f (some y) r

/-- x_l of R203: the sub-element of an enabled lane, or the identity. -/
def contrib (c : Ic) (op t k : Nat) : List Nat :=
  (List.range c.width).map (fun l => if c.en.contains l then elem (tyBits t) k (c.rd l c.w.a) else redId op t)

/-- M6 of REDL and SCANL (R203). -/
def redM6 (w : LongWord) (excl : Bool) : Bool :=
  let op := w.m6.toNat % 8
  let isF := 8 ≤ subNo w
  op ≤ 5 && !(isF && op ≥ 3) && (isF && op == 0 || bitsAt w.m6.toNat 3 2 == 0) && (excl || w.m6.toNat < 32)

/-- REDL (R203). -/
def execRedl (w : LongWord) (s : State) : Host.Outcome State Fault Refusal :=
  let t := subNo w
  let op := w.m6.toNat % 8
  let rm := bitsAt w.m6.toNat 3 2
  issue s w { form := w.lit.isNone, sub := t ≤ 0xA, m6 := redM6 w false, d := .dst 1, a := .src 1, port := .lanes }
    { entry := true, dests := [destOf w.d] } (fun c =>
      .ok (splatResult c (perElem t (fun k => (treeFold (redOp op t rm) 6 (contrib c op t k)).headD 0))))

/-- SCANL (R204). -/
def execScanl (w : LongWord) (s : State) : Host.Outcome State Fault Refusal :=
  let t := subNo w
  let op := w.m6.toNat % 8
  let rm := bitsAt w.m6.toNat 3 2
  laneInstr w { form := w.lit.isNone, sub := t ≤ 0xA, m6 := redM6 w true, d := .dst 1, a := .src 1, port := .vector }
    (fun _ => []) (fun c l => perElem t (fun k =>
      let r := scanFold (redOp op t rm) none (contrib c op t k)
      if nbit w.m6.toNat 5 then (redId op t :: r).getD l 0 else r.getD l 0)) s

end Sys2Proof.Machine
end

