-- ==== Sys2Proof/Machine/Dispatch.lean ====
section
/-! DEFINITION. One arm per constructor of Instr: which meaning an instruction or event has. -/

namespace Sys2Proof.Machine

/-- The dispatch of every step of the part to its meaning. -/
def exec (i : Instr) (s : State) : Host.Outcome State Fault Refusal :=
  match i with
  | .d16Code w => Sys2Proof.Machine.execD16Code w s
  | .illegalD16 => Sys2Proof.Machine.execIllegalD16 s
  | .illegalK bits => Sys2Proof.Machine.execIllegalK bits s
  | .illegalW w => Sys2Proof.Machine.execIllegalW w s
  | .illegalX w => Sys2Proof.Machine.execIllegalX w s
  | .nop w => Sys2Proof.Machine.execNop w s
  | .bra w => Sys2Proof.Machine.execBra w s
  | .braB w => Sys2Proof.Machine.execBraB w s
  | .brx w => Sys2Proof.Machine.execBrx w s
  | .call w => Sys2Proof.Machine.execCall w s
  | .callB w => Sys2Proof.Machine.execCallB w s
  | .callx w => Sys2Proof.Machine.execCallx w s
  | .ret w => Sys2Proof.Machine.execRet w s
  | .loop w => Sys2Proof.Machine.execLoop w s
  | .loopImm w => Sys2Proof.Machine.execLoopImm w s
  | .lbrk w => Sys2Proof.Machine.execLbrk w s
  | .reform w => Sys2Proof.Machine.execReform w s
  | .exit w => Sys2Proof.Machine.execExit w s
  | .yield w => Sys2Proof.Machine.execYield w s
  | .trap w => Sys2Proof.Machine.execTrap w s
  | .launch w => Sys2Proof.Machine.execLaunch w s
  | .clock w => Sys2Proof.Machine.execClock w s
  | .elect w => Sys2Proof.Machine.execElect w s
  | .setprio w => Sys2Proof.Machine.execSetprio w s
  | .pseti w => Sys2Proof.Machine.execPseti w s
  | .psetf w => Sys2Proof.Machine.execPsetf w s
  | .plop w => Sys2Proof.Machine.execPlop w s
  | .pmovGet w => Sys2Proof.Machine.execPmovGet w s
  | .pmovSet w => Sys2Proof.Machine.execPmovSet w s
  | .pvoteSome w => Sys2Proof.Machine.execPvoteSome w s
  | .pvoteEvery w => Sys2Proof.Machine.execPvoteEvery w s
  | .pvoteSame w => Sys2Proof.Machine.execPvoteSame w s
  | .pvoteMask w => Sys2Proof.Machine.execPvoteMask w s
  | .pvoteCount w => Sys2Proof.Machine.execPvoteCount w s
  | .iadd w => Sys2Proof.Machine.execIadd w s
  | .iaddI32K w => Sys2Proof.Machine.execIaddI32K w s
  | .iaddI64K w => Sys2Proof.Machine.execIaddI64K w s
  | .iaddI32J w => Sys2Proof.Machine.execIaddI32J w s
  | .iaddI64J w => Sys2Proof.Machine.execIaddI64J w s
  | .isub w => Sys2Proof.Machine.execIsub w s
  | .isubI32K w => Sys2Proof.Machine.execIsubI32K w s
  | .imin w => Sys2Proof.Machine.execImin w s
  | .imax w => Sys2Proof.Machine.execImax w s
  | .imul w => Sys2Proof.Machine.execImul w s
  | .imulI32K w => Sys2Proof.Machine.execImulI32K w s
  | .imulh w => Sys2Proof.Machine.execImulh w s
  | .imad w => Sys2Proof.Machine.execImad w s
  | .idiv w => Sys2Proof.Machine.execIdiv w s
  | .iabs w => Sys2Proof.Machine.execIabs w s
  | .popc w => Sys2Proof.Machine.execPopc w s
  | .clz w => Sys2Proof.Machine.execClz w s
  | .brev w => Sys2Proof.Machine.execBrev w s
  | .shl w => Sys2Proof.Machine.execShl w s
  | .shlN32K w => Sys2Proof.Machine.execShlN32K w s
  | .shlN32J w => Sys2Proof.Machine.execShlN32J w s
  | .shr w => Sys2Proof.Machine.execShr w s
  | .shrN32K w => Sys2Proof.Machine.execShrN32K w s
  | .shrN32J w => Sys2Proof.Machine.execShrN32J w s
  | .shra w => Sys2Proof.Machine.execShra w s
  | .rot w => Sys2Proof.Machine.execRot w s
  | .bitf w => Sys2Proof.Machine.execBitf w s
  | .bitfAndK w => Sys2Proof.Machine.execBitfAndK w s
  | .bitfOrK w => Sys2Proof.Machine.execBitfOrK w s
  | .bitfXorK w => Sys2Proof.Machine.execBitfXorK w s
  | .bitfAndJ w => Sys2Proof.Machine.execBitfAndJ w s
  | .bfx w => Sys2Proof.Machine.execBfx w s
  | .bfi w => Sys2Proof.Machine.execBfi w s
  | .sel w => Sys2Proof.Machine.execSel w s
  | .mov w => Sys2Proof.Machine.execMov w s
  | .movK w => Sys2Proof.Machine.execMovK w s
  | .movi w => Sys2Proof.Machine.execMovi w s
  | .moviI32J w => Sys2Proof.Machine.execMoviI32J w s
  | .movs w => Sys2Proof.Machine.execMovs w s
  | .lea w => Sys2Proof.Machine.execLea w s
  | .cvti w => Sys2Proof.Machine.execCvti w s
  | .fadd w => Sys2Proof.Machine.execFadd w s
  | .faddF32K w => Sys2Proof.Machine.execFaddF32K w s
  | .faddBf16K w => Sys2Proof.Machine.execFaddBf16K w s
  | .fsub w => Sys2Proof.Machine.execFsub w s
  | .fmul w => Sys2Proof.Machine.execFmul w s
  | .fmulF32K w => Sys2Proof.Machine.execFmulF32K w s
  | .fmulBf16K w => Sys2Proof.Machine.execFmulBf16K w s
  | .ffma w => Sys2Proof.Machine.execFfma w s
  | .ffmaF32K w => Sys2Proof.Machine.execFfmaF32K w s
  | .ffmaBf16K w => Sys2Proof.Machine.execFfmaBf16K w s
  | .fmin w => Sys2Proof.Machine.execFmin w s
  | .fminF32K w => Sys2Proof.Machine.execFminF32K w s
  | .fmax w => Sys2Proof.Machine.execFmax w s
  | .fmaxF32K w => Sys2Proof.Machine.execFmaxF32K w s
  | .fclass w => Sys2Proof.Machine.execFclass w s
  | .frnd w => Sys2Proof.Machine.execFrnd w s
  | .fcvt w => Sys2Proof.Machine.execFcvt w s
  | .fcvti w => Sys2Proof.Machine.execFcvti w s
  | .icvtf w => Sys2Proof.Machine.execIcvtf w s
  | .fdot w => Sys2Proof.Machine.execFdot w s
  | .fscale w => Sys2Proof.Machine.execFscale w s
  | .frcp w => Sys2Proof.Machine.execFrcp w s
  | .frsq w => Sys2Proof.Machine.execFrsq w s
  | .fsqrt w => Sys2Proof.Machine.execFsqrt w s
  | .fexp2 w => Sys2Proof.Machine.execFexp2 w s
  | .flog2 w => Sys2Proof.Machine.execFlog2 w s
  | .fsin w => Sys2Proof.Machine.execFsin w s
  | .fcos w => Sys2Proof.Machine.execFcos w s
  | .ftanh w => Sys2Proof.Machine.execFtanh w s
  | .bqnt w => Sys2Proof.Machine.execBqnt w s
  | .bdeq w => Sys2Proof.Machine.execBdeq w s
  | .zpsub w => Sys2Proof.Machine.execZpsub w s
  | .pack w => Sys2Proof.Machine.execPack w s
  | .unpack w => Sys2Proof.Machine.execUnpack w s
  | .amaxb w => Sys2Proof.Machine.execAmaxb w s
  | .shfl w => Sys2Proof.Machine.execShfl w s
  | .bcast w => Sys2Proof.Machine.execBcast w s
  | .perm w => Sys2Proof.Machine.execPerm w s
  | .matchOp w => Sys2Proof.Machine.execMatchOp w s
  | .redl w => Sys2Proof.Machine.execRedl w s
  | .scanl w => Sys2Proof.Machine.execScanl w s
  | .ldg w => Sys2Proof.Machine.execLdg w s
  | .ldgN32K w => Sys2Proof.Machine.execLdgN32K w s
  | .ldgN64K w => Sys2Proof.Machine.execLdgN64K w s
  | .stg w => Sys2Proof.Machine.execStg w s
  | .stgN32K w => Sys2Proof.Machine.execStgN32K w s
  | .stgN64K w => Sys2Proof.Machine.execStgN64K w s
  | .ldc w => Sys2Proof.Machine.execLdc w s
  | .lds w => Sys2Proof.Machine.execLds w s
  | .ldsN32K w => Sys2Proof.Machine.execLdsN32K w s
  | .ldsN64K w => Sys2Proof.Machine.execLdsN64K w s
  | .sts w => Sys2Proof.Machine.execSts w s
  | .stsN32K w => Sys2Proof.Machine.execStsN32K w s
  | .stsN64K w => Sys2Proof.Machine.execStsN64K w s
  | .ldx w => Sys2Proof.Machine.execLdx w s
  | .stx w => Sys2Proof.Machine.execStx w s
  | .pref w => Sys2Proof.Machine.execPref w s
  | .ldb w => Sys2Proof.Machine.execLdb w s
  | .stb w => Sys2Proof.Machine.execStb w s
  | .cmntPin w => Sys2Proof.Machine.execCmntPin w s
  | .cmntUnpin w => Sys2Proof.Machine.execCmntUnpin w s
  | .cmntClean w => Sys2Proof.Machine.execCmntClean w s
  | .cmntEvict w => Sys2Proof.Machine.execCmntEvict w s
  | .cmntL1inv w => Sys2Proof.Machine.execCmntL1inv w s
  | .cpy w => Sys2Proof.Machine.execCpy w s
  | .cpym w => Sys2Proof.Machine.execCpym w s
  | .cpyg w => Sys2Proof.Machine.execCpyg w s
  | .cpygSpad w => Sys2Proof.Machine.execCpygSpad w s
  | .publ w => Sys2Proof.Machine.execPubl w s
  | .cwait w => Sys2Proof.Machine.execCwait w s
  | .cwaitStat w => Sys2Proof.Machine.execCwaitStat w s
  | .wptr w => Sys2Proof.Machine.execWptr w s
  | .ccan w => Sys2Proof.Machine.execCcan w s
  | .atom w => Sys2Proof.Machine.execAtom w s
  | .red w => Sys2Proof.Machine.execRed w s
  | .atoms w => Sys2Proof.Machine.execAtoms w s
  | .atomx w => Sys2Proof.Machine.execAtomx w s
  | .tbegin w => Sys2Proof.Machine.execTbegin w s
  | .tcommit w => Sys2Proof.Machine.execTcommit w s
  | .tabort w => Sys2Proof.Machine.execTabort w s
  | .tstat w => Sys2Proof.Machine.execTstat w s
  | .fence w => Sys2Proof.Machine.execFence w s
  | .bar w => Sys2Proof.Machine.execBar w s
  | .cbar w => Sys2Proof.Machine.execCbar w s
  | .cbarCopy w => Sys2Proof.Machine.execCbarCopy w s
  | .arrive w => Sys2Proof.Machine.execArrive w s
  | .waitv w => Sys2Proof.Machine.execWaitv w s
  | .tokenWait w => Sys2Proof.Machine.execTokenWait w s
  | .tokenPass w => Sys2Proof.Machine.execTokenPass w s
  | .mrsv w => Sys2Proof.Machine.execMrsv w s
  | .mrsvAcc w => Sys2Proof.Machine.execMrsvAcc w s
  | .mrel w => Sys2Proof.Machine.execMrel w s
  | .mrelAcc w => Sys2Proof.Machine.execMrelAcc w s
  | .mma w => Sys2Proof.Machine.execMma w s
  | .mwait w => Sys2Proof.Machine.execMwait w s
  | .mwaitAll w => Sys2Proof.Machine.execMwaitAll w s
  | .mdrain w => Sys2Proof.Machine.execMdrain w s
  | .mzero w => Sys2Proof.Machine.execMzero w s
  | .msave w => Sys2Proof.Machine.execMsave w s
  | .mload w => Sys2Proof.Machine.execMload w s
  | .mchk w => Sys2Proof.Machine.execMchk w s
  | .japp w => Sys2Proof.Machine.execJapp w s
  | .emit w => Sys2Proof.Machine.execEmit w s
  | .jsync w => Sys2Proof.Machine.execJsync w s
  | .jsyncCtx w => Sys2Proof.Machine.execJsyncCtx w s
  | .jtrunc w => Sys2Proof.Machine.execJtrunc w s
  | .jseed w => Sys2Proof.Machine.execJseed w s
  | .sopen w => Sys2Proof.Machine.execSopen w s
  | .sclose w => Sys2Proof.Machine.execSclose w s
  | .csrr w => Sys2Proof.Machine.execCsrr w s
  | .csrw w => Sys2Proof.Machine.execCsrw w s
  | .csrxSwap w => Sys2Proof.Machine.execCsrxSwap w s
  | .csrxSet w => Sys2Proof.Machine.execCsrxSet w s
  | .csrxClr w => Sys2Proof.Machine.execCsrxClr w s
  | .trapret w => Sys2Proof.Machine.execTrapret w s
  | .region w => Sys2Proof.Machine.execRegion w s
  | .tlbinvCtx w => Sys2Proof.Machine.execTlbinvCtx w s
  | .tlbinvRange w => Sys2Proof.Machine.execTlbinvRange w s
  | .tlbinvAll w => Sys2Proof.Machine.execTlbinvAll w s
  | .selftestLane w => Sys2Proof.Machine.execSelftestLane w s
  | .selftestL1 w => Sys2Proof.Machine.execSelftestL1 w s
  | .selftestEngine w => Sys2Proof.Machine.execSelftestEngine w s
  | .selftestRfull w => Sys2Proof.Machine.execSelftestRfull w s
  | .selftestLink w => Sys2Proof.Machine.execSelftestLink w s
  | .caramelHalt w => Sys2Proof.Machine.execCaramelHalt w s
  | .caramelMatch w => Sys2Proof.Machine.execCaramelMatch w s
  | .caramelMatchx w => Sys2Proof.Machine.execCaramelMatchx w s
  | .caramelRecv w => Sys2Proof.Machine.execCaramelRecv w s
  | .caramelWaitn w => Sys2Proof.Machine.execCaramelWaitn w s
  | .caramelComb w => Sys2Proof.Machine.execCaramelComb w s
  | .caramelCombo w => Sys2Proof.Machine.execCaramelCombo w s
  | .caramelCvt w => Sys2Proof.Machine.execCaramelCvt w s
  | .caramelFwd w => Sys2Proof.Machine.execCaramelFwd w s
  | .caramelMcast w => Sys2Proof.Machine.execCaramelMcast w s
  | .caramelSend w => Sys2Proof.Machine.execCaramelSend w s
  | .caramelGath w => Sys2Proof.Machine.execCaramelGath w s
  | .caramelScat w => Sys2Proof.Machine.execCaramelScat w s
  | .caramelDrop w => Sys2Proof.Machine.execCaramelDrop w s
  | .caramelLdk w => Sys2Proof.Machine.execCaramelLdk w s
  | .caramelSetk w => Sys2Proof.Machine.execCaramelSetk w s
  | .caramelAddk w => Sys2Proof.Machine.execCaramelAddk w s
  | .caramelBrk w => Sys2Proof.Machine.execCaramelBrk w s
  | .caramelBnz w => Sys2Proof.Machine.execCaramelBnz w s
  | .caramelLoopk w => Sys2Proof.Machine.execCaramelLoopk w s
  | .caramelPost w => Sys2Proof.Machine.execCaramelPost w s
  | .caramelDone w => Sys2Proof.Machine.execCaramelDone w s
  | .unassignedOpcode w => Sys2Proof.Machine.execUnassignedOpcode w s
  | .caramelIllegalWord w => Sys2Proof.Machine.execCaramelIllegalWord w s
  | .exitDrainComplete => Sys2Proof.Machine.execExitDrainComplete s
  | .yieldTimeout => Sys2Proof.Machine.execYieldTimeout s
  | .publSwap => Sys2Proof.Machine.execPublSwap s
  | .copySectorDelivered => Sys2Proof.Machine.execCopySectorDelivered s
  | .copyPreemptPause => Sys2Proof.Machine.execCopyPreemptPause s
  | .scFenceMarker => Sys2Proof.Machine.execScFenceMarker s
  | .waitvPoll => Sys2Proof.Machine.execWaitvPoll s
  | .commitTokenHandover => Sys2Proof.Machine.execCommitTokenHandover s
  | .edetwaitTimeout => Sys2Proof.Machine.execEdetwaitTimeout s
  | .mrsvCopyComplete => Sys2Proof.Machine.execMrsvCopyComplete s
  | .mrelPerform => Sys2Proof.Machine.execMrelPerform s
  | .engineGrant => Sys2Proof.Machine.execEngineGrant s
  | .engineEntryAge => Sys2Proof.Machine.execEngineEntryAge s
  | .engineCommandComplete => Sys2Proof.Machine.execEngineCommandComplete s
  | .jsyncStallTimeout => Sys2Proof.Machine.execJsyncStallTimeout s
  | .journalRecordAtPartner => Sys2Proof.Machine.execJournalRecordAtPartner s
  | .journalAck => Sys2Proof.Machine.execJournalAck s
  | .replayJournalFetch => Sys2Proof.Machine.execReplayJournalFetch s
  | .streamCloseDrain => Sys2Proof.Machine.execStreamCloseDrain s
  | .streamClosed => Sys2Proof.Machine.execStreamClosed s
  | .tlbinvComplete => Sys2Proof.Machine.execTlbinvComplete s
  | .longResultReturn => Sys2Proof.Machine.execLongResultReturn s
  | .parkCommit => Sys2Proof.Machine.execParkCommit s
  | .pageFaultResolved => Sys2Proof.Machine.execPageFaultResolved s
  | .ottEntryGrant => Sys2Proof.Machine.execOttEntryGrant s
  | .tableWalkDone => Sys2Proof.Machine.execTableWalkDone s
  | .lldWindowEnd => Sys2Proof.Machine.execLldWindowEnd s
  | .reformBinAgeExpiry => Sys2Proof.Machine.execReformBinAgeExpiry s
  | .reformBinDraw => Sys2Proof.Machine.execReformBinDraw s
  | .reformDetDrain => Sys2Proof.Machine.execReformDetDrain s
  | .wcDrain => Sys2Proof.Machine.execWcDrain s
  | .wcAgeExpiry => Sys2Proof.Machine.execWcAgeExpiry s
  | .wcDrainAck => Sys2Proof.Machine.execWcDrainAck s
  | .remoteReadAtOwner => Sys2Proof.Machine.execRemoteReadAtOwner s
  | .remoteWriteAtOwner => Sys2Proof.Machine.execRemoteWriteAtOwner s
  | .streamRequestAtOwner => Sys2Proof.Machine.execStreamRequestAtOwner s
  | .lowWaterUpdate => Sys2Proof.Machine.execLowWaterUpdate s
  | .lwmIdleSend => Sys2Proof.Machine.execLwmIdleSend s
  | .remoteAnswer => Sys2Proof.Machine.execRemoteAnswer s
  | .remoteTimeout => Sys2Proof.Machine.execRemoteTimeout s
  | .busyResend => Sys2Proof.Machine.execBusyResend s
  | .yptPacketExpire => Sys2Proof.Machine.execYptPacketExpire s
  | .ownerRestart => Sys2Proof.Machine.execOwnerRestart s
  | .linkDown => Sys2Proof.Machine.execLinkDown s
  | .linkRecover => Sys2Proof.Machine.execLinkRecover s
  | .membershipChange => Sys2Proof.Machine.execMembershipChange s
  | .packageRejoin => Sys2Proof.Machine.execPackageRejoin s
  | .arm => Sys2Proof.Machine.execArm s
  | .seal => Sys2Proof.Machine.execSeal s
  | .disarm => Sys2Proof.Machine.execDisarm s
  | .windowDataStore => Sys2Proof.Machine.execWindowDataStore s
  | .caramelProgramStart => Sys2Proof.Machine.execCaramelProgramStart s
  | .caramelPacketArrival => Sys2Proof.Machine.execCaramelPacketArrival s
  | .caramelTransferAck => Sys2Proof.Machine.execCaramelTransferAck s
  | .caramelAbortReceived => Sys2Proof.Machine.execCaramelAbortReceived s
  | .mailboxSubmit => Sys2Proof.Machine.execMailboxSubmit s
  | .mailboxDonebitClear => Sys2Proof.Machine.execMailboxDonebitClear s
  | .serviceSubmission => Sys2Proof.Machine.execServiceSubmission s
  | .unmap => Sys2Proof.Machine.execUnmap s
  | .migrate => Sys2Proof.Machine.execMigrate s
  | .reclaim => Sys2Proof.Machine.execReclaim s
  | .exportFrames => Sys2Proof.Machine.execExportFrames s
  | .unexportFrames => Sys2Proof.Machine.execUnexportFrames s
  | .depSampleOnUpdate => Sys2Proof.Machine.execDepSampleOnUpdate s
  | .depSampleTimer => Sys2Proof.Machine.execDepSampleTimer s
  | .clusterDispatch => Sys2Proof.Machine.execClusterDispatch s
  | .priorityPreemption => Sys2Proof.Machine.execPriorityPreemption s
  | .preemptionHalted => Sys2Proof.Machine.execPreemptionHalted s
  | .teamEndChannelsQuiet => Sys2Proof.Machine.execTeamEndChannelsQuiet s
  | .teamEndEngineDone => Sys2Proof.Machine.execTeamEndEngineDone s
  | .peerWindowCloseAck => Sys2Proof.Machine.execPeerWindowCloseAck s
  | .launchRetire => Sys2Proof.Machine.execLaunchRetire s
  | .contextCreate => Sys2Proof.Machine.execContextCreate s
  | .contextDestroy => Sys2Proof.Machine.execContextDestroy s
  | .bankroleWrite => Sys2Proof.Machine.execBankroleWrite s
  | .tgtctxWrite => Sys2Proof.Machine.execTgtctxWrite s
  | .tpcWrite => Sys2Proof.Machine.execTpcWrite s
  | .errstatClear => Sys2Proof.Machine.execErrstatClear s
  | .jpartnerWrite => Sys2Proof.Machine.execJpartnerWrite s
  | .translationCsrWrite => Sys2Proof.Machine.execTranslationCsrWrite s
  | .meyeStart => Sys2Proof.Machine.execMeyeStart s
  | .meyeCountDone => Sys2Proof.Machine.execMeyeCountDone s
  | .registerWrite => Sys2Proof.Machine.execRegisterWrite s
  | .hostBar0InvalidAccess => Sys2Proof.Machine.execHostBar0InvalidAccess s
  | .correctionWindowEnd => Sys2Proof.Machine.execCorrectionWindowEnd s
  | .elogAck => Sys2Proof.Machine.execElogAck s
  | .bootRomVerify => Sys2Proof.Machine.execBootRomVerify s
  | .dieAdmission => Sys2Proof.Machine.execDieAdmission s
  | .engineSelftestStage => Sys2Proof.Machine.execEngineSelftestStage s
  | .powerOff => Sys2Proof.Machine.execPowerOff s
  | .hubReset => Sys2Proof.Machine.execHubReset s
  | .firmwareRestart => Sys2Proof.Machine.execFirmwareRestart s
  | .thermalThrottle => Sys2Proof.Machine.execThermalThrottle s
  | .thermalRecover => Sys2Proof.Machine.execThermalRecover s
  | .overTemperatureTrip => Sys2Proof.Machine.execOverTemperatureTrip s
  | .postedEntryPerformed => Sys2Proof.Machine.execPostedEntryPerformed s
  | .scatWritesPerformed => Sys2Proof.Machine.execScatWritesPerformed s
  | .journalTruncationAtPartner => Sys2Proof.Machine.execJournalTruncationAtPartner s

end Sys2Proof.Machine
end

