-- ==== Sys2Proof/Machine/Turns.lean ====
section
/-! DEFINITION. Whose turn it is: what the agents of the package may do next, and how one turn is taken. The
order of a list of turns is the one an empty `timing` follows; any other order is some `timing` (log 1). -/

namespace Sys2Proof.Machine

/-- One turn: the next message of the outside world, a group's next instruction, the next word of a
collective's program, or an event with its cursor. -/
inductive Turn where
  | message
  | inval (port line : Nat)             -- an invalidation reaches a port buffer (R299)
  | held (i : Nat)                      -- a peer's request that waited in the hub acts again (R297, R299)
  | issue (core grp : Nat)
  | caramel (slot : Nat)
  | event (i : Instr) (c : Cursor)
  | write (i : Instr) (c : Cursor)      -- a group's next instruction, a write of a register, as the row of the table (R101)
  | trap (core grp : Nat)              -- a trap is delivered that waited for results of other units (R344)
  deriving DecidableEq, Repr

/-- The cursor of an event. -/
def at_ (core grp id : Nat) : Cursor := ⟨core, grp, 0, 0, none, id⟩

/-! ### Taking a turn -/

/-- The state that a group's turn begins with. -/
def issueState (s : State) : State := { s with msg := none, stamp := s.stamp + 1 }

/-- The fields of a word that name registers, by opcode, as the entries' tables give them: D, A, B unless a literal stands for it,
and C (chapters 08 to 23). -/
def regFields (op9 : Nat) (w : LongWord) : List (BitVec 8) :=
  let b := if w.lit.isSome then [] else [w.b]
  if op9 == 0x044 || op9 == 0x045 || op9 == 0x083 || op9 == 0x08B then [w.d, w.a, w.c] ++ b
  else if op9 == 0x108 || op9 == 0x109 then [w.d, w.a] ++ b ++ (if w.c == 0#8 then [] else [w.c])
  else if (0x0C0 ≤ op9 && op9 ≤ 0x0C7) || [0x048, 0x050, 0x051, 0x052, 0x054, 0x056, 0x058, 0x086, 0x087, 0x088, 0x089, 0x08A, 0x0D0, 0x0D1, 0x0D2, 0x0D3, 0x0D4,
      0x0D5, 0x00C, 0x004, 0x1C2].contains op9 then [w.d, w.a]
  else if [0x055, 0x00D, 0x003, 0x1C0].contains op9 then [w.d]
  else if [0x002, 0x005, 0x180, 0x1C1].contains op9 || (op9 == 0x006 && w.sub6 == 0#6) then [w.a]
  else if [0x107, 0x10A, 0x131].contains op9 then [w.a] ++ b
  else if (0x040 ≤ op9 && op9 ≤ 0x057) || (0x080 ≤ op9 && op9 ≤ 0x08C) || (0x100 ≤ op9 && op9 ≤ 0x106) || [0x130, 0x132, 0x133, 0x181].contains op9
    then [w.d, w.a] ++ b
  else []

/-- The opcodes that always run on the vector port, those of the predicate instructions among them (R81, R140, R183, R309). -/
def vectorOnly (op9 : Nat) : Bool :=
  [0x00E, 0x020, 0x021, 0x022, 0x023, 0x024, 0x053, 0x0E0, 0x0E1, 0x0E2, 0x0E3, 0x0E4, 0x0E5, 0x141, 0x143].contains op9

/-- The opcodes that are uniform only (R232, R241, R313 and the entries that name it). -/
def uniformOnly (op9 : Nat) (w : LongWord) : Bool :=
  (0x120 ≤ op9 && op9 ≤ 0x126) || (0x160 ≤ op9 && op9 ≤ 0x168) || (0x182 ≤ op9 && op9 ≤ 0x184) || op9 == 0x188 || op9 == 0x189
  || op9 == 0x14B || op9 == 0x14C || op9 == 0x1C5 || op9 == 0x1C6 || (op9 == 0x14A && nbit w.sub6.toNat 2)

/-- The port of an instruction: the vector port, the uniform port, or, for one that names no register and whose entry states no
port, none (R81). The registers of formats K and J are v-registers, as is the link of the B form of CALL (R76). -/
def portHint (i : Instr) : Option Bool :=
  match form i with
  | .k _ _ | .j _ _ | .b 0x61 _ => some true
  | .long op9 w =>
    if vectorOnly op9 then some true
    else if uniformOnly op9 w then some false
    else match regFields op9 w with
      | [] => none
      | fs => some (fs.any isV)
  | _ => none

/-- The instruction that a dictionary code stands for (R74). -/
def dictEntryOf (s : State) (core : Nat) (i : Instr) : Instr :=
  match i with
  | .d16Code w =>
    match (tget s.teams core).bind (fun t => launchAt s t.launch) with
    | some l => decode32 (((l.dict.getD []).getD w.idx.toNat 0).toNat % 2 ^ 32)
    | none => i
  | i => i

/-- The port of a group's next instruction, where it has one. -/
def nextPort (s : State) (core grp : Nat) : Option Bool :=
  match fetchGroup (issueState s) core grp with
  | some (.ok (i, _)) => portHint (dictEntryOf s core i)
  | _ => none

/-- The groups that R114 packs into the slot of a group that the vector port takes: of width 8 or 16, ready, at its issue PC, in
ascending context; none changes that for an issue elsewhere. -/
def packWith (s : State) (core grp : Nat) : Option (List Nat) :=
  match tget s.teams core, groupAt s core grp with
  | some t, some g =>
    if nextPort s core grp != some true then none
    else if g.threads.length ≥ 32 then some []
    else some (((t.groups.filter (fun a => a.1 != grp && mayIssue t a.2 && a.2.stall.isNone && !ottFull t a.1
      && issuePc a.2 == issuePc g)).map (·.1)).take (32 / g.threads.length - 1))
  | _, _ => none

/-- A YIELD waits for one group less; with none left it is over (R131). -/
def yieldLeft (grp : Nat) (y : Option (List Nat)) : Option (List Nat) :=
  match y with
  | some l => if (l.filter (· != grp)).isEmpty then none else some (l.filter (· != grp))
  | none => none

/-- A team one of whose groups has issued, with the order number of that issue (R112, R131): one that was packed has issued in the
slot of another (R114), and `pack` are those that its own slot takes along. -/
def teamIssued (n grp : Nat) (pack : Option (List Nat)) (t : Team) : Team :=
  let own := !t.pack.contains grp
  let count := if own then t.issued + 1 else t.issued
  { t with
    issued := count,
    pack := if own then pack.getD t.pack else t.pack.filter (· != grp),
    packAge := if own && pack.isSome then n else t.packAge,
    groups := tmap (fun k g =>
      if k == grp then { g with age := if own then n else t.packAge, since := count, waited := g.status != .running }
      else { g with yielded := yieldLeft grp g.yielded }) t.groups }

/-- What the ports note of a turn: the group has issued, unless it waits at issue (R110, R112, R114). -/
def noteIssue (n : Nat) (pack : Option (List Nat)) (s : State) (core grp : Nat) : State :=
  modTeam s core (fun t =>
    if ((tget t.groups grp).map (·.stall.isSome)).getD false then
      { t with pack := t.pack.filter (· != grp) }.modGroup grp (fun g => { g with waited := true })
    else teamIssued n grp pack t)

/-- The end of a group's turn. -/
def issued (s : State) (core grp : Nat) (o : Host.Outcome State Fault Refusal) : Host.Outcome State Fault Refusal :=
  match o with
  | .next s' => .next (noteIssue s.stamp (packWith s core grp) s' core grp)
  | o => o

/-- A group's turn: it fetches, and its instruction runs. -/
def runIssue (s : State) (core grp : Nat) : Host.Outcome State Fault Refusal :=
  match fetchGroup (issueState s) core grp with
  | some (.ok (i, s')) => issued s core grp (exec i s')
  | some (.error o) => issued s core grp o
  | none => .fault .noIssuingGroup

/-- A slot's turn: the word at its PC is read in the slot's context and runs (R328). -/
def runCaramel (s : State) (n : Nat) : Host.Outcome State Fault Refusal :=
  let s := { s with msg := none, iss := at_ n 0 0 }
  match tget s.cslots n with
  | none => .fault .notEnabled
  | some x =>
    if x.pc < 0 || x.pc ≥ 1024 then exec (.caramelIllegalWord none) s
    else match hubAccess s x.ctx (carPc x).toNat 4 .read with
      | .ok ps => exec (decodeCaramel (leNat (piecesRead s ps))) (piecesTouch s ps)
      | .wait s => .next s
      | .fail s _ _ => exec (.caramelIllegalWord none) s

/-- The row of the table that a message is a step of; none for one that the table has no row for. -/
def messageRow (s : State) (m : Message) : Option Instr :=
  match m with
  | .pageFaultResolved _ _ _ _ | .dictResolved _ _ _ | .hubResolved _ _ _ _ => some .pageFaultResolved
  | .remoteReadAtOwner _ _ _ _ _ _ _ => some .remoteReadAtOwner
  | .remoteWriteAtOwner _ _ _ _ _ _ => some .remoteWriteAtOwner
  | .streamRequestAtOwner _ _ _ _ _ _ _ _ _ _ _ _ _ _ => some .streamRequestAtOwner
  | .lowWaterUpdate _ _ _ _ _ => some .lowWaterUpdate
  | .scFenceMarker _ _ _ => some .scFenceMarker
  | .remoteAnswer _ _ _ _ => some .remoteAnswer
  | .wcDrainAck _ _ _ => some .wcDrainAck
  | .yptExpire _ => some .yptPacketExpire
  | .linkDown _ _ => some .linkDown
  | .linkRecover _ _ => some .linkRecover
  | .membershipChange _ _ => some .membershipChange
  | .packageRejoin _ _ => some .packageRejoin
  | .carPacket _ _ _ => some .caramelPacketArrival
  | .carTransferAck _ _ => some .caramelTransferAck
  | .carAbort _ _ _ _ => some .caramelAbortReceived
  | .mailboxRecaddr _ _ => some .registerWrite
  | .mailboxOp n op =>
    if n = 64 && bar0Open s && s.mgmt.bound && recaddrOk s.mgmt && !s.mgmt.busy && mgmtOp op then
      (match op.toNat with
       | 0x10 => some .unmap | 0x11 => some .migrate | 0x12 => some .reclaim | 0x13 => some .exportFrames
       | _ => some .unexportFrames)
    else some .mailboxSubmit
  | .donebitClear _ => some .mailboxDonebitClear
  | .service _ => some .serviceSubmission
  | .contextCreate _ _ _ => some .contextCreate
  | .contextDestroy _ => some .contextDestroy
  | .journalRecord _ _ _ _ _ _ _ => some .journalRecordAtPartner
  | .journalAck _ _ _ => some .journalAck
  | .journalTruncation _ _ _ _ => some .journalTruncationAtPartner
  | .replayFetch _ _ _ _ _ _ _ _ => some .replayJournalFetch
  | .hostBar0 _ off => if bar0Register off then none else some .hostBar0InvalidAccess
  | .elogAck => some .elogAck
  | .bootRom _ _ _ _ _ => some .bootRomVerify
  | .dieAdmission _ _ _ _ _ => some .dieAdmission
  | .engineSelftest _ => some .engineSelftestStage
  | .powerOff => some .powerOff
  | .hubReset => some .hubReset
  | .firmwareRestart _ => some .firmwareRestart
  | .ownerRestart => some .ownerRestart
  | .throttle _ => some .thermalThrottle
  | .recover => some .thermalRecover
  | .trip => some .overTemperatureTrip
  | .meyeDone => some .meyeCountDone
  | .correctionWindow _ => some .correctionWindowEnd
  | .storeRelease _ _ _ | .peerContextGone _ _ _ | .softError _ _ _ _ _ | .sectorError _ _ | .spadError _ _
  | .opbufError _ _ | .l1Error _ _ _ | .regError _ _ _ _ | .stagingError _ _ | .combineError _ _ | .l2TagError _ _ | .tileError _ _ _ _ _
  | .relay _ _ _ | .carrierConfig _ _ _ | .wayMasks _ => none

/-- A notice of a peer takes effect once and is acknowledged, a repeat of it too (R45, R270). -/
def takeNotice (s : State) (pkg req : Nat) (f : State → State) : State :=
  if s.seqDone.any (fun x => x.1 == pkg && x.2.1 == req) then answer s pkg req 0 []
  else answer (f { s with seqDone := s.seqDone ++ [(pkg, req, 0)] }) pkg req 0 []

/-- What a message does that the table has no row for: a host's read of a register, a peer's report about its
context, a packet that takes its detour here, what the carrier and the firmware set, and errors that strike cells. -/
def plainMessage (s : State) (m : Message) : State :=
  match m with
  | .hostBar0 false off => { s with hostRead := bar0Read s off }
  | .storeRelease pkg ctx req => takeNotice s pkg req (fun s =>
    { s with partnerJ := s.partnerJ.filter (fun e => !(e.1 == pkg && e.2.1 == ctx)),
             partnerTb := s.partnerTb.filter (fun e => !(e.1 == pkg && e.2.1 == ctx)) })
  | .peerContextGone pkg ctx req => takeNotice s pkg req (fun s => retireContext s pkg ctx)
  | .softError struct die unit row pa => meetSoftError s struct die unit row pa
  | .sectorError sector kind => { s with upsets := s.upsets.filter (fun u => u.1 != sector) ++ [(sector, if kind = 1 then 1 else if kind = 3 then 3 else 2)] }
  | .spadError core w => modTeam s core (fun t => { t with spadBad := insertNat w t.spadBad })
  | .opbufError core w => modTeam s core (fun t => { t with opBad := insertNat w t.opBad })
  | .l1Error core line w => modTeam s core (fun t =>
      { t with l1 := t.l1.map (fun x => if x.line == line then { x with bad := insertNat w x.bad } else x) })
  | .regError core grp n half => strikeRegister s core grp n half
  | .stagingError core k => strikeStaging s core k
  | .combineError n i => modSlot s n (fun x => { x with bad := insertNat i x.bad })
  | .l2TagError set way => strikeTag s set way
  | .tileError q i es rows cols => strikeTile s q i es rows cols
  | .relay _ dst m => relayPacket s dst m
  | .carrierConfig pkgid pod ue => configure s pkgid pod ue
  | .wayMasks masks => setWayMasks s masks
  | _ => s

/-- The turn of the outside world. Without power only the hub ROM acts (R387, R388). -/
def runMessage (s : State) : Host.Outcome State Fault Refusal :=
  match s.inbox with
  | [] => .fault .notEnabled
  | m :: r =>
    let s := { s with inbox := r, msg := some m, iss := at_ 0 0 0 }
    match messageRow s m with
    | some i => if s.powered || i == .bootRomVerify then exec i s else .next s
    | none => .next (if s.powered then plainMessage s m else s)

/-- A peer's request that the hub holds acts again. -/
def runHeld (s : State) (i : Nat) : Host.Outcome State Fault Refusal :=
  match s.held[i]? with
  | none => .fault .notEnabled
  | some m =>
    match messageRow s m with
    | some r => exec r { s with held := s.held.eraseIdx i, msg := some m, iss := at_ 0 0 0 }
    | none => .fault .notEnabled

/-- A group's trap, once the results that it waited for are in (R344). -/
def runTrap (s : State) (core grp : Nat) : Host.Outcome State Fault Refusal :=
  match ((groupAt s core grp).map (·.status)).getD .running with
  | .trapping t tpc resume park latched lanes =>
    if resultsOut s core grp then .fault .notEnabled
    else .next (takeTrap (modGroup { s with msg := none } core grp (fun g => { g with status := .running })) core grp t tpc resume park latched lanes)
  | _ => .fault .notEnabled

/-- Takes a turn. -/
def runTurn (s : State) (t : Turn) : Host.Outcome State Fault Refusal :=
  match t with
  | .message => runMessage s
  | .inval port line => .next (applyInval { s with msg := none } (port, line))
  | .held i => runHeld s i
  | .issue core grp => runIssue s core grp
  | .caramel n => runCaramel s n
  | .event i c => exec i { s with msg := none, iss := c }
  | .write i c => issued s c.core c.grp (exec i { issueState s with iss := c })
  | .trap core grp => runTrap s core grp

/-! ### Which turns there are -/

/-- An event may happen: its condition holds. -/
def happens (s : State) (e : Instr × Cursor) : Bool :=
  match exec e.1 { s with msg := none, iss := e.2 } with
  | .next _ => true
  | _ => false

/-- The events of a team, at their places. -/
def teamEvents (s : State) (core : Nat) (t : Team) : List (Instr × Cursor) :=
  t.ott.map (fun e => match (realEntry t e).work with
    | .publ _ _ => (.publSwap, at_ core 0 e.id)
    | .mrsv i => (.mrsvCopyComplete, at_ core 0 i)
    | _ => (if e.long then .longResultReturn else .postedEntryPerformed, at_ core 0 e.id))
  ++ t.groups.filterMap (fun g => match g.2.status with
    | .parking _ _ _ _ => some (.parkCommit, at_ core g.1 0)
    | .blocked .exit _ _ _ => some (.exitDrainComplete, at_ core g.1 0)
    | .blocked .tlbinv _ _ _ => some (.tlbinvComplete, at_ core g.1 0)
    | _ => none)
  ++ (List.range t.wc.length).map (fun i => (.wcDrain, at_ core 0 i))
  ++ (if t.groups.any (fun g => match g.2.stall with | some (.ott, _) => true | _ => false) then [(.ottEntryGrant, at_ core 0 0)] else [])
  ++ (if t.chan.any (fun c => c.st == .active) then
        (List.range 4).map (fun k => (.copySectorDelivered, at_ core 0 k)) ++ (List.range 4).map (fun k => (.copyPreemptPause, at_ core 0 k))
      else [])
  ++ (if t.bins.any (·.isSome) then
        (List.range 16).map (fun i => (.reformBinDraw, at_ core 0 i)) ++ [(.reformDetDrain, at_ core 0 0)] else [])
  ++ (if t.hasToken then [(.commitTokenHandover, at_ core 0 0)] else [])
  ++ (match t.ending with
      | .none_ => []
      | .channels => [(.teamEndChannelsQuiet, at_ core 0 0)]
      | .engine => [(.teamEndEngineDone, at_ core 0 0)]
      | .window => (unacked s core t ++ [t.tix]).map (fun r => (.peerWindowCloseAck, at_ core 0 ((clusterCores s t).getD r core))))

/-- A WAITV that waits, of a group or of filed threads, can end: its object is reached, or a peer is to be asked
again. -/
def waitEvents (s : State) (core : Nat) (t : Team) : List (Instr × Cursor) :=
  t.groups.filterMap (fun g => match g.2.status with
    | .blocked .waitv _ _ _ => if pollOut s core g.1 then none else some (.waitvPoll, at_ core g.1 0)
    | _ => none)
  ++ (heldPlaces t).filterMap (fun h => match h with
      | .waitv pa _ _ acq _ _ => if objectBuffered s core pa then none else if lostAt s pa 8 || (reachedBy s core pa && (!acq || markFree s 4 pa 8)) then some (.waitvPoll, at_ core 0 pa) else none
      | _ => none)
  ++ (peerWaits t).zipIdx.filterMap (fun x => match x.1 with
      | .peer owner pa va pc _ _ _ => if heldPollOut s core owner pa va pc || redBuffered s t (teamCtx s t) (4096 + owner) pa 8 then none else some (.waitvPoll, at_ core (64 + x.2) 0)
      | _ => none)

/-- A WAITV_POLL changes something: the group goes on, or a request goes out. -/
def pollMoves (s : State) (e : Instr × Cursor) : Bool :=
  match exec e.1 { s with msg := none, iss := e.2 } with
  | .next s' => e.2.id != 0 || s'.reqs.length != s.reqs.length
      || ((groupAt s' e.2.core e.2.grp).map (·.status)) != ((groupAt s e.2.core e.2.grp).map (·.status))
  | _ => false

/-- The events of an engine. -/
def engineEvents (q : Nat) (e : Engine) : List (Instr × Cursor) :=
  e.table.filterMap (fun x => match x.2.cmd with
    | .mrelTiles | .mrelBuf _ => some (.mrelPerform, at_ q 0 x.1)
    | .written _ => some (.engineCommandComplete, at_ q 0 (x.1 + 1))
    | _ => none)
  ++ (if e.table.isEmpty then [] else [(.engineCommandComplete, at_ q 0 0), (.engineGrant, at_ q 0 0)])

/-- The events of the hub and of the launch unit. -/
def hubEvents (s : State) : List (Instr × Cursor) :=
  (s.winq.zipIdx.filter (fun x => !hubBusy s x.1.ctx)).map (fun x =>
    (if winControl x.1 0 then .arm else if winControl x.1 8 then .seal else if winControl x.1 0x10 then .disarm else .windowDataStore,
      at_ 0 0 x.2))
  ++ (s.cslots.filter (fun x => !hubBusy s x.2.ctx)).flatMap (fun x =>
      (if x.2.scats.isEmpty then [] else [(.scatWritesPerformed, at_ x.1 0 0)])
      ++ (if x.2.phase == .queued then [(.caramelProgramStart, at_ x.1 0 0)] else []))
  ++ s.cslots.flatMap (fun x => (x.2.out.filter (fun y => y.peer == s.pkgid)).map (fun y =>
      (.caramelPacketArrival, at_ x.1 0 y.id)))
  ++ s.ctxs.flatMap (fun c => (c.2.streams.filter (fun x => x.2.st == 2)).flatMap (fun x =>
      [(.streamCloseDrain, at_ c.1 0 x.1), (.streamClosed, at_ c.1 0 x.1)]))
  ++ s.launches.flatMap (fun l => if l.2.st == .waiting then [(.depSampleOnUpdate, at_ 0 0 l.1)] else [(.launchRetire, at_ 0 0 l.1)])
  ++ (List.range s.preempting.length).map (fun i => (.preemptionHalted, at_ 0 0 i))
  ++ (if s.head.isSome then [(.clusterDispatch, at_ 0 0 0), (.priorityPreemption, at_ 0 0 0)] else [])
  ++ (s.mboxes.filter (fun m => m.2.busy)).map (fun m => (.mailboxSubmit, at_ 0 0 m.1))
  ++ (if s.svcq.isEmpty then [] else [(.serviceSubmission, at_ 0 0 0)])
  ++ (if s.mgmt.busy then [(.unmap, at_ 0 0 0), (.migrate, at_ 0 0 0)] else [])

/-- The walks that may finish. -/
def walkEvents (s : State) : List (Instr × Cursor) :=
  s.dies.flatMap (fun d => (List.range d.2.misses.length).map (fun i => (.tableWalkDone, at_ d.1 0 i)))

/-- What only the passing of time brings. -/
def timerEvents (s : State) : List (Instr × Cursor) :=
  s.reqs.map (fun r => (if r.busy then .busyResend else .remoteTimeout, at_ 0 0 r.id))
  ++ s.teams.flatMap (fun t =>
      (List.range t.2.wc.length).map (fun i => (.wcAgeExpiry, at_ t.1 0 i))
      ++ (if t.2.bins.any (·.isSome) then (List.range 16).map (fun i => (.reformBinAgeExpiry, at_ t.1 0 i)) else [])
      ++ t.2.groups.flatMap (fun g =>
          (if g.2.yielded.isSome then [(.yieldTimeout, at_ t.1 g.1 0)] else [])
          ++ [(.jsyncStallTimeout, at_ t.1 g.1 0), (.edetwaitTimeout, at_ t.1 g.1 0)])
      ++ [(.lldWindowEnd, at_ t.1 0 0)])
  ++ s.engines.flatMap (fun e => e.2.table.map (fun x => (.engineEntryAge, at_ e.1 0 x.1)))
  ++ s.launches.map (fun l => (.depSampleTimer, at_ 0 0 l.1))
  ++ s.ctxs.flatMap (fun c => c.2.streams.map (fun x => (.lwmIdleSend, at_ c.1 0 x.1)))
  ++ [(.meyeCountDone, at_ 0 0 0)]

/-- The highest effective priority that a group may have: 4 when it may not have issued for 1,024 core cycles, of which the
model knows only how often its core has issued and whether the group has waited (R112, log 57). -/
def maxPrio (t : Team) (g : Group) : Nat := if g.waited || t.issued + 48 ≥ g.since + 1024 then 4 else g.prio

/-- The lowest effective priority that a group may have: the two ports issue at most twice in a core cycle (R112). -/
def minPrio (t : Team) (g : Group) : Nat := if t.issued ≥ g.since + 2048 then 4 else g.prio

/-- Group `a` comes before group `b` on a port whatever time has passed: by effective priority, then as the one that issued less
recently, then by its context (R112). -/
def surelyBefore (t : Team) (a b : Nat × Group) : Bool :=
  decide (maxPrio t b.2 < minPrio t a.2)
  || (maxPrio t b.2 == minPrio t a.2 && (decide (a.2.age < b.2.age) || (a.2.age == b.2.age && decide (a.1 < b.1))))

/-- A group is surely ready: it waits for nothing, an entry of the table is free, and its last result is past the longest
latency, 48 core cycles (R103, R112). -/
def surelyReady (t : Team) (a : Nat × Group) : Bool :=
  mayIssue t a.2 && a.2.stall.isNone && !ottFull t a.1 && (a.2.since == 0 || decide (a.2.since + 96 ≤ t.issued))

/-- The groups of a slot that have yet to issue in it (R114). -/
def packLeft (t : Team) : List Nat :=
  t.pack.filter (fun k => ((tget t.groups k).map (fun g => mayIssue t g && g.stall.isNone)).getD false)

/-- The port of a group's next instruction takes another group first: one that is packed into the slot of the last issue, or one
that comes before it (R112, R114). -/
def portTaken (s : State) (core : Nat) (t : Team) (b : Nat × Group) : Bool :=
  !(packLeft t).contains b.1 && ((!(packLeft t).isEmpty && nextPort s core b.1 == some true) || t.groups.any (fun a => a.1 != b.1 && surelyReady t a && surelyBefore t a b
    && (nextPort s core a.1).isSome && nextPort s core a.1 == nextPort s core b.1))

/-- Group `a` is listed before group `b`: the higher effective priority, then the one that issued less recently (R112). -/
def before (t : Team) (a b : Group) : Bool :=
  if effPrio t a != effPrio t b then decide (effPrio t b < effPrio t a) else decide (a.age ≤ b.age)

/-- Inserts a group in that order. -/
def insertGroup (t : Team) (x : Nat × Group) : List (Nat × Group) → List (Nat × Group)
  | [] => [x]
  | y :: r => if before t x.2 y.2 then x :: y :: r else y :: insertGroup t x r

/-- The groups of a team that a port may choose now (R112). -/
def chosen (s : State) (core : Nat) (t : Team) : List (Nat × Group) :=
  ((t.groups.filter (fun g => mayIssue t g.2 && g.2.stall.isNone)).filter (fun g => !portTaken s core t g)).foldr (insertGroup t) []

/-- The issue turns of the groups that wait for nothing. -/
def issueTurns (s : State) : List Turn := s.teams.flatMap (fun t => (chosen s t.1 t.2).map (fun g => .issue t.1 g.1))

/-- A stalled group's retry comes to something else than the same wait. -/
def retryMoves (s : State) (core grp : Nat) (g : Group) : Bool :=
  match runIssue s core grp with
  | .next s' => match groupAt s' core grp with
    | some g' => (g'.stall.map (·.1)) != (g.stall.map (·.1))
    | none => true
  | _ => true

/-- The retries of groups that wait at issue; a group that waits for a table entry is granted one, and one that
waits for a walk hears of its end (R64, R110). -/
def retryTurns (s : State) : List Turn :=
  s.teams.flatMap (fun t => t.2.groups.filterMap (fun g =>
    match g.2.stall with
    | none | some (.ott, _) | some (.walk _, _) => none
    | some _ => if mayIssue t.2 g.2 && !portTaken s t.1 t.2 g && retryMoves s t.1 g.1 g.2 then some (.issue t.1 g.1) else none))

/-- The collective programs that may go on (R331). -/
def caramelTurns (s : State) : List Turn :=
  (s.cslots.filter (fun x => x.2.phase == .running && !x.2.waiting && !hubBusy s x.2.ctx)).map (fun x => .caramel x.1)

/-- The rows for writes of registers, where the next instruction of a group that its port may take is one (R101, R112). -/
def writeEvents (s : State) : List (Instr × Cursor) :=
  (s.teams.flatMap (fun t => t.2.groups.filterMap (fun g =>
      if mayIssue t.2 g.2 && !portTaken s t.1 t.2 g then some (at_ t.1 g.1 0) else none))).flatMap (fun c =>
    [(.bankroleWrite, c), (.tgtctxWrite, c), (.tpcWrite, c), (.errstatClear, c), (.jpartnerWrite, c), (.translationCsrWrite, c),
     (.meyeStart, c), (.registerWrite, c)])

/-- The turns that no row of the table names: invalidations that reach the port buffers, held requests whose wait is over, and
traps that waited for results (R297, R299, R344). -/
def ownTurns (s : State) : List Turn :=
  s.pendInv.map (fun p => .inval p.1 p.2)
  ++ s.held.zipIdx.filterMap (fun m => if heldReady s m.1 then some (.held m.2) else none)
  ++ s.teams.flatMap (fun t => t.2.groups.filterMap (fun g => match g.2.status with
    | .trapping _ _ _ _ _ _ => if resultsOut s t.1 g.1 then none else some (.trap t.1 g.1)
    | _ => none))

/-- Every turn that may be taken. -/
def turnsOf (s : State) : List Turn :=
  (if s.inbox.isEmpty then [] else [.message])
  ++ (if !s.powered then [] else
    (((s.teams.flatMap (fun t => teamEvents s t.1 t.2)) ++ walkEvents s ++ s.engines.flatMap (fun e => engineEvents e.1 e.2)
        ++ hubEvents s).filter (happens s)).map (fun e => .event e.1 e.2)
    ++ ((s.teams.flatMap (fun t => waitEvents s t.1 t.2)).filter (pollMoves s)).map (fun e => .event e.1 e.2)
    ++ ownTurns s ++ caramelTurns s ++ issueTurns s ++ retryTurns s
    ++ ((timerEvents s).filter (happens s)).map (fun e => .event e.1 e.2) ++ ((writeEvents s).filter (happens s)).map (fun e => .write e.1 e.2))

/-- The turn that `timing` picks: its first number counts the turns round; with none left the first is taken. -/
def pickTurn (s : State) : Option Turn :=
  match s.timing with
  | [] => (turnsOf s).head?
  | k :: _ => let ts := turnsOf s; ts[k % ts.length]?

/-- A choice of `timing` is used up. -/
def popTiming (s : State) : State := { s with timing := s.timing.tail }

end Sys2Proof.Machine
end

