-- ==== Sys2Proof/Machine/Step.lean ====
section
/-! DEFINITION. One step of the package, and the placing of one instruction where the next step fetches. -/

namespace Sys2Proof.Machine

/-- One step: a turn is taken; when nothing may act, time passes. -/
def step (s : State) : Host.Outcome State Fault Refusal :=
  match pickTurn s with
  | some t => runTurn (popTiming s) t
  | none => .next (popTiming s)

/-! ### One instruction as the next (log 11) -/

/-- Where the instruction is placed: a virtual address of the mapping below, and the physical address too. -/
def placeAddr : Nat := 0x20000

/-- The leaf that maps the first GiB onto itself: V, a leaf, W and X, MT 0 (Table 4.5). -/
def placeLeaf : Nat := 0xF

/-- The translation that this leaf gives. -/
def placeXl : Xl := leafXl placeAddr placeLeaf 2

/-- The context: its tables lie at 0x100000 (Table 4.2). -/
def placeContext : Context := { Context.fresh with ptroot := 0x100001, usePtroot := 0x100001 }

/-- The launch record: one group of eight threads, 192 registers, 32 KiB of scratchpad (Tables 1.2 to 1.4). -/
def placeRecord : LaunchRecord :=
  [word placeAddr, 0, 0, word (1 + 2 ^ 16 + 2 ^ 32), word (2 ^ 2 + 2 ^ 13 * 192 + 2 ^ 21 * 8), word (2 ^ 62 + 2 ^ 60), 0, 0,
   0, 0, 0, 0, 0x30000, 0, 0, 0]

/-- The launch, RUNNING with its only cluster on core 0. -/
def placeLaunch : Launch :=
  { rec_ := placeRecord, ctx := 0, seq := 0, qpos := 0, st := .running, deps := [true, true, true, true], dict := none,
    dictBad := none, dictWait := false, next := 1, clus := [(0, .resident [0])], ended := [], fault := none, errs := 0,
    service := false }

/-- The collective record of a reduce over the package alone (Table 18.2). -/
def placeCollective (pkg : Nat) : List Word :=
  [word placeAddr, 0x40000, 0x50000, 0x30000, 0x30040, word (128 + 2 ^ 32 * 64 + 2 ^ 48 * 8 + 2 ^ 53 * 8 + 2 ^ 61 * 2),
   word (2 ^ pkg), 1]

/-- The package with one context that maps the first GiB, `bs` at the place, no other work, and no choice left
to make. -/
def placeBytes (s : State) (bs : List Byte) : State :=
  { s with
    timing := [], inbox := [], msg := none, powered := true, stamp := s.stamp + 1,
    teams := [], engines := [], launches := [], head := none, images := [], preempting := [], rects := [], svcq := [],
    mboxes := [], mgmt := { s.mgmt with busy := false }, mgmtReq := none, cslots := [], winq := [], cposts := [], hubFaults := [], reqs := [],
    held := [], pendInv := [], marks := [],
    dies := tset (tmap (fun _ d => { d with misses := [] }) s.dies) 0 { Die.reset with admitted := true },
    ctxs := [(0, placeContext)],
    mem := memWrite (memWriteNat (memWriteNat s.mem 0x100000 8 0x110001) 0x110000 8 placeLeaf) placeAddr bs,
    poison := [], l2lost := [], renewed := [], upsets := [] }

/-- A state whose next step fetches and runs the instruction: a word of a collective's program as the word at the
PC of a running slot, any other as the word at the next PC of a running group. -/
def State.withFetchWord (s : State) (nbits w : Nat) : State :=
  let x := w % 2 ^ nbits
  let s := placeBytes s (leBytes 12 x)
  if nbits = 32 && x % 4 != 1 then
    { s with cslots := [(0, { armedSlot { s with live := 2 ^ s.pkgid } 0 (placeCollective s.pkgid) with phase := .running })] }
  else
    { s with
      teams := [(0, startTeam placeRecord s.stamp 0 0 0)], launches := [(0, placeLaunch)],
      cores := tset s.cores 0 { coreRegs s 0 with tlb := [(0, placeXl)] } }

end Sys2Proof.Machine
end

