-- ==== Sys2Proof/Safety.lean ====
section
/-! DEFINITION. The terms in which claims are stated: an instruction that completes, what it leaves of a group's
registers, of a team's table and of the package, and the invariant of a run. -/

namespace Sys2Proof.Machine

/-- The instruction completes: exec answers a next state, of which `P` holds. -/
def Completes (i : Instr) (s : State) (P : State → Prop) : Prop := ∃ t, exec i s = .next t ∧ P t

/-- Every byte of memory reads in `t` as it does in `s`. -/
def SameMemory (s t : State) : Prop := ∀ a, memByte t.mem a = memByte s.mem a

/-- The package with the issuing group replaced by `g`; everything else of the state is as it was. -/
def Ic.with (c : Ic) (g : Group) : State := setTeam c.s c.core { c.t with groups := tset c.t.groups c.grp g }

/-- The registers of a group after writes, given by lane and number: a listed write is there, with fresh check symbols,
every other register and predicate is as it was, and nothing else of the group is changed. -/
structure GroupWrites (g g' : Group) (v : Nat → Nat → Option Word) (r : Nat → Option Word) (p : Nat → Nat → Option Bool) : Prop where
  rest    : { g' with threads := g.threads, sreg := g.sreg, sbad := g.sbad } = g
  width   : g'.threads.length = g.threads.length
  threads : ∀ l, { g'.lane l with v := (g.lane l).v, p := (g.lane l).p, bad := (g.lane l).bad } = g.lane l
  vregs   : ∀ l n, wget (g'.lane l).v n = (v l n).getD (wget (g.lane l).v n)
  sregs   : ∀ n, wget g'.sreg n = (r n).getD (wget g.sreg n)
  preds   : ∀ l n, (g'.lane l).p.getLsbD n = (p l n).getD ((g.lane l).p.getLsbD n)
  vlost   : ∀ l n, n ∈ (g'.lane l).bad ↔ n ∈ (g.lane l).bad ∧ v l n = none
  slost   : ∀ n, n ∈ g'.sbad ↔ n ∈ g.sbad ∧ r n = none

/-- The writes of a v-register field by lane; none for an s-register field. -/
def vWrite (f : BitVec 8) (lanes : List Nat) (x : Nat → Word) (l n : Nat) : Option Word :=
  if isV f && lanes.contains l && n == f.toNat then some (x l) else none

/-- The write of an s-register field; none for a v-register field. -/
def sWrite (f : BitVec 8) (x : Word) (n : Nat) : Option Word :=
  if !isV f && n == f.toNat - 192 then some x else none

/-- The writes of a predicate by lane; a write of p0 is discarded (R79). -/
def pWrite (k : Nat) (lanes : List Nat) (x : Nat → Bool) (l n : Nat) : Option Bool :=
  if k != 0 && lanes.contains l && n == k then some (x l) else none

/-- No register, or no predicate, is written. -/
def noWrite {α : Type} (_ _ : Nat) : Option α := none

/-- The group with `f` of every lane's thread. -/
def Group.mapLanes (g : Group) (f : Nat → Thread → Thread) : Group := { g with threads := g.threads.mapIdx f }

/-- The issuing group has become `g` and its instruction has retired: the state is `t`. -/
def Ic.retires (c : Ic) (xfer : List (Nat × Word)) (g : Group) (t : State) : Prop :=
  t = c.with (retireGroup c.pc c.next c.act xfer c.w.s g) ∧ SameMemory c.s t

/-- The instruction wrote register field D, `x l` in every lane it acts in, and nothing else of the package but what
retiring changes. -/
def ShortDone (c : Ic) (x : Nat → Word) (t : State) : Prop :=
  ∃ g, GroupWrites c.g g (vWrite c.w.d c.lanes x) (sWrite c.w.d (x 0)) noWrite ∧ c.retires [] g t

/-- The instruction wrote predicate D, `x l` in every enabled lane, and nothing else but what retiring changes. -/
def PredDone (c : Ic) (x : Nat → Bool) (t : State) : Prop :=
  ∃ g, GroupWrites c.g g noWrite (fun _ => none) (pWrite c.w.d.toNat c.en x) ∧ c.retires [] g t

/-- The instruction changed no register, and every lane of `xfer` goes where it says. -/
def JumpDone (c : Ic) (xfer : List (Nat × Word)) (t : State) : Prop := c.retires xfer c.g t

/-- The entry that a long or posted instruction makes in the table of outstanding accesses (R105, R109). -/
def Ic.entry (c : Ic) (long : Bool) (o : Ord) (work : Work) (got : List (Nat × Word)) : OttEntry :=
  ⟨c.s.stamp, c.grp, c.pc, long, c.en, c.act, c.uni, c.tids, o, work, got, [], none⟩

/-- The group with a slot appended for each destination, in their order: no register has changed (R105). -/
def Ic.slots (c : Ic) (ds : List Dest) : Group := ds.foldl (fun g d => g.addSlot d c.en c.act c.s.stamp c.pc) c.g

/-- The package with an entry appended to the team's table and the issuing group replaced. -/
def Ic.enters (c : Ic) (e : OttEntry) (g : Group) : State :=
  setTeam { c.s with stamp := c.s.stamp + 1 } c.core
    { c.t with groups := tset c.t.groups c.grp (retireGroup c.pc c.next c.act [] c.w.s g), ott := c.t.ott ++ [e] }

/-- A long instruction issued: its entry holds the work and what is known of its result, a slot waits for each
destination, and nothing else but what retiring changes; no byte of memory has changed. -/
def LongDone (c : Ic) (ds : List Dest) (o : Ord) (work : Work) (got : List (Nat × Word)) (t : State) : Prop :=
  t = c.enters (c.entry true o work got) (c.slots ds) ∧ SameMemory c.s t

/-- A posted instruction issued: its entry holds the work, and nothing else but what retiring changes; no byte of
memory has changed. -/
def PostedDone (c : Ic) (o : Ord) (work : Work) (t : State) : Prop :=
  t = c.enters (c.entry false o work []) c.g ∧ SameMemory c.s t

/-- A posted instruction issued that also made the issuing group `g`. -/
def PostedWith (c : Ic) (o : Ord) (work : Work) (g : Group) (t : State) : Prop :=
  t = c.enters (c.entry false o work []) g ∧ SameMemory c.s t

/-- A write of a deterministic launch issued into the team's store buffer, with an entry of the table that it holds until
it is performed, and nothing else but what retiring changes (R109, R315); nothing waits for a store whose order is taken at .grp or
.team as for an acquire (R316). -/
def BufferedDone (c : Ic) (o : Ord) (work : Work) (t : State) : Prop :=
  t = setTeam { c.s with stamp := c.s.stamp + 1 } c.core
      { c.t with groups := tset c.t.groups c.grp (retireGroup c.pc c.next c.act [] c.w.s c.g),
                 det := c.t.det ++ [⟨c.s.stamp, c.grp, c.pc, 0, c.en, c.uni, c.tids, o, work⟩],
                 ott := c.t.ott ++ [c.entry false (if storeCounts o work then { o with acq := false } else o) .buffered []] }
  ∧ SameMemory c.s t

/-- What a release of an order asks of a deterministic launch at issue: at .clus or wider the team holds the token, or has
passed it, and its buffer has drained (R316). -/
def Ic.mayRelease (c : Ic) (o : Ord) : Prop :=
  recDet c.r = false ∨ o.rel = false ∨ scopeRank o.scope < 2 ∨ (c.t.det = [] ∧ (c.t.hasToken = true ∨ c.t.hadToken = true))

/-- A write to a peer follows, in its thread, a narrow FENCE with release while the DET store buffer still holds writes of its team
from before the fence (R293, R316). -/
def Ic.afterFence (c : Ic) (work : Work) : Prop :=
  recDet c.r = true ∧ workRemote work = true ∧ fencesOf c.t (c.tids.map (·.2)) c.s.stamp ≠ []

/-- The team writes global memory itself: outside deterministic launches, or with the token (R315). -/
def Ic.writesNow (c : Ic) : Prop := recDet c.r = false ∨ c.t.hasToken = true

/-- The team's next global write enters its store buffer, which has room (R315). -/
def Ic.buffers (c : Ic) : Prop := recDet c.r = true ∧ c.t.hasToken = false ∧ c.t.hadToken = false ∧ c.t.det.length < 256

/-- The request table of the quad's engine has a free entry, and its staging array room for the snapshot (R244, R249). -/
def Ic.engineRoom (c : Ic) (stage : Nat) : Prop :=
  (∃ i, i < 32 ∧ tget c.eng.table i = none) ∧ (stage = 0 ∨ (c.eng.table.map (fun x => x.2.stage)).sum + stage ≤ 128 * 1024)

/-- The issuing instruction in the state in which its command has entered the request table, in the lowest free
entry with the next GEN; `h` is its handle (R244, R260). -/
def Ic.Commands (c : Ic) (cmd : EngCmd) (tiles recs : List (Nat × Nat)) (kept : List (Nat × Reservation))
    (words : List (Nat × Nat)) (stage : Nat) (xls : List Xl) (tok : Bool)
    (c' : Ic) (h : Nat) : Prop :=
  ∃ i, i < 32 ∧ tget c.eng.table i = none ∧ (∀ j, j < i → tget c.eng.table j ≠ none) ∧
    let gen := (tgetD c.eng.gens i 0 + 1) % 2 ^ 27
    h = i + 32 * gen ∧
    c' = { c with s := modEngine c.s (quadNo c.core) (fun e => { e with
      table := tset e.table i
        { core := c.core, grp := c.grp, ott := c.s.stamp, pc := c.pc, stamp := c.s.stamp, handle := h, prio := recPrio c.r,
          aged := false, cmd := cmd, tiles := tiles, recs := recs, kept := kept, words := words, olds := [], stage := stage,
          xls := xls, ctx := c.ctx, tok := tok },
      gens := tset e.gens i gen }) }

/-- A posted engine command issued. -/
def CommandPosted (c : Ic) (cmd : EngCmd) (tiles recs : List (Nat × Nat)) (words : List (Nat × Nat)) (xls : List Xl) (tok : Bool) (t : State) : Prop :=
  ∃ c' h, c.Commands cmd tiles recs [] words 0 xls tok c' h ∧ t = c'.enters (c'.entry false Ord.relaxed (.engine h) []) c'.g
    ∧ SameMemory c.s t

/-- A long engine command issued: its entry holds `work` and `got`, which the handle gives. -/
def CommandLong (c : Ic) (cmd : EngCmd) (tiles recs : List (Nat × Nat)) (kept : List (Nat × Reservation))
    (words : List (Nat × Nat)) (stage : Nat) (work : Nat → Work)
    (got : Nat → List (Nat × Word)) (t : State) : Prop :=
  ∃ c' h, c.Commands cmd tiles recs kept words stage [] false c' h
    ∧ t = c'.enters (c'.entry true Ord.relaxed (work h) (got h)) (c'.slots [destOf c.w.d]) ∧ SameMemory c.s t

/-- The event happens: the state is then `t`, and every byte of memory reads as before. -/
def Quietly (i : Instr) (s t : State) : Prop := exec i s = .next t ∧ SameMemory s t

/-- The program of the slot in the cursor's core is `x`, and it is running. -/
def Runs (s : State) (x : CSlot) : Prop := tget s.cslots s.iss.core = some x ∧ x.phase = .running

/-- The word of a collective's program completes: the slot holds `y`, its PC advances by 1, and everything else of the
package is as in `u`. -/
def WordDone (i : Instr) (s u : State) (y : CSlot) : Prop :=
  exec i s = .next { u with cslots := tset u.cslots s.iss.core { y with pc := y.pc + 1 } }

/-- The scratchpad of a core's team. -/
def spadOf (s : State) (core : Nat) : List Host.Cell := ((tget s.teams core).map (·.spad)).getD []

/-- Memories by space, with `n` bytes of `x`, least significant first, written at an address of one. -/
def putBytes (f : Nat → List Host.Cell) (space a n x : Nat) : Nat → List Host.Cell := fun k =>
  if k = space then memWrite (f k) a (leBytes n x) else f k

/-- The lanes of an atomic one after another, each a lane, its space, address and two operands: the memories that they leave,
and the value that each has read (R303, R304). -/
def atomsInTurn (op ty : Nat) : (Nat → List Host.Cell) → List (Nat × Nat × Nat × Nat × Nat) →
    (Nat → List Host.Cell) × List (Nat × Word)
  | f, [] => (f, [])
  | f, (lane, space, a, b, n) :: r =>
    let m := memNat (f space) a (tyBits ty / 8)
    let rest := atomsInTurn op ty (putBytes f space a (tyBits ty / 8) (atomNew op ty m b n)) r
    (rest.1, (lane, tyExt ty m) :: rest.2)

/-- The entry of the table that the cursor names, of a team and of a group that is in no handler and waits for no page. -/
structure Due (s : State) (t : Team) (e : OttEntry) (g : Group) : Prop where
  team  : tget s.teams s.iss.core = some t
  entry : t.ott.find? (fun x => x.id == s.iss.id) = some e
  group : tget t.groups e.grp = some g
  calm  : g.hm = none ∧ ∀ tr h n p b, g.status ≠ .pageFault tr h n p b
  fresh : e.bad = none ∧ e.got = []
  order : mayPerform s (teamCtx s t) t e = true

/-- The long entry has returned: its slots hold `got`, it has left the table, and of the group only its return buffer and
its victim tags have changed. -/
def Returned (s : State) (t : Team) (e : OttEntry) (g : Group) (got : List (Nat × Word)) (u : State) : Prop :=
  ∃ t' g', tget u.teams s.iss.core = some t' ∧ tget t'.groups e.grp = some g' ∧ t'.ott = t.ott.filter (fun y => y.id != e.id)
    ∧ g'.rb = fillFrom g.rb e.id 0 got ∧ g'.threads = g.threads ∧ g'.sreg = g.sreg

/-- The posted entry has left the table. -/
def Released (s : State) (t : Team) (e : OttEntry) (u : State) : Prop :=
  ∀ t', tget u.teams s.iss.core = some t' → t'.ott = t.ott.filter (fun x => x.id != e.id)

/-- The invariant of a run: memory is in its canonical form. -/
def Inv (s : State) : Prop := Memory.wf s.mem = true

end Sys2Proof.Machine
end

