-- ==== Sys2Proof/Certificates/Slice0/Obligations.lean ====
section
/-! DEFINITION. The statements for the provers. A statement of several parts is the conjunction of the claims before it. -/

open Sys2Proof Sys2Proof.Machine

/-! ### Integer, address and bit instructions (chapter 09) -/

/-- IADD, ISUB, IMIN, IMAX, IMUL, IMULH and IMAD in every format complete: each sub-element of D is the exact result,
brought into its type by fit (R149, R150). -/
def Claims.IntegerArithmetic : Prop :=
  let bin (i : Instr) (w : LongWord) (sat : Bool) (f : Int → Int → Int) : Prop :=
    ∀ s c, offer s w (shapeInt w sat) {} = .ok c → Completes i s (ShortDone c (fun l => perElem (subNo w) (fun k =>
      fitInt (satBit w) (subNo w) (f (getInt (subNo w) k (c.rd l w.a)) (getInt (subNo w) k (opB c (subNo w) l))))))
  (∀ w, bin (.iadd w) w true (· + ·)) ∧ (∀ w, bin (.isub w) w true (· - ·)) ∧ (∀ w, bin (.imul w) w true (· * ·))
  ∧ (∀ w, bin (.imin w) w false (fun a b => if a ≤ b then a else b))
  ∧ (∀ w, bin (.imax w) w false (fun a b => if b ≤ a then a else b))
  ∧ (∀ w, bin (.imulh w) w false (fun a b => (a * b) / ((2 ^ tyBits (subNo w) : Nat) : Int)))
  ∧ (∀ w, bin (.iaddI32K w) (kLong 2 w) true (· + ·)) ∧ (∀ w, bin (.iaddI64K w) (kLong 0 w) true (· + ·))
  ∧ (∀ w, bin (.iaddI32J w) (jLong 2 w) true (· + ·)) ∧ (∀ w, bin (.iaddI64J w) (jLong 0 w) true (· + ·))
  ∧ (∀ w, bin (.isubI32K w) (kLong 2 w) true (· - ·)) ∧ (∀ w, bin (.imulI32K w) (kLong 2 w) true (· * ·))
  ∧ (∀ w s c, offer s w { shapeInt w true with c := .src 1 } {} = .ok c →
      Completes (.imad w) s (ShortDone c (fun l => perElem (subNo w) (fun k => fitInt (satBit w) (subNo w)
        (getInt (subNo w) k (c.rd l w.a) * getInt (subNo w) k (opB c (subNo w) l) + getInt (subNo w) k (c.rd l w.c))))))

/-- IDIV completes: D is the quotient, truncated toward zero, and C the remainder, each read from the sources as they
were; a divisor of zero gives all ones and the dividend (R151). With C = D the quotient is written. -/
def Claims.IntegerDivision : Prop :=
  ∀ w s c, offer s w { shapeInt w false with c := .dst 1 } {} = .ok c →
    let q (f : Int → Int → Int) (l : Nat) : Word := perElem (subNo w) (fun k => wrap (tyBits (subNo w))
      (f (getInt (subNo w) k (c.rd l w.a)) (getInt (subNo w) k (opB c (subNo w) l))))
    Completes (.idiv w) s (fun t => ∃ g,
      GroupWrites c.g g
        (fun l n => (vWrite w.d c.lanes (q quotInt) l n).or (vWrite w.c c.lanes (q remInt) l n))
        (fun n => (sWrite w.d (q quotInt 0) n).or (sWrite w.c (q remInt 0) n)) noWrite
      ∧ c.retires [] g t)
    ∧ (∀ a b, b ≠ 0 → quotInt a b = a.tdiv b ∧ remInt a b = a - a.tdiv b * b)
    ∧ (∀ a, quotInt a 0 = -1 ∧ remInt a 0 = a)

/-- The integer instructions complete with the exact result brought into its type by fit; IDIV with its quotient and its
remainder (R149 to R151). -/
def Obligations.IntegerResults : Prop := Claims.IntegerArithmetic ∧ Claims.IntegerDivision

/-- IABS, POPC, CLZ, BREV, SHL, SHR, SHRA and ROT complete in every format, each sub-element with its result (R152,
R153). -/
def Claims.IntegerUnaryAndShifts : Prop :=
  let un (i : Instr) (w : LongWord) (sub sat : Bool) (f : Nat → Nat → Nat) : Prop :=
    ∀ s c, offer s w (shapeInt1 w sub sat) {} = .ok c → Completes i s (ShortDone c (fun l => perElem (subNo w) (fun k =>
      f (subNo w) (elem (tyBits (subNo w)) k (c.rd l w.a)))))
  let sh (i : Instr) (w : LongWord) (sat : Bool) (f : Nat → Nat → Nat → Nat) : Prop :=
    ∀ s c, offer s w (shapeInt w sat) {} = .ok c → Completes i s (ShortDone c (fun l => perElem (subNo w) (fun k =>
      f (subNo w) (elem (tyBits (subNo w)) k (c.rd l w.a)) (elem (tyBits (subNo w)) k (opB c (subNo w) l)))))
  (∀ w, un (.iabs w) w (subNo w ≤ 7 && subNo w % 2 == 0) true (fun t x => fitInt (satBit w) t (tyInt t x).natAbs))
  ∧ (∀ w, un (.popc w) w (subNo w ≤ 7) false (fun t x => ((List.range (tyBits t)).filter (nbit x)).length))
  ∧ (∀ w, un (.clz w) w (subNo w ≤ 7) false (fun t x => tyBits t - bitLength x))
  ∧ (∀ w, un (.brev w) w (subNo w ≤ 7) false (fun t x =>
      ofElems 1 ((List.range (tyBits t)).map (fun i => if nbit x (tyBits t - 1 - i) then 1 else 0))))
  ∧ (∀ w, sh (.shl w) w true (shlElem (satBit w))) ∧ (∀ w, sh (.shr w) w false shrElem)
  ∧ (∀ w, sh (.shra w) w false shraElem) ∧ (∀ w, sh (.rot w) w false rotElem)
  ∧ (∀ w, sh (.shlN32K w) (kLong 3 w) true (shlElem false)) ∧ (∀ w, sh (.shlN32J w) (jLong 3 w) true (shlElem false))
  ∧ (∀ w, sh (.shrN32K w) (kLong 3 w) false shrElem) ∧ (∀ w, sh (.shrN32J w) (jLong 3 w) false shrElem)

/-- The elements of shifts by the width or more are what R153 gives: SHL and SHR every bit out, SHRA the sign in every
bit, ROT the count modulo the width. -/
def Claims.ShiftPastWidth : Prop :=
  ∀ t x n, tyBits t ≠ 0 → x < 2 ^ tyBits t → tyBits t ≤ n →
    shlElem false t x n = 0 ∧ shrElem t x n = 0
    ∧ shraElem t x n = (if nbit x (tyBits t - 1) then 2 ^ tyBits t - 1 else 0)
    ∧ rotElem t x n = rotElem t x (n % tyBits t)

/-- The integer instructions of one source and the shifts complete, and a shift by the width or more gives what R153 says
(R152, R153). -/
def Obligations.UnaryAndShiftResults : Prop := Claims.IntegerUnaryAndShifts ∧ Claims.ShiftPastWidth

/-- BITF, BFX, BFI, SEL, MOV, MOVI, MOVS, LEA and CVTI complete in every format with the result of their entry (R154 to
R158). That BFI of an empty field writes D back as it was read is the model's choice (log 94). -/
def Obligations.BitsAndMoves : Prop :=
  let go (i : Instr) (w : LongWord) (sh : Shape) (x : Ic → Nat → Word) : Prop :=
    ∀ s c, offer s w sh {} = .ok c → Completes i s (ShortDone c (x c))
  let bit (i : Instr) (w : LongWord) : Prop := go i w { shapeInt w false with c := .imm, dIn := w.c.toNat % 16 != w.c.toNat / 16 } (fun c l =>
    bitfWord w.c.toNat (c.rd l w.a) (opB c (subNo w) l) (c.rd l w.d))
  let movi (i : Instr) (w : LongWord) : Prop := go i w
    { form := w.lit.isSome, sub := subNo w ≤ 7, m6 := layoutZ w, d := .dst 1, a := .imm,
      ok10 := w.a == 0#8 || w.a == w.d, ok12 := litFits (subNo w) w } (fun _ _ => litWord (subNo w) w)
  let mov (i : Instr) (w : LongWord) : Prop := go i w (shapeInt1 w (subNo w == 0) false) (fun c l => c.rd l w.a)
  (∀ w, bit (.bitf w) w) ∧ (∀ w, bit (.bitfAndK w) (kLongBitf 0x88 w)) ∧ (∀ w, bit (.bitfOrK w) (kLongBitf 0xEE w))
  ∧ (∀ w, bit (.bitfXorK w) (kLongBitf 0x66 w)) ∧ (∀ w, bit (.bitfAndJ w) { jLong 0 w with c := 0x88 })
  ∧ (∀ w, go (.bfx w) w { shapeInt w false with sub := subNo w ≤ 3 } (fun c l => perElem (subNo w) (fun k =>
      bfxElem (subNo w) (elem (tyBits (subNo w)) k (c.rd l w.a)) (elem (tyBits (subNo w)) k (opB c (subNo w) l)))))
  ∧ (∀ w, go (.bfi w) w { shapeInt w false with sub := subNo w ≤ 3, dIn := true } (fun c l => perElem (subNo w) (fun k =>
      bfiElem (subNo w) (elem (tyBits (subNo w)) k (c.rd l w.d)) (elem (tyBits (subNo w)) k (c.rd l w.a))
        (elem (tyBits (subNo w)) k (opB c (subNo w) l)))))
  ∧ (∀ w, go (.sel w) w { shapeInt w false with c := .psrc, port := .vector } (fun c l =>
      if readP c.g l w.c.toNat then c.rd l w.a else opB c (subNo w) l))
  ∧ (∀ w, mov (.mov w) w) ∧ (∀ w, mov (.movK w) (kLong 0 w)) ∧ (∀ w, movi (.movi w) w) ∧ (∀ w, movi (.moviI32J w) (jLong 2 w))
  ∧ (∀ w, go (.movs w) w
      { shapeInt1 w ((2 ≤ subNo w && subNo w ≤ 7) || subNo w == 0x18) false with
        c := .imm, dIn := true, ok12 := w.c.toNat % 16 < 64 / tyBits (subNo w) && w.c.toNat / 16 < 64 / tyBits (subNo w) }
      (fun c l => putElem (tyBits (subNo w)) (w.c.toNat / 16) (c.rd l w.d)
        (elem (tyBits (subNo w)) (w.c.toNat % 16) (c.rd l w.a))))
  ∧ (∀ w, go (.lea w) w
      { shapeInt w false with
        sub := subNo w == 0 || subNo w == 2 || subNo w == 3, c := .imm, ok12 := litFits (subNo w) w && w.c.toNat < 8 }
      (fun c l => c.rd l w.a + (if subNo w = 0 then word (opB c (subNo w) l).toNat
        else if subNo w = 2 then sxWord 32 (opB c (subNo w) l).toNat else zxWord 32 (opB c (subNo w) l).toNat)
          * word (2 ^ (w.c.toNat % 8))))
  ∧ (∀ w, go (.cvti w) w
      { shapeInt1 w (cvtiType (subNo w)) true with
        c := .imm, dIn := tyBits (subNo w) < tyBits (w.c.toNat % 32), ok12 := cvtiType (w.c.toNat % 32) && w.c.toNat / 32 <
          (if tyBits (w.c.toNat % 32) < tyBits (subNo w) then tyBits (subNo w) / tyBits (w.c.toNat % 32)
           else tyBits (w.c.toNat % 32) / tyBits (subNo w)) }
      (fun c l => cvtiWord (w.c.toNat % 32) (subNo w) (w.c.toNat / 32) (satBit w) (c.rd l w.a) (c.rd l w.d)))

/-! ### Floating point (chapter 11) -/

/-- FADD, FSUB, FMUL, FFMA, FMIN and FMAX complete in every format: one rounding of the exact result for each
sub-element; FMIN and FMAX choose an operand (R184, R186). -/
def Claims.FloatArithmetic : Prop :=
  let bin (i : Instr) (w : LongWord) (f : Nat → Machine.Num → Machine.Num → Machine.Num) : Prop :=
    ∀ s c, offer s w (shapeF w (layoutFRS w)) {} = .ok c → Completes i s (ShortDone c (fun l => perElem (subNo w) (fun k =>
      rnd c (subNo w) l k (f (rmOf w) (fv (subNo w) k (c.rd l w.a)) (fv (subNo w) k (opB c (subNo w) l))))))
  let fma (i : Instr) (w : LongWord) : Prop :=
    ∀ s c, offer s w { shapeF w (layoutFRS w) with c := .src 1 } {} = .ok c → Completes i s (ShortDone c (fun l =>
      perElem (subNo w) (fun k => rnd c (subNo w) l k (numFma (rmOf w) (fv (subNo w) k (c.rd l w.a))
        (fv (subNo w) k (opB c (subNo w) l)) (fv (subNo w) k (c.rd l w.c))))))
  let pick (i : Instr) (w : LongWord) (f : Machine.Num → Machine.Num → Machine.Num) : Prop :=
    ∀ s c, offer s w (shapeF w (layoutZ w)) {} = .ok c → Completes i s (ShortDone c (fun l => perElem (subNo w) (fun k =>
      (fmtT (subNo w)).same (f (fv (subNo w) k (c.rd l w.a)) (fv (subNo w) k (opB c (subNo w) l))))))
  (∀ w, bin (.fadd w) w numAdd) ∧ (∀ w, bin (.faddF32K w) (kLong 8 w) numAdd) ∧ (∀ w, bin (.faddBf16K w) (kLong 9 w) numAdd)
  ∧ (∀ w, bin (.fsub w) w (fun rm a b => numAdd rm a (numNeg b)))
  ∧ (∀ w, bin (.fmul w) w (fun _ => numMul)) ∧ (∀ w, bin (.fmulF32K w) (kLong 8 w) (fun _ => numMul))
  ∧ (∀ w, bin (.fmulBf16K w) (kLong 9 w) (fun _ => numMul))
  ∧ (∀ w, fma (.ffma w) w) ∧ (∀ w, fma (.ffmaF32K w) (kLongFma 8 w)) ∧ (∀ w, fma (.ffmaBf16K w) (kLongFma 9 w))
  ∧ (∀ w, pick (.fmin w) w numMin) ∧ (∀ w, pick (.fminF32K w) (kLong 8 w) numMin)
  ∧ (∀ w, pick (.fmax w) w numMax) ∧ (∀ w, pick (.fmaxF32K w) (kLong 8 w) numMax)

/-- FCLASS, FRND, FCVT, FCVTI, ICVTF, FDOT and FSCALE complete with the result of their entry (R187 to R192). -/
def Claims.FloatConversions : Prop :=
  let go (i : Instr) (w : LongWord) (sh : Shape) (x : Ic → Nat → Word) : Prop :=
    ∀ s c, offer s w sh {} = .ok c → Completes i s (ShortDone c (x c))
  let conv (i : Instr) (w : LongWord) (sh : Shape) (f : Ic → Nat → Nat → Nat → Nat) : Prop :=
    go i w sh (fun c l => convert (tyBits (w.c.toNat % 32)) (tyBits (subNo w)) (w.c.toNat / 32) (f c l) (c.rd l w.a) (c.rd l w.d))
  (∀ w, go (.fclass w) w (shapeF1 w (layoutZ w)) (fun c l => perElem (subNo w) (fun k =>
      2 ^ classBit (fmtT (subNo w)) (fv (subNo w) k (c.rd l w.a)))))
  ∧ (∀ w, go (.frnd w) w (shapeF1 w (layoutF true false false w.m6)) (fun c l => perElem (subNo w) (fun k =>
      (fmtT (subNo w)).same (frndNum (rmOf w) (fv (subNo w) k (c.rd l w.a))))))
  ∧ (∀ w, conv (.fcvt w) w
      (shapeCvt w (fcvtType (subNo w)) (layoutF true true (srType (subNo w)) w.m6) (fcvtType (w.c.toNat % 32)))
      (fun c l e x => rnd c (subNo w) l e ((fmtT (w.c.toNat % 32)).read x)))
  ∧ (∀ w, conv (.fcvti w) w
      (shapeCvt w (cvtiType (subNo w)) (layoutF true false (srType (subNo w)) w.m6) (fcvtType (w.c.toNat % 32)))
      (fun c l e x => toIntElem (rmOf w) (subNo w) (drawOf c l e) ((fmtT (w.c.toNat % 32)).read x)))
  ∧ (∀ w, conv (.icvtf w) w
      (shapeCvt w (fcvtType (subNo w)) (layoutF true true (srType (subNo w)) w.m6) (cvtiType (w.c.toNat % 32)))
      (fun c l e x => rnd c (subNo w) l e (intNum (tyInt (w.c.toNat % 32) x))))
  ∧ (∀ w, go (.fdot w) w { shapeF1 w (layoutFRS w) with sub := subNo w == 9 || subNo w == 0xA, b := .src 1, c := .src 1 }
      (fun c l => perElem 8 (fun k => rnd c 8 l k
        (numDot (rmOf w) (fv (subNo w) (2 * k) (c.rd l w.a)) (fv (subNo w) (2 * k) (c.rd l w.b))
          (fv (subNo w) (2 * k + 1) (c.rd l w.a)) (fv (subNo w) (2 * k + 1) (c.rd l w.b)) (fv 8 k (c.rd l w.c))))))
  ∧ (∀ w, go (.fscale w) w { shapeF1 w (layoutFRS w) with b := .src 1 } (fun c l => perElem (subNo w) (fun k =>
      rnd c (subNo w) l k (scaleNum (fv (subNo w) k (c.rd l w.a))
        (sxInt (tyBits (subNo w)) (elem (tyBits (subNo w)) k (c.rd l w.b)))))))

/-- The floating-point instructions that are short complete with the result of their entry, one rounding for each sub-
element (R184, R186 to R192). -/
def Obligations.FloatResults : Prop := Claims.FloatArithmetic ∧ Claims.FloatConversions

/-- The special functions issue as long instructions: the entry holds each lane's value, no register has changed
(R102, R183, R193, R194). The values are those of the model's fixed-point forms (log 55). -/
def Claims.SpecialFunctions : Prop :=
  let go (i : Instr) (w : LongWord) (m6 : Bool) (f : Fmt → Nat → Machine.Num → Nat) : Prop :=
    ∀ s c, offer s w (shapeF1 w m6) { entry := true, dests := [destOf w.d] } = .ok c →
      Completes i s (LongDone c [destOf w.d] Ord.relaxed .values (c.lanes.map (fun l =>
        (l, perElem (subNo w) (fun k => f (fmtT (subNo w)) (rmOf w) (fv (subNo w) k (c.rd l w.a)))))))
  (∀ w, go (.frcp w) w (layoutF true false false w.m6) fRcp) ∧ (∀ w, go (.fsqrt w) w (layoutF true false false w.m6) fSqrt)
  ∧ (∀ w, go (.frsq w) w (layoutZ w) (fun f _ => fRsq f)) ∧ (∀ w, go (.fexp2 w) w (layoutZ w) (fun f _ => fExp2 f))
  ∧ (∀ w, go (.flog2 w) w (layoutZ w) (fun f _ => fLog2 f)) ∧ (∀ w, go (.fsin w) w (layoutZ w) (fun f _ => fSinPi f))
  ∧ (∀ w, go (.fcos w) w (layoutZ w) (fun f _ => fCosPi f)) ∧ (∀ w, go (.ftanh w) w (layoutZ w) (fun f _ => fTanh f))

/-- BQNT, BDEQ, ZPSUB, PACK, UNPACK and AMAXB issue as long instructions with a slot for each register of their range:
the entry holds each lane's registers (R195 to R199). -/
def Claims.BlocksInRegisters : Prop :=
  let go (i : Instr) (w : LongWord) (sh : Shape) (n : Nat) (x : Ic → Nat → List Word) : Prop :=
    ∀ s c, offer s w sh { entry := true, dests := rangeDests w.d n } = .ok c →
      Completes i s (LongDone c (rangeDests w.d n) Ord.relaxed .values
        (c.lanes.flatMap (fun l => (x c l).zipIdx.map (fun r => (64 * r.2 + l, r.1)))))
  (∀ w, go (.bqnt w) w
      { form := w.lit.isNone, sub := 0x0D ≤ subNo w && subNo w ≤ 0x17, m6 := layoutF true false true w.m6,
        sr := nbit w.m6.toNat 3, d := .dst (slotRegs (subNo w) + 1), a := .src (floatRegs (floatC w)), c := .imm, ok12 := floatCOk w }
      (slotRegs (subNo w) + 1) (fun c l =>
        let r := quantise (subNo w) (rmOf w) (drawOf c l) (floatVals (rangeOf c l w.a (floatRegs (floatC w))) (floatC w))
        slotWords (subNo w) r.1 ++ [word r.2]))
  ∧ (∀ w, go (.bdeq w) w
      { form := w.lit.isNone, sub := 0x0D ≤ subNo w && subNo w ≤ 0x17, m6 := layoutFRS w,
        d := .dst (floatRegs (floatC w)), a := .src (slotRegs (subNo w) + 1), c := .imm, ok12 := floatCOk w }
      (floatRegs (floatC w)) (fun c l =>
        let regs := rangeOf c l w.a (slotRegs (subNo w) + 1)
        let md := rangeMeta (subNo w) (regs.getD (slotRegs (subNo w)) 0)
        packWords (tyBits (floatC w)) ((List.range 32).map (fun i =>
          (fmtT (floatC w)).round (rmOf w) (satOf w) none (blockVal (subNo w) md i (slotCode regs (subNo w) i))))))
  ∧ (∀ w, let wd := if subNo w == 0x16 then 16 else 8
      go (.zpsub w) w
      { form := w.lit.isNone, sub := subNo w == 0x16 || subNo w == 0x17, m6 := layoutZ w, d := .dst (32 * wd / 64),
        a := .src (slotRegs (subNo w) + 1) }
      (32 * wd / 64) (fun c l =>
        let regs := rangeOf c l w.a (slotRegs (subNo w) + 1)
        let z := zeroPoint (subNo w) (rangeMeta (subNo w) (regs.getD (slotRegs (subNo w)) 0))
        packWords wd ((List.range 32).map (fun i => wrap wd ((slotCode regs (subNo w) i : Int) - (z : Int))))))
  ∧ (∀ w, go (.pack w) w
      { form := w.lit.isNone, sub := denseType (subNo w), m6 := layoutZ w, d := .dst (payRegs (subNo w) + 1),
        a := .src (slotRegs (subNo w) + 1) }
      (payRegs (subNo w) + 1) (fun c l =>
        let regs := rangeOf c l w.a (slotRegs (subNo w) + 1)
        let x := ofElems (tyBits (subNo w)) ((List.range 32).map (slotCode regs (subNo w)))
        (List.range (payRegs (subNo w))).map (fun q => word (x / 2 ^ (64 * q) % 2 ^ 64)) ++ [regs.getD (slotRegs (subNo w)) 0]))
  ∧ (∀ w, go (.unpack w) w
      { form := w.lit.isNone, sub := denseType (subNo w), m6 := layoutZ w, d := .dst (slotRegs (subNo w) + 1),
        a := .src (payRegs (subNo w) + 1) }
      (slotRegs (subNo w) + 1) (fun c l =>
        let regs := rangeOf c l w.a (payRegs (subNo w) + 1)
        let x := ofElems 64 ((regs.take (payRegs (subNo w))).map BitVec.toNat)
        slotWords (subNo w) ((List.range 32).map (fun i => bitsAt x (tyBits (subNo w) * i) (tyBits (subNo w))))
          ++ [regs.getD (payRegs (subNo w)) 0]))
  ∧ (∀ w, go (.amaxb w) w
      { form := w.lit.isNone, sub := subNo w == 8 || subNo w == 9, m6 := layoutZ w, d := .dst 1, a := .src (floatRegs (subNo w)) }
      1 (fun c l => [word (fmtF32.round 0 false none
        (absMax (floatVals (rangeOf c l w.a (floatRegs (subNo w))) (subNo w))))]))

/-- SHFL, BCAST, PERM, MATCH, REDL and SCANL issue as long instructions: the entry holds each enabled lane's value,
formed from the lanes as they were; a vacant lane reads as zero (R200 to R204). A lost word that SHFL, BCAST or PERM reads of a lane,
enabled or not, is consumed: the first time the group restarts (R347, R358, R362, R364). That MATCH with C = p0 appends one slot is the
model's reading (log 16). -/
def Claims.CrossLane : Prop :=
  let long (i : Instr) (w : LongWord) (sh : Shape) (ds : List Dest) (x : Ic → List (Nat × Word)) : Prop :=
    ∀ s c, offer s w sh { entry := true, dests := ds } = .ok c → Completes i s (LongDone c ds Ord.relaxed .values (x c))
  let one (w : LongWord) : List Dest := [destOf w.d]
  let across (i : Instr) (w : LongWord) (sh : Shape) (reads : Ic → List Nat) (x : Ic → List (Nat × Word)) : Prop :=
    ∀ s c, offer s w sh { entry := true, dests := one w } = .ok c →
      let lost : Prop := isV w.a = true ∧ ∃ l ∈ reads c, (c.g.lane l).live = true ∧ w.a.toNat ∈ (c.g.lane l).bad
      (¬ lost → Completes i s (LongDone c (one w) Ord.relaxed .values (x c)))
      ∧ (lost → c.g.hm = none → c.g.rmtOp = false → c.pc ∉ c.g.poisonPc →
          exec i s = .next (poisonRestart (logLost c.s 1 c.core) c.core c.grp c.pc))
  let splat (w : LongWord) (c : Ic) (x : Word) : List (Nat × Word) := (if isV w.d then c.en else [0]).map (fun l => (l, x))
  (∀ w, across (.shfl w) w
      { sub := subNo w ≤ 1, m6 := w.m6.toNat < 4, d := .dst 1, a := .src 1, b := .src 1, port := .vector, ok12 := litFits (subNo w) w }
      (fun c => c.en.filterMap (fun l => shflLane w.m6.toNat l ((opB c (subNo w) l).toNat % 64) c.width))
      (fun c => c.en.map (fun l => (l,
        match shflLane w.m6.toNat l ((opB c (subNo w) l).toNat % 64) c.width with
        | some k => otherLane c k w.a
        | none => c.rd l w.a))))
  ∧ (∀ w, across (.bcast w) w
      { sub := bcastType (subNo w), m6 := layoutZ w, d := .dst 1, a := .src 1, b := .src 1, port := .lanes, ok12 := litFits (subNo w) w }
      (fun c => [bitsAt (opB c (subNo w) ((minNat c.en).getD 0)).toNat 0 6 % c.width])
      (fun c =>
        let i := (opB c (subNo w) ((minNat c.en).getD 0)).toNat
        let x := elem (tyBits (subNo w)) (bitsAt i 6 4 % (64 / tyBits (subNo w))) (otherLane c (bitsAt i 0 6 % c.width) w.a)
        splat w c (perElem (subNo w) (fun _ => x))))
  ∧ (∀ w, across (.perm w) w
      { form := w.lit.isNone, sub := subNo w ≤ 5 || (8 ≤ subNo w && subNo w ≤ 0xA), m6 := layoutZ w, d := .dst 1, a := .src 1,
        b := .src 1, port := .vector }
      (fun c => c.en.flatMap (fun l => (List.range (64 / tyBits (subNo w))).map (fun k =>
        elem (tyBits (subNo w)) k (c.rd l w.b) % (c.width * (64 / tyBits (subNo w))) / (64 / tyBits (subNo w)))))
      (fun c => c.en.map (fun l => (l, perElem (subNo w) (fun k =>
        let p := elem (tyBits (subNo w)) k (c.rd l w.b) % (c.width * (64 / tyBits (subNo w)))
        elem (tyBits (subNo w)) (p % (64 / tyBits (subNo w))) (otherLane c (p / (64 / tyBits (subNo w))) w.a))))))
  ∧ (∀ w, long (.matchOp w) w
      { form := w.lit.isNone, sub := subNo w ≤ 0xC, m6 := layoutZ w, d := .dst 1, a := .src 1, c := .pdst, port := .vector }
      (if w.c == 0#8 then [destOf w.d] else [destOf w.d, .p w.c.toNat]) (fun c =>
        c.en.map (fun l => (l, word ((matchLanes c (subNo w) l).map (fun m => 2 ^ m)).sum))
        ++ c.en.map (fun l => (64 + l, if minNat (matchLanes c (subNo w) l) == some l then 1 else 0))))
  ∧ (∀ w, long (.redl w) w
      { form := w.lit.isNone, sub := subNo w ≤ 0xA, m6 := redM6 w false, d := .dst 1, a := .src 1, port := .lanes }
      (one w) (fun c => splat w c (perElem (subNo w) (fun k =>
        (treeFold (redOp (w.m6.toNat % 8) (subNo w) (bitsAt w.m6.toNat 3 2)) 6 (contrib c (w.m6.toNat % 8) (subNo w) k)).headD 0))))
  ∧ (∀ w, long (.scanl w) w
      { form := w.lit.isNone, sub := subNo w ≤ 0xA, m6 := redM6 w true, d := .dst 1, a := .src 1, port := .vector }
      (one w) (fun c => c.en.map (fun l => (l, perElem (subNo w) (fun k =>
        let r := scanFold (redOp (w.m6.toNat % 8) (subNo w) (bitsAt w.m6.toNat 3 2)) none (contrib c (w.m6.toNat % 8) (subNo w) k)
        if nbit w.m6.toNat 5 then (redId (w.m6.toNat % 8) (subNo w) :: r).getD l 0 else r.getD l 0)))))

/-- The special functions, the blocks in registers and the cross-lane instructions complete: each issues as a long
instruction whose entry holds its lanes' values, and no register has changed; a lost word that a cross-lane
instruction reads of another lane restarts the group (R102, R180 to R183, R193 to R204, R347, R358, R362, R364). The
values of the special functions are those of the model's fixed-point forms (log 55), and that MATCH with C = p0
appends one slot is the model's reading (log 16). -/
def Obligations.LongResults : Prop := Claims.SpecialFunctions ∧ Claims.BlocksInRegisters ∧ Claims.CrossLane

/-! ### Blocks in registers, and lanes (chapter 11) -/

/-! ### Predicates (chapter 08) -/

/-- PSETI, PSETF, PLOP, PVOTE.some, PVOTE.every, PVOTE.same and ELECT complete: predicate D takes the entry's value in
every enabled lane, and nothing when D is p0 (R79, R138, R140 to R144). -/
def Claims.PredicateResults : Prop :=
  let go (i : Instr) (w : LongWord) (sh : Shape) (x : Ic → Nat → Bool) : Prop :=
    ∀ s c, offer s w sh {} = .ok c → Completes i s (PredDone c (x c))
  let vote (i : Instr) (w : LongWord) (op : Nat) (x : Nat → Nat → Bool) : Prop := go i w
    { form := w.lit.isNone, sub := subNo w == op, m6 := layoutZ w, d := .pdst, a := .psrc }
    (fun c _ => x (voters c).length c.en.length)
  (∀ w, go (.pseti w) w (shapePset w true (subNo w ≤ 7) 6) (fun c l =>
      combine (w.m6.toNat / 8) (condHolds (w.m6.toNat % 8)
        (compare (tyInt (subNo w) (c.rd l w.a).toNat) (tyInt (subNo w) (opB c (subNo w) l).toNat))) (readP c.g l w.c.toNat)))
  ∧ (∀ w, go (.psetf w) w (shapePset w w.lit.isNone (8 ≤ subNo w && subNo w ≤ 0xA) 8) (fun c l =>
      let val (x : Word) : Machine.Num := (fmtT (subNo w)).read (x.toNat % 2 ^ (fmtT (subNo w)).width)
      combine (w.m6.toNat / 8) (fcondHolds (w.m6.toNat % 8) (val (c.rd l w.a)) (val (c.rd l w.b))) (readP c.g l w.c.toNat)))
  ∧ (∀ w, go (.plop w) w
      { form := w.lit.isNone, m6 := layoutZ w, d := .pdst, a := .psrc, b := .psrc, c := .psrc, ok10 := subNo w / 16 != 0 || w.c == 0#8 }
      (fun c l => combine (subNo w / 16)
        (nbit (subNo w) ((if readP c.g l w.a.toNat then 2 else 0) + (if readP c.g l w.b.toNat then 1 else 0))) (readP c.g l w.c.toNat)))
  ∧ (∀ w, vote (.pvoteSome w) w 0 (fun k _ => k != 0)) ∧ (∀ w, vote (.pvoteEvery w) w 1 (fun k n => k == n))
  ∧ (∀ w, vote (.pvoteSame w) w 2 (fun k n => k == 0 || k == n))
  ∧ (∀ w, go (.elect w) w { shapeW w with d := .pdst } (fun c l => minNat c.en == some l))

/-- PVOTE.mask, PVOTE.count, PMOV.get and CLOCK complete with their word in D, and PMOV.set writes sixty-four
predicates of each enabled lane, p0 excepted (R137, R143, R144). -/
def Claims.PredicateWords : Prop :=
  let go (i : Instr) (w : LongWord) (sh : Shape) (x : Ic → Nat → Word) : Prop :=
    ∀ s c, offer s w sh {} = .ok c → Completes i s (ShortDone c (x c))
  let vote (w : LongWord) (op : Nat) : Shape :=
    { form := w.lit.isNone, sub := subNo w == op, m6 := layoutZ w, d := .dst 1, a := .psrc, port := .vector }
  (∀ w, go (.pvoteMask w) w (vote w 3) (fun c _ => word (((voters c).map (fun l => 2 ^ l)).sum)))
  ∧ (∀ w, go (.pvoteCount w) w (vote w 4) (fun c _ => word (voters c).length))
  ∧ (∀ w, go (.pmovGet w) w { form := w.lit.isNone, sub := subNo w < 4, m6 := layoutZ w, d := .dst 1, port := .vector }
      (fun c l => predWord c.g l (64 * (subNo w / 2))))
  ∧ (∀ w, go (.clock w) w { shapeW w with d := .dst 1 } (fun c _ => c.g.lc))
  ∧ (∀ w s c, offer s w { form := w.lit.isNone, sub := subNo w < 4, m6 := layoutZ w, a := .src 1, port := .vector } {} = .ok c →
      Completes (.pmovSet w) s (fun t => ∃ g,
        GroupWrites c.g g noWrite (fun _ => none) (fun l n =>
          if n != 0 && c.en.contains l && 64 * (subNo w / 2) ≤ n && n < 64 * (subNo w / 2) + 64
          then some ((c.rd l w.a).getLsbD (n - 64 * (subNo w / 2))) else none)
        ∧ c.retires [] g t))

/-- Every instruction that writes a predicate, or reads predicates as words, completes with the value of its entry (R79,
R137, R138, R140 to R144). -/
def Obligations.PredicateWrites : Prop := Claims.PredicateResults ∧ Claims.PredicateWords

/-! ### Issue, retirement and transfers (chapters 05, 07 and 08) -/

/-- An instruction is offered for issue and takes effect when its fields pass the decode checks, a lane is enabled,
nothing of its own steps of R343 stops it, its destinations fit the stretch, the table has an entry for it and it reads
no register with an error; a blocking one acts after its park. With no lane enabled it only retires (R80, R104, R106, R110, R343). -/
def Claims.IssueConditions : Prop :=
  ∀ s w sh k t g, tget s.teams s.iss.core = some t → tget t.groups s.iss.grp = some g →
    let c := issueIc s w sh t g
    c.act ≠ [] → decodeFail { sh with ok13 := k.flag (recOf s t) } w (recVregs (recOf s t)) = none →
    (k.blocking = true → g.parked = true ∨ g.rb = []) →
    let p := if k.blocking && !g.parked then c.atPark else c
    (p.en = [] → offer s w sh k = .error (.next (retire p.s c.core c.grp c.pc c.next c.act [] (w.s && !k.blocking))))
    ∧ (p.en ≠ [] → k.pre p = none → (k.tx ≠ none → ∀ l ∈ p.en, (g.lane l).txs = .none_) → k.late p = none →
        (k.dests ≠ [] → stretchFull p.g k.dests = none) → (k.entry = true → ottFull p.t c.grp = false) → lostRegister p k.dests.isEmpty = none →
        offer s w sh k = .ok p)

/-- Every step of R343 that an issue has before its own checks stops it with its trap, and nothing after it is
looked at: EILL of the decode checks with its reason, EILL and EPRIV of `pre`, ETXN of `tx` and of `late`, ESTRETCH (R343). -/
def Claims.IssueTraps : Prop :=
  ∀ s w sh k t g, tget s.teams s.iss.core = some t → tget t.groups s.iss.grp = some g → k.blocking = false →
    let c := issueIc s w sh t g
    let traps (x : TrapInfo) : Prop :=
      ∀ body, issue s w sh k body = .next (takeTrap s c.core c.grp x c.pc c.pc false false c.act)
    let dec := decodeFail { sh with ok13 := k.flag (recOf s t) } w (recVregs (recOf s t))
    let tx := c.en.any (fun l => (g.lane l).txs != .none_)
    c.act ≠ [] →
    (∀ n, dec = some n → traps (eill n s.iss.d16))
    ∧ (dec = none → c.en ≠ [] →
        (∀ x, k.pre c = some x → traps x)
        ∧ (k.pre c = none →
            (∀ n, k.tx = some n → tx = true → traps ⟨0x0D, 0, word n⟩)
            ∧ ((k.tx = none ∨ tx = false) → ∀ x, k.late c = some (.trap x) → traps x)
            ∧ ((k.tx = none ∨ tx = false) → k.late c = none → ∀ n, k.dests ≠ [] → stretchFull g k.dests = some n → traps ⟨0x12, 0, word n⟩)))

/-- An instruction that reads a register with an error that cannot be corrected, of which it writes nothing: the first
time its group restarts at its region entries, and when it meets the error again before a park point, or after a remote
atomic, EUNCORR is its issue trap, with STRUCT and the number of the register; the error is logged. A source register
of an enabled lane is read; with no error in a register nothing is lost; a short result in a part of the lanes of a code word reads
the word (R347, R358, R359, R362, R364). That narrow groups share a word, and that the word of a long result's destination is read
at its commit, is log 54. -/
def Claims.RegisterErrors : Prop :=
  (∀ s w sh k t g body r, tget s.teams s.iss.core = some t → tget t.groups s.iss.grp = some g → k.blocking = false →
    let c := issueIc s w sh t g
    c.act ≠ [] → decodeFail { sh with ok13 := k.flag (recOf s t) } w (recVregs (recOf s t)) = none → c.en ≠ [] → k.pre c = none →
    (k.tx = none ∨ ∀ l ∈ c.en, (g.lane l).txs = .none_) → k.late c = none → (k.dests = [] ∨ stretchFull g k.dests = none) →
    (k.entry = false ∨ ottFull t c.grp = false) → lostRegister c k.dests.isEmpty = some r → g.hm = none →
    let u := logLost s (if r.1 then 1 else 7) c.core
    let x : TrapInfo := ⟨0x10, 0, word (16 * (if r.1 then 1 else 7) + 256 * r.2)⟩
    (g.rmtOp = false → c.pc ∉ g.poisonPc → issue s w sh k body =
      .next (modGroup (regionRestart u c.core c.grp) c.core c.grp (fun g => { g with poisonPc := c.pc :: g.poisonPc })))
    ∧ (g.rmtOp = true ∨ c.pc ∈ g.poisonPc → issue s w sh k body =
      .next (takeTrap u c.core c.grp x c.pc c.pc false false c.act)))
  ∧ (∀ c : Ic, c.g.sbad = [] → (∀ x ∈ c.g.threads, x.bad = []) → ∀ short, lostRegister c short = none)
  ∧ (∀ (c : Ic) l short, c.sh.a = .src 1 → c.w.lit = none → isV c.w.a = true → l ∈ c.en → c.w.a.toNat ∈ (c.g.lane l).bad →
      ∃ r, lostRegister c short = some r ∧ r.1 = true)
  ∧ (∀ (c : Ic) short, c.sh.a = .src 1 → c.w.lit = none → isV c.w.a = false → c.w.a.toNat - 192 ∈ c.g.sbad → (lostRegister c short).isSome = true)
  ∧ (∀ (c : Ic) l, c.sh.d = .dst 1 → isV c.w.d = true → l ∈ c.en → wordLost c.g c.w.d.toNat l = true → wholeHalf c.g c.en (l / 32) = false →
      (lostRegister c true).isSome = true)

/-- When an instruction may issue, and what it takes instead when it may not: the conditions of issue and the traps of
issue, in their order, and the errors of registers (R80, R104, R106, R110, R343, R347, R358, R359, R362). Which code
words a register write reads, and when, is the model's reading (log 54); that guard and operands of a blocking
instruction are evaluated after its park is its choice (log 94). -/
def Obligations.IssueOrder : Prop := Claims.IssueConditions ∧ Claims.IssueTraps ∧ Claims.RegisterErrors

/-- A lane is enabled when it is active and p[GP] XOR GN is true; the guard ?!p0 enables none; and an instruction of
any shape with no enabled lane changes only what retiring changes: it advances, LC counts it, and S = 1 parks; a
blocking one waits for its park first, as any does (R72, R80, R104, R107). That its guard is then evaluated again, after the park,
is the model's choice (log 94). -/
def Obligations.GuardedOff : Prop :=
  (∀ g w act l, l ∈ enabledLanes g w act ↔ l ∈ act ∧ readP g l w.gp.toNat ≠ w.gn)
  ∧ (∀ g w act, w.gp = 0#7 → w.gn = true → enabledLanes g w act = [])
  ∧ (∀ s w sh k body t g, tget s.teams s.iss.core = some t → tget t.groups s.iss.grp = some g → k.blocking = false →
      let c := issueIc s w sh t g
      c.act ≠ [] → c.en = [] → decodeFail { sh with ok13 := k.flag (recOf s t) } w (recVregs (recOf s t)) = none →
      ∃ u, issue s w sh k body = .next u ∧ u = c.with (retireGroup c.pc c.next c.act [] w.s g) ∧ SameMemory s u)
  ∧ (∀ s w sh k body t g, tget s.teams s.iss.core = some t → tget t.groups s.iss.grp = some g → k.blocking = true →
      let c := issueIc s w sh t g
      c.act ≠ [] → c.en = [] → decodeFail { sh with ok13 := k.flag (recOf s t) } w (recVregs (recOf s t)) = none →
      (g.parked = false → g.rb ≠ [] → issue s w sh k body = .next (c.with { g with status := .parking true c.pc c.next c.act }))
      ∧ (g.parked = true → ∃ u, issue s w sh k body = .next u ∧ u = c.with (retireGroup c.pc c.next c.act [] false g) ∧ SameMemory s u)
      ∧ (g.parked = false → g.rb = [] → ∃ u, issue s w sh k body = .next u
          ∧ u = c.with (retireGroup c.pc c.next c.act [] false { g.openStretch with poisonPc := [], parked := true }) ∧ SameMemory s u))

/-- Retirement: each active lane goes where the instruction sends it or advances, every other lane stays; LC counts
the instruction, modulo 2^64; an executed S of 1 parks the group; nothing else of the group that software sees
changes (R72, R104, R111, R137). -/
def Claims.Retirement : Prop :=
  ∀ g pc next (act : List Nat) xfer park, act.Nodup →
    retireGroup pc next act xfer park g =
      { g.mapLanes (fun l x =>
          if act.contains l then
            match xfer.find? (fun y => y.1 == l) with
            | some y => { x with pc := y.2 }
            | none => x.advance pc next
          else x) with
        lc := g.lc + 1, parked := false, stall := none, granted := false, walked := [], yielded := none,
        status := if park then .parking false pc next act else g.status }

/-- The loop-stack rule at the end of an instruction that does not transfer: at the top entry's END with COUNT above 1
the count falls and the thread goes to START; with COUNT 1 the entry is popped and the next is looked at; elsewhere
nothing changes. A taken transfer pops until an entry contains its target (R119, Table 7.8). -/
def Claims.LoopStack : Prop :=
  (∀ x : Thread, ∀ pc next, x.loops = [] → x.advance pc next = { x with pc := next })
  ∧ (∀ x : Thread, ∀ pc next e r, x.loops = e :: r →
      (e.stop.toNat ≠ pc.toNat → x.advance pc next = { x with pc := next })
      ∧ (e.stop.toNat = pc.toNat → 1 < e.count.toNat →
          x.advance pc next = { x with loops := { e with count := e.count - 1 } :: r, pc := word e.start.toNat })
      ∧ (e.stop.toNat = pc.toNat → e.count.toNat ≤ 1 → x.advance pc next = { x with loops := r }.advance pc next))
  ∧ (∀ a, popLoops [] a = [])
  ∧ (∀ e r a, popLoops (e :: r) a =
      if e.start.toNat ≤ a.toNat ∧ a.toNat ≤ e.stop.toNat then e :: r else popLoops r a)

/-- What retiring does: the next PCs of the lanes that took part, LC and PARK, and the end of a loop's body (R72, R104,
R111, R119, R137). -/
def Obligations.RetirementOrder : Prop := Claims.Retirement ∧ Claims.LoopStack

/-- The issue PC of a group that is not in a handler is the lowest next PC among its live threads that are not held,
and its active lanes are those whose next PC equals it (R111). -/
def Obligations.IssuePcIsLowest : Prop :=
  ∀ g : Group, g.hm = none →
    let ready (l : Nat) : Prop := l < g.threads.length ∧ (g.lane l).live = true ∧ (g.lane l).held = none
    (issuePc g = none ↔ ∀ l, ¬ ready l)
    ∧ (∀ pc, issuePc g = some pc →
        (∃ l, ready l ∧ (g.lane l).pc.toNat = pc.toNat) ∧ (∀ l, ready l → pc.toNat ≤ (g.lane l).pc.toNat)
        ∧ (∀ l, l ∈ activeLanes g pc ↔ ready l ∧ (g.lane l).pc.toNat = pc.toNat))

/-- BRA, BRX, CALL, CALLX and RET in every form complete: every enabled lane goes to its target, the link holds the
address after the instruction, A being read first, and BRA and BRX follow the loop-stack rule; an odd register target
raises EALIGN with the lowest such lane's, and no lane transfers (R121, R123). -/
def Obligations.Transfers : Prop :=
  let popped (c : Ic) (f : Nat → Word) : Group :=
    c.g.mapLanes (fun l x => if c.en.contains l then { x with loops := popLoops x.loops (f l) } else x)
  let goes (c : Ic) (f : Nat → Word) : List (Nat × Word) := c.en.map (fun l => (l, f l))
  let rel (w : LongWord) (c : Ic) (_ : Nat) : Word := relTarget c.pc (litInt w)
  let reg (w : LongWord) (c : Ic) (l : Nat) : Word := c.rd l w.a
  let bra (i : Instr) (w : LongWord) : Prop := ∀ s c, offer s w (shapeX w) {} = .ok c →
    Completes i s (c.retires (goes c (rel w c)) (popped c (rel w c)))
  let links (c : Ic) (w : LongWord) (f : Nat → Word) (t : State) : Prop := ∃ g,
    GroupWrites c.g g (vWrite w.d c.en (fun _ => c.next)) (sWrite w.d c.next) noWrite ∧ c.retires (goes c f) g t
  let call (i : Instr) (w : LongWord) : Prop := ∀ s c, offer s w (shapeCall w) {} = .ok c → Completes i s (links c w (rel w c))
  let even (w : LongWord) (c : Ic) : Prop := ∀ l ∈ c.en, (c.rd l w.a).getLsbD 0 = false
  let odd (i : Instr) (w : LongWord) (sh : Shape) : Prop := ∀ s c l, offer s w sh {} = .ok c → l ∈ c.en →
    (c.rd l w.a).getLsbD 0 = true → (∀ k ∈ c.en, k < l → (c.rd k w.a).getLsbD 0 = false) →
    exec i s = .next (takeTrap c.s c.core c.grp ⟨0x03, c.rd l w.a, 0⟩ c.pc c.pc false false c.act)
  let shX (w : LongWord) : Shape := { shapeW w with a := .src 1 }
  let shL (w : LongWord) : Shape := { shapeW w with d := .dst 1, a := .src 1 }
  (∀ w, bra (.bra w) w) ∧ (∀ w, bra (.braB w) (bLong w)) ∧ (∀ w, call (.call w) w) ∧ (∀ w, call (.callB w) (bLong w))
  ∧ (∀ w s c, offer s w (shX w) {} = .ok c → even w c → Completes (.brx w) s (c.retires (goes c (reg w c)) (popped c (reg w c))))
  ∧ (∀ w s c, offer s w (shX w) {} = .ok c → even w c → Completes (.ret w) s (c.retires (goes c (reg w c)) c.g))
  ∧ (∀ w s c, offer s w (shL w) {} = .ok c → even w c → Completes (.callx w) s (links c w (reg w c)))
  ∧ (∀ w, odd (.brx w) w (shX w)) ∧ (∀ w, odd (.ret w) w (shX w)) ∧ (∀ w, odd (.callx w) w (shL w))

/-- LOOP in both forms and LBRK complete: a lane with a count of 0 goes past END, every other enabled lane pushes its
entry and goes to START; LBRK sends each enabled lane with an entry relative to its END and pops as a taken transfer;
a fifth entry raises ELOOPDEPTH (R119, R125, R127). -/
def Obligations.Loops : Prop :=
  let loop (i : Instr) (w : LongWord) (sh : Shape) (count : Ic → Nat → Nat) : Prop := ∀ s c, offer s w sh {} = .ok c →
    let start := c.pc + 12
    let stop := c.pc + word (2 * (litNat w % 2 ^ 16))
    let zero := c.en.filter (fun l => count c l == 0)
    let push := c.en.filter (fun l => count c l != 0)
    ((∀ l ∈ push, (c.g.lane l).loops.length < 4) → ∀ past,
      (zero ≠ [] → ∃ pa, fetchParcel c.s c.core c.ctx c.svc c.g.walked stop.toNat = .ok pa
        ∧ past = stop + word (lengthOf (memNat c.s.mem pa 2))) →
      Completes i s (c.retires (c.en.map (fun l => (l, if count c l = 0 then past else start)))
        (c.g.mapLanes (fun l x => if push.contains l then
          { x with loops := ⟨BitVec.ofNat 56 start.toNat, BitVec.ofNat 56 stop.toNat, BitVec.ofNat 32 (count c l)⟩ :: x.loops } else x))))
    ∧ (∀ l ∈ push, 4 ≤ (c.g.lane l).loops.length → (∀ k ∈ push, k < l → (c.g.lane k).loops.length < 4) →
        exec i s = .next (takeTrap c.s c.core c.grp ⟨0x0A, 0, word l⟩ c.pc c.pc false false c.act))
  (∀ w, loop (.loop w) w (shapeLoop w) (fun c l => (c.rd l w.a).toNat % 2 ^ 32))
  ∧ (∀ w, loop (.loopImm w) w { form := w.lit.isSome, m6 := layoutZ w, ok12 := litNat w % 2 ^ 16 ≥ 6 }
      (fun _ _ => litNat w / 2 ^ 16))
  ∧ (∀ w s c, offer s w (shapeX w) {} = .ok c →
      let target (e : LoopEntry) : Word := relTarget (word e.stop.toNat) (litInt w)
      Completes (.lbrk w) s (c.retires
        (c.en.filterMap (fun l => (c.g.lane l).loops.head?.map (fun e => (l, target e))))
        (c.g.mapLanes (fun l x => if c.en.contains l then
          { x with loops := match x.loops with | [] => [] | e :: r => popLoops (e :: r) (target e) } else x))))

/-- NOP changes no state except the program counter and the logical clock, and with S = 1 it is a park point; its
words are 2 and, with S, 6; any other field set raises EILL (R122). -/
def Obligations.NopOnlyAdvances : Prop :=
  (∀ w s c, offer s w (shapeW w) {} = .ok c → Completes (.nop w) s (c.retires [] c.g))
  ∧ decodeTableWord 64 2 = some (.nop ⟨false, 0, 0, false, 0, 0, 0, 0, 0, none⟩)
  ∧ decodeTableWord 64 6 = some (.nop ⟨true, 0, 0, false, 0, 0, 0, 0, 0, none⟩)
  ∧ (∀ w s t g, tget s.teams s.iss.core = some t → tget t.groups s.iss.grp = some g → activeLanes g s.iss.pc ≠ [] →
      w.lit ≠ none ∨ w.sub6 ≠ 0 ∨ w.m6 ≠ 0 ∨ w.d ≠ 0 ∨ w.a ≠ 0 ∨ w.b ≠ 0 ∨ w.c ≠ 0 →
      ∃ n, exec (.nop w) s =
        .next (takeTrap s s.iss.core s.iss.grp (eill n s.iss.d16) s.iss.pc s.iss.pc false false (activeLanes g s.iss.pc)))

/-- YIELD, SETPRIO, REFORM and LAUNCH complete: YIELD only marks the group with the groups that it lets go first, SETPRIO sets its level, LAUNCH enters the
table with its lanes' records once every lane's address is checked, REFORM files the live threads at their next PCs
(R128, R131, R133, R139). -/
def Claims.SchedulingInstructions : Prop :=
  (∀ w s c, offer s w (shapeW w) {} = .ok c → Completes (.yield w) s (fun t =>
      t = c.with { retireGroup c.pc c.next c.act [] w.s c.g with yielded := if (yieldsTo c).isEmpty then none else some (yieldsTo c) } ∧ SameMemory s t))
  ∧ (∀ w s c, offer s w { form := w.lit.isNone, sub := subNo w < 4, m6 := layoutZ w } {} = .ok c →
      Completes (.setprio w) s (c.retires [] { c.g with prio := subNo w }))
  ∧ (∀ w s c ls, offer s w { shapeW w with d := .dst 1, a := .src 1 } { entry := true, tx := some 2, dests := [destOf w.d] } = .ok c →
      checkLanes c .launch 128 false (c.lanes.map (fun l => (l, (c.rd l w.a).toNat))) = .ok ls →
      Completes (.launch w) s (LongDone c [destOf w.d] ⟨false, true, false, .sys, none⟩
        (.launch ((if !isV w.d || isV w.a then ls else c.en.filterMap (fun l => (ls.head?).map (fun a => { a with lane := l }))).map
          (fun a => (a.lane, a))) none) []))
  ∧ (∀ w s c, offer s w (shapeX w) { blocking := true, tx := some 2, flag := recReform } = .ok c →
      let g := retireGroup c.pc c.next c.act (c.en.map (fun l => (l, relTarget c.pc (litInt w)))) false c.g
      Completes (.reform w) s (fun t => t = fileLanes (c.with g) c.core c.grp (liveLanes g) ∧ SameMemory s t))

/-- EXIT with the group's entries and combining entries drained and no latched error completes: its enabled threads
have left the live set and, when none is left, the group's context is free; with an error latched it raises it, and
no thread exits; with entries outstanding it waits (R129). -/
def Claims.ExitEndsThreads : Prop :=
  ∀ w s c, offer s w (shapeW w) { blocking := true, tx := some 2 } = .ok c →
    (drained c.t c.grp = true → latchedTrap c.g = none → Completes (.exit w) s (fun t =>
        t = retire (endThreads c.s c.core c.grp c.en) c.core c.grp c.pc c.next c.act [] false ∧ SameMemory s t
        ∧ (∀ g, groupAt t c.core c.grp = some g → ∀ l ∈ c.en, (g.lane l).live = false)
        ∧ ((∀ l, l < c.g.threads.length → (c.g.lane l).live = true → l ∈ c.en) → groupAt t c.core c.grp = none)))
    ∧ (∀ x, drained c.t c.grp = true → latchedTrap c.g = some x → exec (.exit w) s =
        .next (takeTrap (c.with { c.g with lc := c.g.lc + 1 }) c.core c.grp x c.pc c.pc false true c.act))
    ∧ (drained c.t c.grp = false → exec (.exit w) s =
        .next (c.with { c.g with status := .blocked .exit w c.len s.iss.d16, stall := none }))

/-- YIELD, SETPRIO, LAUNCH, REFORM and EXIT complete with the effect of their entries (R128, R129, R131, R133, R139). -/
def Obligations.SchedulingAndExit : Prop := Claims.SchedulingInstructions ∧ Claims.ExitEndsThreads

/-- TRAP with a lane enabled raises ESW: TINFO[31:0] is its code and the rest zero, TADDR is zero, TPC is the address
after it, which is where TRAPRET resumes; with no lane enabled it has no effect but to retire (R132). That the park of a TRAP with
S = 1 is not made is the model's choice (log 71). -/
def Obligations.SoftwareTrap : Prop :=
  ∀ w s,
    (∀ c, offer s w { shapeW w with form := true } {} = .ok c → exec (.trap w) s =
      .next (takeTrap (c.with { c.g with lc := c.g.lc + 1 }) c.core c.grp ⟨0x11, 0, word (litNat w)⟩ c.next c.next false false c.act)
      ∧ (word (litNat w)).toNat = litNat w ∧ litNat w < 2 ^ 32)
    ∧ (∀ t g, tget s.teams s.iss.core = some t → tget t.groups s.iss.grp = some g →
        let c := issueIc s w { shapeW w with form := true } t g
        c.act ≠ [] → c.en = [] → decodeFail { shapeW w with form := true } w (recVregs (recOf s t)) = none →
        exec (.trap w) s = .next (c.with (retireGroup c.pc c.next c.act [] w.s g)))

/-- The words without a meaning take EILL at their address with the reason of Table 5.11: ILLEGAL in every form 0x02,
an unassigned 32-bit opcode 0x04, an unassigned 64-bit or 96-bit opcode 0x05; the guard and S play no part. A
dictionary code runs the word of its entry, with the S of either, or takes the fault of an unreadable dictionary (R14, R74, R87,
R88). That reserved bits, entry 0 and DICT = 0 come before that fault is the model's reading (log 17). -/
def Obligations.IllegalWordsAndCodes : Prop :=
  (∀ s g, groupAt s s.iss.core s.iss.grp = some g → activeLanes g s.iss.pc ≠ [] →
    let traps (i : Instr) (n : Nat) : Prop := exec i s =
      .next (takeTrap s s.iss.core s.iss.grp (eill n s.iss.d16) s.iss.pc s.iss.pc false false (activeLanes g s.iss.pc))
    (∀ b, traps (.illegalK b) 2) ∧ (∀ w, traps (.illegalW w) 2) ∧ (∀ w, traps (.illegalX w) 2)
    ∧ (∀ w, traps (.unassignedOpcode (.w32 w)) 4) ∧ (∀ w, traps (.unassignedOpcode (.w64 w)) 5)
    ∧ (∀ w, traps (.unassignedOpcode (.w96 w)) 5)
    ∧ (let s0 := { s with iss := { s.iss with d16 := some ⟨false, 0, 0⟩ } }
       exec .illegalD16 s = .next (takeTrap s0 s.iss.core s.iss.grp ⟨0x01, 0, word (2 + 2 ^ 18)⟩ s.iss.pc s.iss.pc false false
         (activeLanes g s.iss.pc)))
    ∧ (∀ w l, (tget s.teams s.iss.core).bind (fun t => launchAt s t.launch) = some l →
        let s1 := { s with iss := { s.iss with len := 2, d16 := some w } }
        let trap (n : Nat) : Prop := exec (.d16Code w) s = .next (takeTrap s1 s.iss.core s.iss.grp
          ⟨0x01, 0, word (n + 2 ^ 8 * w.idx.toNat + 2 ^ 18)⟩ s.iss.pc s.iss.pc false false (activeLanes g s.iss.pc))
        let e := ((l.dict.getD []).getD w.idx.toNat 0).toNat % 2 ^ 32
        (w.rsvd ≠ 0 → trap 1)
        ∧ (w.rsvd = 0 → (w.idx = 0 ∨ recDict l.rec_ = 0) → trap 2)
        ∧ (∀ k, w.rsvd = 0 → w.idx ≠ 0 → recDict l.rec_ ≠ 0 → l.dictBad = some k → exec (.d16Code w) s = .next (takeTrap s1
            s.iss.core s.iss.grp (kindTrap k (recDict l.rec_ + 4 * w.idx.toNat)) s.iss.pc s.iss.pc false false (activeLanes g s.iss.pc)))
        ∧ (w.rsvd = 0 → w.idx ≠ 0 → recDict l.rec_ ≠ 0 → l.dictBad = none →
            (e % 4 ≠ 1 → trap 3)
            ∧ (e % 4 = 1 → exec (.d16Code w) s = exec (decode32 (if w.s = true ∧ nbit e 2 = false then e + 4 else e)) s1)
            ∧ (∀ k c, e % 4 = 1 → decode32 (if w.s = true ∧ nbit e 2 = false then e + 4 else e) = .movK k →
                offer s1 (kLong 0 k) (shapeInt1 (kLong 0 k) (subNo (kLong 0 k) == 0) false) {} = .ok c →
                Completes (.d16Code w) s (ShortDone c (fun l => c.rd l (kLong 0 k).a))))))

/-! ### Exceptions (chapter 21) -/

/-- A trap is delivered to a group whose launch has a handler: the four CSRs hold it; the handler lanes go to TRAPH
with empty loop stacks, every other lane keeps its place; the record keeps the resume point, the stretch and the
handler lanes' next PC, loop stack and TXS; a fresh stretch opens; no memory and no other core's team changes. `s1` is
the state once the group's outstanding local results that the core completes itself are in; while a local result that another unit
brings is out, the group waits with its trap, and it is taken in the state that the result leaves (R342, R344; log 97). -/
def Obligations.TrapDelivery : Prop :=
  ∀ s s1 core grp t tpc resume park latched lanes tm g, completeLocal s core grp (toldOf s core grp) 4160 = (s1, none) →
    tget s1.teams core = some tm → tget tm.groups grp = some g →
    (resultsOut s1 core grp = true → takeTrap s core grp t tpc resume park latched lanes = setTeam s1 core { tm with
        groups := tset tm.groups grp { g with status := .trapping t tpc resume park latched lanes, stall := none } })
    ∧ (g.status = .trapping t tpc resume park latched lanes → resultsOut s1 core grp = false →
        runTurn s1 (.trap core grp)
          = .next (takeTrap (modGroup { s1 with msg := none } core grp (fun g => { g with status := .running })) core grp t tpc resume park latched lanes))
    ∧ (resultsOut s1 core grp = false →
    recTraph (recOf s1 tm) ≠ 0 → g.hm = none → fetchFaults s1 (teamCtx s1 tm) (recTraph (recOf s1 tm)) = false →
    ∃ g', takeTrap s core grp t tpc resume park latched lanes = setTeam s1 core { tm with groups := tset tm.groups grp g' }
      ∧ g'.tcause.toNat = (t.cause + (if park then 0x100 else 0) + (if latched then 0x200 else 0)) % 2 ^ 64
      ∧ g'.tpc.toNat = tpc.toNat % 2 ^ 56 ∧ g'.taddr = t.taddr ∧ g'.tinfo = t.tinfo
      ∧ g'.rb = [] ∧ g'.status = .running ∧ g'.lc = g.lc ∧ g'.sreg = g.sreg ∧ g'.prio = g.prio
      ∧ (∀ l, l < g.threads.length → (g'.lane l).v = (g.lane l).v ∧ (g'.lane l).p = (g.lane l).p ∧ (g'.lane l).live = (g.lane l).live)
      ∧ (∀ l ∈ lanes, l < g.threads.length → (g'.lane l).pc = recTraph (recOf s1 tm) ∧ (g'.lane l).loops = []
          ∧ (g'.lane l).txs = .none_)
      ∧ (∀ l, l ∉ lanes → l < g.threads.length → (g'.lane l).pc = (g.lane l).pc ∧ (g'.lane l).loops = (g.lane l).loops)
      ∧ ∃ r, g'.hm = some r ∧ r.resume = resume ∧ r.park = park ∧ r.stretch = g.rb
        ∧ r.threads.map (fun x => (x.lane, x.pc, x.loops)) = lanes.map (fun l => (l, (g.lane l).pc, (g.lane l).loops))
        ∧ (∀ x ∈ r.threads, x.lane < g.threads.length → (g.lane x.lane).txs = .opened → x.txs = .doomed))

/-- With TRAPH = 0, in handler mode, or when the fetch at TRAPH faults, the team halts instead: no thread of it is
live, its bins are empty, its record is the trap's unless a team's first halt was recorded already, and its end has
begun (R338, R344). -/
def Obligations.TrapHalts : Prop :=
  ∀ s s1 core grp t tpc resume park latched lanes tm g, completeLocal s core grp (toldOf s core grp) 4160 = (s1, none) →
    resultsOut s1 core grp = false → tget s1.teams core = some tm → tget tm.groups grp = some g →
    recTraph (recOf s1 tm) = 0 ∨ g.hm ≠ none ∨ fetchFaults s1 (teamCtx s1 tm) (recTraph (recOf s1 tm)) = true →
    SameMemory s1 (takeTrap s core grp t tpc resume park latched lanes)
    ∧ ∃ tm', tget (takeTrap s core grp t tpc resume park latched lanes).teams core = some tm'
      ∧ (∀ e ∈ tm'.groups, ∀ x ∈ e.2.threads, x.live = false) ∧ (∀ b ∈ tm'.bins, b = none) ∧ tm'.ott = []
      ∧ tm'.ending ≠ .none_ ∧ tm'.halt = (match tm.halt with | some x => some x | none => some ⟨t, tpc, grp⟩)

/-- TRAPRET in a handler whose own stretch holds nothing pending completes: every thread of the record continues at
RESUME with its loop stack and TXS, and handler mode ends. When the trap was a park trap the record's stretch is committed: each
register holds the last filled slot's value for it, a failed slot writing nothing; otherwise the stretch is the record's and no
register has changed. Outside a handler it raises EILL with reason 0x0E (R107, R355). Where that commit would merge into a code word
that holds an error the group waits for the firmware, in its handler (R346, R359, R362, R364; log 54). -/
def Obligations.TrapReturn : Prop :=
  (∀ w s c r, offer s w (shapeW w) { pre := fun c => if c.g.hm.isNone || !c.g.rb.isEmpty then some wrongMode else none } = .ok c →
    c.g.hm = some r →
    (∀ n, returnLost c.g = some n → exec (.trapret w) s = .next (modGroup (logLost c.s 1 c.core) c.core c.grp (fun g => { g with
        status := .pageFault ⟨0x10, 0, word (16 + 256 * n)⟩ true none none .running, stall := none })))
    ∧ (returnLost c.g = none →
    let vEnd (l n : Nat) (x : Word) : Word := r.stretch.foldl (fun y k => match k.st, k.dest with
      | .filled res, .v m => if m = n ∧ l ∈ k.lanes then laneVal res l else y
      | _, _ => y) x
    let pEnd (l n : Nat) (x : Bool) : Bool := r.stretch.foldl (fun y k => match k.st, k.dest with
      | .filled res, .p m => if m = n ∧ n ≠ 0 ∧ l ∈ k.lanes then laneVal res l != 0 else y
      | _, _ => y) x
    let sEnd (n : Nat) (x : Word) : Word := r.stretch.foldl (fun y k => match k.st, k.dest with
      | .filled res, .s m => if m = n then laneVal res 0 else y
      | _, _ => y) x
    Completes (.trapret w) s (fun t => SameMemory s t ∧ ∃ g', groupAt t c.core c.grp = some g'
      ∧ (r.park = false → g'.sreg = c.g.sreg
          ∧ ∀ l, l < c.g.threads.length → (g'.lane l).v = (c.g.lane l).v ∧ (g'.lane l).p = (c.g.lane l).p)
      ∧ (r.park = true → (∀ n, wget g'.sreg n = sEnd n (wget c.g.sreg n))
          ∧ ∀ l, l < c.g.threads.length → (∀ n, wget (g'.lane l).v n = vEnd l n (wget (c.g.lane l).v n))
            ∧ ∀ n, n < 128 → (g'.lane l).p.getLsbD n = pEnd l n ((c.g.lane l).p.getLsbD n))
      ∧ g'.hm = none ∧ g'.lc = c.g.lc + 1 ∧ (r.park = false → g'.rb = r.stretch) ∧ (r.park = true → g'.rb = [])
      ∧ (∀ l x, r.threads.find? (fun y => y.lane == l) = some x → l < c.g.threads.length →
          (g'.lane l).pc = r.resume ∧ (g'.lane l).loops = x.loops ∧ (g'.lane l).txs = x.txs)
      ∧ (∀ l, (∀ x ∈ r.threads, x.lane ≠ l) → l ∉ c.act → l < c.g.threads.length →
          (g'.lane l).pc = (c.g.lane l).pc ∧ (g'.lane l).loops = (c.g.lane l).loops))))
  ∧ (∀ w s t g, tget s.teams s.iss.core = some t → tget t.groups s.iss.grp = some g → g.hm = none →
      let c := issueIc s w (shapeW w) t g
      c.act ≠ [] → c.en ≠ [] → decodeFail (shapeW w) w (recVregs (recOf s t)) = none →
      exec (.trapret w) s = .next (takeTrap s c.core c.grp ⟨0x01, 0, 0x0E⟩ c.pc c.pc false false c.act))

/-! ### Memory (chapters 04, 12 and 13) -/

/-- One lane's checks, in the order of Table 4.7: alignment, the translation, MT 6, the memory type of the access kind,
W, X, PEERDEAD; each failure has its trap, and a lane that passes them all has its translation (R59, R61, R223, R273). On a
page of MT 6 a service group loads and stores n32 and n64; a LAUNCH meets WINKIND there as on any other type (R59, R134). -/
def Claims.LaneChecks : Prop :=
  ∀ s core ctx svc walked k va align wide, k ≠ .pref → align ≠ 0 →
    let out := checkLane s core ctx svc walked k va align wide
    (va % align ≠ 0 → out = .trap ⟨0x03, word va, 0⟩)
    ∧ (va % align = 0 →
        (∀ n, translate s core ctx walked va = .fault n → n ≠ 2 → out = .trap (kindTrap n va))
        ∧ (translate s core ctx walked va = .fault 2 → out = .notValid)
        ∧ (∀ p, translate s core ctx walked va = .miss p → out = .miss p)
        ∧ (∀ x, translate s core ctx walked va = .ok x →
            (x.mt = 6 → k ≠ .launch →
              (svc = false → out = .trap ⟨0x02, word va, 5⟩)
              ∧ (svc = true →
                  (((k ≠ .load ∧ k ≠ .store) ∨ wide = false) → out = .trap ⟨0x13, word va, 4⟩)
                  ∧ (wide = true → k = .load → out = .ok x)
                  ∧ (wide = true → k = .store → out = if x.w then .ok x else .trap ⟨0x05, word va, 6⟩)))
            ∧ (x.mt = 6 → k = .launch → out = .trap ⟨0x13, word va, 4⟩)
            ∧ (x.mt ≠ 6 → admits k x.mt = false → out = .trap ⟨0x13, word va, 4⟩)
            ∧ (x.mt ≠ 6 → admits k x.mt = true →
                (needsW k = true → x.w = false → out = .trap ⟨0x05, word va, 6⟩)
                ∧ ((needsW k = true → x.w = true) →
                    (k = .fetch → x.x = false → out = .trap ⟨0x05, word va, 7⟩)
                    ∧ ((k = .fetch → x.x = true) →
                        (x.mt = 5 → s.peerdead.getLsbD x.aux = true → k ≠ .copySrc →
                          out = .trap ⟨0x08, word va, remoteInfo 0 6 x.aux 0 0 0⟩)
                        ∧ ((x.mt = 5 → k ≠ .copySrc → s.peerdead.getLsbD x.aux = false) → out = .ok x))))))

/-- The lanes of an instruction: when every lane passes, the accesses are the lanes with their addresses and
translations, in order; when no lane misses, the lowest failing lane's trap is the instruction's (R62, R64, R223). -/
def Claims.LanesTogether : Prop :=
  ∀ c k align wide (vas : List (Nat × Nat)),
    let one (va : Nat) : LaneTr := checkLane c.s c.core c.ctx c.svc c.g.walked k va align wide
    (∀ f : Nat → Xl, (∀ v ∈ vas, one v.2 = .ok (f v.2)) →
      checkLanes c k align wide vas = .ok (vas.map (fun v => ⟨v.1, v.2, f v.2⟩)))
    ∧ (∀ pre v post t, vas = pre ++ v :: post → (∀ u ∈ vas, ∀ p, one u.2 ≠ .miss p) → one v.2 = .trap t →
        (∀ u ∈ pre, ∀ t', one u.2 ≠ .trap t') → checkLanes c k align wide vas = .error (.trap t))

/-- The checks of one lane's address in the order of Table 4.7, and how the lanes' results make the instruction's (R59,
R61, R62, R64, R134, R223, R273). -/
def Obligations.CheckedLanes : Prop := Claims.LaneChecks ∧ Claims.LanesTogether

/-- LDG in every form and LDC complete once their lanes' addresses are checked: the entry holds the accesses with the lanes
in transaction and, for LDC, that its fill is retained; a slot waits for D, and no register has changed (R105, R222, R226).
What ETXN forbids of a transactional lane is the offer's (R308); a load whose bytes a buffered RED or PUBL of its team names
waits for the token, and a release at .clus or wider for it and for the buffer, but for a team that has passed the token
(`mayRelease`, log 28) (R316). -/
def Obligations.GlobalLoads : Prop :=
  let load (i : Instr) (w : LongWord) (k : AKind) : Prop :=
    ∀ s c ls, offer s w (shapeMem w (mLoad w) (.dst 1)) { entry := true, dests := [destOf w.d], late := txLate } = .ok c →
      checkLanes c k (tyBits (subNo w) / 8) (subNo w == 1 || subNo w == 3) (effLanes c) = .ok ls →
      overQuota c = false → meetsBuffered c (ls.map (fun a => (a, tyBits (subNo w) / 8))) = false →
      let work := Work.load (subNo w) (k == .ldc) (c.en.filter (inTx c)) ls
      c.mayRelease (effOrd (ordOf w.m6) work) →
      Completes i s (LongDone c [destOf w.d] (ordOf w.m6) work [])
  (∀ w, load (.ldg w) w .load) ∧ (∀ k, load (.ldgN32K k) (kLong 3 k) .load) ∧ (∀ k, load (.ldgN64K k) (kLong 1 k) .load)
  ∧ (∀ w, load (.ldc w) w .ldc)

/-- STG in every form completes once its lanes' addresses are checked: outside transactions the entry holds each lane's
value of D; a team that does not hold the token of its deterministic launch buffers it instead; no memory changes until
it is performed (R226, R315). A write to a peer that follows, in its thread, a narrow FENCE with release made over buffered writes waits
for the token (R269, R293, R316; log 102). -/
def Claims.GlobalStores : Prop :=
  let store (i : Instr) (w : LongWord) : Prop :=
    ∀ s c ls, offer s w (shapeMem w (mStore w) (.src 1)) { entry := true, late := txLate } = .ok c →
      checkLanes c .store (tyBits (subNo w) / 8) (subNo w == 1 || subNo w == 3) (effLanes c) = .ok ls →
      anyTx c = false → ls ≠ [] →
      let work := Work.store (subNo w) (ls.map (fun a => (a, c.rd a.lane w.d)))
      c.mayRelease (effOrd (ordOf w.m6) work) →
      (c.afterFence work → exec i s = .next (stallGroup c.s c.core c.grp .token))
      ∧ (¬ c.afterFence work →
          (c.writesNow → Completes i s (PostedDone c (ordOf w.m6) work))
          ∧ (c.buffers → Completes i s (BufferedDone c (ordOf w.m6) work))
          ∧ (recDet c.r = true → c.t.hasToken = false → c.t.hadToken = true →
              exec i s = .next (takeTrap c.s c.core c.grp ⟨0x0F, 0, 3⟩ c.pc c.pc false false c.act)))
  (∀ w, store (.stg w) w) ∧ (∀ k, store (.stgN32K k) (kLong 3 k)) ∧ (∀ k, store (.stgN64K k) (kLong 1 k))

/-- A store whose lanes are in OPEN transactions, to lines that the group's write set holds already, is kept in the
write set, in lane order, with its number in program order, its policy and its partition, and writes no memory (R214, R307). -/
def Claims.TransactionalStores : Prop :=
  let store (i : Instr) (w : LongWord) : Prop :=
    ∀ s c ls, offer s w (shapeMem w (mStore w) (.src 1)) { entry := true, late := txLate } = .ok c → c.uni = false →
      checkLanes c .store (tyBits (subNo w) / 8) (subNo w == 1 || subNo w == 3) (effLanes c) = .ok ls →
      (∀ l ∈ c.en, (c.g.lane l).txs = .opened) →
      let pa (a : Acc) : Nat := physAddr c.s c.ctx a.xl a.va false
      (∀ a ∈ ls, pa a / 128 ∈ txLines c.g) →
      Completes i s (PostedWith c (ordOf w.m6) .done { c.g with
        txw := c.g.txw ++ ls.map (fun a => ⟨c.s.stamp, a.lane, a.va, pa a, policy (ordOf w.m6) a.xl, a.xl.wp,
          leBytes (tyBits (subNo w) / 8) (c.rd a.lane w.d).toNat⟩) })
  (∀ w, store (.stg w) w) ∧ (∀ k, store (.stgN32K k) (kLong 3 k)) ∧ (∀ k, store (.stgN64K k) (kLong 1 k))

/-- STG in every form completes, outside transactions, in one, and in a deterministic launch (R214, R226, R307, R315). A
release of a team that has passed the token does not wait for it: that is the model's choice (log 28); that a write to
a peer after a narrow FENCE over buffered writes waits for the token is its reading (log 102). -/
def Obligations.StoresIssued : Prop := Claims.GlobalStores ∧ Claims.TransactionalStores

/-- A posted store to memory of MT 0 that is the first in its group's order, once performed, holds D's bytes at each
lane's address, the lane of highest LANEPOS last; every other byte of memory reads as before; the entry is gone where no
invalidation of the port buffers is pending or sent, and stays until they are applied (R299, R300). A buffered one has the work
of the DET buffer. The addresses are those of the translations that issue checked (R109, R224, R226). -/
def Claims.GlobalStoresPerformed : Prop :=
  ∀ s t e ty ls, tget s.teams s.iss.core = some t → t.ott.find? (fun x => x.id == s.iss.id) = some e →
    (realEntry t e).work = .store ty ls → e.long = false → mayPerform s (teamCtx s t) t e = true → Inv s →
    let pa (a : Acc) : Nat := physAddr s (teamCtx s t) a.xl a.va false
    let n := tyBits ty / 8
    (∀ x ∈ ls, x.1.xl.mt = 0 ∧ pa x.1 + n ≤ hbmTop) →
    ∃ u, exec .postedEntryPerformed s = .next u
      ∧ (∀ a, (∀ x ∈ ls, ¬ (pa x.1 ≤ a ∧ a < pa x.1 + n)) → memByte u.mem a = memByte s.mem a)
      ∧ (∀ pre x post, ls = pre ++ x :: post → ∀ a, pa x.1 ≤ a → a < pa x.1 + n →
          (∀ y ∈ post, ¬ (pa y.1 ≤ a ∧ a < pa y.1 + n)) →
          memByte u.mem a = BitVec.ofNat 8 (x.2.toNat / 256 ^ (a - pa x.1)))
      ∧ (s.portBufs = [] → s.pendInv = [] → Released s t e u)

/-- A posted STG without release to pages of MT 5 of live peers, once performed, has entered the write-combining buffer: under the
key of each peer and line the entry that is not drained holds D's bytes at each lane's address, the lane of highest LANEPOS last, over
what it held; memory is as it was, and the entry of the table is gone. With release a lane's bytes go to the peer as a write of its own,
which the entry of the table awaits (R217, R218, R224, R226, R269). -/
def Claims.PeerStoresPerformed : Prop :=
  ∀ s t e ty ls, tget s.teams s.iss.core = some t → t.ott.find? (fun x => x.id == s.iss.id) = some e →
    (realEntry t e).work = .store ty ls → e.long = false → e.bad = none → mayPerform s (teamCtx s t) t e = true →
    let pa (a : Acc) : Nat := physAddr s (teamCtx s t) a.xl a.va false
    let n := tyBits ty / 8
    let held (t : Team) (peer a : Nat) : Option Byte :=
      (t.wc.find? (fun w => w.peer == peer && w.line == a / 128 && w.seq.isNone)).bind (fun w => tget w.bytes (a % 128))
    (∀ x ∈ ls, x.1.xl.mt = 5 ∧ s.peerdead.getLsbD x.1.xl.aux = false ∧ pa x.1 % 128 + n ≤ 128) →
    (e.ord.rel = false → ∃ u t', exec .postedEntryPerformed s = .next u ∧ SameMemory s u ∧ Released s t e u
      ∧ tget u.teams s.iss.core = some t'
      ∧ (∀ peer a, (∀ x ∈ ls, x.1.xl.aux = peer → ¬ (pa x.1 ≤ a ∧ a < pa x.1 + n)) → held t' peer a = held t peer a)
      ∧ (∀ pre x post, ls = pre ++ x :: post → ∀ a, pa x.1 ≤ a → a < pa x.1 + n →
          (∀ y ∈ post, y.1.xl.aux = x.1.xl.aux → ¬ (pa y.1 ≤ a ∧ a < pa y.1 + n)) →
          held t' x.1.xl.aux a = some (BitVec.ofNat 8 (x.2.toNat / 256 ^ (a - pa x.1)))))
    ∧ (∀ x, ls = [x] → e.ord.rel = true → ∃ u r t', exec .postedEntryPerformed s = .next u ∧ SameMemory s u
      ∧ u.reqs = s.reqs ++ [r] ∧ r.kind = .write ∧ r.owner = x.1.xl.aux ∧ r.data = [(pa x.1, leBytes n x.2.toNat)]
      ∧ tget u.teams s.iss.core = some t' ∧ t'.wc = t.wc
      ∧ ∃ y ∈ t'.ott, y.id = e.id ∧ y.work = .remote [x.1.lane])

/-- A posted STS or STX, once performed, holds D's bytes at each lane's scratchpad offset, the lane of highest LANEPOS last, and
its entry is gone; every other byte of every scratchpad, and memory, is as before (R109, R224, R227). -/
def Claims.ScratchpadStoresPerformed : Prop :=
  ∀ s t e ty ls, tget s.teams s.iss.core = some t → t.ott.find? (fun x => x.id == s.iss.id) = some e →
    e.work = .sstore ty ls → e.long = false → e.bad = none → mayPerform s (teamCtx s t) t e = true →
    (∀ x ∈ ls, (tget s.teams x.1.core).isSome = true) →
    ∃ u, exec .postedEntryPerformed s = .next u ∧ SameMemory s u ∧ Released s t e u
      ∧ ∀ core, spadOf u core = ls.foldl (fun f x => putBytes f x.1.core x.1.off (tyBits ty / 8) x.2.toNat) (spadOf s) core

/-- A posted STB to memory of MT 0, once performed, has written the bytes of every lane's block, payload and metadata, piece
by piece in lane order, in one step; every byte outside the pieces reads as before (R109, R168, R229, R230). -/
def Claims.BlockStoresPerformed : Prop :=
  ∀ s t e ty ls, tget s.teams s.iss.core = some t → t.ott.find? (fun x => x.id == s.iss.id) = some e →
    (realEntry t e).work = .storeBlock ty ls → e.long = false → mayPerform s (teamCtx s t) t e = true →
    let pa (a : Acc) : Nat := physAddr s (teamCtx s t) a.xl a.va false
    (∀ b ∈ ls, ∀ x ∈ b.1, x.1.xl.mt = 0 ∧ pa x.1 + x.2 ≤ hbmTop) →
    ∃ u, exec .postedEntryPerformed s = .next u
      ∧ (∀ a, memByte u.mem a
          = memByte (ls.foldl (fun m b => (splitPieces b.1 b.2).foldl (fun m x => memWrite m (pa x.1) x.2) m) s.mem) a)
      ∧ (∀ a, (∀ b ∈ ls, ∀ x ∈ b.1, ¬ (pa x.1 ≤ a ∧ a < pa x.1 + x.2)) → memByte u.mem a = memByte s.mem a)
      ∧ (s.portBufs = [] → s.pendInv = [] → Released s t e u)

/-- What a performed store leaves: STG's bytes at each lane's address, in memory for MT 0 and in the write-combining
buffer for a peer's pages of MT 5, STS's and STX's in the scratchpads, STB's blocks, and every other byte as it was
(R109, R168, R217, R218, R224, R226, R227, R229, R230, R269, R299, R300). -/
def Obligations.StoresPerformed : Prop := Claims.GlobalStoresPerformed ∧ Claims.PeerStoresPerformed ∧ Claims.ScratchpadStoresPerformed ∧ Claims.BlockStoresPerformed

/-- A load of MT 0 that its group's order lets be performed returns, for every lane, extended into D's slot: the bytes of its
own transaction's writes, else of its team's buffered stores, else of memory, where the L1 holds no line that it reads; the
lines of the L1 that its lanes hit give their bytes instead of memory's. A lane of a transaction that is OPEN enters the sector
that it read in the read set, with the value read, or is doomed; an aligned item lies in one sector. No memory changes (R105, R109, R223,
R226, R307, R316). That a uniform load in transactions is each of their lanes', the lowest one's writes on top, is the model's
reading (log 61). -/
def Claims.GlobalLoadsPerformed : Prop :=
  ∀ s t e g ty retain tx ls, Due s t e g → e.work = .load ty retain tx ls → e.long = true → s.upsets = [] → s.poison = [] →
    let ctx := teamCtx s t
    let pa (a : Acc) : Nat := physAddr s ctx a.xl a.va false
    let n := tyBits ty / 8
    let inTx (a : Acc) : List Nat := if e.unif then tx else tx.filter (· == a.lane)
    let value (a : Acc) (bs : List Byte) : Word :=
      tyExt ty (leNat ((inTx a).foldr (fun l b => txOverlay g l e.id (pa a) b) (detOverlay s t ctx e.id (pa a) bs)))
    (∀ a ∈ ls, a.xl.mt = 0 ∧ a.xl.base % 128 = 0 ∧ a.xl.va0 % 128 = 0 ∧ a.xl.va0 ≤ a.va ∧ pa a % 32 + n ≤ 32 ∧ pa a + n ≤ hbmTop) →
    ((∀ a ∈ ls, clearsL1 e.ord = true ∨ policy e.ord a.xl = 3 ∨ ∀ y ∈ t.l1, y.line ≠ pa a / 128) →
      ∃ u, exec .longResultReturn s = .next u ∧ SameMemory s u
        ∧ (tx = [] → Returned s t e g (ls.map (fun a => (a.lane, value a (memRead s.mem (pa a) n)))) u)
        ∧ ∃ t' g', tget u.teams s.iss.core = some t' ∧ tget t'.groups e.grp = some g'
          ∧ g'.rb = fillFrom g.rb e.id 0 (ls.map (fun a => (a.lane, value a (memRead s.mem (pa a) n))))
          ∧ ∀ a ∈ ls, ∀ l ∈ inTx a, (g.lane l).txs = .opened → (g'.lane l).txs = .doomed
              ∨ ⟨l, pa a / 32, detOverlay s t ctx e.id (pa a / 32 * 32) (memRead s.mem (pa a / 32 * 32) 32)⟩ ∈ g'.txr)
    ∧ (∀ line : Acc → L1Line, tx = [] → clearsL1 e.ord = false →
        (∀ a ∈ ls, policy e.ord a.xl ≠ 3 ∧ t.l1.find? (fun x => x.line == pa a / 128) = some (line a) ∧ (line a).bad = []) →
        ∃ u, exec .longResultReturn s = .next u ∧ SameMemory s u
          ∧ Returned s t e g (ls.map (fun a => (a.lane, value a (((line a).data.drop (pa a % 128)).take n)))) u)

/-- An LDS or LDX returns the bytes at each lane's scratchpad offset, extended into D's slot; an ATOMS has its lanes take effect
one after another in ascending LANEPOS, returns the value that each has read, and leaves in the scratchpads what the last has
left. Every other byte of every scratchpad, and memory, is as before (R222, R227, R303 to R305). -/
def Claims.ScratchpadLoadsPerformed : Prop :=
  (∀ s t e g ty ls, Due s t e g → e.work = .sload ty ls → e.long = true → (∀ a ∈ ls, spadPoison s a.core a.off = false) →
    ∃ u, exec .longResultReturn s = .next u ∧ SameMemory s u ∧ (∀ core, spadOf u core = spadOf s core)
      ∧ Returned s t e g (ls.map (fun a => (a.lane, tyExt ty (memNat (spadOf s a.core) a.off (tyBits ty / 8))))) u)
  ∧ (∀ s t e g op ty ls, Due s t e g → e.work = .satom op ty ls → e.long = true →
      (∀ a ∈ ls, (tget s.teams a.acc.core).isSome = true ∧ spadPoison s a.acc.core a.acc.off = false) →
      let n := 2 ^ tyBits ty
      let done := atomsInTurn op ty (spadOf s)
        (ls.map (fun a => (a.acc.lane, a.acc.core, a.acc.off, a.b.toNat % n, a.n.toNat % n)))
      ∃ u, exec .longResultReturn s = .next u ∧ SameMemory s u ∧ (∀ core, spadOf u core = done.1 core)
        ∧ Returned s t e g done.2 u)

/-- An LDB of memory of the package, MT 0 or 7, reads every lane's payload and metadata in one step: where the L1 holds no line of
it the bytes are memory's under the team's buffered stores, the payload in its registers and the metadata in the last
(R168, R195, R229, R230, R316). -/
def Claims.BlockLoadsPerformed : Prop :=
  ∀ s t e g ty ls, Due s t e g → e.work = .loadBlock ty ls → e.long = true → s.upsets = [] → s.poison = [] →
    let ctx := teamCtx s t
    let qs (b : List (Acc × Nat)) : List (Nat × Nat) := localPieces s ctx b
    (∀ b ∈ ls, ∀ x ∈ b, x.1.xl.mt ≠ 5) → (∀ b ∈ ls, ∀ q ∈ qs b, q.1 + q.2 ≤ hbmTop) →
    (clearsL1 e.ord = true ∨ e.ord.hint = some 3 ∨ ∀ b ∈ ls, ∀ q ∈ qs b, ∀ y ∈ t.l1, y.line ∉ linesOf q.1 q.2) →
    let bytes (b : List (Acc × Nat)) : List Byte := (qs b).flatMap (fun q => detOverlay s t ctx e.id q.1 (memRead s.mem q.1 q.2))
    let nd := payRegs ty
    let regs (lane : Nat) (bs : List Byte) : List (Nat × Word) :=
      (List.range nd).map (fun r => (64 * r + lane, word (leNat (((bs.take (payBytes ty)).drop (8 * r)).take 8))))
        ++ [(64 * nd + lane, word (leNat ((bs.drop (payBytes ty)).take (if metaBytes ty = 4 then 8 else 1))))]
    ∃ u, exec .longResultReturn s = .next u ∧ SameMemory s u
      ∧ Returned s t e g (ls.flatMap (fun b => match b with | [] => [] | x :: _ => regs x.1.lane (bytes b))) u

/-- What a performed load returns: the bytes of memory, of the L1, of buffered stores and of a transaction for LDG and
LDC, those of scratchpads for LDS, LDX and ATOMS, and whole blocks for LDB (R105, R109, R168, R222, R226, R227, R229,
R303 to R305, R307, R316). That a uniform load in transactions is each of their lanes', the lowest one's writes on
top, is the model's reading (log 61). -/
def Obligations.LoadsPerformed : Prop := Claims.GlobalLoadsPerformed ∧ Claims.ScratchpadLoadsPerformed ∧ Claims.BlockLoadsPerformed

/-- LDS, STS, LDX and STX in every form complete once their lanes' scratchpad addresses are in range: loads wait for
their slot, stores hold each lane's value of D; an odd or out-of-range address traps with the lowest lane's; a release of a
team that has passed the token does not wait for it (log 28) (R223, R227). -/
def Claims.ScratchpadAccesses : Prop :=
  let load (i : Instr) (w : LongWord) (peer : Bool) : Prop :=
    ∀ s c ls, offer s w (shapeMem w (mSLoad w) (.dst 1)) { entry := true, dests := [destOf w.d] } = .ok c →
      checkSpads c peer (tyBits (subNo w) / 8) (effLanes c) = .ok ls →
      Completes i s (LongDone c [destOf w.d] (ordOf w.m6) (.sload (subNo w) ls) [])
  let store (i : Instr) (w : LongWord) (peer : Bool) : Prop :=
    ∀ s c ls, offer s w (shapeMem w (mSStore w) (.src 1)) { entry := true } = .ok c →
      checkSpads c peer (tyBits (subNo w) / 8) (effLanes c) = .ok ls → c.mayRelease (ordOf w.m6) →
      Completes i s (PostedDone c (ordOf w.m6) (.sstore (subNo w) (ls.map (fun a => (a, c.rd a.lane w.d)))))
  (∀ w, load (.lds w) w false) ∧ (∀ k, load (.ldsN32K k) (kLong 3 k) false) ∧ (∀ k, load (.ldsN64K k) (kLong 1 k) false)
  ∧ (∀ w, load (.ldx w) w true)
  ∧ (∀ w, store (.sts w) w false) ∧ (∀ k, store (.stsN32K k) (kLong 3 k) false) ∧ (∀ k, store (.stsN64K k) (kLong 1 k) false)
  ∧ (∀ w, store (.stx w) w true)
  ∧ (∀ c n l ea, n ≠ 0 →
      (ea % n ≠ 0 → ∀ peer, checkSpad c peer n l ea = .error ⟨0x03, word ea, 0⟩)
      ∧ (ea % n = 0 → ea + n ≤ recScratch c.r → checkSpad c false n l ea = .ok ⟨l, c.core, ea⟩)
      ∧ (ea % n = 0 → recScratch c.r < ea + n → checkSpad c false n l ea = .error ⟨0x05, word ea, 8⟩)
      ∧ (ea % n = 0 → ea < 2 ^ 24 → ea / 2 ^ 20 = c.t.tix → c.t.tix < recTeams c.r → ea % 2 ^ 20 + n ≤ recScratch c.r →
          checkSpad c true n l ea = .ok ⟨l, c.core, ea % 2 ^ 20⟩))

/-- LDB, STB, PREF and CMNT in every operation complete: their entries hold the blocks, lines or addresses of their
lanes, with STB's payload and metadata from D's registers, and no memory or register has changed (R228 to R231). A block's
payload and metadata are pieces of one access, each page with its own translation (R57, R229, R230); every line of a CMNT is
translated (R231). -/
def Claims.BlockAccessesAndHints : Prop :=
  let ds (w : LongWord) : List Dest := (List.range (payRegs (subNo w) + 1)).map (destAt w.d)
  let cm (i : Instr) (w : LongWord) (op : Nat) : Prop := ∀ s c ls,
    offer s w { sub := subNo w == op, a := .src 1, b := .src 1 } { entry := true } = .ok c →
    checkParts c .cmnt ((effLanes c).map (fun x =>
      (x.1, x.2, (x.2, 1, 128) :: (List.range w.m6.toNat).map (fun i => (x.2 / 128 * 128 + 128 * (i + 1), 1, 128))))) = .ok ls →
    Completes i s (PostedDone c Ord.relaxed
      (.cmnt op (ls.flatMap (fun l => l.map (fun x => { x.1 with va := x.1.va / 128 * 128 })))))
  (∀ w s c ls, offer s w (shapeBlock w (mLoad w) .dst) { entry := true, tx := some 2, dests := ds w } = .ok c →
    checkBlocks c .ldb = .ok ls → overQuota c = false → meetsBuffered c ls.flatten = false →
    c.mayRelease (effOrd (ordOf w.m6) (.loadBlock (subNo w) ls)) →
    Completes (.ldb w) s (LongDone c (ds w) (ordOf w.m6) (.loadBlock (subNo w) ls) []))
  ∧ (∀ w s c ls, offer s w (shapeBlock w (mStore w) .src) { entry := true, tx := some 2 } = .ok c →
      checkBlocks c .stb = .ok ls →
      let ty := subNo w
      let nd := payRegs ty
      let work := Work.storeBlock ty ((ls.zip c.lanes).map (fun (x : List (Acc × Nat) × Nat) => (x.1,
        substPayload ty (((List.range nd).flatMap (fun q => leBytes 8 (readRegAt c.g x.2 w.d q).toNat)).take (payBytes ty))
          ++ leBytes (if w.c == 0#8 then 4 else metaBytes ty) (substMeta ty (readRegAt c.g x.2 w.d nd).toNat))))
      c.mayRelease (effOrd (ordOf w.m6) work) → ¬ c.afterFence work →
      (c.writesNow → Completes (.stb w) s (PostedDone c (ordOf w.m6) work))
      ∧ (c.buffers → Completes (.stb w) s (BufferedDone c (ordOf w.m6) work)))
  ∧ (∀ w s c, offer s w { a := .src 1, b := .src 1 } { entry := true } = .ok c → (w.m6.toNat % 4 = 1 → overQuota c = false) →
      Completes (.pref w) s (PostedDone c Ord.relaxed (.pref (w.m6.toNat % 4) (subNo w + 1) ((effLanes c).map (·.2)))))
  ∧ (∀ w, cm (.cmntPin w) w 0) ∧ (∀ w, cm (.cmntUnpin w) w 1) ∧ (∀ w, cm (.cmntClean w) w 2)
  ∧ (∀ w, cm (.cmntEvict w) w 3) ∧ (∀ w, cm (.cmntL1inv w) w 4)

/-- The scratchpad accesses, the block accesses, PREF and CMNT complete with their entries (R57, R223, R227 to R231). A
release of a team that has passed the token does not wait for it: that is the model's choice (log 28). -/
def Obligations.ScratchpadAndBlocks : Prop := Claims.ScratchpadAccesses ∧ Claims.BlockAccessesAndHints

/-! ### Copies (chapter 13) -/

/-- CPY, CPYM and both forms of CPYG complete when their operands pass R236 and a channel is idle: the lowest idle
channel becomes ACTIVE, or DONE when there is nothing to copy, with the next generation, and the entry returns its
handle; a CPYG whose first page is no publish page is STOPPED at once (R232, R233, R236). That GEN
rises before the handle is formed, and that a copy of no bytes is only DONE, are the model's choices (log 94). -/
def Claims.CopyCommands : Prop :=
  let go (i : Instr) (w : LongWord) (kind : CopyKind) (sub : Bool) : Prop := ∀ s c k,
    offer s w (shapeCpy w sub) { entry := true, tx := some 2, dests := [destOf w.d] } = .ok c →
    let src := (c.rd 0 w.a).toNat
    let craw := (c.rd 0 w.c).toNat
    let n := if w.lit.isSome then litNat w else (c.rd 0 w.b).toNat
    let pub := kind == .cpyg || kind == .cpygSpad
    let dst := if pub then craw else craw % 2 ^ 20
    let mask := if kind == .cpym then bitsAt craw 32 12 else 0
    let gen := (((c.t.chan[k]?).map (·.gen)).getD 0 + 1) % 2 ^ 30
    let base : Channel :=
      { Channel.idle with st := if n = 0 then .done else .active, gen := gen, kind := kind, grp := c.grp, ctx := c.ctx, src := src,
                          dst := dst, len := n, mask := mask, hint := w.m6.toNat % 4, after := c.s.stamp, tids := c.tids.map (·.2) }
    let ends (ch : Channel) (s' : State) (t : State) : Prop :=
      t = ({ c with s := s', t := { c.t with chan := c.t.chan.set k ch } } : Ic).enters
        (c.entry true Ord.relaxed .values [(0, handleOf k gen)]) (c.slots [destOf w.d]) ∧ SameMemory c.s t
    checkCopy c kind src dst n mask craw = .ok () → c.t.chan.findIdx? (fun x => x.st == .idle) = some k →
    ((pub = false ∨ n = 0) → Completes i s (ends base c.s))
    ∧ (pub = true → n ≠ 0 →
        (∀ id, firstPage c.s c.ctx dst = .ok id → Completes i s (ends { base with pubId := some id, open_ := true }
          (modCtx c.s c.ctx (fun x => { x with openCpyg := tset x.openCpyg id (tgetD x.openCpyg id 0 + 1) }))))
        ∧ (∀ kd, firstPage c.s c.ctx dst = .error (some kd) →
            Completes i s (ends { base with st := .stopped, fkind := kd, fva := dst } c.s)))
  (∀ w, go (.cpy w) w .cpy (w.sub6 == 0#6)) ∧ (∀ w, go (.cpym w) w .cpym (w.sub6 == 0#6))
  ∧ (∀ w, go (.cpyg w) w .cpyg (w.sub6 == 0#6)) ∧ (∀ w, go (.cpygSpad w) w .cpygSpad (subNo w == 1))

/-- CWAIT, CWAIT.stat, WPTR, CCAN and PUBL complete. WPTR returns the channel's P, or all ones for a stale handle; a
stale CWAIT returns status 3; a CWAIT of a channel waits in its entry, which is an acquire at .team, and is served once the
channel is final; a PUBL is posted, or buffered in a deterministic launch (R237, R238, R240, R294, R315). -/
def Claims.CopyControl : Prop :=
  let shU (w : LongWord) : Shape := { shapeW w with d := .dst 1, a := .src 1, port := .uniform }
  let wait (i : Instr) (w : LongWord) (sub : Nat) : Prop := ∀ s c,
    offer s w { shU w with sub := subNo w == sub } { entry := true, dests := [destOf w.d] } = .ok c →
    (chanOf c.t (c.rd 0 w.a) = none → Completes i s (LongDone c [destOf w.d] Ord.relaxed .values [(0, word (3 * 2 ^ 56))]))
    ∧ (∀ k ch, chanOf c.t (c.rd 0 w.a) = some (k, ch) → Completes i s (fun t => SameMemory c.s t ∧
        t = serveWaiters (c.enters (c.entry true ⟨true, false, false, .team, none⟩ (.cwait k ch.gen (sub == 0)) []) (c.slots [destOf w.d])) c.core))
  (∀ w s c, offer s w (shU w) { entry := true, dests := [destOf w.d] } = .ok c →
    Completes (.wptr w) s (LongDone c [destOf w.d] Ord.relaxed .values [(0,
      match chanOf c.t (c.rd 0 w.a) with
      | some (_, ch) => word ch.p
      | none => word (2 ^ 64 - 1))]))
  ∧ (∀ w, wait (.cwait w) w 0) ∧ (∀ w, wait (.cwaitStat w) w 1)
  ∧ (∀ w s c ls, offer s w { shapeW w with m6 := w.m6.toNat ≤ 4, a := .src 1, port := .uniform } { entry := true, tx := some 2 } = .ok c →
      checkLanes c .publ 1 false [(0, (c.rd 0 w.a).toNat)] = .ok ls →
      ∀ a, ls.head? = some a →
      let o : Ord := ⟨false, true, false, scopeOf (w.m6.toNat % 8), none⟩
      (c.writesNow → Completes (.publ w) s (PostedDone c o (.publ a o.scope)))
      ∧ (c.buffers → Completes (.publ w) s (BufferedDone c o (.publ a o.scope))))

/-- The copy instructions complete: the commands start a channel, the others read it, wait for it or publish (R232, R233,
R236 to R240, R294, R315). That GEN rises before the handle is formed, and that a copy of no bytes is only DONE, are
the model's choices (log 94). -/
def Obligations.CopyIssued : Prop := Claims.CopyCommands ∧ Claims.CopyControl

/-- CCAN on an ACTIVE channel sets CANCELLED, keeping P, and ends its outstanding reads; on a STOPPED channel it sets
CANCELLED and keeps BYTES and KIND; on DONE, CANCELLED or a stale handle it changes no channel; it is posted, and the
CWAITs of the team are then served (R239). -/
def Obligations.CancelChannel : Prop :=
  ∀ w s c, offer s w { shapeW w with a := .src 1, port := .uniform } { entry := true } = .ok c →
    let posted (s' : State) (chan : List Channel) (t : State) : Prop := SameMemory s t ∧ t =
      serveWaiters (({ c with s := s', t := { c.t with chan := chan } } : Ic).enters (c.entry false Ord.relaxed .done []) c.g) c.core
    (chanOf c.t (c.rd 0 w.a) = none → Completes (.ccan w) s (posted c.s c.t.chan))
    ∧ ∀ k ch, chanOf c.t (c.rd 0 w.a) = some (k, ch) →
      ((ch.st = .done ∨ ch.st = .cancelled) → Completes (.ccan w) s (posted c.s c.t.chan))
      ∧ (ch.st = .stopped → Completes (.ccan w) s (posted c.s (c.t.chan.set k { ch with st := .cancelled })))
      ∧ (ch.st = .active → Completes (.ccan w) s (posted (dropChanReads (closeCpyg c.s ch false) c.core k)
          (c.t.chan.set k { ch with st := .cancelled, open_ := false, waitRemote := false })))

/-! ### Atomics, transactions, synchronisation (chapters 15 to 17) -/

/-- ATOM, ATOMX, RED and ATOMS complete on memory of the package and on scratchpads once their lanes' addresses are
checked: the entry holds each lane's address and operands; RED is posted, or buffered in a deterministic launch. On a
peer's memory they take their places in OUT of the stream, which is OPEN, and the group is not restarted from its region
entries any more. A release of a team that has passed the token does not wait for it (log 28) (R276, R285, R286, R303,
R305, R315). -/
def Claims.Atomics : Prop :=
  let work (w : LongWord) (st : Nat) (c : Ic) (ls : List Acc) : Work := .atom (w.c.toNat % 16) (subNo w) st (atomLanes c ls)
  let atPeer (ls : List Acc) : Nat := (ls.filter (fun a => a.xl.mt == 5)).length
  let placed (c : Ic) (st : Nat) (ls : List Acc) : Ic :=
    if atPeer ls = 0 then c
    else { c with s := modStream c.s c.ctx st (fun y => { y with out := y.out + atPeer ls }), g := { c.g with rmtOp := true } }
  let room (c : Ic) (st : Nat) (ls : List Acc) : Prop := atPeer ls = 0 ∨ (streamOf (ctxOf c.s c.ctx) st).out + atPeer ls ≤ 1024
  let long (i : Instr) (w : LongWord) (st : Nat) (high : Bool) : Prop := ∀ s c ls,
    offer s w (shapeAtom w (.dst 1) high) { entry := true, tx := some 2, dests := [destOf w.d] } = .ok c →
    checkAtoms c st = .ok ls → c.writesNow → room c st ls →
    Completes i s (LongDone (placed c st ls) [destOf w.d] (ordOf w.m6) (work w st c ls) [])
  (∀ w, long (.atom w) w 0 (w.c.toNat < 16)) ∧ (∀ w, long (.atomx w) w (w.c.toNat / 16) true)
  ∧ (∀ w s c ls, offer s w (shapeAtom w .unused (w.c.toNat < 16)) { entry := true, tx := some 2 } = .ok c →
      checkAtoms c 0 = .ok ls → c.mayRelease (effOrd (ordOf w.m6) (work w 0 c ls)) → ¬ c.afterFence (work w 0 c ls) → room c 0 ls →
      (c.writesNow → Completes (.red w) s (PostedDone (placed c 0 ls) (ordOf w.m6) (work w 0 c ls)))
      ∧ (c.buffers → Completes (.red w) s (BufferedDone (placed c 0 ls) (ordOf w.m6) (work w 0 c ls))))
  ∧ (∀ w s c ls, offer s w (shapeAtom w (.dst 1) (w.c.toNat < 32)) { entry := true, dests := [destOf w.d] } = .ok c →
      checkSpads c (nbit w.c.toNat 4) (tyBits (subNo w) / 8) (c.lanes.map (fun l => (l, (c.rd l w.a).toNat))) = .ok ls →
      c.mayRelease (ordOf w.m6) →
      Completes (.atoms w) s (LongDone c [destOf w.d] (ordOf w.m6) (.satom (w.c.toNat % 16) (subNo w)
        (ls.map (fun a => ⟨a, opB c (subNo w) a.lane, readRegAt c.g a.lane w.b 1⟩))) []))

/-- The new memory value of each atomic operation: integer add wraps modulo 2^w, min and max are of the type's
signedness, and, or, xor and exch are of the bits, cas stores the second operand when the bits are equal; f32 add is the sum
rounded to nearest even, and f32 min and max are those of the two values, in the order m, b (R177, R178, R303). -/
def Claims.AtomicValues : Prop :=
  (∀ ty m b n, ty ≠ 8 → m < 2 ^ tyBits ty → b < 2 ^ tyBits ty →
    atomNew 0 ty m b n = (m + b) % 2 ^ tyBits ty
    ∧ tyInt ty (atomNew 1 ty m b n) = min (tyInt ty m) (tyInt ty b)
    ∧ tyInt ty (atomNew 2 ty m b n) = max (tyInt ty m) (tyInt ty b)
    ∧ (∀ i, (atomNew 3 ty m b n).testBit i = (m.testBit i && b.testBit i))
    ∧ (∀ i, (atomNew 4 ty m b n).testBit i = (m.testBit i || b.testBit i))
    ∧ (∀ i, (atomNew 5 ty m b n).testBit i = (m.testBit i ^^ b.testBit i)))
  ∧ (∀ ty m b n, atomNew 6 ty m b n = b ∧ atomNew 7 ty m b n = (if m = b then n else m))
  ∧ (∀ m b n, let rne (v : Machine.Num) : Nat := fmtF32.round 0 false none v
      atomNew 0 8 m b n = rne (numAdd 0 (fmtF32.read m) (fmtF32.read b))
      ∧ atomNew 1 8 m b n = rne (numMin (fmtF32.read m) (fmtF32.read b))
      ∧ atomNew 2 8 m b n = rne (numMax (fmtF32.read m) (fmtF32.read b)))

/-- ATOM, ATOMX and RED on memory of the package take effect in one step, their lanes one after another in ascending
LANEPOS: memory then holds what the last has left, every other byte as before, and an ATOM or ATOMX returns the value that each
lane has read once no invalidation of the port buffers is pending; a RED's entry is then gone (R109, R286, R299, R303 to R305). -/
def Claims.AtomicsPerformed : Prop :=
  let lanes (s : State) (ctx ty : Nat) (ls : List AtomLane) : List (Nat × Nat × Nat × Nat × Nat) :=
    ls.map (fun a => (a.acc.lane, 0, physAddr s ctx a.acc.xl a.acc.va false, a.b.toNat % 2 ^ tyBits ty, a.n.toNat % 2 ^ tyBits ty))
  let home (s : State) (ctx ty : Nat) (ls : List AtomLane) : Prop :=
    s.upsets = [] ∧ s.poison = [] ∧ ∀ a ∈ ls, a.acc.xl.mt = 0 ∧ physAddr s ctx a.acc.xl a.acc.va false + tyBits ty / 8 ≤ hbmTop
  let leaves (s u : State) (ctx op ty : Nat) (ls : List AtomLane) : Prop :=
    (∀ a, memByte u.mem a = memByte ((atomsInTurn op ty (fun _ => s.mem) (lanes s ctx ty ls)).1 0) a)
    ∧ ∀ a, (∀ x ∈ lanes s ctx ty ls, ¬ (x.2.2.1 ≤ a ∧ a < x.2.2.1 + tyBits ty / 8)) → memByte u.mem a = memByte s.mem a
  (∀ s t e g op ty st ls, Due s t e g → e.work = .atom op ty st ls → e.long = true → home s (teamCtx s t) ty ls →
    ∃ u, exec .longResultReturn s = .next u ∧ leaves s u (teamCtx s t) op ty ls
      ∧ (s.portBufs = [] → s.pendInv = [] →
          Returned s t e g (atomsInTurn op ty (fun _ => s.mem) (lanes s (teamCtx s t) ty ls)).2 u))
  ∧ (∀ s t e op ty st ls, tget s.teams s.iss.core = some t → t.ott.find? (fun x => x.id == s.iss.id) = some e →
      (realEntry t e).work = .atom op ty st ls → e.long = false → mayPerform s (teamCtx s t) t e = true →
      home s (teamCtx s t) ty ls →
      ∃ u, exec .postedEntryPerformed s = .next u ∧ leaves s u (teamCtx s t) op ty ls
        ∧ (s.portBufs = [] → s.pendInv = [] → Released s t e u))

/-- The atomics complete, each operation's new value is that of its table, and performed on memory of the package its
lanes take effect in turn. A release of a team that has passed the token does not wait for it: that is the model's
choice (log 28) (R109, R276, R285, R286, R303, R304, R305, R315). -/
def Obligations.AtomicOperations : Prop := Claims.Atomics ∧ Claims.AtomicValues ∧ Claims.AtomicsPerformed

/-- TBEGIN opens the enabled lanes with empty sets, TABORT dooms the OPEN ones with its code, TSTAT returns TXW with
the state in its field; each completes (R306, R309). -/
def Claims.Transactions : Prop :=
  (∀ w s c, offer s w (shapeW w) { entry := true, tx := some 1 } = .ok c →
    Completes (.tbegin w) s (PostedWith c Ord.relaxed .done
      { c.g.mapLanes (fun l x => if c.en.contains l then { x with txs := .opened } else x) with
        txr := c.g.txr.filter (fun r => !c.en.contains r.lane), txw := c.g.txw.filter (fun r => !c.en.contains r.lane) }))
  ∧ (∀ w s c, offer s w { shapeW w with form := true, ok12 := litNat w < 256 } { entry := true } = .ok c →
      Completes (.tabort w) s (PostedWith c Ord.relaxed .done (c.g.mapLanes (fun l x =>
        if c.en.contains l && x.txs == .opened then { x with txs := .doomed, txw := txStatus 6 (litNat w) 0 0 } else x))))
  ∧ (∀ w s c, offer s w { shapeW w with d := .dst 1, port := .vector } { entry := true, dests := [destOf w.d] } = .ok c →
      Completes (.tstat w) s (LongDone c [destOf w.d] Ord.relaxed .values
        (c.en.map (fun l => (l, (c.g.lane l).txw ||| word (2 ^ 22 * (match (c.g.lane l).txs with | .none_ => 0 | .opened => 1 | .doomed => 2)))))))

/-- TCOMMIT, with the team's DET store buffer drained, the group's transactional loads returned and the accesses that its release
orders performed, completes for every enabled lane: in ascending LANEPOS an OPEN lane that conflicts with an earlier one that still wins
has outcome 2 and that one's number; each that still wins writes its set, as one event, where every sector that it read still holds the
recorded value, with outcome 1, and else nothing, with outcome 3; a DOOMED lane reports its TXW; all of these are then outside
transactions; a lane that was in none has D = 0. Memory holds those writes and is otherwise as before. The entry returns at once, or
after the invalidations of the lines that were written (R299, R309). That TCOMMIT acts at its issue, once what it waits for has
come, is the model's reading (log 25), and that WINNER is the lowest where several conflict its choice (log 96). -/
def Claims.Commit : Prop :=
  ∀ w s c, offer s w { shapeW w with d := .dst 1, port := .vector } { entry := true, dests := [destOf w.d] } = .ok c →
    c.writesNow → c.t.det = [] → commitReady c = true → (∀ x ∈ c.g.txw, x.pa + x.bytes.length ≤ hbmTop) →
    let opened (l : Nat) : Prop := l ∈ c.en ∧ (c.g.lane l).txs = .opened
    let wrote (l x : Nat) : Prop := ∃ y ∈ c.g.txw, y.lane = l ∧ x ∈ sectorsOf y.pa y.bytes.length
    let hasRead (l x : Nat) : Prop := ∃ y ∈ c.g.txr, y.lane = l ∧ y.sector = x
    let conflict (k l : Nat) : Prop := ∃ x, (wrote k x ∧ (hasRead l x ∨ wrote l x)) ∨ (hasRead k x ∧ wrote l x)
    let ws (l : Nat) : List TxWrite := c.g.txw.filter (fun x => x.lane == l)
    let valid (m : List Host.Cell) (l : Nat) : Bool :=
      (c.g.txr.filter (fun r => r.lane == l)).all (fun r => memRead m (r.sector * 32) 32 == r.bytes)
    ∀ win : List Nat, win.Sublist c.en → (∀ l, l ∈ win ↔ opened l ∧ ∀ k ∈ win, k < l → ¬ conflict k l) →
    let ran := win.foldl (fun (m : List Host.Cell × List (Nat × Nat)) l =>
      if valid m.1 l then ((ws l).foldl (fun m x => memWrite m x.pa x.bytes) m.1, m.2 ++ [(l, 1)]) else (m.1, m.2 ++ [(l, 3)])) (c.s.mem, [])
    Completes (.tcommit w) s (fun t => ∃ tm g e, ∃ res : Nat → Word, tget t.teams c.core = some tm ∧ tget tm.groups c.grp = some g
      ∧ (∀ l ∈ c.en, ((c.g.lane l).txs = .none_ → res l = 0) ∧ ((c.g.lane l).txs = .doomed → res l = (c.g.lane l).txw)
          ∧ (∀ k ∈ win, k < l → opened l → conflict k l → (∀ j ∈ win, j < k → ¬ conflict j l) → res l = txStatus 2 0 k 0)
          ∧ (∀ n, (l, n) ∈ ran.2 → res l = txStatus n 0 0 0))
      ∧ (∀ l ∈ c.en, (g.lane l).txs = .none_ ∧ ((c.g.lane l).txs ≠ .none_ → (g.lane l).txw = res l))
      ∧ (∀ l, l ∉ c.en → (g.lane l).txs = (c.g.lane l).txs ∧ (g.lane l).txw = (c.g.lane l).txw)
      ∧ (∀ a, memByte t.mem a = memByte ran.1 a)
      ∧ tm.ott = c.t.ott ++ [e] ∧ e.long = true ∧ e.got = c.en.map (fun l => (l, res l))
      ∧ (c.s.portBufs = [] → c.s.pendInv = [] → e.work = .values)
      ∧ (e.work ≠ .values → ∃ lines, e.work = .inval lines ∧ ∀ n ∈ lines, (∃ p ∈ t.pendInv, p.2 = n)
          ∧ ∃ l x, (l, 1) ∈ ran.2 ∧ x ∈ ws l ∧ n ∈ linesOf x.pa x.bytes.length))

/-- The transaction instructions complete; a commit of any number of lanes performs each one's write set or aborts as its
conditions say, the conflict within the group among them, reports a lane that is DOOMED, and gives 0 to a lane outside
transactions (R299, R306, R309). That TCOMMIT acts at its issue, once what it waits for has come, is the model's
reading (log 25), and that WINNER is the lowest where several conflict its choice (log 96). -/
def Obligations.TransactionControl : Prop := Claims.Transactions ∧ Claims.Commit

/-- FENCE, BAR, CBAR, CBAR.copy, ARRIVE and WAITV complete where what they wait for holds: FENCE drops the core's L1
when it acquires at .clus or wider, or after a read of a peer's memory (an sc one after any access to it), and with release has the pending invalidations of the
port buffers applied (log 80); BAR and CBAR hold the enabled lanes; CBAR.copy takes its count, modulo 2^32 in a register (log 23),
sets a region entry (after the END check, log 15), and those who have waited behind it go on; ARRIVE posts its addition; WAITV
goes on at a local object that is reached and that its group's order lets it read, dropping its line or, at .clus or wider, the
L1. A release of a team that has passed the token does not wait for it (log 28), BAR and CBAR wait neither for it nor for buffered
writes (log 62), and a FENCE with release waits for all that its team has combined (log 89); one over buffered writes is noted, so that
what follows it marks the locations that it writes (log 102) (R212, R218, R269, R293, R297, R299, R310 to R313, R316, R347). -/
def Claims.Synchronisation : Prop :=
  let after (c : Ic) (s' t : State) : Prop := t = retire s' c.core c.grp c.pc c.next c.act [] false ∧ SameMemory c.s t
  let bar (i : Instr) (w : LongWord) (n : Nat) (clus : Bool) (h : Nat → Held) : Prop := ∀ s c,
    offer s w { shapeW w with sub := subNo w < n } { blocking := true, tx := some 2 } = .ok c → earlierDone c .team c.en = true →
    (clus = true → wcQuiet c.t = true) →
    Completes i s (fun t => t = arriveAt c (h (subNo w)) (c.with (retireGroup c.pc c.next c.act [] false c.g)) ∧ SameMemory s t)
  (∀ w s c, offer s w { shapeW w with m6 := layoutM [1, 2, 3, 4] w.m6 } { blocking := true, tx := some 2 } = .ok c →
    let o := ordOf w.m6
    let far : Bool := c.en.any (fun l => (c.g.lane l).far || (o.sc && (c.g.lane l).wrote))
    c.mayRelease o → (o.rel = true → farBuffered c = false) → (o.rel = true → earlierDone c o.scope c.en = true) →
    (o.rel = true ∨ o.scope = .sys → wcQuiet c.t = true) → (o.scope = .sys → latchedTrap c.g = none) →
    (o.acq = true → c.s.iss.id = 1 ∨ marksFree c.s (if far = true then 4 else scopeRank o.scope) = true) →
    (o.sc = true → o.scope = .sys ∨ far = true → c.s.iss.id = 1 ∨ livePeers c.s = []) →
    let s' := if o.rel then applyAll c.s else c.s
    Completes (.fence w) s (after c (noteFence c o (if clearsL1 o = true ∨ (o.acq = true ∧ far = true) then l1Clear s' c.core else s'))))
  ∧ (∀ w, bar (.bar w) w 16 false .bar) ∧ (∀ w, bar (.cbar w) w 4 true .cbar)
  ∧ (∀ w s c,
      offer s w
        { form := w.lit.isSome || w.a != 0#8, sub := 4 ≤ subNo w && subNo w < 8, m6 := layoutZ w, a := .src 1, litA := true, port := .uniform }
        { blocking := true, tx := some 2 } = .ok c →
      let n := if w.lit.isSome then litNat w else (c.rd 0 w.a).toNat % 2 ^ 32
      (n = 0 ∨ (ccFirst c.t c.grp ((ccSince c.g).getD c.s.stamp) = true ∧ n ≤ c.t.cc)) →
      Completes (.cbarCopy w) s (fun t => SameMemory s t ∧ t = modTeam (setEntries (setTeam c.s c.core { c.t with
        cc := c.t.cc - n, l1 := [], groups := tset c.t.groups c.grp (retireGroup c.pc c.next c.act [] false c.g) })
        c.core c.grp c.en) c.core (settleCc c.s.stamp 2048)))
  ∧ (∀ w s c a, offer s w { sub := w.sub6 == 0#6, m6 := layoutM [0, 2] w.m6, a := .src 1, b := .src 1, port := .uniform }
        { entry := true } = .ok c →
      checkLanes c .arrive 64 false [(0, (c.rd 0 w.a).toNat)] = .ok [a] →
      c.mayRelease (ordOf w.m6) →
      Completes (.arrive w) s (PostedDone c (ordOf w.m6)
        (.arrive a (if w.lit.isSome then litNat w else (c.rd 0 w.b).toNat % 2 ^ 32))))
  ∧ (∀ w s c a, offer s w { shapeW w with m6 := layoutM [0, 1] w.m6, a := .src 1, port := .uniform } { blocking := true, tx := some 2 } = .ok c →
      checkLanes c .waitv 64 false [(0, (c.rd 0 w.a).toNat)] = .ok [a] → a.xl.mt = 0 →
      let pa := physAddr c.s c.ctx a.xl a.va false
      let o := ordOf w.m6
      let s' := l2Touch (meetUpsets c.s pa 8) pa (policy o a.xl) a.xl.wp false
      readBuffered c a = false → c.s.iss.id = 1 ∨ inOrder c.s c.ctx c.t (objectRead c a) = true →
      pa + 64 ≤ hbmTop → poisoned s' pa 8 = false → reachedBy s' c.core pa = true →
      (o.acq = true → markFree s' (scopeRank o.scope) pa 8 = true) →
      Completes (.waitv w) s (after c (if clearsL1 o then l1Clear s' c.core else l1DropRange s' c.core pa 8)))

/-- TOKEN.wait and TOKEN.pass: without DET they park and do nothing else; the holder's TOKEN.wait goes on with a region
entry (after the END check, log 15); in a REFORM launch those who wait for the token are filed (R115); a lane that passes
arrives; after passing, TOKEN.wait raises EDETWAIT with reason 3 at issue, before its stretch is committed where results are
outstanding, and TOKEN.pass does nothing (R317). -/
def Claims.Token : Prop :=
  let only (c : Ic) (t : State) : Prop := t = c.with (retireGroup c.pc c.next c.act [] false c.g) ∧ SameMemory c.s t
  (∀ w s c, offer s w { shapeW w with sub := w.sub6 == 0#6 } { blocking := true, tx := some 2, pre := passedWait } = .ok c →
    (recDet c.r = false → Completes (.tokenWait w) s (only c))
    ∧ (recDet c.r = true → c.t.hasToken = true → Completes (.tokenWait w) s (fun t =>
        t = setEntries (c.with (retireGroup c.pc c.next c.act [] false c.g)) c.core c.grp c.en ∧ SameMemory s t))
    ∧ (recDet c.r = true → c.t.hasToken = false → c.t.hadToken = false → recReform c.r = true → c.g.hm = none →
        Completes (.tokenWait w) s (fun t =>
          t = holdAll c .tokenWait (c.with (retireGroup c.pc c.next c.act [] false c.g)) ∧ SameMemory s t)))
  ∧ (∀ w s t g, tget s.teams s.iss.core = some t → tget t.groups s.iss.grp = some g →
      let sh : Shape := { shapeW w with sub := w.sub6 == 0#6 }
      let c₀ := issueIc s w sh t g
      let c := if g.parked = false ∧ g.rb = [] then c₀.atPark else c₀
      c₀.act ≠ [] → c₀.en ≠ [] → decodeFail sh w (recVregs (recOf s t)) = none → anyTx c₀ = false →
      recDet (recOf s t) = true → t.hasToken = false → t.hadToken = true →
      exec (.tokenWait w) s = .next (takeTrap c.s c.core c.grp ⟨0x0F, 0, 3⟩ c.pc c.pc false false c.act))
  ∧ (∀ w s c, offer s w { shapeW w with sub := subNo w == 1 } { blocking := true, tx := some 2 } = .ok c →
      ((recDet c.r = false ∨ (c.t.hadToken = true ∧ c.t.hasToken = false)) → Completes (.tokenPass w) s (only c))
      ∧ (recDet c.r = true → (c.t.hadToken = false ∨ c.t.hasToken = true) → Completes (.tokenPass w) s (fun t =>
          t = arriveAt c .token (c.with (retireGroup c.pc c.next c.act [] false c.g)) ∧ SameMemory s t)))

/-- Fences, barriers, ARRIVE, WAITV and the commit token's instructions complete with the effect of their entries (R115,
R212, R218, R269, R297, R299, R310 to R313, R316, R317, R347). The count of CBAR.copy modulo 2^32 (log 23), the region
entries after the END check (log 15), the release after the pass (log 28), BAR and CBAR that wait neither for the
token nor for buffered writes (log 62), the pending invalidations that a FENCE with release applies (log 80), the
drain of all that a team has combined (log 89) and the note of a FENCE over buffered writes (log 102) are the model's
choices or readings. -/
def Obligations.SynchronisationAndToken : Prop := Claims.Synchronisation ∧ Claims.Token

/-! ### The matrix engine (chapter 14) -/

/-- MRSV and MREL in both forms complete: a range is placed at the lowest place with the lowest id, or refused with 1
or 2; tiles are bound all together in ascending order to the lowest free physical tiles, or refused with 3, as with the engine
off, or 4; a release enters the request table (R242, R243, R258, R259, R391). That the id and the physical tiles are the lowest free
ones is the model's choice (log 96). -/
def Obligations.Reservations : Prop :=
  let arg (w : LongWord) (c : Ic) : Nat := if w.lit.isSome then litNat w else (c.rd 0 w.a).toNat
  let vals (w : LongWord) (c : Ic) (x : Word) (t : State) : Prop := LongDone c [destOf w.d] Ord.relaxed .values [(0, x)] t
  (∀ w s c, offer s w { shapeM w (w.sub6 == 0#6) with form := w.lit.isNone || w.sub6 != 0#6, d := .dst 1, a := .src 2 }
      { entry := true, tx := some 2, dests := [destOf w.d] } = .ok c →
    let src := (c.rd 0 w.a).toNat
    let r := (readRegAt c.g 0 w.a 1).toNat
    let len := bitsAt r 0 20
    src % 256 = 0 → badRecord r = false →
    (placeRange c.t len = none → Completes (.mrsv w) s (vals w c (word (2 ^ 56 + 2 ^ 63))))
    ∧ (placeRange c.t len ≠ none → freeResv c.t = none → Completes (.mrsv w) s (vals w c (word (2 * 2 ^ 56 + 2 ^ 63))))
    ∧ (∀ o i, placeRange c.t len = some o → freeResv c.t = some i → Completes (.mrsv w) s (fun t => SameMemory c.s t ∧ t =
        ({ c with t := { c.t with resv := c.t.resv ++ [⟨i, o, len, bitsAt r 20 20, bitsAt r 40 5, nbit r 45, nbit r 46, src, false,
            c.grp, c.s.stamp⟩] } } : Ic).enters (c.entry true Ord.relaxed (.mrsv i) [(0, word (i + 2 ^ 20 * o))]) (c.slots [destOf w.d]))))
  ∧ (∀ w s c, offer s w { shapeM w (subNo w == 1) with form := true, d := .dst 1, a := .src 1, litA := true }
        { entry := true, tx := some 2, dests := [destOf w.d] } = .ok c →
      let mask := arg w c % 16
      let ids := (List.range 4).filter (nbit mask)
      let free := (c.eng.tiles.zipIdx.filter (fun x => x.1.bound.isNone)).map (·.2)
      let poor := engineOff c.s c.core = true ∨ free.length < ids.length
      let held := ∃ l ∈ ids, (heldTile c.eng c.core c.grp l).isSome = true
      (poor → Completes (.mrsvAcc w) s (vals w c (word (3 * 2 ^ 56 + 2 ^ 63))))
      ∧ (¬ poor → held → Completes (.mrsvAcc w) s (vals w c (word (4 * 2 ^ 56 + 2 ^ 63))))
      ∧ (¬ poor → ¬ held → Completes (.mrsvAcc w) s (fun t => SameMemory c.s t ∧
          (engineOf t (quadNo c.core)).tiles.length = c.eng.tiles.length
          ∧ (∀ k l i, ids[k]? = some l → free[k]? = some i →
              (engineOf t (quadNo c.core)).tiles[i]? = some (Tile.fresh c.core l (c.s.stamp + k)))
          ∧ (∀ i, i ∉ free.take ids.length → (engineOf t (quadNo c.core)).tiles[i]? = c.eng.tiles[i]?))))
  ∧ (∀ w s c, offer s w { shapeM w (w.sub6 == 0#6) with form := true, a := .src 1, litA := true } { entry := true, tx := some 2 } = .ok c →
      let id := arg w c % 64
      c.t.resv.any (fun v => v.id == id) = true → c.eng.table.any (fun x => x.2.core == c.core && x.2.cmd == .mrelBuf id) = false →
      c.engineRoom 0 → Completes (.mrel w) s (CommandPosted c (.mrelBuf id) [] [(c.core, id)] [] [] false))
  ∧ (∀ w s c ts, offer s w { shapeM w (subNo w == 1) with form := true, a := .src 1, litA := true } { entry := true, tx := some 2 } = .ok c →
      maskTiles c (arg w c % 16) = some ts → c.engineRoom 0 → Completes (.mrelAcc w) s (CommandPosted c .mrelTiles ts [] [] [] false))

/-- MMA whose parameter block passes R250 and whose operands meet no drain of its team completes: its command enters
the request table with its tiles, its reservations and their records, its scratchpad words and the snapshot of its register
operands, and D receives the handle (R249, R260, R268; where R250 leaves its checks open they are log 29). -/
def Claims.MatrixPass : Prop :=
  ∀ w s c, offer s w { shapeM w (w.sub6 == 0#6) with d := .dst 1, a := .src 8 } { entry := true, tx := some 2, dests := [destOf w.d] } = .ok c →
    let ws := (List.range 8).map (readRegAt c.g 0 w.a)
    let src (b : Bool) : OpSrc := passSrc c.s c.core ws [] [] [] b
    let words := spadWords (opndUnits (src false) ++ opndUnits (src true))
    let a := snapshot c (passOpnd ws false)
    let b := snapshot c (passOpnd ws true)
    mmaFail c ws = none → (∀ x ∈ c.g.threads, x.bad = []) →
    (∀ x ∈ c.eng.table, ∀ f d v, x.2.cmd = .mdrain f d v → x.2.core = c.core → ∀ u ∈ words, u ∉ x.2.words) →
    c.engineRoom (a.length + b.length) →
    Completes (.mma w) s (CommandLong c (.mma ws a b)
      ((passTiles ws).filterMap (fun t => (heldTile c.eng c.core c.grp t.1).map (fun y => (t.1, y))))
      ([src false, src true].filterMap (fun x => if x.o.reg || x.o.rsv == 0 then none else some (x.core, x.o.rsv)))
      ([src false, src true].filterMap (fun x => x.resv.map (fun v => (x.core, v))))
      words (a.length + b.length) (fun _ => .values) (fun h => [(0, word h)]))

/-- MDRAIN, MZERO, MSAVE, MLOAD and MCHK complete when their tiles are held, their descriptor or address is good, its pages
are of MT 0 and, where the command writes, writable: each enters the request table. MDRAIN to the scratchpad of a rank that has a team,
not closed, completes when its rows lie below SCRATCH and meet no word that a pass of the team may still read; a rank that names no core of its quad,
a closed one and a row past SCRATCH trap (R227, R247, R262 to R266). -/
def Claims.TileCommands : Prop :=
  let mem (i : Instr) (w : LongWord) (save : Bool) (cmd : Word → EngCmd) : Prop := ∀ s c b xls,
    offer s w { shapeM w (subNo w < 4) with a := .src 1 } { entry := true, tx := some 2 } = .ok c →
    (c.rd 0 w.a).toNat % 128 = 0 → heldTile c.eng c.core c.grp (subNo w) = some b →
    checkPages c (pagesOf [((c.rd 0 w.a).toNat, 131072)]) = .ok xls → (∀ x ∈ xls, x.mt = 0 ∧ (save = true → x.w = true)) →
    c.engineRoom 0 → Completes i s (CommandPosted c (cmd (c.rd 0 w.a)) [(subNo w, b)] [] [] xls false)
  (∀ w s c b xls, offer s w { shapeM w (subNo w < 8) with a := .src 2 } { entry := true, tx := some 2 } = .ok c →
    let d := readRegAt c.g 0 w.a 1
    let dst := (c.rd 0 w.a).toNat
    let lid := bitsAt d.toNat 20 2
    badDrain d.toNat = false → nbit (subNo w) 1 = false → dst % 32 = 0 → heldTile c.eng c.core c.grp lid = some b →
    (recDet c.r = false ∨ c.t.hadToken = false ∨ c.t.hasToken = true) →
    checkPages c (pagesOf (drainRows d.toNat dst)) = .ok xls → (∀ x ∈ xls, x.mt = 0 ∧ x.w = true) → c.engineRoom 0 →
    Completes (.mdrain w) s (CommandPosted c (.mdrain (subNo w) d (c.rd 0 w.a)) [(lid, b)] [] [] xls (recDet c.r)))
  ∧ (∀ w s c b, offer s w { shapeM w (subNo w < 8) with a := .src 2 } { entry := true, tx := some 2 } = .ok c →
    let d := (readRegAt c.g 0 w.a 1).toNat
    let dst := (c.rd 0 w.a).toNat
    let lid := bitsAt d 20 2
    let rank := bitsAt dst 20 4
    let row (i : Nat) : Nat := dst % 2 ^ 20 + i * bitsAt d 0 20
    let width := 128 * (if bitsAt d 22 5 = 8 then 4 else 2)
    let trap (x : TrapInfo) : Prop := exec (.mdrain w) s = .next (takeTrap c.s c.core c.grp x c.pc c.pc false false c.act)
    badDrain d = false → nbit (subNo w) 1 = true → dst < 2 ^ 24 → heldTile c.eng c.core c.grp lid = some b →
    (rankCore c rank = none → trap ⟨0x15, 0, 5⟩)
    ∧ (∀ k, rankCore c rank = some k →
        (k ≠ c.core → rank ∈ c.t.closed → trap ⟨0x06, word dst, 0⟩)
        ∧ ((k = c.core ∨ rank ∉ c.t.closed) →
            ((∃ i, i < 128 ∧ recScratch c.r < row i + width) → trap ⟨0x15, 0, 6⟩)
            ∧ ((∀ i, i < 128 → row i + width ≤ recScratch c.r) →
                let words := (List.range 128).flatMap (fun i =>
                  (List.range ((row i + width - 1) / 8 - row i / 8 + 1)).map (fun j => (2 * k, row i / 8 + j)))
                (∀ u ∈ words, u ∉ logWords c.eng c.core
                  ∧ ∀ x ∈ c.eng.table, ∀ p y z, x.2.core = c.core → x.2.cmd = .mma p y z → u ∉ x.2.words) →
                c.engineRoom 0 →
                Completes (.mdrain w) s (CommandPosted c (.mdrain (subNo w) (readRegAt c.g 0 w.a 1) (c.rd 0 w.a)) [(lid, b)] [] words [] false)))))
  ∧ (∀ w s c ts, offer s w (shapeM w (subNo w != 0 && subNo w < 16)) { entry := true, tx := some 2 } = .ok c →
      maskTiles c (subNo w) = some ts → c.engineRoom 0 → Completes (.mzero w) s (CommandPosted c .mzero ts [] [] [] false))
  ∧ (∀ w, mem (.msave w) w true .msave) ∧ (∀ w, mem (.mload w) w false .mload)
  ∧ (∀ w s c b, offer s w { shapeM w (subNo w < 4) with d := .dst 1 } { entry := true, tx := some 2, dests := [destOf w.d] } = .ok c →
      heldTile c.eng c.core c.grp (subNo w) = some b → c.engineRoom 0 →
      Completes (.mchk w) s (CommandLong c .mchk [(subNo w, b)] [] [] [] 0 .engine (fun _ => [])))

/-- MWAIT and MWAIT.all go on when no command they cover is in the request table and none that they cover has failed; a
covered failure is raised, the oldest first (R261, R267; which of several is raised is log 50). -/
def Claims.EngineWaits : Prop :=
  let wait (i : Instr) (w : LongWord) (sh : Shape) (busy : Ic → EngEntry → Bool) (p : Ic → EngFail → Bool) : Prop :=
    ∀ s c, offer s w sh { blocking := true, tx := some 2 } = .ok c → (∀ x ∈ c.eng.table, busy c x.2 = false) →
      ((∀ f ∈ c.eng.fails, f.core = c.core → f.grp = c.grp → p c f = false) → Completes i s (fun t =>
        t = c.with (retireGroup c.pc c.next c.act [] false c.g) ∧ SameMemory s t))
      ∧ (∀ f ∈ c.eng.fails, f.core = c.core → f.grp = c.grp → p c f = true → f.trap.cause ≠ 0x10 →
          (∀ y ∈ c.eng.fails, y.core = c.core → y.grp = c.grp → p c y = true → y ≠ f → f.stamp < y.stamp) →
          exec i s = .next (takeTrap
            (modEngine c.s (quadNo c.core) (fun e => { e with fails := e.fails.filter (fun y => y != f) }))
            c.core c.grp f.trap c.pc c.pc false false c.act))
  (∀ w, wait (.mwait w) w { shapeM w (w.sub6 == 0#6) with a := .src 1 }
    (fun c x => x.core == c.core && x.handle == (c.rd 0 w.a).toNat) (fun c f => f.handle == (c.rd 0 w.a).toNat))
  ∧ (∀ w, wait (.mwaitAll w) w (shapeM w (subNo w == 1)) (fun c x => x.core == c.core && x.grp == c.grp) (fun _ _ => true))

/-- The engine's instructions complete: a pass and a tile command enter the request table, MDRAIN to memory and to a
scratchpad among them, and a wait goes on or raises what failed (R227, R247, R249, R260 to R267). The checks that R250
leaves open (logs 29 and 98) and which of several failures is raised (log 50) are the model's choices. -/
def Obligations.MatrixCommands : Prop := Claims.MatrixPass ∧ Claims.TileCommands ∧ Claims.EngineWaits

/-- One group of a pass adds its rounded sum of products to an element with the error of the addition kept: with
s and the sum finite, (s, e) becomes (rne(s + p), e plus the exact error of that addition); an infinity or a NaN
clears the error part; an element that ZERO has set stays (−0, −0) while every product is −0; what leaves a tile is
rne(s + e) (R251, R252). -/
def Obligations.PassArithmetic : Prop :=
  ∀ x ps, let p := BitVec.ofNat 32 (fmtF32.round 0 false none (groupSum ps))
    let t := f32Add x.1 p
    let stays := x == elemZero && (groupSum ps).isZero && (groupSum ps).neg
    (stays = true → accumulate x ps = x)
    ∧ (stays = false → f32Finite t = false → accumulate x ps = (t, 0))
    ∧ (stays = false → f32Finite t = true → accumulate x ps =
        (t, f32Add x.2 (f32Add (f32Sub x.1 (f32Sub t (f32Sub t x.1))) (f32Sub p (f32Sub t x.1)))))
    ∧ (∀ g a b, g ≠ 0 → a.length = b.length → a.length = g → accumElem g a b x = accumulate x (a.zip b))
    ∧ drained32 x = f32Add x.1 x.2

/-! ### The journal and streams (chapters 15 and 23) -/

/-- JAPP, EMIT, JSYNC, JSYNC.ctx, JTRUNC and JSEED complete: JAPP appends one record for each lane at JPOS in ascending
order; EMIT enters with the group's threshold; JSYNC goes on once CACK covers its position; JTRUNC at or below TB does
nothing and above JACKPOS raises EJOURNAL with reason 5; JSEED is refused with its reason or begins (R371 to R375). That
JAPP's positions and records are taken at issue, once the group's earlier EMITs have entered the gate, is the model's choice
(log 26). A JSYNC whose position CACK has covered goes on whatever becomes of the gate then (R373). -/
def Claims.JournalInstructions : Prop :=
  let sync (i : Instr) (w : LongWord) (sub : Bool) (first : Ic → Nat) : Prop := ∀ s c,
    offer s w { form := w.lit.isNone, sub := sub, m6 := layoutZ w, port := .uniform } { blocking := true, tx := some 2, flag := recJrnl } = .ok c →
    let j := ctxOf c.s c.ctx
    let p := match c.g.stall with | some (.journal p, _) => p | _ => first c
    ((j.gate = .seeding ∨ j.gate = .normal) → p ≤ j.cack → Completes i s (fun t =>
        t = c.with (retireGroup c.pc c.next c.act [] false c.g) ∧ SameMemory s t))
    ∧ ((∃ n, c.g.stall = some (.journal 0, n)) → Completes i s (fun t =>
        t = c.with (retireGroup c.pc c.next c.act [] false c.g) ∧ SameMemory s t))
    ∧ ((∀ n, c.g.stall ≠ some (.journal 0, n)) → j.gate = .noPart →
        exec i s = .next (takeTrap c.s c.core c.grp (ejournal c.s c.ctx 1 (word p)) c.pc c.pc false false c.act))
    ∧ ((∀ n, c.g.stall ≠ some (.journal 0, n)) → j.gate = .lost → exec i s = .next (takeTrap c.s c.core c.grp (ejournal c.s c.ctx 2 (word p)) c.pc c.pc false false c.act))
  (∀ w s c, offer s w { form := w.lit.isNone, sub := 1 ≤ subNo w && subNo w ≤ 4, m6 := layoutZ w, a := .src 3 }
      { entry := true, tx := some 2, flag := recJrnl } = .ok c →
    let j := ctxOf c.s c.ctx
    j.gate ≠ .noPart → j.jpos + c.lanes.length ≤ j.tb + 2 ^ 20 → (recDet c.r = false ∨ c.t.hasToken = true) →
    (∀ x ∈ c.t.ott, x.grp = c.grp → isEmit (realEntry c.t x).work = false) →
    Completes (.japp w) s (fun t => SameMemory s t
      ∧ (ctxOf t c.ctx).jpos = j.jpos + c.lanes.length
      ∧ (ctxOf t c.ctx).records = j.records ++ c.lanes.zipIdx.map (fun l => ⟨j.jpos + l.2,
          recordBytes s.pkgid (subNo w) (j.jpos + l.2) (c.rd l.1 w.a) (readRegAt c.g l.1 w.a 1) (readRegAt c.g l.1 w.a 2)⟩)
      ∧ groupAt t c.core c.grp = some (retireGroup c.pc c.next c.act [] w.s { c.g with gjp := word (j.jpos + c.lanes.length) })))
  ∧ (∀ w s c ls, offer s w (shapeMem w (layoutZ w) (.src 1)) { entry := true, tx := some 2, flag := fun r => recJrnl r && !recReplay r } = .ok c →
      checkLanes c .emit (tyBits (subNo w) / 8) false (effLanes c) = .ok ls →
      ((ctxOf c.s c.ctx).gate = .seeding ∨ (ctxOf c.s c.ctx).gate = .normal) → (recDet c.r = false ∨ c.t.hasToken = true) →
      Completes (.emit w) s (PostedDone c ⟨false, true, false, .sys, none⟩
        (.emit (ls.map (fun a => (a, c.rd a.lane w.d))) (subNo w) c.g.gjp.toNat)))
  ∧ (∀ w, sync (.jsync w) w (w.sub6 == 0#6) (fun c => c.g.gjp.toNat))
  ∧ (∀ w, sync (.jsyncCtx w) w (subNo w == 1) (fun c => (ctxOf c.s c.ctx).jpos))
  ∧ (∀ w s c, offer s w { form := w.lit.isNone, sub := w.sub6 == 0#6, m6 := layoutZ w, a := .src 1, port := .uniform }
        { entry := true, flag := recJrnl } = .ok c →
      let j := ctxOf c.s c.ctx
      let a := (c.rd 0 w.a).toNat
      (a ≤ j.tb → Completes (.jtrunc w) s (PostedDone c Ord.relaxed .done))
      ∧ (j.tb < a → a ≤ j.jack → Completes (.jtrunc w) s (fun t =>
          t = retire (enterPosted { c with s := truncate c.s c.ctx a } Ord.relaxed .done).st c.core c.grp c.pc c.next c.act [] w.s
          ∧ (ctxOf t c.ctx).tb = a ∧ ∀ r ∈ (ctxOf t c.ctx).records, a ≤ r.pos))
      ∧ (j.tb < a → j.jack < a →
          exec (.jtrunc w) s = .next (takeTrap c.s c.core c.grp (ejournal c.s c.ctx 5 (c.rd 0 w.a)) c.pc c.pc false false c.act)))
  ∧ (∀ w s c, offer s w { sub := w.sub6 == 0#6, m6 := layoutZ w, d := .dst 1, a := .src 1, litA := true, port := .uniform }
        { entry := true, dests := [destOf w.d], flag := recJrnl } = .ok c →
      let peer := (if w.lit.isSome then litNat w else (c.rd 0 w.a).toNat) % 16
      let j := ctxOf c.s c.ctx
      let why := seedWhy c.s c.ctx peer
      (why ≠ 0 → Completes (.jseed w) s (LongDone c [destOf w.d] Ord.relaxed .values [(0, word (2 ^ 56 * why + 2 ^ 63))]))
      ∧ (why = 0 → Completes (.jseed w) s (fun t => t =
          startSeed (c.enters (c.entry true Ord.relaxed .jseed []) (c.slots [destOf w.d])) c.ctx peer
            (some (c.core, c.s.stamp, word ((j.jpos - j.tb) % 2 ^ 48))))))

/-- SOPEN opens a CLOSED stream 1 to 15 with LWM at its NEXT and returns NEXT and the id, or returns why not: 3 for
stream 0, 1 for an OPEN one, 2 for a CLOSING one; SCLOSE of an OPEN stream makes it CLOSING, and of any other does
nothing (R275, R287). -/
def Claims.Streams : Prop :=
  (∀ w s c, offer s w (shapeStream w (.dst 1)) { entry := true, dests := [destOf w.d] } = .ok c →
    let n := streamArg c
    let x := streamOf (ctxOf c.s c.ctx) n
    let res (why : Nat) : List (Nat × Word) := [(0, word (x.next.toNat + 2 ^ 32 * n + 2 ^ 56 * why + (if why = 0 then 0 else 2 ^ 63)))]
    let not (why : Nat) : Prop := Completes (.sopen w) s (LongDone c [destOf w.d] Ord.relaxed .values (res why))
    (n = 0 → not 3) ∧ (n ≠ 0 → x.st = 1 → not 1) ∧ (n ≠ 0 → x.st = 2 → not 2)
    ∧ (n ≠ 0 → x.st ≠ 1 → x.st ≠ 2 → Completes (.sopen w) s (fun t => SameMemory s t ∧ t =
        ({ c with s := modStream c.s c.ctx n (fun x => { x with st := 1, lwm := x.next, told := x.next }) } : Ic).enters
          (c.entry true Ord.relaxed .values (res 0)) (c.slots [destOf w.d]))))
  ∧ (∀ w s c, offer s w (shapeStream w .unused) { entry := true } = .ok c →
      let n := streamArg c
      ((n = 0 ∨ (streamOf (ctxOf c.s c.ctx) n).st ≠ 1) → Completes (.sclose w) s (PostedDone c Ord.relaxed .done))
      ∧ (n ≠ 0 → (streamOf (ctxOf c.s c.ctx) n).st = 1 → Completes (.sclose w) s (fun t => SameMemory s t ∧ t =
          ({ c with s := modStream c.s c.ctx n (fun x => { x with st := 2 }) } : Ic).enters
            (c.entry false Ord.relaxed (.sclose n) []) c.g)))

/-- The journal's and the streams' instructions complete with the result of their entries (R275, R287, R371 to R375). That
JAPP takes its positions at issue is the model's choice (log 26). -/
def Obligations.JournalAndStreams : Prop := Claims.JournalInstructions ∧ Claims.Streams

/-! ### System instructions (chapters 07, 21, 22 and 26) -/

/-- CSRR of every CSR completes: the CSRs of R354 that are read as long instructions wait in their entry, every other
is written to D at once, each lane its own value; ERRSTAT, the trap CSRs, BANKROLE, the error log and the thread's own numbers
read as their tables say (R101, R354). -/
def Obligations.CsrReads : Prop :=
  (∀ w s c, offer s w (shapeCsr w (w.sub6 == 0#6) (.dst 1) .unused false) (issueCsr w (fun _ => none)) = .ok c →
    let seen (l : Nat) : Word := csrRead c (csrNo w) (if c.uni then c.en.headD 0 else l)
    (csrLong (csrNo w) = true → Completes (.csrr w) s (LongDone c [destOf w.d] Ord.relaxed .values (c.lanes.map (fun l => (l, seen l)))))
    ∧ (csrLong (csrNo w) = false → Completes (.csrr w) s (ShortDone c seen)))
  ∧ (∀ c l, csrRead c 0x000 l = word (c.g.lane l).tid ∧ csrRead c 0x001 l = word c.grp ∧ csrRead c 0x006 l = word l
      ∧ csrRead c 0x010 l = c.t.role ∧ csrRead c 0x020 l = c.g.tcause ∧ csrRead c 0x021 l = c.g.tpc
      ∧ csrRead c 0x022 l = c.g.taddr ∧ csrRead c 0x023 l = c.g.tinfo ∧ csrRead c 0x0A0 l = c.g.errstat
      ∧ csrRead c 0x0A1 l = c.s.elogaddr ∧ csrRead c 0x0A2 l = c.s.elogcause ∧ csrRead c 0x0A3 l = c.s.secnt)

/-- DEFMAP n reads [47:0] as die n's core disables, fused or run-time, and [63:48] as its L2 slice disables; 0x0D8
the port and the combine-unit disables; 0x0D9 the number of run-time records; 0x0DA to 0x0DF zero (R396). -/
def Obligations.DefectMapRegisters : Prop :=
  ∀ c l, (∀ n, n < 8 → ∀ i,
      (csrRead c (0x0D0 + n) l).getLsbD i =
        (if i < 48 then nbit (memNat c.s.defmap (0x040 + 0x180 * n) 6) i || (coreRegs c.s (48 * n + i)).disabled
         else decide (i < 64) && (nbit (memNat c.s.defmap (0x040 + 0x180 * n + 0x150) 2) (i - 48) || nbit (dieOf c.s n).slices (i - 48))))
    ∧ csrRead c 0x0D8 l = word (memNat c.s.defmap 0xC40 3 + 2 ^ 24 * memNat c.s.defmap 0xC48 3)
    ∧ csrRead c 0x0D9 l = word c.s.defrt.length
    ∧ ∀ n, 0x0DA ≤ n → n ≤ 0x0DF → csrRead c n l = 0

/-- CSRW and CSRX complete with a value that the CSR's rules accept: the CSR takes it, and CSRX also returns the old
value as CSRR does; a value that they refuse raises EILL with reason 0x0F, in CSRW and in every CSRX, and an RP CSR outside a
service group raises EPRIV with its number, and neither changes anything else (R354). -/
def Claims.CsrWrites : Prop :=
  let src (w : LongWord) (c : Ic) : Word := c.rd (c.en.headD 0) w.a
  let old (w : LongWord) (c : Ic) : Word := csrRead c (csrNo w) (c.en.headD 0)
  let swap (i : Instr) (w : LongWord) (sub : Bool) (new : Word → Word → Word) : Prop :=
    ∀ s c, offer s w (shapeCsr w sub (.dst 1) (.src 1) true) (issueCsr w csrPriv) = .ok c →
      (∀ s', csrWrite c (csrNo w) (new (old w c) (src w c)) = .ok s' → ∃ t, exec i s = .next t ∧ t =
        retire (if csrLong (csrNo w) then longResult { c with s := s' } (csrSeen c) else shortResult { c with s := s' } (csrSeen c)).st
          c.core c.grp c.pc c.next c.act [] w.s)
      ∧ (csrWrite c (csrNo w) (new (old w c) (src w c)) = .error (.trap ⟨0x01, 0, 0x0F⟩) →
          exec i s = .next (takeTrap c.s c.core c.grp ⟨0x01, 0, 0x0F⟩ c.pc c.pc false false c.act))
  (∀ w s c s', offer s w (shapeCsr w (w.sub6 == 0#6) .unused (.src 1) true) { pre := csrPriv } = .ok c →
    csrWrite c (csrNo w) (src w c) = .ok s' → exec (.csrw w) s = .next (retire s' c.core c.grp c.pc c.next c.act [] w.s))
  ∧ (∀ w s c, offer s w (shapeCsr w (w.sub6 == 0#6) .unused (.src 1) true) { pre := csrPriv } = .ok c →
      csrWrite c (csrNo w) (src w c) = .error (.trap ⟨0x01, 0, 0x0F⟩) →
      exec (.csrw w) s = .next (takeTrap c.s c.core c.grp ⟨0x01, 0, 0x0F⟩ c.pc c.pc false false c.act))
  ∧ (∀ w, swap (.csrxSwap w) w (w.sub6 == 0#6) (fun _ x => x))
  ∧ (∀ w, swap (.csrxSet w) w (subNo w == 1 && csrAccess (csrNo w) != some .w1c) (fun o x => o ||| x))
  ∧ (∀ w, swap (.csrxClr w) w (subNo w == 2 && csrAccess (csrNo w) != some .w1c) (fun o x => o &&& ~~~x))
  ∧ (∀ c : Ic, csrPriv c = (if csrAccess (csrNo c.w) = some .rp ∧ c.svc = false then some ⟨0x02, 0, word (2 ^ 16 * csrNo c.w)⟩ else none))

/-- The rows of register writes: each is the CSRW or CSRX of its CSR, where that is the next instruction of the group in
the cursor; MEYE_COUNT_DONE sets DONE once; a host's RECADDR write takes effect unless the mailbox is BUSY (R25, R53,
R101, R208, R345, R363, R375, R393, R399). -/
def Claims.RegisterWrites : Prop :=
  let at_ (i : Instr) (s : State) (p : Nat → Prop) : Prop := ∀ w u, p (csrNo w) →
    (fetchGroup s s.iss.core s.iss.grp = some (.ok (.csrw w, u)) → exec i s = exec (.csrw w) u
      ∧ ∀ c s', offer u w (shapeCsr w (w.sub6 == 0#6) .unused (.src 1) true) { pre := csrPriv } = .ok c →
          csrWrite c (csrNo w) (c.rd (c.en.headD 0) w.a) = .ok s' →
          exec i s = .next (retire s' c.core c.grp c.pc c.next c.act [] w.s))
    ∧ (fetchGroup s s.iss.core s.iss.grp = some (.ok (.csrxSwap w, u)) → exec i s = exec (.csrxSwap w) u)
    ∧ (fetchGroup s s.iss.core s.iss.grp = some (.ok (.csrxSet w, u)) → exec i s = exec (.csrxSet w) u)
    ∧ (fetchGroup s s.iss.core s.iss.grp = some (.ok (.csrxClr w, u)) → exec i s = exec (.csrxClr w) u)
  let row (i : Instr) (p : Nat → Prop) : Prop := ∀ s, at_ i s p
  row .bankroleWrite (· = 0x010) ∧ row .tgtctxWrite (· = 0x046) ∧ row .tpcWrite (· = 0x021) ∧ row .errstatClear (· = 0x0A0)
  ∧ row .jpartnerWrite (· = 0x043) ∧ row .translationCsrWrite (fun n => 0x080 ≤ n ∧ n ≤ 0x083)
  ∧ (∀ s, s.msg = none → at_ .registerWrite s (fun n => n ∉ [0x010, 0x021, 0x043, 0x046, 0x0A0] ∧ ¬ (0x080 ≤ n ∧ n ≤ 0x083)))
  ∧ (∀ s w u c s', fetchGroup s s.iss.core s.iss.grp = some (.ok (.csrw w, u)) → csrNo w = 0x0CB →
      offer u w (shapeCsr w (w.sub6 == 0#6) .unused (.src 1) true) { pre := csrPriv } = .ok c →
      csrWrite c (csrNo w) (c.rd (c.en.headD 0) w.a) = .ok s' → nbit s'.meye.toNat 24 = true → nbit s'.meye.toNat 25 = false →
      exec .meyeStart s = .next (retire s' c.core c.grp c.pc c.next c.act [] w.s))
  ∧ (∀ s, nbit s.meye.toNat 24 = true → nbit s.meye.toNat 25 = false → ∃ t, Quietly .meyeCountDone s t ∧ nbit t.meye.toNat 25 = true
      ∧ t.meye.toNat % 2 ^ 25 = s.meye.toNat % 2 ^ 25 ∧ t = { s with free := t.free, meye := t.meye })
  ∧ (∀ s m v, s.msg = some (.mailboxRecaddr m v) → m < 64 → 3 ≤ s.stage →
      let x := tgetD s.mboxes m Mailbox.reset
      (x.busy = false → Quietly .registerWrite s { s with mboxes := tset s.mboxes m { x with recaddr := v } })
      ∧ (x.busy = true → Quietly .registerWrite s s))

/-- CSRW and CSRX complete with what the CSR's rules accept and trap on what they refuse; the rows of register writes are
theirs, START of MEYE that stays set is the model's choice (log 34), and a host's RECADDR write takes effect unless
the mailbox is BUSY (R25, R53, R101, R208, R345, R354, R363, R375, R393, R399). -/
def Obligations.CsrWritesAndBar0 : Prop := Claims.CsrWrites ∧ Claims.RegisterWrites

/-- What the CSRs take: LLDWIN, LLDMIN, LLDTHR with EN, WCAGE of at least 64, and TMOREMOTE (log 37) with their ranges, TPC as
the resume point too, TGTCTX, ERRSTAT by bits given as 1, MVDD clamped to −20 to +20; the refused values of R354 (R101, R113,
R345, R354, R363, R393, R399). -/
def Claims.CsrRules : Prop :=
  ∀ c x, let v := x.toNat
    (v < 2 ^ 16 → csrWrite c 0x030 x = .ok (modCore c.s c.core (fun k => { k with lldwin := if v = 0 then 1 else x })))
    ∧ (2 ^ 16 ≤ v → csrWrite c 0x030 x = .error csrRefused)
    ∧ (v < 2 ^ 7 → csrWrite c 0x032 x = .ok (modCore c.s c.core (fun k => { k with lldmin := if v = 0 then 1 else if v > 64 then 64 else x })))
    ∧ (2 ^ 7 ≤ v → csrWrite c 0x032 x = .error csrRefused)
    ∧ (v < 2 ^ 17 → let s := modCore c.s c.core (fun k => { k with lldthr := x })
        csrWrite c 0x031 x = .ok (if nbit v 16 = true then s else modTeam s c.core (fun t => { t with quota := 64 })))
    ∧ (2 ^ 17 ≤ v → csrWrite c 0x031 x = .error csrRefused)
    ∧ (let age := v % 2 ^ 16
       csrWrite c 0x040 x = .ok (modCore c.s c.core (fun k => { k with wcage := word (max 64 age) })))
    ∧ (∀ n, 0x0C1 ≤ n → n ≤ 0x0C8 → v < 2 ^ 8 →
        let ofs : Int := if v < 128 then v else (v : Int) - 256
        csrWrite c n x = .ok { c.s with mvdd := wset c.s.mvdd (n - 0x0C1) ((BitVec.ofInt 8 (max (-20) (min 20 ofs))).setWidth 64) })
    ∧ csrWrite c 0x041 x = .ok { c.s with tmoremote := word (v % 2 ^ 32) }
    ∧ csrWrite c 0x021 x = .ok (modGroup c.s c.core c.grp (fun g =>
        { g with tpc := word (v % 2 ^ 56), hm := g.hm.map (fun r => { r with resume := word (v % 2 ^ 56) }) }))
    ∧ (v < 2 ^ 12 → csrWrite c 0x046 x = .ok (modGroup c.s c.core c.grp (fun g => { g with tgtctx := BitVec.ofNat 12 v })))
    ∧ (2 ^ 12 ≤ v → csrWrite c 0x046 x = .error csrRefused)
    ∧ (∀ n, 0x0C1 ≤ n → n ≤ 0x0C8 → 2 ^ 8 ≤ v → csrWrite c n x = .error csrRefused)
    ∧ (v % 32 > 23 → csrWrite c 0x0CB x = .error csrRefused)
    ∧ (∀ g, groupAt c.s c.core c.grp = some g → ∃ s', csrWrite c 0x0A0 x = .ok s' ∧ ∃ g', groupAt s' c.core c.grp = some g'
        ∧ (nbit v 0 = true → g'.errstat.getLsbD 0 = false) ∧ (nbit v 0 = false → g'.errstat.getLsbD 0 = g.errstat.getLsbD 0)
        ∧ (nbit v 1 = true → ∀ i, 0 < i → g'.errstat.getLsbD i = false)
        ∧ (nbit v 1 = false → ∀ i, 0 < i → g'.errstat.getLsbD i = g.errstat.getLsbD i))

/-- A write of BANKROLE that Table 12.1 accepts, with no release pending and no engine read of a changing group, takes
effect: the role is the value, and a group that leaves role 01 loses its lines of the L1; a code 11, a change to or from role
00, or fewer than two groups of role 01 is refused. Which lines of the L1 lie in a bank group is the model's (log 33) (R208,
R209). -/
def Claims.BankRole : Prop :=
  ∀ c x, let old := c.t.role.toNat
    let new := x.toNat
    let fld (y g : Nat) : Nat := bitsAt y (2 * g) 2
    let good := (∀ g, g < 32 → fld new g ≠ 3) ∧ (∀ g, g < 32 → fld new g = fld old g ∨ (fld new g ≠ 0 ∧ fld old g ≠ 0))
      ∧ 2 ≤ ((List.range 32).filter (fun g => fld new g == 1)).length
    (¬ good → csrWrite c 0x010 x = .error csrRefused)
    ∧ (good → new = old → csrWrite c 0x010 x = .ok c.s)
    ∧ (good → new ≠ old → mrelPending c.s c.core = false → engineReads c.s c.core = false →
        ((∀ v ∈ c.t.resv, ∀ g, g < 32 → fld old g = 2 → fld new g ≠ 2 → v.offs + v.len ≤ g * 32768 ∨ (g + 1) * 32768 ≤ v.offs) →
          csrWrite c 0x010 x = .ok (modTeam c.s c.core (fun t => { t with
            role := x, l1 := t.l1.filter (fun y => !(fld old y.bank == 1 && fld new y.bank != 1)) })))
        ∧ (∀ v ∈ c.t.resv, ∀ g, g < 32 → fld old g = 2 → fld new g ≠ 2 → ¬ (v.offs + v.len ≤ g * 32768 ∨ (g + 1) * 32768 ≤ v.offs) →
            csrWrite c 0x010 x = .error (.trap ⟨0x0C, 0, 5⟩)))

/-- What the CSRs take of a written value, BANKROLE with its conditions among them (R101, R113, R208, R209, R345, R354,
R363, R393, R399). The width of TMOREMOTE (log 37) and the bank group of an L1 line (log 33) are the model's choices. -/
def Obligations.CsrRulesAndRoles : Prop := Claims.CsrRules ∧ Claims.BankRole

/-- REGION with the group's posted stores performed sets the enabled threads' region entries at the next PC and LCR; the
forms of TLBINV with nothing to invalidate or with their accesses gone go on, and otherwise drop the translations and
wait; outside a service group every form of TLBINV raises EPRIV, before its park where results are outstanding (log 35 for that
place in the order). The next PC of a region entry is that after the END check (log 15), and what
TLBINV waits for is log 80 (R65, R356, R357). -/
def Claims.RegionAndTlbinv : Prop :=
  let sh (w : LongWord) (sub : Bool) (a b c : Use) : Shape :=
    { form := w.lit.isNone, sub := sub, m6 := layoutZ w, a := a, b := b, c := c, port := .uniform }
  let k : Issue := { blocking := true, tx := some 2, pre := fun c => if c.svc then none else some ⟨0x02, 0, 0⟩ }
  let inv (i : Instr) (w : LongWord) (sh : Shape) (n : Nat) : Prop := ∀ s c x, subNo w = n → offer s w sh k = .ok c →
    tlbScope w (c.rd 0) = .ok x →
    (x.hi = x.lo → Completes i s (fun t => SameMemory s t ∧
      t = retire (modCtx c.s (x.ctx.getD 0) Context.applyCsrs) c.core c.grp c.pc c.next c.act [] false))
    ∧ (x.lo < x.hi → c.s.iss.id = 1 → Completes i s (fun t => t = c.with (retireGroup c.pc c.next c.act [] false c.g) ∧ SameMemory s t))
    ∧ (x.lo < x.hi → c.s.iss.id ≠ 1 → exec i s = .next (modGroup (dropTranslations c.s x) c.core c.grp (fun g =>
        { g with status := .blocked .tlbinv w c.len c.s.iss.d16, stall := none })))
  let priv (i : Instr) (w : LongWord) (sh : Shape) : Prop := ∀ s t g,
    tget s.teams s.iss.core = some t → tget t.groups s.iss.grp = some g → isService s t = false →
    let c₀ := issueIc s w sh t g
    let c := if g.parked = false ∧ g.rb = [] then c₀.atPark else c₀
    c₀.act ≠ [] → c₀.en ≠ [] → c.en ≠ [] → decodeFail sh w (recVregs (recOf s t)) = none →
    exec i s = .next (takeTrap c.s c.core c.grp ⟨0x02, 0, 0⟩ c.pc c.pc false false c.act)
  (∀ w s c, offer s w (shapeW w) { blocking := true, tx := some 2, pre := fun c => if c.g.hm.isSome then some wrongMode else none } = .ok c →
    regionWaits c = false → Completes (.region w) s (fun t => SameMemory s t ∧
      t = setEntries (c.with (retireGroup c.pc c.next c.act [] false c.g)) c.core c.grp c.en))
  ∧ (∀ w, inv (.tlbinvCtx w) w (sh w (w.sub6 == 0#6) .unused .unused (.src 1)) 0)
  ∧ (∀ w, inv (.tlbinvRange w) w (sh w (subNo w == 1) (.src 1) (.src 1) (.src 1)) 1)
  ∧ (∀ w, inv (.tlbinvAll w) w (sh w (subNo w == 2) .unused .unused .unused) 2)
  ∧ (∀ w, priv (.tlbinvCtx w) w (sh w (w.sub6 == 0#6) .unused .unused (.src 1)))
  ∧ (∀ w, priv (.tlbinvRange w) w (sh w (subNo w == 1) (.src 1) (.src 1) (.src 1)))
  ∧ (∀ w, priv (.tlbinvAll w) w (sh w (subNo w == 2) .unused .unused .unused))

/-- After TLBINV no core TLB, die TLB or copy channel holds a translation of a named context that overlaps the range, no
walk cache an entry of one, and the named contexts' translation CSRs are in effect (R53, R65, R357). -/
def Claims.TranslationsDropped : Prop :=
  ∀ s x, let t := dropTranslations s x
    SameMemory s t
    ∧ (∀ e ∈ t.cores, ∀ y ∈ e.2.tlb, x.covers y.1 y.2 = false) ∧ (∀ e ∈ t.dies, ∀ y ∈ e.2.tlb, x.covers y.1 y.2 = false)
    ∧ (∀ e ∈ t.dies, ∀ y ∈ e.2.walk, x.names y.1 = false)
    ∧ (∀ e ∈ t.teams, ∀ ch ∈ e.2.chan, ∀ y ∈ ch.held, x.covers ch.ctx y = false)
    ∧ (∀ e ∈ t.ctxs, x.names e.1 = true → e.2.useHbase = e.2.hbase ∧ e.2.useHlimit = e.2.hlimit ∧ e.2.useHoffs = e.2.hoffs
        ∧ e.2.usePtroot = e.2.ptroot)

/-- REGION and TLBINV complete, and what TLBINV leaves of the translations (R53, R65, R356, R357). The next PC of a region
entry after the END check (log 15), the place of EPRIV of TLBINV in the order of checks (log 35) and what TLBINV waits
for (log 80) are the model's choices. -/
def Obligations.RegionsAndTranslations : Prop := Claims.RegionAndTlbinv ∧ Claims.TranslationsDropped

/-- SELFTEST of every pattern completes: where the unit is available it enters its table, and where it is not the
result is 2 at once, in D and in SELFTESTSTAT (R391, R392). -/
def Obligations.SelfTests : Prop :=
  let sh (w : LongWord) (p : Nat) (operand : Bool) : Shape :=
    { form := w.lit.isNone, sub := subNo w == p, m6 := layoutZ w, d := .dst 1, a := if operand then .src 1 else .unused, port := .uniform }
  let k (w : LongWord) (pre : Ic → Option TrapInfo) : Issue := { entry := true, dests := [destOf w.d], pre := pre }
  let priv (c : Ic) : Option TrapInfo := if c.svc then none else some ⟨0x02, 0, 0⟩
  let away (c : Ic) (w : LongWord) (p : Nat) (t : State) : Prop := SameMemory c.s t ∧ t =
    ({ c with s := modCore c.s c.core (fun k => { k with selftest := word (p + 2 ^ 5) }) } : Ic).enters
      (c.entry true Ord.relaxed .values [(0, word (p + 2 ^ 5))]) (c.slots [destOf w.d])
  (∀ w s c, offer s w (sh w 0 false) (k w (fun _ => none)) = .ok c →
    Completes (.selftestLane w) s (LongDone c [destOf w.d] Ord.relaxed (.selftest 0 0) []))
  ∧ (∀ w s c, offer s w (sh w 1 true) (k w (fun _ => none)) = .ok c →
      (bitsAt c.t.role.toNat (2 * ((c.rd 0 w.a).toNat % 32)) 2 = 1 →
        Completes (.selftestL1 w) s (LongDone c [destOf w.d] Ord.relaxed (.selftest 1 (c.rd 0 w.a)) []))
      ∧ (bitsAt c.t.role.toNat (2 * ((c.rd 0 w.a).toNat % 32)) 2 ≠ 1 → Completes (.selftestL1 w) s (away c w 1)))
  ∧ (∀ w s c, offer s w (sh w 2 false) (k w (fun _ => none)) = .ok c →
      let avail := c.eng.tiles.any (fun t => t.bound.isNone) = true ∧ (c.svc = true ∨ c.s.svclvl ≠ 1)
      (avail → c.engineRoom 0 → Completes (.selftestEngine w) s (CommandLong c .selftest [] [] [] [] 0 .engine (fun _ => [])))
      ∧ (¬ avail → Completes (.selftestEngine w) s (away c w 2)))
  ∧ (∀ w s c, offer s w (sh w 3 false) (k w priv) = .ok c →
      Completes (.selftestRfull w) s (LongDone c [destOf w.d] Ord.relaxed (.selftest 3 0) []))
  ∧ (∀ w s c, offer s w (sh w 4 true) (k w priv) = .ok c →
      ((c.rd 0 w.a).toNat % 32 < 24 → Completes (.selftestLink w) s (LongDone c [destOf w.d] Ord.relaxed (.selftest 4 (c.rd 0 w.a)) []))
      ∧ (24 ≤ (c.rd 0 w.a).toNat % 32 → Completes (.selftestLink w) s (away c w 4)))

/-! ### The words of a collective's program (chapter 18) -/

/-- SETK, ADDK, LDK, RECV, WAITN, DROP, BRK, BNZ, LOOPK, POST, DONE and HALT complete: a counter takes its value modulo
2^32, a branch adds its offset to the PC, RECV and WAITN go on at what they wait for, POST adds 1 to PROGOBJ's COUNT once
every SCAT is performed, the pending invalidations of the port buffers being applied first, DONE and HALT end the program with
codes 0 and 1. FPC of HALT, and code 7 for a PC below zero, are the model's choices (log 20) (R299, R333, R335 to R337). -/
def Claims.CaramelControl : Prop :=
  let stays (i : Instr) (s : State) (y : CSlot) : Prop := WordDone i s s y
  let jump (i : Instr) (s : State) (y : CSlot) (off : Int) : Prop :=
    exec i s = .next { s with cslots := tset s.cslots s.iss.core { y with pc := y.pc + off } }
  (∀ s x w, Runs s x → carFields w false true true 15 = true →
    stays (.caramelSetk w) s { x with k := x.k.set w.x.toNat (w.imm.zeroExtend 32) }
    ∧ jump (.caramelBnz w) s x (if x.k.getD w.x.toNat 0 ≠ 0 then w.imm.toInt else 1)
    ∧ jump (.caramelLoopk w) s { x with k := x.k.set w.x.toNat (x.k.getD w.x.toNat 0 - 1) }
        (if x.k.getD w.x.toNat 0 - 1 ≠ 0 then w.imm.toInt else 1))
  ∧ (∀ s x w, Runs s x → carFields w true true true 15 = true → jump (.caramelBrk w) s x w.imm.toInt)
  ∧ (∀ s x w, Runs s x → carFields w false false true 15 = true →
      stays (.caramelAddk w) s { x with k := x.k.set w.x.toNat (BitVec.ofInt 32 ((x.k.getD w.y.toNat 0).toNat +
        (if w.imm.getLsbD 14 then ((w.imm.toNat % 2 ^ 14 : Nat) - (if w.imm.getLsbD 13 then 2 ^ 14 else 0) : Int) * 2 ^ 16
         else ((w.imm.toNat % 2 ^ 14 : Nat) - (if w.imm.getLsbD 13 then 2 ^ 14 else 0) : Int)))) })
  ∧ (∀ s x w, Runs s x → carFields w false (w.imm.toNat != 2 && w.imm.toNat != 3) true 4 = true →
      let part := (x.k.getD w.y.toNat 0).toNat % 2 ^ 16
      let put (v : Nat) : Prop := stays (.caramelLdk w) s { x with k := x.k.set w.x.toNat (BitVec.ofNat 32 v) }
      (w.imm = 0 → put (myRank s x)) ∧ (w.imm = 1 → put x.members.length)
      ∧ (w.imm = 2 → part < x.members.length → put ((partItems (cN x.rec_) x.members.length part + cSeg x.rec_ - 1) / cSeg x.rec_))
      ∧ (w.imm = 3 → part < x.members.length → put (partItems (cN x.rec_) x.members.length part))
      ∧ (w.imm = 4 → put (cArg x.rec_)) ∧ (w.imm = 5 → put (cSeq x.rec_).toNat))
  ∧ (∀ s x w, Runs s x → carFields w false true true 0 = true →
      ((∃ g t u i, x.b.getD w.x.toNat .empty = .full g t u i) → stays (.caramelRecv w) s x)
      ∧ (bufBusy x w.x = false → stays (.caramelDrop w) s
        { x with b := x.b.set w.x.toNat .empty, bad := x.bad.filter (· != w.x.toNat) }))
  ∧ (∀ s x w, Runs s x → carFields w true true true 6 = true → w.imm.toNat ≤ 32 → x.out.length + x.scats.length ≤ w.imm.toNat →
      stays (.caramelWaitn w) s x)
  ∧ (∀ s x w, Runs s x → carFields w true true true 0 = true →
      (x.scats = [] → cProgObj x.rec_ = 0 → stays (.caramelPost w) s x)
      ∧ (x.scats = [] → cProgObj x.rec_ ≠ 0 → ∀ ps, hubAccess s x.ctx (cProgObj x.rec_) 64 .write = .ok ps →
          WordDone (.caramelPost w) s (addCount (applyAll (piecesMeetL2 s ps true)) (piecesBase ps) 1) x)
      ∧ (x.out = [] → x.scats = [] → exec (.caramelDone w) s = .next (endProgram s s.iss.core 0 0 0 0 0)))
  ∧ (∀ s x w, Runs s x → carFields w true true true 8 = true →
      exec (.caramelHalt w) s = .next (endProgram s s.iss.core 1 w.imm.toNat 0 (carPc x) 0))
  ∧ (∀ s x, Runs s x → (∀ w, exec (.caramelIllegalWord (some w)) s = .next (endProgram s s.iss.core 2 0 0 (carPc x) 0))
      ∧ (x.pc < 0 ∨ 1024 ≤ x.pc → exec (.caramelIllegalWord none) s = .next (endProgram s s.iss.core 7 0 0 (carPc x) 0)))

/-- A word with a field that must be zero, or an immediate wider than its entry's, ends the program with code 2 at its
own address; the end leaves the slot ENDED with empty buffers and nothing outstanding, SCATs dropped (log 41), and every end but
DONE's and that of an ABORT keeps an ABORT outstanding for every other member, until it acknowledges it (log 90), and sends it, by
the path of the moment, to each that has one and is not marked dead (R44, R45, R273, R330, R332). -/
def Claims.CaramelEnds : Prop :=
  let bad (i : Instr) (f : Bool) : Prop := ∀ s x, Runs s x → f = false →
    exec i s = .next (endProgram s s.iss.core 2 0 0 (carPc x) 0)
  (∀ w, bad (.caramelHalt w) (carFields w true true true 8) ∧ bad (.caramelMatch w) (carFields w false false true 4)
    ∧ bad (.caramelMatchx w) (carFields w false false false 0) ∧ bad (.caramelRecv w) (carFields w false true true 0)
    ∧ bad (.caramelWaitn w) (carFields w true true true 6 && w.imm.toNat ≤ 32)
    ∧ bad (.caramelComb w) (carFields w false false true 0) ∧ bad (.caramelCombo w) (carFields w false false true 0)
    ∧ bad (.caramelCvt w) (carFields w false true true 1) ∧ bad (.caramelFwd w) (carFields w false true false 0)
    ∧ bad (.caramelMcast w) (carFields w false true true 0) ∧ bad (.caramelSend w) (carFields w false true true 4)
    ∧ bad (.caramelGath w) (carFields w false false true 0) ∧ bad (.caramelScat w) (carFields w false false true 0)
    ∧ bad (.caramelDrop w) (carFields w false true true 0)
    ∧ bad (.caramelLdk w) (carFields w false (w.imm.toNat != 2 && w.imm.toNat != 3) true 4)
    ∧ bad (.caramelSetk w) (carFields w false true true 15) ∧ bad (.caramelAddk w) (carFields w false false true 15)
    ∧ bad (.caramelBrk w) (carFields w true true true 15) ∧ bad (.caramelBnz w) (carFields w false true true 15)
    ∧ bad (.caramelLoopk w) (carFields w false true true 15) ∧ bad (.caramelPost w) (carFields w true true true 0)
    ∧ bad (.caramelDone w) (carFields w true true true 0))
  ∧ (∀ s n code h peer fpc faddr x, tget s.cslots n = some x →
      let t := endProgram s n code h peer fpc faddr
      (∃ y, tget t.cslots n = some y ∧ y = { x with
        phase := .ended, b := List.replicate 16 .empty, out := [], scats := [], waiting := false })
      ∧ (∀ m, m ≠ n → tget t.cslots m = tget s.cslots m)
      ∧ t.out = s.out ++ (if code = 0 ∨ code = 6 then [] else
          (x.members.filter (fun p => p != s.pkgid)).zipIdx.filterMap (fun p =>
            if s.peerdead.getLsbD p.1 then none else (routeOf s s.pkgid p.1).map (fun via =>
              (⟨p.1, portTo s.pod s.pkgid (via.getD p.1), via, .carAbort n (cSeq x.rec_) s.pkgid (s.stamp + p.2)⟩ : Packet))))
      ∧ (code ≠ 0 → code ≠ 6 → ∀ p ∈ x.members, p ≠ s.pkgid →
          ∃ r ∈ t.reqs, r.kind = .abort ∧ r.owner = p ∧ r.stream = n ∧ r.serial = cSeq x.rec_)
      ∧ (∀ p ∈ t.heldPk, p.slot ≠ n))

/-- The control words of a collective's program complete, and how a program ends (R299, R330, R332, R333, R335 to R337).
FPC of HALT, code 7 for a PC below zero (log 20), SCATs dropped at an end with an error (log 41) and the ABORT that an
end keeps outstanding until each member acknowledges it (log 90) are the model's choices or readings. -/
def Obligations.CaramelProgram : Prop := Claims.CaramelControl ∧ Claims.CaramelEnds

/-- MATCH, MATCHX, COMB, COMBO, CVT, FWD, MCAST, SEND, GATH and SCAT complete: the buffer is EXPECT or takes the held
packet; two FULL buffers of one segment and type combine item by item, COMBO only where their tags are the children of
one node of the canonical tree; a FULL buffer is converted, sent to ranks, or written out later; GATH, with no pending SCAT
of its bytes, reads its chunk and pads it with -0; a held packet of another EPOCH ends the program with code 3 and its
sender; a word that reads a buffer with an error that cannot be corrected ends it with code 4 (log 88). That MCAST's transfers are
in ascending rank is the model's reading (log 42) (R326, R327, R330, R333 to
R335, R358). -/
def Obligations.CaramelBuffers : Prop :=
  let buf (x : CSlot) (i : BitVec 4) : CBuf := x.b.getD i.toNat .empty
  let put (x : CSlot) (i : BitVec 4) (v : CBuf) : CSlot := { x with b := x.b.set i.toNat v, bad := x.bad.filter (· != i.toNat) }
  let whole (x : CSlot) (i : BitVec 4) : Prop := i.toNat ∉ x.bad
  let stays (i : Instr) (s : State) (y : CSlot) : Prop := WordDone i s s y
  let matched (i : Instr) (w : CaramelFields) (s : State) (x : CSlot) (r : Nat) : Prop :=
    let seg := (x.k.getD w.y.toNat 0).toNat
    let key (p : CPacket) : Bool := p.slot == s.iss.core && p.seq == cSeq x.rec_ && p.src == r && p.seg == seg
    bufBusy x w.x = false → (∀ a b, buf x w.x ≠ .expect a b) → r < x.members.length → x.filled.contains (r, seg) = false →
      let u := { s with heldPk := s.heldPk.filter (fun p => !key p) }
      (s.heldPk.find? key = none → WordDone i s u (put x w.x (.expect r seg)))
      ∧ (∀ p, s.heldPk.find? key = some p → p.epoch = x.epoch → WordDone i s u
          { put x w.x (.full p.seg p.ty p.tag p.items) with filled := (p.src, p.seg) :: x.filled, waiting := false })
      ∧ (∀ p, s.heldPk.find? key = some p → p.epoch ≠ x.epoch →
          exec i s = .next (endProgram u s.iss.core 3 0 (x.members.getD r 0) (carPc x) 0))
  let sent (i : Instr) (s : State) (x : CSlot) (b : BitVec 4) (ranks : List Nat) : Prop :=
    ∀ seg ty tag is, buf x b = .full seg ty tag is → (∀ r ∈ ranks, r < x.members.length) →
      x.out.length + x.scats.length + ranks.length ≤ 32 → x.sentTo = [] → whole x b →
      let pkt : CPacket := ⟨myRank s x, s.iss.core, cSeq x.rec_, x.epoch, seg, ty, tag, is⟩
      let r := (ranks.map (fun r => x.members.getD r 0)).foldl (carSend1 s.iss.core b pkt) (s, x)
      WordDone i s r.1 r.2 ∧ r.1.mem = s.mem
      ∧ r.2 = { x with out := r.2.out }
      ∧ r.2.out.map (fun t => (t.buf, t.peer, t.pkt)) = x.out.map (fun t => (t.buf, t.peer, t.pkt))
          ++ ranks.map (fun e => (b.toNat, x.members.getD e 0, pkt))
  (∀ s x w, Runs s x →
    (carFields w false false true 4 = true → matched (.caramelMatch w) w s x (w.imm.toNat % 16))
    ∧ (carFields w false false false 0 = true → matched (.caramelMatchx w) w s x ((x.k.getD w.z.toNat 0).toNat % 16)))
  ∧ (∀ s x w seg ty g1 i1 g2 i2, Runs s x → carFields w false false true 0 = true → bufBusy x w.x = false → cRop x.rec_ < 4 →
      buf x w.x = .full seg ty g1 i1 → buf x w.y = .full seg ty g2 i2 → whole x w.x → whole x w.y →
      let comb (l h : List Nat) : List Nat := (l.zip h).map (fun e => combItem (cRop x.rec_) ty e.1 e.2)
      stays (.caramelComb w) s (put x w.x (.full seg ty none (comb i1 i2)))
      ∧ (∀ g, parentTag x.members.length g1 g2 = some g → stays (.caramelCombo w) s (put x w.x (.full seg ty (some g) (comb i1 i2))))
      ∧ (∀ g, parentTag x.members.length g1 g2 = none → parentTag x.members.length g2 g1 = some g →
          stays (.caramelCombo w) s (put x w.x (.full seg ty (some g) (comb i2 i1)))))
  ∧ (∀ s x w seg tag is, Runs s x → carFields w false true true 1 = true → bufBusy x w.x = false →
      let src := if w.imm = 1 then cStype x.rec_ else cCtype x.rec_
      let dst := if w.imm = 1 then cCtype x.rec_ else cStype x.rec_
      buf x w.x = .full seg src tag is → whole x w.x → stays (.caramelCvt w) s (put x w.x (.full seg dst tag
        (is.map (fun v => (fmtT dst).round 0 false none ((fmtT src).read v))))))
  ∧ (∀ s x w, Runs s x →
      (carFields w false true false 0 = true → sent (.caramelFwd w) s x w.x [(x.k.getD w.z.toNat 0).toNat % 16])
      ∧ (carFields w false true true 0 = true →
          sent (.caramelMcast w) s x w.x ((List.range x.members.length).filter (fun r => r != myRank s x)))
      ∧ (carFields w false true true 4 = true → sent (.caramelSend w) s x w.x [w.imm.toNat]))
  ∧ (∀ s x w ps, Runs s x → carFields w false false true 0 = true → bufBusy x w.x = false → cSrc x.rec_ ≠ 0 → x.sealed = true →
      let seg := (x.k.getD w.y.toNat 0).toNat
      let r := myRank s x
      let first := (segItems x.rec_ x.members.length seg).1
      let n := (segItems x.rec_ x.members.length seg).2
      let wd := tyBits (cStype x.rec_) / 8
      n ≠ 0 → hubAccess s x.ctx (cSrc x.rec_ + first * wd) (n * wd) .read = .ok ps → scatBefore s x ps = false →
      WordDone (.caramelGath w) s (piecesTouch s ps) (put x w.x (.full seg (cStype x.rec_) (some (r, r + 1))
        (itemsOfBytes wd (piecesRead s ps) n ++ List.replicate (cSeg x.rec_ - n) (2 ^ (tyBits (cStype x.rec_) - 1))))))
  ∧ (∀ s x w tag is, Runs s x → carFields w false false true 0 = true → cDst x.rec_ ≠ 0 → x.out.length + x.scats.length < 32 →
      let seg := (x.k.getD w.y.toNat 0).toNat
      let wd := tyBits (cStype x.rec_) / 8
      buf x w.x = .full seg (cStype x.rec_) tag is → whole x w.x → (cRop x.rec_ = 1 → tag = some (0, x.members.length)) →
      let e := segItems x.rec_ x.members.length seg
      let vs := (is.take e.2).map (fun v => if cRop x.rec_ = 1 then meanItem (cStype x.rec_) x.members.length v else v)
      WordDone (.caramelScat w) s { s with stamp := s.stamp + 1 } { x with
        scats := x.scats ++ [⟨s.stamp, w.x.toNat, carPc x, cDst x.rec_ + e.1 * wd, vs.flatMap (leBytes wd)⟩] })

/-! ### Events of groups and cores (chapters 04, 07, 08 and 21) -/

/-- The ends of a group's waits complete: a table entry goes to the group that waited longest, a full return buffer is
committed at its park, its first failure is raised, or the error of a word that a slot would merge into is consumed, a waiting EXIT, TLBINV or WAITV goes on, the token leaves a team
whose live threads have all passed it, a page fault restarts its group or is delivered, and a wait of R40 or of JSYNC
that lasts too long raises its trap (R40, R62, R65, R107, R108, R110, R129, R131, R313, R316, R317, R344, R346, R347, R359, R373). The model's choices:
the reads that a hub makes for filed WAITV waits are of the physical address that they were filed with (log 14), the instruction at
which EDETWAIT is raised is that of `detWaitAt` (log 27), and none is raised at threads in REFORM bins (log 93). -/
def Obligations.GroupEvents : Prop :=
  let grp (s : State) (f : Group → Group) : State := modGroup s s.iss.core s.iss.grp f
  (∀ s g, groupAt s s.iss.core s.iss.grp = some g → g.yielded.isSome = true →
    Quietly .yieldTimeout s (grp s (fun g => { g with yielded := none })))
  ∧ (∀ s t k, tget s.teams s.iss.core = some t → t.ott.length + (t.groups.filter (fun e => e.2.granted)).length < 512 →
      ottHeir t = some k → Quietly .ottEntryGrant s (modGroup s s.iss.core k (fun g => { g with granted := true, stall := none })))
  ∧ (∀ s g b pc next ls, groupAt s s.iss.core s.iss.grp = some g → g.status = .parking b pc next ls → rbFilled g.rb = true →
      (failedSlot g.rb = none → lostSlot g [] g.rb = none → Quietly .parkCommit s (grp s (fun g =>
        { (g.rb.foldl Group.commitSlot g).openStretch with rb := [], poisonPc := [], status := .running, parked := b })))
      ∧ (∀ x n, failedSlot g.rb = none → lostSlot g [] g.rb = some (x, n) →
          let u := logLost s 1 s.iss.core
          let tr : TrapInfo := ⟨0x10, 0, word (16 + 256 * n)⟩
          let live := x.act.filter (fun l => (g.lane l).live)
          (g.hm ≠ none → exec .parkCommit s = .next (modGroup u s.iss.core s.iss.grp (fun g =>
            { g with status := .pageFault tr true none (some (x.pc, live)) g.status })))
          ∧ (g.hm = none → g.rmtOp = false → x.pc ∉ g.poisonPc →
              exec .parkCommit s = .next (poisonRestart u s.iss.core s.iss.grp x.pc))
          ∧ (g.hm = none → g.rmtOp = true ∨ x.pc ∈ g.poisonPc →
              exec .parkCommit s = .next (takeTrap (modGroup u s.iss.core s.iss.grp (fun g =>
                { g with status := .running, rb := g.rb.filter (fun y => y.id != x.id) })) s.iss.core s.iss.grp tr x.pc x.pc false false live)))
      ∧ (∀ x t, failedSlot g.rb = some (x, t) → exec .parkCommit s = .next (takeTrap (grp s (fun g => { g with status := .running }))
          s.iss.core s.iss.grp t x.pc (if b then pc else next) true false (ls.filter (fun l => (g.lane l).live)))))
  ∧ (∀ s t w u c, tget s.teams s.iss.core = some t → drained t s.iss.grp = true →
      resumeBlocked s s.iss.core s.iss.grp 0 = some (.exit, w, u) →
      offer u w (shapeW w) { blocking := true, tx := some 2 } = .ok c → drained c.t c.grp = true → latchedTrap c.g = none →
      exec .exitDrainComplete s = .next (retire (endThreads c.s c.core c.grp c.en) c.core c.grp c.pc c.next c.act [] false))
  ∧ (∀ s g w len d x u c, groupAt s s.iss.core s.iss.grp = some g → g.status = .blocked .tlbinv w len d → subNo w = 2 →
      tlbScope w (readReg g 0) = .ok x → accessesLeft s x = false →
      resumeBlocked s s.iss.core s.iss.grp 1 = some (.tlbinv, w, u) →
      offer u w { form := w.lit.isNone, sub := subNo w == 2, m6 := layoutZ w, port := .uniform }
        { blocking := true, tx := some 2, pre := fun c => if c.svc then none else some ⟨0x02, 0, 0⟩ } = .ok c →
      exec .tlbinvComplete s = .next (c.with (retireGroup c.pc c.next c.act [] false c.g)))
  ∧ (∀ s w u c a, s.iss.id = 0 → s.iss.grp < 64 → resumeBlocked s s.iss.core s.iss.grp 0 = some (.waitv, w, u) →
      offer u w { shapeW w with m6 := layoutM [0, 1] w.m6, a := .src 1, port := .uniform } { blocking := true, tx := some 2 } = .ok c →
      checkLanes c .waitv 64 false [(0, (c.rd 0 w.a).toNat)] = .ok [a] → a.xl.mt = 0 →
      let pa := physAddr c.s c.ctx a.xl a.va false
      let o := ordOf w.m6
      let s' := l2Touch (meetUpsets c.s pa 8) pa (policy o a.xl) a.xl.wp false
      readBuffered c a = false → inOrder c.s c.ctx c.t (objectRead c a) = true →
      pa + 64 ≤ hbmTop → poisoned s' pa 8 = false → reachedBy s' c.core pa = true →
      (o.acq = true → markFree s' (scopeRank o.scope) pa 8 = true) →
      exec .waitvPoll s = .next (retire (if clearsL1 o then l1Clear s' c.core else l1DropRange s' c.core pa 8)
        c.core c.grp c.pc c.next c.act [] false))
  ∧ (∀ s t, s.iss.id ≠ 0 → s.iss.grp < 64 → tget s.teams s.iss.core = some t → localWaits t s.iss.id = [] → Quietly .waitvPoll s s)
  ∧ (∀ s t va pc acq cp wp, let pa := s.iss.id
      let h : Held := .waitv pa va pc acq cp wp
      let s' := l2Touch (meetUpsets s pa 8) pa cp wp false
      let awake := modTeam (l1DropRange s' s.iss.core pa 8) s.iss.core (fun t => wakeHeld t h s'.stamp)
      pa ≠ 0 → s.iss.grp < 64 → tget s.teams s.iss.core = some t → localWaits t pa = [h] →
      (redBuffered s t (teamCtx s t) 0 pa 8 = true → Quietly .waitvPoll s s)
      ∧ (redBuffered s t (teamCtx s t) 0 pa 8 = false →
      (poisoned s' pa 8 = true → Quietly .waitvPoll s (modTeam s' s.iss.core (fun t => retryWaitv t h pc s'.stamp)))
      ∧ (poisoned s' pa 8 = false → (reachedBy s' s.iss.core pa = false ∨ (acq = true ∧ markFree s' 4 pa 8 = false)) → Quietly .waitvPoll s s')
      ∧ (poisoned s' pa 8 = false → reachedBy s' s.iss.core pa = true →
          (acq = false → Quietly .waitvPoll s awake) ∧ (acq = true → markFree s' 4 pa 8 = true → Quietly .waitvPoll s (l1Clear awake s.iss.core)))))
  ∧ (∀ s t h, 64 ≤ s.iss.grp → tget s.teams s.iss.core = some t → (peerWaits t)[s.iss.grp - 64]? = some h →
      Quietly .waitvPoll s (pollHeld s s.iss.core (teamCtx s t) h))
  ∧ (∀ s t, tget s.teams s.iss.core = some t → t.hasToken = true → heldAt t .token = teamLive t → teamLive t ≠ 0 →
      tokenFree s s.iss.core t = true → exec .commitTokenHandover s = .next (settleToken
        (modTeam s s.iss.core (fun t => releaseHeld { t with hasToken := false, hadToken := true } .token s.stamp)) t.launch))
  ∧ (∀ s core grp writes t g tr, s.msg = some (.pageFaultResolved core grp true writes) → tget s.teams core = some t →
      groupAt s core grp = some g →
      ∀ entry place back,
      (g.status = .pageFault tr false entry place back → exec .pageFaultResolved s = .next (regionRestart (firmwareWrites s writes) core grp))
      ∧ (g.status = .pageFault tr true entry place back → exec .pageFaultResolved s = .next (modGroup (firmwareWrites s writes) core grp (fun g =>
          { g with status := back, walked := [] }))))
  ∧ (∀ s core grp writes t g tr b back, s.msg = some (.pageFaultResolved core grp false writes) → tget s.teams core = some t →
      groupAt s core grp = some g →
      let s' := modGroup s core grp (fun g => { g with status := .running })
      (∀ pc, g.status = .pageFault tr b none none back → issuePc g = some pc →
        exec .pageFaultResolved s = .next (takeTrap s' core grp tr pc pc false false (activeLanes g pc)))
      ∧ (∀ pc ls, g.status = .pageFault tr b none (some (pc, ls)) back →
          exec .pageFaultResolved s = .next (takeTrap s' core grp tr pc pc false false ls))
      ∧ (∀ i e place, g.status = .pageFault tr b (some i) place back → t.ott.find? (fun e => e.id == i) = some e →
        exec .pageFaultResolved s = .next (takeTrap (dropEntry s' core e) core grp tr e.pc e.pc false false (entryAct s core e))))
  ∧ (∀ s t g k, tget s.teams s.iss.core = some t → groupAt s s.iss.core s.iss.grp = some g →
      detWaitKind s s.iss.core t s.iss.grp g = some k → recDet (recOf s t) = true → lowerBlocked s t = true →
      let ls := (detWaitAt g k).1
      let pc := (detWaitAt g k).2
      ls ≠ [] → exec .edetwaitTimeout s = .next (takeTrap (grp s (fun g => ls.foldl (fun g l => g.modLane l (fun x => { x with held := none })) g))
        s.iss.core s.iss.grp ⟨0x0F, 0, word k⟩ pc pc false false ls))
  ∧ (∀ s t g p n pc, tget s.teams s.iss.core = some t → groupAt s s.iss.core s.iss.grp = some g → g.stall = some (.journal p, n) →
      p ≠ 0 → issuePc g = some pc → exec .jsyncStallTimeout s =
        .next (takeTrap s s.iss.core s.iss.grp (ejournal s (teamCtx s t) 3 (word p)) pc pc false false (activeLanes g pc)))

/-- A commit writes the results in program order: a register of a slot's destination holds the last of them, and every
other register and predicate keeps its value; a predicate p0 keeps true (R79, R105, R107). -/
def Obligations.CommitInOrder : Prop :=
  ∀ g : Group,
    (∀ n, (∀ x ∈ g.rb, x.dest ≠ .s n) → wget g.commit.sreg n = wget g.sreg n)
    ∧ (∀ l n, (∀ x ∈ g.rb, x.dest ≠ .v n ∨ l ∉ x.lanes) → wget (g.commit.lane l).v n = wget (g.lane l).v n)
    ∧ (∀ l n, (∀ x ∈ g.rb, x.dest ≠ .p n ∨ l ∉ x.lanes) → (g.commit.lane l).p.getLsbD n = (g.lane l).p.getLsbD n)
    ∧ (∀ pre x post res n, g.rb = pre ++ x :: post → x.st = .filled res → (∀ y ∈ post, y.dest ≠ x.dest) →
        (x.dest = .s n → wget g.commit.sreg n = laneVal res 0)
        ∧ (x.dest = .v n → ∀ l ∈ x.lanes, l < g.threads.length → wget (g.commit.lane l).v n = laneVal res l)
        ∧ (x.dest = .p n → n ≠ 0 → n < 128 → ∀ l ∈ x.lanes, l < g.threads.length →
            (g.commit.lane l).p.getLsbD n = (laneVal res l != 0)))
    ∧ (∀ l, (g.commit.lane l).p.getLsbD 0 = (g.lane l).p.getLsbD 0)
    ∧ g.commit.rb = [] ∧ g.commit.threads.length = g.threads.length ∧ g.commit.lc = g.lc

/-- A walk's end leaves the miss, keeps its translation in the TLBs of the die and of every waiter's core; a window's end
sets the quota as R113 says and clears the events; of the bins that hold W threads, age, or stand while nothing else can
issue, that of lowest key PC is drawn from, and what stays is as old as the first filed of it (R56, R63, R64, R113, R115 to R117). Until
the TLBINV the walk's root is the old or the new PTROOT (`ctxNow`), which one being a free value (R53, log 64). -/
def Obligations.WalksAndBins : Prop :=
  (∀ s m, (dieOf s s.iss.core).misses[s.iss.id]? = some m → ∃ t, exec .tableWalkDone s = .next t ∧ SameMemory s t
      ∧ (dieOf t s.iss.core).misses = (dieOf s s.iss.core).misses.eraseIdx s.iss.id
      ∧ ∀ x, let c := ctxNow s m.ctx m.page
          nbit c.usePtroot.toNat 0 = true → walkFrom s (walkRead s (dieOf s s.iss.core) m.ctx) m.page (rootOf c) 3 = .ok x →
          (m.ctx, x) ∈ (dieOf t s.iss.core).tlb ∧ ∀ w ∈ m.waiters, (m.ctx, x) ∈ (coreRegs t w.1).tlb)
  ∧ (∀ s t, tget s.teams s.iss.core = some t → Quietly .lldWindowEnd s
      (setTeam s s.iss.core { t with quota := nextQuota (coreRegs s s.iss.core) t.quota t.events, events := 0 }))
  ∧ (∀ (c : CoreRegs) q e, let thr := c.lldthr.toNat % 2 ^ 16
      let least := c.lldmin.toNat % 2 ^ 7
      (c.lldthr.getLsbD 16 = false → nextQuota c q e = 64)
      ∧ (c.lldthr.getLsbD 16 = true →
          (thr < e → nextQuota c q e = max least (q / 2)) ∧ (2 * e ≤ thr → nextQuota c q e = min 64 (2 * q))
          ∧ (thr < 2 * e → e ≤ thr → nextQuota c q e = q)))
  ∧ (∀ s t b, drawable s = some (t, b) →
      let ripe (x : Bin) : Bool := recWidth (recOf s t) ≤ x.threads.length || !t.groups.any (fun e => canIssue e.2)
      (lowestOf t ripe = some s.iss.id → Quietly .reformBinDraw s (drawBin s s.iss.core s.iss.id))
      ∧ (lowestOf t (fun x => ripe x || decide (x.stamp ≤ b.stamp)) = some s.iss.id →
          Quietly .reformBinAgeExpiry s (drawBin s s.iss.core s.iss.id)))
  ∧ (∀ (t : Team) (p : Bin → Bool) (i : Nat), lowestOf t p = some i →
      ∃ b : Bin, (t.bins[i]?).join = some b ∧ b.held = false ∧ p b = true
      ∧ ∀ (j : Nat) (x : Bin), (t.bins[j]?).join = some x → x.held = false → p x = true → b.pc.toNat ≤ x.pc.toNat)
  ∧ (∀ s t, tget s.teams s.iss.core = some t → recReform (recOf s t) = true → recDet (recOf s t) = true →
      t.groups.any (fun e => canIssue e.2) = false → (lowestBin t).isSome = true → (freeContext t).isSome = true →
      Quietly .reformDetDrain s (drainBins s s.iss.core 64))
  ∧ (∀ s t b k c, drawable s = some (t, b) → freeContext t = some c → recWidth (recOf s t) < b.threads.length →
      (∀ x ∈ b.threads, b.takes x = true) → k = recWidth (recOf s t) →
      ∃ t' g, tget (drawBin s s.iss.core s.iss.id).teams s.iss.core = some t' ∧ tget t'.groups c = some g
        ∧ g.threads.map (·.tid) = ((b.threads.foldr insertTid []).take k).map (fun x => x.1.tid)
        ∧ ∃ b', (t'.bins[s.iss.id]?).join = some b' ∧ b'.threads = (b.threads.foldr insertTid []).drop k
          ∧ (∀ x ∈ b'.threads, b'.stamp ≤ x.1.filed) ∧ ∃ x ∈ b'.threads, b'.stamp = x.1.filed)

/-! ### Events of the engine and of copies (chapters 13 and 14) -/

/-- The arbiter grants an eligible command, an entry ages to priority 8, a granted command takes its effect and leaves the
table, or, where what it wrote has invalidations pending, stays unacknowledged until they are applied, an MREL that nothing earlier needs releases its tiles or range, a command one of whose tiles has been released performs nothing
and fails with EMMA 0x04, the teams that wait for tiles take those that are free then, and an MRSV's copy of valid pages ends, or asks
the peers that hold the rest for it (R242, R244, R245, R251, R258, R259, R267, R290, R299). That an MRSV reads its own memory in one step and
asks each peer once is the model's choice (log 74). -/
def Claims.EngineEvents : Prop :=
  (∀ s slot x ts, (engineOf s s.iss.core).granted = none → arbiter s (engineOf s s.iss.core) = some (slot, x) →
    entryTiles (engineOf s s.iss.core) x = some ts →
    Quietly .engineGrant s (modEngine s s.iss.core (fun e => { e with granted := some slot })))
  ∧ (∀ s slot x, (engineOf s s.iss.core).granted = none → arbiter s (engineOf s s.iss.core) = some (slot, x) →
      entryTiles (engineOf s s.iss.core) x = none →
      exec .engineGrant s = .next (settleTiles (endCommand s s.iss.core slot x 0 (some (emma 4))) s.iss.core))
  ∧ (∀ s slot x, arbiter s (engineOf s s.iss.core) = some (slot, x) →
      (slot, x) ∈ (engineOf s s.iss.core).table ∧ eligible s (engineOf s s.iss.core) x = true
      ∧ ∀ y ∈ (engineOf s s.iss.core).table, eligible s (engineOf s s.iss.core) y.2 = true →
          (if y.2.aged then 8 else y.2.prio) ≤ (if x.aged then 8 else x.prio)
          ∧ ((if y.2.aged then 8 else y.2.prio) = (if x.aged then 8 else x.prio) → x.stamp ≤ y.2.stamp))
  ∧ (∀ s x, tget (engineOf s s.iss.core).table s.iss.id = some x → x.aged = false → (engineOf s s.iss.core).granted ≠ some s.iss.id →
      Quietly .engineEntryAge s (modEngine s s.iss.core (fun e => { e with table := tset e.table s.iss.id { x with aged := true } })))
  ∧ (∀ s slot x ts, s.iss.id = 0 → (engineOf s s.iss.core).granted = some slot → tget (engineOf s s.iss.core).table slot = some x →
      entryTiles (engineOf s s.iss.core) x = some ts →
      let r := runCommand s s.iss.core x ts
      (stillPending r.1 (engLines r.1 x) = [] →
        exec .engineCommandComplete s = .next (settleTiles (endCommand r.1 s.iss.core slot x r.2.1 r.2.2) s.iss.core))
      ∧ (stillPending r.1 (engLines r.1 x) ≠ [] → ∃ t y, exec .engineCommandComplete s = .next t ∧ SameMemory r.1 t
          ∧ (engineOf t s.iss.core).granted = none ∧ tget (engineOf t s.iss.core).table slot = some y
          ∧ y.handle = x.handle ∧ y.core = x.core ∧ y.grp = x.grp ∧ y.cmd = .written (stillPending r.1 (engLines r.1 x)))
      ∧ (r.2.2 = none → tget (engineOf (endCommand r.1 s.iss.core slot x r.2.1 r.2.2) s.iss.core).table slot = none))
  ∧ (∀ s x lines, s.iss.id ≠ 0 → tget (engineOf s s.iss.core).table (s.iss.id - 1) = some x → x.cmd = .written lines →
      stillPending s lines = [] →
      exec .engineCommandComplete s = .next (settleTiles (endCommand s s.iss.core (s.iss.id - 1) x 0 none) s.iss.core))
  ∧ (∀ s slot x ts, s.iss.id = 0 → (engineOf s s.iss.core).granted = some slot → tget (engineOf s s.iss.core).table slot = some x →
      entryTiles (engineOf s s.iss.core) x = some ts → x.cmd = .mzero →
      ∃ t, exec .engineCommandComplete s = .next t ∧ SameMemory s t
        ∧ ∀ y ∈ ts, ∀ z, (engineOf t s.iss.core).tiles[y.2]? = some z → z.elems = [] ∧ z.shadow = [] ∧ z.log = [])
  ∧ (∀ s x, tget (engineOf s s.iss.core).table s.iss.id = some x → mrelReady s (engineOf s s.iss.core) x = true →
      Quietly .mrelPerform s (settleTiles (mrelPerform s s.iss.core s.iss.id x) s.iss.core)
      ∧ (x.cmd = .mrelTiles → entryTiles (engineOf s s.iss.core) x = none →
          mrelPerform s s.iss.core s.iss.id x = endCommand s s.iss.core s.iss.id x 0 (some (emma 4)))
      ∧ (∀ id, x.cmd = .mrelBuf id → ∀ t, tget (mrelPerform s s.iss.core s.iss.id x).teams x.core = some t → ∀ v ∈ t.resv, v.id ≠ id))
  ∧ (∀ s t v e g, tget s.teams s.iss.core = some t → t.resv.find? (fun v => v.id == s.iss.id) = some v →
      t.ott.find? (fun e => match e.work with | .mrsv i => i == s.iss.id | _ => false) = some e → inOrder s (teamCtx s t) t e = true →
      waitsForFirmware t e.grp = false → resvBehind t e = false →
      groupAt s s.iss.core e.grp = some g → resvNotValid s (teamCtx s t) v = none →
      let q := (List.range (v.len / 32)).foldl (resvSector s.iss.core (teamCtx s t) (isService s t) v) ⟨s, e, []⟩
      let p := resvAsk s.iss.core (teamCtx s t) v q
      (q.e.bad = none → p.left = [] → exec .mrsvCopyComplete s = .next (finishResv p.st s.iss.core v.id p.e))
      ∧ (q.e.bad = none → p.left ≠ [] →
          exec .mrsvCopyComplete s = .next (putEntry p.st s.iss.core { p.e with work := .remote p.left })))

/-- A channel that may read its next sector delivers it: of a CPY from memory of MT 0 the 32 bytes are in the scratchpad at
DST + P, but for those that a block write has replaced since another part of the block was read, and P advances by 32; a stopped team's channel pauses at a multiple of 64 KiB; a PUBL that nothing holds back
changes the front of a buffer with no open CPYG, and latches ECOPY of another (R168, R233, R234, R236, R240). That a channel's sectors are
delivered one by one (log 73) and that a PUBL at .sys applies every pending invalidation of the package (log 80) are the model's
choices. -/
def Claims.CopyEvents : Prop :=
  (∀ s t c, tget s.teams s.iss.core = some t → t.chan[s.iss.id]? = some c → chanReady t c = true → chanWaits s c = false →
    exec .copySectorDelivered s = .next (copySector s s.iss.core s.iss.id c))
  ∧ (∀ s t c x, tget s.teams s.iss.core = some t → t.chan[s.iss.id]? = some c → chanReady t c = true → c.kind = .cpy →
      chanXl s c (c.src + c.p) = .ok x → x.mt = 0 → c.p + 32 < c.len → s.upsets = [] → Memory.wf t.spad = true →
      let pa := physAddr s c.ctx x (c.src + c.p) false
      pa + 32 ≤ hbmTop → lostAt s pa 32 = false →
      ∃ u t', exec .copySectorDelivered s = .next u ∧ SameMemory s u ∧ tget u.teams s.iss.core = some t'
        ∧ memRead t'.spad (c.dst + c.p) 32 = (List.range 32).map (fun k =>
            ((c.olds.find? (fun o => o.1 == c.p + k)).map (·.2)).getD (memByte s.mem (pa + k)))
        ∧ (∀ a, ¬ (c.dst + c.p ≤ a ∧ a < c.dst + c.p + 32) → memByte t'.spad a = memByte t.spad a)
        ∧ (t'.chan[s.iss.id]?).map (fun c => (c.p, c.st)) = some (c.p + 32, c.st))
  ∧ (∀ s t c, tget s.teams s.iss.core = some t → t.chan[s.iss.id]? = some c → t.stopping = true → c.st = .active →
      c.paused = false → (c.p % 2 ^ 16 = 0 ∨ c.waitRemote = true) →
      Quietly .copyPreemptPause s (modTeam (dropChanReads s s.iss.core s.iss.id) s.iss.core (fun t =>
        { t with chan := lmod t.chan s.iss.id (fun c => { c with paused := true, waitRemote := false, held := [] }) })))
  ∧ (∀ s t e a sc, tget s.teams s.iss.core = some t → t.ott.find? (fun e => e.id == s.iss.id) = some e → (realEntry t e).work = .publ a sc →
      inOrder s (teamCtx s t) t (realEntry t e) = true → clearsL1 (realEntry t e).ord = false → s.upsets = [] →
      let k := teamCtx s t
      let x := ctxOf s k
      let e' := realEntry t e
      let s' := if e'.ord.rel && e'.ord.scope == .sys then applyAll s else s
      (tgetD x.openCpyg a.xl.aux 0 = 0 → a.xl.aux ∉ x.torn → Quietly .publSwap s (finishEntry (setMarks (modCtx s' k (fun x =>
          { x with sel := if x.sel.contains a.xl.aux then x.sel.filter (· != a.xl.aux) else insertNat a.xl.aux x.sel })) s.iss.core k e')
          s.iss.core e'))
      ∧ (0 < tgetD x.openCpyg a.xl.aux 0 ∨ a.xl.aux ∈ x.torn →
          Quietly .publSwap s (finishEntry (latchErr s' s.iss.core e'.grp 0x14 0 (word a.va) 0) s.iss.core e')))

/-- The events of the engines and of the copy channels complete (R168, R233, R234, R236, R240, R242, R244, R245, R251,
R258, R259, R267, R290, R299). That an MRSV reads its own memory in one step and asks each peer once (log 74), that a
channel's sectors are delivered one by one (log 73) and that a PUBL at .sys applies every pending invalidation (log
80) are the model's choices. -/
def Obligations.EngineAndCopyEvents : Prop := Claims.EngineEvents ∧ Claims.CopyEvents

/-! ### Events of the journal, of streams and of the peer transport (chapters 12, 15, 16, 23 and 24) -/

/-- The journal's events complete: a record of this incarnation that the partner's store does not hold is kept once and
acknowledged; an acknowledgement of the current partner raises CACK and JACKPOS to it; a truncation drops the records
below its base; a replay places the image of a store; a CLOSING stream tells each live owner and is CLOSED when all have
answered (R275, R287, R365, R367, R368, R374, R377). That an acknowledgement of a package other than the current partner changes nothing is the
model's choice (log 32). -/
def Obligations.JournalEvents : Prop :=
  (∀ s pkg ctx pos base data req, s.msg = some (.journalRecord pkg ctx pos base data req s.inc) →
    let store := storeOf s pkg ctx
    (∀ b, storeBase s pkg ctx = some b → b ≤ pos → (∀ r ∈ store, r.1 ≠ pos) → store.length < 2 ^ 20 → s.partnerJ.length < 2 ^ 22 →
      Quietly .journalRecordAtPartner s (ackStore { s with partnerJ := s.partnerJ ++ [(pkg, ctx, pos, data)] } pkg ctx))
    ∧ (∀ b, storeBase s pkg ctx = some b → (pos < b ∨ ∃ r ∈ store, r.1 = pos) →
        Quietly .journalRecordAtPartner s (ackStore s pkg ctx)))
  ∧ (∀ s pkg ctx pos base data req inc, s.msg = some (.journalRecord pkg ctx pos base data req inc) → inc ≠ s.inc →
      Quietly .journalRecordAtPartner s (sendTo s pkg (.remoteAnswer req 2 [] s.inc)))
  ∧ (∀ s pkg ctx upTo, s.msg = some (.journalAck pkg ctx upTo) → partnerOf (ctxOf s ctx) = some pkg →
      gateLive (ctxOf s ctx) = true → upTo ≤ (ctxOf s ctx).jpos → (ctxOf s ctx).gate = .normal → (tget s.ctxs ctx).isSome = true →
      ∃ t, exec .journalAck s = .next t ∧ (ctxOf t ctx).cack = max (ctxOf s ctx).cack upTo
        ∧ (ctxOf t ctx).jack = max (ctxOf s ctx).jack upTo ∧ (ctxOf t ctx).jpos = (ctxOf s ctx).jpos)
  ∧ (∀ s pkg ctx upTo, s.msg = some (.journalAck pkg ctx upTo) → (partnerOf (ctxOf s ctx) ≠ some pkg ∨ gateLive (ctxOf s ctx) = false) →
      Quietly .journalAck s s)
  ∧ (∀ s pkg ctx base req, s.msg = some (.journalTruncation pkg ctx base req) → ∃ t, Quietly .journalTruncationAtPartner s t
      ∧ (∀ r ∈ storeOf t pkg ctx, base ≤ r.1 ∨ ∃ b, storeBase s pkg ctx = some b ∧ base ≤ b)
      ∧ (∀ p c, (p, c) ≠ (pkg, ctx) → storeOf t p c = storeOf s p c))
  ∧ (∀ s origin ctx stores partner into va pa entries k base recs,
      s.msg = some (.replayFetch origin ctx stores partner into va pa entries) →
      let now := if origin = s.pkgid then partnerOf (ctxOf s ctx) else partner
      let bs := replayImage origin ctx base recs
      let u := { s with mem := memPatch s.mem entries }
      replayStore s origin ctx stores now = some (k, base, recs) → populated pa bs.length = true →
      mappedReadOnly u into va pa bs.length = true →
      exec .replayJournalFetch s = .next (homeWrite u pa bs)
      ∧ (k ≠ s.pkgid → nbit s.live k = true ∧ s.peerdead.getLsbD k = false)
      ∧ ∀ x ∈ stores, x.1 ≠ s.pkgid → nbit s.live x.1 = true → s.peerdead.getLsbD x.1 = false →
          storeReach x ≤ storeReach (k, base, recs) ∧ (storeReach x = storeReach (k, base, recs) → now = some x.1 → now = some k))
  ∧ (∀ s, let ctx := s.iss.core
      let n := s.iss.id
      let x := streamOf (ctxOf s ctx) n
      x.st = 2 → x.out = 0 →
      (x.owners ≠ [] → x.unacked = [] → ∃ t, Quietly .streamCloseDrain s t
        ∧ ∀ o ∈ x.owners, s.peerdead.getLsbD o = false → ∃ r ∈ t.reqs, r.kind = .closing ∧ r.owner = o ∧ r.ctx = ctx ∧ r.stream = n)
      ∧ (x.owners = [] → x.unacked = [] → Quietly .streamClosed s (streamClosed s ctx n)))

/-- A request's events at the package that sent it: its answer ends it once, or makes it wait or be sent again; a timeout
sends it again and the fourth marks its owner dead; a write that a halted team has sent and that is not performed is over, not sent
again, which is the model's reading of R338 (log 90); a stream
that no request has told its LWM tells every live owner of it; write-combining entries drain as R218 says and leave when
acknowledged (R217 to R219, R270 to R273, R276, R277, R282, R338). -/
def Obligations.RequesterEvents : Prop :=
  let mark (s : State) (id : Nat) (f : Req → Req) : State := { s with reqs := s.reqs.map (fun x => if x.id == id then f x else x) }
  (∀ s req yst data inc, s.msg = some (.remoteAnswer req yst data inc) →
    (s.reqs.find? (fun r => r.id == req) = none → Quietly .remoteAnswer s s)
    ∧ (∀ r, s.reqs.find? (fun r => r.id == req) = some r →
        (yst = 0 → exec .remoteAnswer s = .next (doneReq s r data))
        ∧ (yst = 1 → Quietly .remoteAnswer s (mark s req (fun x => { x with busy := true, sends := 0 })))
        ∧ (yst = 2 → exec .remoteAnswer s = .next (staleOwner s r.ctx r.owner inc))
        ∧ ((yst = 3 ∨ yst = 4) → exec .remoteAnswer s = .next (failReq s r yst))))
  ∧ (∀ s req data inc r t e, s.msg = some (.remoteAnswer req 0 data inc) → s.reqs.find? (fun r => r.id == req) = some r →
      r.kind = .read → r.op = 0 → tget s.teams r.core = some t → t.ott.find? (fun e => e.id == r.ott) = some e →
      e.work = .remote [r.lane] → e.bad = none → e.long = true → s.reqs = [r] →
      let u := noteFar { s with reqs := [] } r.core (e.tidsOf (r.lane % 64))
      exec .remoteAnswer s = .next (settle (if e.ord.acq then l1Clear u r.core else u) r.core { e with
        work := .remote [], got := e.got ++ [(r.lane, tyExt r.ty (leNat (r.returned data).flatten % 2 ^ tyBits r.ty))] }))
  ∧ (∀ (r : Req) (data : List Byte), (r.laid = [] → ∀ pa n, r.parts = [(pa, n)] → r.returned data = [data.take n])
      ∧ (∀ pa b, r.parts = [(pa, 1)] → r.laid = [(pa, b)] → data.length = 1 → r.returned data = [[b]]))
  ∧ (∀ s r, s.reqs.find? (fun r => r.id == s.iss.id) = some r → s.peerdead.getLsbD r.owner = true →
      exec .remoteTimeout s = .next (failReq s r 6))
  ∧ (∀ s r, s.reqs.find? (fun r => r.id == s.iss.id) = some r → s.peerdead.getLsbD r.owner = false → r.busy = false → r.sends ≠ 0 →
      abandoned s r = true → Quietly .remoteTimeout s (endAbandoned s r))
  ∧ (∀ s r, s.reqs.find? (fun r => r.id == s.iss.id) = some r → s.peerdead.getLsbD r.owner = false → r.busy = false → r.sends ≠ 0 →
      abandoned s r = false →
      (r.sends < 4 → Quietly .remoteTimeout s (sendReq (mark s r.id (fun x => { x with sends := x.sends + 1 })) r))
      ∧ (4 ≤ r.sends → exec .remoteTimeout s = .next (markDead (failReq s r 5) r.owner)))
  ∧ (∀ s r, s.reqs.find? (fun r => r.id == s.iss.id && r.busy) = some r → abandoned s r = false →
      Quietly .busyResend s (sendReq (mark s r.id (fun x => { x with busy := false, sends := 1 })) r))
  ∧ (∀ s i, s.msg = some (.yptExpire i) → i < s.out.length → Quietly .yptPacketExpire s { s with out := s.out.eraseIdx i })
  ∧ (∀ s, let ctx := s.iss.core
      let n := s.iss.id
      let x := streamOf (ctxOf s ctx) n
      let live := x.owners.filter (fun o => !s.peerdead.getLsbD o)
      x.told ≠ x.lwm → x.st ≠ 0 → ∃ t, Quietly .lwmIdleSend s t
        ∧ (streamOf (ctxOf t ctx) n).told = x.lwm
        ∧ (∀ o ∈ live, ∃ r ∈ t.reqs, r.kind = .lwm ∧ r.owner = o ∧ r.ctx = ctx ∧ r.stream = n
            ∧ (∀ via, routeOf s s.pkgid o = some via →
                (⟨o, portTo s.pod s.pkgid (via.getD o), via, .lowWaterUpdate s.pkgid ctx n x.lwm r.id⟩ : Packet) ∈ t.out))
        ∧ t.reqs.length = s.reqs.length + live.length)
  ∧ (∀ s t e, tget s.teams s.iss.core = some t → t.wc[s.iss.id]? = some e → e.seq = none → wcBehind s t e = false →
      Quietly .wcAgeExpiry s (wcSend s s.iss.core e)
      ∧ (wcMustDrain s t e = true → Quietly .wcDrain s (wcSend s s.iss.core e))
      ∧ (128 ≤ e.bytes.length → wcMustDrain s t e = true)
      ∧ ∃ r ∈ (wcSend s s.iss.core e).reqs, r.kind = .write ∧ r.owner = e.peer ∧ r.pa = e.line * 128
          ∧ r.data = byteRuns (e.line * 128) e.bytes ∧ r.cp = e.hint.getD e.cp ∧ r.wp = e.wp ∧ r.id = s.stamp)
  ∧ (∀ s seq yst inc, s.msg = some (.wcDrainAck seq yst inc) →
      (s.reqs.find? (fun r => r.id == seq && r.kind == .write) = none → Quietly .wcDrainAck s s)
      ∧ (∀ r, s.reqs.find? (fun r => r.id == seq && r.kind == .write) = some r →
          (yst = 0 → ∃ t, exec .wcDrainAck s = .next t ∧ ∀ e ∈ t.teams, (∀ x ∈ e.2.wc, x.seq ≠ some seq) ∧ ∀ x ∈ e.2.sent, x.id ≠ seq)
          ∧ (yst = 1 → abandoned s r = false → Quietly .wcDrainAck s (mark s seq (fun x => { x with busy := true, sends := 0 })))))

/-- A request's events at the owner: one of another incarnation is answered STALE; a read of exported memory is answered DONE
with its bytes, a write is performed once and a repeat only acknowledged again, a stream operation is performed once and its
old value kept for a repeat; what writes is answered once the invalidations of its lines are applied, and an acquire waits for
the narrower releases that it meets; a line that the port's buffer holds is answered from it; a low-water update retires the older
results, and an access outside the exported frames is answered NOMAP and logged (R269, R270, R274, R278, R280, R282, R297, R299).
That every stream operation waits for the releases that it meets is the model's choice (log 80). -/
def Claims.OwnerEvents : Prop :=
  let ans (s : State) (pkg req yst : Nat) (data : List Byte) : State := sendTo s pkg (.remoteAnswer req yst data s.inc)
  let waits (s : State) (m : Message) : State := { s with held := s.held.filter (· != m) ++ [m] }
  (∀ s pkg port req inc acq pols parts, s.msg = some (.remoteReadAtOwner pkg port req inc acq pols parts) →
    (s.pod ≤ port + 1 → Quietly .remoteReadAtOwner s s)
    ∧ (port + 1 < s.pod → inc ≠ s.inc → Quietly .remoteReadAtOwner s (ans s pkg req 2 []))
    ∧ (port + 1 < s.pod → inc = s.inc → acq = true → parts.any (fun p => !markFree s 4 p.1 p.2) = true →
        Quietly .remoteReadAtOwner s (waits s (.remoteReadAtOwner pkg port req inc acq pols parts)))
    ∧ (∀ pa len bs bad, port + 1 < s.pod → inc = s.inc → parts = [(pa, len)] → (acq = true → markFree s 4 pa len = true) →
        exportedRange s pa len = true → 0 < len → pa / 128 = (pa + len - 1) / 128 →
        s.portBufs.find? (fun b => b.1 == port && b.2.1 == pa / 128) = some (port, pa / 128, bs, bad) → wordAt (pa / 128) bad (pa, len) = none →
        Quietly .remoteReadAtOwner s (ans s pkg req 0 ((bs.drop (pa % 128)).take len)))
    ∧ (∀ pa len, port + 1 < s.pod → inc = s.inc → parts = [(pa, len)] → (acq = true → markFree s 4 pa len = true) → s.upsets = [] →
        (exportedRange s pa len = true → poisoned s pa len = false → 0 < len → pa / 128 = (pa + len - 1) / 128 →
          s.portBufs.find? (fun b => b.1 == port && b.2.1 == pa / 128) = none →
          ∃ t, exec .remoteReadAtOwner s = .next t ∧ SameMemory s t ∧ t.out = (ans s pkg req 0 (memRead s.mem pa len)).out)
        ∧ (exportedRange s pa len = false → Quietly .remoteReadAtOwner s (ans (logViolation s pa) pkg req 3 []))))
  ∧ (∀ s pkg seq inc pols whole data, s.msg = some (.remoteWriteAtOwner pkg seq inc pols whole data) →
      (inc ≠ s.inc → Quietly .remoteWriteAtOwner s (sendTo s pkg (.wcDrainAck seq 2 s.inc)))
      ∧ (∀ x, inc = s.inc → s.seqDone.find? (fun x => x.1 == pkg && x.2.1 == seq) = some x → Quietly .remoteWriteAtOwner s
          (if invalPending s (dataRanges data) then waits s (.remoteWriteAtOwner pkg seq inc pols whole data)
           else sendTo s pkg (.wcDrainAck seq x.2.2 s.inc)))
      ∧ (∀ pa, ∀ b : Byte, inc = s.inc → data = [(pa, [b])] → s.seqDone.find? (fun x => x.1 == pkg && x.2.1 == seq) = none →
          exportedRange s pa 1 = true →
          ∃ t, exec .remoteWriteAtOwner s = .next t
            ∧ (if invalPending t [(pa, 1)] then .remoteWriteAtOwner pkg seq inc pols whole data ∈ t.held ∧ t.out = s.out
               else t.out = (sendTo s pkg (.wcDrainAck seq 0 s.inc)).out)
            ∧ (pkg, seq, 0) ∈ t.seqDone ∧ (Memory.wf s.mem = true → memByte t.mem pa = b)
            ∧ ∀ a, a ≠ pa → memByte t.mem a = memByte s.mem a))
  ∧ (∀ s pkg ctx stream serial lwm inc req pa op ty cp wp b n,
      s.msg = some (.streamRequestAtOwner pkg ctx stream serial lwm inc req pa op ty cp wp b n) →
      (inc ≠ s.inc → Quietly .streamRequestAtOwner s (ans s pkg req 2 []))
      ∧ (inc = s.inc →
          let u := (lwmSteps s pkg ctx stream lwm).1
          let mine (e : CacheEntry) : Bool := e.pkg == pkg && e.ctx == ctx && e.stream == stream && e.serial == serial
          olderSerial serial (lwmSteps s pkg ctx stream lwm).2 = false →
          (∀ e, u.resultCache.find? mine = some e →
            Quietly .streamRequestAtOwner s (if invalPending u [(pa, tyBits ty / 8)] then
                waits u (.streamRequestAtOwner pkg ctx stream serial lwm inc req pa op ty cp wp b n)
              else ans u pkg req e.yst (leBytes 8 e.old.toNat)))
          ∧ (u.resultCache.find? mine = none → u.resultCache.length < 65536 → markFree u 4 pa (tyBits ty / 8) = true →
              exportedRange u pa (tyBits ty / 8) = true → s.upsets = [] → poisoned u pa (tyBits ty / 8) = false →
              let k := tyBits ty / 8
              ∃ t, exec .streamRequestAtOwner s = .next t
                ∧ (if invalPending t [(pa, k)] then
                    .streamRequestAtOwner pkg ctx stream serial lwm inc req pa op ty cp wp b n ∈ t.held ∧ t.out = s.out
                   else t.out = (ans s pkg req 0 (leBytes 8 (word (memNat s.mem pa k)).toNat)).out)
                ∧ ⟨pkg, ctx, stream, serial, word (memNat s.mem pa k), 0, op, ty⟩ ∈ t.resultCache
                ∧ ∀ a, memByte t.mem a = memByte (memWrite s.mem pa (leBytes k
                    (atomNew op ty (memNat s.mem pa k) (b.toNat % 2 ^ tyBits ty) (n.toNat % 2 ^ tyBits ty)))) a)))
  ∧ (∀ s pkg ctx stream lwm req, s.msg = some (.lowWaterUpdate pkg ctx stream lwm req) →
      Quietly .lowWaterUpdate s (ans (lwmSteps s pkg ctx stream lwm).1 pkg req 0 []))
  ∧ (∀ s pkg port req, s.msg = some (.scFenceMarker pkg port req) → ∃ t, Quietly .scFenceMarker s t
      ∧ (∀ p ∈ t.pendInv, p.1 ≠ port) ∧ t.out = (ans s pkg req 0 []).out)

/-- An owner restart increments INC modulo 2^16 and empties the result cache and the stream records; memory keeps its
contents (R281). That INC and EPOCH count from 0 at reset is the model's choice (log 5), and so is that an owner restart keeps teams,
contexts and requests (log 91). -/
def Claims.OwnerRestart : Prop :=
  ∀ s, s.msg = some .ownerRestart → ∃ t, Quietly .ownerRestart s t ∧ t.inc = (s.inc + 1) % 2 ^ 16 ∧ t.resultCache = []
    ∧ t.streamRecs = [] ∧ t.teams = s.teams ∧ t.ctxs = s.ctxs ∧ t.reqs = s.reqs

/-- Links and membership: package a meets package b at port (b − a − 1) mod N; traffic takes the direct link while it is
healthy, else the lowest live package with healthy links to both; a link goes down and comes back; a package that rejoins is
no longer dead and has its new incarnation in every context; and a change of membership advances EPOCH, brings the incarnation of
each package that becomes live to every context, and ends no program whose members all stay (R42, R44, R45, R273, R325, R326, R380).
That the incarnations come with the change is the model's reading (log 91). -/
def Claims.LinksAndMembership : Prop :=
  (∀ n a b, a < n → b < n → (portTo n a b : Int) = ((b : Int) - a - 1) % n)
  ∧ (∀ s a b, (linkUp s a b = true → routeOf s a b = some none)
      ∧ (linkUp s a b = false →
          let good (k : Nat) : Prop := k < s.pod ∧ k ≠ a ∧ k ≠ b ∧ nbit s.live k = true ∧ linkUp s a k = true ∧ linkUp s k b = true
          (∀ k, routeOf s a b = some (some k) ↔ good k ∧ ∀ j, j < k → ¬ good j)
          ∧ (routeOf s a b = none ↔ ∀ k, ¬ good k)))
  ∧ (∀ s a b, s.msg = some (.linkDown a b) → ∃ t, Quietly .linkDown s t ∧ t = { s with links := t.links }
      ∧ linkUp t a b = false ∧ linkUp t b a = false)
  ∧ (∀ s a b, s.msg = some (.linkRecover a b) → ∃ t, Quietly .linkRecover s t ∧ t = { s with links := t.links }
      ∧ (a, b) ∉ t.links ∧ (b, a) ∉ t.links)
  ∧ (∀ s p inc, s.msg = some (.packageRejoin p inc) → p < 16 → (s.peerdead.getLsbD p = true → ∀ r ∈ s.reqs, r.owner ≠ p) →
      ∃ t, Quietly .packageRejoin s t ∧ t.peerdead.getLsbD p = false ∧ tget t.peerInc p = some inc
      ∧ (∀ q, q ≠ p → t.peerdead.getLsbD q = s.peerdead.getLsbD q) ∧ ∀ e ∈ t.ctxs, tget e.2.incseen p = some inc)
  ∧ (∀ s p inc r, s.msg = some (.packageRejoin p inc) → p < 16 → s.peerdead.getLsbD p = true →
      s.reqs.filter (fun r => r.owner == p) = [r] →
      ∃ t, exec .packageRejoin s = .next t ∧ t.reqs = (failReq s r 6).reqs ∧ t.teams = (failReq s r 6).teams
        ∧ t.peerdead.getLsbD p = false ∧ ∀ e ∈ t.ctxs, tget e.2.incseen p = some inc)
  ∧ (∀ s live incs, s.msg = some (.membershipChange live incs) →
      (∀ e ∈ s.cslots, e.2.phase ≠ .ended → ∀ p ∈ e.2.members, nbit (live % 2 ^ 16) p = true) →
      let fresh (p : Nat) : Prop := p < 16 ∧ nbit live p = true ∧ nbit s.live p = false ∧ p ≠ s.pkgid
      ((∀ p, ¬ fresh p) → Quietly .membershipChange s { s with live := live % 2 ^ 16, epoch := (s.epoch + 1) % 2 ^ 16 })
      ∧ ((∀ p, fresh p → ∃ x ∈ incs, x.1 = p) → ∃ t, Quietly .membershipChange s t ∧ t.live = live % 2 ^ 16
          ∧ t.epoch = (s.epoch + 1) % 2 ^ 16 ∧ t.cslots = s.cslots
          ∧ (∀ p inc, fresh p → (∀ x ∈ incs, x.1 = p → x.2 = inc) → tget t.peerInc p = some (inc % 2 ^ 16)
              ∧ ∀ e ∈ t.ctxs, tget e.2.incseen p = some (inc % 2 ^ 16))
          ∧ ∀ p, ¬ fresh p → tget t.peerInc p = tget s.peerInc p))

/-- A request's events at the owner, an owner restart, links and membership complete (R42, R44, R45, R269, R270, R273,
R274, R278, R280, R281, R282, R297, R299, R325, R326, R380). That every stream operation waits for the releases that
it meets is the model's choice (log 80), and that the incarnations come with a change of membership its reading (log
91). -/
def Obligations.OwnerSide : Prop := Claims.OwnerEvents ∧ Claims.OwnerRestart ∧ Claims.LinksAndMembership

/-! ### Barrier objects, collectives, mailboxes and launches (chapters 01, 02, 03, 18, 21 and 25) -/

/-- A barrier object: an arrival adds to COUNT modulo 2^32 and changes no other byte; it is reached when COUNT is at least
TARGET; a post writes STATE, CAUSE and ERRCNT, FCAUSE and the fault fields and adds 1 to COUNT, leaves TARGET and every
byte outside the object; an object in a hole takes nothing and the hub logs it (R22, R23, R66). -/
def Obligations.BarrierObjects : Prop :=
  (∀ s pa k, Memory.wf s.mem = true → let t := addCount s pa k
    memNat t.mem pa 4 = (memNat s.mem pa 4 + k) % 2 ^ 32
    ∧ ∀ a, ¬ (pa ≤ a ∧ a < pa + 4) → memByte t.mem a = memByte s.mem a)
  ∧ (∀ s pa, reached s pa = true ↔ memNat s.mem (pa + 4) 4 ≤ memNat s.mem pa 4)
  ∧ (∀ s pa st cause errs fc (fpc faddr finfo fid : Word), Memory.wf s.mem = true → pa + 64 ≤ hbmTop →
      st < 2 ^ 8 → cause < 2 ^ 8 → errs < 2 ^ 16 → fc < 2 ^ 32 →
      let t := postObject s pa st cause errs fc fpc faddr finfo fid
      memNat t.mem pa 4 = (memNat s.mem pa 4 + 1) % 2 ^ 32 ∧ memNat t.mem (pa + 4) 4 = memNat s.mem (pa + 4) 4
      ∧ memNat t.mem (pa + 8) 1 = st ∧ memNat t.mem (pa + 9) 1 = cause ∧ memNat t.mem (pa + 10) 2 = errs
      ∧ memNat t.mem (pa + 12) 4 = fc ∧ memNat t.mem (pa + 16) 8 = fpc.toNat ∧ memNat t.mem (pa + 24) 8 = faddr.toNat
      ∧ memNat t.mem (pa + 32) 8 = finfo.toNat ∧ memNat t.mem (pa + 40) 8 = fid.toNat
      ∧ ∀ a, ¬ (pa ≤ a ∧ a < pa + 48) → memByte t.mem a = memByte s.mem a)
  ∧ (∀ s pa st cause errs fc (fpc faddr finfo fid : Word), hbmTop < pa + 64 →
      postObject s pa st cause errs fc fpc faddr finfo fid = logViolation s pa)

/-- Window stores and packets complete: an ARM that passes R322 queues its program, a refused one reports its code; SEAL
marks the data complete, DISARM ends the program with code 0x08 or frees the slot, and a data store is performed at SRC,
every piece of it after all have been checked, an STB's as one block for a copy too (R168), or is discarded with the cause latched; a packet fills the buffer that expects it or is held; an ABORT of the armed SEQ ends the program with code 0x06; the
first program of a free unit starts; a SCAT's bytes reach its addresses (R319 to R324, R326, R329 to R331, R333, R335). The model's
choices: a packet that is held is acknowledged when it is held (log 40), an ABORT of another SEQ is ignored (log 41) and every ABORT
is acknowledged (log 90), a DISARM waits while DONEOBJ is NOTVALID (log 41), and an ARM translates PROG without reading it,
reads its record once and refuses a misaligned or poisoned one as an unreadable record (log 39). -/
def Obligations.CollectiveEvents : Prop :=
  (∀ s x ps, winTake s = some x → winControl x 0 = true → foreignSlot s x = false → winVal x % 64 = 0 →
    hubAccess s x.ctx (winVal x) 64 .record = .ok ps →
    let u := piecesTouch s ps
    let r := regsOfBytes (piecesRead u ps) 8
    let code := cCheck u (winSlot x) (winHead x).mt r
    let all := hubAll u x.ctx ((cProg r, 4, .probe) :: (cDone r, 64, .write)
          :: (if cProgObj r = 0 then [] else [(cProgObj r, 64, .write)]))
    (code ≠ 0 → exec .arm s = .next (armRefused u x r code))
    ∧ (∀ v k a, code = 0 → all = .fail v k a → exec .arm s = .next (armOver (armRefused u x r 0x08) x r))
    ∧ (∀ qs, code = 0 → all = .ok qs →
        Quietly .arm s (winDone { u with
          cslots := tset u.cslots (winSlot x) (armedSlot u x.ctx r), corder := u.corder + 1,
          heldPk := u.heldPk.filter (fun p => !(p.slot == winSlot x && olderSerial p.seq (cSeq r))) } x)))
  ∧ (∀ s x c, winTake s = some x → foreignSlot s x = false → tget s.cslots (winSlot x) = some c →
      (winControl x 8 = true → (winVal x = (cSeq c.rec_).toNat → Quietly .seal s (winDone { s with
            cslots := tset s.cslots (winSlot x) { c with sealed := true, waiting := false } } x))
          ∧ (winVal x ≠ (cSeq c.rec_).toNat → Quietly .seal s (winDrop s x 0x13 4)))
      ∧ (winControl x 0x10 = true →
          (c.phase = .ended → Quietly .disarm s (winDone { s with cslots := tdel s.cslots (winSlot x) } x))
          ∧ (∀ u, c.phase ≠ .ended → hubAccess s x.ctx (cDone c.rec_) 64 .write = .wait u → exec .disarm s = .next u)
          ∧ (c.phase ≠ .ended → (∀ u, hubAccess s x.ctx (cDone c.rec_) 64 .write ≠ .wait u) →
              exec .disarm s = .next (let u := endProgram s (winSlot x) 8 0 0 0 0
                winDone { u with cslots := tdel u.cslots (winSlot x) } x))))
  ∧ (∀ s x, winTake s = some x → winControl x 0 = false → winControl x 8 = false → winControl x 0x10 = false →
      (∀ ps, winPieces s x.ctx x.parts = .ok ps →
          (x.lane < 1024 → exec .windowDataStore s = .next (winDone (piecesWrite s ps (x.parts.flatMap (·.data))) x))
          ∧ (1024 ≤ x.lane → exec .windowDataStore s
              = .next (winDone (piecesWrite (keepOlds s (ps.map (fun p => (p.pa, p.len)))) ps (x.parts.flatMap (·.data))) x)))
      ∧ (∀ u cause kind, winPieces s x.ctx x.parts = .drop u cause kind → exec .windowDataStore s = .next (winDrop u x cause kind))
      ∧ (∀ u, winPieces s x.ctx x.parts = .wait u → exec .windowDataStore s = .next u))
  ∧ (∀ s ctx p, let hole := winPiece s ctx p = .drop (logViolation s p.pa) 0x05 8
      (boundElsewhere s p.slot ctx = true → winPiece s ctx p = .drop (logViolation s p.pa) 0x05 4)
      ∧ (boundElsewhere s p.slot ctx = false → 0xFFFFFF0000 ≤ p.off → hole)
      ∧ (p.off < 0xFFFFFF0000 → tget s.cslots p.slot = none → winPiece s ctx p = .drop s 0x13 4)
      ∧ ∀ c, boundElsewhere s p.slot ctx = false → p.off < 0xFFFFFF0000 → tget s.cslots p.slot = some c →
          ((cSrc c.rec_ = 0 ∨ cN c.rec_ * cWidth c.rec_ < p.off + p.data.length) → hole)
          ∧ (cSrc c.rec_ ≠ 0 → p.off + p.data.length ≤ cN c.rec_ * cWidth c.rec_ →
              (p.mt ≠ cKind c.rec_ → winPiece s ctx p = .drop s 0x13 4)
              ∧ (∀ ps, p.mt = cKind c.rec_ → hubAccess s ctx (cSrc c.rec_ + p.off) p.data.length .write = .ok ps →
                  winPiece s ctx p = .ok ps)))
  ∧ (∀ s x (q : HubPiece) bs, Memory.wf s.mem = true → bs.length = q.len →
      memRead (winDone (piecesWrite s [q] bs) x).mem q.pa q.len = bs)
  ∧ (∀ s x, tget s.cslots s.iss.core = some x → x.phase = .queued →
      (∀ e ∈ s.cslots, e.1 % 24 = s.iss.core % 24 → e.2.phase ≠ .running ∧ (e.2.phase = .queued → x.order ≤ e.2.order)) →
      Quietly .caramelProgramStart s { s with cslots := tset s.cslots s.iss.core { x with phase := .running } })
  ∧ (∀ s pkg req p, s.msg = some (.carPacket pkg req p) → pkg ≠ s.pkgid →
      let ack (u : State) : State := sendTo u pkg (.carTransferAck p.slot req)
      (tget s.cslots p.slot = none →
        ((s.heldPk.filter (fun q => q.slot == p.slot)).length < 16 →
          Quietly .caramelPacketArrival s (ack { s with heldPk := s.heldPk ++ [p] }))
        ∧ (16 ≤ (s.heldPk.filter (fun q => q.slot == p.slot)).length →
            Quietly .caramelPacketArrival s (sendTo s pkg (.remoteAnswer req 1 [] s.inc))))
      ∧ (∀ x i, tget s.cslots p.slot = some x → x.phase ≠ .ended → p.seq = cSeq x.rec_ → p.epoch = x.epoch →
          x.b.findIdx? (fun b => b == .expect p.src p.seg) = some i → x.filled.contains (p.src, p.seg) = false →
          Quietly .caramelPacketArrival s (ack { s with cslots := tset s.cslots p.slot { x with
            b := x.b.set i (.full p.seg p.ty p.tag p.items), filled := (p.src, p.seg) :: x.filled, bad := x.bad.filter (· != i),
            waiting := false } })))
  ∧ (∀ s slot id x, s.msg = some (.carTransferAck slot id) → tget s.cslots slot = some x → ∃ t, Quietly .caramelTransferAck s t
      ∧ tget t.cslots slot = some { x with out := x.out.filter (fun y => y.id != id), waiting := false })
  ∧ (∀ s slot seq pkg req x, s.msg = some (.carAbort slot seq pkg req) → tget s.cslots slot = some x →
      let u := sendTo s pkg (.remoteAnswer req 0 [] s.inc)
      ((x.phase = .ended ∨ cSeq x.rec_ ≠ seq) → Quietly .caramelAbortReceived s u)
      ∧ (x.phase ≠ .ended → cSeq x.rec_ = seq → exec .caramelAbortReceived s = .next (endProgram u slot 6 0 pkg 0 0)))
  ∧ (∀ s x sc rest ps, tget s.cslots s.iss.core = some x → x.scats = sc :: rest →
      hubAccess s x.ctx sc.va sc.bytes.length .write = .ok ps →
      ∃ t, exec .scatWritesPerformed s = .next t ∧ tget t.cslots s.iss.core = some { x with scats := rest, waiting := false }
        ∧ ∀ a, memByte t.mem a = memByte (piecesWrite s ps sc.bytes).mem a)

/-- Requests at the hub complete: a SUBMIT on a bound mailbox runs R20's checks and answers, or waits for the firmware with the record kept as it was read; an OP written while BUSY is
ignored and another OP is invalid; DONEBIT clears; UNMAP, MIGRATE, RECLAIM, EXPORT and UNEXPORT of a well-formed block
answer with their status, UNMAP and MIGRATE once their TLBINV has completed; a context is created fresh and is gone when destroyed; the firmware's answer about a page
lets its dictionary or hub access go on (R14, R24 to R26, R67, R68, R323, R380, R385). The model's choices: MIGRATE checks PINNED,
EXPORTED and BUSY in that order, and a block that does not decode answers 0x03 (log 45); the slots, launches and mailbox request of a
destroyed context are dropped (logs 46 and 69); peers hear of its end, and its CTXID is used again once they have acknowledged it (log
90), the service context's too, for which submissions wait; the firmware names every live package's incarnation (log 91); NOTVALIDs of the hub (log 38) and of a dictionary (log 44);
the order of submissions that wait (log 93). -/
def Obligations.HubRequests : Prop :=
  (∀ s m op, s.msg = some (.mailboxOp m op) → m < 64 → 3 ≤ s.stage →
    let x := mboxOf s m
    let y := { x with op := op }
    (x.busy = true → Quietly .mailboxSubmit s s)
    ∧ (x.busy = false → (x.bound = false ∨ op ≠ 1 ∨ recaddrOk x = false) →
        Quietly .mailboxSubmit s { s with mboxes := tset s.mboxes m (y.answer 3 0) })
    ∧ (x.busy = false → x.bound = true → op = 1 → recaddrOk x = true →
        let u := { s with mboxes := tset s.mboxes m y }
        (∀ a, submitNeeds u x.bind x.recaddr.toNat x.kept = some a → exec .mailboxSubmit s = .next { askFirmware u x.bind a with
          mboxes := tset u.mboxes m { y with busy := true, kept := recordOf u x.bind x.recaddr.toNat x.kept } })
        ∧ (submitNeeds u x.bind x.recaddr.toNat x.kept = none →
            let r := submitAt u x.bind false x.recaddr.toNat x.kept
            exec .mailboxSubmit s = .next { r.1 with mboxes := tset r.1.mboxes m (y.answer r.2.1 r.2.2) })))
  ∧ (∀ (x : Mailbox) st reason, let y := x.answer st reason
      y.status = st ∧ y.reason = (if st = 1 then reason else 0) ∧ y.busy = false ∧ y.done = true ∧ y.kept = none
      ∧ y.op = x.op ∧ y.recaddr = x.recaddr ∧ y.bind = x.bind ∧ y.bound = x.bound)
  ∧ (∀ s ctx va r, recordOf s ctx va (some r) = some r)
  ∧ (∀ s ctx svc r n, recReason s ctx r = 0 → freeSlot s = some n → (s.launches.filter (fun e => e.2.ctx == ctx)).length < 256 →
      (submit s ctx svc r).2 = (0, 0) ∧ ∃ l, launchAt (submit s ctx svc r).1 n = some l ∧ l.rec_ = r ∧ l.ctx = ctx)
  ∧ (∀ s ctx svc r, recReason s ctx r ≠ 0 → (submit s ctx svc r).2 = (1, recReason s ctx r)
      ∧ (submit s ctx svc r).1.launches = s.launches)
  ∧ (∀ s ctx svc r, recReason s ctx r = 0 → (freeSlot s = none ∨ 256 ≤ (s.launches.filter (fun e => e.2.ctx == ctx)).length) →
      (submit s ctx svc r).2 = (2, 0) ∧ (submit s ctx svc r).1.launches = s.launches)
  ∧ (∀ s m, s.msg = some (.donebitClear m) → m < 64 → 3 ≤ s.stage → Quietly .mailboxDonebitClear s
      { s with mboxes := tset s.mboxes m { mboxOf s m with done := false } })
  ∧ (∀ s a, s.msg = some (.service a) → (tget s.ctxs 0xFFF).isSome = true → (∃ r ∈ s.reqs, r.kind = .gone ∧ r.ctx = 0xFFF) →
      Quietly .serviceSubmission s { s with svcq := s.svcq ++ [(a, none)] })
  ∧ (∀ s a, s.msg = some (.service a) → (tget s.ctxs 0xFFF).isSome = true → (∀ r ∈ s.reqs, r.kind = .gone → r.ctx ≠ 0xFFF) →
      submitNeeds s 0xFFF a.toNat none = none →
      let r := submitAt s 0xFFF true a.toNat none
      exec .serviceSubmission s = .next { r.1 with svcStat := r.2.1 + 2 ^ 8 * r.2.2 })
  ∧ (∀ s op, s.msg = some (.mailboxOp 64 op) → 3 ≤ s.stage → s.mgmt.busy = false → s.mgmt.bound = true → recaddrOk s.mgmt = true →
      let u := { s with mgmt := { s.mgmt with op := op } }
      let answers (v : State) (st : Nat) : State := { v with mgmt := v.mgmt.answer st 0, mgmtReq := none }
      (readBlock u = none → (op = 0x10 → Quietly .unmap s (answers u 3)) ∧ (op = 0x11 → Quietly .migrate s (answers u 3))
        ∧ (op = 0x12 → Quietly .reclaim s (answers u 3)) ∧ (op = 0x13 → Quietly .exportFrames s (answers u 3))
        ∧ (op = 0x14 → Quietly .unexportFrames s (answers u 3)))
      ∧ ∀ r, readBlock u = some r →
        let wait (v : State) (r : MgmtReq) : State := { v with mgmt := { v.mgmt with busy := true }, mgmtReq := some r }
        (op = 0x10 → let v := clearPages u r r.leaves
            exec .unmap s = .next (if pagesQuiet v r = true then answers v 0 else wait v r))
        ∧ (op = 0x11 → let ms := r.leaves.filter movable
            (ms.any (pinnedIn u) = true → Quietly .migrate s (answers u 0x11))
            ∧ (ms.any (pinnedIn u) = false → ms.any (exportedIn u) = true → Quietly .migrate s (answers u 0x12))
            ∧ (ms.any (pinnedIn u) = false → ms.any (exportedIn u) = false →
                (ms.any (cpygOpen u r.ctx) = true → Quietly .migrate s (answers u 0x10))
                ∧ (ms.any (cpygOpen u r.ctx) = false → newFramesOk r.new ms = true →
                    let r' := { r with leaves := ms }
                    let c := clearPages u r' ms
                    let v := { c with migrating := c.migrating ++ ms.flatMap (Leaf.pages r.ctx) }
                    exec .migrate s = .next (if pagesQuiet v r' = true then answers (finishMigrate v r') 0 else wait v r'))))
        ∧ (op = 0x12 → let ls := r.leaves.filter Leaf.isLocal
            (ls.any (pinnedIn u) = true → Quietly .reclaim s (answers u 0x10))
            ∧ (ls.any (pinnedIn u) = false → ∃ t, Quietly .reclaim s t ∧ t.mgmt.status = 0
                ∧ ∀ e ∈ t.l2, ∀ y ∈ e.2, ∀ l ∈ ls, l.holds y.line = false))
        ∧ (op = 0x13 → ∃ t, Quietly .exportFrames s t ∧ t.mgmt.status = 0
            ∧ ∀ f, f ∈ t.exported ↔ f ∈ s.exported ∨ f ∈ framesOf r.leaves false)
        ∧ (op = 0x14 → ∃ t, Quietly .unexportFrames s t ∧ t.mgmt.status = 0
            ∧ ∀ f, f ∈ t.exported ↔ f ∈ s.exported ∧ f ∉ framesOf r.leaves true))
  ∧ (∀ s r, s.msg = none → s.mgmt.busy = true → s.mgmtReq = some r → pagesQuiet s r = true →
      let answers (v : State) : State := { v with mgmt := v.mgmt.answer 0 0, mgmtReq := none }
      (s.mgmt.op = 0x10 → exec .unmap s = .next (answers s))
      ∧ (s.mgmt.op = 0x11 → exec .migrate s = .next (answers (finishMigrate s r))))
  ∧ (∀ s ctx m incs, s.msg = some (.contextCreate ctx m incs) → ctx < 0xFFF → tget s.ctxs ctx = none → 3 ≤ s.stage →
      ((mboxOf s m).bound = false ∨ 64 ≤ m) → (∀ p ∈ livePeers s, ∃ x ∈ incs, x.1 = p) → (∀ r ∈ s.reqs, r.kind = .gone → r.ctx ≠ ctx) → ∃ t x, Quietly .contextCreate s t ∧ tget t.ctxs ctx = some x
        ∧ x = { Context.fresh with incseen := x.incseen, mailbox := x.mailbox }
        ∧ (∀ p ∈ livePeers s, ∀ v, (∀ y ∈ incs, y.1 = p → y.2 = v) → tget x.incseen p = some (v % 2 ^ 16)) ∧ tget x.incseen s.pkgid = some s.inc
        ∧ (m < 64 → 1 ≤ s.svclvl → (mboxOf t m).bound = true ∧ (mboxOf t m).bind = ctx))
  ∧ (∀ s ctx, s.msg = some (.contextDestroy ctx) → ctx < 0xFFF → (tget s.ctxs ctx).isSome = true → ∃ t, Quietly .contextDestroy s t
      ∧ tget t.ctxs ctx = none ∧ (∀ e ∈ t.cslots, e.2.ctx ≠ ctx)
      ∧ (∀ r ∈ t.reqs, r.ctx = ctx → r.kind = .abort ∨ r.kind = .gone)
      ∧ (∀ p ∈ livePeers s, ∃ r ∈ t.reqs, r.kind = .gone ∧ r.owner = p ∧ r.ctx = ctx)
      ∧ (∀ m, (ctxOf s ctx).mailbox = some m → (mboxOf t m).bound = false ∧ (mboxOf t m).busy = false))
  ∧ (∀ s ctx page writes, s.msg = some (.hubResolved ctx page true writes) → s.hubFaults.contains (ctx, page, false) = true →
      (∀ p ∈ s.cposts, p.ctx ≠ ctx) → ∃ t, exec .pageFaultResolved s = .next t ∧ (ctx, page, false) ∉ t.hubFaults
        ∧ ∀ a, memByte t.mem a = memByte (memPatch s.mem writes) a)
  ∧ (∀ s n writes l, s.msg = some (.dictResolved n false writes) → launchAt s n = some l → l.dictWait = true →
      Quietly .pageFaultResolved s (modLaunch s n (fun l => { l with dictWait := false, dictBad := some 2 })))

/-- The events of launches and teams complete: a WAITING launch samples its DEPs, the head's next cluster is dispatched on
the first fitting rectangle, a blocked head of higher priority stops its victims, a halted cluster is saved, a team ends
in the steps of Table 25.1, and a launch that has ended posts DONE and frees its slot (R23, R27, R30 to R37, R350, R352,
R382 to R384). The model's choices: preemption clears the cores with teams of lower priority (log 43), what becomes of a DONE that no
longer translates (log 44), and the place of a READY launch one of whose clusters is saved (log 93). -/
def Obligations.LaunchEvents : Prop :=
  (∀ s l, launchAt s s.iss.id = some l → l.st = .waiting →
    Quietly .depSampleTimer s (sampleLaunch s s.iss.id l)
    ∧ ((sampleDeps s l).deps ≠ l.deps → Quietly .depSampleOnUpdate s (sampleLaunch s s.iss.id l))
    ∧ ∀ i, i < l.deps.length → l.deps.getD i false = true → (sampleDeps s l).deps.getD i false = true)
  ∧ (∀ s n l k cores, s.head = some n → launchAt s n = some l → l.dictWait = false → beingHalted s n = false → (∀ r ∈ s.rects, r.1 ≠ n) →
      nextCluster l = some k → firstFit s n (recShape l.rec_) = some cores →
      exec .clusterDispatch s = .next (settleToken (settlePlacing (dispatchCluster s n k l cores) n) n)
      ∧ ∀ c ∈ cores, coreFree s n c = true)
  ∧ (∀ s n l cores, s.head = some n → launchAt s n = some l → l.dictWait = false → (nextCluster l).isSome = true →
      beingHalted s n = false → (∀ r ∈ s.rects, r.1 ≠ n) → firstFit s n (recShape l.rec_) = none →
      chooseVictims s (recPrio l.rec_) (recShape l.rec_) = some cores →
      let vs := occupants s cores
      vs ≠ [] → Quietly .priorityPreemption s { s with
        teams := tmap (fun _ t => if vs.contains (t.launch, t.cix) then { t with stopping := true } else t) s.teams,
        preempting := s.preempting ++ vs.filter (fun v => !s.preempting.contains v), rects := s.rects ++ [(n, cores, vs)] })
  ∧ (∀ s n cix l k, s.preempting[s.iss.id]? = some (n, cix) → launchAt s n = some l → clusterIndex l cix = some k →
      (∀ e ∈ residentTeams s n cix, teamHalted s e.1 e.2 = true) → ∃ t, Quietly .preemptionHalted s t
        ∧ (n, cix) ∉ t.preempting ∧ ∃ i ∈ t.images, i.launch = n ∧ i.cix = cix)
  ∧ (∀ s t, tget s.teams s.iss.core = some t → t.ending = .channels → (∀ c ∈ t.chan, c.st ≠ .active) →
      Quietly .teamEndChannelsQuiet s (setTeam s s.iss.core { t with ending := .engine }))
  ∧ (∀ s t, tget s.teams s.iss.core = some t → t.ending = .engine → t.eng = none →
      (∀ x ∈ (engineOf s (quadNo s.iss.core)).table, x.2.core ≠ s.iss.core) → ∃ u t', Quietly .teamEndEngineDone s u
        ∧ tget u.teams s.iss.core = some t' ∧ t'.ending = .window ∧ t'.window = false ∧ t'.resv = [] ∧ t'.opbuf = []
        ∧ t'.halt = (match t.halt with | some h => some h | none => engineFault s s.iss.core))
  ∧ (∀ s t, tget s.teams s.iss.core = some t → t.ending = .window → tget s.teams s.iss.id = none → unacked s s.iss.core t = [] →
      peersAnswered s s.iss.core t = true → (t.hasToken = false ∨ tokenFree s s.iss.core t = true) → exec .peerWindowCloseAck s = .next (endSteps s s.iss.core))
  ∧ (∀ s t p, tget s.teams s.iss.core = some t → t.ending = .window → tget s.teams s.iss.id = some p → s.iss.id ≠ s.iss.core →
      p.launch = t.launch → p.cix = t.cix → p.tix ∈ unacked s s.iss.core t → peerQuiet s p s.iss.id s.iss.core t.tix = true →
      let u := modTeam (modTeam s s.iss.id (fun p => { p with closed := insertNat t.tix p.closed })) s.iss.core
        (fun t => { t with acked := insertNat p.tix t.acked })
      unacked u s.iss.core { t with acked := insertNat p.tix t.acked } ≠ [] → Quietly .peerWindowCloseAck s u)
  ∧ (∀ s l pa, launchAt s s.iss.id = some l → l.st ≠ .waiting → allEnded l = true →
      let held := (ctxOf s l.ctx).emits.any (fun e => e.launch == s.iss.id)
      let done := recFld l.rec_ 12 0 56
      (held = false ∨ gateLive (ctxOf s l.ctx) = false) → asked s l.ctx done = false → notValid s l.ctx done = false →
      writableMt0 s l.ctx done = some pa → ∃ t, exec .launchRetire s = .next t ∧ launchAt t s.iss.id = none
        ∧ ∀ a, memByte t.mem a = memByte (postDone s l held pa).mem a)

/-- A team at dispatch: its v-registers and s-registers are zero except s0 = ARGS, p0 is true and the other predicates
false, loop stacks empty, no stretch open, the scratchpad zero, BANKROLE as recorded, no reservation or channel held, and
every thread's next PC is CODE (R21). No field that the statement names is a choice of the model. -/
def Obligations.TeamAtDispatch : Prop :=
  ∀ r stamp n cix tix, let t := startTeam r stamp n cix tix
    (∀ a, memByte t.spad a = 0) ∧ t.role = recWord r 5 ∧ t.resv = [] ∧ t.cc = 0 ∧ t.launch = n ∧ t.cix = cix ∧ t.tix = tix
    ∧ (∀ c ∈ t.chan, c.st = .idle) ∧ t.chan.length = 4 ∧ t.ott = [] ∧ t.wc = []
    ∧ (∀ k, (tget t.groups k).isSome = true ↔ k < recGpt r)
    ∧ (∀ k g, tget t.groups k = some g → g.rb = [] ∧ g.threads.length = recWidth r ∧ wget g.sreg 0 = recArgs r
        ∧ (∀ i, i ≠ 0 → wget g.sreg i = 0) ∧ g.lc = 0 ∧ g.hm = none
        ∧ ∀ l, l < recWidth r → (g.lane l).live = true ∧ (g.lane l).tid = k * recWidth r + l ∧ (g.lane l).pc = recCode r
            ∧ (g.lane l).loops = [] ∧ (g.lane l).txs = .none_ ∧ (∀ i, wget (g.lane l).v i = 0)
            ∧ (g.lane l).p.getLsbD 0 = true ∧ ∀ i, i ≠ 0 → (g.lane l).p.getLsbD i = false)

/-- Bring-up, resets and power: a failed check of the hub ROM stops the part with its FAIL, a good image starts the
firmware, a stage 2 that fails is tried again three times; dies are admitted or excluded in order, with SELFTESTSTAT of their cores
that of a pass after the patterns that passed, an excluded die stays excluded over a hub reset, and failing engines are disabled;
power-off and a trip lose memory and all else but the fused section of the map and what the carrier straps (PKGID, the pod and the Ultra
Ethernet ports), and count as an owner restart for INC; the resets keep memory; throttling, log acknowledgement and the correction
window change only their fields; BAR0 outside its registers reads zero and is logged (R349, R360, R364, R385, R387 to R392, R395,
R398). The model's choices: INC at reset (log 5), the order of the checks and the fourth failure of stage 2 (log 48), what a hub reset
keeps (logs 49 and 95), which cores and engines boot tests (log 92), the steward's interrupt (log 87), and what survives power-off (log 91). -/
def Obligations.BootAndPower : Prop :=
  (∀ s ecdsa lms version firmware incs, s.msg = some (.bootRom ecdsa lms version firmware incs) → s.stage < 2 → s.bootFail = 0 →
    (∀ p ∈ livePeers s, ∃ x ∈ incs, x.1 = p) →
    let on := { s with powered := true, stage := 1 }
    (ecdsa = false → Quietly .bootRomVerify s { on with bootFail := 1 })
    ∧ (ecdsa = true → lms = false → Quietly .bootRomVerify s { on with bootFail := 2 })
    ∧ (ecdsa = true → lms = true → version = false → Quietly .bootRomVerify s { on with bootFail := 3 })
    ∧ (ecdsa = true → lms = true → version = true →
        (firmware = true → ∃ t, Quietly .bootRomVerify s t ∧ t.stage = 3 ∧ (tget t.ctxs 0xFFF).isSome = true)
        ∧ (firmware = false → s.attempts < 3 → ∃ t, Quietly .bootRomVerify s t ∧ t.stage = 1 ∧ t.attempts = s.attempts + 1 ∧ t.bootFail = 0)
        ∧ (firmware = false → 3 ≤ s.attempts → Quietly .bootRomVerify s { on with stage := 2, bootFail := 4 })))
  ∧ (∀ s d power train init selftest, s.msg = some (.dieAdmission d power train init selftest) → s.stage = 3 → d < 8 →
      dieDone s d = false → (∀ i, i < d → dieDone s i = true) → ∃ t, Quietly .dieAdmission s t
        ∧ ((power && train && init && selftest) = true → (dieOf t d).admitted = true ∧ t.admits = s.admits + 2 ^ d
            ∧ t.svclvl = (if s.svclvl = 0 then 1 else s.svclvl)
            ∧ ∀ c ∈ dieCores s d, (coreRegs t c).selftest = selftestWord 3 0 0 0)
        ∧ ((power && train && init && selftest) = false → (dieOf t d).excluded = true ∧ t.excl = s.excl + 2 ^ d
            ∧ t.svclvl = s.svclvl))
  ∧ (∀ s bad, s.msg = some (.engineSelftest bad) → s.stage = 3 → (∀ i, i < 8 → dieDone s i = true) → ∃ t, Quietly .engineSelftestStage s t
      ∧ t.stage = 4 ∧ (s.admits = 0xFF → t.svclvl = 2) ∧ (s.admits ≠ 0xFF → t.svclvl = s.svclvl)
      ∧ ∀ q ∈ bad, q < 96 → (dieOf s (q / 12)).admitted = true → quadAlive s q = true → (engineOf t q).disabled = true)
  ∧ (∀ s, (s.msg = some .powerOff → exec .powerOff s = .next (powerLost s)) ∧ (s.msg = some .trip → exec .overTemperatureTrip s = .next (powerLost s))
      ∧ (powerLost s).mem = [] ∧ (powerLost s).powered = false ∧ (powerLost s).defmap = s.defmap ∧ (powerLost s).defrt = []
      ∧ (powerLost s).resultCache = [] ∧ (powerLost s).partnerJ = [] ∧ (powerLost s).stage = 0
      ∧ (powerLost s).pkgid = s.pkgid ∧ (powerLost s).pod = s.pod ∧ (powerLost s).uePorts = s.uePorts
      ∧ (powerLost s).inc = (s.inc + 1) % 2 ^ 16)
  ∧ (∀ s, s.msg = some .hubReset → ∃ t, Quietly .hubReset s t ∧ t.stage = 0 ∧ t.svclvl = 0 ∧ t.teams = [] ∧ t.ctxs = []
      ∧ t.resultCache = [] ∧ t.streamRecs = [] ∧ t.exported = [] ∧ t.excl = s.excl ∧ ∀ d, (dieOf t d).excluded = (dieOf s d).excluded)
  ∧ (∀ s incs, s.msg = some (.firmwareRestart incs) → 3 ≤ s.stage → (∀ p ∈ livePeers s, ∃ x ∈ incs, x.1 = p) → ∃ t, Quietly .firmwareRestart s t ∧ t.resultCache = [] ∧ t.streamRecs = []
      ∧ t.launches = [] ∧ (∀ e ∈ s.ctxs, ∀ p ∈ livePeers s, ∃ r ∈ t.reqs, r.kind = .gone ∧ r.owner = p ∧ r.ctx = e.1)
      ∧ (∀ k, k ≠ 0xFFF → tget t.ctxs k = none) ∧ (tget t.ctxs 0xFFF).isSome = true)
  ∧ (∀ s ds, s.msg = some (.throttle ds) → ∃ t, Quietly .thermalThrottle s t ∧ t = { s with dies := t.dies }
      ∧ ∀ d ∈ ds, d < 8 → (dieOf t d).throttled = true)
  ∧ (∀ s, s.msg = some .recover → ∃ t, Quietly .thermalRecover s t ∧ t = { s with dies := t.dies } ∧ ∀ d, (dieOf t d).throttled = false)
  ∧ (∀ s d, s.msg = some (.correctionWindow d) → ∃ t, Quietly .correctionWindowEnd s t ∧ t = { s with dies := t.dies }
      ∧ dieOf t d = { dieOf s d with corr := [] })
  ∧ (∀ s, s.msg = some .elogAck → Quietly .elogAck s { s with elogaddr := 0, elogcause := 0, steward := false })
  ∧ (∀ s wr off, s.msg = some (.hostBar0 wr off) → bar0Register off = false → 3 ≤ s.stage → ∃ t, Quietly .hostBar0InvalidAccess s t
      ∧ (wr = false → t.hostRead = 0) ∧ nbit t.elogaddr.toNat 63 = true
      ∧ (nbit s.elogaddr.toNat 63 = false → t.elogaddr = word (off % 2 ^ 52 + 2 ^ 63)))

/-! ### The machine as a whole: encoding, the step, reset, memory (chapters 04, 05 and 07) -/

/-- Decode and encode agree: every well-formed instruction of the core's formats is read back from its bytes, whatever
follows them, and every Caramel word from its bits; no bit of an encoding is dropped (R70, R73 to R88, R332). -/
def Obligations.RoundTrip : Prop :=
  ∀ i : Instr, i.wellFormed = true →
    (∀ op w, form i = .caramel op w → ∃ x, (form i).bits = some (x, 4) ∧ x < 2 ^ 32 ∧ decodeCaramel x = i)
    ∧ (∀ x, i = .caramelIllegalWord (some x) → decodeCaramel x.toNat = i)
    ∧ ((∀ op w, form i ≠ .caramel op w) → (∀ x, i ≠ .caramelIllegalWord x) → form i ≠ .event →
        ∀ rest, decode (encode i ++ rest) = .ok (i, rest))

/-- Words written out from the encoding tables are the instructions that they stand for: the worked encodings of the
spec, the all-zero parcel, JAPP's word, and NOP (R70, R76 to R78, R88, R122, R354 to R356, R371). -/
def Obligations.DecodedWords : Prop :=
  decodeTableWord 64 0x0000000004000E02 = some (.csrr ⟨false, 0, 0, false, 1, 0, 0, 0, 0, none⟩)
  ∧ decodeTableWord 64 0x0E1A = some (.trapret ⟨false, 0, 0, false, 0, 0, 0, 0, 0, none⟩)
  ∧ decodeTableWord 64 0x0E22 = some (.region ⟨false, 0, 0, false, 0, 0, 0, 0, 0, none⟩)
  ∧ decodeTableWord 64 0x0000002800043C02 = some (.japp ⟨false, 3, 1, false, 0, 10, 0, 0, 0, none⟩)
  ∧ decodeTableWord 64 2 = some (.nop ⟨false, 0, 0, false, 0, 0, 0, 0, 0, none⟩)
  ∧ decodeTableWord 64 6 = some (.nop ⟨true, 0, 0, false, 0, 0, 0, 0, 0, none⟩)
  ∧ decodeTableWord 16 0 = some .illegalD16
  ∧ (∀ w : BitVec 32, w.toNat % 4 = 1 → w.toNat / 8 % 128 = 0x7F → decodeTableWord 32 w.toNat = some (.illegalK w))

/-- A step of a group's turn fetches the bytes at its issue PC and runs the instruction that they decode to, and the ports
note who has issued and whom its slot takes along, which changes nothing that a program reads; a turn of a write of a register
runs its row as the group's instruction; a step of a program's turn runs the word at its PC, that of an event the event, that of a
message the row that the message is; a turn of a trap delivers the trap that waited for results; with
nothing enabled only time passes (R58, R70, R71, R101, R114, R328, R343, R344). -/
def Obligations.StepRunsDecoded : Prop :=
  (∀ s core grp i u, pickTurn s = some (.issue core grp) →
    fetchGroup (issueState (popTiming s)) core grp = some (.ok (i, u)) →
      (∀ v, exec i u = .next v → step s = .next (noteIssue s.stamp (packWith (popTiming s) core grp) v core grp))
      ∧ ((∀ v, exec i u ≠ .next v) → step s = exec i u))
  ∧ (∀ n p s core grp, let t := noteIssue n p s core grp
      t = { s with teams := t.teams } ∧ (∀ c, c ≠ core → tget t.teams c = tget s.teams c)
      ∧ ∀ x, tget s.teams core = some x → ∃ y, tget t.teams core = some y
        ∧ y = { x with issued := y.issued, pack := y.pack, packAge := y.packAge, groups := y.groups }
        ∧ ∀ k g, tget x.groups k = some g → ∃ h, tget y.groups k = some h
          ∧ h = { g with age := h.age, since := h.since, waited := h.waited, yielded := h.yielded })
  ∧ (∀ s core grp t g pc i n, tget s.teams core = some t → tget t.groups grp = some g → issuePc g = some pc →
      fetchAt s core (teamCtx s t) (isService s t) g.walked pc.toNat = .run i n →
      let u := fetchMeets s core (teamCtx s t) (isService s t) g.walked pc.toNat n
      fetchGroup s core grp = some (.ok (i, { u with iss := ⟨core, grp, pc, n, none, 0⟩ })) ∧ (s.upsets = [] → u = { s with l2 := u.l2 })
      ∧ ∀ a, memByte u.mem a = memByte s.mem a)
  ∧ (∀ s core ctx svc walked pc i (pas : List Nat),
      let bs := pas.flatMap (fun pa => memRead s.mem pa 2)
      (∀ k, k < pas.length → fetchParcel s core ctx svc walked (pc + 2 * k) = .ok (pas.getD k 0)) → pas ≠ [] →
      lengthOf (leNat (bs.take 2)) = 2 * pas.length → decode bs = .ok (i, []) →
      fetchAt s core ctx svc walked pc = .run i (2 * pas.length))
  ∧ (∀ s n x ps, let u := { popTiming s with msg := none, iss := ⟨n, 0, 0, 0, none, 0⟩ }
      pickTurn s = some (.caramel n) → tget s.cslots n = some x → 0 ≤ x.pc → x.pc < 1024 →
      hubAccess u x.ctx (carPc x).toNat 4 .read = .ok ps → step s = exec (decodeCaramel (leNat (piecesRead u ps))) (piecesTouch u ps))
  ∧ (∀ s i c, pickTurn s = some (.event i c) → step s = exec i { popTiming s with msg := none, iss := c })
  ∧ (∀ s i c, let u := { issueState (popTiming s) with iss := c }
      pickTurn s = some (.write i c) →
        (∀ v, exec i u = .next v → step s = .next (noteIssue s.stamp (packWith (popTiming s) c.core c.grp) v c.core c.grp))
        ∧ ((∀ v, exec i u ≠ .next v) → step s = exec i u))
  ∧ (∀ s core grp t g x tpc resume park latched lanes, pickTurn s = some (.trap core grp) →
      tget s.teams core = some t → tget t.groups grp = some g → g.status = .trapping x tpc resume park latched lanes →
      resultsOut (popTiming s) core grp = false →
      step s = .next (takeTrap (modGroup { popTiming s with msg := none } core grp (fun g => { g with status := .running }))
        core grp x tpc resume park latched lanes))
  ∧ (∀ s i m r, let u := { popTiming s with held := s.held.eraseIdx i, msg := some m, iss := ⟨0, 0, 0, 0, none, 0⟩ }
      pickTurn s = some (.held i) → s.held[i]? = some m → messageRow (popTiming s) m = some r → step s = exec r u)
  ∧ (∀ s port line, pickTurn s = some (.inval port line) → step s = .next (applyInval { popTiming s with msg := none } (port, line)))
  ∧ (∀ s m r i, let u := { popTiming s with inbox := r, msg := some m, iss := ⟨0, 0, 0, 0, none, 0⟩ }
      pickTurn s = some .message → s.inbox = m :: r → messageRow u m = some i → s.powered = true → step s = exec i u)
  ∧ (∀ s, pickTurn s = none → step s = .next (popTiming s))

/-- The machine right after reset: boot stage 0 and service level 0, no work and no context, INC 0, nobody dead, memory
with nothing listed, the logs clear, TMOREMOTE 0x4E20 and every way mask whole; a core's LLD and WCAGE registers at their
reset values; and the invariant of a run holds (R101, R113, R215, R218, R272, R387, R390). INC 0 is the model's choice, the
incarnation being the carrier's to give (log 5), and so are PKGID, the pod and memory's contents (logs 4 to 8). -/
def Obligations.ResetState : Prop :=
  let s := State.reset
  s.stage = 0 ∧ s.svclvl = 0 ∧ s.teams = [] ∧ s.ctxs = [] ∧ s.launches = [] ∧ s.cslots = [] ∧ s.mboxes = [] ∧ s.reqs = []
  ∧ s.inc = 0 ∧ s.peerdead = 0 ∧ s.tmoremote = 0x4E20 ∧ s.elogaddr = 0 ∧ s.elogcause = 0 ∧ s.wpm = List.replicate 8 0xFFFF
  ∧ (∀ c, (coreRegs s c).lldwin = 0x40 ∧ (coreRegs s c).lldthr = 0x10100 ∧ (coreRegs s c).lldmin = 4 ∧ (coreRegs s c).wcage = 0x800)
  ∧ s.mem = [] ∧ Machine.Inv s

/-- Every step keeps memory in its canonical form: from any state whose memory has it, a step that answers a next state
leaves it so, whichever turn is taken (the form is the model's, R51 and R52 give the address space). -/
def Obligations.StepKeepsMemoryForm : Prop := ∀ s t, Machine.Inv s → step s = .next t → Machine.Inv t
end

