-- ==== Sys2Proof/Laws/Memory.lean ====
section
/-! SUPPORT. The laws of byte memories: a read after a write, and the canonical form that every operation keeps. -/

namespace Sys2Proof.Machine

/-- The canonical form, one cell at a time. -/
theorem Memory.wf_cons (x : Nat) (b : Byte) (r : List Host.Cell) :
    Memory.wf ((x, b) :: r) = true ↔ b ≠ 0 ∧ (∀ e ∈ r, x < e.1) ∧ Memory.wf r = true := by
  induction r generalizing x b with
  | nil => simp [Memory.wf]
  | cons e r ih =>
    obtain ⟨y, c⟩ := e
    have hy := ih y c
    simp only [Memory.wf, Bool.and_eq_true, bne_iff_ne, ne_eq, decide_eq_true_eq, List.mem_cons, forall_eq_or_imp]
    constructor
    · rintro ⟨⟨hb, hxy⟩, hr⟩
      exact ⟨hb, ⟨hxy, fun e he => Nat.lt_trans hxy ((hy.1 hr).2.1 e he)⟩, hr⟩
    · rintro ⟨hb, ⟨hxy, -⟩, hr⟩
      exact ⟨⟨hb, hxy⟩, hr⟩

/-- An address below every listed one reads as zero. -/
theorem memByte_below {m : List Host.Cell} {a : Nat} (h : ∀ e ∈ m, a < e.1) : memByte m a = 0 := by
  induction m with
  | nil => rfl
  | cons e r ih =>
    obtain ⟨x, c⟩ := e
    have hx : a < x := h (x, c) (by simp)
    simp only [memByte, Nat.ne_of_gt hx, if_false]
    exact ih (fun e he => h e (by simp [he]))

/-- A write of one byte leaves every other byte as it was. -/
theorem memByte_memSet_ne (m : List Host.Cell) (a x : Nat) (b : Byte) (h : x ≠ a) : memByte (memSet m a b) x = memByte m x := by
  induction m with
  | nil => simp only [memSet]; split <;> simp [memByte, Ne.symm h]
  | cons e r ih =>
    obtain ⟨y, c⟩ := e
    simp only [memSet]
    split
    · split <;> simp [memByte, Ne.symm h]
    · split
      · subst_vars; split <;> simp [memByte, Ne.symm h]
      · simp [memByte, ih]

/-- A byte reads what was written to it. -/
theorem memByte_memSet_self (m : List Host.Cell) (hm : Memory.wf m = true) (a : Nat) (b : Byte) : memByte (memSet m a b) a = b := by
  induction m with
  | nil => simp only [memSet]; split <;> simp_all [memByte]
  | cons e r ih =>
    obtain ⟨y, c⟩ := e
    obtain ⟨-, hlt, hr⟩ := (Memory.wf_cons y c r).1 hm
    simp only [memSet]
    split
    · split
      · rename_i h _
        have h' : a < y := h
        simp only [memByte, Nat.ne_of_gt h', if_false]
        rw [memByte_below (fun e he => Nat.lt_trans h' (hlt e he))]
        simp_all
      · simp [memByte]
    · split
      · subst_vars
        split
        · rw [memByte_below hlt]; simp_all
        · simp [memByte]
      · have : y ≠ a := fun h => by simp_all
        simp [memByte, this, ih hr]

/-- The cells of a memory after a write of one byte: those it held, and the one written. -/
theorem mem_memSet {m : List Host.Cell} {a : Nat} {b : Byte} {e : Host.Cell} (h : e ∈ memSet m a b) : e ∈ m ∨ e = (a, b) := by
  induction m with
  | nil => simp only [memSet] at h; split at h <;> simp_all
  | cons f r ih =>
    obtain ⟨y, c⟩ := f
    simp only [memSet] at h
    split at h
    · split at h <;> simp_all
      tauto
    · split at h
      · split at h <;> simp_all
        tauto
      · simp only [List.mem_cons] at h ⊢
        rcases h with h | h
        · exact .inl (.inl h)
        · rcases ih h with h | h
          · exact .inl (.inr h)
          · exact .inr h

/-- A write of one byte keeps the canonical form. -/
theorem memSet_wf {m : List Host.Cell} (hm : Memory.wf m = true) (a : Nat) (b : Byte) : Memory.wf (memSet m a b) = true := by
  induction m with
  | nil => simp only [memSet]; split <;> simp_all [Memory.wf]
  | cons e r ih =>
    obtain ⟨y, c⟩ := e
    obtain ⟨hc, hlt, hr⟩ := (Memory.wf_cons y c r).1 hm
    simp only [memSet]
    split
    · rename_i h
      split
      · exact hm
      · rename_i hb
        refine (Memory.wf_cons a b _).2 ⟨hb, ?_, hm⟩
        intro e he
        rcases List.mem_cons.1 he with rfl | he
        · exact h
        · exact Nat.lt_trans h (hlt e he)
    · split
      · subst_vars
        split
        · exact hr
        · rename_i hb; exact (Memory.wf_cons _ b _).2 ⟨hb, hlt, hr⟩
      · rename_i h1 h2
        refine (Memory.wf_cons y c _).2 ⟨hc, ?_, ih hr⟩
        intro e he
        rcases mem_memSet he with he | rfl
        · exact hlt e he
        · exact Nat.lt_of_le_of_ne (Nat.le_of_not_lt h1) (fun h => h2 h.symm)

/-- A write of bytes keeps the canonical form. -/
theorem memWrite_wf {m : List Host.Cell} (hm : Memory.wf m = true) (a : Nat) (bs : List Byte) : Memory.wf (memWrite m a bs) = true := by
  induction bs generalizing m a with
  | nil => exact hm
  | cons b r ih => exact ih (memSet_wf hm a b) (a + 1)

/-- A write of a number keeps the canonical form. -/
theorem memWriteNat_wf {m : List Host.Cell} (hm : Memory.wf m = true) (a n v : Nat) : Memory.wf (memWriteNat m a n v) = true :=
  memWrite_wf hm a _

/-- A write of listed cells keeps the canonical form. -/
theorem memPatch_wf {m : List Host.Cell} (hm : Memory.wf m = true) (cells : List Host.Cell) : Memory.wf (memPatch m cells) = true := by
  induction cells generalizing m with
  | nil => exact hm
  | cons c r ih => exact ih (memSet_wf hm c.1 c.2)

/-- Dropping a range keeps the canonical form. -/
theorem memDrop_wf {m : List Host.Cell} (hm : Memory.wf m = true) (a n : Nat) : Memory.wf (memDrop m a n) = true := by
  induction m with
  | nil => exact hm
  | cons e r ih =>
    obtain ⟨y, c⟩ := e
    obtain ⟨hc, hlt, hr⟩ := (Memory.wf_cons y c r).1 hm
    have hd := ih hr
    simp only [memDrop, List.filter_cons] at hd ⊢
    split
    · exact (Memory.wf_cons y c _).2 ⟨hc, fun e he => hlt e (List.mem_filter.1 he).1, hd⟩
    · exact hd

/-- A byte after a write of bytes: the byte written to it, or what it held. -/
theorem memByte_memWrite (m : List Host.Cell) (hm : Memory.wf m = true) (a x : Nat) (bs : List Byte) :
    memByte (memWrite m a bs) x = if a ≤ x ∧ x < a + bs.length then bs.getD (x - a) 0 else memByte m x := by
  induction bs generalizing m a with
  | nil => simp [memWrite]
  | cons b r ih =>
    simp only [memWrite, List.length_cons]
    rw [ih _ (memSet_wf hm a b)]
    by_cases h : x = a
    · subst h
      rw [if_neg (by omega), memByte_memSet_self m hm, if_pos (by omega)]
      simp
    · by_cases h' : a + 1 ≤ x ∧ x < a + 1 + r.length
      · rw [if_pos h', if_pos (by omega)]
        obtain ⟨k, hk⟩ : ∃ k, x - a = k + 1 := ⟨x - a - 1, by omega⟩
        rw [hk, show x - (a + 1) = k by omega]
        simp
      · rw [if_neg h', if_neg (by omega), memByte_memSet_ne m a x b h]

/-- Bytes outside a written range are as they were, whatever the form of the memory. -/
theorem memByte_memWrite_out (m : List Host.Cell) (a x : Nat) (bs : List Byte) (h : x < a ∨ a + bs.length ≤ x) :
    memByte (memWrite m a bs) x = memByte m x := by
  induction bs generalizing m a with
  | nil => rfl
  | cons b r ih =>
    simp only [memWrite, List.length_cons] at h ⊢
    rw [ih _ _ (by omega), memByte_memSet_ne m a x b (by omega)]

end Sys2Proof.Machine
end

