-- ==== Sys2Proof/Laws/Tables.lean ====
section
/-! SUPPORT. The laws of sparse tables: a read after a write, and a write after a write. -/

namespace Sys2Proof.Machine

@[simp] theorem tget_tset_self {α : Type} (t : Tab α) (k : Nat) (x : α) : tget (tset t k x) k = some x := by
  induction t with
  | nil => simp [tset, tget]
  | cons e r ih =>
    obtain ⟨i, y⟩ := e
    simp only [tset]
    split
    · simp [tget]
    · split
      · simp [tget]
      · simp [tget, *]

theorem tget_tset_ne {α : Type} (t : Tab α) {k j : Nat} (x : α) (h : j ≠ k) : tget (tset t k x) j = tget t j := by
  induction t with
  | nil => simp [tset, tget, Ne.symm h]
  | cons e r ih =>
    obtain ⟨i, y⟩ := e
    simp only [tset]
    split
    · simp [tget, Ne.symm h]
    · split
      · subst_vars; simp [tget, Ne.symm h]
      · simp [tget, ih]

@[simp] theorem tset_tset {α : Type} (t : Tab α) (k : Nat) (x y : α) : tset (tset t k x) k y = tset t k y := by
  induction t with
  | nil => simp [tset]
  | cons e r ih =>
    obtain ⟨i, z⟩ := e
    simp only [tset]
    split
    · simp [tset]
    · split
      · simp [tset]
      · simp [tset, *]

theorem tget_tset {α : Type} (t : Tab α) (k j : Nat) (x : α) :
    tget (tset t k x) j = if j = k then some x else tget t j := by
  split
  · subst_vars; simp
  · exact tget_tset_ne t x ‹_›

theorem tget_tdel {α : Type} (t : Tab α) (k j : Nat) : tget (tdel t k) j = if j = k then none else tget t j := by
  induction t with
  | nil => simp [tdel, tget]
  | cons e r ih =>
    obtain ⟨i, y⟩ := e
    simp only [tdel] at ih
    by_cases hi : i = k
    · subst hi
      by_cases hj : j = i
      · simpa [tdel, hj] using ih
      · simpa [tdel, tget, hj, Ne.symm hj] using ih
    · by_cases hj : j = k
      · subst hj; simp [tdel, tget, ih, hi]
      · simp [tdel, tget, ih, hi, hj]

/-- A register reads what was written to it, and every other register what it held. -/
theorem wget_wset (t : Tab Word) (k j : Nat) (x : Word) : wget (wset t k x) j = if j = k then x else wget t j := by
  unfold wset wget tgetD
  by_cases hx : x = 0
  · simp only [hx, if_true, tget_tdel]
    split <;> simp
  · simp only [hx, if_false, tget_tset]
    split <;> simp

@[simp] theorem tget_tmap {α : Type} (f : Nat → α → α) (t : Tab α) (k : Nat) : tget (tmap f t) k = (tget t k).map (f k) := by
  induction t with
  | nil => simp [tmap, tget]
  | cons e r ih =>
    obtain ⟨i, y⟩ := e
    simp only [tmap, List.map_cons, tget] at ih ⊢
    split
    · subst_vars; rfl
    · exact ih

end Sys2Proof.Machine
end

