-- ==== Sys2Proof/Laws/State.lean ====
section
/-! SUPPORT. What each update of a piece of the state leaves as it was, one lemma for each field, and what it gives
the piece. -/

namespace Sys2Proof.Machine

/-! ### setTeam -/

@[simp] theorem setTeam_timing (s : State) (k : Nat) (x : Team) : (setTeam s k x).timing = s.timing := rfl
@[simp] theorem setTeam_inbox (s : State) (k : Nat) (x : Team) : (setTeam s k x).inbox = s.inbox := rfl
@[simp] theorem setTeam_msg (s : State) (k : Nat) (x : Team) : (setTeam s k x).msg = s.msg := rfl
@[simp] theorem setTeam_iss (s : State) (k : Nat) (x : Team) : (setTeam s k x).iss = s.iss := rfl
@[simp] theorem setTeam_stamp (s : State) (k : Nat) (x : Team) : (setTeam s k x).stamp = s.stamp := rfl
@[simp] theorem setTeam_free (s : State) (k : Nat) (x : Team) : (setTeam s k x).free = s.free := rfl
@[simp] theorem setTeam_hostRead (s : State) (k : Nat) (x : Team) : (setTeam s k x).hostRead = s.hostRead := rfl
@[simp] theorem setTeam_cores (s : State) (k : Nat) (x : Team) : (setTeam s k x).cores = s.cores := rfl
@[simp] theorem setTeam_engines (s : State) (k : Nat) (x : Team) : (setTeam s k x).engines = s.engines := rfl
@[simp] theorem setTeam_dies (s : State) (k : Nat) (x : Team) : (setTeam s k x).dies = s.dies := rfl
@[simp] theorem setTeam_mem (s : State) (k : Nat) (x : Team) : (setTeam s k x).mem = s.mem := rfl
@[simp] theorem setTeam_poison (s : State) (k : Nat) (x : Team) : (setTeam s k x).poison = s.poison := rfl
@[simp] theorem setTeam_upsets (s : State) (k : Nat) (x : Team) : (setTeam s k x).upsets = s.upsets := rfl
@[simp] theorem setTeam_l2 (s : State) (k : Nat) (x : Team) : (setTeam s k x).l2 = s.l2 := rfl
@[simp] theorem setTeam_wpm (s : State) (k : Nat) (x : Team) : (setTeam s k x).wpm = s.wpm := rfl
@[simp] theorem setTeam_exported (s : State) (k : Nat) (x : Team) : (setTeam s k x).exported = s.exported := rfl
@[simp] theorem setTeam_migrating (s : State) (k : Nat) (x : Team) : (setTeam s k x).migrating = s.migrating := rfl
@[simp] theorem setTeam_ctxs (s : State) (k : Nat) (x : Team) : (setTeam s k x).ctxs = s.ctxs := rfl
@[simp] theorem setTeam_launches (s : State) (k : Nat) (x : Team) : (setTeam s k x).launches = s.launches := rfl
@[simp] theorem setTeam_lseq (s : State) (k : Nat) (x : Team) : (setTeam s k x).lseq = s.lseq := rfl
@[simp] theorem setTeam_served (s : State) (k : Nat) (x : Team) : (setTeam s k x).served = s.served := rfl
@[simp] theorem setTeam_head (s : State) (k : Nat) (x : Team) : (setTeam s k x).head = s.head := rfl
@[simp] theorem setTeam_images (s : State) (k : Nat) (x : Team) : (setTeam s k x).images = s.images := rfl
@[simp] theorem setTeam_preempting (s : State) (k : Nat) (x : Team) : (setTeam s k x).preempting = s.preempting := rfl
@[simp] theorem setTeam_rects (s : State) (k : Nat) (x : Team) : (setTeam s k x).rects = s.rects := rfl
@[simp] theorem setTeam_svcq (s : State) (k : Nat) (x : Team) : (setTeam s k x).svcq = s.svcq := rfl
@[simp] theorem setTeam_svcStat (s : State) (k : Nat) (x : Team) : (setTeam s k x).svcStat = s.svcStat := rfl
@[simp] theorem setTeam_mboxes (s : State) (k : Nat) (x : Team) : (setTeam s k x).mboxes = s.mboxes := rfl
@[simp] theorem setTeam_mgmt (s : State) (k : Nat) (x : Team) : (setTeam s k x).mgmt = s.mgmt := rfl
@[simp] theorem setTeam_powered (s : State) (k : Nat) (x : Team) : (setTeam s k x).powered = s.powered := rfl
@[simp] theorem setTeam_stage (s : State) (k : Nat) (x : Team) : (setTeam s k x).stage = s.stage := rfl
@[simp] theorem setTeam_svclvl (s : State) (k : Nat) (x : Team) : (setTeam s k x).svclvl = s.svclvl := rfl
@[simp] theorem setTeam_bootFail (s : State) (k : Nat) (x : Team) : (setTeam s k x).bootFail = s.bootFail := rfl
@[simp] theorem setTeam_admits (s : State) (k : Nat) (x : Team) : (setTeam s k x).admits = s.admits := rfl
@[simp] theorem setTeam_excl (s : State) (k : Nat) (x : Team) : (setTeam s k x).excl = s.excl := rfl
@[simp] theorem setTeam_attempts (s : State) (k : Nat) (x : Team) : (setTeam s k x).attempts = s.attempts := rfl
@[simp] theorem setTeam_steward (s : State) (k : Nat) (x : Team) : (setTeam s k x).steward = s.steward := rfl
@[simp] theorem setTeam_pkgid (s : State) (k : Nat) (x : Team) : (setTeam s k x).pkgid = s.pkgid := rfl
@[simp] theorem setTeam_pod (s : State) (k : Nat) (x : Team) : (setTeam s k x).pod = s.pod := rfl
@[simp] theorem setTeam_live (s : State) (k : Nat) (x : Team) : (setTeam s k x).live = s.live := rfl
@[simp] theorem setTeam_epoch (s : State) (k : Nat) (x : Team) : (setTeam s k x).epoch = s.epoch := rfl
@[simp] theorem setTeam_peerdead (s : State) (k : Nat) (x : Team) : (setTeam s k x).peerdead = s.peerdead := rfl
@[simp] theorem setTeam_inc (s : State) (k : Nat) (x : Team) : (setTeam s k x).inc = s.inc := rfl
@[simp] theorem setTeam_peerInc (s : State) (k : Nat) (x : Team) : (setTeam s k x).peerInc = s.peerInc := rfl
@[simp] theorem setTeam_links (s : State) (k : Nat) (x : Team) : (setTeam s k x).links = s.links := rfl
@[simp] theorem setTeam_tmoremote (s : State) (k : Nat) (x : Team) : (setTeam s k x).tmoremote = s.tmoremote := rfl
@[simp] theorem setTeam_elogaddr (s : State) (k : Nat) (x : Team) : (setTeam s k x).elogaddr = s.elogaddr := rfl
@[simp] theorem setTeam_elogcause (s : State) (k : Nat) (x : Team) : (setTeam s k x).elogcause = s.elogcause := rfl
@[simp] theorem setTeam_secnt (s : State) (k : Nat) (x : Team) : (setTeam s k x).secnt = s.secnt := rfl
@[simp] theorem setTeam_mvdd (s : State) (k : Nat) (x : Team) : (setTeam s k x).mvdd = s.mvdd := rfl
@[simp] theorem setTeam_mhbmt (s : State) (k : Nat) (x : Team) : (setTeam s k x).mhbmt = s.mhbmt := rfl
@[simp] theorem setTeam_mhbmv (s : State) (k : Nat) (x : Team) : (setTeam s k x).mhbmv = s.mhbmv := rfl
@[simp] theorem setTeam_meye (s : State) (k : Nat) (x : Team) : (setTeam s k x).meye = s.meye := rfl
@[simp] theorem setTeam_defmap (s : State) (k : Nat) (x : Team) : (setTeam s k x).defmap = s.defmap := rfl
@[simp] theorem setTeam_defrt (s : State) (k : Nat) (x : Team) : (setTeam s k x).defrt = s.defrt := rfl
@[simp] theorem setTeam_reqs (s : State) (k : Nat) (x : Team) : (setTeam s k x).reqs = s.reqs := rfl
@[simp] theorem setTeam_out (s : State) (k : Nat) (x : Team) : (setTeam s k x).out = s.out := rfl
@[simp] theorem setTeam_winq (s : State) (k : Nat) (x : Team) : (setTeam s k x).winq = s.winq := rfl
@[simp] theorem setTeam_resultCache (s : State) (k : Nat) (x : Team) : (setTeam s k x).resultCache = s.resultCache := rfl
@[simp] theorem setTeam_streamRecs (s : State) (k : Nat) (x : Team) : (setTeam s k x).streamRecs = s.streamRecs := rfl
@[simp] theorem setTeam_seqDone (s : State) (k : Nat) (x : Team) : (setTeam s k x).seqDone = s.seqDone := rfl
@[simp] theorem setTeam_portBufs (s : State) (k : Nat) (x : Team) : (setTeam s k x).portBufs = s.portBufs := rfl
@[simp] theorem setTeam_pendInv (s : State) (k : Nat) (x : Team) : (setTeam s k x).pendInv = s.pendInv := rfl
@[simp] theorem setTeam_partnerJ (s : State) (k : Nat) (x : Team) : (setTeam s k x).partnerJ = s.partnerJ := rfl
@[simp] theorem setTeam_partnerTb (s : State) (k : Nat) (x : Team) : (setTeam s k x).partnerTb = s.partnerTb := rfl
@[simp] theorem setTeam_cslots (s : State) (k : Nat) (x : Team) : (setTeam s k x).cslots = s.cslots := rfl
@[simp] theorem setTeam_corder (s : State) (k : Nat) (x : Team) : (setTeam s k x).corder = s.corder := rfl
@[simp] theorem setTeam_heldPk (s : State) (k : Nat) (x : Team) : (setTeam s k x).heldPk = s.heldPk := rfl
@[simp] theorem setTeam_hubFaults (s : State) (k : Nat) (x : Team) : (setTeam s k x).hubFaults = s.hubFaults := rfl
@[simp] theorem setTeam_l2lost (s : State) (k : Nat) (x : Team) : (setTeam s k x).l2lost = s.l2lost := rfl
@[simp] theorem setTeam_renewed (s : State) (k : Nat) (x : Team) : (setTeam s k x).renewed = s.renewed := rfl
@[simp] theorem setTeam_mgmtReq (s : State) (k : Nat) (x : Team) : (setTeam s k x).mgmtReq = s.mgmtReq := rfl
@[simp] theorem setTeam_devWrites (s : State) (k : Nat) (x : Team) : (setTeam s k x).devWrites = s.devWrites := rfl
@[simp] theorem setTeam_uePorts (s : State) (k : Nat) (x : Team) : (setTeam s k x).uePorts = s.uePorts := rfl
@[simp] theorem setTeam_held (s : State) (k : Nat) (x : Team) : (setTeam s k x).held = s.held := rfl
@[simp] theorem setTeam_marks (s : State) (k : Nat) (x : Team) : (setTeam s k x).marks = s.marks := rfl
@[simp] theorem setTeam_cposts (s : State) (k : Nat) (x : Team) : (setTeam s k x).cposts = s.cposts := rfl

/-! ### modTeam -/

@[simp] theorem modTeam_timing (s : State) (k : Nat) (f : Team → Team) : (modTeam s k f).timing = s.timing := by unfold modTeam; split <;> rfl
@[simp] theorem modTeam_inbox (s : State) (k : Nat) (f : Team → Team) : (modTeam s k f).inbox = s.inbox := by unfold modTeam; split <;> rfl
@[simp] theorem modTeam_msg (s : State) (k : Nat) (f : Team → Team) : (modTeam s k f).msg = s.msg := by unfold modTeam; split <;> rfl
@[simp] theorem modTeam_iss (s : State) (k : Nat) (f : Team → Team) : (modTeam s k f).iss = s.iss := by unfold modTeam; split <;> rfl
@[simp] theorem modTeam_stamp (s : State) (k : Nat) (f : Team → Team) : (modTeam s k f).stamp = s.stamp := by unfold modTeam; split <;> rfl
@[simp] theorem modTeam_free (s : State) (k : Nat) (f : Team → Team) : (modTeam s k f).free = s.free := by unfold modTeam; split <;> rfl
@[simp] theorem modTeam_hostRead (s : State) (k : Nat) (f : Team → Team) : (modTeam s k f).hostRead = s.hostRead := by unfold modTeam; split <;> rfl
@[simp] theorem modTeam_cores (s : State) (k : Nat) (f : Team → Team) : (modTeam s k f).cores = s.cores := by unfold modTeam; split <;> rfl
@[simp] theorem modTeam_engines (s : State) (k : Nat) (f : Team → Team) : (modTeam s k f).engines = s.engines := by unfold modTeam; split <;> rfl
@[simp] theorem modTeam_dies (s : State) (k : Nat) (f : Team → Team) : (modTeam s k f).dies = s.dies := by unfold modTeam; split <;> rfl
@[simp] theorem modTeam_mem (s : State) (k : Nat) (f : Team → Team) : (modTeam s k f).mem = s.mem := by unfold modTeam; split <;> rfl
@[simp] theorem modTeam_poison (s : State) (k : Nat) (f : Team → Team) : (modTeam s k f).poison = s.poison := by unfold modTeam; split <;> rfl
@[simp] theorem modTeam_upsets (s : State) (k : Nat) (f : Team → Team) : (modTeam s k f).upsets = s.upsets := by unfold modTeam; split <;> rfl
@[simp] theorem modTeam_l2 (s : State) (k : Nat) (f : Team → Team) : (modTeam s k f).l2 = s.l2 := by unfold modTeam; split <;> rfl
@[simp] theorem modTeam_wpm (s : State) (k : Nat) (f : Team → Team) : (modTeam s k f).wpm = s.wpm := by unfold modTeam; split <;> rfl
@[simp] theorem modTeam_exported (s : State) (k : Nat) (f : Team → Team) : (modTeam s k f).exported = s.exported := by unfold modTeam; split <;> rfl
@[simp] theorem modTeam_migrating (s : State) (k : Nat) (f : Team → Team) : (modTeam s k f).migrating = s.migrating := by unfold modTeam; split <;> rfl
@[simp] theorem modTeam_ctxs (s : State) (k : Nat) (f : Team → Team) : (modTeam s k f).ctxs = s.ctxs := by unfold modTeam; split <;> rfl
@[simp] theorem modTeam_launches (s : State) (k : Nat) (f : Team → Team) : (modTeam s k f).launches = s.launches := by unfold modTeam; split <;> rfl
@[simp] theorem modTeam_lseq (s : State) (k : Nat) (f : Team → Team) : (modTeam s k f).lseq = s.lseq := by unfold modTeam; split <;> rfl
@[simp] theorem modTeam_served (s : State) (k : Nat) (f : Team → Team) : (modTeam s k f).served = s.served := by unfold modTeam; split <;> rfl
@[simp] theorem modTeam_head (s : State) (k : Nat) (f : Team → Team) : (modTeam s k f).head = s.head := by unfold modTeam; split <;> rfl
@[simp] theorem modTeam_images (s : State) (k : Nat) (f : Team → Team) : (modTeam s k f).images = s.images := by unfold modTeam; split <;> rfl
@[simp] theorem modTeam_preempting (s : State) (k : Nat) (f : Team → Team) : (modTeam s k f).preempting = s.preempting := by unfold modTeam; split <;> rfl
@[simp] theorem modTeam_rects (s : State) (k : Nat) (f : Team → Team) : (modTeam s k f).rects = s.rects := by unfold modTeam; split <;> rfl
@[simp] theorem modTeam_svcq (s : State) (k : Nat) (f : Team → Team) : (modTeam s k f).svcq = s.svcq := by unfold modTeam; split <;> rfl
@[simp] theorem modTeam_svcStat (s : State) (k : Nat) (f : Team → Team) : (modTeam s k f).svcStat = s.svcStat := by unfold modTeam; split <;> rfl
@[simp] theorem modTeam_mboxes (s : State) (k : Nat) (f : Team → Team) : (modTeam s k f).mboxes = s.mboxes := by unfold modTeam; split <;> rfl
@[simp] theorem modTeam_mgmt (s : State) (k : Nat) (f : Team → Team) : (modTeam s k f).mgmt = s.mgmt := by unfold modTeam; split <;> rfl
@[simp] theorem modTeam_powered (s : State) (k : Nat) (f : Team → Team) : (modTeam s k f).powered = s.powered := by unfold modTeam; split <;> rfl
@[simp] theorem modTeam_stage (s : State) (k : Nat) (f : Team → Team) : (modTeam s k f).stage = s.stage := by unfold modTeam; split <;> rfl
@[simp] theorem modTeam_svclvl (s : State) (k : Nat) (f : Team → Team) : (modTeam s k f).svclvl = s.svclvl := by unfold modTeam; split <;> rfl
@[simp] theorem modTeam_bootFail (s : State) (k : Nat) (f : Team → Team) : (modTeam s k f).bootFail = s.bootFail := by unfold modTeam; split <;> rfl
@[simp] theorem modTeam_admits (s : State) (k : Nat) (f : Team → Team) : (modTeam s k f).admits = s.admits := by unfold modTeam; split <;> rfl
@[simp] theorem modTeam_excl (s : State) (k : Nat) (f : Team → Team) : (modTeam s k f).excl = s.excl := by unfold modTeam; split <;> rfl
@[simp] theorem modTeam_attempts (s : State) (k : Nat) (f : Team → Team) : (modTeam s k f).attempts = s.attempts := by unfold modTeam; split <;> rfl
@[simp] theorem modTeam_steward (s : State) (k : Nat) (f : Team → Team) : (modTeam s k f).steward = s.steward := by unfold modTeam; split <;> rfl
@[simp] theorem modTeam_pkgid (s : State) (k : Nat) (f : Team → Team) : (modTeam s k f).pkgid = s.pkgid := by unfold modTeam; split <;> rfl
@[simp] theorem modTeam_pod (s : State) (k : Nat) (f : Team → Team) : (modTeam s k f).pod = s.pod := by unfold modTeam; split <;> rfl
@[simp] theorem modTeam_live (s : State) (k : Nat) (f : Team → Team) : (modTeam s k f).live = s.live := by unfold modTeam; split <;> rfl
@[simp] theorem modTeam_epoch (s : State) (k : Nat) (f : Team → Team) : (modTeam s k f).epoch = s.epoch := by unfold modTeam; split <;> rfl
@[simp] theorem modTeam_peerdead (s : State) (k : Nat) (f : Team → Team) : (modTeam s k f).peerdead = s.peerdead := by unfold modTeam; split <;> rfl
@[simp] theorem modTeam_inc (s : State) (k : Nat) (f : Team → Team) : (modTeam s k f).inc = s.inc := by unfold modTeam; split <;> rfl
@[simp] theorem modTeam_peerInc (s : State) (k : Nat) (f : Team → Team) : (modTeam s k f).peerInc = s.peerInc := by unfold modTeam; split <;> rfl
@[simp] theorem modTeam_links (s : State) (k : Nat) (f : Team → Team) : (modTeam s k f).links = s.links := by unfold modTeam; split <;> rfl
@[simp] theorem modTeam_tmoremote (s : State) (k : Nat) (f : Team → Team) : (modTeam s k f).tmoremote = s.tmoremote := by unfold modTeam; split <;> rfl
@[simp] theorem modTeam_elogaddr (s : State) (k : Nat) (f : Team → Team) : (modTeam s k f).elogaddr = s.elogaddr := by unfold modTeam; split <;> rfl
@[simp] theorem modTeam_elogcause (s : State) (k : Nat) (f : Team → Team) : (modTeam s k f).elogcause = s.elogcause := by unfold modTeam; split <;> rfl
@[simp] theorem modTeam_secnt (s : State) (k : Nat) (f : Team → Team) : (modTeam s k f).secnt = s.secnt := by unfold modTeam; split <;> rfl
@[simp] theorem modTeam_mvdd (s : State) (k : Nat) (f : Team → Team) : (modTeam s k f).mvdd = s.mvdd := by unfold modTeam; split <;> rfl
@[simp] theorem modTeam_mhbmt (s : State) (k : Nat) (f : Team → Team) : (modTeam s k f).mhbmt = s.mhbmt := by unfold modTeam; split <;> rfl
@[simp] theorem modTeam_mhbmv (s : State) (k : Nat) (f : Team → Team) : (modTeam s k f).mhbmv = s.mhbmv := by unfold modTeam; split <;> rfl
@[simp] theorem modTeam_meye (s : State) (k : Nat) (f : Team → Team) : (modTeam s k f).meye = s.meye := by unfold modTeam; split <;> rfl
@[simp] theorem modTeam_defmap (s : State) (k : Nat) (f : Team → Team) : (modTeam s k f).defmap = s.defmap := by unfold modTeam; split <;> rfl
@[simp] theorem modTeam_defrt (s : State) (k : Nat) (f : Team → Team) : (modTeam s k f).defrt = s.defrt := by unfold modTeam; split <;> rfl
@[simp] theorem modTeam_reqs (s : State) (k : Nat) (f : Team → Team) : (modTeam s k f).reqs = s.reqs := by unfold modTeam; split <;> rfl
@[simp] theorem modTeam_out (s : State) (k : Nat) (f : Team → Team) : (modTeam s k f).out = s.out := by unfold modTeam; split <;> rfl
@[simp] theorem modTeam_winq (s : State) (k : Nat) (f : Team → Team) : (modTeam s k f).winq = s.winq := by unfold modTeam; split <;> rfl
@[simp] theorem modTeam_resultCache (s : State) (k : Nat) (f : Team → Team) : (modTeam s k f).resultCache = s.resultCache := by unfold modTeam; split <;> rfl
@[simp] theorem modTeam_streamRecs (s : State) (k : Nat) (f : Team → Team) : (modTeam s k f).streamRecs = s.streamRecs := by unfold modTeam; split <;> rfl
@[simp] theorem modTeam_seqDone (s : State) (k : Nat) (f : Team → Team) : (modTeam s k f).seqDone = s.seqDone := by unfold modTeam; split <;> rfl
@[simp] theorem modTeam_portBufs (s : State) (k : Nat) (f : Team → Team) : (modTeam s k f).portBufs = s.portBufs := by unfold modTeam; split <;> rfl
@[simp] theorem modTeam_pendInv (s : State) (k : Nat) (f : Team → Team) : (modTeam s k f).pendInv = s.pendInv := by unfold modTeam; split <;> rfl
@[simp] theorem modTeam_partnerJ (s : State) (k : Nat) (f : Team → Team) : (modTeam s k f).partnerJ = s.partnerJ := by unfold modTeam; split <;> rfl
@[simp] theorem modTeam_partnerTb (s : State) (k : Nat) (f : Team → Team) : (modTeam s k f).partnerTb = s.partnerTb := by unfold modTeam; split <;> rfl
@[simp] theorem modTeam_cslots (s : State) (k : Nat) (f : Team → Team) : (modTeam s k f).cslots = s.cslots := by unfold modTeam; split <;> rfl
@[simp] theorem modTeam_corder (s : State) (k : Nat) (f : Team → Team) : (modTeam s k f).corder = s.corder := by unfold modTeam; split <;> rfl
@[simp] theorem modTeam_heldPk (s : State) (k : Nat) (f : Team → Team) : (modTeam s k f).heldPk = s.heldPk := by unfold modTeam; split <;> rfl
@[simp] theorem modTeam_hubFaults (s : State) (k : Nat) (f : Team → Team) : (modTeam s k f).hubFaults = s.hubFaults := by unfold modTeam; split <;> rfl
@[simp] theorem modTeam_l2lost (s : State) (k : Nat) (f : Team → Team) : (modTeam s k f).l2lost = s.l2lost := by unfold modTeam; split <;> rfl
@[simp] theorem modTeam_renewed (s : State) (k : Nat) (f : Team → Team) : (modTeam s k f).renewed = s.renewed := by unfold modTeam; split <;> rfl
@[simp] theorem modTeam_mgmtReq (s : State) (k : Nat) (f : Team → Team) : (modTeam s k f).mgmtReq = s.mgmtReq := by unfold modTeam; split <;> rfl
@[simp] theorem modTeam_devWrites (s : State) (k : Nat) (f : Team → Team) : (modTeam s k f).devWrites = s.devWrites := by unfold modTeam; split <;> rfl
@[simp] theorem modTeam_uePorts (s : State) (k : Nat) (f : Team → Team) : (modTeam s k f).uePorts = s.uePorts := by unfold modTeam; split <;> rfl
@[simp] theorem modTeam_held (s : State) (k : Nat) (f : Team → Team) : (modTeam s k f).held = s.held := by unfold modTeam; split <;> rfl
@[simp] theorem modTeam_marks (s : State) (k : Nat) (f : Team → Team) : (modTeam s k f).marks = s.marks := by unfold modTeam; split <;> rfl
@[simp] theorem modTeam_cposts (s : State) (k : Nat) (f : Team → Team) : (modTeam s k f).cposts = s.cposts := by unfold modTeam; split <;> rfl

/-! ### modGroup -/

@[simp] theorem modGroup_timing (s : State) (k g : Nat) (f : Group → Group) : (modGroup s k g f).timing = s.timing := modTeam_timing s k _
@[simp] theorem modGroup_inbox (s : State) (k g : Nat) (f : Group → Group) : (modGroup s k g f).inbox = s.inbox := modTeam_inbox s k _
@[simp] theorem modGroup_msg (s : State) (k g : Nat) (f : Group → Group) : (modGroup s k g f).msg = s.msg := modTeam_msg s k _
@[simp] theorem modGroup_iss (s : State) (k g : Nat) (f : Group → Group) : (modGroup s k g f).iss = s.iss := modTeam_iss s k _
@[simp] theorem modGroup_stamp (s : State) (k g : Nat) (f : Group → Group) : (modGroup s k g f).stamp = s.stamp := modTeam_stamp s k _
@[simp] theorem modGroup_free (s : State) (k g : Nat) (f : Group → Group) : (modGroup s k g f).free = s.free := modTeam_free s k _
@[simp] theorem modGroup_hostRead (s : State) (k g : Nat) (f : Group → Group) : (modGroup s k g f).hostRead = s.hostRead := modTeam_hostRead s k _
@[simp] theorem modGroup_cores (s : State) (k g : Nat) (f : Group → Group) : (modGroup s k g f).cores = s.cores := modTeam_cores s k _
@[simp] theorem modGroup_engines (s : State) (k g : Nat) (f : Group → Group) : (modGroup s k g f).engines = s.engines := modTeam_engines s k _
@[simp] theorem modGroup_dies (s : State) (k g : Nat) (f : Group → Group) : (modGroup s k g f).dies = s.dies := modTeam_dies s k _
@[simp] theorem modGroup_mem (s : State) (k g : Nat) (f : Group → Group) : (modGroup s k g f).mem = s.mem := modTeam_mem s k _
@[simp] theorem modGroup_poison (s : State) (k g : Nat) (f : Group → Group) : (modGroup s k g f).poison = s.poison := modTeam_poison s k _
@[simp] theorem modGroup_upsets (s : State) (k g : Nat) (f : Group → Group) : (modGroup s k g f).upsets = s.upsets := modTeam_upsets s k _
@[simp] theorem modGroup_l2 (s : State) (k g : Nat) (f : Group → Group) : (modGroup s k g f).l2 = s.l2 := modTeam_l2 s k _
@[simp] theorem modGroup_wpm (s : State) (k g : Nat) (f : Group → Group) : (modGroup s k g f).wpm = s.wpm := modTeam_wpm s k _
@[simp] theorem modGroup_exported (s : State) (k g : Nat) (f : Group → Group) : (modGroup s k g f).exported = s.exported := modTeam_exported s k _
@[simp] theorem modGroup_migrating (s : State) (k g : Nat) (f : Group → Group) : (modGroup s k g f).migrating = s.migrating := modTeam_migrating s k _
@[simp] theorem modGroup_ctxs (s : State) (k g : Nat) (f : Group → Group) : (modGroup s k g f).ctxs = s.ctxs := modTeam_ctxs s k _
@[simp] theorem modGroup_launches (s : State) (k g : Nat) (f : Group → Group) : (modGroup s k g f).launches = s.launches := modTeam_launches s k _
@[simp] theorem modGroup_lseq (s : State) (k g : Nat) (f : Group → Group) : (modGroup s k g f).lseq = s.lseq := modTeam_lseq s k _
@[simp] theorem modGroup_served (s : State) (k g : Nat) (f : Group → Group) : (modGroup s k g f).served = s.served := modTeam_served s k _
@[simp] theorem modGroup_head (s : State) (k g : Nat) (f : Group → Group) : (modGroup s k g f).head = s.head := modTeam_head s k _
@[simp] theorem modGroup_images (s : State) (k g : Nat) (f : Group → Group) : (modGroup s k g f).images = s.images := modTeam_images s k _
@[simp] theorem modGroup_preempting (s : State) (k g : Nat) (f : Group → Group) : (modGroup s k g f).preempting = s.preempting := modTeam_preempting s k _
@[simp] theorem modGroup_rects (s : State) (k g : Nat) (f : Group → Group) : (modGroup s k g f).rects = s.rects := modTeam_rects s k _
@[simp] theorem modGroup_svcq (s : State) (k g : Nat) (f : Group → Group) : (modGroup s k g f).svcq = s.svcq := modTeam_svcq s k _
@[simp] theorem modGroup_svcStat (s : State) (k g : Nat) (f : Group → Group) : (modGroup s k g f).svcStat = s.svcStat := modTeam_svcStat s k _
@[simp] theorem modGroup_mboxes (s : State) (k g : Nat) (f : Group → Group) : (modGroup s k g f).mboxes = s.mboxes := modTeam_mboxes s k _
@[simp] theorem modGroup_mgmt (s : State) (k g : Nat) (f : Group → Group) : (modGroup s k g f).mgmt = s.mgmt := modTeam_mgmt s k _
@[simp] theorem modGroup_powered (s : State) (k g : Nat) (f : Group → Group) : (modGroup s k g f).powered = s.powered := modTeam_powered s k _
@[simp] theorem modGroup_stage (s : State) (k g : Nat) (f : Group → Group) : (modGroup s k g f).stage = s.stage := modTeam_stage s k _
@[simp] theorem modGroup_svclvl (s : State) (k g : Nat) (f : Group → Group) : (modGroup s k g f).svclvl = s.svclvl := modTeam_svclvl s k _
@[simp] theorem modGroup_bootFail (s : State) (k g : Nat) (f : Group → Group) : (modGroup s k g f).bootFail = s.bootFail := modTeam_bootFail s k _
@[simp] theorem modGroup_admits (s : State) (k g : Nat) (f : Group → Group) : (modGroup s k g f).admits = s.admits := modTeam_admits s k _
@[simp] theorem modGroup_excl (s : State) (k g : Nat) (f : Group → Group) : (modGroup s k g f).excl = s.excl := modTeam_excl s k _
@[simp] theorem modGroup_attempts (s : State) (k g : Nat) (f : Group → Group) : (modGroup s k g f).attempts = s.attempts := modTeam_attempts s k _
@[simp] theorem modGroup_steward (s : State) (k g : Nat) (f : Group → Group) : (modGroup s k g f).steward = s.steward := modTeam_steward s k _
@[simp] theorem modGroup_pkgid (s : State) (k g : Nat) (f : Group → Group) : (modGroup s k g f).pkgid = s.pkgid := modTeam_pkgid s k _
@[simp] theorem modGroup_pod (s : State) (k g : Nat) (f : Group → Group) : (modGroup s k g f).pod = s.pod := modTeam_pod s k _
@[simp] theorem modGroup_live (s : State) (k g : Nat) (f : Group → Group) : (modGroup s k g f).live = s.live := modTeam_live s k _
@[simp] theorem modGroup_epoch (s : State) (k g : Nat) (f : Group → Group) : (modGroup s k g f).epoch = s.epoch := modTeam_epoch s k _
@[simp] theorem modGroup_peerdead (s : State) (k g : Nat) (f : Group → Group) : (modGroup s k g f).peerdead = s.peerdead := modTeam_peerdead s k _
@[simp] theorem modGroup_inc (s : State) (k g : Nat) (f : Group → Group) : (modGroup s k g f).inc = s.inc := modTeam_inc s k _
@[simp] theorem modGroup_peerInc (s : State) (k g : Nat) (f : Group → Group) : (modGroup s k g f).peerInc = s.peerInc := modTeam_peerInc s k _
@[simp] theorem modGroup_links (s : State) (k g : Nat) (f : Group → Group) : (modGroup s k g f).links = s.links := modTeam_links s k _
@[simp] theorem modGroup_tmoremote (s : State) (k g : Nat) (f : Group → Group) : (modGroup s k g f).tmoremote = s.tmoremote := modTeam_tmoremote s k _
@[simp] theorem modGroup_elogaddr (s : State) (k g : Nat) (f : Group → Group) : (modGroup s k g f).elogaddr = s.elogaddr := modTeam_elogaddr s k _
@[simp] theorem modGroup_elogcause (s : State) (k g : Nat) (f : Group → Group) : (modGroup s k g f).elogcause = s.elogcause := modTeam_elogcause s k _
@[simp] theorem modGroup_secnt (s : State) (k g : Nat) (f : Group → Group) : (modGroup s k g f).secnt = s.secnt := modTeam_secnt s k _
@[simp] theorem modGroup_mvdd (s : State) (k g : Nat) (f : Group → Group) : (modGroup s k g f).mvdd = s.mvdd := modTeam_mvdd s k _
@[simp] theorem modGroup_mhbmt (s : State) (k g : Nat) (f : Group → Group) : (modGroup s k g f).mhbmt = s.mhbmt := modTeam_mhbmt s k _
@[simp] theorem modGroup_mhbmv (s : State) (k g : Nat) (f : Group → Group) : (modGroup s k g f).mhbmv = s.mhbmv := modTeam_mhbmv s k _
@[simp] theorem modGroup_meye (s : State) (k g : Nat) (f : Group → Group) : (modGroup s k g f).meye = s.meye := modTeam_meye s k _
@[simp] theorem modGroup_defmap (s : State) (k g : Nat) (f : Group → Group) : (modGroup s k g f).defmap = s.defmap := modTeam_defmap s k _
@[simp] theorem modGroup_defrt (s : State) (k g : Nat) (f : Group → Group) : (modGroup s k g f).defrt = s.defrt := modTeam_defrt s k _
@[simp] theorem modGroup_reqs (s : State) (k g : Nat) (f : Group → Group) : (modGroup s k g f).reqs = s.reqs := modTeam_reqs s k _
@[simp] theorem modGroup_out (s : State) (k g : Nat) (f : Group → Group) : (modGroup s k g f).out = s.out := modTeam_out s k _
@[simp] theorem modGroup_winq (s : State) (k g : Nat) (f : Group → Group) : (modGroup s k g f).winq = s.winq := modTeam_winq s k _
@[simp] theorem modGroup_resultCache (s : State) (k g : Nat) (f : Group → Group) : (modGroup s k g f).resultCache = s.resultCache := modTeam_resultCache s k _
@[simp] theorem modGroup_streamRecs (s : State) (k g : Nat) (f : Group → Group) : (modGroup s k g f).streamRecs = s.streamRecs := modTeam_streamRecs s k _
@[simp] theorem modGroup_seqDone (s : State) (k g : Nat) (f : Group → Group) : (modGroup s k g f).seqDone = s.seqDone := modTeam_seqDone s k _
@[simp] theorem modGroup_portBufs (s : State) (k g : Nat) (f : Group → Group) : (modGroup s k g f).portBufs = s.portBufs := modTeam_portBufs s k _
@[simp] theorem modGroup_pendInv (s : State) (k g : Nat) (f : Group → Group) : (modGroup s k g f).pendInv = s.pendInv := modTeam_pendInv s k _
@[simp] theorem modGroup_partnerJ (s : State) (k g : Nat) (f : Group → Group) : (modGroup s k g f).partnerJ = s.partnerJ := modTeam_partnerJ s k _
@[simp] theorem modGroup_partnerTb (s : State) (k g : Nat) (f : Group → Group) : (modGroup s k g f).partnerTb = s.partnerTb := modTeam_partnerTb s k _
@[simp] theorem modGroup_cslots (s : State) (k g : Nat) (f : Group → Group) : (modGroup s k g f).cslots = s.cslots := modTeam_cslots s k _
@[simp] theorem modGroup_corder (s : State) (k g : Nat) (f : Group → Group) : (modGroup s k g f).corder = s.corder := modTeam_corder s k _
@[simp] theorem modGroup_heldPk (s : State) (k g : Nat) (f : Group → Group) : (modGroup s k g f).heldPk = s.heldPk := modTeam_heldPk s k _
@[simp] theorem modGroup_hubFaults (s : State) (k g : Nat) (f : Group → Group) : (modGroup s k g f).hubFaults = s.hubFaults := modTeam_hubFaults s k _
@[simp] theorem modGroup_l2lost (s : State) (k g : Nat) (f : Group → Group) : (modGroup s k g f).l2lost = s.l2lost := modTeam_l2lost s k _
@[simp] theorem modGroup_renewed (s : State) (k g : Nat) (f : Group → Group) : (modGroup s k g f).renewed = s.renewed := modTeam_renewed s k _
@[simp] theorem modGroup_mgmtReq (s : State) (k g : Nat) (f : Group → Group) : (modGroup s k g f).mgmtReq = s.mgmtReq := modTeam_mgmtReq s k _
@[simp] theorem modGroup_devWrites (s : State) (k g : Nat) (f : Group → Group) : (modGroup s k g f).devWrites = s.devWrites := modTeam_devWrites s k _
@[simp] theorem modGroup_uePorts (s : State) (k g : Nat) (f : Group → Group) : (modGroup s k g f).uePorts = s.uePorts := modTeam_uePorts s k _
@[simp] theorem modGroup_held (s : State) (k g : Nat) (f : Group → Group) : (modGroup s k g f).held = s.held := modTeam_held s k _
@[simp] theorem modGroup_marks (s : State) (k g : Nat) (f : Group → Group) : (modGroup s k g f).marks = s.marks := modTeam_marks s k _
@[simp] theorem modGroup_cposts (s : State) (k g : Nat) (f : Group → Group) : (modGroup s k g f).cposts = s.cposts := modTeam_cposts s k _

/-! ### modCore -/

@[simp] theorem modCore_timing (s : State) (k : Nat) (f : CoreRegs → CoreRegs) : (modCore s k f).timing = s.timing := rfl
@[simp] theorem modCore_inbox (s : State) (k : Nat) (f : CoreRegs → CoreRegs) : (modCore s k f).inbox = s.inbox := rfl
@[simp] theorem modCore_msg (s : State) (k : Nat) (f : CoreRegs → CoreRegs) : (modCore s k f).msg = s.msg := rfl
@[simp] theorem modCore_iss (s : State) (k : Nat) (f : CoreRegs → CoreRegs) : (modCore s k f).iss = s.iss := rfl
@[simp] theorem modCore_stamp (s : State) (k : Nat) (f : CoreRegs → CoreRegs) : (modCore s k f).stamp = s.stamp := rfl
@[simp] theorem modCore_free (s : State) (k : Nat) (f : CoreRegs → CoreRegs) : (modCore s k f).free = s.free := rfl
@[simp] theorem modCore_hostRead (s : State) (k : Nat) (f : CoreRegs → CoreRegs) : (modCore s k f).hostRead = s.hostRead := rfl
@[simp] theorem modCore_teams (s : State) (k : Nat) (f : CoreRegs → CoreRegs) : (modCore s k f).teams = s.teams := rfl
@[simp] theorem modCore_engines (s : State) (k : Nat) (f : CoreRegs → CoreRegs) : (modCore s k f).engines = s.engines := rfl
@[simp] theorem modCore_dies (s : State) (k : Nat) (f : CoreRegs → CoreRegs) : (modCore s k f).dies = s.dies := rfl
@[simp] theorem modCore_mem (s : State) (k : Nat) (f : CoreRegs → CoreRegs) : (modCore s k f).mem = s.mem := rfl
@[simp] theorem modCore_poison (s : State) (k : Nat) (f : CoreRegs → CoreRegs) : (modCore s k f).poison = s.poison := rfl
@[simp] theorem modCore_upsets (s : State) (k : Nat) (f : CoreRegs → CoreRegs) : (modCore s k f).upsets = s.upsets := rfl
@[simp] theorem modCore_l2 (s : State) (k : Nat) (f : CoreRegs → CoreRegs) : (modCore s k f).l2 = s.l2 := rfl
@[simp] theorem modCore_wpm (s : State) (k : Nat) (f : CoreRegs → CoreRegs) : (modCore s k f).wpm = s.wpm := rfl
@[simp] theorem modCore_exported (s : State) (k : Nat) (f : CoreRegs → CoreRegs) : (modCore s k f).exported = s.exported := rfl
@[simp] theorem modCore_migrating (s : State) (k : Nat) (f : CoreRegs → CoreRegs) : (modCore s k f).migrating = s.migrating := rfl
@[simp] theorem modCore_ctxs (s : State) (k : Nat) (f : CoreRegs → CoreRegs) : (modCore s k f).ctxs = s.ctxs := rfl
@[simp] theorem modCore_launches (s : State) (k : Nat) (f : CoreRegs → CoreRegs) : (modCore s k f).launches = s.launches := rfl
@[simp] theorem modCore_lseq (s : State) (k : Nat) (f : CoreRegs → CoreRegs) : (modCore s k f).lseq = s.lseq := rfl
@[simp] theorem modCore_served (s : State) (k : Nat) (f : CoreRegs → CoreRegs) : (modCore s k f).served = s.served := rfl
@[simp] theorem modCore_head (s : State) (k : Nat) (f : CoreRegs → CoreRegs) : (modCore s k f).head = s.head := rfl
@[simp] theorem modCore_images (s : State) (k : Nat) (f : CoreRegs → CoreRegs) : (modCore s k f).images = s.images := rfl
@[simp] theorem modCore_preempting (s : State) (k : Nat) (f : CoreRegs → CoreRegs) : (modCore s k f).preempting = s.preempting := rfl
@[simp] theorem modCore_rects (s : State) (k : Nat) (f : CoreRegs → CoreRegs) : (modCore s k f).rects = s.rects := rfl
@[simp] theorem modCore_svcq (s : State) (k : Nat) (f : CoreRegs → CoreRegs) : (modCore s k f).svcq = s.svcq := rfl
@[simp] theorem modCore_svcStat (s : State) (k : Nat) (f : CoreRegs → CoreRegs) : (modCore s k f).svcStat = s.svcStat := rfl
@[simp] theorem modCore_mboxes (s : State) (k : Nat) (f : CoreRegs → CoreRegs) : (modCore s k f).mboxes = s.mboxes := rfl
@[simp] theorem modCore_mgmt (s : State) (k : Nat) (f : CoreRegs → CoreRegs) : (modCore s k f).mgmt = s.mgmt := rfl
@[simp] theorem modCore_powered (s : State) (k : Nat) (f : CoreRegs → CoreRegs) : (modCore s k f).powered = s.powered := rfl
@[simp] theorem modCore_stage (s : State) (k : Nat) (f : CoreRegs → CoreRegs) : (modCore s k f).stage = s.stage := rfl
@[simp] theorem modCore_svclvl (s : State) (k : Nat) (f : CoreRegs → CoreRegs) : (modCore s k f).svclvl = s.svclvl := rfl
@[simp] theorem modCore_bootFail (s : State) (k : Nat) (f : CoreRegs → CoreRegs) : (modCore s k f).bootFail = s.bootFail := rfl
@[simp] theorem modCore_admits (s : State) (k : Nat) (f : CoreRegs → CoreRegs) : (modCore s k f).admits = s.admits := rfl
@[simp] theorem modCore_excl (s : State) (k : Nat) (f : CoreRegs → CoreRegs) : (modCore s k f).excl = s.excl := rfl
@[simp] theorem modCore_attempts (s : State) (k : Nat) (f : CoreRegs → CoreRegs) : (modCore s k f).attempts = s.attempts := rfl
@[simp] theorem modCore_steward (s : State) (k : Nat) (f : CoreRegs → CoreRegs) : (modCore s k f).steward = s.steward := rfl
@[simp] theorem modCore_pkgid (s : State) (k : Nat) (f : CoreRegs → CoreRegs) : (modCore s k f).pkgid = s.pkgid := rfl
@[simp] theorem modCore_pod (s : State) (k : Nat) (f : CoreRegs → CoreRegs) : (modCore s k f).pod = s.pod := rfl
@[simp] theorem modCore_live (s : State) (k : Nat) (f : CoreRegs → CoreRegs) : (modCore s k f).live = s.live := rfl
@[simp] theorem modCore_epoch (s : State) (k : Nat) (f : CoreRegs → CoreRegs) : (modCore s k f).epoch = s.epoch := rfl
@[simp] theorem modCore_peerdead (s : State) (k : Nat) (f : CoreRegs → CoreRegs) : (modCore s k f).peerdead = s.peerdead := rfl
@[simp] theorem modCore_inc (s : State) (k : Nat) (f : CoreRegs → CoreRegs) : (modCore s k f).inc = s.inc := rfl
@[simp] theorem modCore_peerInc (s : State) (k : Nat) (f : CoreRegs → CoreRegs) : (modCore s k f).peerInc = s.peerInc := rfl
@[simp] theorem modCore_links (s : State) (k : Nat) (f : CoreRegs → CoreRegs) : (modCore s k f).links = s.links := rfl
@[simp] theorem modCore_tmoremote (s : State) (k : Nat) (f : CoreRegs → CoreRegs) : (modCore s k f).tmoremote = s.tmoremote := rfl
@[simp] theorem modCore_elogaddr (s : State) (k : Nat) (f : CoreRegs → CoreRegs) : (modCore s k f).elogaddr = s.elogaddr := rfl
@[simp] theorem modCore_elogcause (s : State) (k : Nat) (f : CoreRegs → CoreRegs) : (modCore s k f).elogcause = s.elogcause := rfl
@[simp] theorem modCore_secnt (s : State) (k : Nat) (f : CoreRegs → CoreRegs) : (modCore s k f).secnt = s.secnt := rfl
@[simp] theorem modCore_mvdd (s : State) (k : Nat) (f : CoreRegs → CoreRegs) : (modCore s k f).mvdd = s.mvdd := rfl
@[simp] theorem modCore_mhbmt (s : State) (k : Nat) (f : CoreRegs → CoreRegs) : (modCore s k f).mhbmt = s.mhbmt := rfl
@[simp] theorem modCore_mhbmv (s : State) (k : Nat) (f : CoreRegs → CoreRegs) : (modCore s k f).mhbmv = s.mhbmv := rfl
@[simp] theorem modCore_meye (s : State) (k : Nat) (f : CoreRegs → CoreRegs) : (modCore s k f).meye = s.meye := rfl
@[simp] theorem modCore_defmap (s : State) (k : Nat) (f : CoreRegs → CoreRegs) : (modCore s k f).defmap = s.defmap := rfl
@[simp] theorem modCore_defrt (s : State) (k : Nat) (f : CoreRegs → CoreRegs) : (modCore s k f).defrt = s.defrt := rfl
@[simp] theorem modCore_reqs (s : State) (k : Nat) (f : CoreRegs → CoreRegs) : (modCore s k f).reqs = s.reqs := rfl
@[simp] theorem modCore_out (s : State) (k : Nat) (f : CoreRegs → CoreRegs) : (modCore s k f).out = s.out := rfl
@[simp] theorem modCore_winq (s : State) (k : Nat) (f : CoreRegs → CoreRegs) : (modCore s k f).winq = s.winq := rfl
@[simp] theorem modCore_resultCache (s : State) (k : Nat) (f : CoreRegs → CoreRegs) : (modCore s k f).resultCache = s.resultCache := rfl
@[simp] theorem modCore_streamRecs (s : State) (k : Nat) (f : CoreRegs → CoreRegs) : (modCore s k f).streamRecs = s.streamRecs := rfl
@[simp] theorem modCore_seqDone (s : State) (k : Nat) (f : CoreRegs → CoreRegs) : (modCore s k f).seqDone = s.seqDone := rfl
@[simp] theorem modCore_portBufs (s : State) (k : Nat) (f : CoreRegs → CoreRegs) : (modCore s k f).portBufs = s.portBufs := rfl
@[simp] theorem modCore_pendInv (s : State) (k : Nat) (f : CoreRegs → CoreRegs) : (modCore s k f).pendInv = s.pendInv := rfl
@[simp] theorem modCore_partnerJ (s : State) (k : Nat) (f : CoreRegs → CoreRegs) : (modCore s k f).partnerJ = s.partnerJ := rfl
@[simp] theorem modCore_partnerTb (s : State) (k : Nat) (f : CoreRegs → CoreRegs) : (modCore s k f).partnerTb = s.partnerTb := rfl
@[simp] theorem modCore_cslots (s : State) (k : Nat) (f : CoreRegs → CoreRegs) : (modCore s k f).cslots = s.cslots := rfl
@[simp] theorem modCore_corder (s : State) (k : Nat) (f : CoreRegs → CoreRegs) : (modCore s k f).corder = s.corder := rfl
@[simp] theorem modCore_heldPk (s : State) (k : Nat) (f : CoreRegs → CoreRegs) : (modCore s k f).heldPk = s.heldPk := rfl
@[simp] theorem modCore_hubFaults (s : State) (k : Nat) (f : CoreRegs → CoreRegs) : (modCore s k f).hubFaults = s.hubFaults := rfl
@[simp] theorem modCore_l2lost (s : State) (k : Nat) (f : CoreRegs → CoreRegs) : (modCore s k f).l2lost = s.l2lost := rfl
@[simp] theorem modCore_renewed (s : State) (k : Nat) (f : CoreRegs → CoreRegs) : (modCore s k f).renewed = s.renewed := rfl
@[simp] theorem modCore_mgmtReq (s : State) (k : Nat) (f : CoreRegs → CoreRegs) : (modCore s k f).mgmtReq = s.mgmtReq := rfl
@[simp] theorem modCore_devWrites (s : State) (k : Nat) (f : CoreRegs → CoreRegs) : (modCore s k f).devWrites = s.devWrites := rfl
@[simp] theorem modCore_uePorts (s : State) (k : Nat) (f : CoreRegs → CoreRegs) : (modCore s k f).uePorts = s.uePorts := rfl
@[simp] theorem modCore_held (s : State) (k : Nat) (f : CoreRegs → CoreRegs) : (modCore s k f).held = s.held := rfl
@[simp] theorem modCore_marks (s : State) (k : Nat) (f : CoreRegs → CoreRegs) : (modCore s k f).marks = s.marks := rfl
@[simp] theorem modCore_cposts (s : State) (k : Nat) (f : CoreRegs → CoreRegs) : (modCore s k f).cposts = s.cposts := rfl

/-! ### modDie -/

@[simp] theorem modDie_timing (s : State) (k : Nat) (f : Die → Die) : (modDie s k f).timing = s.timing := rfl
@[simp] theorem modDie_inbox (s : State) (k : Nat) (f : Die → Die) : (modDie s k f).inbox = s.inbox := rfl
@[simp] theorem modDie_msg (s : State) (k : Nat) (f : Die → Die) : (modDie s k f).msg = s.msg := rfl
@[simp] theorem modDie_iss (s : State) (k : Nat) (f : Die → Die) : (modDie s k f).iss = s.iss := rfl
@[simp] theorem modDie_stamp (s : State) (k : Nat) (f : Die → Die) : (modDie s k f).stamp = s.stamp := rfl
@[simp] theorem modDie_free (s : State) (k : Nat) (f : Die → Die) : (modDie s k f).free = s.free := rfl
@[simp] theorem modDie_hostRead (s : State) (k : Nat) (f : Die → Die) : (modDie s k f).hostRead = s.hostRead := rfl
@[simp] theorem modDie_teams (s : State) (k : Nat) (f : Die → Die) : (modDie s k f).teams = s.teams := rfl
@[simp] theorem modDie_cores (s : State) (k : Nat) (f : Die → Die) : (modDie s k f).cores = s.cores := rfl
@[simp] theorem modDie_engines (s : State) (k : Nat) (f : Die → Die) : (modDie s k f).engines = s.engines := rfl
@[simp] theorem modDie_mem (s : State) (k : Nat) (f : Die → Die) : (modDie s k f).mem = s.mem := rfl
@[simp] theorem modDie_poison (s : State) (k : Nat) (f : Die → Die) : (modDie s k f).poison = s.poison := rfl
@[simp] theorem modDie_upsets (s : State) (k : Nat) (f : Die → Die) : (modDie s k f).upsets = s.upsets := rfl
@[simp] theorem modDie_l2 (s : State) (k : Nat) (f : Die → Die) : (modDie s k f).l2 = s.l2 := rfl
@[simp] theorem modDie_wpm (s : State) (k : Nat) (f : Die → Die) : (modDie s k f).wpm = s.wpm := rfl
@[simp] theorem modDie_exported (s : State) (k : Nat) (f : Die → Die) : (modDie s k f).exported = s.exported := rfl
@[simp] theorem modDie_migrating (s : State) (k : Nat) (f : Die → Die) : (modDie s k f).migrating = s.migrating := rfl
@[simp] theorem modDie_ctxs (s : State) (k : Nat) (f : Die → Die) : (modDie s k f).ctxs = s.ctxs := rfl
@[simp] theorem modDie_launches (s : State) (k : Nat) (f : Die → Die) : (modDie s k f).launches = s.launches := rfl
@[simp] theorem modDie_lseq (s : State) (k : Nat) (f : Die → Die) : (modDie s k f).lseq = s.lseq := rfl
@[simp] theorem modDie_served (s : State) (k : Nat) (f : Die → Die) : (modDie s k f).served = s.served := rfl
@[simp] theorem modDie_head (s : State) (k : Nat) (f : Die → Die) : (modDie s k f).head = s.head := rfl
@[simp] theorem modDie_images (s : State) (k : Nat) (f : Die → Die) : (modDie s k f).images = s.images := rfl
@[simp] theorem modDie_preempting (s : State) (k : Nat) (f : Die → Die) : (modDie s k f).preempting = s.preempting := rfl
@[simp] theorem modDie_rects (s : State) (k : Nat) (f : Die → Die) : (modDie s k f).rects = s.rects := rfl
@[simp] theorem modDie_svcq (s : State) (k : Nat) (f : Die → Die) : (modDie s k f).svcq = s.svcq := rfl
@[simp] theorem modDie_svcStat (s : State) (k : Nat) (f : Die → Die) : (modDie s k f).svcStat = s.svcStat := rfl
@[simp] theorem modDie_mboxes (s : State) (k : Nat) (f : Die → Die) : (modDie s k f).mboxes = s.mboxes := rfl
@[simp] theorem modDie_mgmt (s : State) (k : Nat) (f : Die → Die) : (modDie s k f).mgmt = s.mgmt := rfl
@[simp] theorem modDie_powered (s : State) (k : Nat) (f : Die → Die) : (modDie s k f).powered = s.powered := rfl
@[simp] theorem modDie_stage (s : State) (k : Nat) (f : Die → Die) : (modDie s k f).stage = s.stage := rfl
@[simp] theorem modDie_svclvl (s : State) (k : Nat) (f : Die → Die) : (modDie s k f).svclvl = s.svclvl := rfl
@[simp] theorem modDie_bootFail (s : State) (k : Nat) (f : Die → Die) : (modDie s k f).bootFail = s.bootFail := rfl
@[simp] theorem modDie_admits (s : State) (k : Nat) (f : Die → Die) : (modDie s k f).admits = s.admits := rfl
@[simp] theorem modDie_excl (s : State) (k : Nat) (f : Die → Die) : (modDie s k f).excl = s.excl := rfl
@[simp] theorem modDie_attempts (s : State) (k : Nat) (f : Die → Die) : (modDie s k f).attempts = s.attempts := rfl
@[simp] theorem modDie_steward (s : State) (k : Nat) (f : Die → Die) : (modDie s k f).steward = s.steward := rfl
@[simp] theorem modDie_pkgid (s : State) (k : Nat) (f : Die → Die) : (modDie s k f).pkgid = s.pkgid := rfl
@[simp] theorem modDie_pod (s : State) (k : Nat) (f : Die → Die) : (modDie s k f).pod = s.pod := rfl
@[simp] theorem modDie_live (s : State) (k : Nat) (f : Die → Die) : (modDie s k f).live = s.live := rfl
@[simp] theorem modDie_epoch (s : State) (k : Nat) (f : Die → Die) : (modDie s k f).epoch = s.epoch := rfl
@[simp] theorem modDie_peerdead (s : State) (k : Nat) (f : Die → Die) : (modDie s k f).peerdead = s.peerdead := rfl
@[simp] theorem modDie_inc (s : State) (k : Nat) (f : Die → Die) : (modDie s k f).inc = s.inc := rfl
@[simp] theorem modDie_peerInc (s : State) (k : Nat) (f : Die → Die) : (modDie s k f).peerInc = s.peerInc := rfl
@[simp] theorem modDie_links (s : State) (k : Nat) (f : Die → Die) : (modDie s k f).links = s.links := rfl
@[simp] theorem modDie_tmoremote (s : State) (k : Nat) (f : Die → Die) : (modDie s k f).tmoremote = s.tmoremote := rfl
@[simp] theorem modDie_elogaddr (s : State) (k : Nat) (f : Die → Die) : (modDie s k f).elogaddr = s.elogaddr := rfl
@[simp] theorem modDie_elogcause (s : State) (k : Nat) (f : Die → Die) : (modDie s k f).elogcause = s.elogcause := rfl
@[simp] theorem modDie_secnt (s : State) (k : Nat) (f : Die → Die) : (modDie s k f).secnt = s.secnt := rfl
@[simp] theorem modDie_mvdd (s : State) (k : Nat) (f : Die → Die) : (modDie s k f).mvdd = s.mvdd := rfl
@[simp] theorem modDie_mhbmt (s : State) (k : Nat) (f : Die → Die) : (modDie s k f).mhbmt = s.mhbmt := rfl
@[simp] theorem modDie_mhbmv (s : State) (k : Nat) (f : Die → Die) : (modDie s k f).mhbmv = s.mhbmv := rfl
@[simp] theorem modDie_meye (s : State) (k : Nat) (f : Die → Die) : (modDie s k f).meye = s.meye := rfl
@[simp] theorem modDie_defmap (s : State) (k : Nat) (f : Die → Die) : (modDie s k f).defmap = s.defmap := rfl
@[simp] theorem modDie_defrt (s : State) (k : Nat) (f : Die → Die) : (modDie s k f).defrt = s.defrt := rfl
@[simp] theorem modDie_reqs (s : State) (k : Nat) (f : Die → Die) : (modDie s k f).reqs = s.reqs := rfl
@[simp] theorem modDie_out (s : State) (k : Nat) (f : Die → Die) : (modDie s k f).out = s.out := rfl
@[simp] theorem modDie_winq (s : State) (k : Nat) (f : Die → Die) : (modDie s k f).winq = s.winq := rfl
@[simp] theorem modDie_resultCache (s : State) (k : Nat) (f : Die → Die) : (modDie s k f).resultCache = s.resultCache := rfl
@[simp] theorem modDie_streamRecs (s : State) (k : Nat) (f : Die → Die) : (modDie s k f).streamRecs = s.streamRecs := rfl
@[simp] theorem modDie_seqDone (s : State) (k : Nat) (f : Die → Die) : (modDie s k f).seqDone = s.seqDone := rfl
@[simp] theorem modDie_portBufs (s : State) (k : Nat) (f : Die → Die) : (modDie s k f).portBufs = s.portBufs := rfl
@[simp] theorem modDie_pendInv (s : State) (k : Nat) (f : Die → Die) : (modDie s k f).pendInv = s.pendInv := rfl
@[simp] theorem modDie_partnerJ (s : State) (k : Nat) (f : Die → Die) : (modDie s k f).partnerJ = s.partnerJ := rfl
@[simp] theorem modDie_partnerTb (s : State) (k : Nat) (f : Die → Die) : (modDie s k f).partnerTb = s.partnerTb := rfl
@[simp] theorem modDie_cslots (s : State) (k : Nat) (f : Die → Die) : (modDie s k f).cslots = s.cslots := rfl
@[simp] theorem modDie_corder (s : State) (k : Nat) (f : Die → Die) : (modDie s k f).corder = s.corder := rfl
@[simp] theorem modDie_heldPk (s : State) (k : Nat) (f : Die → Die) : (modDie s k f).heldPk = s.heldPk := rfl
@[simp] theorem modDie_hubFaults (s : State) (k : Nat) (f : Die → Die) : (modDie s k f).hubFaults = s.hubFaults := rfl
@[simp] theorem modDie_l2lost (s : State) (k : Nat) (f : Die → Die) : (modDie s k f).l2lost = s.l2lost := rfl
@[simp] theorem modDie_renewed (s : State) (k : Nat) (f : Die → Die) : (modDie s k f).renewed = s.renewed := rfl
@[simp] theorem modDie_mgmtReq (s : State) (k : Nat) (f : Die → Die) : (modDie s k f).mgmtReq = s.mgmtReq := rfl
@[simp] theorem modDie_devWrites (s : State) (k : Nat) (f : Die → Die) : (modDie s k f).devWrites = s.devWrites := rfl
@[simp] theorem modDie_uePorts (s : State) (k : Nat) (f : Die → Die) : (modDie s k f).uePorts = s.uePorts := rfl
@[simp] theorem modDie_held (s : State) (k : Nat) (f : Die → Die) : (modDie s k f).held = s.held := rfl
@[simp] theorem modDie_marks (s : State) (k : Nat) (f : Die → Die) : (modDie s k f).marks = s.marks := rfl
@[simp] theorem modDie_cposts (s : State) (k : Nat) (f : Die → Die) : (modDie s k f).cposts = s.cposts := rfl

/-! ### modEngine -/

@[simp] theorem modEngine_timing (s : State) (k : Nat) (f : Engine → Engine) : (modEngine s k f).timing = s.timing := rfl
@[simp] theorem modEngine_inbox (s : State) (k : Nat) (f : Engine → Engine) : (modEngine s k f).inbox = s.inbox := rfl
@[simp] theorem modEngine_msg (s : State) (k : Nat) (f : Engine → Engine) : (modEngine s k f).msg = s.msg := rfl
@[simp] theorem modEngine_iss (s : State) (k : Nat) (f : Engine → Engine) : (modEngine s k f).iss = s.iss := rfl
@[simp] theorem modEngine_stamp (s : State) (k : Nat) (f : Engine → Engine) : (modEngine s k f).stamp = s.stamp := rfl
@[simp] theorem modEngine_free (s : State) (k : Nat) (f : Engine → Engine) : (modEngine s k f).free = s.free := rfl
@[simp] theorem modEngine_hostRead (s : State) (k : Nat) (f : Engine → Engine) : (modEngine s k f).hostRead = s.hostRead := rfl
@[simp] theorem modEngine_teams (s : State) (k : Nat) (f : Engine → Engine) : (modEngine s k f).teams = s.teams := rfl
@[simp] theorem modEngine_cores (s : State) (k : Nat) (f : Engine → Engine) : (modEngine s k f).cores = s.cores := rfl
@[simp] theorem modEngine_dies (s : State) (k : Nat) (f : Engine → Engine) : (modEngine s k f).dies = s.dies := rfl
@[simp] theorem modEngine_mem (s : State) (k : Nat) (f : Engine → Engine) : (modEngine s k f).mem = s.mem := rfl
@[simp] theorem modEngine_poison (s : State) (k : Nat) (f : Engine → Engine) : (modEngine s k f).poison = s.poison := rfl
@[simp] theorem modEngine_upsets (s : State) (k : Nat) (f : Engine → Engine) : (modEngine s k f).upsets = s.upsets := rfl
@[simp] theorem modEngine_l2 (s : State) (k : Nat) (f : Engine → Engine) : (modEngine s k f).l2 = s.l2 := rfl
@[simp] theorem modEngine_wpm (s : State) (k : Nat) (f : Engine → Engine) : (modEngine s k f).wpm = s.wpm := rfl
@[simp] theorem modEngine_exported (s : State) (k : Nat) (f : Engine → Engine) : (modEngine s k f).exported = s.exported := rfl
@[simp] theorem modEngine_migrating (s : State) (k : Nat) (f : Engine → Engine) : (modEngine s k f).migrating = s.migrating := rfl
@[simp] theorem modEngine_ctxs (s : State) (k : Nat) (f : Engine → Engine) : (modEngine s k f).ctxs = s.ctxs := rfl
@[simp] theorem modEngine_launches (s : State) (k : Nat) (f : Engine → Engine) : (modEngine s k f).launches = s.launches := rfl
@[simp] theorem modEngine_lseq (s : State) (k : Nat) (f : Engine → Engine) : (modEngine s k f).lseq = s.lseq := rfl
@[simp] theorem modEngine_served (s : State) (k : Nat) (f : Engine → Engine) : (modEngine s k f).served = s.served := rfl
@[simp] theorem modEngine_head (s : State) (k : Nat) (f : Engine → Engine) : (modEngine s k f).head = s.head := rfl
@[simp] theorem modEngine_images (s : State) (k : Nat) (f : Engine → Engine) : (modEngine s k f).images = s.images := rfl
@[simp] theorem modEngine_preempting (s : State) (k : Nat) (f : Engine → Engine) : (modEngine s k f).preempting = s.preempting := rfl
@[simp] theorem modEngine_rects (s : State) (k : Nat) (f : Engine → Engine) : (modEngine s k f).rects = s.rects := rfl
@[simp] theorem modEngine_svcq (s : State) (k : Nat) (f : Engine → Engine) : (modEngine s k f).svcq = s.svcq := rfl
@[simp] theorem modEngine_svcStat (s : State) (k : Nat) (f : Engine → Engine) : (modEngine s k f).svcStat = s.svcStat := rfl
@[simp] theorem modEngine_mboxes (s : State) (k : Nat) (f : Engine → Engine) : (modEngine s k f).mboxes = s.mboxes := rfl
@[simp] theorem modEngine_mgmt (s : State) (k : Nat) (f : Engine → Engine) : (modEngine s k f).mgmt = s.mgmt := rfl
@[simp] theorem modEngine_powered (s : State) (k : Nat) (f : Engine → Engine) : (modEngine s k f).powered = s.powered := rfl
@[simp] theorem modEngine_stage (s : State) (k : Nat) (f : Engine → Engine) : (modEngine s k f).stage = s.stage := rfl
@[simp] theorem modEngine_svclvl (s : State) (k : Nat) (f : Engine → Engine) : (modEngine s k f).svclvl = s.svclvl := rfl
@[simp] theorem modEngine_bootFail (s : State) (k : Nat) (f : Engine → Engine) : (modEngine s k f).bootFail = s.bootFail := rfl
@[simp] theorem modEngine_admits (s : State) (k : Nat) (f : Engine → Engine) : (modEngine s k f).admits = s.admits := rfl
@[simp] theorem modEngine_excl (s : State) (k : Nat) (f : Engine → Engine) : (modEngine s k f).excl = s.excl := rfl
@[simp] theorem modEngine_attempts (s : State) (k : Nat) (f : Engine → Engine) : (modEngine s k f).attempts = s.attempts := rfl
@[simp] theorem modEngine_steward (s : State) (k : Nat) (f : Engine → Engine) : (modEngine s k f).steward = s.steward := rfl
@[simp] theorem modEngine_pkgid (s : State) (k : Nat) (f : Engine → Engine) : (modEngine s k f).pkgid = s.pkgid := rfl
@[simp] theorem modEngine_pod (s : State) (k : Nat) (f : Engine → Engine) : (modEngine s k f).pod = s.pod := rfl
@[simp] theorem modEngine_live (s : State) (k : Nat) (f : Engine → Engine) : (modEngine s k f).live = s.live := rfl
@[simp] theorem modEngine_epoch (s : State) (k : Nat) (f : Engine → Engine) : (modEngine s k f).epoch = s.epoch := rfl
@[simp] theorem modEngine_peerdead (s : State) (k : Nat) (f : Engine → Engine) : (modEngine s k f).peerdead = s.peerdead := rfl
@[simp] theorem modEngine_inc (s : State) (k : Nat) (f : Engine → Engine) : (modEngine s k f).inc = s.inc := rfl
@[simp] theorem modEngine_peerInc (s : State) (k : Nat) (f : Engine → Engine) : (modEngine s k f).peerInc = s.peerInc := rfl
@[simp] theorem modEngine_links (s : State) (k : Nat) (f : Engine → Engine) : (modEngine s k f).links = s.links := rfl
@[simp] theorem modEngine_tmoremote (s : State) (k : Nat) (f : Engine → Engine) : (modEngine s k f).tmoremote = s.tmoremote := rfl
@[simp] theorem modEngine_elogaddr (s : State) (k : Nat) (f : Engine → Engine) : (modEngine s k f).elogaddr = s.elogaddr := rfl
@[simp] theorem modEngine_elogcause (s : State) (k : Nat) (f : Engine → Engine) : (modEngine s k f).elogcause = s.elogcause := rfl
@[simp] theorem modEngine_secnt (s : State) (k : Nat) (f : Engine → Engine) : (modEngine s k f).secnt = s.secnt := rfl
@[simp] theorem modEngine_mvdd (s : State) (k : Nat) (f : Engine → Engine) : (modEngine s k f).mvdd = s.mvdd := rfl
@[simp] theorem modEngine_mhbmt (s : State) (k : Nat) (f : Engine → Engine) : (modEngine s k f).mhbmt = s.mhbmt := rfl
@[simp] theorem modEngine_mhbmv (s : State) (k : Nat) (f : Engine → Engine) : (modEngine s k f).mhbmv = s.mhbmv := rfl
@[simp] theorem modEngine_meye (s : State) (k : Nat) (f : Engine → Engine) : (modEngine s k f).meye = s.meye := rfl
@[simp] theorem modEngine_defmap (s : State) (k : Nat) (f : Engine → Engine) : (modEngine s k f).defmap = s.defmap := rfl
@[simp] theorem modEngine_defrt (s : State) (k : Nat) (f : Engine → Engine) : (modEngine s k f).defrt = s.defrt := rfl
@[simp] theorem modEngine_reqs (s : State) (k : Nat) (f : Engine → Engine) : (modEngine s k f).reqs = s.reqs := rfl
@[simp] theorem modEngine_out (s : State) (k : Nat) (f : Engine → Engine) : (modEngine s k f).out = s.out := rfl
@[simp] theorem modEngine_winq (s : State) (k : Nat) (f : Engine → Engine) : (modEngine s k f).winq = s.winq := rfl
@[simp] theorem modEngine_resultCache (s : State) (k : Nat) (f : Engine → Engine) : (modEngine s k f).resultCache = s.resultCache := rfl
@[simp] theorem modEngine_streamRecs (s : State) (k : Nat) (f : Engine → Engine) : (modEngine s k f).streamRecs = s.streamRecs := rfl
@[simp] theorem modEngine_seqDone (s : State) (k : Nat) (f : Engine → Engine) : (modEngine s k f).seqDone = s.seqDone := rfl
@[simp] theorem modEngine_portBufs (s : State) (k : Nat) (f : Engine → Engine) : (modEngine s k f).portBufs = s.portBufs := rfl
@[simp] theorem modEngine_pendInv (s : State) (k : Nat) (f : Engine → Engine) : (modEngine s k f).pendInv = s.pendInv := rfl
@[simp] theorem modEngine_partnerJ (s : State) (k : Nat) (f : Engine → Engine) : (modEngine s k f).partnerJ = s.partnerJ := rfl
@[simp] theorem modEngine_partnerTb (s : State) (k : Nat) (f : Engine → Engine) : (modEngine s k f).partnerTb = s.partnerTb := rfl
@[simp] theorem modEngine_cslots (s : State) (k : Nat) (f : Engine → Engine) : (modEngine s k f).cslots = s.cslots := rfl
@[simp] theorem modEngine_corder (s : State) (k : Nat) (f : Engine → Engine) : (modEngine s k f).corder = s.corder := rfl
@[simp] theorem modEngine_heldPk (s : State) (k : Nat) (f : Engine → Engine) : (modEngine s k f).heldPk = s.heldPk := rfl
@[simp] theorem modEngine_hubFaults (s : State) (k : Nat) (f : Engine → Engine) : (modEngine s k f).hubFaults = s.hubFaults := rfl
@[simp] theorem modEngine_l2lost (s : State) (k : Nat) (f : Engine → Engine) : (modEngine s k f).l2lost = s.l2lost := rfl
@[simp] theorem modEngine_renewed (s : State) (k : Nat) (f : Engine → Engine) : (modEngine s k f).renewed = s.renewed := rfl
@[simp] theorem modEngine_mgmtReq (s : State) (k : Nat) (f : Engine → Engine) : (modEngine s k f).mgmtReq = s.mgmtReq := rfl
@[simp] theorem modEngine_devWrites (s : State) (k : Nat) (f : Engine → Engine) : (modEngine s k f).devWrites = s.devWrites := rfl
@[simp] theorem modEngine_uePorts (s : State) (k : Nat) (f : Engine → Engine) : (modEngine s k f).uePorts = s.uePorts := rfl
@[simp] theorem modEngine_held (s : State) (k : Nat) (f : Engine → Engine) : (modEngine s k f).held = s.held := rfl
@[simp] theorem modEngine_marks (s : State) (k : Nat) (f : Engine → Engine) : (modEngine s k f).marks = s.marks := rfl
@[simp] theorem modEngine_cposts (s : State) (k : Nat) (f : Engine → Engine) : (modEngine s k f).cposts = s.cposts := rfl

/-! ### modCtx -/

@[simp] theorem modCtx_timing (s : State) (k : Nat) (f : Context → Context) : (modCtx s k f).timing = s.timing := by unfold modCtx; split <;> rfl
@[simp] theorem modCtx_inbox (s : State) (k : Nat) (f : Context → Context) : (modCtx s k f).inbox = s.inbox := by unfold modCtx; split <;> rfl
@[simp] theorem modCtx_msg (s : State) (k : Nat) (f : Context → Context) : (modCtx s k f).msg = s.msg := by unfold modCtx; split <;> rfl
@[simp] theorem modCtx_iss (s : State) (k : Nat) (f : Context → Context) : (modCtx s k f).iss = s.iss := by unfold modCtx; split <;> rfl
@[simp] theorem modCtx_stamp (s : State) (k : Nat) (f : Context → Context) : (modCtx s k f).stamp = s.stamp := by unfold modCtx; split <;> rfl
@[simp] theorem modCtx_free (s : State) (k : Nat) (f : Context → Context) : (modCtx s k f).free = s.free := by unfold modCtx; split <;> rfl
@[simp] theorem modCtx_hostRead (s : State) (k : Nat) (f : Context → Context) : (modCtx s k f).hostRead = s.hostRead := by unfold modCtx; split <;> rfl
@[simp] theorem modCtx_teams (s : State) (k : Nat) (f : Context → Context) : (modCtx s k f).teams = s.teams := by unfold modCtx; split <;> rfl
@[simp] theorem modCtx_cores (s : State) (k : Nat) (f : Context → Context) : (modCtx s k f).cores = s.cores := by unfold modCtx; split <;> rfl
@[simp] theorem modCtx_engines (s : State) (k : Nat) (f : Context → Context) : (modCtx s k f).engines = s.engines := by unfold modCtx; split <;> rfl
@[simp] theorem modCtx_dies (s : State) (k : Nat) (f : Context → Context) : (modCtx s k f).dies = s.dies := by unfold modCtx; split <;> rfl
@[simp] theorem modCtx_mem (s : State) (k : Nat) (f : Context → Context) : (modCtx s k f).mem = s.mem := by unfold modCtx; split <;> rfl
@[simp] theorem modCtx_poison (s : State) (k : Nat) (f : Context → Context) : (modCtx s k f).poison = s.poison := by unfold modCtx; split <;> rfl
@[simp] theorem modCtx_upsets (s : State) (k : Nat) (f : Context → Context) : (modCtx s k f).upsets = s.upsets := by unfold modCtx; split <;> rfl
@[simp] theorem modCtx_l2 (s : State) (k : Nat) (f : Context → Context) : (modCtx s k f).l2 = s.l2 := by unfold modCtx; split <;> rfl
@[simp] theorem modCtx_wpm (s : State) (k : Nat) (f : Context → Context) : (modCtx s k f).wpm = s.wpm := by unfold modCtx; split <;> rfl
@[simp] theorem modCtx_exported (s : State) (k : Nat) (f : Context → Context) : (modCtx s k f).exported = s.exported := by unfold modCtx; split <;> rfl
@[simp] theorem modCtx_migrating (s : State) (k : Nat) (f : Context → Context) : (modCtx s k f).migrating = s.migrating := by unfold modCtx; split <;> rfl
@[simp] theorem modCtx_launches (s : State) (k : Nat) (f : Context → Context) : (modCtx s k f).launches = s.launches := by unfold modCtx; split <;> rfl
@[simp] theorem modCtx_lseq (s : State) (k : Nat) (f : Context → Context) : (modCtx s k f).lseq = s.lseq := by unfold modCtx; split <;> rfl
@[simp] theorem modCtx_served (s : State) (k : Nat) (f : Context → Context) : (modCtx s k f).served = s.served := by unfold modCtx; split <;> rfl
@[simp] theorem modCtx_head (s : State) (k : Nat) (f : Context → Context) : (modCtx s k f).head = s.head := by unfold modCtx; split <;> rfl
@[simp] theorem modCtx_images (s : State) (k : Nat) (f : Context → Context) : (modCtx s k f).images = s.images := by unfold modCtx; split <;> rfl
@[simp] theorem modCtx_preempting (s : State) (k : Nat) (f : Context → Context) : (modCtx s k f).preempting = s.preempting := by unfold modCtx; split <;> rfl
@[simp] theorem modCtx_rects (s : State) (k : Nat) (f : Context → Context) : (modCtx s k f).rects = s.rects := by unfold modCtx; split <;> rfl
@[simp] theorem modCtx_svcq (s : State) (k : Nat) (f : Context → Context) : (modCtx s k f).svcq = s.svcq := by unfold modCtx; split <;> rfl
@[simp] theorem modCtx_svcStat (s : State) (k : Nat) (f : Context → Context) : (modCtx s k f).svcStat = s.svcStat := by unfold modCtx; split <;> rfl
@[simp] theorem modCtx_mboxes (s : State) (k : Nat) (f : Context → Context) : (modCtx s k f).mboxes = s.mboxes := by unfold modCtx; split <;> rfl
@[simp] theorem modCtx_mgmt (s : State) (k : Nat) (f : Context → Context) : (modCtx s k f).mgmt = s.mgmt := by unfold modCtx; split <;> rfl
@[simp] theorem modCtx_powered (s : State) (k : Nat) (f : Context → Context) : (modCtx s k f).powered = s.powered := by unfold modCtx; split <;> rfl
@[simp] theorem modCtx_stage (s : State) (k : Nat) (f : Context → Context) : (modCtx s k f).stage = s.stage := by unfold modCtx; split <;> rfl
@[simp] theorem modCtx_svclvl (s : State) (k : Nat) (f : Context → Context) : (modCtx s k f).svclvl = s.svclvl := by unfold modCtx; split <;> rfl
@[simp] theorem modCtx_bootFail (s : State) (k : Nat) (f : Context → Context) : (modCtx s k f).bootFail = s.bootFail := by unfold modCtx; split <;> rfl
@[simp] theorem modCtx_admits (s : State) (k : Nat) (f : Context → Context) : (modCtx s k f).admits = s.admits := by unfold modCtx; split <;> rfl
@[simp] theorem modCtx_excl (s : State) (k : Nat) (f : Context → Context) : (modCtx s k f).excl = s.excl := by unfold modCtx; split <;> rfl
@[simp] theorem modCtx_attempts (s : State) (k : Nat) (f : Context → Context) : (modCtx s k f).attempts = s.attempts := by unfold modCtx; split <;> rfl
@[simp] theorem modCtx_steward (s : State) (k : Nat) (f : Context → Context) : (modCtx s k f).steward = s.steward := by unfold modCtx; split <;> rfl
@[simp] theorem modCtx_pkgid (s : State) (k : Nat) (f : Context → Context) : (modCtx s k f).pkgid = s.pkgid := by unfold modCtx; split <;> rfl
@[simp] theorem modCtx_pod (s : State) (k : Nat) (f : Context → Context) : (modCtx s k f).pod = s.pod := by unfold modCtx; split <;> rfl
@[simp] theorem modCtx_live (s : State) (k : Nat) (f : Context → Context) : (modCtx s k f).live = s.live := by unfold modCtx; split <;> rfl
@[simp] theorem modCtx_epoch (s : State) (k : Nat) (f : Context → Context) : (modCtx s k f).epoch = s.epoch := by unfold modCtx; split <;> rfl
@[simp] theorem modCtx_peerdead (s : State) (k : Nat) (f : Context → Context) : (modCtx s k f).peerdead = s.peerdead := by unfold modCtx; split <;> rfl
@[simp] theorem modCtx_inc (s : State) (k : Nat) (f : Context → Context) : (modCtx s k f).inc = s.inc := by unfold modCtx; split <;> rfl
@[simp] theorem modCtx_peerInc (s : State) (k : Nat) (f : Context → Context) : (modCtx s k f).peerInc = s.peerInc := by unfold modCtx; split <;> rfl
@[simp] theorem modCtx_links (s : State) (k : Nat) (f : Context → Context) : (modCtx s k f).links = s.links := by unfold modCtx; split <;> rfl
@[simp] theorem modCtx_tmoremote (s : State) (k : Nat) (f : Context → Context) : (modCtx s k f).tmoremote = s.tmoremote := by unfold modCtx; split <;> rfl
@[simp] theorem modCtx_elogaddr (s : State) (k : Nat) (f : Context → Context) : (modCtx s k f).elogaddr = s.elogaddr := by unfold modCtx; split <;> rfl
@[simp] theorem modCtx_elogcause (s : State) (k : Nat) (f : Context → Context) : (modCtx s k f).elogcause = s.elogcause := by unfold modCtx; split <;> rfl
@[simp] theorem modCtx_secnt (s : State) (k : Nat) (f : Context → Context) : (modCtx s k f).secnt = s.secnt := by unfold modCtx; split <;> rfl
@[simp] theorem modCtx_mvdd (s : State) (k : Nat) (f : Context → Context) : (modCtx s k f).mvdd = s.mvdd := by unfold modCtx; split <;> rfl
@[simp] theorem modCtx_mhbmt (s : State) (k : Nat) (f : Context → Context) : (modCtx s k f).mhbmt = s.mhbmt := by unfold modCtx; split <;> rfl
@[simp] theorem modCtx_mhbmv (s : State) (k : Nat) (f : Context → Context) : (modCtx s k f).mhbmv = s.mhbmv := by unfold modCtx; split <;> rfl
@[simp] theorem modCtx_meye (s : State) (k : Nat) (f : Context → Context) : (modCtx s k f).meye = s.meye := by unfold modCtx; split <;> rfl
@[simp] theorem modCtx_defmap (s : State) (k : Nat) (f : Context → Context) : (modCtx s k f).defmap = s.defmap := by unfold modCtx; split <;> rfl
@[simp] theorem modCtx_defrt (s : State) (k : Nat) (f : Context → Context) : (modCtx s k f).defrt = s.defrt := by unfold modCtx; split <;> rfl
@[simp] theorem modCtx_reqs (s : State) (k : Nat) (f : Context → Context) : (modCtx s k f).reqs = s.reqs := by unfold modCtx; split <;> rfl
@[simp] theorem modCtx_out (s : State) (k : Nat) (f : Context → Context) : (modCtx s k f).out = s.out := by unfold modCtx; split <;> rfl
@[simp] theorem modCtx_winq (s : State) (k : Nat) (f : Context → Context) : (modCtx s k f).winq = s.winq := by unfold modCtx; split <;> rfl
@[simp] theorem modCtx_resultCache (s : State) (k : Nat) (f : Context → Context) : (modCtx s k f).resultCache = s.resultCache := by unfold modCtx; split <;> rfl
@[simp] theorem modCtx_streamRecs (s : State) (k : Nat) (f : Context → Context) : (modCtx s k f).streamRecs = s.streamRecs := by unfold modCtx; split <;> rfl
@[simp] theorem modCtx_seqDone (s : State) (k : Nat) (f : Context → Context) : (modCtx s k f).seqDone = s.seqDone := by unfold modCtx; split <;> rfl
@[simp] theorem modCtx_portBufs (s : State) (k : Nat) (f : Context → Context) : (modCtx s k f).portBufs = s.portBufs := by unfold modCtx; split <;> rfl
@[simp] theorem modCtx_pendInv (s : State) (k : Nat) (f : Context → Context) : (modCtx s k f).pendInv = s.pendInv := by unfold modCtx; split <;> rfl
@[simp] theorem modCtx_partnerJ (s : State) (k : Nat) (f : Context → Context) : (modCtx s k f).partnerJ = s.partnerJ := by unfold modCtx; split <;> rfl
@[simp] theorem modCtx_partnerTb (s : State) (k : Nat) (f : Context → Context) : (modCtx s k f).partnerTb = s.partnerTb := by unfold modCtx; split <;> rfl
@[simp] theorem modCtx_cslots (s : State) (k : Nat) (f : Context → Context) : (modCtx s k f).cslots = s.cslots := by unfold modCtx; split <;> rfl
@[simp] theorem modCtx_corder (s : State) (k : Nat) (f : Context → Context) : (modCtx s k f).corder = s.corder := by unfold modCtx; split <;> rfl
@[simp] theorem modCtx_heldPk (s : State) (k : Nat) (f : Context → Context) : (modCtx s k f).heldPk = s.heldPk := by unfold modCtx; split <;> rfl
@[simp] theorem modCtx_hubFaults (s : State) (k : Nat) (f : Context → Context) : (modCtx s k f).hubFaults = s.hubFaults := by unfold modCtx; split <;> rfl
@[simp] theorem modCtx_l2lost (s : State) (k : Nat) (f : Context → Context) : (modCtx s k f).l2lost = s.l2lost := by unfold modCtx; split <;> rfl
@[simp] theorem modCtx_renewed (s : State) (k : Nat) (f : Context → Context) : (modCtx s k f).renewed = s.renewed := by unfold modCtx; split <;> rfl
@[simp] theorem modCtx_mgmtReq (s : State) (k : Nat) (f : Context → Context) : (modCtx s k f).mgmtReq = s.mgmtReq := by unfold modCtx; split <;> rfl
@[simp] theorem modCtx_devWrites (s : State) (k : Nat) (f : Context → Context) : (modCtx s k f).devWrites = s.devWrites := by unfold modCtx; split <;> rfl
@[simp] theorem modCtx_uePorts (s : State) (k : Nat) (f : Context → Context) : (modCtx s k f).uePorts = s.uePorts := by unfold modCtx; split <;> rfl
@[simp] theorem modCtx_held (s : State) (k : Nat) (f : Context → Context) : (modCtx s k f).held = s.held := by unfold modCtx; split <;> rfl
@[simp] theorem modCtx_marks (s : State) (k : Nat) (f : Context → Context) : (modCtx s k f).marks = s.marks := by unfold modCtx; split <;> rfl
@[simp] theorem modCtx_cposts (s : State) (k : Nat) (f : Context → Context) : (modCtx s k f).cposts = s.cposts := by unfold modCtx; split <;> rfl

/-! ### modStream -/

@[simp] theorem modStream_timing (s : State) (k n : Nat) (f : Stream → Stream) : (modStream s k n f).timing = s.timing := modCtx_timing s k _
@[simp] theorem modStream_inbox (s : State) (k n : Nat) (f : Stream → Stream) : (modStream s k n f).inbox = s.inbox := modCtx_inbox s k _
@[simp] theorem modStream_msg (s : State) (k n : Nat) (f : Stream → Stream) : (modStream s k n f).msg = s.msg := modCtx_msg s k _
@[simp] theorem modStream_iss (s : State) (k n : Nat) (f : Stream → Stream) : (modStream s k n f).iss = s.iss := modCtx_iss s k _
@[simp] theorem modStream_stamp (s : State) (k n : Nat) (f : Stream → Stream) : (modStream s k n f).stamp = s.stamp := modCtx_stamp s k _
@[simp] theorem modStream_free (s : State) (k n : Nat) (f : Stream → Stream) : (modStream s k n f).free = s.free := modCtx_free s k _
@[simp] theorem modStream_hostRead (s : State) (k n : Nat) (f : Stream → Stream) : (modStream s k n f).hostRead = s.hostRead := modCtx_hostRead s k _
@[simp] theorem modStream_teams (s : State) (k n : Nat) (f : Stream → Stream) : (modStream s k n f).teams = s.teams := modCtx_teams s k _
@[simp] theorem modStream_cores (s : State) (k n : Nat) (f : Stream → Stream) : (modStream s k n f).cores = s.cores := modCtx_cores s k _
@[simp] theorem modStream_engines (s : State) (k n : Nat) (f : Stream → Stream) : (modStream s k n f).engines = s.engines := modCtx_engines s k _
@[simp] theorem modStream_dies (s : State) (k n : Nat) (f : Stream → Stream) : (modStream s k n f).dies = s.dies := modCtx_dies s k _
@[simp] theorem modStream_mem (s : State) (k n : Nat) (f : Stream → Stream) : (modStream s k n f).mem = s.mem := modCtx_mem s k _
@[simp] theorem modStream_poison (s : State) (k n : Nat) (f : Stream → Stream) : (modStream s k n f).poison = s.poison := modCtx_poison s k _
@[simp] theorem modStream_upsets (s : State) (k n : Nat) (f : Stream → Stream) : (modStream s k n f).upsets = s.upsets := modCtx_upsets s k _
@[simp] theorem modStream_l2 (s : State) (k n : Nat) (f : Stream → Stream) : (modStream s k n f).l2 = s.l2 := modCtx_l2 s k _
@[simp] theorem modStream_wpm (s : State) (k n : Nat) (f : Stream → Stream) : (modStream s k n f).wpm = s.wpm := modCtx_wpm s k _
@[simp] theorem modStream_exported (s : State) (k n : Nat) (f : Stream → Stream) : (modStream s k n f).exported = s.exported := modCtx_exported s k _
@[simp] theorem modStream_migrating (s : State) (k n : Nat) (f : Stream → Stream) : (modStream s k n f).migrating = s.migrating := modCtx_migrating s k _
@[simp] theorem modStream_launches (s : State) (k n : Nat) (f : Stream → Stream) : (modStream s k n f).launches = s.launches := modCtx_launches s k _
@[simp] theorem modStream_lseq (s : State) (k n : Nat) (f : Stream → Stream) : (modStream s k n f).lseq = s.lseq := modCtx_lseq s k _
@[simp] theorem modStream_served (s : State) (k n : Nat) (f : Stream → Stream) : (modStream s k n f).served = s.served := modCtx_served s k _
@[simp] theorem modStream_head (s : State) (k n : Nat) (f : Stream → Stream) : (modStream s k n f).head = s.head := modCtx_head s k _
@[simp] theorem modStream_images (s : State) (k n : Nat) (f : Stream → Stream) : (modStream s k n f).images = s.images := modCtx_images s k _
@[simp] theorem modStream_preempting (s : State) (k n : Nat) (f : Stream → Stream) : (modStream s k n f).preempting = s.preempting := modCtx_preempting s k _
@[simp] theorem modStream_rects (s : State) (k n : Nat) (f : Stream → Stream) : (modStream s k n f).rects = s.rects := modCtx_rects s k _
@[simp] theorem modStream_svcq (s : State) (k n : Nat) (f : Stream → Stream) : (modStream s k n f).svcq = s.svcq := modCtx_svcq s k _
@[simp] theorem modStream_svcStat (s : State) (k n : Nat) (f : Stream → Stream) : (modStream s k n f).svcStat = s.svcStat := modCtx_svcStat s k _
@[simp] theorem modStream_mboxes (s : State) (k n : Nat) (f : Stream → Stream) : (modStream s k n f).mboxes = s.mboxes := modCtx_mboxes s k _
@[simp] theorem modStream_mgmt (s : State) (k n : Nat) (f : Stream → Stream) : (modStream s k n f).mgmt = s.mgmt := modCtx_mgmt s k _
@[simp] theorem modStream_powered (s : State) (k n : Nat) (f : Stream → Stream) : (modStream s k n f).powered = s.powered := modCtx_powered s k _
@[simp] theorem modStream_stage (s : State) (k n : Nat) (f : Stream → Stream) : (modStream s k n f).stage = s.stage := modCtx_stage s k _
@[simp] theorem modStream_svclvl (s : State) (k n : Nat) (f : Stream → Stream) : (modStream s k n f).svclvl = s.svclvl := modCtx_svclvl s k _
@[simp] theorem modStream_bootFail (s : State) (k n : Nat) (f : Stream → Stream) : (modStream s k n f).bootFail = s.bootFail := modCtx_bootFail s k _
@[simp] theorem modStream_admits (s : State) (k n : Nat) (f : Stream → Stream) : (modStream s k n f).admits = s.admits := modCtx_admits s k _
@[simp] theorem modStream_excl (s : State) (k n : Nat) (f : Stream → Stream) : (modStream s k n f).excl = s.excl := modCtx_excl s k _
@[simp] theorem modStream_attempts (s : State) (k n : Nat) (f : Stream → Stream) : (modStream s k n f).attempts = s.attempts := modCtx_attempts s k _
@[simp] theorem modStream_steward (s : State) (k n : Nat) (f : Stream → Stream) : (modStream s k n f).steward = s.steward := modCtx_steward s k _
@[simp] theorem modStream_pkgid (s : State) (k n : Nat) (f : Stream → Stream) : (modStream s k n f).pkgid = s.pkgid := modCtx_pkgid s k _
@[simp] theorem modStream_pod (s : State) (k n : Nat) (f : Stream → Stream) : (modStream s k n f).pod = s.pod := modCtx_pod s k _
@[simp] theorem modStream_live (s : State) (k n : Nat) (f : Stream → Stream) : (modStream s k n f).live = s.live := modCtx_live s k _
@[simp] theorem modStream_epoch (s : State) (k n : Nat) (f : Stream → Stream) : (modStream s k n f).epoch = s.epoch := modCtx_epoch s k _
@[simp] theorem modStream_peerdead (s : State) (k n : Nat) (f : Stream → Stream) : (modStream s k n f).peerdead = s.peerdead := modCtx_peerdead s k _
@[simp] theorem modStream_inc (s : State) (k n : Nat) (f : Stream → Stream) : (modStream s k n f).inc = s.inc := modCtx_inc s k _
@[simp] theorem modStream_peerInc (s : State) (k n : Nat) (f : Stream → Stream) : (modStream s k n f).peerInc = s.peerInc := modCtx_peerInc s k _
@[simp] theorem modStream_links (s : State) (k n : Nat) (f : Stream → Stream) : (modStream s k n f).links = s.links := modCtx_links s k _
@[simp] theorem modStream_tmoremote (s : State) (k n : Nat) (f : Stream → Stream) : (modStream s k n f).tmoremote = s.tmoremote := modCtx_tmoremote s k _
@[simp] theorem modStream_elogaddr (s : State) (k n : Nat) (f : Stream → Stream) : (modStream s k n f).elogaddr = s.elogaddr := modCtx_elogaddr s k _
@[simp] theorem modStream_elogcause (s : State) (k n : Nat) (f : Stream → Stream) : (modStream s k n f).elogcause = s.elogcause := modCtx_elogcause s k _
@[simp] theorem modStream_secnt (s : State) (k n : Nat) (f : Stream → Stream) : (modStream s k n f).secnt = s.secnt := modCtx_secnt s k _
@[simp] theorem modStream_mvdd (s : State) (k n : Nat) (f : Stream → Stream) : (modStream s k n f).mvdd = s.mvdd := modCtx_mvdd s k _
@[simp] theorem modStream_mhbmt (s : State) (k n : Nat) (f : Stream → Stream) : (modStream s k n f).mhbmt = s.mhbmt := modCtx_mhbmt s k _
@[simp] theorem modStream_mhbmv (s : State) (k n : Nat) (f : Stream → Stream) : (modStream s k n f).mhbmv = s.mhbmv := modCtx_mhbmv s k _
@[simp] theorem modStream_meye (s : State) (k n : Nat) (f : Stream → Stream) : (modStream s k n f).meye = s.meye := modCtx_meye s k _
@[simp] theorem modStream_defmap (s : State) (k n : Nat) (f : Stream → Stream) : (modStream s k n f).defmap = s.defmap := modCtx_defmap s k _
@[simp] theorem modStream_defrt (s : State) (k n : Nat) (f : Stream → Stream) : (modStream s k n f).defrt = s.defrt := modCtx_defrt s k _
@[simp] theorem modStream_reqs (s : State) (k n : Nat) (f : Stream → Stream) : (modStream s k n f).reqs = s.reqs := modCtx_reqs s k _
@[simp] theorem modStream_out (s : State) (k n : Nat) (f : Stream → Stream) : (modStream s k n f).out = s.out := modCtx_out s k _
@[simp] theorem modStream_winq (s : State) (k n : Nat) (f : Stream → Stream) : (modStream s k n f).winq = s.winq := modCtx_winq s k _
@[simp] theorem modStream_resultCache (s : State) (k n : Nat) (f : Stream → Stream) : (modStream s k n f).resultCache = s.resultCache := modCtx_resultCache s k _
@[simp] theorem modStream_streamRecs (s : State) (k n : Nat) (f : Stream → Stream) : (modStream s k n f).streamRecs = s.streamRecs := modCtx_streamRecs s k _
@[simp] theorem modStream_seqDone (s : State) (k n : Nat) (f : Stream → Stream) : (modStream s k n f).seqDone = s.seqDone := modCtx_seqDone s k _
@[simp] theorem modStream_portBufs (s : State) (k n : Nat) (f : Stream → Stream) : (modStream s k n f).portBufs = s.portBufs := modCtx_portBufs s k _
@[simp] theorem modStream_pendInv (s : State) (k n : Nat) (f : Stream → Stream) : (modStream s k n f).pendInv = s.pendInv := modCtx_pendInv s k _
@[simp] theorem modStream_partnerJ (s : State) (k n : Nat) (f : Stream → Stream) : (modStream s k n f).partnerJ = s.partnerJ := modCtx_partnerJ s k _
@[simp] theorem modStream_partnerTb (s : State) (k n : Nat) (f : Stream → Stream) : (modStream s k n f).partnerTb = s.partnerTb := modCtx_partnerTb s k _
@[simp] theorem modStream_cslots (s : State) (k n : Nat) (f : Stream → Stream) : (modStream s k n f).cslots = s.cslots := modCtx_cslots s k _
@[simp] theorem modStream_corder (s : State) (k n : Nat) (f : Stream → Stream) : (modStream s k n f).corder = s.corder := modCtx_corder s k _
@[simp] theorem modStream_heldPk (s : State) (k n : Nat) (f : Stream → Stream) : (modStream s k n f).heldPk = s.heldPk := modCtx_heldPk s k _
@[simp] theorem modStream_hubFaults (s : State) (k n : Nat) (f : Stream → Stream) : (modStream s k n f).hubFaults = s.hubFaults := modCtx_hubFaults s k _
@[simp] theorem modStream_l2lost (s : State) (k n : Nat) (f : Stream → Stream) : (modStream s k n f).l2lost = s.l2lost := modCtx_l2lost s k _
@[simp] theorem modStream_renewed (s : State) (k n : Nat) (f : Stream → Stream) : (modStream s k n f).renewed = s.renewed := modCtx_renewed s k _
@[simp] theorem modStream_mgmtReq (s : State) (k n : Nat) (f : Stream → Stream) : (modStream s k n f).mgmtReq = s.mgmtReq := modCtx_mgmtReq s k _
@[simp] theorem modStream_devWrites (s : State) (k n : Nat) (f : Stream → Stream) : (modStream s k n f).devWrites = s.devWrites := modCtx_devWrites s k _
@[simp] theorem modStream_uePorts (s : State) (k n : Nat) (f : Stream → Stream) : (modStream s k n f).uePorts = s.uePorts := modCtx_uePorts s k _
@[simp] theorem modStream_held (s : State) (k n : Nat) (f : Stream → Stream) : (modStream s k n f).held = s.held := modCtx_held s k _
@[simp] theorem modStream_marks (s : State) (k n : Nat) (f : Stream → Stream) : (modStream s k n f).marks = s.marks := modCtx_marks s k _
@[simp] theorem modStream_cposts (s : State) (k n : Nat) (f : Stream → Stream) : (modStream s k n f).cposts = s.cposts := modCtx_cposts s k _

/-! ### modLaunch -/

@[simp] theorem modLaunch_timing (s : State) (k : Nat) (f : Launch → Launch) : (modLaunch s k f).timing = s.timing := by unfold modLaunch; split <;> rfl
@[simp] theorem modLaunch_inbox (s : State) (k : Nat) (f : Launch → Launch) : (modLaunch s k f).inbox = s.inbox := by unfold modLaunch; split <;> rfl
@[simp] theorem modLaunch_msg (s : State) (k : Nat) (f : Launch → Launch) : (modLaunch s k f).msg = s.msg := by unfold modLaunch; split <;> rfl
@[simp] theorem modLaunch_iss (s : State) (k : Nat) (f : Launch → Launch) : (modLaunch s k f).iss = s.iss := by unfold modLaunch; split <;> rfl
@[simp] theorem modLaunch_stamp (s : State) (k : Nat) (f : Launch → Launch) : (modLaunch s k f).stamp = s.stamp := by unfold modLaunch; split <;> rfl
@[simp] theorem modLaunch_free (s : State) (k : Nat) (f : Launch → Launch) : (modLaunch s k f).free = s.free := by unfold modLaunch; split <;> rfl
@[simp] theorem modLaunch_hostRead (s : State) (k : Nat) (f : Launch → Launch) : (modLaunch s k f).hostRead = s.hostRead := by unfold modLaunch; split <;> rfl
@[simp] theorem modLaunch_teams (s : State) (k : Nat) (f : Launch → Launch) : (modLaunch s k f).teams = s.teams := by unfold modLaunch; split <;> rfl
@[simp] theorem modLaunch_cores (s : State) (k : Nat) (f : Launch → Launch) : (modLaunch s k f).cores = s.cores := by unfold modLaunch; split <;> rfl
@[simp] theorem modLaunch_engines (s : State) (k : Nat) (f : Launch → Launch) : (modLaunch s k f).engines = s.engines := by unfold modLaunch; split <;> rfl
@[simp] theorem modLaunch_dies (s : State) (k : Nat) (f : Launch → Launch) : (modLaunch s k f).dies = s.dies := by unfold modLaunch; split <;> rfl
@[simp] theorem modLaunch_mem (s : State) (k : Nat) (f : Launch → Launch) : (modLaunch s k f).mem = s.mem := by unfold modLaunch; split <;> rfl
@[simp] theorem modLaunch_poison (s : State) (k : Nat) (f : Launch → Launch) : (modLaunch s k f).poison = s.poison := by unfold modLaunch; split <;> rfl
@[simp] theorem modLaunch_upsets (s : State) (k : Nat) (f : Launch → Launch) : (modLaunch s k f).upsets = s.upsets := by unfold modLaunch; split <;> rfl
@[simp] theorem modLaunch_l2 (s : State) (k : Nat) (f : Launch → Launch) : (modLaunch s k f).l2 = s.l2 := by unfold modLaunch; split <;> rfl
@[simp] theorem modLaunch_wpm (s : State) (k : Nat) (f : Launch → Launch) : (modLaunch s k f).wpm = s.wpm := by unfold modLaunch; split <;> rfl
@[simp] theorem modLaunch_exported (s : State) (k : Nat) (f : Launch → Launch) : (modLaunch s k f).exported = s.exported := by unfold modLaunch; split <;> rfl
@[simp] theorem modLaunch_migrating (s : State) (k : Nat) (f : Launch → Launch) : (modLaunch s k f).migrating = s.migrating := by unfold modLaunch; split <;> rfl
@[simp] theorem modLaunch_ctxs (s : State) (k : Nat) (f : Launch → Launch) : (modLaunch s k f).ctxs = s.ctxs := by unfold modLaunch; split <;> rfl
@[simp] theorem modLaunch_lseq (s : State) (k : Nat) (f : Launch → Launch) : (modLaunch s k f).lseq = s.lseq := by unfold modLaunch; split <;> rfl
@[simp] theorem modLaunch_served (s : State) (k : Nat) (f : Launch → Launch) : (modLaunch s k f).served = s.served := by unfold modLaunch; split <;> rfl
@[simp] theorem modLaunch_head (s : State) (k : Nat) (f : Launch → Launch) : (modLaunch s k f).head = s.head := by unfold modLaunch; split <;> rfl
@[simp] theorem modLaunch_images (s : State) (k : Nat) (f : Launch → Launch) : (modLaunch s k f).images = s.images := by unfold modLaunch; split <;> rfl
@[simp] theorem modLaunch_preempting (s : State) (k : Nat) (f : Launch → Launch) : (modLaunch s k f).preempting = s.preempting := by unfold modLaunch; split <;> rfl
@[simp] theorem modLaunch_rects (s : State) (k : Nat) (f : Launch → Launch) : (modLaunch s k f).rects = s.rects := by unfold modLaunch; split <;> rfl
@[simp] theorem modLaunch_svcq (s : State) (k : Nat) (f : Launch → Launch) : (modLaunch s k f).svcq = s.svcq := by unfold modLaunch; split <;> rfl
@[simp] theorem modLaunch_svcStat (s : State) (k : Nat) (f : Launch → Launch) : (modLaunch s k f).svcStat = s.svcStat := by unfold modLaunch; split <;> rfl
@[simp] theorem modLaunch_mboxes (s : State) (k : Nat) (f : Launch → Launch) : (modLaunch s k f).mboxes = s.mboxes := by unfold modLaunch; split <;> rfl
@[simp] theorem modLaunch_mgmt (s : State) (k : Nat) (f : Launch → Launch) : (modLaunch s k f).mgmt = s.mgmt := by unfold modLaunch; split <;> rfl
@[simp] theorem modLaunch_powered (s : State) (k : Nat) (f : Launch → Launch) : (modLaunch s k f).powered = s.powered := by unfold modLaunch; split <;> rfl
@[simp] theorem modLaunch_stage (s : State) (k : Nat) (f : Launch → Launch) : (modLaunch s k f).stage = s.stage := by unfold modLaunch; split <;> rfl
@[simp] theorem modLaunch_svclvl (s : State) (k : Nat) (f : Launch → Launch) : (modLaunch s k f).svclvl = s.svclvl := by unfold modLaunch; split <;> rfl
@[simp] theorem modLaunch_bootFail (s : State) (k : Nat) (f : Launch → Launch) : (modLaunch s k f).bootFail = s.bootFail := by unfold modLaunch; split <;> rfl
@[simp] theorem modLaunch_admits (s : State) (k : Nat) (f : Launch → Launch) : (modLaunch s k f).admits = s.admits := by unfold modLaunch; split <;> rfl
@[simp] theorem modLaunch_excl (s : State) (k : Nat) (f : Launch → Launch) : (modLaunch s k f).excl = s.excl := by unfold modLaunch; split <;> rfl
@[simp] theorem modLaunch_attempts (s : State) (k : Nat) (f : Launch → Launch) : (modLaunch s k f).attempts = s.attempts := by unfold modLaunch; split <;> rfl
@[simp] theorem modLaunch_steward (s : State) (k : Nat) (f : Launch → Launch) : (modLaunch s k f).steward = s.steward := by unfold modLaunch; split <;> rfl
@[simp] theorem modLaunch_pkgid (s : State) (k : Nat) (f : Launch → Launch) : (modLaunch s k f).pkgid = s.pkgid := by unfold modLaunch; split <;> rfl
@[simp] theorem modLaunch_pod (s : State) (k : Nat) (f : Launch → Launch) : (modLaunch s k f).pod = s.pod := by unfold modLaunch; split <;> rfl
@[simp] theorem modLaunch_live (s : State) (k : Nat) (f : Launch → Launch) : (modLaunch s k f).live = s.live := by unfold modLaunch; split <;> rfl
@[simp] theorem modLaunch_epoch (s : State) (k : Nat) (f : Launch → Launch) : (modLaunch s k f).epoch = s.epoch := by unfold modLaunch; split <;> rfl
@[simp] theorem modLaunch_peerdead (s : State) (k : Nat) (f : Launch → Launch) : (modLaunch s k f).peerdead = s.peerdead := by unfold modLaunch; split <;> rfl
@[simp] theorem modLaunch_inc (s : State) (k : Nat) (f : Launch → Launch) : (modLaunch s k f).inc = s.inc := by unfold modLaunch; split <;> rfl
@[simp] theorem modLaunch_peerInc (s : State) (k : Nat) (f : Launch → Launch) : (modLaunch s k f).peerInc = s.peerInc := by unfold modLaunch; split <;> rfl
@[simp] theorem modLaunch_links (s : State) (k : Nat) (f : Launch → Launch) : (modLaunch s k f).links = s.links := by unfold modLaunch; split <;> rfl
@[simp] theorem modLaunch_tmoremote (s : State) (k : Nat) (f : Launch → Launch) : (modLaunch s k f).tmoremote = s.tmoremote := by unfold modLaunch; split <;> rfl
@[simp] theorem modLaunch_elogaddr (s : State) (k : Nat) (f : Launch → Launch) : (modLaunch s k f).elogaddr = s.elogaddr := by unfold modLaunch; split <;> rfl
@[simp] theorem modLaunch_elogcause (s : State) (k : Nat) (f : Launch → Launch) : (modLaunch s k f).elogcause = s.elogcause := by unfold modLaunch; split <;> rfl
@[simp] theorem modLaunch_secnt (s : State) (k : Nat) (f : Launch → Launch) : (modLaunch s k f).secnt = s.secnt := by unfold modLaunch; split <;> rfl
@[simp] theorem modLaunch_mvdd (s : State) (k : Nat) (f : Launch → Launch) : (modLaunch s k f).mvdd = s.mvdd := by unfold modLaunch; split <;> rfl
@[simp] theorem modLaunch_mhbmt (s : State) (k : Nat) (f : Launch → Launch) : (modLaunch s k f).mhbmt = s.mhbmt := by unfold modLaunch; split <;> rfl
@[simp] theorem modLaunch_mhbmv (s : State) (k : Nat) (f : Launch → Launch) : (modLaunch s k f).mhbmv = s.mhbmv := by unfold modLaunch; split <;> rfl
@[simp] theorem modLaunch_meye (s : State) (k : Nat) (f : Launch → Launch) : (modLaunch s k f).meye = s.meye := by unfold modLaunch; split <;> rfl
@[simp] theorem modLaunch_defmap (s : State) (k : Nat) (f : Launch → Launch) : (modLaunch s k f).defmap = s.defmap := by unfold modLaunch; split <;> rfl
@[simp] theorem modLaunch_defrt (s : State) (k : Nat) (f : Launch → Launch) : (modLaunch s k f).defrt = s.defrt := by unfold modLaunch; split <;> rfl
@[simp] theorem modLaunch_reqs (s : State) (k : Nat) (f : Launch → Launch) : (modLaunch s k f).reqs = s.reqs := by unfold modLaunch; split <;> rfl
@[simp] theorem modLaunch_out (s : State) (k : Nat) (f : Launch → Launch) : (modLaunch s k f).out = s.out := by unfold modLaunch; split <;> rfl
@[simp] theorem modLaunch_winq (s : State) (k : Nat) (f : Launch → Launch) : (modLaunch s k f).winq = s.winq := by unfold modLaunch; split <;> rfl
@[simp] theorem modLaunch_resultCache (s : State) (k : Nat) (f : Launch → Launch) : (modLaunch s k f).resultCache = s.resultCache := by unfold modLaunch; split <;> rfl
@[simp] theorem modLaunch_streamRecs (s : State) (k : Nat) (f : Launch → Launch) : (modLaunch s k f).streamRecs = s.streamRecs := by unfold modLaunch; split <;> rfl
@[simp] theorem modLaunch_seqDone (s : State) (k : Nat) (f : Launch → Launch) : (modLaunch s k f).seqDone = s.seqDone := by unfold modLaunch; split <;> rfl
@[simp] theorem modLaunch_portBufs (s : State) (k : Nat) (f : Launch → Launch) : (modLaunch s k f).portBufs = s.portBufs := by unfold modLaunch; split <;> rfl
@[simp] theorem modLaunch_pendInv (s : State) (k : Nat) (f : Launch → Launch) : (modLaunch s k f).pendInv = s.pendInv := by unfold modLaunch; split <;> rfl
@[simp] theorem modLaunch_partnerJ (s : State) (k : Nat) (f : Launch → Launch) : (modLaunch s k f).partnerJ = s.partnerJ := by unfold modLaunch; split <;> rfl
@[simp] theorem modLaunch_partnerTb (s : State) (k : Nat) (f : Launch → Launch) : (modLaunch s k f).partnerTb = s.partnerTb := by unfold modLaunch; split <;> rfl
@[simp] theorem modLaunch_cslots (s : State) (k : Nat) (f : Launch → Launch) : (modLaunch s k f).cslots = s.cslots := by unfold modLaunch; split <;> rfl
@[simp] theorem modLaunch_corder (s : State) (k : Nat) (f : Launch → Launch) : (modLaunch s k f).corder = s.corder := by unfold modLaunch; split <;> rfl
@[simp] theorem modLaunch_heldPk (s : State) (k : Nat) (f : Launch → Launch) : (modLaunch s k f).heldPk = s.heldPk := by unfold modLaunch; split <;> rfl
@[simp] theorem modLaunch_hubFaults (s : State) (k : Nat) (f : Launch → Launch) : (modLaunch s k f).hubFaults = s.hubFaults := by unfold modLaunch; split <;> rfl
@[simp] theorem modLaunch_l2lost (s : State) (k : Nat) (f : Launch → Launch) : (modLaunch s k f).l2lost = s.l2lost := by unfold modLaunch; split <;> rfl
@[simp] theorem modLaunch_renewed (s : State) (k : Nat) (f : Launch → Launch) : (modLaunch s k f).renewed = s.renewed := by unfold modLaunch; split <;> rfl
@[simp] theorem modLaunch_mgmtReq (s : State) (k : Nat) (f : Launch → Launch) : (modLaunch s k f).mgmtReq = s.mgmtReq := by unfold modLaunch; split <;> rfl
@[simp] theorem modLaunch_devWrites (s : State) (k : Nat) (f : Launch → Launch) : (modLaunch s k f).devWrites = s.devWrites := by unfold modLaunch; split <;> rfl
@[simp] theorem modLaunch_uePorts (s : State) (k : Nat) (f : Launch → Launch) : (modLaunch s k f).uePorts = s.uePorts := by unfold modLaunch; split <;> rfl
@[simp] theorem modLaunch_held (s : State) (k : Nat) (f : Launch → Launch) : (modLaunch s k f).held = s.held := by unfold modLaunch; split <;> rfl
@[simp] theorem modLaunch_marks (s : State) (k : Nat) (f : Launch → Launch) : (modLaunch s k f).marks = s.marks := by unfold modLaunch; split <;> rfl
@[simp] theorem modLaunch_cposts (s : State) (k : Nat) (f : Launch → Launch) : (modLaunch s k f).cposts = s.cposts := by unfold modLaunch; split <;> rfl

/-! ### What an update gives -/

@[simp] theorem setTeam_teams (s : State) (k : Nat) (x : Team) : (setTeam s k x).teams = tset s.teams k x := rfl

theorem setTeam_get (s : State) (k : Nat) (x : Team) : tget (setTeam s k x).teams k = some x := by simp

@[simp] theorem setTeam_setTeam (s : State) (k : Nat) (x y : Team) : setTeam (setTeam s k x) k y = setTeam s k y := by
  simp [setTeam]

/-- A team that is there is replaced. -/
theorem modTeam_eq {s : State} {k : Nat} {t : Team} (h : tget s.teams k = some t) (f : Team → Team) :
    modTeam s k f = setTeam s k (f t) := by simp [modTeam, h]

/-- Where no team is, nothing changes. -/
theorem modTeam_none {s : State} {k : Nat} (h : tget s.teams k = none) (f : Team → Team) : modTeam s k f = s := by
  simp [modTeam, h]

theorem modTeam_get {s : State} {k : Nat} {t : Team} (h : tget s.teams k = some t) (f : Team → Team) :
    tget (modTeam s k f).teams k = some (f t) := by simp [modTeam_eq h]

theorem modTeam_get_ne (s : State) {k j : Nat} (h : j ≠ k) (f : Team → Team) : tget (modTeam s k f).teams j = tget s.teams j := by
  unfold modTeam; split
  · simp [tget_tset_ne _ _ h]
  · rfl

/-- A group that is there is replaced. -/
theorem modGroup_eq {s : State} {k n : Nat} {t : Team} {g : Group} (h : tget s.teams k = some t) (hg : tget t.groups n = some g)
    (f : Group → Group) : modGroup s k n f = setTeam s k { t with groups := tset t.groups n (f g) } := by
  simp [modGroup, modTeam_eq h, Team.modGroup, hg]

theorem groupAt_eq {s : State} {k n : Nat} {t : Team} {g : Group} (h : tget s.teams k = some t) (hg : tget t.groups n = some g) :
    groupAt s k n = some g := by simp [groupAt, h, hg]

theorem groupAt_setTeam (s : State) (k n : Nat) (t : Team) : groupAt (setTeam s k t) k n = tget t.groups n := by simp [groupAt]

@[simp] theorem recOf_setTeam (s : State) (k : Nat) (x t : Team) : recOf (setTeam s k x) t = recOf s t := rfl
@[simp] theorem teamCtx_setTeam (s : State) (k : Nat) (x t : Team) : teamCtx (setTeam s k x) t = teamCtx s t := rfl
@[simp] theorem isService_setTeam (s : State) (k : Nat) (x t : Team) : isService (setTeam s k x) t = isService s t := rfl

end Sys2Proof.Machine
end

