-- ==== Sys2Proof/Laws/Ops.lean ====
section
/-! SUPPORT. What the operations that instructions share can do: writes of registers, retirement, the offer for
issue, and the issue itself. -/

namespace Sys2Proof.Machine

/-! ### Lanes -/

theorem lane_modLane (g : Group) (l k : Nat) (f : Thread → Thread) (hk : k < g.threads.length) :
    (g.modLane l f).lane k = if k = l then f (g.lane k) else g.lane k := by
  have hk' : k < (g.threads.modify l f).length := by simpa using hk
  simp only [Group.lane, Group.modLane, List.getD_eq_getElem?_getD, List.getElem?_modify]
  by_cases h : l = k
  · subst h; simp [List.getElem?_eq_getElem hk]
  · have h' : ¬ k = l := fun e => h e.symm
    simp [h, h']

theorem lane_out (g : Group) (k : Nat) (hk : g.threads.length ≤ k) : g.lane k = Thread.empty := by
  simp [Group.lane, List.getD_eq_getElem?_getD, List.getElem?_eq_none hk]

@[simp] theorem modLane_length (g : Group) (l : Nat) (f : Thread → Thread) : (g.modLane l f).threads.length = g.threads.length := by
  simp [Group.modLane]

/-- Lanes that take part are lanes of the group. -/
theorem activeLanes_lt {g : Group} {pc : Word} {l : Nat} (h : l ∈ activeLanes g pc) : l < g.threads.length := by
  simp only [activeLanes, laneList, List.mem_filter, List.mem_range] at h
  exact h.1

theorem activeLanes_nodup (g : Group) (pc : Word) : (activeLanes g pc).Nodup :=
  (List.nodup_range).filter _

/-! ### Writes of registers -/

/-- Nothing is written. -/
theorem GroupWrites.refl (g : Group) : GroupWrites g g noWrite (fun _ => none) noWrite :=
  ⟨rfl, rfl, fun _ => rfl, fun _ _ => rfl, fun _ => rfl, fun _ _ => rfl, fun _ _ => by simp [noWrite], fun _ => by simp⟩

/-- A write of a v-register of a lane. -/
theorem groupWrites_writeV (g : Group) (l n : Nat) (x : Word) (hl : l < g.threads.length) :
    GroupWrites g (g.writeV l n x) (fun k m => if k = l ∧ m = n then some x else none) (fun _ => none) noWrite where
  rest := rfl
  width := by simp [Group.writeV]
  threads k := by
    by_cases hk : k < g.threads.length
    · rw [Group.writeV, lane_modLane g l k _ hk]; split <;> rfl
    · have hk := Nat.le_of_not_lt hk
      rw [lane_out g k hk, lane_out _ k (by simpa [Group.writeV] using hk)]
  vregs k m := by
    by_cases hk : k < g.threads.length
    · rw [Group.writeV, lane_modLane g l k _ hk]
      by_cases h : k = l
      · simp only [h, if_true, true_and, Thread.writeV, wget_wset]; split <;> rfl
      · simp [h]
    · have hk := Nat.le_of_not_lt hk
      rw [lane_out g k hk, lane_out _ k (by simpa [Group.writeV] using hk), if_neg (by omega)]; rfl
  sregs n := rfl
  preds k m := by
    by_cases hk : k < g.threads.length
    · rw [Group.writeV, lane_modLane g l k _ hk]; split <;> rfl
    · have hk := Nat.le_of_not_lt hk
      rw [lane_out g k hk, lane_out _ k (by simpa [Group.writeV] using hk)]; rfl
  vlost k m := by
    by_cases hk : k < g.threads.length
    · rw [Group.writeV, lane_modLane g l k _ hk]
      by_cases h : k = l
      · simp only [h, if_true, true_and, Thread.writeV, List.mem_filter]
        by_cases hm : m = n <;> simp [hm]
      · simp [h]
    · have hk := Nat.le_of_not_lt hk
      rw [lane_out g k hk, lane_out _ k (by simpa [Group.writeV] using hk), if_neg (by omega)]; simp
  slost m := by simp [Group.writeV, Group.modLane]

/-- A write of an s-register. -/
theorem groupWrites_writeS (g : Group) (n : Nat) (x : Word) :
    GroupWrites g (g.writeS n x) noWrite (fun m => if m = n then some x else none) noWrite where
  rest := rfl
  width := rfl
  threads _ := rfl
  vregs _ _ := rfl
  sregs m := by simp only [Group.writeS, wget_wset]; split <;> rfl
  preds _ _ := rfl
  vlost _ _ := by simp [noWrite, Group.writeS, Group.lane]
  slost m := by
    simp only [Group.writeS, List.mem_filter]
    by_cases hm : m = n <;> simp [hm]

theorem getLsbD_writeP (t : Thread) (n m : Nat) (b : Bool) (hn : n < 128) :
    (t.writeP n b).p.getLsbD m = if n ≠ 0 ∧ m = n then b else t.p.getLsbD m := by
  unfold Thread.writeP
  by_cases h0 : n = 0
  · simp [h0]
  · simp only [h0, if_false, ne_eq, not_false_eq_true, true_and]
    by_cases hm : m < 128
    · cases b <;> simp [hm] <;> by_cases h : m = n <;> simp [h] <;> omega
    · have h : ¬ m = n := by omega
      rw [if_neg h, BitVec.getLsbD_of_ge _ _ (by omega), BitVec.getLsbD_of_ge _ _ (by omega)]

/-- A write of a predicate of a lane. -/
theorem groupWrites_writeP (g : Group) (l n : Nat) (b : Bool) (hl : l < g.threads.length) (hn : n < 128) :
    GroupWrites g (g.writeP l n b) noWrite (fun _ => none) (fun k m => if n ≠ 0 ∧ k = l ∧ m = n then some b else none) where
  rest := rfl
  width := by simp [Group.writeP]
  threads k := by
    by_cases hk : k < g.threads.length
    · rw [Group.writeP, lane_modLane g l k _ hk]
      split
      · unfold Thread.writeP; split <;> rfl
      · rfl
    · have hk := Nat.le_of_not_lt hk
      rw [lane_out g k hk, lane_out _ k (by simpa [Group.writeP] using hk)]
  vregs k m := by
    by_cases hk : k < g.threads.length
    · rw [Group.writeP, lane_modLane g l k _ hk]
      split
      · unfold Thread.writeP; split <;> rfl
      · rfl
    · have hk := Nat.le_of_not_lt hk
      rw [lane_out g k hk, lane_out _ k (by simpa [Group.writeP] using hk)]; rfl
  sregs n := rfl
  preds k m := by
    by_cases hk : k < g.threads.length
    · rw [Group.writeP, lane_modLane g l k _ hk]
      by_cases h : k = l
      · simp only [h, if_true, true_and, getLsbD_writeP _ _ _ _ hn]; split <;> rfl
      · simp [h]
    · have hk := Nat.le_of_not_lt hk
      rw [lane_out g k hk, lane_out _ k (by simpa [Group.writeP] using hk), if_neg (by omega)]; rfl
  vlost k m := by
    by_cases hk : k < g.threads.length
    · rw [Group.writeP, lane_modLane g l k _ hk]
      split
      · unfold Thread.writeP; split <;> simp [noWrite]
      · simp [noWrite]
    · have hk := Nat.le_of_not_lt hk
      rw [lane_out g k hk, lane_out _ k (by simpa [Group.writeP] using hk)]; simp [noWrite]
  slost m := by simp [Group.writeP, Group.modLane]

/-- Writes one after another: a later write of a place hides an earlier one. -/
theorem GroupWrites.trans {g g' g'' : Group} {v v' : Nat → Nat → Option Word} {r r' : Nat → Option Word} {p p' : Nat → Nat → Option Bool}
    (h : GroupWrites g g' v r p) (h' : GroupWrites g' g'' v' r' p') :
    GroupWrites g g'' (fun l n => (v' l n).or (v l n)) (fun n => (r' n).or (r n)) (fun l n => (p' l n).or (p l n)) where
  rest := by
    have h1 := h.rest
    have h2 := h'.rest
    calc { g'' with threads := g.threads, sreg := g.sreg, sbad := g.sbad }
        = { { g'' with threads := g'.threads, sreg := g'.sreg, sbad := g'.sbad } with threads := g.threads, sreg := g.sreg, sbad := g.sbad } := rfl
      _ = { g' with threads := g.threads, sreg := g.sreg, sbad := g.sbad } := by rw [h2]
      _ = g := h1
  width := h'.width.trans h.width
  threads l := by
    have h1 := h.threads l
    have h2 := h'.threads l
    calc { g''.lane l with v := (g.lane l).v, p := (g.lane l).p, bad := (g.lane l).bad }
        = { { g''.lane l with v := (g'.lane l).v, p := (g'.lane l).p, bad := (g'.lane l).bad } with
            v := (g.lane l).v, p := (g.lane l).p, bad := (g.lane l).bad } := rfl
      _ = { g'.lane l with v := (g.lane l).v, p := (g.lane l).p, bad := (g.lane l).bad } := by rw [h2]
      _ = g.lane l := h1
  vregs l n := by rw [h'.vregs, h.vregs]; cases v' l n <;> cases v l n <;> rfl
  sregs n := by rw [h'.sregs, h.sregs]; cases r' n <;> cases r n <;> rfl
  preds l n := by rw [h'.preds, h.preds]; cases p' l n <;> cases p l n <;> rfl
  vlost l n := by rw [h'.vlost, h.vlost]; cases v' l n <;> cases v l n <;> simp
  slost n := by rw [h'.slost, h.slost]; cases r' n <;> cases r n <;> simp

/-- The same writes said otherwise. -/
theorem GroupWrites.congr {g g' : Group} {v v' : Nat → Nat → Option Word} {r r' : Nat → Option Word} {p p' : Nat → Nat → Option Bool}
    (h : GroupWrites g g' v r p) (hv : ∀ l n, v l n = v' l n) (hr : ∀ n, r n = r' n) (hp : ∀ l n, p l n = p' l n) :
    GroupWrites g g' v' r' p' := by
  have e1 : v = v' := funext fun l => funext fun n => hv l n
  have e2 : r = r' := funext hr
  have e3 : p = p' := funext fun l => funext fun n => hp l n
  subst e1 e2 e3; exact h

/-- A v-register field written in each of some lanes. -/
theorem groupWrites_foldV (f : BitVec 8) (hf : isV f = true) (x : Nat → Word) (lanes : List Nat) (g : Group)
    (hl : ∀ l ∈ lanes, l < g.threads.length) :
    GroupWrites g (lanes.foldl (fun g l => g.writeReg l f (x l)) g) (vWrite f lanes x) (fun _ => none) noWrite := by
  induction lanes generalizing g with
  | nil => exact (GroupWrites.refl g).congr (fun l n => by simp [vWrite, noWrite]) (fun _ => rfl) (fun _ _ => rfl)
  | cons a r ih =>
    have ha := groupWrites_writeV g a f.toNat (x a) (hl a (by simp))
    have hr := ih (g.writeV a f.toNat (x a)) (fun l h => by rw [ha.width]; exact hl l (by simp [h]))
    simp only [List.foldl_cons, Group.writeReg, hf, if_true] at hr ⊢
    refine (ha.trans hr).congr (fun l n => ?_) (fun _ => rfl) (fun _ _ => rfl)
    simp only [vWrite, hf, Bool.true_and, List.contains_cons]
    by_cases hn : n = f.toNat <;> by_cases hla : l = a <;> by_cases hm : r.contains l = true <;> simp_all

/-- An s-register field written for the group. -/
theorem groupWrites_foldS (f : BitVec 8) (hf : isV f = false) (x : Nat → Word) (g : Group) :
    GroupWrites g ([0].foldl (fun g l => g.writeReg l f (x l)) g) noWrite (sWrite f (x 0)) noWrite := by
  have h : GroupWrites g (g.writeS (f.toNat - 192) (x 0)) noWrite (sWrite f (x 0)) noWrite :=
    (groupWrites_writeS g (f.toNat - 192) (x 0)).congr (fun _ _ => rfl)
      (fun n => by simp only [sWrite, hf]; by_cases h : n = f.toNat - 192 <;> simp [h]) (fun _ _ => rfl)
  simpa [Group.writeReg, hf] using h

/-- A predicate written in each of some lanes. -/
theorem groupWrites_foldP (k : Nat) (hk : k < 128) (x : Nat → Bool) (lanes : List Nat) (g : Group)
    (hl : ∀ l ∈ lanes, l < g.threads.length) :
    GroupWrites g (lanes.foldl (fun g l => g.writeP l k (x l)) g) noWrite (fun _ => none) (pWrite k lanes x) := by
  induction lanes generalizing g with
  | nil => exact (GroupWrites.refl g).congr (fun _ _ => rfl) (fun _ => rfl) (fun l n => by simp [pWrite, noWrite])
  | cons a r ih =>
    have ha := groupWrites_writeP g a k (x a) (hl a (by simp)) hk
    have hr := ih (g.writeP a k (x a)) (fun l h => by rw [ha.width]; exact hl l (by simp [h]))
    simp only [List.foldl_cons] at hr ⊢
    refine (ha.trans hr).congr (fun _ _ => rfl) (fun _ => rfl) (fun l n => ?_)
    simp only [pWrite, List.contains_cons]
    by_cases hk0 : k = 0 <;> by_cases hn : n = k <;> by_cases hla : l = a <;> by_cases hm : r.contains l = true <;> simp_all

/-! ### The offer for issue (R343) -/

/-- What is known of an instruction that is offered and passes. -/
structure Offered (s : State) (w : LongWord) (sh : Shape) (k : Issue) (c : Ic) : Prop where
  word  : c.w = w
  shape : c.sh = sh
  core  : c.core = s.iss.core
  grp   : c.grp = s.iss.grp
  pc    : c.pc = s.iss.pc
  len   : c.len = s.iss.len
  team  : tget c.s.teams c.core = some c.t
  group : tget c.t.groups c.grp = some c.g
  width : (∀ l ∈ c.act, l < c.g.threads.length)
  lanes : c.en ≠ [] ∧ (∀ l ∈ c.en, l ∈ c.act) ∧ c.act.Nodup
  uni   : c.uni = isUniform sh w
  code  : decodeFail { sh with ok13 := k.flag c.r } w (recVregs c.r) = none
  plain : k.blocking = false → c.s = s

theorem foldl_width {α : Type} (f : Group → α → Group) (hf : ∀ g a, (f g a).threads.length = g.threads.length) (xs : List α)
    (g : Group) : (xs.foldl f g).threads.length = g.threads.length := by
  induction xs generalizing g with
  | nil => rfl
  | cons a r ih => rw [List.foldl_cons, ih, hf]

theorem commit_width (g : Group) : g.commit.threads.length = g.threads.length := by
  refine foldl_width Group.commitSlot (fun g x => ?_) g.rb g
  unfold Group.commitSlot
  split
  · split
    · rfl
    · exact foldl_width _ (fun g l => by simp [Group.writeV]) _ _
    · exact foldl_width _ (fun g l => by simp [Group.writeP]) _ _
  · rfl

theorem enabledLanes_sub {g : Group} {w : LongWord} {act : List Nat} {l : Nat} (h : l ∈ enabledLanes g w act) : l ∈ act :=
  (List.mem_filter.1 h).1

/-- The context of an instruction at its park: the stretch is committed, and it is parked. -/
theorem atPark_eq {c : Ic} (ht : tget c.s.teams c.core = some c.t) (hg : tget c.t.groups c.grp = some c.g) :
    c.atPark = { c with
      s := setTeam c.s c.core { c.t with groups := tset c.t.groups c.grp { c.g.commit with parked := true } },
      t := { c.t with groups := tset c.t.groups c.grp { c.g.commit with parked := true } },
      g := { c.g.commit with parked := true } } := by
  simp [Ic.atPark, modGroup_eq ht hg]

/-- An instruction that is offered and passes is one of the group that the cursor names, and its checks hold. -/
theorem offer_ok {s : State} {w : LongWord} {sh : Shape} {k : Issue} {c : Ic} (h : offer s w sh k = .ok c) : Offered s w sh k c := by
  unfold offer at h
  split at h
  · cases h
  rename_i t ht
  split at h
  · cases h
  rename_i g hg
  simp only at h
  split at h
  · cases h
  split at h
  · cases h
  rename_i hd
  split at h
  · cases h
  split at h
  · cases h
  have base : Offered s w sh k (issueIc s w sh t g) ∨ (issueIc s w sh t g).en = [] := by
    by_cases he : (issueIc s w sh t g).en = []
    · exact .inr he
    · exact .inl ⟨rfl, rfl, rfl, rfl, rfl, rfl, ht, hg, fun l hl => activeLanes_lt hl,
        ⟨he, fun l hl => enabledLanes_sub hl, activeLanes_nodup _ _⟩, rfl, hd, fun _ => rfl⟩
  by_cases hb : (k.blocking && !g.parked) = true
  · simp only [hb, if_true] at h
    have hp := atPark_eq (c := issueIc s w sh t g) ht hg
    rw [hp] at h
    split at h
    · cases h
    rename_i hen
    have hen' : (issueIc s w sh t g).en ≠ [] := by simpa using hen
    split at h
    · cases h
    split at h
    · cases h
    split at h
    · cases h
    split at h
    · cases h
    split at h
    · cases h
    injection h with h
    subst h
    exact ⟨rfl, rfl, rfl, rfl, rfl, rfl, by simp, by simp, fun l hl => by
        show l < g.commit.threads.length
        rw [commit_width]; exact activeLanes_lt hl,
      ⟨hen', fun l hl => enabledLanes_sub hl, activeLanes_nodup _ _⟩, rfl, hd, fun hk => by simp [hk] at hb⟩
  · simp only [hb, if_false, Bool.false_eq_true] at h
    split at h
    · cases h
    rename_i hen
    have hen' : (issueIc s w sh t g).en ≠ [] := by simpa using hen
    split at h
    · cases h
    split at h
    · cases h
    split at h
    · cases h
    split at h
    · cases h
    split at h
    · cases h
    injection h with h
    subst h
    exact base.resolve_right hen'

/-- The issue of an instruction that is offered and passes. -/
theorem issue_ok {s : State} {w : LongWord} {sh : Shape} {k : Issue} {c : Ic} (h : offer s w sh k = .ok c)
    (body : Ic → Except Stop Eff) :
    issue s w sh k body = match body c with
      | .ok e => .next (e.post (retire e.st c.core c.grp c.pc c.next c.act e.xfer (w.s && !k.blocking)))
      | .error st => stopState c st := by
  simp only [issue, h] <;> (cases body c <;> rfl)

/-! ### What the checks of ports give (R81) -/

theorem ok11_of_decode {sh : Shape} {w : LongWord} {n : Nat} (h : decodeFail sh w n = none) : ok11 sh w = true := by
  by_contra h11
  simp only [Bool.not_eq_true] at h11
  simp only [decodeFail, h11, Bool.not_false, if_true] at h
  repeat' split at h
  all_goals cases h

/-- A v-register destination, or an instruction on the uniform port. -/
theorem dst_port {sh : Shape} {w : LongWord} {n m : Nat} (h : decodeFail sh w n = none) (hd : sh.d = .dst m)
    (hp : sh.port = .normal ∨ sh.port = .vector) : isV w.d = true ∨ isUniform sh w = true := by
  have h11 := ok11_of_decode h
  by_cases hv : isV w.d = true
  · exact .inl hv
  right
  rcases hp with hp | hp
  · have hm : (w.d, true) ∈ namedRegs sh w := by simp [namedRegs, hd]
    have hs : ((namedRegs sh w).filter (·.2)).any (fun r => !isV r.1) = true :=
      List.any_eq_true.2 ⟨_, List.mem_filter.2 ⟨hm, rfl⟩, by simpa using hv⟩
    simp only [ok11, hp, hs, Bool.true_and, Bool.not_eq_true', Bool.or_eq_false_iff] at h11
    obtain ⟨⟨hvs, hvd⟩, hps⟩ := h11
    simp only [isUniform, hp, hps, hd, Bool.not_false, Bool.and_true, Bool.and_eq_true]
    refine ⟨⟨?_, ?_⟩, rfl⟩
    · cases hr : namedRegs sh w with
      | nil => rw [hr] at hm; cases hm
      | cons a r => rfl
    · refine List.all_eq_true.2 (fun r hr => ?_)
      by_cases hr2 : r.2 = true
      · have := List.any_eq_false.1 hvd r (List.mem_filter.2 ⟨hr, hr2⟩)
        simpa using this
      · have := List.any_eq_false.1 hvs r hr
        simp only [hr2, Bool.not_eq_true, Bool.not_false, Bool.true_and] at this
        simpa using this
  · have : isV w.d = true := by
      simp only [ok11, hp, List.all_eq_true] at h11
      exact h11 (w.d, true) (List.mem_filter.2 ⟨by simp [namedRegs, hd], rfl⟩)
    exact absurd this hv

/-! ### What an effect leaves once its instruction retires -/

/-- The retirement of the issuing group. -/
theorem retire_with {c : Ic} (g : Group) (pc next : Word) (act : List Nat) (xfer : List (Nat × Word)) (park : Bool) :
    retire (c.with g) c.core c.grp pc next act xfer park = c.with (retireGroup pc next act xfer park g) := by
  rw [retire, Ic.with, modGroup_eq (setTeam_get _ _ _) (tget_tset_self _ _ _)]
  simp [Ic.with]

theorem modGroup_with {c : Ic} (ht : tget c.s.teams c.core = some c.t) (hg : tget c.t.groups c.grp = some c.g) (f : Group → Group) :
    modGroup c.s c.core c.grp f = c.with (f c.g) := modGroup_eq ht hg f

theorem with_self {c : Ic} (ht : tget c.s.teams c.core = some c.t) (hg : tget c.t.groups c.grp = some c.g) (pc next : Word)
    (act : List Nat) (xfer : List (Nat × Word)) (park : Bool) :
    retire c.s c.core c.grp pc next act xfer park = c.with (retireGroup pc next act xfer park c.g) := modGroup_eq ht hg _

theorem with_mem (c : Ic) (g : Group) : SameMemory c.s (c.with g) := fun _ => rfl

/-- A short result, retired. -/
theorem shortResult_done {s : State} {w : LongWord} {sh : Shape} {k : Issue} {c : Ic} (o : Offered s w sh k c)
    (hd : isV w.d = true ∨ isUniform sh w = true) (x : Nat → Word) :
    ShortDone c x (retire (shortResult c x).st c.core c.grp c.pc c.next c.act [] w.s) := by
  have hw := o.word
  have key : GroupWrites c.g (c.lanes.foldl (fun g l => g.writeReg l c.w.d (x l)) c.g) (vWrite c.w.d c.lanes x)
      (sWrite c.w.d (x 0)) noWrite := by
    by_cases hv : isV w.d = true
    · have h := groupWrites_foldV c.w.d (by rw [hw]; exact hv) x c.lanes c.g (fun l hl => by
        unfold Ic.lanes at hl
        split at hl
        · rename_i hu
          rw [List.mem_singleton] at hl; subst hl
          rcases hc : c.act with _ | ⟨a, r⟩
          · obtain ⟨y, hy⟩ := List.exists_mem_of_ne_nil _ o.lanes.1
            have := o.lanes.2.1 y hy; rw [hc] at this; cases this
          · exact Nat.lt_of_le_of_lt (Nat.zero_le a) (o.width a (by rw [hc]; simp))
        · exact o.width l (o.lanes.2.1 l hl))
      exact h.congr (fun _ _ => rfl) (fun n => by simp [sWrite, hw, hv]) (fun _ _ => rfl)
    · have hu : c.lanes = [0] := by
        rcases hd with hd | hd
        · exact absurd hd hv
        · simp [Ic.lanes, o.uni, hd]
      rw [hu]
      have hv' : isV c.w.d = false := by rw [hw]; simpa using hv
      exact (groupWrites_foldS c.w.d hv' x c.g).congr (fun l n => by simp [vWrite, hv', noWrite]) (fun _ => rfl) (fun _ _ => rfl)
  refine ⟨_, key, ?_, ?_⟩
  · rw [shortResult, modGroup_with o.team o.group, retire_with, hw]
  · rw [shortResult, modGroup_with o.team o.group, retire_with]; exact with_mem _ _

/-- A predicate result, retired. -/
theorem predResult_done {s : State} {w : LongWord} {sh : Shape} {k : Issue} {c : Ic} (o : Offered s w sh k c)
    (hd : w.d.toNat < 128) (x : Nat → Bool) :
    PredDone c x (retire (predResult c x).st c.core c.grp c.pc c.next c.act [] w.s) := by
  have hw := o.word
  refine ⟨_, groupWrites_foldP c.w.d.toNat (by rw [hw]; exact hd) x c.en c.g (fun l hl => o.width l (o.lanes.2.1 l hl)), ?_, ?_⟩
  · rw [predResult, modGroup_with o.team o.group, retire_with, hw]
  · rw [predResult, modGroup_with o.team o.group, retire_with]; exact with_mem _ _

/-- A long instruction's entry, retired. -/
theorem enterLong_done {s : State} {w : LongWord} {sh : Shape} {k : Issue} {c : Ic} (o : Offered s w sh k c)
    (ds : List Dest) (r : Ord) (work : Work) (got : List (Nat × Word)) :
    LongDone c ds r work got (retire (enterLong c ds r work got).st c.core c.grp c.pc c.next c.act [] w.s) := by
  have ht := o.team
  have hg := o.group
  have e : retire (enterLong c ds r work got).st c.core c.grp c.pc c.next c.act [] w.s
      = c.enters (c.entry true r work got) (c.slots ds) := by
    have h1 : tget ({ c.s with stamp := c.s.stamp + 1 } : State).teams c.core = some c.t := ht
    simp only [enterLong, modTeam_eq h1, Team.modGroup, hg, retire]
    rw [modGroup_eq (setTeam_get _ _ _) (tget_tset_self _ _ _), setTeam_setTeam]
    simp only [Ic.enters, Ic.slots, Ic.entry, o.word, tset_tset]
  exact ⟨e, by rw [e]; intro a; rfl⟩

/-- A posted instruction's entry, retired. -/
theorem enterPosted_done {s : State} {w : LongWord} {sh : Shape} {k : Issue} {c : Ic} (o : Offered s w sh k c)
    (r : Ord) (work : Work) :
    PostedDone c r work (retire (enterPosted c r work).st c.core c.grp c.pc c.next c.act [] w.s) := by
  have ht := o.team
  have hg := o.group
  have e : retire (enterPosted c r work).st c.core c.grp c.pc c.next c.act [] w.s = c.enters (c.entry false r work []) c.g := by
    have h1 : tget ({ c.s with stamp := c.s.stamp + 1 } : State).teams c.core = some c.t := ht
    simp only [enterPosted, modTeam_eq h1, retire]
    refine (modGroup_eq (g := c.g) (setTeam_get _ _ _) ?_ _).trans ?_
    · exact hg
    rw [setTeam_setTeam]
    simp only [Ic.enters, Ic.entry, o.word]
  exact ⟨e, by rw [e]; intro a; rfl⟩

/-! ### Instructions of one shape, from their offer -/

/-- An instruction whose body is a short result completes with it. -/
theorem short_completes {i : Instr} {s : State} {w : LongWord} {sh : Shape} {c : Ic} {m : Nat} (f : Ic → Nat → Word)
    (h : offer s w sh {} = .ok c) (he : exec i s = issue s w sh {} (fun c => .ok (shortResult c (f c)))) (hd : sh.d = .dst m)
    (hp : sh.port = .normal ∨ sh.port = .vector) (x : Nat → Word) (hx : f c = x) : Completes i s (ShortDone c x) := by
  subst hx
  refine ⟨_, he.trans ((issue_ok h _).trans ?_),
    shortResult_done (offer_ok h) (dst_port (sh := { sh with ok13 := true }) (m := m) (offer_ok h).code hd hp) _⟩
  simp; rfl

/-- A predicate destination is one of the 128. -/
theorem pdst_lt {sh : Shape} {w : LongWord} {n : Nat} (h : decodeFail sh w n = none) (hd : sh.d = .pdst) : w.d.toNat < 128 := by
  have h9 : useOk9 n sh.d w.d = true := by
    by_contra hc
    simp only [Bool.not_eq_true] at hc
    simp only [decodeFail, hc, Bool.false_and, Bool.not_false, if_true] at h
    repeat' split at h
    all_goals cases h
  simpa [useOk9, hd] using h9

/-- An instruction whose body is a predicate result completes with it. -/
theorem pred_completes {i : Instr} {s : State} {w : LongWord} {sh : Shape} {c : Ic} (f : Ic → Nat → Bool)
    (h : offer s w sh {} = .ok c) (he : exec i s = issue s w sh {} (fun c => .ok (predResult c (f c)))) (hd : sh.d = .pdst)
    (x : Nat → Bool) (hx : f c = x) : Completes i s (PredDone c x) := by
  subst hx
  refine ⟨_, he.trans ((issue_ok h _).trans ?_),
    predResult_done (offer_ok h) (pdst_lt (sh := { sh with ok13 := true }) (offer_ok h).code hd) _⟩
  simp; rfl

/-- An instruction whose body makes a long entry completes with it. -/
theorem long_completes {i : Instr} {s : State} {w : LongWord} {sh : Shape} {k : Issue} {c : Ic} (h : offer s w sh k = .ok c)
    (body : Ic → Except Stop Eff) (he : exec i s = issue s w sh k body) (hk : k.blocking = false) (ds : List Dest) (o : Ord)
    (work : Work) (got : List (Nat × Word)) (hb : body c = .ok (enterLong c ds o work got)) :
    Completes i s (LongDone c ds o work got) := by
  refine ⟨_, he.trans ((issue_ok h _).trans ?_), enterLong_done (offer_ok h) _ _ _ _⟩
  simp [hb, hk]; rfl

/-- An instruction whose body makes a posted entry completes with it. -/
theorem posted_completes {i : Instr} {s : State} {w : LongWord} {sh : Shape} {k : Issue} {c : Ic} (h : offer s w sh k = .ok c)
    (body : Ic → Except Stop Eff) (he : exec i s = issue s w sh k body) (hk : k.blocking = false) (o : Ord) (work : Work)
    (hb : body c = .ok (enterPosted c o work)) : Completes i s (PostedDone c o work) := by
  refine ⟨_, he.trans ((issue_ok h _).trans ?_), enterPosted_done (offer_ok h) _ _⟩
  simp [hb, hk]; rfl

/-! ### What a shared operation can change -/

theorem modTeam_only (s : State) (k : Nat) (f : Team → Team) : ∃ ts, modTeam s k f = { s with teams := ts } := by
  unfold modTeam; split
  · exact ⟨_, rfl⟩
  · exact ⟨s.teams, rfl⟩

/-- An access's record in the L2 changes nothing else (R213, R214). -/
theorem l2Touch_only (s : State) (pa cp wp : Nat) (write : Bool) : ∃ x, l2Touch s pa cp wp write = { s with l2 := x } := ⟨_, rfl⟩

theorem l2TouchAll_only (s : State) (pa n cp wp : Nat) (write : Bool) : ∃ x, l2TouchAll s pa n cp wp write = { s with l2 := x } := by
  unfold l2TouchAll
  induction linesOf pa n generalizing s with
  | nil => exact ⟨s.l2, rfl⟩
  | cons l ls ih =>
    obtain ⟨x, h⟩ := ih (l2Touch s (128 * l) cp wp write)
    exact ⟨x, h⟩

/-- What a copy channel keeps of a block lies in its team alone, resident or saved (R168). -/
theorem keepOlds_only (s : State) (ps : List (Nat × Nat)) : ∃ ts is, keepOlds s ps = { s with teams := ts, images := is } := ⟨_, _, rfl⟩

/-- A team saved or resumed changes the names in the marks alone (R297, R352). -/
theorem renameMarks_only (s : State) (old new : Nat) : ∃ ms, renameMarks s old new = { s with marks := ms } := ⟨_, rfl⟩

/-- What a FENCE leaves for the writes after it lies in its team (R294, R297). -/
theorem noteFence_only (c : Ic) (o : Ord) (s : State) : ∃ ts, noteFence c o s = { s with teams := ts } := by
  unfold noteFence; split
  · exact modTeam_only ..
  · exact ⟨s.teams, rfl⟩

end Sys2Proof.Machine
end

