-- ==== Sys2Proof/Laws/PerInstr.lean ====
section
/-! SUPPORT. The encoding tables read back, one lemma for each constructor: the table of the format in which a
well-formed instruction is written holds that instruction at its opcode. -/

namespace Sys2Proof

section

set_option Elab.async false

/-- The entry of a form in the decoder's table of its format, and that no earlier table holds its opcode. -/
def Form.reads (i : Instr) : Form → Prop
  | .d16 w => i = if w = ⟨false, 0#3, 0#10⟩ then .illegalD16 else .d16Code w
  | .k op w => op < 127 ∧ kInstr op w = some i
  | .j op w => op < 127 ∧ (∀ k, kInstr op k = none) ∧ jInstr op w = some i
  | .b op w => op < 127 ∧ (∀ k, kInstr op k = none) ∧ (∀ j, jInstr op j = none) ∧ bInstr op w = some i
  | .long op w => op < 512 ∧ longInstr op w = some i
  | .caramel op w => op < 32 ∧ caramelInstr op w = some i
  | .raw w => w.unassigned = true ∨ ∃ b : BitVec 32, w = .w32 b ∧ (b.toNat % 4 = 1 ∧ b.toNat / 8 % 128 = 127 ∨ 22 ≤ b.toNat / 2 ^ 27)
  | .event => True

/-- A well-formed instruction stands in the table of its format, at its opcode (R77, R87, R332). -/
def Laws.Opcode.Statement (i : Instr) : Prop := i.wellFormed = true → (form i).reads i

theorem Laws.Opcode.d16Code (w : D16Word) : Laws.Opcode.Statement (.d16Code w) := fun h => by
  have h : (!(w == ⟨false, 0#3, 0#10⟩)) = true := h
  exact (if_neg (by simpa using h)).symm

theorem Laws.Opcode.illegalD16 : Laws.Opcode.Statement (.illegalD16) := fun _ => rfl

theorem Laws.Opcode.illegalK (bits : BitVec 32) : Laws.Opcode.Statement (.illegalK bits) := fun h => by
  have h : (bits.extractLsb' 0 2 == 1#2 && bits.extractLsb' 3 7 == 0x7F#7) = true := h
  simp only [Bool.and_eq_true, beq_iff_eq, BitVec.toNat_eq, BitVec.extractLsb'_toNat] at h
  refine .inr ⟨bits, rfl, .inl ⟨?_, ?_⟩⟩ <;> simp [Nat.shiftRight_eq_div_pow] at h <;> omega

theorem Laws.Opcode.illegalW (w : LongWord) : Laws.Opcode.Statement (.illegalW w) := fun h => ⟨by decide, by
  have h : w.lit.isNone = true := h
  show some (if w.lit.isSome then Instr.illegalX w else Instr.illegalW w) = some (.illegalW w)
  simp at h
  simp [h]⟩

theorem Laws.Opcode.illegalX (w : LongWord) : Laws.Opcode.Statement (.illegalX w) := fun h => ⟨by decide, by
  have h : w.lit.isSome = true := h
  show some (if w.lit.isSome then Instr.illegalX w else Instr.illegalW w) = some (.illegalX w)
  simp [h]⟩

theorem Laws.Opcode.nop (w : LongWord) : Laws.Opcode.Statement (.nop w) := fun _ => ⟨by decide, rfl⟩

theorem Laws.Opcode.bra (w : LongWord) : Laws.Opcode.Statement (.bra w) := fun _ => ⟨by decide, rfl⟩

theorem Laws.Opcode.braB (w : BWord) : Laws.Opcode.Statement (.braB w) := fun _ => ⟨by decide, fun _ => rfl, fun _ => rfl, rfl⟩

theorem Laws.Opcode.brx (w : LongWord) : Laws.Opcode.Statement (.brx w) := fun _ => ⟨by decide, rfl⟩

theorem Laws.Opcode.call (w : LongWord) : Laws.Opcode.Statement (.call w) := fun _ => ⟨by decide, rfl⟩

theorem Laws.Opcode.callB (w : BWord) : Laws.Opcode.Statement (.callB w) := fun _ => ⟨by decide, fun _ => rfl, fun _ => rfl, rfl⟩

theorem Laws.Opcode.callx (w : LongWord) : Laws.Opcode.Statement (.callx w) := fun _ => ⟨by decide, rfl⟩

theorem Laws.Opcode.ret (w : LongWord) : Laws.Opcode.Statement (.ret w) := fun _ => ⟨by decide, rfl⟩

theorem Laws.Opcode.loop (w : LongWord) : Laws.Opcode.Statement (.loop w) := fun h => ⟨by decide, by
  have h : (!((w.sub6 == 1#6 : Bool))) = true := h
  show some (if w.sub6 == 1#6 then Instr.loopImm w else Instr.loop w) = some (.loop w)
  simp at h
  simp [h]⟩

theorem Laws.Opcode.loopImm (w : LongWord) : Laws.Opcode.Statement (.loopImm w) := fun h => ⟨by decide, by
  have h : (w.sub6 == 1#6) = true := h
  show some (if w.sub6 == 1#6 then Instr.loopImm w else Instr.loop w) = some (.loopImm w)
  simp at h
  simp [h]⟩

theorem Laws.Opcode.lbrk (w : LongWord) : Laws.Opcode.Statement (.lbrk w) := fun _ => ⟨by decide, rfl⟩

theorem Laws.Opcode.reform (w : LongWord) : Laws.Opcode.Statement (.reform w) := fun _ => ⟨by decide, rfl⟩

theorem Laws.Opcode.exit (w : LongWord) : Laws.Opcode.Statement (.exit w) := fun _ => ⟨by decide, rfl⟩

theorem Laws.Opcode.yield (w : LongWord) : Laws.Opcode.Statement (.yield w) := fun _ => ⟨by decide, rfl⟩

theorem Laws.Opcode.trap (w : LongWord) : Laws.Opcode.Statement (.trap w) := fun _ => ⟨by decide, rfl⟩

theorem Laws.Opcode.launch (w : LongWord) : Laws.Opcode.Statement (.launch w) := fun _ => ⟨by decide, rfl⟩

theorem Laws.Opcode.clock (w : LongWord) : Laws.Opcode.Statement (.clock w) := fun _ => ⟨by decide, rfl⟩

theorem Laws.Opcode.elect (w : LongWord) : Laws.Opcode.Statement (.elect w) := fun _ => ⟨by decide, rfl⟩

theorem Laws.Opcode.setprio (w : LongWord) : Laws.Opcode.Statement (.setprio w) := fun _ => ⟨by decide, rfl⟩

theorem Laws.Opcode.pseti (w : LongWord) : Laws.Opcode.Statement (.pseti w) := fun _ => ⟨by decide, rfl⟩

theorem Laws.Opcode.psetf (w : LongWord) : Laws.Opcode.Statement (.psetf w) := fun _ => ⟨by decide, rfl⟩

theorem Laws.Opcode.plop (w : LongWord) : Laws.Opcode.Statement (.plop w) := fun _ => ⟨by decide, rfl⟩

theorem Laws.Opcode.pmovGet (w : LongWord) : Laws.Opcode.Statement (.pmovGet w) := fun h => ⟨by decide, by
  have h : (!((w.sub6.getLsbD 0 : Bool))) = true := h
  show some (if w.sub6.getLsbD 0 then Instr.pmovSet w else Instr.pmovGet w) = some (.pmovGet w)
  simp at h
  simp [h]⟩

theorem Laws.Opcode.pmovSet (w : LongWord) : Laws.Opcode.Statement (.pmovSet w) := fun h => ⟨by decide, by
  have h : (w.sub6.getLsbD 0) = true := h
  show some (if w.sub6.getLsbD 0 then Instr.pmovSet w else Instr.pmovGet w) = some (.pmovSet w)
  simp at h
  simp [h]⟩

theorem Laws.Opcode.pvoteSome (w : LongWord) : Laws.Opcode.Statement (.pvoteSome w) := fun h => ⟨by decide, by
  have h : (!((w.sub6 == 1#6 : Bool) || (w.sub6 == 2#6 : Bool) || (w.sub6 == 3#6 : Bool) || (w.sub6 == 4#6 : Bool))) = true := h
  show some (if w.sub6 == 1#6 then Instr.pvoteEvery w else if w.sub6 == 2#6 then Instr.pvoteSame w else if w.sub6 == 3#6 then Instr.pvoteMask w else if w.sub6 == 4#6 then Instr.pvoteCount w else Instr.pvoteSome w) = some (.pvoteSome w)
  simp at h
  simp [h]⟩

theorem Laws.Opcode.pvoteEvery (w : LongWord) : Laws.Opcode.Statement (.pvoteEvery w) := fun h => ⟨by decide, by
  have h : (w.sub6 == 1#6) = true := h
  show some (if w.sub6 == 1#6 then Instr.pvoteEvery w else if w.sub6 == 2#6 then Instr.pvoteSame w else if w.sub6 == 3#6 then Instr.pvoteMask w else if w.sub6 == 4#6 then Instr.pvoteCount w else Instr.pvoteSome w) = some (.pvoteEvery w)
  simp at h
  simp [h]⟩

theorem Laws.Opcode.pvoteSame (w : LongWord) : Laws.Opcode.Statement (.pvoteSame w) := fun h => ⟨by decide, by
  have h : (w.sub6 == 2#6) = true := h
  show some (if w.sub6 == 1#6 then Instr.pvoteEvery w else if w.sub6 == 2#6 then Instr.pvoteSame w else if w.sub6 == 3#6 then Instr.pvoteMask w else if w.sub6 == 4#6 then Instr.pvoteCount w else Instr.pvoteSome w) = some (.pvoteSame w)
  simp at h
  simp [h]⟩

theorem Laws.Opcode.pvoteMask (w : LongWord) : Laws.Opcode.Statement (.pvoteMask w) := fun h => ⟨by decide, by
  have h : (w.sub6 == 3#6) = true := h
  show some (if w.sub6 == 1#6 then Instr.pvoteEvery w else if w.sub6 == 2#6 then Instr.pvoteSame w else if w.sub6 == 3#6 then Instr.pvoteMask w else if w.sub6 == 4#6 then Instr.pvoteCount w else Instr.pvoteSome w) = some (.pvoteMask w)
  simp at h
  simp [h]⟩

theorem Laws.Opcode.pvoteCount (w : LongWord) : Laws.Opcode.Statement (.pvoteCount w) := fun h => ⟨by decide, by
  have h : (w.sub6 == 4#6) = true := h
  show some (if w.sub6 == 1#6 then Instr.pvoteEvery w else if w.sub6 == 2#6 then Instr.pvoteSame w else if w.sub6 == 3#6 then Instr.pvoteMask w else if w.sub6 == 4#6 then Instr.pvoteCount w else Instr.pvoteSome w) = some (.pvoteCount w)
  simp at h
  simp [h]⟩

theorem Laws.Opcode.iadd (w : LongWord) : Laws.Opcode.Statement (.iadd w) := fun _ => ⟨by decide, rfl⟩

theorem Laws.Opcode.iaddI32K (w : KWord) : Laws.Opcode.Statement (.iaddI32K w) := fun _ => ⟨by decide, rfl⟩

theorem Laws.Opcode.iaddI64K (w : KWord) : Laws.Opcode.Statement (.iaddI64K w) := fun _ => ⟨by decide, rfl⟩

theorem Laws.Opcode.iaddI32J (w : JWord) : Laws.Opcode.Statement (.iaddI32J w) := fun _ => ⟨by decide, fun _ => rfl, rfl⟩

theorem Laws.Opcode.iaddI64J (w : JWord) : Laws.Opcode.Statement (.iaddI64J w) := fun _ => ⟨by decide, fun _ => rfl, rfl⟩

theorem Laws.Opcode.isub (w : LongWord) : Laws.Opcode.Statement (.isub w) := fun _ => ⟨by decide, rfl⟩

theorem Laws.Opcode.isubI32K (w : KWord) : Laws.Opcode.Statement (.isubI32K w) := fun _ => ⟨by decide, rfl⟩

theorem Laws.Opcode.imin (w : LongWord) : Laws.Opcode.Statement (.imin w) := fun _ => ⟨by decide, rfl⟩

theorem Laws.Opcode.imax (w : LongWord) : Laws.Opcode.Statement (.imax w) := fun _ => ⟨by decide, rfl⟩

theorem Laws.Opcode.imul (w : LongWord) : Laws.Opcode.Statement (.imul w) := fun _ => ⟨by decide, rfl⟩

theorem Laws.Opcode.imulI32K (w : KWord) : Laws.Opcode.Statement (.imulI32K w) := fun _ => ⟨by decide, rfl⟩

theorem Laws.Opcode.imulh (w : LongWord) : Laws.Opcode.Statement (.imulh w) := fun _ => ⟨by decide, rfl⟩

theorem Laws.Opcode.imad (w : LongWord) : Laws.Opcode.Statement (.imad w) := fun _ => ⟨by decide, rfl⟩

theorem Laws.Opcode.idiv (w : LongWord) : Laws.Opcode.Statement (.idiv w) := fun _ => ⟨by decide, rfl⟩

theorem Laws.Opcode.iabs (w : LongWord) : Laws.Opcode.Statement (.iabs w) := fun _ => ⟨by decide, rfl⟩

theorem Laws.Opcode.popc (w : LongWord) : Laws.Opcode.Statement (.popc w) := fun _ => ⟨by decide, rfl⟩

theorem Laws.Opcode.clz (w : LongWord) : Laws.Opcode.Statement (.clz w) := fun _ => ⟨by decide, rfl⟩

theorem Laws.Opcode.brev (w : LongWord) : Laws.Opcode.Statement (.brev w) := fun _ => ⟨by decide, rfl⟩

theorem Laws.Opcode.shl (w : LongWord) : Laws.Opcode.Statement (.shl w) := fun _ => ⟨by decide, rfl⟩

theorem Laws.Opcode.shlN32K (w : KWord) : Laws.Opcode.Statement (.shlN32K w) := fun _ => ⟨by decide, rfl⟩

theorem Laws.Opcode.shlN32J (w : JWord) : Laws.Opcode.Statement (.shlN32J w) := fun _ => ⟨by decide, fun _ => rfl, rfl⟩

theorem Laws.Opcode.shr (w : LongWord) : Laws.Opcode.Statement (.shr w) := fun _ => ⟨by decide, rfl⟩

theorem Laws.Opcode.shrN32K (w : KWord) : Laws.Opcode.Statement (.shrN32K w) := fun _ => ⟨by decide, rfl⟩

theorem Laws.Opcode.shrN32J (w : JWord) : Laws.Opcode.Statement (.shrN32J w) := fun _ => ⟨by decide, fun _ => rfl, rfl⟩

theorem Laws.Opcode.shra (w : LongWord) : Laws.Opcode.Statement (.shra w) := fun _ => ⟨by decide, rfl⟩

theorem Laws.Opcode.rot (w : LongWord) : Laws.Opcode.Statement (.rot w) := fun _ => ⟨by decide, rfl⟩

theorem Laws.Opcode.bitf (w : LongWord) : Laws.Opcode.Statement (.bitf w) := fun _ => ⟨by decide, rfl⟩

theorem Laws.Opcode.bitfAndK (w : KWord) : Laws.Opcode.Statement (.bitfAndK w) := fun _ => ⟨by decide, rfl⟩

theorem Laws.Opcode.bitfOrK (w : KWord) : Laws.Opcode.Statement (.bitfOrK w) := fun _ => ⟨by decide, rfl⟩

theorem Laws.Opcode.bitfXorK (w : KWord) : Laws.Opcode.Statement (.bitfXorK w) := fun _ => ⟨by decide, rfl⟩

theorem Laws.Opcode.bitfAndJ (w : JWord) : Laws.Opcode.Statement (.bitfAndJ w) := fun _ => ⟨by decide, fun _ => rfl, rfl⟩

theorem Laws.Opcode.bfx (w : LongWord) : Laws.Opcode.Statement (.bfx w) := fun _ => ⟨by decide, rfl⟩

theorem Laws.Opcode.bfi (w : LongWord) : Laws.Opcode.Statement (.bfi w) := fun _ => ⟨by decide, rfl⟩

theorem Laws.Opcode.sel (w : LongWord) : Laws.Opcode.Statement (.sel w) := fun _ => ⟨by decide, rfl⟩

theorem Laws.Opcode.mov (w : LongWord) : Laws.Opcode.Statement (.mov w) := fun _ => ⟨by decide, rfl⟩

theorem Laws.Opcode.movK (w : KWord) : Laws.Opcode.Statement (.movK w) := fun _ => ⟨by decide, rfl⟩

theorem Laws.Opcode.movi (w : LongWord) : Laws.Opcode.Statement (.movi w) := fun _ => ⟨by decide, rfl⟩

theorem Laws.Opcode.moviI32J (w : JWord) : Laws.Opcode.Statement (.moviI32J w) := fun _ => ⟨by decide, fun _ => rfl, rfl⟩

theorem Laws.Opcode.movs (w : LongWord) : Laws.Opcode.Statement (.movs w) := fun _ => ⟨by decide, rfl⟩

theorem Laws.Opcode.lea (w : LongWord) : Laws.Opcode.Statement (.lea w) := fun _ => ⟨by decide, rfl⟩

theorem Laws.Opcode.cvti (w : LongWord) : Laws.Opcode.Statement (.cvti w) := fun _ => ⟨by decide, rfl⟩

theorem Laws.Opcode.fadd (w : LongWord) : Laws.Opcode.Statement (.fadd w) := fun _ => ⟨by decide, rfl⟩

theorem Laws.Opcode.faddF32K (w : KWord) : Laws.Opcode.Statement (.faddF32K w) := fun _ => ⟨by decide, rfl⟩

theorem Laws.Opcode.faddBf16K (w : KWord) : Laws.Opcode.Statement (.faddBf16K w) := fun _ => ⟨by decide, rfl⟩

theorem Laws.Opcode.fsub (w : LongWord) : Laws.Opcode.Statement (.fsub w) := fun _ => ⟨by decide, rfl⟩

theorem Laws.Opcode.fmul (w : LongWord) : Laws.Opcode.Statement (.fmul w) := fun _ => ⟨by decide, rfl⟩

theorem Laws.Opcode.fmulF32K (w : KWord) : Laws.Opcode.Statement (.fmulF32K w) := fun _ => ⟨by decide, rfl⟩

theorem Laws.Opcode.fmulBf16K (w : KWord) : Laws.Opcode.Statement (.fmulBf16K w) := fun _ => ⟨by decide, rfl⟩

theorem Laws.Opcode.ffma (w : LongWord) : Laws.Opcode.Statement (.ffma w) := fun _ => ⟨by decide, rfl⟩

theorem Laws.Opcode.ffmaF32K (w : KWord) : Laws.Opcode.Statement (.ffmaF32K w) := fun _ => ⟨by decide, rfl⟩

theorem Laws.Opcode.ffmaBf16K (w : KWord) : Laws.Opcode.Statement (.ffmaBf16K w) := fun _ => ⟨by decide, rfl⟩

theorem Laws.Opcode.fmin (w : LongWord) : Laws.Opcode.Statement (.fmin w) := fun _ => ⟨by decide, rfl⟩

theorem Laws.Opcode.fminF32K (w : KWord) : Laws.Opcode.Statement (.fminF32K w) := fun _ => ⟨by decide, rfl⟩

theorem Laws.Opcode.fmax (w : LongWord) : Laws.Opcode.Statement (.fmax w) := fun _ => ⟨by decide, rfl⟩

theorem Laws.Opcode.fmaxF32K (w : KWord) : Laws.Opcode.Statement (.fmaxF32K w) := fun _ => ⟨by decide, rfl⟩

theorem Laws.Opcode.fclass (w : LongWord) : Laws.Opcode.Statement (.fclass w) := fun _ => ⟨by decide, rfl⟩

theorem Laws.Opcode.frnd (w : LongWord) : Laws.Opcode.Statement (.frnd w) := fun _ => ⟨by decide, rfl⟩

theorem Laws.Opcode.fcvt (w : LongWord) : Laws.Opcode.Statement (.fcvt w) := fun _ => ⟨by decide, rfl⟩

theorem Laws.Opcode.fcvti (w : LongWord) : Laws.Opcode.Statement (.fcvti w) := fun _ => ⟨by decide, rfl⟩

theorem Laws.Opcode.icvtf (w : LongWord) : Laws.Opcode.Statement (.icvtf w) := fun _ => ⟨by decide, rfl⟩

theorem Laws.Opcode.fdot (w : LongWord) : Laws.Opcode.Statement (.fdot w) := fun _ => ⟨by decide, rfl⟩

theorem Laws.Opcode.fscale (w : LongWord) : Laws.Opcode.Statement (.fscale w) := fun _ => ⟨by decide, rfl⟩

theorem Laws.Opcode.frcp (w : LongWord) : Laws.Opcode.Statement (.frcp w) := fun _ => ⟨by decide, rfl⟩

theorem Laws.Opcode.frsq (w : LongWord) : Laws.Opcode.Statement (.frsq w) := fun _ => ⟨by decide, rfl⟩

theorem Laws.Opcode.fsqrt (w : LongWord) : Laws.Opcode.Statement (.fsqrt w) := fun _ => ⟨by decide, rfl⟩

theorem Laws.Opcode.fexp2 (w : LongWord) : Laws.Opcode.Statement (.fexp2 w) := fun _ => ⟨by decide, rfl⟩

theorem Laws.Opcode.flog2 (w : LongWord) : Laws.Opcode.Statement (.flog2 w) := fun _ => ⟨by decide, rfl⟩

theorem Laws.Opcode.fsin (w : LongWord) : Laws.Opcode.Statement (.fsin w) := fun _ => ⟨by decide, rfl⟩

theorem Laws.Opcode.fcos (w : LongWord) : Laws.Opcode.Statement (.fcos w) := fun _ => ⟨by decide, rfl⟩

theorem Laws.Opcode.ftanh (w : LongWord) : Laws.Opcode.Statement (.ftanh w) := fun _ => ⟨by decide, rfl⟩

theorem Laws.Opcode.bqnt (w : LongWord) : Laws.Opcode.Statement (.bqnt w) := fun _ => ⟨by decide, rfl⟩

theorem Laws.Opcode.bdeq (w : LongWord) : Laws.Opcode.Statement (.bdeq w) := fun _ => ⟨by decide, rfl⟩

theorem Laws.Opcode.zpsub (w : LongWord) : Laws.Opcode.Statement (.zpsub w) := fun _ => ⟨by decide, rfl⟩

theorem Laws.Opcode.pack (w : LongWord) : Laws.Opcode.Statement (.pack w) := fun _ => ⟨by decide, rfl⟩

theorem Laws.Opcode.unpack (w : LongWord) : Laws.Opcode.Statement (.unpack w) := fun _ => ⟨by decide, rfl⟩

theorem Laws.Opcode.amaxb (w : LongWord) : Laws.Opcode.Statement (.amaxb w) := fun _ => ⟨by decide, rfl⟩

theorem Laws.Opcode.shfl (w : LongWord) : Laws.Opcode.Statement (.shfl w) := fun _ => ⟨by decide, rfl⟩

theorem Laws.Opcode.bcast (w : LongWord) : Laws.Opcode.Statement (.bcast w) := fun _ => ⟨by decide, rfl⟩

theorem Laws.Opcode.perm (w : LongWord) : Laws.Opcode.Statement (.perm w) := fun _ => ⟨by decide, rfl⟩

theorem Laws.Opcode.matchOp (w : LongWord) : Laws.Opcode.Statement (.matchOp w) := fun _ => ⟨by decide, rfl⟩

theorem Laws.Opcode.redl (w : LongWord) : Laws.Opcode.Statement (.redl w) := fun _ => ⟨by decide, rfl⟩

theorem Laws.Opcode.scanl (w : LongWord) : Laws.Opcode.Statement (.scanl w) := fun _ => ⟨by decide, rfl⟩

theorem Laws.Opcode.ldg (w : LongWord) : Laws.Opcode.Statement (.ldg w) := fun _ => ⟨by decide, rfl⟩

theorem Laws.Opcode.ldgN32K (w : KWord) : Laws.Opcode.Statement (.ldgN32K w) := fun _ => ⟨by decide, rfl⟩

theorem Laws.Opcode.ldgN64K (w : KWord) : Laws.Opcode.Statement (.ldgN64K w) := fun _ => ⟨by decide, rfl⟩

theorem Laws.Opcode.stg (w : LongWord) : Laws.Opcode.Statement (.stg w) := fun _ => ⟨by decide, rfl⟩

theorem Laws.Opcode.stgN32K (w : KWord) : Laws.Opcode.Statement (.stgN32K w) := fun _ => ⟨by decide, rfl⟩

theorem Laws.Opcode.stgN64K (w : KWord) : Laws.Opcode.Statement (.stgN64K w) := fun _ => ⟨by decide, rfl⟩

theorem Laws.Opcode.ldc (w : LongWord) : Laws.Opcode.Statement (.ldc w) := fun _ => ⟨by decide, rfl⟩

theorem Laws.Opcode.lds (w : LongWord) : Laws.Opcode.Statement (.lds w) := fun _ => ⟨by decide, rfl⟩

theorem Laws.Opcode.ldsN32K (w : KWord) : Laws.Opcode.Statement (.ldsN32K w) := fun _ => ⟨by decide, rfl⟩

theorem Laws.Opcode.ldsN64K (w : KWord) : Laws.Opcode.Statement (.ldsN64K w) := fun _ => ⟨by decide, rfl⟩

theorem Laws.Opcode.sts (w : LongWord) : Laws.Opcode.Statement (.sts w) := fun _ => ⟨by decide, rfl⟩

theorem Laws.Opcode.stsN32K (w : KWord) : Laws.Opcode.Statement (.stsN32K w) := fun _ => ⟨by decide, rfl⟩

theorem Laws.Opcode.stsN64K (w : KWord) : Laws.Opcode.Statement (.stsN64K w) := fun _ => ⟨by decide, rfl⟩

theorem Laws.Opcode.ldx (w : LongWord) : Laws.Opcode.Statement (.ldx w) := fun _ => ⟨by decide, rfl⟩

theorem Laws.Opcode.stx (w : LongWord) : Laws.Opcode.Statement (.stx w) := fun _ => ⟨by decide, rfl⟩

theorem Laws.Opcode.pref (w : LongWord) : Laws.Opcode.Statement (.pref w) := fun _ => ⟨by decide, rfl⟩

theorem Laws.Opcode.ldb (w : LongWord) : Laws.Opcode.Statement (.ldb w) := fun _ => ⟨by decide, rfl⟩

theorem Laws.Opcode.stb (w : LongWord) : Laws.Opcode.Statement (.stb w) := fun _ => ⟨by decide, rfl⟩

theorem Laws.Opcode.cmntPin (w : LongWord) : Laws.Opcode.Statement (.cmntPin w) := fun h => ⟨by decide, by
  have h : (!((w.sub6 == 1#6 : Bool) || (w.sub6 == 2#6 : Bool) || (w.sub6 == 3#6 : Bool) || (w.sub6 == 4#6 : Bool))) = true := h
  show some (if w.sub6 == 1#6 then Instr.cmntUnpin w else if w.sub6 == 2#6 then Instr.cmntClean w else if w.sub6 == 3#6 then Instr.cmntEvict w else if w.sub6 == 4#6 then Instr.cmntL1inv w else Instr.cmntPin w) = some (.cmntPin w)
  simp at h
  simp [h]⟩

theorem Laws.Opcode.cmntUnpin (w : LongWord) : Laws.Opcode.Statement (.cmntUnpin w) := fun h => ⟨by decide, by
  have h : (w.sub6 == 1#6) = true := h
  show some (if w.sub6 == 1#6 then Instr.cmntUnpin w else if w.sub6 == 2#6 then Instr.cmntClean w else if w.sub6 == 3#6 then Instr.cmntEvict w else if w.sub6 == 4#6 then Instr.cmntL1inv w else Instr.cmntPin w) = some (.cmntUnpin w)
  simp at h
  simp [h]⟩

theorem Laws.Opcode.cmntClean (w : LongWord) : Laws.Opcode.Statement (.cmntClean w) := fun h => ⟨by decide, by
  have h : (w.sub6 == 2#6) = true := h
  show some (if w.sub6 == 1#6 then Instr.cmntUnpin w else if w.sub6 == 2#6 then Instr.cmntClean w else if w.sub6 == 3#6 then Instr.cmntEvict w else if w.sub6 == 4#6 then Instr.cmntL1inv w else Instr.cmntPin w) = some (.cmntClean w)
  simp at h
  simp [h]⟩

theorem Laws.Opcode.cmntEvict (w : LongWord) : Laws.Opcode.Statement (.cmntEvict w) := fun h => ⟨by decide, by
  have h : (w.sub6 == 3#6) = true := h
  show some (if w.sub6 == 1#6 then Instr.cmntUnpin w else if w.sub6 == 2#6 then Instr.cmntClean w else if w.sub6 == 3#6 then Instr.cmntEvict w else if w.sub6 == 4#6 then Instr.cmntL1inv w else Instr.cmntPin w) = some (.cmntEvict w)
  simp at h
  simp [h]⟩

theorem Laws.Opcode.cmntL1inv (w : LongWord) : Laws.Opcode.Statement (.cmntL1inv w) := fun h => ⟨by decide, by
  have h : (w.sub6 == 4#6) = true := h
  show some (if w.sub6 == 1#6 then Instr.cmntUnpin w else if w.sub6 == 2#6 then Instr.cmntClean w else if w.sub6 == 3#6 then Instr.cmntEvict w else if w.sub6 == 4#6 then Instr.cmntL1inv w else Instr.cmntPin w) = some (.cmntL1inv w)
  simp at h
  simp [h]⟩

theorem Laws.Opcode.cpy (w : LongWord) : Laws.Opcode.Statement (.cpy w) := fun _ => ⟨by decide, rfl⟩

theorem Laws.Opcode.cpym (w : LongWord) : Laws.Opcode.Statement (.cpym w) := fun _ => ⟨by decide, rfl⟩

theorem Laws.Opcode.cpyg (w : LongWord) : Laws.Opcode.Statement (.cpyg w) := fun h => ⟨by decide, by
  have h : (!((w.sub6 == 1#6 : Bool))) = true := h
  show some (if w.sub6 == 1#6 then Instr.cpygSpad w else Instr.cpyg w) = some (.cpyg w)
  simp at h
  simp [h]⟩

theorem Laws.Opcode.cpygSpad (w : LongWord) : Laws.Opcode.Statement (.cpygSpad w) := fun h => ⟨by decide, by
  have h : (w.sub6 == 1#6) = true := h
  show some (if w.sub6 == 1#6 then Instr.cpygSpad w else Instr.cpyg w) = some (.cpygSpad w)
  simp at h
  simp [h]⟩

theorem Laws.Opcode.publ (w : LongWord) : Laws.Opcode.Statement (.publ w) := fun _ => ⟨by decide, rfl⟩

theorem Laws.Opcode.cwait (w : LongWord) : Laws.Opcode.Statement (.cwait w) := fun h => ⟨by decide, by
  have h : (!((w.sub6 == 1#6 : Bool))) = true := h
  show some (if w.sub6 == 1#6 then Instr.cwaitStat w else Instr.cwait w) = some (.cwait w)
  simp at h
  simp [h]⟩

theorem Laws.Opcode.cwaitStat (w : LongWord) : Laws.Opcode.Statement (.cwaitStat w) := fun h => ⟨by decide, by
  have h : (w.sub6 == 1#6) = true := h
  show some (if w.sub6 == 1#6 then Instr.cwaitStat w else Instr.cwait w) = some (.cwaitStat w)
  simp at h
  simp [h]⟩

theorem Laws.Opcode.wptr (w : LongWord) : Laws.Opcode.Statement (.wptr w) := fun _ => ⟨by decide, rfl⟩

theorem Laws.Opcode.ccan (w : LongWord) : Laws.Opcode.Statement (.ccan w) := fun _ => ⟨by decide, rfl⟩

theorem Laws.Opcode.atom (w : LongWord) : Laws.Opcode.Statement (.atom w) := fun _ => ⟨by decide, rfl⟩

theorem Laws.Opcode.red (w : LongWord) : Laws.Opcode.Statement (.red w) := fun _ => ⟨by decide, rfl⟩

theorem Laws.Opcode.atoms (w : LongWord) : Laws.Opcode.Statement (.atoms w) := fun _ => ⟨by decide, rfl⟩

theorem Laws.Opcode.atomx (w : LongWord) : Laws.Opcode.Statement (.atomx w) := fun _ => ⟨by decide, rfl⟩

theorem Laws.Opcode.tbegin (w : LongWord) : Laws.Opcode.Statement (.tbegin w) := fun _ => ⟨by decide, rfl⟩

theorem Laws.Opcode.tcommit (w : LongWord) : Laws.Opcode.Statement (.tcommit w) := fun _ => ⟨by decide, rfl⟩

theorem Laws.Opcode.tabort (w : LongWord) : Laws.Opcode.Statement (.tabort w) := fun _ => ⟨by decide, rfl⟩

theorem Laws.Opcode.tstat (w : LongWord) : Laws.Opcode.Statement (.tstat w) := fun _ => ⟨by decide, rfl⟩

theorem Laws.Opcode.fence (w : LongWord) : Laws.Opcode.Statement (.fence w) := fun _ => ⟨by decide, rfl⟩

theorem Laws.Opcode.bar (w : LongWord) : Laws.Opcode.Statement (.bar w) := fun _ => ⟨by decide, rfl⟩

theorem Laws.Opcode.cbar (w : LongWord) : Laws.Opcode.Statement (.cbar w) := fun h => ⟨by decide, by
  have h : (!((w.sub6.getLsbD 2 : Bool))) = true := h
  show some (if w.sub6.getLsbD 2 then Instr.cbarCopy w else Instr.cbar w) = some (.cbar w)
  simp at h
  simp [h]⟩

theorem Laws.Opcode.cbarCopy (w : LongWord) : Laws.Opcode.Statement (.cbarCopy w) := fun h => ⟨by decide, by
  have h : (w.sub6.getLsbD 2) = true := h
  show some (if w.sub6.getLsbD 2 then Instr.cbarCopy w else Instr.cbar w) = some (.cbarCopy w)
  simp at h
  simp [h]⟩

theorem Laws.Opcode.arrive (w : LongWord) : Laws.Opcode.Statement (.arrive w) := fun _ => ⟨by decide, rfl⟩

theorem Laws.Opcode.waitv (w : LongWord) : Laws.Opcode.Statement (.waitv w) := fun _ => ⟨by decide, rfl⟩

theorem Laws.Opcode.tokenWait (w : LongWord) : Laws.Opcode.Statement (.tokenWait w) := fun h => ⟨by decide, by
  have h : (!((w.sub6 == 1#6 : Bool))) = true := h
  show some (if w.sub6 == 1#6 then Instr.tokenPass w else Instr.tokenWait w) = some (.tokenWait w)
  simp at h
  simp [h]⟩

theorem Laws.Opcode.tokenPass (w : LongWord) : Laws.Opcode.Statement (.tokenPass w) := fun h => ⟨by decide, by
  have h : (w.sub6 == 1#6) = true := h
  show some (if w.sub6 == 1#6 then Instr.tokenPass w else Instr.tokenWait w) = some (.tokenPass w)
  simp at h
  simp [h]⟩

theorem Laws.Opcode.mrsv (w : LongWord) : Laws.Opcode.Statement (.mrsv w) := fun h => ⟨by decide, by
  have h : (!((w.sub6 == 1#6 : Bool))) = true := h
  show some (if w.sub6 == 1#6 then Instr.mrsvAcc w else Instr.mrsv w) = some (.mrsv w)
  simp at h
  simp [h]⟩

theorem Laws.Opcode.mrsvAcc (w : LongWord) : Laws.Opcode.Statement (.mrsvAcc w) := fun h => ⟨by decide, by
  have h : (w.sub6 == 1#6) = true := h
  show some (if w.sub6 == 1#6 then Instr.mrsvAcc w else Instr.mrsv w) = some (.mrsvAcc w)
  simp at h
  simp [h]⟩

theorem Laws.Opcode.mrel (w : LongWord) : Laws.Opcode.Statement (.mrel w) := fun h => ⟨by decide, by
  have h : (!((w.sub6 == 1#6 : Bool))) = true := h
  show some (if w.sub6 == 1#6 then Instr.mrelAcc w else Instr.mrel w) = some (.mrel w)
  simp at h
  simp [h]⟩

theorem Laws.Opcode.mrelAcc (w : LongWord) : Laws.Opcode.Statement (.mrelAcc w) := fun h => ⟨by decide, by
  have h : (w.sub6 == 1#6) = true := h
  show some (if w.sub6 == 1#6 then Instr.mrelAcc w else Instr.mrel w) = some (.mrelAcc w)
  simp at h
  simp [h]⟩

theorem Laws.Opcode.mma (w : LongWord) : Laws.Opcode.Statement (.mma w) := fun _ => ⟨by decide, rfl⟩

theorem Laws.Opcode.mwait (w : LongWord) : Laws.Opcode.Statement (.mwait w) := fun h => ⟨by decide, by
  have h : (!((w.sub6 == 1#6 : Bool))) = true := h
  show some (if w.sub6 == 1#6 then Instr.mwaitAll w else Instr.mwait w) = some (.mwait w)
  simp at h
  simp [h]⟩

theorem Laws.Opcode.mwaitAll (w : LongWord) : Laws.Opcode.Statement (.mwaitAll w) := fun h => ⟨by decide, by
  have h : (w.sub6 == 1#6) = true := h
  show some (if w.sub6 == 1#6 then Instr.mwaitAll w else Instr.mwait w) = some (.mwaitAll w)
  simp at h
  simp [h]⟩

theorem Laws.Opcode.mdrain (w : LongWord) : Laws.Opcode.Statement (.mdrain w) := fun _ => ⟨by decide, rfl⟩

theorem Laws.Opcode.mzero (w : LongWord) : Laws.Opcode.Statement (.mzero w) := fun _ => ⟨by decide, rfl⟩

theorem Laws.Opcode.msave (w : LongWord) : Laws.Opcode.Statement (.msave w) := fun _ => ⟨by decide, rfl⟩

theorem Laws.Opcode.mload (w : LongWord) : Laws.Opcode.Statement (.mload w) := fun _ => ⟨by decide, rfl⟩

theorem Laws.Opcode.mchk (w : LongWord) : Laws.Opcode.Statement (.mchk w) := fun _ => ⟨by decide, rfl⟩

theorem Laws.Opcode.japp (w : LongWord) : Laws.Opcode.Statement (.japp w) := fun _ => ⟨by decide, rfl⟩

theorem Laws.Opcode.emit (w : LongWord) : Laws.Opcode.Statement (.emit w) := fun _ => ⟨by decide, rfl⟩

theorem Laws.Opcode.jsync (w : LongWord) : Laws.Opcode.Statement (.jsync w) := fun h => ⟨by decide, by
  have h : (!((w.sub6 == 1#6 : Bool))) = true := h
  show some (if w.sub6 == 1#6 then Instr.jsyncCtx w else Instr.jsync w) = some (.jsync w)
  simp at h
  simp [h]⟩

theorem Laws.Opcode.jsyncCtx (w : LongWord) : Laws.Opcode.Statement (.jsyncCtx w) := fun h => ⟨by decide, by
  have h : (w.sub6 == 1#6) = true := h
  show some (if w.sub6 == 1#6 then Instr.jsyncCtx w else Instr.jsync w) = some (.jsyncCtx w)
  simp at h
  simp [h]⟩

theorem Laws.Opcode.jtrunc (w : LongWord) : Laws.Opcode.Statement (.jtrunc w) := fun _ => ⟨by decide, rfl⟩

theorem Laws.Opcode.jseed (w : LongWord) : Laws.Opcode.Statement (.jseed w) := fun _ => ⟨by decide, rfl⟩

theorem Laws.Opcode.sopen (w : LongWord) : Laws.Opcode.Statement (.sopen w) := fun _ => ⟨by decide, rfl⟩

theorem Laws.Opcode.sclose (w : LongWord) : Laws.Opcode.Statement (.sclose w) := fun _ => ⟨by decide, rfl⟩

theorem Laws.Opcode.csrr (w : LongWord) : Laws.Opcode.Statement (.csrr w) := fun _ => ⟨by decide, rfl⟩

theorem Laws.Opcode.csrw (w : LongWord) : Laws.Opcode.Statement (.csrw w) := fun _ => ⟨by decide, rfl⟩

theorem Laws.Opcode.csrxSwap (w : LongWord) : Laws.Opcode.Statement (.csrxSwap w) := fun h => ⟨by decide, by
  have h : (!((w.sub6 == 1#6 : Bool) || (w.sub6 == 2#6 : Bool))) = true := h
  show some (if w.sub6 == 1#6 then Instr.csrxSet w else if w.sub6 == 2#6 then Instr.csrxClr w else Instr.csrxSwap w) = some (.csrxSwap w)
  simp at h
  simp [h]⟩

theorem Laws.Opcode.csrxSet (w : LongWord) : Laws.Opcode.Statement (.csrxSet w) := fun h => ⟨by decide, by
  have h : (w.sub6 == 1#6) = true := h
  show some (if w.sub6 == 1#6 then Instr.csrxSet w else if w.sub6 == 2#6 then Instr.csrxClr w else Instr.csrxSwap w) = some (.csrxSet w)
  simp at h
  simp [h]⟩

theorem Laws.Opcode.csrxClr (w : LongWord) : Laws.Opcode.Statement (.csrxClr w) := fun h => ⟨by decide, by
  have h : (w.sub6 == 2#6) = true := h
  show some (if w.sub6 == 1#6 then Instr.csrxSet w else if w.sub6 == 2#6 then Instr.csrxClr w else Instr.csrxSwap w) = some (.csrxClr w)
  simp at h
  simp [h]⟩

theorem Laws.Opcode.trapret (w : LongWord) : Laws.Opcode.Statement (.trapret w) := fun _ => ⟨by decide, rfl⟩

theorem Laws.Opcode.region (w : LongWord) : Laws.Opcode.Statement (.region w) := fun _ => ⟨by decide, rfl⟩

theorem Laws.Opcode.tlbinvCtx (w : LongWord) : Laws.Opcode.Statement (.tlbinvCtx w) := fun h => ⟨by decide, by
  have h : (!((w.sub6 == 1#6 : Bool) || (w.sub6 == 2#6 : Bool))) = true := h
  show some (if w.sub6 == 1#6 then Instr.tlbinvRange w else if w.sub6 == 2#6 then Instr.tlbinvAll w else Instr.tlbinvCtx w) = some (.tlbinvCtx w)
  simp at h
  simp [h]⟩

theorem Laws.Opcode.tlbinvRange (w : LongWord) : Laws.Opcode.Statement (.tlbinvRange w) := fun h => ⟨by decide, by
  have h : (w.sub6 == 1#6) = true := h
  show some (if w.sub6 == 1#6 then Instr.tlbinvRange w else if w.sub6 == 2#6 then Instr.tlbinvAll w else Instr.tlbinvCtx w) = some (.tlbinvRange w)
  simp at h
  simp [h]⟩

theorem Laws.Opcode.tlbinvAll (w : LongWord) : Laws.Opcode.Statement (.tlbinvAll w) := fun h => ⟨by decide, by
  have h : (w.sub6 == 2#6) = true := h
  show some (if w.sub6 == 1#6 then Instr.tlbinvRange w else if w.sub6 == 2#6 then Instr.tlbinvAll w else Instr.tlbinvCtx w) = some (.tlbinvAll w)
  simp at h
  simp [h]⟩

theorem Laws.Opcode.selftestLane (w : LongWord) : Laws.Opcode.Statement (.selftestLane w) := fun h => ⟨by decide, by
  have h : (!((w.sub6 == 1#6 : Bool) || (w.sub6 == 2#6 : Bool) || (w.sub6 == 3#6 : Bool) || (w.sub6 == 4#6 : Bool))) = true := h
  show some (if w.sub6 == 1#6 then Instr.selftestL1 w else if w.sub6 == 2#6 then Instr.selftestEngine w else if w.sub6 == 3#6 then Instr.selftestRfull w else if w.sub6 == 4#6 then Instr.selftestLink w else Instr.selftestLane w) = some (.selftestLane w)
  simp at h
  simp [h]⟩

theorem Laws.Opcode.selftestL1 (w : LongWord) : Laws.Opcode.Statement (.selftestL1 w) := fun h => ⟨by decide, by
  have h : (w.sub6 == 1#6) = true := h
  show some (if w.sub6 == 1#6 then Instr.selftestL1 w else if w.sub6 == 2#6 then Instr.selftestEngine w else if w.sub6 == 3#6 then Instr.selftestRfull w else if w.sub6 == 4#6 then Instr.selftestLink w else Instr.selftestLane w) = some (.selftestL1 w)
  simp at h
  simp [h]⟩

theorem Laws.Opcode.selftestEngine (w : LongWord) : Laws.Opcode.Statement (.selftestEngine w) := fun h => ⟨by decide, by
  have h : (w.sub6 == 2#6) = true := h
  show some (if w.sub6 == 1#6 then Instr.selftestL1 w else if w.sub6 == 2#6 then Instr.selftestEngine w else if w.sub6 == 3#6 then Instr.selftestRfull w else if w.sub6 == 4#6 then Instr.selftestLink w else Instr.selftestLane w) = some (.selftestEngine w)
  simp at h
  simp [h]⟩

theorem Laws.Opcode.selftestRfull (w : LongWord) : Laws.Opcode.Statement (.selftestRfull w) := fun h => ⟨by decide, by
  have h : (w.sub6 == 3#6) = true := h
  show some (if w.sub6 == 1#6 then Instr.selftestL1 w else if w.sub6 == 2#6 then Instr.selftestEngine w else if w.sub6 == 3#6 then Instr.selftestRfull w else if w.sub6 == 4#6 then Instr.selftestLink w else Instr.selftestLane w) = some (.selftestRfull w)
  simp at h
  simp [h]⟩

theorem Laws.Opcode.selftestLink (w : LongWord) : Laws.Opcode.Statement (.selftestLink w) := fun h => ⟨by decide, by
  have h : (w.sub6 == 4#6) = true := h
  show some (if w.sub6 == 1#6 then Instr.selftestL1 w else if w.sub6 == 2#6 then Instr.selftestEngine w else if w.sub6 == 3#6 then Instr.selftestRfull w else if w.sub6 == 4#6 then Instr.selftestLink w else Instr.selftestLane w) = some (.selftestLink w)
  simp at h
  simp [h]⟩

theorem Laws.Opcode.caramelHalt (w : CaramelFields) : Laws.Opcode.Statement (.caramelHalt w) := fun _ => ⟨by decide, rfl⟩

theorem Laws.Opcode.caramelMatch (w : CaramelFields) : Laws.Opcode.Statement (.caramelMatch w) := fun _ => ⟨by decide, rfl⟩

theorem Laws.Opcode.caramelMatchx (w : CaramelFields) : Laws.Opcode.Statement (.caramelMatchx w) := fun _ => ⟨by decide, rfl⟩

theorem Laws.Opcode.caramelRecv (w : CaramelFields) : Laws.Opcode.Statement (.caramelRecv w) := fun _ => ⟨by decide, rfl⟩

theorem Laws.Opcode.caramelWaitn (w : CaramelFields) : Laws.Opcode.Statement (.caramelWaitn w) := fun _ => ⟨by decide, rfl⟩

theorem Laws.Opcode.caramelComb (w : CaramelFields) : Laws.Opcode.Statement (.caramelComb w) := fun _ => ⟨by decide, rfl⟩

theorem Laws.Opcode.caramelCombo (w : CaramelFields) : Laws.Opcode.Statement (.caramelCombo w) := fun _ => ⟨by decide, rfl⟩

theorem Laws.Opcode.caramelCvt (w : CaramelFields) : Laws.Opcode.Statement (.caramelCvt w) := fun _ => ⟨by decide, rfl⟩

theorem Laws.Opcode.caramelFwd (w : CaramelFields) : Laws.Opcode.Statement (.caramelFwd w) := fun _ => ⟨by decide, rfl⟩

theorem Laws.Opcode.caramelMcast (w : CaramelFields) : Laws.Opcode.Statement (.caramelMcast w) := fun _ => ⟨by decide, rfl⟩

theorem Laws.Opcode.caramelSend (w : CaramelFields) : Laws.Opcode.Statement (.caramelSend w) := fun _ => ⟨by decide, rfl⟩

theorem Laws.Opcode.caramelGath (w : CaramelFields) : Laws.Opcode.Statement (.caramelGath w) := fun _ => ⟨by decide, rfl⟩

theorem Laws.Opcode.caramelScat (w : CaramelFields) : Laws.Opcode.Statement (.caramelScat w) := fun _ => ⟨by decide, rfl⟩

theorem Laws.Opcode.caramelDrop (w : CaramelFields) : Laws.Opcode.Statement (.caramelDrop w) := fun _ => ⟨by decide, rfl⟩

theorem Laws.Opcode.caramelLdk (w : CaramelFields) : Laws.Opcode.Statement (.caramelLdk w) := fun _ => ⟨by decide, rfl⟩

theorem Laws.Opcode.caramelSetk (w : CaramelFields) : Laws.Opcode.Statement (.caramelSetk w) := fun _ => ⟨by decide, rfl⟩

theorem Laws.Opcode.caramelAddk (w : CaramelFields) : Laws.Opcode.Statement (.caramelAddk w) := fun _ => ⟨by decide, rfl⟩

theorem Laws.Opcode.caramelBrk (w : CaramelFields) : Laws.Opcode.Statement (.caramelBrk w) := fun _ => ⟨by decide, rfl⟩

theorem Laws.Opcode.caramelBnz (w : CaramelFields) : Laws.Opcode.Statement (.caramelBnz w) := fun _ => ⟨by decide, rfl⟩

theorem Laws.Opcode.caramelLoopk (w : CaramelFields) : Laws.Opcode.Statement (.caramelLoopk w) := fun _ => ⟨by decide, rfl⟩

theorem Laws.Opcode.caramelPost (w : CaramelFields) : Laws.Opcode.Statement (.caramelPost w) := fun _ => ⟨by decide, rfl⟩

theorem Laws.Opcode.caramelDone (w : CaramelFields) : Laws.Opcode.Statement (.caramelDone w) := fun _ => ⟨by decide, rfl⟩

theorem Laws.Opcode.unassignedOpcode (w : RawWord) : Laws.Opcode.Statement (.unassignedOpcode w) := fun h => .inl h

theorem Laws.Opcode.caramelIllegalWord (w : Option (BitVec 32)) : Laws.Opcode.Statement (.caramelIllegalWord w) := fun h => by
  cases w with
  | none => exact trivial
  | some b => exact .inr ⟨b, rfl, .inr (of_decide_eq_true h)⟩

theorem Laws.Opcode.exitDrainComplete : Laws.Opcode.Statement (.exitDrainComplete) := fun _ => trivial

theorem Laws.Opcode.yieldTimeout : Laws.Opcode.Statement (.yieldTimeout) := fun _ => trivial

theorem Laws.Opcode.publSwap : Laws.Opcode.Statement (.publSwap) := fun _ => trivial

theorem Laws.Opcode.copySectorDelivered : Laws.Opcode.Statement (.copySectorDelivered) := fun _ => trivial

theorem Laws.Opcode.copyPreemptPause : Laws.Opcode.Statement (.copyPreemptPause) := fun _ => trivial

theorem Laws.Opcode.scFenceMarker : Laws.Opcode.Statement (.scFenceMarker) := fun _ => trivial

theorem Laws.Opcode.waitvPoll : Laws.Opcode.Statement (.waitvPoll) := fun _ => trivial

theorem Laws.Opcode.commitTokenHandover : Laws.Opcode.Statement (.commitTokenHandover) := fun _ => trivial

theorem Laws.Opcode.edetwaitTimeout : Laws.Opcode.Statement (.edetwaitTimeout) := fun _ => trivial

theorem Laws.Opcode.mrsvCopyComplete : Laws.Opcode.Statement (.mrsvCopyComplete) := fun _ => trivial

theorem Laws.Opcode.mrelPerform : Laws.Opcode.Statement (.mrelPerform) := fun _ => trivial

theorem Laws.Opcode.engineGrant : Laws.Opcode.Statement (.engineGrant) := fun _ => trivial

theorem Laws.Opcode.engineEntryAge : Laws.Opcode.Statement (.engineEntryAge) := fun _ => trivial

theorem Laws.Opcode.engineCommandComplete : Laws.Opcode.Statement (.engineCommandComplete) := fun _ => trivial

theorem Laws.Opcode.jsyncStallTimeout : Laws.Opcode.Statement (.jsyncStallTimeout) := fun _ => trivial

theorem Laws.Opcode.journalRecordAtPartner : Laws.Opcode.Statement (.journalRecordAtPartner) := fun _ => trivial

theorem Laws.Opcode.journalAck : Laws.Opcode.Statement (.journalAck) := fun _ => trivial

theorem Laws.Opcode.replayJournalFetch : Laws.Opcode.Statement (.replayJournalFetch) := fun _ => trivial

theorem Laws.Opcode.streamCloseDrain : Laws.Opcode.Statement (.streamCloseDrain) := fun _ => trivial

theorem Laws.Opcode.streamClosed : Laws.Opcode.Statement (.streamClosed) := fun _ => trivial

theorem Laws.Opcode.tlbinvComplete : Laws.Opcode.Statement (.tlbinvComplete) := fun _ => trivial

theorem Laws.Opcode.longResultReturn : Laws.Opcode.Statement (.longResultReturn) := fun _ => trivial

theorem Laws.Opcode.parkCommit : Laws.Opcode.Statement (.parkCommit) := fun _ => trivial

theorem Laws.Opcode.pageFaultResolved : Laws.Opcode.Statement (.pageFaultResolved) := fun _ => trivial

theorem Laws.Opcode.ottEntryGrant : Laws.Opcode.Statement (.ottEntryGrant) := fun _ => trivial

theorem Laws.Opcode.tableWalkDone : Laws.Opcode.Statement (.tableWalkDone) := fun _ => trivial

theorem Laws.Opcode.lldWindowEnd : Laws.Opcode.Statement (.lldWindowEnd) := fun _ => trivial

theorem Laws.Opcode.reformBinAgeExpiry : Laws.Opcode.Statement (.reformBinAgeExpiry) := fun _ => trivial

theorem Laws.Opcode.reformBinDraw : Laws.Opcode.Statement (.reformBinDraw) := fun _ => trivial

theorem Laws.Opcode.reformDetDrain : Laws.Opcode.Statement (.reformDetDrain) := fun _ => trivial

theorem Laws.Opcode.wcDrain : Laws.Opcode.Statement (.wcDrain) := fun _ => trivial

theorem Laws.Opcode.wcAgeExpiry : Laws.Opcode.Statement (.wcAgeExpiry) := fun _ => trivial

theorem Laws.Opcode.wcDrainAck : Laws.Opcode.Statement (.wcDrainAck) := fun _ => trivial

theorem Laws.Opcode.remoteReadAtOwner : Laws.Opcode.Statement (.remoteReadAtOwner) := fun _ => trivial

theorem Laws.Opcode.remoteWriteAtOwner : Laws.Opcode.Statement (.remoteWriteAtOwner) := fun _ => trivial

theorem Laws.Opcode.streamRequestAtOwner : Laws.Opcode.Statement (.streamRequestAtOwner) := fun _ => trivial

theorem Laws.Opcode.lowWaterUpdate : Laws.Opcode.Statement (.lowWaterUpdate) := fun _ => trivial

theorem Laws.Opcode.lwmIdleSend : Laws.Opcode.Statement (.lwmIdleSend) := fun _ => trivial

theorem Laws.Opcode.remoteAnswer : Laws.Opcode.Statement (.remoteAnswer) := fun _ => trivial

theorem Laws.Opcode.remoteTimeout : Laws.Opcode.Statement (.remoteTimeout) := fun _ => trivial

theorem Laws.Opcode.busyResend : Laws.Opcode.Statement (.busyResend) := fun _ => trivial

theorem Laws.Opcode.yptPacketExpire : Laws.Opcode.Statement (.yptPacketExpire) := fun _ => trivial

theorem Laws.Opcode.ownerRestart : Laws.Opcode.Statement (.ownerRestart) := fun _ => trivial

theorem Laws.Opcode.linkDown : Laws.Opcode.Statement (.linkDown) := fun _ => trivial

theorem Laws.Opcode.linkRecover : Laws.Opcode.Statement (.linkRecover) := fun _ => trivial

theorem Laws.Opcode.membershipChange : Laws.Opcode.Statement (.membershipChange) := fun _ => trivial

theorem Laws.Opcode.packageRejoin : Laws.Opcode.Statement (.packageRejoin) := fun _ => trivial

theorem Laws.Opcode.arm : Laws.Opcode.Statement (.arm) := fun _ => trivial

theorem Laws.Opcode.seal : Laws.Opcode.Statement (.seal) := fun _ => trivial

theorem Laws.Opcode.disarm : Laws.Opcode.Statement (.disarm) := fun _ => trivial

theorem Laws.Opcode.windowDataStore : Laws.Opcode.Statement (.windowDataStore) := fun _ => trivial

theorem Laws.Opcode.caramelProgramStart : Laws.Opcode.Statement (.caramelProgramStart) := fun _ => trivial

theorem Laws.Opcode.caramelPacketArrival : Laws.Opcode.Statement (.caramelPacketArrival) := fun _ => trivial

theorem Laws.Opcode.caramelTransferAck : Laws.Opcode.Statement (.caramelTransferAck) := fun _ => trivial

theorem Laws.Opcode.caramelAbortReceived : Laws.Opcode.Statement (.caramelAbortReceived) := fun _ => trivial

theorem Laws.Opcode.mailboxSubmit : Laws.Opcode.Statement (.mailboxSubmit) := fun _ => trivial

theorem Laws.Opcode.mailboxDonebitClear : Laws.Opcode.Statement (.mailboxDonebitClear) := fun _ => trivial

theorem Laws.Opcode.serviceSubmission : Laws.Opcode.Statement (.serviceSubmission) := fun _ => trivial

theorem Laws.Opcode.unmap : Laws.Opcode.Statement (.unmap) := fun _ => trivial

theorem Laws.Opcode.migrate : Laws.Opcode.Statement (.migrate) := fun _ => trivial

theorem Laws.Opcode.reclaim : Laws.Opcode.Statement (.reclaim) := fun _ => trivial

theorem Laws.Opcode.exportFrames : Laws.Opcode.Statement (.exportFrames) := fun _ => trivial

theorem Laws.Opcode.unexportFrames : Laws.Opcode.Statement (.unexportFrames) := fun _ => trivial

theorem Laws.Opcode.depSampleOnUpdate : Laws.Opcode.Statement (.depSampleOnUpdate) := fun _ => trivial

theorem Laws.Opcode.depSampleTimer : Laws.Opcode.Statement (.depSampleTimer) := fun _ => trivial

theorem Laws.Opcode.clusterDispatch : Laws.Opcode.Statement (.clusterDispatch) := fun _ => trivial

theorem Laws.Opcode.priorityPreemption : Laws.Opcode.Statement (.priorityPreemption) := fun _ => trivial

theorem Laws.Opcode.preemptionHalted : Laws.Opcode.Statement (.preemptionHalted) := fun _ => trivial

theorem Laws.Opcode.teamEndChannelsQuiet : Laws.Opcode.Statement (.teamEndChannelsQuiet) := fun _ => trivial

theorem Laws.Opcode.teamEndEngineDone : Laws.Opcode.Statement (.teamEndEngineDone) := fun _ => trivial

theorem Laws.Opcode.peerWindowCloseAck : Laws.Opcode.Statement (.peerWindowCloseAck) := fun _ => trivial

theorem Laws.Opcode.launchRetire : Laws.Opcode.Statement (.launchRetire) := fun _ => trivial

theorem Laws.Opcode.contextCreate : Laws.Opcode.Statement (.contextCreate) := fun _ => trivial

theorem Laws.Opcode.contextDestroy : Laws.Opcode.Statement (.contextDestroy) := fun _ => trivial

theorem Laws.Opcode.bankroleWrite : Laws.Opcode.Statement (.bankroleWrite) := fun _ => trivial

theorem Laws.Opcode.tgtctxWrite : Laws.Opcode.Statement (.tgtctxWrite) := fun _ => trivial

theorem Laws.Opcode.tpcWrite : Laws.Opcode.Statement (.tpcWrite) := fun _ => trivial

theorem Laws.Opcode.errstatClear : Laws.Opcode.Statement (.errstatClear) := fun _ => trivial

theorem Laws.Opcode.jpartnerWrite : Laws.Opcode.Statement (.jpartnerWrite) := fun _ => trivial

theorem Laws.Opcode.translationCsrWrite : Laws.Opcode.Statement (.translationCsrWrite) := fun _ => trivial

theorem Laws.Opcode.meyeStart : Laws.Opcode.Statement (.meyeStart) := fun _ => trivial

theorem Laws.Opcode.meyeCountDone : Laws.Opcode.Statement (.meyeCountDone) := fun _ => trivial

theorem Laws.Opcode.registerWrite : Laws.Opcode.Statement (.registerWrite) := fun _ => trivial

theorem Laws.Opcode.hostBar0InvalidAccess : Laws.Opcode.Statement (.hostBar0InvalidAccess) := fun _ => trivial

theorem Laws.Opcode.correctionWindowEnd : Laws.Opcode.Statement (.correctionWindowEnd) := fun _ => trivial

theorem Laws.Opcode.elogAck : Laws.Opcode.Statement (.elogAck) := fun _ => trivial

theorem Laws.Opcode.bootRomVerify : Laws.Opcode.Statement (.bootRomVerify) := fun _ => trivial

theorem Laws.Opcode.dieAdmission : Laws.Opcode.Statement (.dieAdmission) := fun _ => trivial

theorem Laws.Opcode.engineSelftestStage : Laws.Opcode.Statement (.engineSelftestStage) := fun _ => trivial

theorem Laws.Opcode.powerOff : Laws.Opcode.Statement (.powerOff) := fun _ => trivial

theorem Laws.Opcode.hubReset : Laws.Opcode.Statement (.hubReset) := fun _ => trivial

theorem Laws.Opcode.firmwareRestart : Laws.Opcode.Statement (.firmwareRestart) := fun _ => trivial

theorem Laws.Opcode.thermalThrottle : Laws.Opcode.Statement (.thermalThrottle) := fun _ => trivial

theorem Laws.Opcode.thermalRecover : Laws.Opcode.Statement (.thermalRecover) := fun _ => trivial

theorem Laws.Opcode.overTemperatureTrip : Laws.Opcode.Statement (.overTemperatureTrip) := fun _ => trivial

theorem Laws.Opcode.postedEntryPerformed : Laws.Opcode.Statement (.postedEntryPerformed) := fun _ => trivial

theorem Laws.Opcode.scatWritesPerformed : Laws.Opcode.Statement (.scatWritesPerformed) := fun _ => trivial

theorem Laws.Opcode.journalTruncationAtPartner : Laws.Opcode.Statement (.journalTruncationAtPartner) := fun _ => trivial

end

end Sys2Proof
end

