-- ==== Sys2Proof/Tests/Slice0.lean ====
section
/-! SUPPORT. Tests: words decoded from the spec's encodings, ill-formed terms refused, and a state and operands that
meet the hypotheses of each statement together. -/

open Sys2Proof Sys2Proof.Machine

section OneAfterAnother

-- Each test is checked before the next is read, so that the checks of several do not add up in memory.
set_option Elab.async false

/-! ### Demonstration states and words -/

/-- One group of eight threads at 0x20000 on core 0, in a context that maps the first GiB, about to issue an instruction
of `len` bytes there. -/
def demo (len : Nat) : State := setCursor (State.reset.withFetchWord 64 0) 0 0 (word placeAddr) len

/-- That state with the group changed. -/
def demoG (len : Nat) (f : Group → Group) : State := modGroup (demo len) 0 0 f

/-- That state with the team changed. -/
def demoT (len : Nat) (f : Team → Team) : State := modTeam (demo len) 0 f

/-- That state with a field of the launch record changed: word `i` is `x`. -/
def demoR (len i : Nat) (x : Word) : State :=
  modLaunch (demo len) 0 (fun l => { l with rec_ := l.rec_.set i x })

/-- A word of format W, unguarded: SUB6, M6, D, A, B, C. -/
def wd (sub m6 d a b c : Nat) : LongWord :=
  ⟨false, BitVec.ofNat 6 sub, 0, false, BitVec.ofNat 8 d, BitVec.ofNat 8 a, BitVec.ofNat 8 b, BitVec.ofNat 8 c, BitVec.ofNat 6 m6, none⟩

/-- A word of format X with its literal. -/
def wx (sub m6 d a c lit : Nat) : LongWord := { wd sub m6 d a 0 c with lit := some (BitVec.ofNat 32 lit) }

/-- A word of format K and one of format J. -/
def kw (d a b : Nat) : KWord := ⟨false, 0, false, BitVec.ofNat 6 d, BitVec.ofNat 6 a, BitVec.ofNat 6 b⟩
def jw (d imm : Nat) : JWord := ⟨false, 0, false, BitVec.ofNat 6 d, BitVec.ofNat 12 imm⟩

/-- The instruction is offered and passes its checks, exec answers a next state, and `p` holds of the two. -/
def passes (i : Instr) (s : State) (w : LongWord) (sh : Shape) (k : Issue) (p : Ic → State → Bool) : Bool :=
  match offer s w sh k, exec i s with
  | .ok c, .next t => p c t
  | _, _ => false

/-- Whether exec answers the next state `t`. -/
def leads (i : Instr) (s t : State) : Bool :=
  match exec i s with
  | .next u => decide (u = t)
  | _ => false

/-- Register field `f` of lane `l` of the demonstration's group. -/
def regAt (t : State) (l : Nat) (f : BitVec 8) : Word := ((groupAt t 0 0).map (fun g => readReg g l f)).getD 0

/-- The group with a value in a v-register of every lane, another in an s-register. -/
def withV (n : Nat) (x : Word) (g : Group) : Group := { g with threads := g.threads.map (fun t => t.writeV n x) }
def withS (n : Nat) (x : Word) (g : Group) : Group := { g with sreg := wset g.sreg n x }

/-- The packets sent, by destination. -/
def sent (t : State) : List (Nat × Message) := t.out.map (fun p => (p.dst, p.msg))

/-- Offered with no further hypothesis. -/
def plain (i : Instr) (w : LongWord) (sh : Shape) (k : Issue) : Bool := passes i (demo 8) w sh k (fun _ _ => true)

/-! ### Witnesses: integer and floating-point instructions -/

theorem witness_integer_arithmetic :
    let w := wd 2 1 1 2 3 0
    let z := wd 2 0 1 2 3 0
    plain (.iadd w) w (shapeInt w true) {} ∧ plain (.isub w) w (shapeInt w true) {} ∧ plain (.imul w) w (shapeInt w true) {}
    ∧ plain (.imin z) z (shapeInt z false) {} ∧ plain (.imax z) z (shapeInt z false) {} ∧ plain (.imulh z) z (shapeInt z false) {}
    ∧ plain (.iaddI32K (kw 1 2 3)) (kLong 2 (kw 1 2 3)) (shapeInt (kLong 2 (kw 1 2 3)) true) {}
    ∧ plain (.iaddI64K (kw 1 2 3)) (kLong 0 (kw 1 2 3)) (shapeInt (kLong 0 (kw 1 2 3)) true) {}
    ∧ plain (.iaddI32J (jw 1 0xFFF)) (jLong 2 (jw 1 0xFFF)) (shapeInt (jLong 2 (jw 1 0xFFF)) true) {}
    ∧ plain (.iaddI64J (jw 1 0xFFF)) (jLong 0 (jw 1 0xFFF)) (shapeInt (jLong 0 (jw 1 0xFFF)) true) {}
    ∧ plain (.isubI32K (kw 1 2 3)) (kLong 2 (kw 1 2 3)) (shapeInt (kLong 2 (kw 1 2 3)) true) {}
    ∧ plain (.imulI32K (kw 1 2 3)) (kLong 2 (kw 1 2 3)) (shapeInt (kLong 2 (kw 1 2 3)) true) {}
    ∧ plain (.imad w) w { shapeInt w true with c := .src 1 } {} := by decide +kernel

/-- R151: −7 divided by 2 is −3, the remainder −1; a zero divisor gives all ones and the dividend. -/
theorem witness_integer_division :
    let w := wd 0 0 201 202 203 204
    let go (a b q r : Nat) : Bool := passes (.idiv w) (demoG 8 (fun g => withS 10 (word a) (withS 11 (word b) g))) w
      { shapeInt w false with c := .dst 1 } {} (fun _ t => regAt t 7 201 == word q && regAt t 7 204 == word r)
    go (2 ^ 64 - 7) 2 (2 ^ 64 - 3) (2 ^ 64 - 1) ∧ go 7 0 (2 ^ 64 - 1) 7 := by decide +kernel

theorem witness_unary_and_shifts :
    let w := wd 2 1 1 2 0 0
    let z := wd 2 0 1 2 0 0
    let x := wx 2 0 1 2 0 32
    plain (.iabs w) w (shapeInt1 w (subNo w ≤ 7 && subNo w % 2 == 0) true) {}
    ∧ plain (.popc z) z (shapeInt1 z (subNo z ≤ 7) false) {} ∧ plain (.clz z) z (shapeInt1 z (subNo z ≤ 7) false) {}
    ∧ plain (.brev z) z (shapeInt1 z (subNo z ≤ 7) false) {}
    ∧ plain (.shl w) w (shapeInt w true) {} ∧ plain (.shr x) x (shapeInt x false) {} ∧ plain (.shra x) x (shapeInt x false) {}
    ∧ plain (.rot x) x (shapeInt x false) {}
    ∧ plain (.shlN32K (kw 1 2 3)) (kLong 3 (kw 1 2 3)) (shapeInt (kLong 3 (kw 1 2 3)) true) {}
    ∧ plain (.shlN32J (jw 1 31)) (jLong 3 (jw 1 31)) (shapeInt (jLong 3 (jw 1 31)) true) {}
    ∧ plain (.shrN32K (kw 1 2 3)) (kLong 3 (kw 1 2 3)) (shapeInt (kLong 3 (kw 1 2 3)) false) {}
    ∧ plain (.shrN32J (jw 1 31)) (jLong 3 (jw 1 31)) (shapeInt (jLong 3 (jw 1 31)) false) {} := by decide +kernel

theorem witness_shift_past_width : tyBits 6 ≠ 0 ∧ 0x80 < 2 ^ tyBits 6 ∧ tyBits 6 ≤ 8 := by decide

theorem witness_bits_and_moves :
    let w := wd 0 0 1 2 3 0x6A
    let z := wd 0 0 1 2 3 0
    let mz := wd 0 0 1 2 0 0
    let mx := wx 2 0 1 0 0 0xFFFFFFFF
    let ms := wd 6 0 1 2 0 0x77
    let lea := wd 3 0 1 2 3 7
    let cvt := wd 4 1 1 2 0 0x26
    plain (.bitf w) w { shapeInt w false with c := .imm } {}
    ∧ plain (.bitfAndK (kw 1 2 3)) (kLongBitf 0x88 (kw 1 2 3)) { shapeInt (kLongBitf 0x88 (kw 1 2 3)) false with c := .imm } {}
    ∧ plain (.bitfOrK (kw 1 2 3)) (kLongBitf 0xEE (kw 1 2 3)) { shapeInt (kLongBitf 0xEE (kw 1 2 3)) false with c := .imm } {}
    ∧ plain (.bitfXorK (kw 1 2 3)) (kLongBitf 0x66 (kw 1 2 3)) { shapeInt (kLongBitf 0x66 (kw 1 2 3)) false with c := .imm } {}
    ∧ plain (.bitfAndJ (jw 1 5)) { jLong 0 (jw 1 5) with c := 0x88 } { shapeInt { jLong 0 (jw 1 5) with c := 0x88 } false with c := .imm } {}
    ∧ plain (.bfx z) z { shapeInt z false with sub := subNo z ≤ 3 } {} ∧ plain (.bfi z) z { shapeInt z false with sub := subNo z ≤ 3 } {}
    ∧ plain (.sel { z with c := 5 }) { z with c := 5 } { shapeInt z false with c := .psrc, port := .vector } {}
    ∧ plain (.mov mz) mz (shapeInt1 mz (subNo mz == 0) false) {}
    ∧ plain (.movK (kw 1 2 0)) (kLong 0 (kw 1 2 0)) (shapeInt1 (kLong 0 (kw 1 2 0)) true false) {}
    ∧ plain (.movi mx) mx { form := true, sub := true, m6 := true, d := .dst 1, a := .imm } {}
    ∧ plain (.moviI32J (jw 1 0xFFF)) (jLong 2 (jw 1 0xFFF)) { form := true, sub := true, m6 := true, d := .dst 1, a := .imm } {}
    ∧ plain (.movs ms) ms { shapeInt1 ms true false with c := .imm } {}
    ∧ plain (.lea lea) lea { shapeInt lea false with sub := true, c := .imm } {}
    ∧ plain (.cvti cvt) cvt { shapeInt1 cvt true true with c := .imm } {} := by decide +kernel

theorem witness_float_arithmetic :
    let w := wd 8 4 1 2 3 0
    let z := wd 9 0 1 2 3 0
    let k := kw 1 2 3
    plain (.fadd w) w (shapeF w (layoutFRS w)) {} ∧ plain (.fsub w) w (shapeF w (layoutFRS w)) {}
    ∧ plain (.fmul w) w (shapeF w (layoutFRS w)) {} ∧ plain (.ffma w) w { shapeF w (layoutFRS w) with c := .src 1 } {}
    ∧ plain (.fmin z) z (shapeF z (layoutZ z)) {} ∧ plain (.fmax z) z (shapeF z (layoutZ z)) {}
    ∧ plain (.faddF32K k) (kLong 8 k) (shapeF (kLong 8 k) (layoutFRS (kLong 8 k))) {}
    ∧ plain (.faddBf16K k) (kLong 9 k) (shapeF (kLong 9 k) (layoutFRS (kLong 9 k))) {}
    ∧ plain (.fmulF32K k) (kLong 8 k) (shapeF (kLong 8 k) (layoutFRS (kLong 8 k))) {}
    ∧ plain (.fmulBf16K k) (kLong 9 k) (shapeF (kLong 9 k) (layoutFRS (kLong 9 k))) {}
    ∧ plain (.ffmaF32K k) (kLongFma 8 k) { shapeF (kLongFma 8 k) (layoutFRS (kLongFma 8 k)) with c := .src 1 } {}
    ∧ plain (.ffmaBf16K k) (kLongFma 9 k) { shapeF (kLongFma 9 k) (layoutFRS (kLongFma 9 k)) with c := .src 1 } {}
    ∧ plain (.fminF32K k) (kLong 8 k) (shapeF (kLong 8 k) (layoutZ (kLong 8 k))) {}
    ∧ plain (.fmaxF32K k) (kLong 8 k) (shapeF (kLong 8 k) (layoutZ (kLong 8 k))) {} := by decide +kernel

theorem witness_float_conversions :
    let z := wd 8 0 1 2 0 0
    let cv := wd 9 0 1 2 0 8
    let ci := wd 2 0 1 2 0 8
    let ic := wd 8 0 1 2 0 2
    let dot := wd 9 0 1 2 3 4
    let sc := wd 8 0 1 2 3 0
    plain (.fclass z) z (shapeF1 z (layoutZ z)) {} ∧ plain (.frnd z) z (shapeF1 z (layoutF true false false z.m6)) {}
    ∧ plain (.fcvt cv) cv (shapeCvt cv (fcvtType 9) (layoutF true true (srType 9) cv.m6) (fcvtType 8)) {}
    ∧ plain (.fcvti ci) ci (shapeCvt ci (cvtiType 2) (layoutF true false (srType 2) ci.m6) (fcvtType 8)) {}
    ∧ plain (.icvtf ic) ic (shapeCvt ic (fcvtType 8) (layoutF true true (srType 8) ic.m6) (cvtiType 2)) {}
    ∧ plain (.fdot dot) dot { shapeF1 dot (layoutFRS dot) with sub := true, b := .src 1, c := .src 1 } {}
    ∧ plain (.fscale sc) sc { shapeF1 sc (layoutFRS sc) with b := .src 1 } {} := by decide +kernel

theorem witness_special_functions :
    let z := wd 8 0 1 2 0 0
    let k : Issue := { entry := true, dests := [destOf z.d] }
    plain (.frcp z) z (shapeF1 z (layoutF true false false z.m6)) k ∧ plain (.fsqrt z) z (shapeF1 z (layoutF true false false z.m6)) k
    ∧ plain (.frsq z) z (shapeF1 z (layoutZ z)) k ∧ plain (.fexp2 z) z (shapeF1 z (layoutZ z)) k
    ∧ plain (.flog2 z) z (shapeF1 z (layoutZ z)) k ∧ plain (.fsin z) z (shapeF1 z (layoutZ z)) k
    ∧ plain (.fcos z) z (shapeF1 z (layoutZ z)) k ∧ plain (.ftanh z) z (shapeF1 z (layoutZ z)) k := by decide +kernel

theorem witness_blocks_in_registers :
    let go (i : Instr) (w : LongWord) (sh : Shape) (n : Nat) : Prop := plain i w sh { entry := true, dests := rangeDests w.d n } = true
    let q := wd 0x0D 0 32 64 0 8
    let zp := wd 0x16 0 32 64 0 0
    let pk := wd 0x0D 0 32 64 0 0
    let ax := wd 8 0 32 64 0 0
    go (.bqnt q) q { form := true, m6 := true, d := .dst (slotRegs 0x0D + 1), a := .src 16, c := .imm, ok12 := floatCOk q } (slotRegs 0x0D + 1)
    ∧ go (.bdeq q) q { form := true, m6 := layoutFRS q, d := .dst 16, a := .src (slotRegs 0x0D + 1), c := .imm, ok12 := floatCOk q } 16
    ∧ go (.zpsub zp) zp { m6 := layoutZ zp, d := .dst 8, a := .src (slotRegs 0x16 + 1) } 8
    ∧ go (.pack { pk with sub6 := 0x13 }) { pk with sub6 := 0x13 }
        { sub := denseType 0x13, d := .dst (payRegs 0x13 + 1), a := .src (slotRegs 0x13 + 1) } (payRegs 0x13 + 1)
    ∧ go (.unpack { pk with sub6 := 0x13 }) { pk with sub6 := 0x13 }
        { sub := denseType 0x13, d := .dst (slotRegs 0x13 + 1), a := .src (payRegs 0x13 + 1) } (slotRegs 0x13 + 1)
    ∧ go (.amaxb ax) ax { m6 := layoutZ ax, d := .dst 1, a := .src 16 } 1 := by decide +kernel

theorem witness_cross_lane :
    let k (w : LongWord) : Issue := { entry := true, dests := [destOf w.d] }
    let w := wd 0 3 1 2 3 0
    let z := wd 0 0 1 2 3 0
    let m := wd 0 0 1 2 0 7
    let r := wd 2 0 1 2 0 0
    let rs := wd 2 0 200 2 0 0
    plain (.shfl w) w { sub := true, m6 := true, d := .dst 1, a := .src 1, b := .src 1, port := .vector } (k w)
    ∧ plain (.bcast z) z { sub := bcastType 0, m6 := true, d := .dst 1, a := .src 1, b := .src 1, port := .lanes } (k z)
    ∧ plain (.perm z) z { m6 := true, d := .dst 1, a := .src 1, b := .src 1, port := .vector } (k z)
    ∧ plain (.matchOp m) m { m6 := true, d := .dst 1, a := .src 1, c := .pdst, port := .vector }
        { entry := true, dests := [destOf m.d, .p 7] }
    ∧ plain (.redl r) r { m6 := redM6 r false, d := .dst 1, a := .src 1, port := .lanes } (k r)
    ∧ plain (.redl rs) rs { m6 := redM6 rs false, d := .dst 1, a := .src 1, port := .lanes } (k rs)
    ∧ plain (.scanl r) r { m6 := redM6 r true, d := .dst 1, a := .src 1, port := .vector } (k r) := by decide +kernel

/-- A lost word of another lane that SHFL reads restarts the group, with the event in the log (R347, R362, R364). -/
theorem witness_cross_lane_lost :
    let w : LongWord := { wd 0 1 1 2 200 0 with gp := 1 }
    let sh : Shape := { sub := true, m6 := true, d := .dst 1, a := .src 1, b := .src 1, port := .vector }
    let s := demoG 8 (fun g => { g with threads := g.threads.mapIdx (fun l t => if l = 1 then { t with bad := [2] } else { t with p := 2 }), sreg := wset g.sreg 8 1 })
    (match offer s w sh { entry := true, dests := [destOf w.d] } with
     | .ok c => c.en.all (· != 1) && c.en.any (fun l => shflLane 1 l ((opB c 0 l).toNat % 64) c.width == some 1)
         && (match exec (.shfl w) s with
             | .next u => (groupAt u 0 0).map (·.poisonPc) == some [c.pc]
             | _ => false)
     | _ => false) = true := by decide +kernel

/-! ### Witnesses: predicates, issue, retirement and transfers -/

/-- The state once the issuing group is `g` and its instruction has retired. -/
def retired (c : Ic) (xfer : List (Nat × Word)) (g : Group) : State := c.with (retireGroup c.pc c.next c.act xfer c.w.s g)

theorem witness_predicate_results :
    let z := wd 0 8 1 2 3 1
    let f := wd 8 9 1 2 3 1
    let e (n : Nat) := wd n 0 1 2 0 0
    plain (.pseti z) z (shapePset z true true 6) {} ∧ plain (.psetf f) f (shapePset f true true 8) {}
    ∧ plain (.plop (wd 0x1E 0 1 2 3 4)) (wd 0x1E 0 1 2 3 4) { d := .pdst, a := .psrc, b := .psrc, c := .psrc } {}
    ∧ plain (.pvoteSome (e 0)) (e 0) { d := .pdst, a := .psrc } {} ∧ plain (.pvoteEvery (e 1)) (e 1) { d := .pdst, a := .psrc } {}
    ∧ plain (.pvoteSame (e 2)) (e 2) { d := .pdst, a := .psrc } {}
    ∧ plain (.elect (wd 0 0 1 0 0 0)) (wd 0 0 1 0 0 0) { shapeW (wd 0 0 1 0 0 0) with d := .pdst } {} := by decide +kernel

theorem witness_predicate_words :
    let e (n : Nat) := wd n 0 1 2 0 0
    plain (.pvoteMask (e 3)) (e 3) { d := .dst 1, a := .psrc, port := .vector } {}
    ∧ plain (.pvoteCount (e 4)) (e 4) { d := .dst 1, a := .psrc, port := .vector } {}
    ∧ plain (.pmovGet (wd 2 0 1 0 0 0)) (wd 2 0 1 0 0 0) { d := .dst 1, port := .vector } {}
    ∧ plain (.clock (wd 0 0 200 0 0 0)) (wd 0 0 200 0 0 0) { shapeW (wd 0 0 200 0 0 0) with d := .dst 1 } {}
    ∧ plain (.pmovSet (wd 3 0 0 2 0 0)) (wd 3 0 0 2 0 0) { a := .src 1, port := .vector } {} := by decide +kernel

/-- A team and a group that a cursor names, with `p` of them and of the issuing instruction. -/
def atIssue (s : State) (w : LongWord) (sh : Shape) (p : Team → Group → Ic → Bool) : Bool :=
  match tget s.teams s.iss.core with
  | some t => match tget t.groups s.iss.grp with
    | some g => p t g (issueIc s w sh t g)
    | none => false
  | none => false

/-- The decode checks pass, and an active lane exists. -/
def sound (s : State) (w : LongWord) (sh : Shape) (k : Issue) (t : Team) (c : Ic) : Bool :=
  !c.act.isEmpty && decodeFail { sh with ok13 := k.flag (recOf s t) } w (recVregs (recOf s t)) == none

theorem witness_issue_conditions :
    let w := wd 2 0 1 2 3 0
    let off : LongWord := { w with gn := true }
    let k : Issue := { entry := true, tx := some 2, dests := [destOf w.d] }
    let b : Issue := { blocking := true, tx := some 2 }
    atIssue (demo 8) w (shapeInt w true) (fun t g c => sound (demo 8) w (shapeInt w true) k t c && c.en != []
      && k.pre c == none && c.en.all (fun l => (g.lane l).txs == .none_) && stretchFull c.g k.dests == none && !ottFull c.t c.grp
      && lostRegister c k.dests.isEmpty == none) = true
    ∧ atIssue (demo 8) off (shapeInt w true) (fun t _ c => sound (demo 8) off (shapeInt w true) k t c && c.en == []) = true
    ∧ atIssue (demo 8) (wd 0 0 0 0 0 0) (shapeW (wd 0 0 0 0 0 0)) (fun t g c =>
        sound (demo 8) (wd 0 0 0 0 0 0) (shapeW (wd 0 0 0 0 0 0)) b t c && g.rb == [] && c.atPark.en != []) = true := by decide +kernel

/-- A full stretch: 64 slots of v1 (R106). -/
def fullRb : List Slot := List.replicate 64 ⟨.v 1, [0], [0], [], 0, 0, .pending⟩

/-- Each trap of issue: check 7, EPRIV of `pre`, ETXN of an OPEN lane, ESTRETCH. -/
theorem witness_issue_traps :
    let w := wd 0 0 1 0 0 0
    let sh : Shape := { shapeW w with d := .dst 1 }
    let k : Issue := { entry := true, tx := some 2, dests := [.v 1] }
    let open_ := demoG 8 (fun g => { g with threads := g.threads.map (fun t => { t with txs := .opened }) })
    let full := demoG 8 (fun g => { g with rb := fullRb })
    decodeFail { sh with sub := false } w 192 = some 7
    ∧ atIssue (demo 8) w sh (fun t _ c => sound (demo 8) w sh k t c && c.en != []) = true
    ∧ atIssue open_ w sh (fun t g c => sound open_ w sh k t c && c.en.any (fun l => (g.lane l).txs != .none_)) = true
    ∧ atIssue full w sh (fun t g c => sound full w sh k t c && c.en != [] && (stretchFull g k.dests).isSome) = true := by decide +kernel

/-- A source v-register, an s-register, and a destination written in one lane only, that hold an error: the group
restarts, the second time it traps with STRUCT and the number; a group of eight lanes shares its code words with others, so that
its destination is read too. -/
theorem witness_register_errors :
    let w := wd 2 0 1 2 3 0
    let sh := shapeInt w true
    let bad (n : Nat) : Group → Group := fun g => { g with threads := g.threads.map (fun t => { t with bad := [n] }) }
    let src := demoG 8 (bad 2)
    let again := demoG 8 (fun g => { bad 2 g with poisonPc := [word placeAddr] })
    let dst := demoG 8 (bad 1)
    let one : LongWord := { w with gp := 1 }
    let part := demoG 8 (fun g => (bad 1 g).writeP 0 1 true)
    let sw := wd 2 0 1 200 3 0
    atIssue src w sh (fun t g c => sound src w sh {} t c && c.en != [] && lostRegister c true == some (true, 2) && g.hm == none && g.poisonPc == []
      && (0 ∈ c.en) && (2 ∈ (c.g.lane 0).bad)) = true
    ∧ atIssue again w sh (fun t g c => sound again w sh {} t c && c.en != [] && (lostRegister c true).isSome && g.poisonPc.contains c.pc) = true
    ∧ atIssue part one sh (fun _ _ c => lostRegister c true == some (true, 1) && lostRegister c false == none
        && wordLost c.g 1 0 && !wholeHalf c.g c.en 0) = true
    ∧ atIssue (demoG 8 (fun g => { g with sbad := [8] })) sw sh (fun _ _ c => lostRegister c true == some (false, 8)) = true
    ∧ (match exec (.iadd w) src with
       | .next u => (groupAt u 0 0).map (fun g => (g.poisonPc, (g.lane 0).pc)) == some ([word placeAddr], word placeAddr)
       | _ => false) = true
    ∧ (match exec (.iadd w) again with
       | .next u => ((tget u.teams 0).bind (fun t => t.halt)).map (fun h => h.trap) == some ⟨0x10, 0, 0x210⟩
       | _ => false) = true
    ∧ (match exec (.iadd w) dst with
       | .next u => (groupAt u 0 0).map (·.poisonPc) == some [word placeAddr]
       | _ => false) = true := by decide +kernel

/-- The guard ?!p0: no lane is enabled, and the instruction only advances (R80). -/
theorem witness_guarded_off :
    let w : LongWord := { wd 2 0 1 2 3 0 with gn := true }
    atIssue (demo 8) w (shapeInt w true) (fun t _ c => sound (demo 8) w (shapeInt w true) {} t c && c.en == []
      && leads (.iadd w) (demo 8) (retired c [] c.g)) = true
    ∧ (let v : LongWord := { wd 3 0 0 0 0 0 with gn := true }
       let b : Issue := { blocking := true, tx := some 2 }
       let sh : Shape := { shapeW v with sub := true }
       let parked := demoG 8 (fun g => { g with parked := true })
       let held := demoG 8 (fun g => { g with rb := fullRb })
       atIssue (demo 8) v sh (fun t g c => sound (demo 8) v sh b t c && c.en == [] && !g.parked && g.rb == []
         && leads (.bar v) (demo 8) (c.with (retireGroup c.pc c.next c.act [] false { g with poisonPc := [], parked := true })))
       ∧ atIssue parked v sh (fun t g c => sound parked v sh b t c && c.en == [] && g.parked
           && leads (.bar v) parked (c.with (retireGroup c.pc c.next c.act [] false g)))
       ∧ atIssue held v sh (fun t g c => sound held v sh b t c && c.en == [] && !g.parked && g.rb != []
           && leads (.bar v) held (c.with { g with status := .parking true c.pc c.next c.act }))) := by decide +kernel

theorem witness_retirement : ([0, 7] : List Nat).Nodup := by decide

/-- The three cases at the top entry: elsewhere, at its END with COUNT 2, and with COUNT 1. -/
theorem witness_loop_stack :
    let e : LoopEntry := ⟨0x20000, 0x20008, 2⟩
    let x (n : Nat) : Thread := { Thread.empty with loops := [{ e with count := BitVec.ofNat 32 n }, ⟨0x20000, 0x20010, 1⟩] }
    (x 2).advance 0x20000 0x20008 = { x 2 with pc := 0x20008 }
    ∧ ((x 2).advance 0x20008 0x20010).pc = 0x20000 ∧ ((x 1).advance 0x20008 0x20010).loops.length = 1 := by decide +kernel

theorem witness_issue_pc : ((groupAt (demo 8) 0 0).map (fun g => (g.hm.isNone, issuePc g))) = some (true, some (word placeAddr)) := by
  decide +kernel

theorem witness_transfers :
    let goes (c : Ic) (f : Nat → Word) : List (Nat × Word) := c.en.map (fun l => (l, f l))
    let x := wx 0 0 0 0 0 0x10
    let xl := wx 0 0 1 0 0 0x10
    let r := wd 0 0 0 2 0 0
    let rl := wd 0 0 1 2 0 0
    let b : BWord := ⟨false, 0, false, 0x10⟩
    let even := demoG 8 (withV 2 0x20010)
    let odd := demoG 8 (withV 2 0x20011)
    let trap (c : Ic) : State := takeTrap c.s c.core c.grp ⟨0x03, 0x20011, 0⟩ c.pc c.pc false false c.act
    passes (.bra x) (demo 12) x (shapeX x) {} (fun c t => decide (t = retired c (goes c (fun _ => relTarget c.pc (litInt x))) c.g)) = true
    ∧ passes (.braB b) (demo 4) (bLong b) (shapeX (bLong b)) {} (fun c t => decide (t = retired c (goes c (fun _ => c.pc + 0x20)) c.g)) = true
    ∧ passes (.call xl) (demo 12) xl (shapeCall xl) {} (fun c t => regAt t 3 1 == c.next) = true
    ∧ passes (.callB b) (demo 4) (bLong b) (shapeCall (bLong b)) {} (fun c t => regAt t 3 0 == c.next) = true
    ∧ passes (.brx r) even r { shapeW r with a := .src 1 } {} (fun c t => decide (t = retired c (goes c (fun _ => 0x20010)) c.g)) = true
    ∧ passes (.ret r) even r { shapeW r with a := .src 1 } {} (fun c t => decide (t = retired c (goes c (fun _ => 0x20010)) c.g)) = true
    ∧ passes (.callx rl) even rl { shapeW rl with d := .dst 1, a := .src 1 } {} (fun c t => regAt t 7 1 == c.next) = true
    ∧ passes (.brx r) odd r { shapeW r with a := .src 1 } {} (fun c t => decide (t = trap c)) = true
    ∧ passes (.ret r) odd r { shapeW r with a := .src 1 } {} (fun c t => decide (t = trap c)) = true
    ∧ passes (.callx rl) odd rl { shapeW rl with d := .dst 1, a := .src 1 } {} (fun c t => decide (t = trap c)) = true := by decide +kernel

/-- A loop of every clause: a count of 0 past END, a count above 0, a fifth entry, and LBRK of an entry. -/
theorem witness_loops :
    let w := wx 0 0 0 2 0 6
    let imm := wx 0 0 0 0 0 (6 + 3 * 2 ^ 16)
    let brk := wx 0 0 0 0 0 2
    let e : LoopEntry := ⟨0x2000C, 0x2000C, 2⟩
    let deep := demoG 12 (fun g => { withV 2 1 g with threads := (withV 2 1 g).threads.map (fun t => { t with loops := List.replicate 4 e }) })
    let inside := demoG 12 (fun g => { g with threads := g.threads.map (fun t => { t with loops := [e] }) })
    passes (.loop w) (demo 12) w (shapeLoop w) {} (fun c t =>
      match translate c.s c.core c.ctx c.g.walked 0x2000C with
      | .ok x => x.mt == 0 && x.x && decide (t = retired c (c.en.map (fun l => (l, 0x2000C + word (lengthOf
          (memNat c.s.mem (physAddr c.s c.ctx x 0x2000C false) 2))))) c.g)
      | _ => false) = true
    ∧ passes (.loop w) (demoG 12 (withV 2 9)) w (shapeLoop w) {} (fun c t => decide (t = retired c (c.en.map (fun l => (l, 0x2000C)))
        (c.g.mapLanes (fun _ x => { x with loops := [⟨0x2000C, 0x2000C, 9⟩] })))) = true
    ∧ passes (.loopImm imm) (demo 12) imm { form := true, m6 := true } {} (fun c t => decide (t = retired c (c.en.map (fun l => (l, 0x2000C)))
        (c.g.mapLanes (fun _ x => { x with loops := [⟨0x2000C, 0x2000C, 3⟩] })))) = true
    ∧ passes (.loop w) deep w (shapeLoop w) {} (fun c t => decide (t = takeTrap c.s c.core c.grp ⟨0x0A, 0, 0⟩ c.pc c.pc false false c.act)) = true
    ∧ passes (.lbrk brk) inside brk (shapeX brk) {} (fun c t => decide (t = retired c (c.en.map (fun l => (l, 0x20010)))
        (c.g.mapLanes (fun _ x => { x with loops := [] })))) = true := by decide +kernel

/-- NOP, and one with a field set. -/
theorem witness_nop :
    let w := wd 0 0 0 0 0 0
    let bad := wd 0 0 0 0 0 1
    passes (.nop w) (demo 8) w (shapeW w) {} (fun c t => decide (t = retired c [] c.g)) = true
    ∧ atIssue (demo 8) bad (shapeW bad) (fun _ _ c => c.act != []
        && leads (.nop bad) (demo 8) (takeTrap (demo 8) 0 0 (eill 0x0A none) c.pc c.pc false false c.act)) = true := by decide +kernel

/-! ### Witnesses: scheduling, exits and traps -/

/-- The demonstration with a handler: TRAPH is 0x30000. -/
def demoH (len : Nat) : State := demoR len 7 0x30000

/-- That, in handler mode, with a record of a trap of lane 2 at 0x20100. -/
def inHandler (park : Bool) : State := modGroup (demoH 8) 0 0 (fun g => { g with
  hm := some ⟨0x20100, park, [⟨.v 4, [2], [2], [], 9, 0x20000, .filled [(2, 77)]⟩], [], [],
    [⟨2, 0x20100, [⟨0x20000, 0x20100, 3⟩], .none_, 0⟩], []⟩,
  threads := g.threads.mapIdx (fun l t => if l = 2 then t else { t with pc := 0x20040 }) })

theorem witness_scheduling :
    let w := wd 0 0 0 0 0 0
    let p := wd 3 0 0 0 0 0
    let l := wd 0 0 1 2 0 0
    let x := wx 0 0 0 0 0 0x10
    let k : Issue := { entry := true, tx := some 2, dests := [destOf l.d] }
    passes (.yield w) (demo 8) w (shapeW w) {} (fun c t => decide (t = c.with { retireGroup c.pc c.next c.act [] false c.g with yielded := if (yieldsTo c).isEmpty then none else some (yieldsTo c) })) = true
    ∧ passes (.setprio p) (demo 8) p {} {} (fun c t => decide (t = retired c [] { c.g with prio := 3 })) = true
    ∧ passes (.launch l) (demoG 8 (withV 2 0x40080)) l { shapeW l with d := .dst 1, a := .src 1 } k (fun c t =>
        match checkLanes c .launch 128 false (c.lanes.map (fun n => (n, 0x40080))) with
        | .ok ls => decide (t = c.enters (c.entry true ⟨false, true, false, .sys, none⟩ (.launch (ls.map (fun a => (a.lane, a))) none) [])
            (c.slots [destOf l.d]))
        | .error _ => false) = true
    ∧ passes (.reform x) (demoR 12 3 (word (1 + 2 ^ 16 + 2 ^ 32 + 2 ^ 49))) x (shapeX x) { blocking := true, tx := some 2, flag := recReform }
        (fun c t => let g := retireGroup c.pc c.next c.act (c.en.map (fun l => (l, relTarget c.pc 0x10))) false c.g
          decide (t = fileLanes (c.with g) c.core c.grp (liveLanes g))) = true := by decide +kernel

/-- EXIT with its entries drained, with an error latched, and with an entry outstanding. -/
theorem witness_exit :
    let w := wd 0 0 0 0 0 0
    let k : Issue := { blocking := true, tx := some 2 }
    let bad := demoG 8 (fun g => g.latch 0x05 8 0 8)
    let busy := demoT 8 (fun t => { t with ott := [⟨1, 0, 0, false, [0], [0], false, [(0, 0)], Ord.relaxed, .load 0 false [] [], [], [], none⟩] })
    passes (.exit w) (demo 8) w (shapeW w) k (fun c t => drained c.t c.grp && latchedTrap c.g == none
        && decide (t = retire (endThreads c.s c.core c.grp c.en) c.core c.grp c.pc c.next c.act [] false)
        && groupAt t c.core c.grp == none) = true
    ∧ passes (.exit w) bad w (shapeW w) k (fun c t => drained c.t c.grp && (match latchedTrap c.g with
        | some x => decide (t = takeTrap (c.with { c.g with lc := c.g.lc + 1 }) c.core c.grp x c.pc c.pc false true c.act)
        | none => false)) = true
    ∧ passes (.exit w) busy w (shapeW w) k (fun c t => !drained c.t c.grp
        && decide (t = c.with { c.g with status := .blocked .exit w c.len none, stall := none })) = true := by decide +kernel

theorem witness_software_trap :
    let w := wx 0 0 0 0 0 0xFFFFFFFF
    let off : LongWord := { w with gn := true }
    passes (.trap w) (demoH 12) w { shapeW w with form := true } {} (fun c t => decide (t =
      takeTrap (c.with { c.g with lc := c.g.lc + 1 }) c.core c.grp ⟨0x11, 0, word 0xFFFFFFFF⟩ c.next c.next false false c.act)) = true
    ∧ atIssue (demo 12) off { shapeW off with form := true } (fun t _ c => sound (demo 12) off { shapeW off with form := true } {} t c
        && c.en == [] && leads (.trap off) (demo 12) (retired c [] c.g)) = true := by decide +kernel

/-- The demonstration with a dictionary of three entries: entry 1 is MOV.n64 in format K, entry 2 no 32-bit word. -/
def demoD : State :=
  modLaunch (demoR 2 1 0x40000) 0 (fun l => { l with dict := some [0, word (((form (.movK (kw 1 2 0))).bits.map (·.1)).getD 0), 0] })

/-- Every word without a meaning, and a code refused by each check, then one that runs. -/
theorem witness_illegal_words :
    let s := demo 4
    let w := wd 0 0 0 0 0 0
    let tr (i : Instr) (n : Nat) : Bool := leads i s (takeTrap s 0 0 (eill n none) s.iss.pc s.iss.pc false false (List.range 8))
    (groupAt s 0 0).map (fun g => activeLanes g s.iss.pc) = some (List.range 8)
    ∧ tr (.illegalK 0x3F9) 2 ∧ tr (.illegalW w) 2 ∧ tr (.illegalX w) 2 ∧ tr (.unassignedOpcode (.w32 0)) 4
    ∧ tr (.unassignedOpcode (.w64 0)) 5 ∧ tr (.unassignedOpcode (.w96 0)) 5
    ∧ leads .illegalD16 s (let s0 := { s with iss := { s.iss with d16 := some ⟨false, 0, 0⟩ } }
        takeTrap s0 0 0 ⟨0x01, 0, word (2 + 2 ^ 18)⟩ s.iss.pc s.iss.pc false false (List.range 8)) := by decide +kernel

theorem witness_dictionary_codes :
    let s := demoD
    let s1 (w : D16Word) : State := { s with iss := { s.iss with len := 2, d16 := some w } }
    let tr (w : D16Word) (n : Nat) : Bool := leads (.d16Code w) s (takeTrap (s1 w) 0 0 ⟨0x01, 0, word (n + 2 ^ 8 * w.idx.toNat + 2 ^ 18)⟩
      s.iss.pc s.iss.pc false false (List.range 8))
    let run : D16Word := ⟨false, 0, 1⟩
    ((tget s.teams 0).bind (fun t => launchAt s t.launch)).map (fun l => (recDict l.rec_ != 0, l.dictBad)) = some (true, none)
    ∧ tr ⟨false, 1, 1⟩ 1 ∧ tr ⟨false, 0, 0⟩ 2 ∧ tr ⟨false, 0, 2⟩ 3
    ∧ decode32 (((form (.movK (kw 1 2 0))).bits.map (·.1)).getD 0) = .movK (kw 1 2 0)
    ∧ (match offer (s1 run) (kLong 0 (kw 1 2 0)) (shapeInt1 (kLong 0 (kw 1 2 0)) true false) {}, exec (.d16Code run) s with
       | .ok _, .next _ => true
       | _, _ => false) = true := by decide +kernel

/-- A trap is delivered at TRAPH to the active lanes. -/
theorem witness_trap_delivery :
    let s := modGroup (demoH 8) 0 0 (fun g => { g with threads := g.threads.mapIdx (fun l t => if l < 4 then t else { t with pc := 0x20040 }) })
    let u := takeTrap s 0 0 ⟨0x11, 0, 5⟩ 0x20008 0x20008 false false [0, 1, 2, 3]
    let s1 := (completeLocal s 0 0 (toldOf s 0 0) 4160).1
    (completeLocal s 0 0 (toldOf s 0 0) 4160).2 = none
    ∧ ((groupAt s1 0 0).map (fun g => g.hm.isNone), fetchFaults s1 0 0x30000,
      (tget s1.teams 0).map (fun t => recTraph (recOf s1 t))) = (some true, false, some 0x30000)
    ∧ (groupAt u 0 0).map (fun g => (g.tcause, g.tpc, g.tinfo, g.hm.isSome, (g.lane 3).pc, (g.lane 4).pc))
        = some (0x11, 0x20008, 5, true, 0x30000, 0x20040) := by decide +kernel

/-- A trap waits for the CWAIT of its group; once it has returned, the turn of the trap delivers it (R344). -/
theorem witness_trap_waits :
    let s := modTeam (demoH 8) 0 (fun t => { t with ott := [⟨5, 0, 0x20000, true, [0], [0], false, [(0, 0)], Ord.relaxed, .cwait 0 0 false, [], [], none⟩] })
    let u := takeTrap s 0 0 ⟨0x11, 0, 5⟩ 0x20008 0x20008 false false [0]
    let back := modTeam u 0 (fun t => { t with ott := [] })
    (completeLocal s 0 0 (toldOf s 0 0) 4160).2 = none ∧ resultsOut (completeLocal s 0 0 (toldOf s 0 0) 4160).1 0 0 = true
    ∧ (groupAt u 0 0).map (·.status) = some (.trapping ⟨0x11, 0, 5⟩ 0x20008 0x20008 false false [0])
    ∧ resultsOut (completeLocal back 0 0 (toldOf back 0 0) 4160).1 0 0 = false
    ∧ (match runTurn back (.trap 0 0) with
       | .next t => (groupAt t 0 0).map (fun g => (g.tcause, g.status, (g.lane 0).pc)) == some (0x11, .running, 0x30000)
       | _ => false) = true := by decide +kernel

/-- The team halts without a handler, in a handler, and when the fetch at TRAPH faults. -/
theorem witness_trap_halts :
    let halted (s : State) : Bool := ((tget (takeTrap s 0 0 ⟨0x11, 0, 5⟩ 0x20008 0x20008 false false [0]).teams 0).map (fun t =>
      t.ending != .none_ && t.halt == some ⟨⟨0x11, 0, 5⟩, 0x20008, 0⟩ && t.groups.all (fun g => g.2.threads.all (fun x => !x.live)))) == some true
    let noX : State := { demoH 8 with mem := memWriteNat (demoH 8).mem 0x110000 8 0x7 }
    halted (demo 8) ∧ halted (inHandler false) ∧ fetchFaults noX 0 0x30000 = true ∧ halted noX := by decide +kernel

/-- TRAPRET of a record, of one of a park trap, whose slot of v4 is committed, and outside a handler. -/
theorem witness_trap_return :
    let w := wd 0 0 0 0 0 0
    let k : Issue := { pre := fun c => if c.g.hm.isNone || !c.g.rb.isEmpty then some wrongMode else none }
    let back (b : Bool) : Bool := passes (.trapret w) (setCursor (inHandler b) 0 0 0x20000 8) w (shapeW w) k (fun c t =>
      c.g.hm.isSome && (match groupAt t 0 0 with
        | some g => g.hm.isNone && (g.lane 2).pc == 0x20100 && (g.lane 2).loops == [⟨0x20000, 0x20100, 3⟩] && g.rb.isEmpty == b
            && (g.lane 5).pc == 0x20040 && (readV g 2 4 == 77) == b
        | none => false))
    let lost := modGroup (setCursor (inHandler true) 0 0 0x20000 8) 0 0 (fun g => { g with threads := g.threads.mapIdx (fun l t =>
      if l = 3 then { t with bad := [4] } else t) })
    back false ∧ back true
    ∧ atIssue lost w (shapeW w) (fun t g c => sound lost w (shapeW w) {} t c && returnLost g == some 4) = true
    ∧ (match exec (.trapret w) lost with
       | .next u => (groupAt u 0 0).map (·.status) == some (.pageFault ⟨0x10, 0, 0x410⟩ true none none .running)
       | _ => false) = true
    ∧ atIssue (demoH 8) w (shapeW w) (fun t g c => sound (demoH 8) w (shapeW w) {} t c && g.hm == none
        && leads (.trapret w) (demoH 8) (takeTrap (demoH 8) 0 0 ⟨0x01, 0, 0x0E⟩ c.pc c.pc false false c.act)) = true := by decide +kernel

/-! ### Witnesses: memory -/

/-- The entry that an instruction makes, and the slots of its destinations. -/
def entered (c : Ic) (long : Bool) (ds : List Dest) (o : Ord) (work : Work) (got : List (Nat × Word)) : State :=
  c.enters (c.entry long o work got) (if long then c.slots ds else c.g)

/-- A page-table entry in place of the demonstration's leaf. -/
def withLeaf (s : State) (leaf : Nat) : State :=
  { s with mem := memWriteNat s.mem 0x110000 8 leaf, cores := tset s.cores 0 { coreRegs s 0 with tlb := [(0, leafXl placeAddr leaf 2)] } }

/-- Each outcome of one lane's checks, at the boundary of its clause. -/
theorem witness_lane_checks :
    let go (s : State) (svc : Bool) (k : AKind) (va align : Nat) : LaneTr := checkLane s 0 0 svc [] k va align true
    let mt (n extra : Nat) : State := withLeaf (demo 8) (3 + extra + 16 * n)
    go (demo 8) false .load 0x40001 8 = .trap ⟨0x03, 0x40001, 0⟩
    ∧ go (demo 8) false .load (2 ^ 56) 8 = .trap (kindTrap 1 (2 ^ 56))
    ∧ go { demo 8 with ctxs := [(0, Context.fresh)] } false .load 0x40000 8 = .notValid
    ∧ go (demo 8) false .load 0x40000000 8 = .miss 0x40000000
    ∧ go (demo 8) false .load 0x40000 8 = .ok placeXl
    ∧ go (mt 6 4) false .load 0x40000 8 = .trap ⟨0x02, 0x40000, 5⟩
    ∧ go (mt 4 4) false .load 0x40000 8 = .trap ⟨0x13, 0x40000, 4⟩
    ∧ go (mt 0 0) false .store 0x40000 8 = .trap ⟨0x05, 0x40000, 6⟩
    ∧ go (mt 0 4) false .fetch 0x40000 2 = .trap ⟨0x05, 0x40000, 7⟩
    ∧ go { mt 5 4 with peerdead := 1 } false .load 0x40000 8 = .trap ⟨0x08, 0x40000, remoteInfo 0 6 0 0 0 0⟩ := by decide +kernel

theorem witness_lanes_together :
    let w := wd 1 0 1 2 3 0
    atIssue (demo 8) w (shapeMem w (mLoad w) (.dst 1)) (fun _ _ c =>
      (match checkLanes c .load 8 true [(0, 0x40000), (1, 0x40008)] with | .ok l => l == [⟨0, 0x40000, placeXl⟩, ⟨1, 0x40008, placeXl⟩] | _ => false)
      && (match checkLanes c .load 8 true [(0, 0x40000), (1, 0x40009), (2, 0x40003)] with
          | .error (.trap t) => t == ⟨0x03, 0x40009, 0⟩
          | _ => false)) = true := by decide +kernel

/-- A load's or store's lanes at 0x40000 in every lane, checked. -/
def lanesAt (k : AKind) (c : Ic) (n : Nat) : List Acc :=
  match checkLanes c k n true (effLanes c) with
  | .ok ls => ls
  | .error _ => []

/-- The demonstration with 0x40000 in v2. -/
def demoA (len : Nat) : State := demoG len (withV 2 0x40000)

theorem witness_global_loads :
    let w := wd 1 0x08 1 2 3 0
    let k := kw 1 2 3
    let load (i : Instr) (w : LongWord) (kd : AKind) (o : Ord) : Bool := passes i (demoA 8) w (shapeMem w (mLoad w) (.dst 1))
      { entry := true, dests := [destOf w.d], late := txLate } (fun c t => !overQuota c && !anyTx c && (lanesAt kd c (tyBits (subNo w) / 8)).length == 8
        && !recDet c.r && !meetsBuffered c ((lanesAt kd c (tyBits (subNo w) / 8)).map (fun a => (a, tyBits (subNo w) / 8)))
        && decide (t = entered c true [destOf w.d] o (.load (subNo w) (kd == .ldc) [] (lanesAt kd c (tyBits (subNo w) / 8))) []))
    load (.ldg w) w .load (ordOf w.m6) ∧ load (.ldgN32K k) (kLong 3 k) .load (ordOf 0) ∧ load (.ldgN64K k) (kLong 1 k) .load (ordOf 0)
    ∧ load (.ldc w) w .ldc (ordOf w.m6) := by decide +kernel

/-- Stores: performed, buffered by a team of a deterministic launch, and after it has passed the token. -/
theorem witness_stores_issued :
    let det (f : Team → Team) : State := modTeam (modGroup (demoR 8 3 (word (1 + 2 ^ 16 + 2 ^ 32 + 2 ^ 48))) 0 0 (withV 2 0x40000)) 0 f
    let work (c : Ic) (w : LongWord) : Work := .store (subNo w) ((lanesAt .store c (tyBits (subNo w) / 8)).map (fun a => (a, c.rd a.lane w.d)))
    let store (i : Instr) (w : LongWord) (s : State) (p : Ic → Work → State) : Bool := passes i s w (shapeMem w (mStore w) (.src 1)) { entry := true, late := txLate }
      (fun c t => !anyTx c && (lanesAt .store c (tyBits (subNo w) / 8)).length == 8 && decide (t = p c (work c w)))
    let posts (c : Ic) (x : Work) : State := entered c false [] (ordOf 0) x []
    let w := wd 3 0 1 2 3 0
    let k := kw 1 2 3
    store (.stg w) w (demoA 8) posts ∧ store (.stgN32K k) (kLong 3 k) (demoA 8) posts ∧ store (.stgN64K k) (kLong 1 k) (demoA 8) posts
    ∧ store (.stg w) w (det id) (fun c x => setTeam { c.s with stamp := c.s.stamp + 1 } c.core
        { c.t with groups := tset c.t.groups c.grp (retireGroup c.pc c.next c.act [] false c.g),
                   det := c.t.det ++ [⟨c.s.stamp, c.grp, c.pc, 0, c.en, c.uni, c.tids, ordOf 0, x⟩],
                   ott := c.t.ott ++ [c.entry false (ordOf 0) .buffered []] })
    ∧ store (.stg w) w (det (fun t => { t with hadToken := true })) (fun c _ => takeTrap c.s c.core c.grp ⟨0x0F, 0, 3⟩ c.pc c.pc false false c.act) := by
  decide +kernel

/-- A group whose lanes are OPEN and whose write set holds the line of 0x40000. -/
def demoTx (len : Nat) : State := modGroup (demoA len) 0 0 (fun g => { g with
  threads := g.threads.map (fun t => { t with txs := .opened }), txw := [⟨0, 0, 0x40000, 0x40000, 0, 0, [1]⟩] })

theorem witness_transactional_stores :
    let w := wd 3 0 1 2 3 0
    let k := kw 1 2 3
    let store (i : Instr) (w : LongWord) : Bool := passes i (demoTx 8) w (shapeMem w (mStore w) (.src 1)) { entry := true, late := txLate }
      (fun c t => !c.uni && c.en.all (fun l => (c.g.lane l).txs == .opened) && (txLines c.g).contains (0x40000 / 128)
        && (let ws := c.en.map (fun l => (⟨c.s.stamp, l, 0x40000, 0x40000, policy (ordOf w.m6) placeXl, 0, leBytes (tyBits (subNo w) / 8) (c.rd l w.d).toNat⟩ : TxWrite))
            decide (t = c.enters (c.entry false (ordOf 0) .done []) { c.g with txw := c.g.txw ++ ws })))
    store (.stg w) w ∧ store (.stgN32K k) (kLong 3 k) ∧ store (.stgN64K k) (kLong 1 k) := by decide +kernel

/-- A table entry that can be performed: two lanes' stores of a byte at one address. -/
def storeEntry : OttEntry :=
  ⟨7, 0, 0, false, [0, 1], [0, 1], false, [(0, 0), (1, 1)], Ord.relaxed, .store 7 [(⟨0, 0x40000, placeXl⟩, 0x1AB), (⟨1, 0x40000, placeXl⟩, 0xCD)], [], [], none⟩
def demoStore : State := let s := demoT 8 (fun t => { t with ott := [storeEntry] }); { s with iss := ⟨0, 0, 0, 0, none, 7⟩ }

theorem witness_stores_performed :
    (match tget demoStore.teams 0 with
     | some t => t.ott.all (fun e => mayPerform demoStore (teamCtx demoStore t) t e)
     | none => false) = true
    ∧ (match exec .postedEntryPerformed demoStore with
       | .next u => memByte u.mem 0x40000 == 0xCD && memByte u.mem 0x40001 == 0 && (tget u.teams 0).map (fun t => t.ott.length) == some 0
       | _ => false) = true := by decide +kernel

/-- Two lanes' stores to a line of the live peer 0 are combined, the later lane's over the other's; a release goes out on its own. -/
theorem witness_peer_stores_performed :
    let xl := leafXl 0x40000 (7 + 16 * 5) 2
    let e : OttEntry := { storeEntry with work := .store 7 [(⟨0, 0x40000, xl⟩, 0x1AB), (⟨1, 0x40000, xl⟩, 0xCD)] }
    let r : OttEntry := { storeEntry with work := .store 7 [(⟨0, 0x40000, xl⟩, 0x1AB)], ord := { Ord.relaxed with rel := true, scope := .sys } }
    let go (e : OttEntry) (p : State → Team → Bool) : Bool :=
      let s := demoT 8 (fun t => { t with ott := [e] })
      let s := { s with iss := ⟨0, 0, 0, 0, none, 7⟩ }
      match tget s.teams 0, exec .postedEntryPerformed s with
      | some t, .next u => mayPerform s (teamCtx s t) t e && ((tget u.teams 0).map (p u)).getD false
      | _, _ => false
    xl.mt = 5 ∧ xl.aux = 0
    ∧ go e (fun u t => t.ott.isEmpty && t.wc.map (fun w => (w.peer, w.line % 2, w.bytes, w.seq)) == [(0, 0, [(0, 0xCD)], none)] && memByte u.mem 0 == 0) = true
    ∧ go r (fun u t => t.wc.isEmpty && t.ott.map (·.work) == [.remote [0]] && u.reqs.map (fun q => (q.kind, q.owner, q.data.map (·.2))) == [(.write, 0, [[0xAB]])]) = true := by
  decide +kernel

/-- A posted entry of lane 0 with some work, and a long one. -/
def postEntry (w : Work) : OttEntry := { storeEntry with lanes := [0], act := [0], tids := [(0, 0)], work := w }
def longEntry (o : Ord) (w : Work) : OttEntry := { postEntry w with long := true, ord := o }

/-- A load of one lane past the caches, whose slot is in the return buffer; the byte is 0x80. -/
def loadEntry : OttEntry :=
  longEntry { Ord.relaxed with hint := some 3 } (.load 6 false [] [⟨0, 0x40000, placeXl⟩])
def demoLoad : State :=
  let s := demoT 8 (fun t => { t with ott := [loadEntry], groups := tmap (fun _ g => g.addSlot (.v 1) [0] [0] 7 0) t.groups })
  { s with iss := ⟨0, 0, 0, 0, none, 7⟩, mem := memWriteNat s.mem 0x40000 1 0x80 }

theorem witness_loads_performed :
    (match tget demoLoad.teams 0 with
     | some t => t.ott.all (fun e => mayPerform demoLoad (teamCtx demoLoad t) t e) && t.det == []
     | none => false) = true
    ∧ (match exec .longResultReturn demoLoad with
       | .next u => (groupAt u 0 0).map (fun g => g.rb.map (·.st)) == some [.filled [(0, word (2 ^ 64 - 0x80))]]
       | _ => false) = true := by decide +kernel

/-- The demonstration with an entry that the cursor names, `ds` slots of it in the return buffer, bytes at 0x40000 and in the
scratchpad, and what `f` makes of the team. -/
def demoDue (e : OttEntry) (ds : List Dest) (f : Team → Team) : State :=
  let s := demoT 8 (fun t => f { t with
    ott := [e], spad := memWriteNat [] 0x40 4 0x12345678, groups := tmap (fun _ g => ds.foldl (fun g d => g.addSlot d [0] [0] 7 0) g) t.groups })
  { s with iss := ⟨0, 0, 0, 0, none, 7⟩, mem := memWriteNat s.mem 0x40000 1 0x80 }

/-- The conditions of `Due` but the entry's own, and that no buffer of a port holds a line. -/
def isDue (s : State) : Bool :=
  match tget s.teams 0 with
  | some t => t.ott.all (fun e => mayPerform s (teamCtx s t) t e && e.bad == none && e.got == [] && e.id == 7 && e.grp == 0)
      && t.groups.all (fun g => g.2.hm == none && g.2.status == .running)
      && s.upsets == [] && s.poison == [] && s.portBufs == [] && s.pendInv == [] && Memory.wf s.mem
  | none => false

/-- The first slot of the group once an entry has returned. -/
def returned0 (s : State) : Option SlotState :=
  match exec .longResultReturn s with
  | .next u => (groupAt u 0 0).bind (fun g => g.rb.head?.map (·.st))
  | _ => none

/-- A load that hits a line of the L1 gives the line's byte. -/
theorem witness_cached_load :
    let s := demoDue (longEntry Ord.relaxed (.load 7 false [] [⟨0, 0x40000, placeXl⟩])) [.v 1]
      (fun t => { t with l1 := [⟨0x40000 / 128, 0, 0, 0, 0x55 :: List.replicate 127 0, []⟩] })
    isDue s ∧ policy Ord.relaxed placeXl ≠ 3 ∧ returned0 s = some (.filled [(0, 0x55)]) := by decide +kernel

theorem witness_scratchpads_performed :
    let st := demoDue (postEntry (.sstore 5 [(⟨0, 0, 0x40⟩, 0xABCD), (⟨1, 0, 0x41⟩, 0xEF)])) [] id
    let ld := demoDue (longEntry Ord.relaxed (.sload 3 [⟨0, 0, 0x40⟩])) [.v 1] id
    let at_ := demoDue (longEntry Ord.relaxed (.satom 0 3 [⟨⟨0, 0, 0x40⟩, 2, 0⟩])) [.v 1] id
    isDue st ∧ isDue ld ∧ isDue at_
    ∧ (match exec .postedEntryPerformed st with
       | .next u => memNat (spadOf u 0) 0x40 4 == 0x1200EFCD && (tget u.teams 0).map (fun t => t.ott.length) == some 0
       | _ => false) = true
    ∧ returned0 ld = some (.filled [(0, 0x12345678)]) ∧ returned0 at_ = some (.filled [(0, 0x12345678)])
    ∧ (match exec .longResultReturn at_ with | .next u => memNat (spadOf u 0) 0x40 4 == 0x1234567A | _ => false) = true := by decide +kernel

/-- A block of 32 bytes of payload and 8 of metadata at 0x40000, and one of its loads. -/
theorem witness_blocks_performed :
    let b : List (Acc × Nat) := [(⟨0, 0x40000, placeXl⟩, payBytes 0x0D + 1)]
    let st := demoDue (postEntry (.storeBlock 0x0D [(b, List.replicate (payBytes 0x0D + 1) 7)])) [] id
    let ld := demoDue (longEntry { Ord.relaxed with hint := some 3 } (.loadBlock 0x0D [b])) [.v 1] id
    isDue st ∧ isDue ld
    ∧ (match exec .postedEntryPerformed st with
       | .next u => memByte u.mem 0x40000 == 7 && memByte u.mem (0x40000 + payBytes 0x0D) == 7 && memByte u.mem (0x40001 + payBytes 0x0D) == 0
       | _ => false) = true
    ∧ returned0 ld = some (.filled [(0, 0x80)]) := by decide +kernel

theorem witness_scratchpads :
    let k := kw 1 2 3
    let w := wd 3 0x08 1 2 3 0
    let v := wd 3 0x10 1 2 3 0
    let s := demoG 8 (withV 2 0x40)
    let sp (c : Ic) : List SAcc := c.en.map (fun l => ⟨l, 0, 0x40⟩)
    let load (i : Instr) (w : LongWord) : Bool := passes i s w (shapeMem w (mSLoad w) (.dst 1)) { entry := true, dests := [destOf w.d] }
      (fun c t => decide (t = entered c true [destOf w.d] (ordOf w.m6) (.sload (subNo w) (sp c)) []))
    let store (i : Instr) (w : LongWord) : Bool := passes i s w (shapeMem w (mSStore w) (.src 1)) { entry := true }
      (fun c t => decide (t = entered c false [] (ordOf w.m6) (.sstore (subNo w) ((sp c).map (fun a => (a, c.rd a.lane w.d)))) []))
    load (.lds w) w ∧ load (.ldsN32K k) (kLong 3 k) ∧ load (.ldsN64K k) (kLong 1 k) ∧ load (.ldx w) w
    ∧ store (.sts v) v ∧ store (.stsN32K k) (kLong 3 k) ∧ store (.stsN64K k) (kLong 1 k) ∧ store (.stx v) v
    ∧ atIssue s w (shapeMem w true (.dst 1)) (fun _ _ c => recScratch c.r == 32768
        && (match checkSpad c false 4 0 32764, checkSpad c true 4 0 32764 with | .ok a, .ok b => a == ⟨0, 0, 32764⟩ && a == b | _, _ => false)
        && (match checkSpad c false 4 0 32768 with | .error t => t == ⟨0x05, 32768, 8⟩ | _ => false)
        && (match checkSpad c true 4 0 2 with | .error t => t == ⟨0x03, 2, 0⟩ | _ => false)) = true := by decide +kernel

theorem witness_blocks_and_hints :
    let w := wd 0x0D 0 32 2 3 0
    let n := payRegs 0x0D
    let ds : List Dest := (List.range (n + 1)).map (destAt w.d)
    let p := wd 0 1 0 2 3 0
    let cm (i : Instr) (op : Nat) : Bool := let w := wd op 0 0 2 3 0
      passes i (demoA 8) w { sub := true, a := .src 1, b := .src 1 } { entry := true } (fun c t => (lanesAt .cmnt c 1).length == 8
        && decide (t = entered c false [] Ord.relaxed (.cmnt op (lanesAt .cmnt c 1)) []))
    passes (.ldb w) (demoA 8) w (shapeBlock w (mLoad w) .dst) { entry := true, tx := some 2, dests := ds } (fun c t => !overQuota c
        && (match checkBlocks c .ldb with | .ok ls => decide (t = entered c true ds (ordOf 0) (.loadBlock 0x0D ls) []) | _ => false)) = true
    ∧ passes (.stb w) (demoA 8) w (shapeBlock w (mStore w) .src) { entry := true, tx := some 2 } (fun c _ => !recDet c.r
        && (match checkBlocks c .stb with | .ok ls => ls.length == 8 | _ => false)) = true
    ∧ passes (.pref p) (demoA 8) p { a := .src 1, b := .src 1 } { entry := true } (fun c t => !overQuota c
        && decide (t = entered c false [] Ord.relaxed (.pref 1 1 ((effLanes c).map (·.2))) [])) = true
    ∧ cm (.cmntPin (wd 0 0 0 2 3 0)) 0 ∧ cm (.cmntUnpin (wd 1 0 0 2 3 0)) 1 ∧ cm (.cmntClean (wd 2 0 0 2 3 0)) 2
    ∧ cm (.cmntEvict (wd 3 0 0 2 3 0)) 3 ∧ cm (.cmntL1inv (wd 4 0 0 2 3 0)) 4 := by decide +kernel

/-! ### Witnesses: copies, atomics, transactions, synchronisation -/

/-- The demonstration with a page of MT 7, and s8 to s11 (fields 200 to 203) given values. -/
def demoS (len a b c : Nat) : State := demoG len (fun g => withS 8 (word a) (withS 9 (word b) (withS 10 (word c) g)))
def onMt7 (s : State) : State := withLeaf s (7 + 16 * 7)

/-- Commands of each kind: ACTIVE, DONE with nothing to copy, OPEN on a publish page, STOPPED on another. -/
theorem witness_copy_commands :
    let w := wd 0 0 204 200 201 202
    let g1 := wd 1 0 204 200 201 202
    let go (i : Instr) (w : LongWord) (sub : Bool) (s : State) (kind : CopyKind) (mask n dst : Nat) (st : ChState) : Bool :=
      passes i s w (shapeCpy w sub) { entry := true, tx := some 2, dests := [destOf w.d] } (fun c t =>
        (match checkCopy c kind (c.rd 0 w.a).toNat dst n mask (c.rd 0 w.c).toNat with | .ok _ => true | _ => false)
        && c.t.chan.findIdx? (fun x => x.st == .idle) == some 0
        && (tget t.teams 0).bind (fun t => t.chan[0]?.map (fun x => (x.st, x.gen, x.dst, x.mask))) == some (st, 1, dst, mask))
    go (.cpy w) w true (demoS 8 0x40000 64 0x100) .cpy 0 64 0x100 .active
    ∧ go (.cpy w) w true (demoS 8 0x40000 0 0x100) .cpy 0 0 0x100 .done
    ∧ go (.cpym w) w true (demoS 8 0x40000 64 (0x100 + 2 ^ 32)) .cpym 1 64 0x100 .active
    ∧ go (.cpyg w) w true (onMt7 (demoS 8 0x40000 64 0x50000)) .cpyg 0 64 0x50000 .active
    ∧ go (.cpyg w) w true (demoS 8 0x40000 64 0x50000) .cpyg 0 64 0x50000 .stopped
    ∧ go (.cpygSpad g1) g1 true (onMt7 (demoS 8 0x40 64 0x50000)) .cpygSpad 0 64 0x50000 .active := by decide +kernel

/-- A team whose channel 0 holds a command in a state, whose handle is 4 (GEN 1); s8 holds the handle `h`. -/
def demoCh (st : ChState) (h : Nat) : State :=
  modTeam (demoS 8 h 0 0) 0 (fun t => { t with chan := t.chan.set 0 { Channel.idle with st := st, gen := 1, p := 64, len := 128 } })

theorem witness_copy_control :
    let w := wd 0 0 204 200 0 0
    let v := wd 1 0 204 200 0 0
    let p := wd 0 2 0 200 0 0
    let k : Issue := { entry := true, dests := [destOf w.d] }
    let shU (w : LongWord) : Shape := { shapeW w with d := .dst 1, a := .src 1, port := .uniform }
    let wait (i : Instr) (w : LongWord) (n : Nat) : Bool :=
      passes i (demoCh .active 4) w { shU w with sub := true } k (fun c t =>
        (chanOf c.t (c.rd 0 w.a)).isSome && decide (t = serveWaiters (entered c true [destOf w.d] ⟨true, false, false, .team, none⟩ (.cwait 0 1 (n == 0)) []) c.core))
      && passes i (demoCh .active 8) w { shU w with sub := true } k (fun c t =>
        (chanOf c.t (c.rd 0 w.a)).isNone && decide (t = entered c true [destOf w.d] Ord.relaxed .values [(0, word (3 * 2 ^ 56))]))
    passes (.wptr w) (demoCh .active 4) w (shU w) k (fun c t => decide (t = entered c true [destOf w.d] Ord.relaxed .values [(0, 64)])) = true
    ∧ wait (.cwait w) w 0 ∧ wait (.cwaitStat v) v 1
    ∧ passes (.publ p) (onMt7 (demoS 8 0x40000 0 0)) p { shapeW p with m6 := true, a := .src 1, port := .uniform } { entry := true, tx := some 2 }
        (fun c t => match checkLanes c .publ 1 false [(0, 0x40000)] with
          | .ok [a] => !recDet c.r && decide (t = entered c false [] ⟨false, true, false, .clus, none⟩ (.publ a .clus) [])
          | _ => false) = true := by decide +kernel

/-- CCAN of an ACTIVE, a STOPPED and a DONE channel, and of a stale handle. -/
theorem witness_cancel_channel :
    let w := wd 0 0 0 200 0 0
    let go (st : ChState) (h : Nat) (u : ChState) : Bool := passes (.ccan w) (demoCh st h) w { shapeW w with a := .src 1, port := .uniform }
      { entry := true } (fun c t => (chanOf c.t (c.rd 0 w.a)).isSome == (h == 4)
        && (tget t.teams 0).bind (fun t => t.chan[0]?.map (fun x => (x.st, x.p))) == some (u, 64))
    go .active 4 .cancelled ∧ go .stopped 4 .cancelled ∧ go .done 4 .done ∧ go .cancelled 4 .cancelled ∧ go .active 8 .active := by
  decide +kernel

/-- The checked lanes of an atomic. -/
def atomsAt (c : Ic) (st : Nat) : List Acc := match checkAtoms c st with | .ok l => l | .error _ => []

/-- A long atomic of stream `st` on memory of the package. -/
def atomEnters (i : Instr) (w : LongWord) (st : Nat) : Bool :=
  passes i (demoA 8) w (shapeAtom w (.dst 1) true) { entry := true, tx := some 2, dests := [destOf w.d] } (fun c t =>
    (atomsAt c st).length == 8 && decide (t = entered c true [destOf w.d] (ordOf 0) (.atom 0 3 st (atomLanes c (atomsAt c st))) []))

/-- One on a peer's memory, whose lanes take their places in OUT of the stream. -/
def atomPlaces (i : Instr) (w : LongWord) (st : Nat) : Bool :=
  let s := modCtx (withLeaf (demoA 8) (7 + 16 * 5)) 0 (fun c => { c with streams := tset c.streams st { streamOf c st with st := 1 } })
  passes i s w (shapeAtom w (.dst 1) true) { entry := true, tx := some 2, dests := [destOf w.d] } (fun c t =>
    (atomsAt c st).length == 8 && (atomsAt c st).all (fun a => a.xl.mt == 5) && (streamOf (ctxOf c.s 0) st).out == 0
    && (streamOf (ctxOf t 0) st).out == 8 && (groupAt t 0 0).map (·.rmtOp) == some true)

theorem witness_atomics : atomEnters (.atom (wd 3 0 1 2 3 0)) (wd 3 0 1 2 3 0) 0 = true
    ∧ atomEnters (.atomx (wd 3 0 1 2 3 0x10)) (wd 3 0 1 2 3 0x10) 1 = true := by decide +kernel

theorem witness_peer_atomics : atomPlaces (.atom (wd 3 0 1 2 3 0)) (wd 3 0 1 2 3 0) 0 = true
    ∧ atomPlaces (.atomx (wd 3 0 1 2 3 0x10)) (wd 3 0 1 2 3 0x10) 1 = true := by decide +kernel

theorem witness_reductions :
    let r := wd 3 0 0 2 3 0
    let w := wd 3 0 1 2 3 0
    passes (.red r) (demoA 8) r (shapeAtom r .unused true) { entry := true, tx := some 2 } (fun c t =>
        decide (t = entered c false [] (ordOf 0) (.atom 0 3 0 (atomLanes c (atomsAt c 0))) [])) = true
    ∧ passes (.red r) (modGroup (demoR 8 3 (word (1 + 2 ^ 16 + 2 ^ 32 + 2 ^ 48))) 0 0 (withV 2 0x40000)) r (shapeAtom r .unused true)
        { entry := true, tx := some 2 } (fun c t => recDet c.r && !c.t.hasToken && !c.t.hadToken
          && (tget t.teams 0).map (fun t => (t.det.length, t.ott.length)) == some (1, 1)) = true
    ∧ passes (.atoms w) (demoG 8 (withV 2 0x40)) w (shapeAtom w (.dst 1) true) { entry := true, dests := [destOf w.d] } (fun c t =>
        (match checkSpads c false 4 (c.lanes.map (fun l => (l, 0x40))) with
         | .ok l => decide (t = entered c true [destOf w.d] (ordOf 0) (.satom 0 3 (l.map (fun a => ⟨a, 0, 0⟩))) [])
         | _ => false)) = true := by decide +kernel

theorem witness_atomic_values : (0x80 : Nat) < 2 ^ tyBits 6 ∧ (6 : Nat) ≠ 8 ∧ tyInt 6 (atomNew 1 6 0x80 0x7F 0) = -128 := by decide

theorem witness_transactions :
    let w := wd 0 0 0 0 0 0
    let a := wx 0 0 0 0 0 255
    let d := wd 0 0 1 0 0 0
    passes (.tbegin w) (demo 8) w (shapeW w) { entry := true, tx := some 1 } (fun c t => decide (t = c.enters (c.entry false Ord.relaxed .done [])
      { c.g.mapLanes (fun _ x => { x with txs := .opened }) with txr := [], txw := [] })) = true
    ∧ passes (.tabort a) (demoTx 12) a { shapeW a with form := true, ok12 := litNat a < 256 } { entry := true } (fun c t =>
        decide (t = c.enters (c.entry false Ord.relaxed .done []) (c.g.mapLanes (fun _ x => { x with txs := .doomed, txw := txStatus 6 255 0 0 })))) = true
    ∧ passes (.tstat d) (demoTx 8) d { shapeW d with d := .dst 1, port := .vector } { entry := true, dests := [destOf d.d] } (fun c t =>
        decide (t = entered c true [destOf d.d] Ord.relaxed .values (c.en.map (fun l => (l, word (2 ^ 22)))))) = true := by decide +kernel

/-- One OPEN lane that wrote a byte and read a sector; the recorded value stands, or has changed. -/
theorem witness_commit :
    let w := wd 0 0 1 0 0 0
    let s (b : Byte) : State := modGroup (demoA 8) 0 0 (fun g => { g with
      threads := g.threads.mapIdx (fun l t => if l = 0 then { t with txs := .opened } else { t with live := false }),
      txr := [⟨0, 0x50000 / 32, b :: List.replicate 31 0⟩], txw := [⟨0, 0, 0x40000, 0x40000, 0, 0, [0xAB]⟩] })
    let go (b : Byte) (m : Byte) (o : Nat) : Bool := passes (.tcommit w) (s b) w { shapeW w with d := .dst 1, port := .vector }
      { entry := true, dests := [destOf w.d] } (fun c t => !recDet c.r && commitReady c && c.en == [0] && (c.g.lane 0).txs == .opened
        && memByte t.mem 0x40000 == m && (groupAt t 0 0).map (fun g => ((g.lane 0).txs, (g.lane 0).txw)) == some (.none_, txStatus o 0 0 0))
    go 0 0xAB 1 ∧ go 1 0 3 := by decide +kernel

/-- Several lanes: lane 1 conflicts with lane 0, which wins; lane 2, whose set is apart, is performed too; lane 3 reports its abort, and
lane 4 was in no transaction (R309). -/
theorem witness_commit_lanes :
    let w := wd 0 0 1 0 0 0
    let s := modGroup (demoA 8) 0 0 (fun g => { g with
      threads := g.threads.mapIdx (fun l t => if l < 3 then { t with txs := .opened } else if l = 3 then { t with txs := .doomed, txw := txStatus 6 9 0 0 } else t),
      txw := [⟨0, 0, 0x40000, 0x40000, 0, 0, [0xA0]⟩, ⟨1, 1, 0x40001, 0x40001, 0, 0, [0xA1]⟩, ⟨2, 2, 0x40040, 0x40040, 0, 0, [0xA2]⟩] })
    passes (.tcommit w) s w { shapeW w with d := .dst 1, port := .vector } { entry := true, dests := [destOf w.d] } (fun c t =>
      commitReady c && [0, 2].all (fun l => c.en.contains l) && memRead t.mem 0x40000 2 == [0xA0, 0] && memByte t.mem 0x40040 == 0xA2
      && (tget t.teams 0).map (fun t => t.ott.map (fun e => (e.work, e.got.take 5)))
          == some [(.values, [(0, txStatus 1 0 0 0), (1, txStatus 2 0 0 0), (2, txStatus 1 0 0 0), (3, txStatus 6 9 0 0), (4, 0)])]) = true := by
  decide +kernel

theorem witness_synchronisation :
    let b : Issue := { blocking := true, tx := some 2 }
    let f (m : Nat) := wd 0 m 0 0 0 0
    let w := wd 3 0 0 0 0 0
    let cc := wx 4 0 0 0 0 2
    let ar := wx 0 0x10 0 200 0 1
    let wv := wd 0 0x0B 0 200 0 0
    let drops (l1 : Bool) (c : Ic) : State := setTeam c.s c.core { (if l1 then { c.t with l1 := [] } else c.t) with
      groups := tset c.t.groups c.grp (retireGroup c.pc c.next c.act [] false c.g) }
    passes (.fence (f 0x0A)) (demo 8) (f 0x0A) { shapeW (f 0x0A) with m6 := layoutM [1, 2, 3, 4] 0x0A } b (fun c t =>
      clearsL1 (ordOf 0x0A) && marksFree c.s (scopeRank (ordOf 0x0A).scope) && !farRead c false && decide (t = drops true c)) = true
    ∧ passes (.fence (f 0x24)) (demo 8) (f 0x24) { shapeW (f 0x24) with m6 := layoutM [1, 2, 3, 4] 0x24 } b (fun c t =>
        earlierDone c .sys c.en && wcQuiet c.t && !farBuffered c && !recDet c.r && latchedTrap c.g == none && livePeers c.s == []
        && decide (t = drops true { c with s := applyAll c.s })) = true
    ∧ passes (.bar w) (demo 8) w { shapeW w with sub := true } b (fun c t => earlierDone c .team c.en
        && decide (t = arriveAt c (.bar 3) (c.with (retireGroup c.pc c.next c.act [] false c.g)))) = true
    ∧ passes (.cbar w) (demo 8) w { shapeW w with sub := true } b (fun c t => earlierDone c .team c.en && wcQuiet c.t
        && decide (t = arriveAt c (.cbar 3) (c.with (retireGroup c.pc c.next c.act [] false c.g)))) = true
    ∧ passes (.cbarCopy cc) (demoT 12 (fun t => { t with cc := 5 })) cc
        { form := true, sub := true, a := .src 1, litA := true, port := .uniform } b (fun c t => c.t.groups.all (fun e => ccSince e.2 == none)
          && (tget t.teams 0).map (·.cc) == some 3) = true
    ∧ passes (.arrive ar) (demoS 12 0x40000 0 0) ar { sub := true, m6 := layoutM [0, 2] 0x10, a := .src 1, b := .src 1, port := .uniform }
        { entry := true } (fun c t => match checkLanes c .arrive 64 false [(0, 0x40000)] with
          | .ok [a] => decide (t = entered c false [] (ordOf 0x10) (.arrive a 1) [])
          | _ => false) = true
    ∧ passes (.waitv wv) (demoS 8 0x40000 0 0) wv { shapeW wv with m6 := layoutM [0, 1] 0x0B, a := .src 1, port := .uniform } b (fun c t =>
        match checkLanes c .waitv 64 false [(0, 0x40000)] with
        | .ok [a] =>
          let s' := l2Touch (meetUpsets c.s 0x40000 8) 0x40000 (policy (ordOf wv.m6) a.xl) a.xl.wp false
          a.xl.mt == 0 && physAddr c.s c.ctx a.xl a.va false == 0x40000 && reachedBy s' c.core 0x40000 && !poisoned s' 0x40000 8
          && !readBuffered c a && inOrder c.s c.ctx c.t (objectRead c a) && markFree s' (scopeRank (ordOf wv.m6).scope) 0x40000 8
          && decide (t = retire (l1Clear s' c.core) c.core c.grp c.pc c.next c.act [] false)
        | _ => false) = true := by
  decide +kernel

/-- TOKEN.wait and TOKEN.pass without DET, with the token, and after it has left. -/
theorem witness_token :
    let b : Issue := { blocking := true, tx := some 2 }
    let w := wd 0 0 0 0 0 0
    let v := wd 1 0 0 0 0 0
    let det (had has : Bool) : State := modTeam (demoR 8 3 (word (1 + 2 ^ 16 + 2 ^ 32 + 2 ^ 48))) 0 (fun t => { t with hadToken := had, hasToken := has })
    let only (c : Ic) : State := c.with (retireGroup c.pc c.next c.act [] false c.g)
    let b' : Issue := { b with pre := passedWait }
    let go (i : Instr) (w : LongWord) (s : State) (f : Ic → State) : Bool :=
      passes i s w { shapeW w with sub := true } (if i = .tokenWait w then b' else b) (fun c t => decide (t = f c))
    go (.tokenWait w) w (demo 8) only ∧ go (.tokenPass v) v (demo 8) only ∧ go (.tokenPass v) v (det true false) only
    ∧ go (.tokenWait w) w (det false true) (fun c => setEntries (only c) c.core c.grp c.en)
    ∧ atIssue (det true false) w { shapeW w with sub := true } (fun t g c => t.hadToken && c.en != [] && !anyTx c && !g.parked
        && let c := c.atPark
          leads (.tokenWait w) (det true false) (takeTrap c.s c.core c.grp ⟨0x0F, 0, 3⟩ c.pc c.pc false false c.act))
    ∧ go (.tokenPass v) v (det false true) (fun c => arriveAt c .token (only c))
    ∧ go (.tokenPass v) v (det false false) (fun c => arriveAt c .token (only c)) := by decide +kernel

/-! ### Witnesses: the matrix engine -/

/-- The demonstration with its engine in service and tile 0 bound to the team as logical tile 1; s8 to s15 hold `xs`. -/
def demoE (len : Nat) (xs : List Nat) : State :=
  let s := demoG len (fun g => xs.zipIdx.foldl (fun g x => withS (8 + x.2) (word x.1) g) g)
  modEngine { s with svclvl := 2 } 0 (fun e => { e with tiles := e.tiles.set 0 (Tile.fresh 0 1 0) })

/-- The issuing state's request table has a free entry. -/
def room (c : Ic) : Bool := (tget c.eng.table 0).isNone

/-- MRSV placed, and refused for want of a range, of an id; tiles bound, and refused with 3 and 4; both releases. -/
theorem witness_reservations :
    let k (w : LongWord) : Issue := { entry := true, tx := some 2, dests := [destOf w.d] }
    let w := wd 0 0 204 200 0 0
    let r := 256 + 2 ^ 40 * 9
    let role2 (s : State) : State := modTeam s 0 (fun t => { t with role := t.role ||| 2 })
    let full (s : State) : State := modTeam s 0 (fun t => { t with resv := (List.range 63).map (fun i =>
      ⟨i + 1, 0, 0, 0, 9, false, false, 0, true, 0, 0⟩) })
    let go (s : State) (x : Nat) : Bool := passes (.mrsv w) s w { shapeM w true with form := true, d := .dst 1, a := .src 2 } (k w) (fun c t =>
      (c.rd 0 w.a).toNat % 256 == 0 && !badRecord (readRegAt c.g 0 w.a 1).toNat
      && (groupAt t 0 0).isSome && (tget t.teams 0).bind (fun t => t.ott.head?.map (·.got)) == some [(0, word x)])
    let acc (mask : Nat) (x : Nat) : Bool := let v := wx 1 0 204 0 0 mask
      passes (.mrsvAcc v) (demoE 12 []) v { shapeM v true with form := true, d := .dst 1, a := .src 1, litA := true } (k v) (fun _ t =>
        (tget t.teams 0).bind (fun t => t.ott.head?.map (·.got)) == some [(0, word x)])
    let m := wx 0 0 0 0 0 5
    let ma := wx 1 0 0 0 0 2
    go (role2 (demoE 8 [0x40000, r])) 1 ∧ go (demoE 8 [0x40000, r]) (2 ^ 56 + 2 ^ 63)
    ∧ go (full (role2 (demoE 8 [0x40000, r]))) (2 * 2 ^ 56 + 2 ^ 63)
    ∧ acc 1 1 ∧ acc 15 (3 * 2 ^ 56 + 2 ^ 63) ∧ acc 2 (4 * 2 ^ 56 + 2 ^ 63)
    ∧ passes (.mrel m) (full (demoE 12 [])) m { shapeM m true with form := true, a := .src 1, litA := true } { entry := true, tx := some 2 }
        (fun c _ => room c && c.t.resv.any (fun v => v.id == 5) && c.eng.table == []) = true
    ∧ passes (.mrelAcc ma) (demoE 12 []) ma { shapeM ma true with form := true, a := .src 1, litA := true } { entry := true, tx := some 2 }
        (fun c _ => room c && (maskTiles c 2).isSome) = true := by decide +kernel

/-- A pass of two register operands of BF16, 64 rows by 32, into logical tile 1. -/
theorem witness_matrix_pass :
    let w := wd 0 0 216 200 0 0
    passes (.mma w) (demoE 8 [2 ^ 13 * 9 + 2 ^ 18 * 9 + 2 ^ 23 + 2 ^ 24, 1, 0, 0, 64]) w { shapeM w true with d := .dst 1, a := .src 8 }
      { entry := true, tx := some 2, dests := [destOf w.d] } (fun c t => room c && c.eng.table == []
        && mmaFail c ((List.range 8).map (readRegAt c.g 0 w.a)) == none && c.g.threads.all (fun x => x.bad.isEmpty)
        && (tget (engineOf t 0).table 0).map (fun x => (x.tiles, x.stage)) == some ([(1, 0)], 8192)) = true := by decide +kernel

theorem witness_tile_commands :
    let d := 256 + 2 ^ 20 + 2 ^ 22 * 9
    let w := wd 0 0 0 200 0 0
    let z := wd 2 0 0 0 0 0
    let v := wd 1 0 0 200 0 0
    let q := wd 1 0 204 0 0 0
    let s := demoE 8 [0x40000, d]
    let wide (s : State) : State := { s with cores := tset s.cores 0 { coreRegs s 0 with tlb := [(0, placeXl)] } }
    let ok (c : Ic) (vas : List Nat) : Bool := room c && (match checkPages c vas with | .ok xls => xls.all (fun x => x.mt == 0 && x.w) | _ => false)
    passes (.mdrain w) (wide s) w { shapeM w true with a := .src 2 } { entry := true, tx := some 2 } (fun c t => !badDrain d && !recDet c.r
      && heldTile c.eng 0 0 1 == some 0 && ok c (pagesOf (drainRows d 0x40000)) && ((engineOf t 0).table.length == 1)) = true
    ∧ passes (.mzero z) s z (shapeM z true) { entry := true, tx := some 2 } (fun c _ => room c && (maskTiles c 2).isSome) = true
    ∧ passes (.msave v) (wide s) v { shapeM v true with a := .src 1 } { entry := true, tx := some 2 } (fun c _ => ok c (pagesOf [(0x40000, 131072)])) = true
    ∧ passes (.mload v) (wide s) v { shapeM v true with a := .src 1 } { entry := true, tx := some 2 } (fun c _ => ok c (pagesOf [(0x40000, 131072)])) = true
    ∧ passes (.mchk q) s q { shapeM q true with d := .dst 1 } { entry := true, tx := some 2, dests := [destOf q.d] } (fun c _ =>
        room c && heldTile c.eng 0 0 1 == some 0) = true := by decide +kernel

/-- A wait with nothing to wait for, and one that covers a failure. -/
theorem witness_engine_waits :
    let b : Issue := { blocking := true, tx := some 2 }
    let w := wd 0 0 0 200 0 0
    let v := wd 1 0 0 0 0 0
    let f : EngFail := ⟨0, 0, 32, 7, 0x20000, 0, ⟨0x15, 0, 4⟩⟩
    let bad : State := modEngine (demoE 8 [32]) 0 (fun e => { e with fails := [f] })
    let on (c : Ic) : State := c.with (retireGroup c.pc c.next c.act [] false c.g)
    let trap (c : Ic) : State := takeTrap (modEngine c.s 0 (fun e => { e with fails := [] })) c.core c.grp f.trap c.pc c.pc false false c.act
    passes (.mwait w) (demoE 8 [32]) w { shapeM w true with a := .src 1 } b (fun c t => decide (t = on c)) = true
    ∧ passes (.mwaitAll v) (demoE 8 [32]) v (shapeM v true) b (fun c t => decide (t = on c)) = true
    ∧ passes (.mwait w) bad w { shapeM w true with a := .src 1 } b (fun c t => decide (t = trap c)) = true
    ∧ passes (.mwaitAll v) bad v (shapeM v true) b (fun c t => decide (t = trap c)) = true := by decide +kernel

/-- 1 + 2 accumulates to 3 with no error; 3.4e38 squared overflows. -/
theorem witness_pass_arithmetic :
    let n (x : Nat) := fmtF32.read x
    accumulate (0x3F800000, 0) [(n 0x3F800000, n 0x40000000)] = (0x40400000, 0)
    ∧ accumulate (0, 0) [(n 0x7F7FFFFF, n 0x7F7FFFFF)] = (0x7F800000, 0)
    ∧ ([n 1] : List Machine.Num).length = [n 2].length := by decide +kernel

/-! ### Witnesses: the journal, streams, system instructions -/

/-- The demonstration in a launch with a journal; its context's journal is `f` of a fresh one, s8 holds `x`. -/
def demoJ (len x : Nat) (f : Context → Context) : State :=
  modCtx (modGroup (demoR len 3 (word (1 + 2 ^ 16 + 2 ^ 32 + 2 ^ 50))) 0 0 (fun g => withS 8 (word x) (withV 2 0x40000 g))) 0 f

/-- A journal with a partner, of which all is acknowledged up to `n`. -/
def partnered (n : Nat) (c : Context) : Context :=
  { c with jpartner := 17, gate := .normal, jpos := n, jack := n, cack := n, jsent := n }

theorem witness_journal_appends :
    let f : LaunchRecord → Bool := recJrnl
    let w := wd 2 0 0 200 0 0
    let e := wd 1 0 1 2 3 0
    passes (.japp w) (demoJ 8 7 (partnered 4)) w { form := true, sub := true, m6 := layoutZ w, a := .src 3 }
        { entry := true, tx := some 2, flag := f } (fun c t => !recDet c.r && (ctxOf t 0).jpos == 4 + c.lanes.length && (ctxOf t 0).records.length == c.lanes.length
        && (groupAt t 0 0).map (·.gjp) == some (word (4 + c.lanes.length))) = true
    ∧ passes (.emit e) (withLeaf (demoJ 8 7 (partnered 4)) (7 + 16 * 4)) e (shapeMem e (layoutZ e) (.src 1))
        { entry := true, tx := some 2, flag := fun r => recJrnl r && !recReplay r } (fun c t => !recDet c.r
          && (lanesAt .emit c 8).length == 8
          && decide (t = entered c false [] ⟨false, true, false, .sys, none⟩ (.emit ((lanesAt .emit c 8).map (fun a => (a, c.rd a.lane e.d))) 1 0) [])) = true := by
  decide +kernel

/-- Positions acknowledged, and the two gates without a partner. -/
theorem witness_journal_waits :
    let f : LaunchRecord → Bool := recJrnl
    let w := wd 0 0 0 0 0 0
    let v := wd 1 0 0 0 0 0
    let go (i : Instr) (w : LongWord) (p : Nat) : Bool :=
      let sh : Shape := { form := true, sub := true, m6 := layoutZ w, port := .uniform }
      let k : Issue := { blocking := true, tx := some 2, flag := f }
      passes i (demoJ 8 0 (partnered 4)) w sh k (fun c t => decide (t = c.with (retireGroup c.pc c.next c.act [] false c.g)))
      && passes i (demoJ 8 0 (fun c => { c with jpos := 4 })) w sh k (fun c t =>
        decide (t = takeTrap c.s 0 0 (ejournal c.s 0 1 (word p)) c.pc c.pc false false c.act))
      && passes i (demoJ 8 0 (fun c => { c with jpos := 4, gate := .lost })) w sh k (fun c t =>
        decide (t = takeTrap c.s 0 0 (ejournal c.s 0 2 (word p)) c.pc c.pc false false c.act))
    go (.jsync w) w 0 ∧ go (.jsyncCtx v) v 4 := by decide +kernel

/-- A truncation below the base, at an acknowledged position, above it; a seeding refused for each reason, and begun. -/
theorem witness_journal_bases :
    let f : LaunchRecord → Bool := recJrnl
    let w := wd 0 0 0 200 0 0
    let v := wx 0 0 204 0 0 2
    let sh (w : LongWord) : Shape := { form := true, sub := true, m6 := layoutZ w, a := .src 1, port := .uniform }
    let recs (c : Context) : Context := { partnered 4 c with records := [⟨2, []⟩, ⟨3, []⟩], tb := 2 }
    let seed (s : State) (why : Nat) : Bool := passes (.jseed v) s v { sub := true, m6 := layoutZ v, d := .dst 1, a := .src 1, litA := true, port := .uniform }
      { entry := true, dests := [destOf v.d], flag := f } (fun c t => seedWhy c.s 0 2 == why && (why == 0 ||
        decide (t = entered c true [destOf v.d] Ord.relaxed .values [(0, word (2 ^ 56 * why + 2 ^ 63))])))
    passes (.jtrunc w) (demoJ 8 2 recs) w (sh w) { entry := true, flag := f } (fun c t =>
      decide (t = entered c false [] Ord.relaxed .done [])) = true
    ∧ passes (.jtrunc w) (demoJ 8 4 recs) w (sh w) { entry := true, flag := f } (fun _ t => (ctxOf t 0).tb == 4 && (ctxOf t 0).records == []) = true
    ∧ passes (.jtrunc w) (demoJ 8 5 recs) w (sh w) { entry := true, flag := f } (fun c t =>
      decide (t = takeTrap c.s 0 0 (ejournal c.s 0 5 5) c.pc c.pc false false c.act)) = true
    ∧ seed (demoJ 12 0 (fun c => { c with jpartner := 18, gate := .normal })) 1 ∧ seed { demoJ 12 0 id with peerdead := 4 } 2
    ∧ seed (demoJ 12 0 (fun c => { partnered 4 c with gate := .seeding })) 3 ∧ seed (demoJ 12 0 (partnered 4)) 4
    ∧ seed { demoJ 12 0 (partnered 4) with pod := 16, live := 7 } 0 := by decide +kernel

/-- Every state of a stream, and stream 0. -/
theorem witness_streams :
    let w := wx 0 0 204 0 0 3
    let z := wx 0 0 204 0 0 0
    let c3 := wx 0 0 0 0 0 3
    let c0 := wx 0 0 0 0 0 0
    let at_ (st : Nat) : State := modStream (demo 12) 0 3 (fun x => { x with st := st, next := 9 })
    let op (s : State) (w : LongWord) (x : Nat) : Bool := passes (.sopen w) s w (shapeStream w (.dst 1)) { entry := true, dests := [destOf w.d] }
      (fun c t => (tget t.teams 0).bind (fun t => t.ott.head?.map (·.got)) == some [(0, word x)]
        && (streamOf (ctxOf t 0) (streamArg c)).st == (if x < 2 ^ 56 then 1 else (streamOf (ctxOf s 0) (streamArg c)).st))
    let cl (s : State) (w : LongWord) (st : Nat) : Bool := passes (.sclose w) s w (shapeStream w .unused) { entry := true }
      (fun c t => (streamOf (ctxOf t 0) (streamArg c)).st == st)
    op (at_ 0) w (9 + 2 ^ 32 * 3) ∧ op (at_ 1) w (9 + 2 ^ 32 * 3 + 2 ^ 56 + 2 ^ 63) ∧ op (at_ 2) w (9 + 2 ^ 32 * 3 + 2 ^ 57 + 2 ^ 63)
    ∧ op (at_ 0) z (3 * 2 ^ 56 + 2 ^ 63) ∧ cl (at_ 1) c3 2 ∧ cl (at_ 2) c3 2 ∧ cl (at_ 0) c3 0 ∧ cl (at_ 1) c0 1 := by decide +kernel

/-- The demonstration as a launch in service, on core 0. -/
def demoV (len : Nat) : State := modLaunch (demo len) 0 (fun l => { l with service := true })

/-- A read at once of each lane's own number, one on the uniform port, and one that takes an entry. -/
theorem witness_csr_reads :
    let go (n d : Nat) (p : Ic → State → Bool) : Bool := let w := wd 0 0 d 0 (n % 256) (n / 256)
      passes (.csrr w) (demoT 8 (fun t => { t with tix := 5 })) w (shapeCsr w true (.dst 1) .unused false) (issueCsr w (fun _ => none)) p
    go 0 1 (fun _ t => regAt t 3 1 == 3) ∧ go 2 204 (fun _ t => regAt t 0 204 == 5)
    ∧ go 0x22 1 (fun c t => decide (t = entered c true [destOf 1] Ord.relaxed .values (c.lanes.map (fun l => (l, 0)))))
    ∧ go 0xD0 204 (fun _ t => regAt t 0 204 == 0) := by decide +kernel

/-- Core 2 and slice 1 of die 0, a port and a unit fused off, core 5 out of service. -/
theorem witness_defect_map_registers :
    let map : List Host.Cell := memPatch [(0, 1)] [(0x040, 4), (0x190, 2), (0xC40, 1), (0xC48, 2)]
    let s : State := { demo 8 with defmap := map, defrt := [7], cores := tset (demo 8).cores 5 { coreRegs (demo 8) 5 with disabled := true } }
    let w := wd 0 0 204 0 0xD0 0
    atIssue s w (shapeCsr w true (.dst 1) .unused false) (fun _ _ c =>
      csrRead c 0xD0 0 == word (4 + 32 + 2 ^ 49) && csrRead c 0xD8 0 == word (1 + 2 ^ 25) && csrRead c 0xD9 0 == 1 && csrRead c 0xDF 0 == 0) = true := by
  decide +kernel

/-- A write accepted and one refused, an RP write outside a service group and in one, each exchange. -/
theorem witness_csr_writes :
    let sx (n : Nat) (s : State) : State := modGroup s 0 0 (withS 8 (word n))
    let csr (sub n d : Nat) : LongWord := wd sub 0 d 200 (n % 256) (n / 256)
    let k : Issue := { pre := csrPriv }
    let wr (s : State) (n : Nat) (p : Ic → State → Bool) : Bool := let w := csr 0 n 0
      passes (.csrw w) s w (shapeCsr w true .unused (.src 1) true) k p
    let ex (i : LongWord → Instr) (sub n x : Nat) : Bool := let w := csr sub n 204
      passes (i w) (sx x (demoV 8)) w (shapeCsr w true (.dst 1) (.src 1) true) (issueCsr w csrPriv) (fun c t =>
        (coreRegs t 0).lldwin == (if sub == 0 then word x else if sub == 1 then 0x42 else 0x40) && regAt t 0 204 == 0x40 && c.svc)
    wr (sx 9 (demo 8)) 0x21 (fun c t => match csrWrite c 0x21 9 with | .ok s' => decide (t = retire s' 0 0 c.pc c.next c.act [] false) | _ => false)
    ∧ wr (sx 3 (demo 8)) 0x10 (fun c t => (match csrWrite c 0x10 3 with | .error (.trap x) => x == ⟨0x01, 0, 0x0F⟩ | _ => false)
      && decide (t = takeTrap c.s 0 0 ⟨0x01, 0, 0x0F⟩ c.pc c.pc false false c.act))
    ∧ wr (sx 9 (demoV 8)) 0x30 (fun _ t => (coreRegs t 0).lldwin == 9)
    ∧ atIssue (demo 8) (csr 0 0x30 0) (shapeCsr (csr 0 0x30 0) true .unused (.src 1) true) (fun _ _ c => csrPriv c == some ⟨2, 0, word (2 ^ 16 * 0x30)⟩) = true
    ∧ ex .csrxSwap 0 0x30 9 ∧ ex .csrxSet 1 0x30 2 ∧ ex .csrxClr 2 0x30 2 := by decide +kernel

/-- The boundary of each range, and ERRSTAT with both kinds of bit set. -/
theorem witness_csr_rules :
    let s := demoG 8 (fun g => { g with errstat := 0xF })
    let w := wd 0 0 0 200 0x21 0
    let refused (c : Ic) (n : Nat) (x : Word) : Bool := match csrWrite c n x with | .error (.trap y) => y == ⟨1, 0, 0xF⟩ | _ => false
    let takes (c : Ic) (n : Nat) (x : Word) (p : State → Bool) : Bool := match csrWrite c n x with | .ok t => p t | _ => false
    atIssue s w (shapeCsr w true .unused (.src 1) true) (fun _ _ c =>
      takes c 0x30 0xFFFF (fun t => (coreRegs t 0).lldwin == 0xFFFF) && takes c 0x30 0 (fun t => (coreRegs t 0).lldwin == 1) && refused c 0x30 0x10000
      && takes c 0x32 127 (fun t => (coreRegs t 0).lldmin == 64) && refused c 0x32 128
      && takes c 0x41 (word (2 ^ 32 + 5)) (fun t => t.tmoremote == 5) && takes c 0x46 4095 (fun t => (groupAt t 0 0).any (·.tgtctx == 4095))
      && refused c 0x46 4096 && refused c 0xC1 256 && refused c 0xC8 256 && refused c 0xCB 24
      && takes c 0xA0 1 (fun t => (groupAt t 0 0).any (·.errstat == 0xE)) && takes c 0xA0 2 (fun t => (groupAt t 0 0).any (·.errstat == 1))
      && (groupAt c.s 0 0).isSome) = true := by decide +kernel

/-- A group leaves role 01, one leaves role 10 under a reservation and beside one; values refused. -/
theorem witness_bank_role :
    let s (role : Nat) : State := demoT 8 (fun t => { t with role := word role, resv := [⟨1, 31 * 32768, 256, 0, 9, false, false, 0, true, 0, 0⟩] })
    let w := wd 0 0 0 200 0x10 0
    let ones := 0x5555555555555555 - 2 ^ 62
    let go (old new : Nat) (p : Except Stop State → Bool) : Bool :=
      atIssue (s old) w (shapeCsr w true .unused (.src 1) true) (fun _ _ c => !mrelPending c.s 0 && !engineReads c.s 0 && p (csrWrite c 0x10 (word new)))
    let ok (n : Nat) : Except Stop State → Bool := fun | .ok t => (tget t.teams 0).any (fun t => t.role == word n) | _ => false
    let bad (n : Nat) (x : Word) : Except Stop State → Bool := fun | .error (.trap y) => y.cause == n && y.tinfo == x | _ => false
    go (ones + 2 ^ 62) (ones + 2 ^ 63) (ok (ones + 2 ^ 63)) ∧ go (ones + 2 ^ 62) (ones + 2 ^ 62) (ok (ones + 2 ^ 62))
    ∧ go (ones + 2 ^ 63) (ones + 2 ^ 62) (bad 0x0C 5) ∧ go (ones + 2 ^ 63 + 1) (ones + 2 ^ 63) (ok (ones + 2 ^ 63))
    ∧ go (ones + 2 ^ 62) (ones + 3 * 2 ^ 62) (bad 1 0x0F) ∧ go (ones + 2 ^ 62) ones (bad 1 0x0F)
    ∧ go (0xAAAAAAAAAAAAAAAA - 5) (0xAAAAAAAAAAAAAAAA - 1) (bad 1 0x0F) := by decide +kernel

/-- A region set; each TLBINV with nothing named, waiting, complete; outside a service group. -/
theorem witness_region_and_tlbinv :
    let r := wd 0 0 0 0 0 0
    let k : Issue := { blocking := true, tx := some 2, pre := fun c => if c.svc then none else some ⟨0x02, 0, 0⟩ }
    let sv (s : State) : State := modGroup { s with stamp := s.stamp + 1 } 0 0 (withS 9 0x10000)
    let fin (s : State) : State := { s with iss := { s.iss with id := 1 } }
    let go (i : Instr) (w : LongWord) (a b c : Use) : Bool :=
      let sh : Shape := { form := true, sub := true, m6 := layoutZ w, a := a, b := b, c := c, port := .uniform }
      passes i (sv (demoV 8)) w sh k (fun c t =>
        match tlbScope w (c.rd 0) with
        | .ok x => decide (x.lo < x.hi) && decide (t = modGroup (dropTranslations c.s x) 0 0 (fun g =>
            { g with status := .blocked .tlbinv w c.len c.s.iss.d16, stall := none }))
        | _ => false)
      && passes i (fin (sv (demoV 8))) w sh k (fun c t => decide (t = c.with (retireGroup c.pc c.next c.act [] false c.g)))
    let x := wd 0 0 0 0 0 200
    let y := wd 1 0 0 200 201 200
    let z := wd 2 0 0 0 0 0
    let none_ : State := modGroup (sv (demoV 8)) 0 0 (withS 9 0)
    passes (.region r) (demo 8) r (shapeW r) { blocking := true, tx := some 2, pre := fun c => if c.g.hm.isSome then some wrongMode else none } (fun c t =>
      !regionWaits c && decide (t = setEntries (c.with (retireGroup c.pc c.next c.act [] false c.g)) 0 0 c.en)) = true
    ∧ go (.tlbinvCtx x) x .unused .unused (.src 1) ∧ go (.tlbinvRange y) y (.src 1) (.src 1) (.src 1) ∧ go (.tlbinvAll z) z .unused .unused .unused
    ∧ passes (.tlbinvRange y) none_ y { form := true, sub := true, m6 := layoutZ y, a := .src 1, b := .src 1, c := .src 1, port := .uniform } k (fun c t =>
        match tlbScope y (c.rd 0) with
          | .ok x => x.hi == x.lo && decide (t = retire (modCtx c.s (x.ctx.getD 0) Context.applyCsrs) 0 0 c.pc c.next c.act [] false)
          | _ => false) = true
    ∧ leads (.tlbinvAll z) (demoG 8 (fun g => { g with parked := true })) (takeTrap (demoG 8 (fun g => { g with parked := true })) 0 0
        ⟨2, 0, 0⟩ (word placeAddr) (word placeAddr) false false (List.range 8)) = true := by
  decide +kernel

theorem witness_selftests :
    let go (i : LongWord → Instr) (p : Nat) (operand : Bool) (pre : Ic → Option TrapInfo) (s : State) (x : Nat) (q : Ic → State → Bool) : Bool :=
      let w := wd p 0 204 (if operand then 200 else 0) 0 0
      passes (i w) (modGroup s 0 0 (withS 8 (word x))) w
        { form := true, sub := true, m6 := layoutZ w, d := .dst 1, a := if operand then .src 1 else .unused, port := .uniform }
        { entry := true, dests := [destOf w.d], pre := pre } q
    let np : Ic → Option TrapInfo := fun _ => none
    let priv : Ic → Option TrapInfo := fun c => if c.svc then none else some ⟨0x02, 0, 0⟩
    let starts (p : Nat) (x : Word) (c : Ic) (t : State) : Bool := decide (t = entered c true [.s 12] Ord.relaxed (.selftest p x) [])
    let away (p : Nat) (c : Ic) (t : State) : Bool := (tget t.teams 0).bind (fun t => t.ott.head?.map (·.got)) == some [(0, word (p + 2 ^ 5))]
      && (coreRegs t 0).selftest == word (p + 2 ^ 5) && c.svc == false || c.svc
    go .selftestLane 0 false np (demo 8) 0 (starts 0 0) ∧ go .selftestL1 1 true np (demo 8) 31 (starts 1 31)
    ∧ go .selftestL1 1 true np (demoT 8 (fun t => { t with role := t.role + 2 ^ 62 })) 31 (away 1)
    ∧ go .selftestEngine 2 false np { demoV 8 with svclvl := 2 } 0 (fun c t => room c && ((engineOf t 0).table.length == 1))
    ∧ go .selftestEngine 2 false np { demo 8 with svclvl := 1 } 0 (away 2)
    ∧ go .selftestRfull 3 false priv (demoV 8) 0 (starts 3 0) ∧ go .selftestLink 4 true priv (demoV 8) 23 (starts 4 23)
    ∧ go .selftestLink 4 true priv (demoV 8) 24 (away 4) := by decide +kernel
/-! ### Witnesses: the words of a collective's program -/

/-- The program of slot 0 runs, of a reduce over `ms`, with `f` of its slot. -/
def demoQ (ms : List Nat) (f : CSlot → CSlot) : State :=
  let s := State.reset.withFetchWord 32 0
  modSlot { s with pod := 2, live := (ms.map (2 ^ ·)).sum } 0 (fun x => f { x with members := ms })

/-- A word of a program. -/
def cw (x y z imm : Nat) : CaramelFields := ⟨BitVec.ofNat 4 x, BitVec.ofNat 4 y, BitVec.ofNat 4 z, BitVec.ofNat 15 imm⟩

/-- The word completes, with `p` of what its slot was and is. -/
def runs (i : Instr) (s : State) (p : CSlot → CSlot → Bool) : Bool :=
  match exec i s, tget s.cslots 0 with
  | .next t, some x => x.phase == .running && s.iss.core == 0 && (tget t.cslots 0).any (p x)
  | _, _ => false

/-- The word completes and leaves the slot `f` of it, one word further. -/
def does (i : Instr) (s : State) (f : CSlot → CSlot) : Bool := runs i s (fun x y => y == { f x with pc := x.pc + 1 })

/-- One full buffer of a segment, and a list with two. -/
def fullB (v : Nat) (g : Option (Nat × Nat)) : CBuf := .full 0 8 g (List.replicate 2 v)
def bufs (a b : CBuf) (x : CSlot) : CSlot := { x with b := (x.b.set 0 a).set 1 b }

theorem witness_caramel_control :
    let s := demoQ [0] (fun x => { x with k := x.k.set 1 5, pc := 9 })
    let ends (i : Instr) (s : State) (code : Nat) : Bool := match exec i s, tget s.cslots 0 with
      | .next t, some x => decide (t = endProgram s 0 code (if code == 1 then 3 else 0) 0 (if code == 0 then 0 else carPc x) 0)
      | _, _ => false
    let ldk (imm v : Nat) : Bool := does (.caramelLdk (cw 2 (if imm == 2 || imm == 3 then 3 else 0) 0 imm)) s (fun x => { x with k := x.k.set 2 (BitVec.ofNat 32 v) })
    does (.caramelSetk (cw 1 0 0 0x4001)) s (fun x => { x with k := x.k.set 1 0x4001 })
    ∧ runs (.caramelBnz (cw 1 0 0 0x7FFE)) s (fun x y => y == { x with pc := 7 }) ∧ does (.caramelBnz (cw 2 0 0 4)) s id
    ∧ runs (.caramelLoopk (cw 1 0 0 0x7FFE)) s (fun x y => y == { x with k := x.k.set 1 4, pc := 7 })
    ∧ runs (.caramelBrk (cw 0 0 0 3)) s (fun x y => y == { x with pc := 12 })
    ∧ does (.caramelAddk (cw 2 1 0 0x3FFF)) s (fun x => { x with k := x.k.set 2 4 })
    ∧ does (.caramelAddk (cw 2 1 0 0x4001)) s (fun x => { x with k := x.k.set 2 0x10005 })
    ∧ ldk 0 0 ∧ ldk 1 1 ∧ ldk 2 2 ∧ ldk 3 128 ∧ ldk 4 0 ∧ ldk 5 1
    ∧ does (.caramelRecv (cw 0 0 0 0)) (demoQ [0] (bufs (fullB 1 none) .empty)) id
    ∧ does (.caramelDrop (cw 0 0 0 0)) (demoQ [0] (bufs (fullB 1 none) .empty)) (bufs .empty .empty)
    ∧ does (.caramelWaitn (cw 0 0 0 0)) s id ∧ does (.caramelPost (cw 0 0 0 0)) s id
    ∧ does (.caramelPost (cw 0 0 0 0)) (demoQ [0] (fun x => { x with rec_ := x.rec_.set 4 0 })) id
    ∧ ends (.caramelDone (cw 0 0 0 0)) s 0 ∧ ends (.caramelHalt (cw 0 0 0 3)) s 1
    ∧ ends (.caramelIllegalWord (some 0)) s 2 ∧ ends (.caramelIllegalWord none) (demoQ [0] (fun x => { x with pc := 1024 })) 7 := by
  decide +kernel

/-- MATCH with no packet and with one, the two combinations in both orders, a conversion, the transfers, memory. -/
theorem witness_caramel_buffers :
    let pkt : CPacket := ⟨1, 0, 1, 0, 0, 8, none, [1, 2]⟩
    let one := 0x3F800000
    let two := bufs (fullB one (some (0, 1))) (fullB one (some (1, 2)))
    let rev := bufs (fullB one (some (1, 2))) (fullB one (some (0, 1)))
    let full := demoQ [0, 1] (fun x => { bufs (fullB one (some (0, 2))) .empty x with k := x.k.set 1 1 })
    let sends (i : Instr) : Bool := runs i full (fun x y => y.pc == 1 && y.out.map (fun t => (t.buf, t.peer, t.pkt)) == [(0, 1, ⟨0, 0, 1, x.epoch, 0, 8, some (0, 2), [one, one]⟩)])
    does (.caramelMatch (cw 0 0 0 1)) (demoQ [0, 1] id) (bufs (.expect 1 0) .empty)
    ∧ does (.caramelMatch (cw 0 0 0 1)) { demoQ [0, 1] id with heldPk := [pkt] } (fun x => { bufs (.full 0 8 none [1, 2]) .empty x with filled := [(1, 0)] })
    ∧ does (.caramelMatchx (cw 0 0 1 0)) (demoQ [0, 1] (fun x => { x with k := x.k.set 1 1 })) (bufs (.expect 1 0) .empty)
    ∧ does (.caramelComb (cw 0 1 0 0)) (demoQ [0, 1] two) (bufs (fullB 0x40000000 none) (fullB one (some (1, 2))))
    ∧ does (.caramelCombo (cw 0 1 0 0)) (demoQ [0, 1] two) (bufs (fullB 0x40000000 (some (0, 2))) (fullB one (some (1, 2))))
    ∧ does (.caramelCombo (cw 0 1 0 0)) (demoQ [0, 1] rev) (bufs (fullB 0x40000000 (some (0, 2))) (fullB one (some (0, 1))))
    ∧ does (.caramelCvt (cw 0 0 0 1)) (demoQ [0] (fun x => { bufs (.full 0 9 none [0x3F80]) .empty x with
        rec_ := x.rec_.set 5 (word (128 + 2 ^ 32 * 64 + 2 ^ 48 * 9 + 2 ^ 53 * 8)) })) (bufs (.full 0 8 none [one]) .empty)
    ∧ does (.caramelCvt (cw 0 0 0 1)) full (bufs (fullB one (some (0, 2))) .empty)
    ∧ sends (.caramelFwd (cw 0 0 1 0)) ∧ sends (.caramelMcast (cw 0 0 0 0)) ∧ sends (.caramelSend (cw 0 0 0 1))
    ∧ runs (.caramelGath (cw 0 1 0 0)) (demoQ [0] (fun x => { x with sealed := true })) (fun _ y => y.pc == 1 &&
        y.b[0]? == some (.full 0 8 (some (0, 1)) (List.replicate 64 0)))
    ∧ runs (.caramelScat (cw 0 0 0 0)) full (fun _ y => y.scats.map (fun x => (x.buf, x.va, x.bytes)) ==
        [(0, 0x50000, leBytes 4 one ++ leBytes 4 one)]) := by decide +kernel

theorem witness_caramel_ends :
    let s := demoQ [0, 1] (fun x => { x with pc := 9 })
    (match exec (.caramelDone (cw 0 0 0 1)) s, tget s.cslots 0 with
      | .next t, some x => decide (t = endProgram s 0 2 0 0 (carPc x) 0) && sent t == [(1, Message.carAbort 0 1 0 s.stamp)]
          && (tget t.cslots 0).any (fun y => y == { x with phase := .ended, b := List.replicate 16 .empty, out := [], scats := [], waiting := false })
      | _, _ => false) = true := by decide +kernel
/-! ### Witnesses: events of groups, cores, engines, copies and requests -/

/-- The event happens and `p` holds of the next state. -/
def comes (i : Instr) (s : State) (p : State → Bool) : Bool :=
  match exec i s with
  | .next t => p t
  | _ => false

/-- A group that waits in a blocking instruction, or at a stall. -/
def inWait (b : Block) (w : LongWord) (g : Group) : Group := { g with status := .blocked b w 8 none, parked := true }
def stalled (x : Stall) (g : Group) : Group := { g with stall := some (x, 0) }

/-- An entry of the demonstration's group. -/
def ottE (id : Nat) (long : Bool) (w : Work) : OttEntry := ⟨id, 0, 0x20000, long, [0], [0], false, [(0, 0)], Ord.relaxed, w, [], [], none⟩

theorem witness_group_events_waits :
    let slot (st : SlotState) : Slot := ⟨.v 4, [0], [0, 1], [], 9, 0x20008, st⟩
    let park (st : SlotState) : State := demoG 8 (fun g => { g with rb := [slot st], status := .parking true 0x20010 0x20018 [0, 1] })
    let tr : TrapInfo := ⟨3, 0, 0⟩
    let low : State := { demo 8 with iss := { (demo 8).iss with id := 0x40000 }, mem := memWriteNat (demo 8).mem 0x40004 4 1 }
    let g := modGroup
    let y := demoG 8 (fun g => { g with yielded := some [1] })
    let w := demoG 8 (stalled .ott)
    let x := demoG 8 (inWait .exit (wd 0 0 0 0 0 0))
    let z := modGroup (demoV 8) 0 0 (inWait .tlbinv (wd 2 0 0 0 0 0))
    let v := modGroup (demoS 8 0x40000 0 0) 0 0 (inWait .waitv (wd 0 0x0B 0 200 0 0))
    leads .yieldTimeout y (g y 0 0 (fun g => { g with yielded := none })) = true
    ∧ leads .ottEntryGrant w (g w 0 0 (fun g => { g with granted := true, stall := none })) = true
    ∧ comes .parkCommit (park (.filled [(0, 7)])) (fun t => regAt t 0 4 == 7 && (groupAt t 0 0).any (fun g => g.parked && g.status == .running))
    ∧ leads .parkCommit (park (.failed tr)) (takeTrap (g (park (.failed tr)) 0 0 (fun g => { g with status := .running })) 0 0 tr 0x20008 0x20010 true false [0, 1])
    ∧ comes .exitDrainComplete x (fun t => (groupAt t 0 0).all (fun g => liveLanes g == []))
    ∧ leads .tlbinvComplete z (match resumeBlocked z 0 0 1 with
      | some (_, w, u) => match offer u w { form := true, sub := true, m6 := layoutZ w, port := .uniform }
          { blocking := true, tx := some 2, pre := fun c => if c.svc then none else some ⟨0x02, 0, 0⟩ } with
        | .ok c => c.with (retireGroup c.pc c.next c.act [] false c.g)
        | .error _ => z
      | none => z)
    ∧ comes .waitvPoll v (fun t => (groupAt t 0 0).any (fun g => g.status == .running && issuePc g == some 0x20008))
    ∧ leads .waitvPoll low low ∧ reached low 0x40000 = false := by decide +kernel

theorem witness_group_events_faults :
    let det := word (1 + 2 ^ 16 + 2 ^ 32 + 2 ^ 48)
    let hold := modTeam (demoR 8 3 det) 0 (fun t => { t with
      hasToken := true,
      groups := [(0, ((tget t.groups 0).map (fun g => { g with threads := g.threads.map (fun x => { x with held := some .token }) })).getD Group.empty)] })
    let tr : TrapInfo := ⟨5, 0x40000, 2⟩
    let pf (h : Bool) : State := demoG 8 (fun g => { g with status := .pageFault tr h none none .running, walked := [(0x40000, 2)] })
    let res (f : Bool) (s : State) : State := { s with msg := some (.pageFaultResolved 0 0 f [(0x110008, 1)]) }
    let wr (h : Bool) : State := firmwareWrites (res true (pf h)) [(0x110008, 1)]
    let tok := modGroup (demoR 8 3 det) 0 0 (stalled .token)
    let js := demoG 8 (stalled (.journal 9))
    leads .commitTokenHandover hold (settleToken (modTeam hold 0 (fun t => releaseHeld { t with hasToken := false, hadToken := true } .token hold.stamp)) 0)
    ∧ leads .pageFaultResolved (res true (pf false)) (regionRestart (wr false) 0 0)
    ∧ leads .pageFaultResolved (res true (pf true)) (modGroup (wr true) 0 0 (fun g => { g with status := .running, walked := [] }))
    ∧ leads .pageFaultResolved (res false (pf false)) (takeTrap (modGroup (res false (pf false)) 0 0 (fun g => { g with status := .running })) 0 0 tr
      0x20000 0x20000 false false (List.range 8))
    ∧ leads .edetwaitTimeout tok (takeTrap (modGroup tok 0 0 (fun g => (List.range 8).foldl (fun g l => g.modLane l (fun x => { x with held := none })) g))
      0 0 ⟨0x0F, 0, 2⟩ 0x20000 0x20000 false false (List.range 8))
    ∧ leads .jsyncStallTimeout js (takeTrap js 0 0 (ejournal js 0 3 9) 0x20000 0x20000 false false (List.range 8)) := by decide +kernel

/-- Two results of one register and one of a predicate. -/
theorem witness_commit_in_order :
    let sl (d : Dest) (x : Word) : Slot := ⟨d, [0], [0], [], 9, 0, .filled [(0, x)]⟩
    let g := { (groupAt (demo 8) 0 0).getD Group.empty with rb := [sl (.v 4) 1, sl (.v 4) 2, sl (.s 3) 5, sl (.p 2) 1] }
    wget (g.commit.lane 0).v 4 = 2 ∧ wget g.commit.sreg 3 = 5 ∧ (g.commit.lane 0).p.getLsbD 2 = true ∧ 0 < g.threads.length := by decide +kernel

/-- The demonstration in a REFORM launch, `n` threads of which wait in bin 0; in deterministic mode if `det`. -/
def demoB (n : Nat) (det : Bool) : State :=
  modTeam (demoR 8 3 (word (1 + 2 ^ 16 + 2 ^ 32 + 2 ^ 49 + (if det then 2 ^ 48 else 0)))) 0 (fun t => { t with
    groups := [], bins := (some ⟨0x20000, false, (List.range n).map (fun i => ({ Thread.empty with live := true, pc := 0x20000, tid := n - i }, 0, 0)), 0⟩)
      :: List.replicate 63 none })

theorem witness_walks_and_bins :
    let m : Miss := ⟨0, 0, [(0, 0)]⟩
    let s := modDie { demoG 8 (stalled (.walk [0])) with cores := [] } 0 (fun d => { d with misses := [m] })
    let q : CoreRegs := CoreRegs.reset
    let on : CoreRegs := { q with lldthr := 0x10010 }
    comes .tableWalkDone s (fun t => (dieOf t 0).misses == [] && (dieOf t 0).tlb.length == 1 && (coreRegs t 0).tlb.length == 1
      && (groupAt t 0 0).any (·.stall == none))
    ∧ comes .lldWindowEnd (demoT 8 (fun t => { t with quota := 40, events := 99 })) (fun t => (tget t.teams 0).any (fun t => t.events == 0))
    ∧ nextQuota { q with lldthr := 0 } 5 9 = 64 ∧ nextQuota on 40 17 = 20 ∧ nextQuota on 40 8 = 64 ∧ nextQuota on 40 9 = 40
    ∧ (drawable (demoB 9 false)).isSome ∧ leads .reformBinDraw (demoB 9 false) (drawBin (demoB 9 false) 0 0)
    ∧ leads .reformBinAgeExpiry (demoB 9 false) (drawBin (demoB 9 false) 0 0)
    ∧ leads .reformDetDrain (demoB 9 true) (drainBins (demoB 9 true) 0 64)
    ∧ (groupAt (drawBin (demoB 9 false) 0 0) 0 0).map (fun g => g.threads.map (·.tid)) = some [1, 2, 3, 4, 5, 6, 7, 8] := by decide +kernel

/-- A request table with one command. -/
def withCmd (cmd : EngCmd) (tiles recs : List (Nat × Nat)) (granted : Bool) : State :=
  modEngine (demoE 8 []) 0 (fun e => { e with granted := if granted then some 0 else none, table := [(0,
    { core := 0, grp := 0, ott := 99, pc := 0x20000, stamp := 99, handle := 32, prio := 0, aged := false, cmd := cmd, tiles := tiles,
      recs := recs, kept := [], words := [], olds := [], stage := 0, xls := [], ctx := 0, tok := false })] })

theorem witness_engine_events :
    let z := withCmd .mzero [(1, 0)] [] false
    let zg := withCmd .mzero [(1, 0)] [] true
    let r := modTeam (withCmd (.mrelBuf 5) [] [(0, 5)] false) 0 (fun t => { t with resv := [⟨5, 0, 256, 0, 9, false, false, 0, true, 0, 0⟩] })
    let c := modTeam (demoE 8 []) 0 (fun t => { t with
      role := t.role ||| 2, resv := [⟨5, 0, 256, 0, 9, false, false, 0x40000, false, 0, 0⟩],
      ott := [ottE 7 true (.mrsv 5)] })
    let c := { c with iss := { c.iss with id := 5 } }
    (arbiter z (engineOf z 0)).isSome ∧ leads .engineGrant z (modEngine z 0 (fun e => { e with granted := some 0 }))
    ∧ comes .engineEntryAge z (fun t => (tget (engineOf t 0).table 0).any (·.aged))
    ∧ comes .engineCommandComplete zg (fun t => tget (engineOf t 0).table 0 == none && t.mem == zg.mem
      && ((engineOf t 0).tiles[0]?).any (fun z => z.elems == [] && z.shadow == [] && z.log == []))
    ∧ comes .mrelPerform r (fun t => (tget t.teams 0).any (·.resv == []))
    ∧ comes .mrsvCopyComplete c (fun t => (tget t.teams 0).any (fun t => t.resv.any (·.ready))) := by decide +kernel

theorem witness_copy_events :
    let s := modTeam (demo 8) 0 (fun t => { t with chan := t.chan.set 0 { Channel.idle with st := .active, kind := .cpy, src := 0x20000, dst := 0x100, len := 128 } })
    let p := modTeam s 0 (fun t => { t with stopping := true })
    let pub (open_ : Nat) : State := modCtx (demoT 8 (fun t => { t with ott := [{ ottE 7 false (.publ ⟨0, 0x40000, { placeXl with mt := 7, aux := 3 }⟩ .clus) with
      ord := ⟨false, true, false, .clus, none⟩ }] })) 0 (fun c => { c with openCpyg := [(3, open_)] })
    let at7 (s : State) : State := { s with iss := { s.iss with id := 7 } }
    comes .copySectorDelivered s (fun t => (tget t.teams 0).any (fun t => memRead t.spad 0x100 32 == memRead s.mem 0x20000 32
      && (t.chan[0]?).any (fun c => c.p == 32 && c.st == .active)))
    ∧ comes .copyPreemptPause p (fun t => (tget t.teams 0).any (fun t => (t.chan[0]?).any (·.paused)))
    ∧ comes .publSwap (at7 (pub 0)) (fun t => (ctxOf t 0).sel == [3]) ∧ comes .publSwap (at7 (pub 1)) (fun t => (ctxOf t 0).sel == []
      && (groupAt t 0 0).any (fun g => g.errstat != 0)) := by decide +kernel

theorem witness_journal_events :
    let rec_ (pos inc : Nat) : State := { demo 8 with pod := 2, msg := some (.journalRecord 1 0 pos 0 [1] 5 inc), partnerTb := [(1, 0, 2)], partnerJ := [(1, 0, 3, [9])] }
    let ack (pkg n : Nat) : State := { modCtx (demo 8) 0 (fun c => { partnered 4 c with jpos := 9, jsent := 9 }) with msg := some (.journalAck pkg 0 n) }
    let str (own : List Nat) : State := { modStream (demo 8) 0 3 (fun x => { x with st := 2, owners := own }) with iss := ⟨0, 0, 0, 0, none, 3⟩ }
    comes .journalRecordAtPartner (rec_ 4 0) (fun t => (1, 0, 4, [1]) ∈ t.partnerJ) ∧ comes .journalRecordAtPartner (rec_ 3 0) (fun t => t.partnerJ.length == 1)
    ∧ comes .journalRecordAtPartner (rec_ 1 0) (fun t => t.partnerJ.length == 1)
    ∧ leads .journalRecordAtPartner (rec_ 4 1) (sendTo (rec_ 4 1) 1 (.remoteAnswer 5 2 [] 0))
    ∧ comes .journalAck (ack 1 7) (fun t => (ctxOf t 0).cack == 7 && (ctxOf t 0).jack == 7 && (ctxOf t 0).jpos == 9) ∧ leads .journalAck (ack 2 7) (ack 2 7)
    ∧ comes .journalTruncationAtPartner { rec_ 4 0 with msg := some (.journalTruncation 1 0 4 5) } (fun t => t.partnerJ == [])
    ∧ comes .replayJournalFetch { rec_ 4 0 with msg := some (.replayFetch 1 0 [] none 0 0x50000 0x50000 [(0x110000, 3)]) }
        (fun t => let bs := replayImage 1 0 2 [(3, [9])]; memRead t.mem 0x50000 bs.length == bs && memByte t.mem 0x110000 == 3)
    ∧ comes .streamCloseDrain (str [2]) (fun t => t.reqs.any (fun r => r.kind == .closing && r.owner == 2 && r.stream == 3))
    ∧ comes .streamClosed (str []) (fun t => (streamOf (ctxOf t 0) 3).st == 0) := by decide +kernel
/-! ### Witnesses: requests, their owners, links -/

/-- A read of lane 0 asked of package 1, and the demonstration that waits for it. -/
def readReq : Req := { Req.base 5 .read 1 0 0 0 7 0 0x20000 0x40000 0x50000 4 0 with ty := 3 }
def demoW (f : Req → Req) : State :=
  modTeam { demo 8 with reqs := [f readReq], live := 3, pod := 2, iss := { (demo 8).iss with id := 5 } } 0 (fun t => { t with ott := [ottE 7 true (.remote [0])] })

theorem witness_requester_events :
    let ans (yst : Nat) (s : State) : State := { s with msg := some (.remoteAnswer 5 yst [4, 0, 0, 0] 0) }
    let s := demoW id
    let no : State := { demoW id with msg := some (.remoteAnswer 6 0 [] 0) }
    let set (s : State) (f : Req → Req) : State := { s with reqs := s.reqs.map f }
    let e : WcEntry := ⟨1, 0x1000, [(0, 9)], [0], none, 0, none, 0, 0, [0], [(0, 0, 0, 0x40000)]⟩
    let wc (f : Team → Team) : State := { modTeam { demoW id with reqs := [] } 0 (fun t => f { t with wc := [e] }) with iss := (demo 8).iss }
    let full : WcEntry := { e with bytes := (List.range 128).map (fun i => (i, 9)) }
    let drain (yst : Nat) : State := { modTeam (demoW (fun r => { r with kind := .write })) 0 (fun t => { t with wc := [{ e with seq := some 5 }] }) with
      msg := some (.wcDrainAck 5 yst 0) }
    let lwm (owners : List Nat) : State := modStream { demo 8 with pod := 2, iss := ⟨0, 0, 0, 0, none, 3⟩ } 0 3 (fun x => { x with st := 1, lwm := 5, owners := owners })
    leads .remoteAnswer no no ∧ leads .remoteAnswer (ans 0 s) (doneReq (ans 0 s) readReq [4, 0, 0, 0])
    ∧ leads .remoteAnswer (ans 1 s) (set (ans 1 s) (fun x => { x with busy := true, sends := 0 }))
    ∧ leads .remoteAnswer (ans 2 s) (staleOwner (ans 2 s) 0 1 0) ∧ leads .remoteAnswer (ans 3 s) (failReq (ans 3 s) readReq 3)
    ∧ comes .remoteAnswer (ans 0 s) (fun t => t.reqs == [] && t.mem == s.mem && (tget t.teams 0).any (fun t => t.ott == []))
    ∧ leads .remoteTimeout s (sendReq (set s (fun x => { x with sends := 2 })) readReq)
    ∧ leads .remoteTimeout (demoW (fun r => { r with sends := 4 })) (markDead (failReq (demoW (fun r => { r with sends := 4 })) { readReq with sends := 4 } 5) 1)
    ∧ leads .busyResend (demoW (fun r => { r with busy := true, sends := 0 }))
        (sendReq (set s (fun x => { x with busy := false, sends := 1 })) { readReq with busy := true, sends := 0 })
    ∧ leads .yptPacketExpire { s with msg := some (.yptExpire 0), out := [⟨1, 0, none, .elogAck⟩] } { s with msg := some (.yptExpire 0), out := [] }
    ∧ comes .lwmIdleSend (lwm []) (fun t => (streamOf (ctxOf t 0) 3).told == 5 && t.reqs == [] && t.out == [])
    ∧ comes .lwmIdleSend (lwm [1]) (fun t => (streamOf (ctxOf t 0) 3).told == 5
        && t.reqs.map (fun r => (r.kind, r.owner, r.stream)) == [(.lwm, 1, 3)] && sent t == t.reqs.map (fun r => (1, .lowWaterUpdate 0 0 3 5 r.id)))
    ∧ leads .wcAgeExpiry (wc id) (wcSend (wc id) 0 e)
    ∧ comes .wcDrain (wc (fun t => { t with wc := [full] })) (fun t => t.reqs.any (fun r => r.kind == .write && r.owner == 1 && r.pa == 0x80000 && r.data == byteRuns 0x80000 full.bytes))
    ∧ leads .wcDrainAck { drain 0 with reqs := [] } { drain 0 with reqs := [] }
    ∧ comes .wcDrainAck (drain 0) (fun t => (tget t.teams 0).any (·.wc == []))
    ∧ leads .wcDrainAck (drain 1) (set (drain 1) (fun x => { x with busy := true, sends := 0 })) := by decide +kernel

theorem witness_owner_events :
    let s : State := { demo 8 with pod := 2, exported := [5], mem := memWriteNat (demo 8).mem 0x50000 4 0x01020304 }
    let on (m : Message) : State := { s with msg := some m }
    let ask (serial : Nat) (inc : Nat) : Message := .streamRequestAtOwner 1 0 3 (BitVec.ofNat 32 serial) 0 inc 9 0x50000 0 3 0 0 6 0
    let old : CacheEntry := ⟨1, 0, 3, 4, 77, 0, 0, 3⟩
    comes .remoteReadAtOwner (on (.remoteReadAtOwner 1 0 9 0 false [(0, 0)] [(0x50000, 4)])) (fun t => sent t == [(1, .remoteAnswer 9 0 [4, 3, 2, 1] 0)])
    ∧ comes .remoteReadAtOwner (on (.remoteReadAtOwner 1 0 9 0 false [(0, 0)] [(0x60000, 4)])) (fun t => sent t == [(1, .remoteAnswer 9 3 [] 0)] && nbit t.elogaddr.toNat 63)
    ∧ comes .remoteReadAtOwner (on (.remoteReadAtOwner 1 0 9 5 false [(0, 0)] [(0x50000, 4)])) (fun t => sent t == [(1, .remoteAnswer 9 2 [] 0)])
    ∧ comes .remoteWriteAtOwner (on (.remoteWriteAtOwner 1 8 0 [(0, 0)] false [(0x50001, [7])])) (fun t => memNat t.mem 0x50000 4 == 0x01020704
        && sent t == [(1, .wcDrainAck 8 0 0)] && t.seqDone.contains (1, 8, 0))
    ∧ comes .remoteWriteAtOwner { on (.remoteWriteAtOwner 1 8 0 [(0, 0)] false [(0x50001, [7])]) with seqDone := [(1, 8, 0)] } (fun t => t.mem == s.mem && sent t == [(1, .wcDrainAck 8 0 0)])
    ∧ comes .streamRequestAtOwner (on (ask 4 1)) (fun t => sent t == [(1, .remoteAnswer 9 2 [] 0)])
    ∧ comes .streamRequestAtOwner (on (ask 4 0)) (fun t => memNat t.mem 0x50000 4 == 0x0102030A
        && t.resultCache == [⟨1, 0, 3, 4, 0x01020304, 0, 0, 3⟩] && sent t == [(1, .remoteAnswer 9 0 (leBytes 8 0x01020304) 0)])
    ∧ comes .streamRequestAtOwner { on (ask 4 0) with resultCache := [old] } (fun t => t.mem == s.mem && sent t == [(1, .remoteAnswer 9 0 (leBytes 8 77) 0)])
    ∧ comes .lowWaterUpdate { on (.lowWaterUpdate 1 0 3 5 9) with resultCache := [old], streamRecs := [⟨1, 0, 3, 0⟩] } (fun t => t.resultCache == [] && sent t == [(1, .remoteAnswer 9 0 [] 0)])
    ∧ comes .scFenceMarker { on (.scFenceMarker 1 2 9) with pendInv := [(2, 5), (3, 5)] } (fun t => t.pendInv == [(3, 5)]) := by decide +kernel

theorem witness_owner_restart :
    comes .ownerRestart { demo 8 with msg := some .ownerRestart, inc := 0xFFFF, resultCache := [⟨1, 0, 3, 4, 77, 0, 0, 3⟩] } (fun t => t.inc == 0
      && t.resultCache == [] && t.teams == (demo 8).teams && t.mem == (demo 8).mem) = true := by decide +kernel

theorem witness_links_and_membership :
    let s : State := { demo 8 with peerdead := 6 }
    comes .linkDown { s with msg := some (.linkDown 0 1) } (fun t => t.links == [(0, 1)])
    ∧ comes .linkRecover { s with msg := some (.linkRecover 0 1), links := [(0, 1)] } (fun t => t.links == [])
    ∧ comes .packageRejoin { s with msg := some (.packageRejoin 1 7) } (fun t => t.peerdead == 4 && tget (ctxOf t 0).incseen 1 == some 7)
    ∧ comes .membershipChange { s with msg := some (.membershipChange 3 [(1, 7)]), epoch := 0xFFFF } (fun t => t.live == 3 && t.epoch == 0
        && tget t.peerInc 1 == some 7 && tget (ctxOf t 0).incseen 1 == some 7 && t.mem == s.mem)
    ∧ (match exec .membershipChange { s with msg := some (.membershipChange 3 []) } with | .fault .notEnabled => true | _ => false) = true := by
  decide +kernel
/-! ### Witnesses: barrier objects, collectives, the hub's requests, launches, bring-up -/

/-- The demonstration with words at an address of memory. -/
def withMem (s : State) (a : Nat) (ws : List Nat) : State :=
  ws.zipIdx.foldl (fun s x => { s with mem := memWriteNat s.mem (a + 8 * x.2) 8 x.1 }) s

theorem witness_barrier_objects :
    let s := withMem (demo 8) 0x30000 [2 ^ 32 - 1 + 2 ^ 32 * 3]
    let t := addCount s 0x30000 2
    let u := postObject s 0x30000 2 5 7 9 1 2 3 4
    Memory.wf s.mem = true ∧ memNat t.mem 0x30000 8 = 1 + 2 ^ 32 * 3 ∧ reached s 0x30000 = true ∧ reached t 0x30000 = false
    ∧ (List.range 6).map (fun i => memNat u.mem (0x30000 + 8 * i) 8) = [2 ^ 32 * 3, 2 + 2 ^ 8 * 5 + 2 ^ 16 * 7 + 2 ^ 32 * 9, 1, 2, 3, 4] := by decide +kernel

/-- A store to slot 0's window at an offset, the only one of the package; its record stands at 0x60000. -/
def demoX (off : Nat) (data : Nat) (slots : Tab CSlot) : State :=
  withMem { demoT 8 (fun t => { t with ott := [ottE 7 false (.remote [0])] }) with
    winq := [⟨0, 0, 0, 7, 0, true, [⟨0x40000, off, 2, leBytes 8 data⟩]⟩], cslots := slots } 0x60000 ((placeCollective 0).map (·.toNat))

/-- Slot 0, armed with that record and in a phase. -/
def slotOf (p : SlotPhase) : CSlot := { armedSlot { demo 8 with live := 1 } 0 (placeCollective 0) with phase := p }

theorem witness_window_stores :
    let x (s : State) : WinStore := s.winq.headD ⟨0, 0, 0, 0, 0, false, []⟩
    let arm := demoX 0xFFFFFF0000 0x60000 []
    let bad := withMem arm 0x60000 [1]
    let shut (n : Nat) := demoX 0xFFFFFF0008 n [(0, slotOf .running)]
    let dis (p : SlotPhase) := demoX 0xFFFFFF0010 0 [(0, slotOf p)]
    let data := demoX 8 0x1122334455667788 [(0, slotOf .running)]
    let far := demoX 8 0 [(0, { slotOf .running with ctx := 5 })]
    comes .arm arm (fun t => tget t.cslots 0 == some (slotOf .queued) && t.winq == [])
    ∧ comes .arm bad (fun t => t.cslots == [] && memNat t.mem 0x30008 1 == 3 && t.winq == [])
    ∧ leads .seal (shut 1) (winDone { shut 1 with cslots := [(0, { slotOf .running with sealed := true })] } (x (shut 1)))
    ∧ leads .seal (shut 2) (winDrop (shut 2) (x (shut 2)) 0x13 4)
    ∧ leads .disarm (dis .ended) (winDone { dis .ended with cslots := [] } (x (dis .ended)))
    ∧ leads .disarm (dis .running) (winDone { endProgram (dis .running) 0 8 0 0 0 0 with cslots := [] } (x (dis .running)))
    ∧ comes .windowDataStore data (fun t => memNat t.mem 0x40008 8 == 0x1122334455667788)
    ∧ leads .windowDataStore far (winRefuse far (x far) 4) := by decide +kernel

theorem witness_collective_events :
    let s (x : CSlot) (m : Message) : State := { demo 8 with msg := some m, cslots := [(0, x)], live := 3, pod := 2 }
    let free (m : Message) (held : List CPacket) : State := { demo 8 with msg := some m, heldPk := held, pod := 2 }
    let pkt : CPacket := ⟨1, 0, 1, 0, 0, 8, none, [1, 2]⟩
    let tr (y : CSlot) : CSlot := { y with out := [⟨6, 0, 1, pkt⟩] }
    let ack (t : State) : Bool := sent t == [(1, .carTransferAck 0 9)]
    let ab : Message := .carAbort 0 1 1 9
    let told (t : State) : State := sendTo t 1 (.remoteAnswer 9 0 [] t.inc)
    let exp := { slotOf .running with b := (slotOf .running).b.set 3 (.expect 1 0) }
    let sc := { slotOf .running with scats := [⟨6, 0, 0, 0x50000, [1, 2]⟩] }
    comes .caramelProgramStart (s (slotOf .queued) .elogAck) (fun t => tget t.cslots 0 == some (slotOf .running))
    ∧ comes .caramelPacketArrival (free (.carPacket 1 9 pkt) []) (fun t => t.heldPk == [pkt] && ack t)
    ∧ comes .caramelPacketArrival (free (.carPacket 1 9 pkt) (List.replicate 16 pkt)) (fun t => sent t == [(1, .remoteAnswer 9 1 [] 0)])
    ∧ comes .caramelPacketArrival (s exp (.carPacket 1 9 pkt)) (fun t => ack t && (tget t.cslots 0).any (fun y => y.b[3]? == some (.full 0 8 none [1, 2])))
    ∧ comes .caramelTransferAck (s (tr (slotOf .running)) (.carTransferAck 0 6)) (fun t => tget t.cslots 0 == some (slotOf .running))
    ∧ leads .caramelAbortReceived (s (slotOf .ended) ab) (told (s (slotOf .ended) ab))
    ∧ leads .caramelAbortReceived (s (slotOf .running) ab) (endProgram (told (s (slotOf .running) ab)) 0 6 0 1 0 0)
    ∧ comes .scatWritesPerformed (s sc .elogAck) (fun t => memNat t.mem 0x50000 2 == 0x201 && tget t.cslots 0 == some (slotOf .running)) := by
  decide +kernel

/-- The package in service, with a mailbox bound to context 0 and a launch record of one team at 0x60000. -/
def demoM (m : Message) : State :=
  withMem { demo 8 with msg := some m, stage := 4, svclvl := 2, mboxes := [(0, { Mailbox.reset with bound := true, recaddr := 0x60000 })] } 0x60000
    (placeRecord.map (·.toNat))

theorem witness_mailboxes :
    let sub := demoM (.mailboxOp 0 1)
    let busy : State := { sub with mboxes := [(0, { mboxOf sub 0 with busy := true })] }
    let two := demoM (.mailboxOp 0 2)
    let svc : State := { demoM (.service 0x60000) with ctxs := [(0, placeContext), (0xFFF, placeContext)] }
    leads .mailboxSubmit busy busy ∧ comes .mailboxSubmit two (fun t => (mboxOf t 0).status == 3 && (mboxOf t 0).done)
    ∧ comes .mailboxSubmit sub (fun t => (mboxOf t 0).status == 0 && (mboxOf t 0).done && t.launches.length == 2)
    ∧ (submit sub 0 false (placeRecord.map id)).2 = (0, 0) ∧ (submit sub 0 false (placeRecord.set 4 0)).2.1 = 1
    ∧ comes .mailboxDonebitClear { demoM (.donebitClear 0) with mboxes := [(0, { Mailbox.reset with done := true })] } (fun t => !(mboxOf t 0).done)
    ∧ comes .serviceSubmission svc (fun t => t.svcStat % 2 ^ 8 == 1 || t.svcStat == 0) := by decide +kernel

/-- A request block of the management mailbox for the page of 64 KiB at 0x50000, which a leaf `e` maps. -/
def demoY (op new e : Nat) : State :=
  let s := withMem (withMem (withMem (withMem (demoM (.mailboxOp 64 (word op))) 0x110000 [0x120001]) 0x120000 [0x130001]) 0x130028 [e]) 0x70000 [0x50000, 0x10000, 0, new]
  { s with mgmt := { Mailbox.reset with bound := true, recaddr := 0x70000 }, teams := [], cores := [] }

theorem witness_page_management :
    let leaf := 0x80007
    let pin (s : State) : State := { s with l2 := [(0, [⟨0, 0x80000 / 128, false, 0, some 0⟩])] }
    let st (n : Nat) (t : State) : Bool := t.mgmt.status == n && t.mgmt.done
    comes .unmap (demoY 0x10 0 leaf) (fun t => st 0 t && memNat t.mem 0x130028 8 == leaf - 1)
    ∧ comes .migrate (pin (demoY 0x11 0xA0000 leaf)) (st 0x11) ∧ comes .migrate { demoY 0x11 0xA0000 leaf with exported := [8] } (st 0x12)
    ∧ comes .migrate (withMem (demoY 0x11 0xA0000 leaf) 0x80008 [77]) (fun t => st 0 t && memNat t.mem 0x130028 8 == 0xA0007 && memNat t.mem 0xA0008 8 == 77)
    ∧ comes .reclaim (pin (demoY 0x12 0 leaf)) (st 0x10) ∧ comes .reclaim (demoY 0x12 0 leaf) (st 0)
    ∧ comes .exportFrames (demoY 0x13 0 leaf) (fun t => st 0 t && t.exported == [8])
    ∧ comes .unexportFrames { demoY 0x14 0 leaf with exported := [7, 8] } (fun t => st 0 t && t.exported == [7]) := by decide +kernel

theorem witness_contexts_and_answers :
    let c := demoM (.contextCreate 9 1 [(0, 4)])
    let d := demoM (.contextDestroy 0)
    let h : State := { demoM (.hubResolved 0 0x40000 true [(0x110008, 1)]) with hubFaults := [(0, 0x40000, false)] }
    let k : State := modLaunch (demoM (.dictResolved 0 false [])) 0 (fun l => { l with dictWait := true })
    comes .contextCreate c (fun t => (mboxOf t 1).bind == 9 && (tget t.ctxs 9).isSome) ∧ comes .contextDestroy d (fun t => t.ctxs == [] && t.launches == [])
    ∧ comes .pageFaultResolved h (fun t => t.hubFaults == [] && memByte t.mem 0x110008 == 1)
    ∧ leads .pageFaultResolved k (modLaunch k 0 (fun l => { l with dictWait := false, dictBad := some 2 })) := by decide +kernel

/-- A launch like the demonstration's, of one cluster more. -/
def demoL (f : Launch → Launch) : State :=
  modLaunch { demo 8 with head := some 0 } 0 (fun l => f { l with rec_ := l.rec_.set 3 (word (2 + 2 ^ 16 + 2 ^ 32)), st := .placing })

theorem witness_launch_events :
    let at1 (s : State) (f : Team → Team) : State := modTeam s 0 f
    let wait := demoL (fun l => { l with st := .waiting, deps := [false, true, true, true] })
    let pre : State := { modLaunch { demo 8 with head := some 1, launches := [(0, placeLaunch), (1, { placeLaunch with next := 0, clus := [], st := .placing, rec_ := placeRecord.set 6 7 })] } 0 id with
      dies := [(0, { Die.reset with admitted := true })], defmap := memPatch [(0, 1)] ((0x040, 0xFE) :: (List.range 5).map (fun i => (0x041 + i, 0xFF))) }
    let halt : State := at1 { demo 8 with preempting := [(0, 0)], iss := { (demo 8).iss with id := 0 } } (fun t => { t with stopping := true })
    let done : State := modLaunch (demo 8) 0 (fun l => { l with clus := [(0, .retired)], next := 1 })
    leads .depSampleTimer wait (sampleLaunch wait 0 ((launchAt wait 0).getD placeLaunch))
    ∧ leads .depSampleOnUpdate wait (sampleLaunch wait 0 ((launchAt wait 0).getD placeLaunch))
    ∧ comes .clusterDispatch (demoL id) (fun t => t.teams.length == 2)
    ∧ comes .priorityPreemption pre (fun t => t.preempting == [(0, 0)] && (tget t.teams 0).any (·.stopping) && t.rects == [(1, [0], [(0, 0)])])
    ∧ comes .preemptionHalted halt (fun t => t.preempting == [] && t.images.any (fun i => i.launch == 0 && i.cix == 0))
    ∧ comes .teamEndChannelsQuiet (demoT 8 (fun t => { t with ending := .channels })) (fun t => (tget t.teams 0).any (·.ending == .engine))
    ∧ comes .teamEndEngineDone (demoT 8 (fun t => { t with ending := .engine })) (fun t => (tget t.teams 0).any (fun t => t.ending == .window && !t.window))
    ∧ comes .peerWindowCloseAck { demoT 8 (fun t => { t with ending := .window }) with iss := ⟨0, 0, 0, 0, none, 5⟩ } (fun t => t.teams == [])
    ∧ comes .launchRetire done (fun t => t.launches == [] && memNat t.mem 0x30000 4 == 1) := by decide +kernel

/-- A rank of three acknowledges another's close, and one is left. -/
theorem witness_window_close :
    let t := ((tget (demo 8).teams 0).getD (startTeam placeRecord 0 0 0 0))
    let s : State := { demo 8 with teams := [(0, { t with ending := .window }), (1, { t with tix := 1 }), (2, { t with tix := 2 })], iss := ⟨0, 0, 0, 0, none, 1⟩ }
    comes .peerWindowCloseAck s (fun u => (tget u.teams 0).any (·.acked == [1]) && (tget u.teams 1).any (·.closed == [0])) = true := by decide +kernel

theorem witness_team_at_dispatch :
    let t := startTeam placeRecord 0 0 0 0
    (tget t.groups 0).isSome = true ∧ recGpt placeRecord = 1 ∧ recWidth placeRecord = 8 := by decide +kernel

/-- Rows of register writes, with the word of the CSRW stored at the group's next PC. -/
theorem witness_register_writes :
    let s (i : LongWord → Instr) (n x : Nat) : State := modGroup (modLaunch (State.reset.withFetchWord 64 (((form (i (wd 0 0 0 200 (n % 256) (n / 256)))).bits.map (·.1)).getD 0)) 0
      (fun l => { l with service := true })) 0 0 (fun g => { withS 8 (word x) g with tgtctx := 0 })
    let m (busy : Bool) : State := { demoM (.mailboxRecaddr 0 9) with mboxes := [(0, { Mailbox.reset with busy := busy })] }
    let count : State := { demo 8 with meye := word (2 ^ 24 + 5) }
    comes .bankroleWrite (s .csrw 0x10 (2 ^ 62 + 2 ^ 60)) (fun t => (groupAt t 0 0).any (fun g => issuePc g == some (word placeAddr + 8)))
    ∧ comes .tgtctxWrite (s .csrw 0x46 5) (fun t => (groupAt t 0 0).any (·.tgtctx == 5)) ∧ comes .tpcWrite (s .csrw 0x21 5) (fun t => (groupAt t 0 0).any (·.tpc == 5))
    ∧ comes .errstatClear (s .csrw 0xA0 3) (fun t => (groupAt t 0 0).any (·.errstat == 0)) ∧ comes .jpartnerWrite (s .csrw 0x43 2) (fun t => (ctxOf t 0).jpartner == 2)
    ∧ comes .translationCsrWrite (s .csrw 0x80 (2 ^ 30)) (fun t => (ctxOf t 0).hbase == word (2 ^ 30))
    ∧ comes .registerWrite (s .csrw 0x30 9) (fun t => (coreRegs t 0).lldwin == 9) ∧ comes .meyeStart (s .csrw 0xCB (2 ^ 24)) (fun t => nbit t.meye.toNat 24)
    ∧ nbit count.meye.toNat 25 = false
    ∧ comes .registerWrite (m false) (fun t => (mboxOf t 0).recaddr == 9) ∧ leads .registerWrite (m true) (m true) := by decide +kernel

theorem witness_boot_and_power :
    let s (m : Message) : State := { demo 8 with msg := some m, stage := 4, exported := [3], resultCache := [⟨1, 0, 3, 4, 77, 0, 0, 3⟩] }
    let rom (a b c d : Bool) (n : Nat) : State := { s (.bootRom a b c d [(1, 0)]) with stage := 1, attempts := n }
    let adm (ok : Bool) : State := { s (.dieAdmission 0 ok true true true) with stage := 3, dies := [], svclvl := 0 }
    let test : State := { s (.engineSelftest [2]) with stage := 3, dies := (List.range 8).map (fun d => (d, { Die.reset with admitted := true })), admits := 255, svclvl := 1 }
    let bs (st f : Nat) (t : State) : Bool := t.stage == st && t.bootFail == f
    comes .bootRomVerify (rom false true true true 0) (bs 1 1) ∧ comes .bootRomVerify (rom true false true true 0) (bs 1 2)
    ∧ comes .bootRomVerify (rom true true false true 0) (bs 1 3) ∧ comes .bootRomVerify (rom true true true true 0) (bs 3 0)
    ∧ comes .bootRomVerify (rom true true true false 2) (fun t => bs 1 0 t && t.attempts == 3) ∧ comes .bootRomVerify (rom true true true false 3) (bs 2 4)
    ∧ comes .dieAdmission (adm true) (fun t => (dieOf t 0).admitted && t.admits == 1 && t.svclvl == 1) ∧ comes .dieAdmission (adm false) (fun t => (dieOf t 0).excluded && t.excl == 1 && t.svclvl == 0)
    ∧ comes .engineSelftestStage test (fun t => t.stage == 4 && t.svclvl == 2 && (engineOf t 2).disabled)
    ∧ comes .powerOff (s .powerOff) (fun t => !t.powered && t.mem == [] && t.inc == 1) ∧ comes .overTemperatureTrip (s .trip) (fun t => !t.powered)
    ∧ comes .hubReset (s .hubReset) (fun t => t.stage == 0 && t.mem == (demo 8).mem && t.teams == [] && t.exported == [])
    ∧ comes .firmwareRestart (s (.firmwareRestart [(1, 0)])) (fun t => t.resultCache == [] && t.ctxs.map (·.1) == [0xFFF])
    ∧ comes .thermalThrottle (s (.throttle [0])) (fun t => (dieOf t 0).throttled) ∧ comes .thermalRecover (s .recover) (fun t => !(dieOf t 0).throttled)
    ∧ comes .correctionWindowEnd (s (.correctionWindow 0)) (fun t => (dieOf t 0).corr == []) ∧ comes .elogAck (s .elogAck) (fun t => t.elogaddr == 0)
    ∧ comes .hostBar0InvalidAccess (s (.hostBar0 false 0x9000)) (fun t => t.hostRead == 0 && t.elogaddr == word (0x9000 + 2 ^ 63)) := by decide +kernel
/-! ### Paths, pieces of window stores, held requests, the start of a stretch, banks -/

/-- In a pod of four, package 1 meets package 0 at port 2; with the link from 0 to 1 down, traffic goes by 2, then by 3,
then not at all (R42, R44). -/
theorem test_routes :
    let s (ls : List (Nat × Nat)) : State := { State.reset with pod := 4, live := 15, links := ls }
    portTo 4 0 1 = 0 ∧ portTo 4 1 0 = 2 ∧ routeOf (s []) 0 1 = some none ∧ routeOf (s [(0, 1)]) 0 1 = some (some 2)
    ∧ routeOf (s [(1, 0), (2, 0)]) 0 1 = some (some 3) ∧ routeOf (s [(0, 1), (0, 2), (3, 1)]) 0 1 = none := by decide +kernel

/-- A piece of a data store: taken, of another context's slot, at a control offset, of a free slot, past the data, and of
a page of another MT. -/
theorem witness_window_pieces :
    let s := demoX 8 0 [(0, slotOf .running)]
    let p (pa mt : Nat) : WinPart := ⟨0x40000, pa, mt, leBytes 8 0⟩
    let is (ctx pa mt : Nat) (c k : Nat) : Bool := match winPiece s ctx (p pa mt) with | .drop _ x y => x == c && y == k | _ => false
    (match winPiece s 0 (p 8 2) with | .ok ps => ps == [⟨0x40008, 8, 0, 0⟩] | _ => false) = true
    ∧ is 5 8 2 0x05 4 ∧ is 0 0xFFFFFF0000 2 0x05 8 ∧ is 0 (2 ^ 40) 2 0x13 4 ∧ is 0 505 2 0x05 8 ∧ is 0 8 1 0x13 4 := by decide +kernel

/-- An invalidation that is on its way is applied; an acquire read that waited is answered; a store of a page in use waits
for its TLBINV and then answers. -/
theorem witness_own_turns :
    let inv : State := { State.reset with portBufs := [(2, 5, [], [])], pendInv := [(2, 5)] }
    let hel : State := { State.reset with pod := 2, held := [.remoteReadAtOwner 1 0 9 0 true [(0, 0)] [(0x50000, 4)]] }
    let mg (op : Nat) : State := { State.reset with mgmt := { Mailbox.reset with op := word op, busy := true, bound := true }, mgmtReq := some ⟨0x50000, 0x10000, 0, 0, []⟩ }
    pickTurn inv = some (.inval 2 5) ∧ (match step inv with | .next u => u.portBufs == [] && u.pendInv == [] | _ => false) = true
    ∧ pickTurn hel = some (.held 0) ∧ (match step hel with | .next u => u.held == [] && sent u == [(1, .remoteAnswer 9 3 [] 0)] | _ => false) = true
    ∧ comes .unmap (mg 0x10) (fun t => !t.mgmt.busy && t.mgmt.done && t.mgmtReq == none)
    ∧ comes .migrate (mg 0x11) (fun t => !t.mgmt.busy && t.mgmt.status == 0) := by decide +kernel

/-- A register written in a stretch and then the destination of a long instruction reads as it was at the start of the
stretch (R6, R105). -/
theorem test_prior_value :
    let g := Group.openStretch (withV 4 1 ((groupAt (demo 8) 0 0).getD Group.empty))
    readReg ((withV 4 2 g).addSlot (.v 4) [0, 1] [0, 1] 9 0) 1 4 = 1 ∧ readReg (withV 4 2 g) 1 4 = 2 := by decide +kernel

/-- YIELD among two groups that may issue: the other has its turn first (R131). -/
theorem test_yield_waits :
    let s := demoT 8 (fun t => { t with groups := t.groups ++ t.groups.map (fun g => (1, g.2)) })
    let w := wd 0 0 0 0 0 0
    passes (.yield w) s w (shapeW w) {} (fun _ t => (groupAt t 0 0).map (·.yielded) == some (some [1])
      && (tget t.teams 0).any (fun m => m.groups.map (fun g => mayIssue m g.2) == [false, true])) = true := by decide +kernel

/-- Word 0x24E9 of a scratchpad of 16 bank groups lies in bank 105 (R206). -/
theorem test_scratchpad_bank : spadBank 0x5555555500000000 (8 * 0x24E9) = 105 := by decide

/-- A post to an object in a hole. -/
theorem witness_object_in_a_hole : hbmTop < hbmTop - 32 + 64 ∧ (postObject (demo 8) (hbmTop - 32) 1 0 0 0 0 0 0 0).mem = (demo 8).mem := by
  decide +kernel
/-! ### Witnesses: atomics performed, refused values, what ends with its partner -/

/-- An ATOM and a RED of two lanes at one word, which take effect one after another. -/
theorem witness_atomics_performed :
    let l (n : Nat) : AtomLane := ⟨⟨n, 0x40000, placeXl⟩, 2, 0⟩
    let at_ := demoDue { longEntry Ord.relaxed (.atom 0 3 0 [l 0, l 1]) with lanes := [0, 1], act := [0, 1], tids := [(0, 0), (1, 1)] } [.v 1] id
    let red := demoDue (postEntry (.atom 0 3 0 [l 0])) [] id
    isDue at_ ∧ isDue red ∧ returned0 at_ = some (.filled [(0, 0x80), (1, 0x82)])
    ∧ comes .longResultReturn at_ (fun u => memNat u.mem 0x40000 4 == 0x84)
    ∧ comes .postedEntryPerformed red (fun u => memNat u.mem 0x40000 4 == 0x82 && (tget u.teams 0).any (·.ott == [])) := by decide +kernel

/-- 1.0 and 2.0 in f32: their sum, the lesser and the greater (R177, R178). -/
theorem witness_float_atomics : atomNew 0 8 0x3F800000 0x40000000 0 = 0x40400000 ∧ atomNew 1 8 0x3F800000 0x40000000 0 = 0x3F800000
    ∧ atomNew 2 8 0x3F800000 0x40000000 0 = 0x40000000 := by decide +kernel

/-- Each exchange of a value that its CSR refuses: reserved bits of LLDTHR, set, cleared, and swapped in. -/
theorem witness_exchanges_refused :
    let ex (i : LongWord → Instr) (sub x : Nat) : Bool := let w := wd sub 0 204 200 0x10 0
      passes (i w) (modGroup (demo 8) 0 0 (withS 8 (word x))) w (shapeCsr w true (.dst 1) (.src 1) true) (issueCsr w csrPriv) (fun c t =>
        decide (t = takeTrap c.s 0 0 ⟨0x01, 0, 0x0F⟩ c.pc c.pc false false c.act))
    ex .csrxSwap 0 3 ∧ ex .csrxSet 1 3 ∧ ex .csrxClr 2 (2 ^ 64 - 1) := by decide +kernel

/-- LLDTHR, WCAGE and MVDD at the ends of their ranges: +127 and -128 are taken as +20 and -20 (R113, R218, R393). -/
theorem witness_csr_ranges :
    let s := demoT 8 (fun t => { t with quota := 5 })
    let w := wd 0 0 0 200 0x31 0
    let takes (c : Ic) (n : Nat) (x : Word) (p : State → Bool) : Bool := match csrWrite c n x with | .ok t => p t | _ => false
    let bad (c : Ic) (n : Nat) (x : Word) : Bool := match csrWrite c n x with | .error (.trap y) => y == ⟨1, 0, 0xF⟩ | _ => false
    atIssue s w (shapeCsr w true .unused (.src 1) true) (fun _ _ c =>
      takes c 0x31 0xFFFF (fun t => (coreRegs t 0).lldthr == 0xFFFF && (tget t.teams 0).any (·.quota == 64))
      && takes c 0x31 0x1FFFF (fun t => (coreRegs t 0).lldthr == 0x1FFFF && (tget t.teams 0).any (·.quota == 5)) && bad c 0x31 0x20000
      && takes c 0x40 63 (fun t => (coreRegs t 0).wcage == 64) && takes c 0x40 65 (fun t => (coreRegs t 0).wcage == 65)
      && takes c 0xC1 0x7F (fun t => wget t.mvdd 0 == 20) && takes c 0xC8 0x80 (fun t => wget t.mvdd 7 == 0xEC)
      && takes c 0xC2 0xFF (fun t => wget t.mvdd 1 == 0xFF)) = true := by decide +kernel

/-- A command and an MREL.acc whose tile has gone end with EMMA 0x04 at the next MWAIT, and nothing else is done (R242). -/
theorem witness_released_tiles :
    let z := withCmd .mzero [(1, 5)] [] false
    let r := withCmd .mrelTiles [(1, 5)] [] false
    let fails (i : Instr) (s : State) : Bool := comes i s (fun t => (engineOf t 0).table == [] && t.mem == s.mem
      && (engineOf t 0).tiles == (engineOf s 0).tiles && (engineOf t 0).fails.map (fun f => (f.handle, f.trap)) == [(32, emma 4)])
    fails .engineGrant z ∧ fails .mrelPerform r := by decide +kernel

/-- A JSYNC whose position CACK has covered goes on although the gate has no partner any more (R373). -/
theorem witness_covered_jsync :
    let w := wd 0 0 0 0 0 0
    passes (.jsync w) (modGroup (demoJ 8 0 id) 0 0 (stalled (.journal 0))) w { form := true, sub := true, m6 := layoutZ w, port := .uniform }
      { blocking := true, tx := some 2, flag := recJrnl } (fun c t => (ctxOf c.s 0).gate == .noPart
        && decide (t = c.with (retireGroup c.pc c.next c.act [] false c.g))) = true := by decide +kernel

/-- A write that no team waits for any more is over at its timeout, the read of a team that stands is sent again, a held read is
answered from the line that its port keeps, and a package that rejoins ends what was asked of it before with GONE (R273, R299, R338). -/
theorem witness_requests_over :
    let a : State := modTeam (demoW (fun r => { r with kind := .write })) 0 (fun t => { t with halt := some ⟨⟨5, 0, 0⟩, 0, 0⟩, sent := [⟨5, [], [0]⟩] })
    let p : State := { demo 8 with
      pod := 2, exported := [5], portBufs := [(0, 0x50000 / 128, (List.range 128).map (BitVec.ofNat 8), [])],
      msg := some (.remoteReadAtOwner 1 0 9 0 false [(0, 0)] [(0x50004, 4)]) }
    let j : State := { demoW id with peerdead := 2, msg := some (.packageRejoin 1 7) }
    abandoned a { readReq with kind := .write } ∧ comes .remoteTimeout a (fun t => t.reqs == [] && t.out == [])
    ∧ abandoned (demoW id) readReq = false
    ∧ comes .remoteReadAtOwner p (fun t => sent t == [(1, .remoteAnswer 9 0 [4, 5, 6, 7] 0)])
    ∧ comes .packageRejoin j (fun t => t.reqs == [] && t.peerdead == 0 && t.teams == (failReq j readReq 6).teams) := by decide +kernel

/-- The store that reaches furthest is used, and of two that reach as far the partner's; a dead package's never (R377). -/
theorem witness_replay_store :
    let s : State := { demo 8 with live := 7, partnerTb := [(0, 0, 2)], partnerJ := [(0, 0, 2, [1])] }
    let xs : List (Nat × Nat × List (Nat × List Byte)) := [(1, 2, [(2, [1])]), (2, 2, [(2, [1]), (3, [1])])]
    (replayStore s 0 0 xs none).map (·.1) = some 2 ∧ (replayStore s 0 0 (xs.take 1) none).map (·.1) = some 0
    ∧ (replayStore s 0 0 (xs.take 1) (some 1)).map (·.1) = some 1 ∧ (replayStore { s with peerdead := 4 } 0 0 xs none).map (·.1) = some 0 := by
  decide +kernel

/-- The cores of an admitted die hold the word of a pass, and a hub reset keeps an exclusion (R389, R391). -/
theorem witness_boot_keeps :
    let adm : State := { demo 8 with msg := some (.dieAdmission 0 true true true true), stage := 3, dies := [], cores := [], svclvl := 0 }
    let rst : State := { demo 8 with msg := some .hubReset, excl := 4, dies := [(2, { Die.reset with excluded := true })] }
    comes .dieAdmission adm (fun t => (dieCores t 0).all (fun c => (coreRegs t c).selftest == selftestWord 3 0 0 0))
    ∧ comes .hubReset rst (fun t => t.excl == 4 && (dieOf t 2).excluded) := by decide +kernel

/-- A filed thread's object is reached, and it goes on; at an object that is not reached it waits; at one with an error it is to
issue its WAITV again (R115, R313, R362). -/
theorem witness_filed_waits :
    let h (acq : Bool) : Held := .waitv 0x40000 0x40000 0x20000 acq 0 0
    let s (acq : Bool) (n : Nat) : State := { modTeam (demoB 0 false) 0 (fun t => { t with bins :=
        (some ⟨0x20008, true, [({ Thread.empty with live := true, pc := 0x20008, held := some (h acq) }, 0, 0)], 0⟩) :: List.replicate 63 none }) with
      iss := ⟨0, 0, 0, 0, none, 0x40000⟩, mem := memWriteNat (demoB 0 false).mem 0x40004 4 n }
    let out (s : State) (p : Bin → Bool) : Bool := comes .waitvPoll s (fun t => (tget t.teams 0).any (fun t => (t.bins[0]?).join.any p))
    out (s false 0) (fun b => !b.held && b.pc == 0x20008) ∧ out (s true 0) (fun b => !b.held) ∧ out (s false 1) (fun b => b.held)
    ∧ out { s false 0 with poison := [0x40000 / 32] } (fun b => !b.held && b.pc == 0x20000) := by decide +kernel

/-! ### Witnesses: further clauses of the statements -/

/-- A park whose slot would merge into a code word with an error: the group restarts; the second time the error is delivered at the
slot's instruction, in the lanes that were active there; in a handler it waits for the firmware (R344, R346, R347, R359). -/
theorem witness_park_lost :
    let sl : Slot := ⟨.v 4, [0], [0, 1], [], 9, 0x20008, .filled [(0, 7)]⟩
    let park (f : Group → Group) : State := demoG 8 (fun g => f { g with
      rb := [sl], status := .parking true 0x20010 0x20018 [0],
      threads := g.threads.mapIdx (fun l t => if l = 3 then { t with bad := [4] } else t) })
    let h : TrapRecord := ⟨0x20100, false, [], [], [], [], []⟩
    (groupAt (park id) 0 0).bind (fun g => (lostSlot g [] g.rb).map (·.2)) = some 4
    ∧ comes .parkCommit (park id) (fun t => (groupAt t 0 0).any (fun g => g.poisonPc == [0x20008] && g.rb == []))
    ∧ comes .parkCommit (park (fun g => { g with poisonPc := [0x20008] })) (fun t =>
        ((tget t.teams 0).bind (·.halt)).map (fun h => (h.trap, h.pc)) == some (⟨0x10, 0, 0x410⟩, 0x20008))
    ∧ comes .parkCommit (park (fun g => { g with hm := some h })) (fun t => (groupAt t 0 0).any (fun g =>
        g.status == .pageFault ⟨0x10, 0, 0x410⟩ true none (some (0x20008, [0, 1])) (.parking true 0x20010 0x20018 [0]))) := by decide +kernel

/-- A drain whose invalidations have come leaves the request table (R299). -/
theorem witness_written_ends :
    let s := withCmd (.written [0x800]) [(1, 0)] [] false
    let s : State := { s with iss := { s.iss with id := 1 } }
    stillPending s [0x800] = [] ∧ stillPending { s with pendInv := [(0, 0x800)] } [0x800] = [0x800]
    ∧ comes .engineCommandComplete s (fun t => tget (engineOf t 0).table 0 == none)
    ∧ (match exec .engineCommandComplete { s with pendInv := [(0, 0x800)] } with | .fault .notEnabled => true | _ => false) = true := by decide +kernel

/-- MDRAIN to the scratchpad: rows of 256 bytes at offset 0 of rank 0; the last row past the scratchpad; a rank that there is not. -/
theorem witness_drain_spad :
    let d := 256 + 2 ^ 20 + 2 ^ 22 * 9
    let w := wd 2 0 0 200 0 0
    let go (a : Nat) (p : Ic → State → Bool) : Bool := passes (.mdrain w) (demoE 8 [a, d]) w { shapeM w true with a := .src 2 } { entry := true, tx := some 2 }
      (fun c t => !badDrain d && nbit (subNo w) 1 && heldTile c.eng 0 0 1 == some 0 && p c t)
    let halts (n : Nat) (t : State) : Bool := ((tget t.teams 0).bind (·.halt)).map (·.trap) == some ⟨0x15, 0, n⟩
    go 0 (fun c t => room c && rankCore c 0 == some 0 && 127 * 256 + 256 ≤ recScratch c.r
        && (tget (engineOf t 0).table 0).any (fun x => x.words.length == 128 * 32 && x.words.head? == some (0, 0))) = true
    ∧ go 0x20 (fun _ t => halts 6 t) = true ∧ go (2 ^ 20 * 5) (fun c t => rankCore c 5 == none && halts 5 t) = true := by decide +kernel

/-- EPRIV of every form of TLBINV outside a service group (R357). -/
theorem witness_tlbinv_privilege :
    let s := demoG 8 (fun g => { g with parked := true })
    let go (i : LongWord → Instr) (w : LongWord) : Bool :=
      leads (i w) s (takeTrap s 0 0 ⟨2, 0, 0⟩ (word placeAddr) (word placeAddr) false false (List.range 8))
    go .tlbinvCtx (wd 0 0 0 0 0 200) ∧ go .tlbinvRange (wd 1 0 0 200 201 200) ∧ go .tlbinvAll (wd 2 0 0 0 0 0) := by decide +kernel

/-- A service submission waits while a peer has yet to hear of the end of the service context (R45, R279). -/
theorem witness_service_waits :
    let s : State := { demoM (.service 0x60000) with
      ctxs := [(0, placeContext), (0xFFF, placeContext)], pod := 2,
      reqs := [{ readReq with kind := .gone, ctx := 0xFFF }] }
    goneOut s 0xFFF = true ∧ goneOut s 0 = false ∧ comes .serviceSubmission s (fun t => t.svcq == [(0x60000, none)] && t.mem == s.mem) := by decide +kernel
/-! ### Witnesses: the machine as a whole -/

theorem witness_round_trip : (Instr.caramelAddk (cw 4 3 0 0x3FFD)).wellFormed = true ∧ (Instr.iadd (wd 0 0 1 2 3 0)).wellFormed = true
    ∧ (Instr.caramelIllegalWord (some 0xB0000000)).wellFormed = true ∧ decodeCaramel 0xB0000000 = .caramelIllegalWord (some 0xB0000000)
    ∧ decode (encode (.iadd (wx 2 0 7 7 0 0x12345678)) ++ [1, 2]) = .ok (.iadd (wx 2 0 7 7 0 0x12345678), [1, 2]) := by decide +kernel

/-- A step of a group, of a program, of a message, and of nothing. -/
theorem witness_step_runs_decoded :
    let g := State.reset.withFetchWord 64 2
    let q := State.reset.withFetchWord 32 (0x0F * 2 ^ 27 + 2 ^ 23 + 6)
    let m : State := { State.reset with inbox := [.elogAck] }
    pickTurn g = some (.issue 0 0) ∧ (match fetchGroup (issueState (popTiming g)) 0 0 with
      | some (.ok (i, v)) => i == .nop (wd 0 0 0 0 0 0) && comes i v (fun t =>
          match step g with | .next u => decide (u = noteIssue g.stamp (packWith (popTiming g) 0 0) t 0 0) | _ => false)
      | _ => false) = true
    ∧ pickTurn q = some (.caramel 0) ∧ (match step q with | .next u => (tget u.cslots 0).any (fun x => x.k[1]? == some 6 && x.pc == 1) | _ => false) = true
    ∧ pickTurn m = some .message ∧ (match step m with | .next u => u.inbox == [] && u.msg == some .elogAck | _ => false) = true
    ∧ pickTurn State.reset = none ∧ (match step State.reset with | .next u => decide (u = State.reset) | _ => false) = true := by decide +kernel

/-- A step of a write of a register, and of a trap that waited for a result. -/
theorem witness_step_turns :
    let w := wd 0 0 0 200 0xA0 0
    let t : State := modTeam (demoH 8) 0 (fun t => { t with groups := tmap (fun _ g => { g with status := .trapping ⟨0x11, 0, 5⟩ 0x20008 0x20008 false false [0] }) t.groups })
    let x : State := { State.reset.withFetchWord 64 (leNat (encode (.csrw w))) with timing := [0] }
    let n := (turnsOf x).length - 1
    let y : State := { x with timing := [n] }
    pickTurn t = some (.trap 0 0) ∧ resultsOut (popTiming t) 0 0 = false
    ∧ (match step t with | .next u => (groupAt u 0 0).any (fun g => g.tcause == 0x11 && g.status == .running) | _ => false) = true
    ∧ pickTurn y = some (.write .errstatClear ⟨0, 0, 0, 0, none, 0⟩)
    ∧ (match step y with | .next u => (groupAt u 0 0).any (fun g => g.lc == 1 && issuePc g == some 0x20008) | _ => false) = true := by decide +kernel

theorem witness_step_keeps_memory_form : Machine.Inv State.reset ∧ Machine.Inv (State.reset.withFetchWord 64 2)
    ∧ (match step (State.reset.withFetchWord 64 2) with | .next _ => true | _ => false) = true := by
  refine ⟨?_, ?_, ?_⟩ <;> first | decide +kernel | (unfold Machine.Inv; decide +kernel)

/-! ### Words of the spec's own encodings, one family at a time -/

/-- The worked encodings of chapter 05: a guarded fadd.f32 in both lengths, adds on the uniform port, with an
immediate and with a literal, a dictionary code; and the three ILLEGAL words of R88. -/
theorem test_decode_chapter05 :
    decodeTableWord 32 0x18510C4D = some (.faddF32K ⟨true, 3, false, 4, 5, 6⟩)
    ∧ decodeTableWord 64 0x0000181410508406 = some (.fadd ⟨true, 8, 20, false, 4, 5, 6, 0, 0, none⟩)
    ∧ decodeTableWord 64 0x000317130C000202 = some (.iadd ⟨false, 0, 0, false, 0xC3, 0xC4, 0xC5, 0, 0, none⟩)
    ∧ decodeTableWord 32 0xFFB24201 = some (.iaddI32J ⟨false, 0, false, 9, 0xFFB⟩)
    ∧ decodeTableWord 96 0x123456780000001C1C002203 = some (.iadd ⟨false, 2, 0, false, 7, 7, 0, 0, 0, some 0x12345678⟩)
    ∧ decodeTableWord 16 0x0940 = some (.d16Code ⟨false, 0, 37⟩)
    ∧ decodeTableWord 32 0xFFFFFFFD = some (.illegalK 0xFFFFFFFD)
    ∧ decodeTableWord 64 0xFFFFFFFFFFFFFFFE = some (.illegalW ⟨true, 63, 127, true, 255, 255, 255, 255, 63, none⟩) := by decide +kernel

/-- Chapters 06, 08 and 09: a load and an add of the short forms, a branch in both lengths, PSETI, a saturating add,
bitf.and in both lengths. -/
theorem test_decode_chapters06_to_09 :
    decodeTableWord 32 0x0C204095 = some (.ldgN32K ⟨true, 0, false, 1, 2, 3⟩)
    ∧ decodeTableWord 32 0x04104049 = some (.faddF32K ⟨false, 0, false, 1, 1, 1⟩)
    ∧ decodeTableWord 32 0xFFFB0B01 = some (.braB ⟨false, 2, false, 0x3FFEC⟩)
    ∧ decodeTableWord 96 0xFFFFFFEC000000000008000B = some (.bra ⟨false, 0, 2, false, 0, 0, 0, 0, 0, some 0xFFFFFFEC⟩)
    ∧ decodeTableWord 64 (0x14000000 + 0x800000000 + 0xC0000000000 + 0x2000 + 0x102) = some (.pseti ⟨false, 2, 0, false, 5, 2, 3, 0, 0, none⟩)
    ∧ decodeTableWord 64 0x0400302C28006202 = some (.iadd ⟨false, 6, 0, false, 0x0A, 0x0B, 0x0C, 0, 1, none⟩)
    ∧ decodeTableWord 32 0x0C204031 = some (.bitfAndK ⟨false, 0, false, 1, 2, 3⟩)
    ∧ decodeTableWord 64 0x02200C080400026A = some (.bitf ⟨false, 0, 0, false, 1, 2, 3, 0x88, 0, none⟩) := by decide +kernel

/-- Chapters 10 to 14: a special function, the block quantisation and the lane reduction of chapter 11, a scratchpad
store, a copy, MRSV.acc and MMA. -/
theorem test_decode_chapters10_to_14 :
    decodeTableWord 64 (2 + 2 ^ 3 * 0x0C0 + 2 ^ 12 * 8 + 2 ^ 26 * 1 + 2 ^ 34 * 2) = some (.frcp ⟨false, 8, 0, false, 1, 2, 0, 0, 0, none⟩)
    ∧ decodeTableWord 64 0x00200040A0010686 = some (.bqnt ⟨true, 0x10, 0, false, 0x28, 0x10, 0, 8, 0, none⟩)
    ∧ decodeTableWord 64 0x0000002024048726 = some (.redl ⟨true, 8, 1, false, 9, 8, 0, 0, 0, none⟩)
    ∧ decodeTableWord 32 0x1C6140C1 = some (.stsN32K ⟨false, 0, false, 5, 6, 7⟩)
    ∧ decodeTableWord 64 0x031B171328000902 = some (.cpy ⟨false, 0, 0, false, 0xCA, 0xC4, 0xC5, 0xC6, 0, none⟩)
    ∧ decodeTableWord 96 0x000000010000000304001B07 = some (.mrsvAcc ⟨true, 1, 0, false, 0xC1, 0, 0, 0, 0, some 1⟩)
    ∧ decodeTableWord 64 0x0000032350000B16 = some (.mma ⟨true, 0, 0, false, 0xD4, 0xC8, 0, 0, 0, none⟩) := by decide +kernel

/-- Chapters 15 to 17, 20, 21, 24 and 26: atomics, fences, a load with orders, TRAPRET, REGION, a self-test. -/
theorem test_decode_chapters15_to_26 :
    decodeTableWord 64 0x70C00C082000199A = some (.atomx ⟨false, 1, 0, false, 8, 2, 3, 0x30, 0x1C, none⟩)
    ∧ decodeTableWord 64 0x704317072000199E = some (.atomx ⟨true, 1, 0, false, 0xC8, 0xC1, 0xC5, 0x10, 0x1C, none⟩)
    ∧ decodeTableWord 64 0x4C00000000000A42 = some (.fence ⟨false, 0, 0, false, 0, 0, 0, 0, 0x13, none⟩)
    ∧ decodeTableWord 64 0x90000000001C0A42 = some (.fence ⟨false, 0, 7, false, 0, 0, 0, 0, 0x24, none⟩)
    ∧ decodeTableWord 64 0x2C032707341C1802 = some (.ldg ⟨false, 1, 7, false, 0xCD, 0xC1, 0xC9, 0, 0x0B, none⟩)
    ∧ decodeTableWord 64 0x0000000000000E1A = some (.trapret ⟨false, 0, 0, false, 0, 0, 0, 0, 0, none⟩)
    ∧ decodeTableWord 64 0x0000031B14001E2E = some (.selftestL1 ⟨true, 1, 0, false, 0xC5, 0xC6, 0, 0, 0, none⟩) := by decide +kernel

/-- Words of chapter 18: addk k4, k3, -3 and match b4, k0, 1; an opcode that Table 18.6 does not hold. -/
theorem test_decode_caramel :
    decodeCaramel (2 ^ 27 * 0x10 + 2 ^ 23 * 4 + 2 ^ 19 * 3 + 0x3FFD) = .caramelAddk ⟨4, 3, 0, 0x3FFD⟩
    ∧ decodeCaramel (2 ^ 27 * 1 + 2 ^ 23 * 4 + 1) = .caramelMatch ⟨4, 0, 0, 1⟩
    ∧ decodeCaramel (2 ^ 27 * 0x16) = .caramelIllegalWord (some 0xB0000000) := by decide +kernel

/-- Unassigned opcodes, and bytes that are too few. -/
theorem test_decode_refused :
    decodeTableWord 32 (1 + 8 * 0x1A) = some (.unassignedOpcode (.w32 0xD1))
    ∧ decodeTableWord 64 (2 + 8 * 0x010) = some (.unassignedOpcode (.w64 0x82))
    ∧ decode [2, 0, 0] = .error (.tooShort 8 3) := by decide +kernel

/-! ### Terms that are not instructions -/

/-- An ill-formed term for each check of WellFormed, which the check refuses. -/
theorem test_wellformed :
    let w (n : Nat) := wd n 0 0 0 0 0
    let bad : List Instr := [.d16Code ⟨false, 0, 0⟩, .illegalK 0, .illegalK 1, .illegalW (wx 0 0 0 0 0 0), .illegalX (w 0), .loop (w 1), .loopImm (w 0),
      .pmovGet (w 1), .pmovSet (w 2), .pvoteSome (w 1), .pvoteSome (w 4), .pvoteEvery (w 0), .pvoteSame (w 0), .pvoteMask (w 0), .pvoteCount (w 0),
      .cmntPin (w 1), .cmntPin (w 4), .cmntUnpin (w 0), .cmntClean (w 0), .cmntEvict (w 0), .cmntL1inv (w 0), .cpyg (w 1), .cpygSpad (w 0),
      .cwait (w 1), .cwaitStat (w 0), .cbar (w 4), .cbarCopy (w 3), .tokenWait (w 1), .tokenPass (w 0), .mrsv (w 1), .mrsvAcc (w 0), .mrel (w 1),
      .mrelAcc (w 0), .mwait (w 1), .mwaitAll (w 0), .jsync (w 1), .jsyncCtx (w 0), .csrxSwap (w 1), .csrxSwap (w 2), .csrxSet (w 0), .csrxClr (w 0),
      .tlbinvCtx (w 1), .tlbinvCtx (w 2), .tlbinvRange (w 0), .tlbinvAll (w 0), .selftestLane (w 1), .selftestLane (w 4), .selftestL1 (w 0),
      .selftestEngine (w 0), .selftestRfull (w 0), .selftestLink (w 0), .unassignedOpcode (.w16 0), .unassignedOpcode (.w32 1),
      .unassignedOpcode (.w32 0x3F9), .unassignedOpcode (.w32 0xD2), .unassignedOpcode (.w64 2), .unassignedOpcode (.w96 3), .caramelIllegalWord (some 0)]
    bad.all (fun i => !i.wellFormed) = true := by decide +kernel

end OneAfterAnother
end

section
/-! Little-endian numbers in byte memories: what a number reads after a write at its place and elsewhere. -/

namespace Sys2Proof.Machine

@[simp] theorem leBytes_length (n x : Nat) : (leBytes n x).length = n := by
  induction n generalizing x with
  | zero => rfl
  | succ n ih => simp [leBytes, ih]

/-- The bytes of a number read back, modulo the width. -/
theorem leNat_leBytes (n x : Nat) : leNat (leBytes n x) = x % 256 ^ n := by
  induction n generalizing x with
  | zero => simp [leBytes, leNat, Nat.mod_one]
  | succ n ih =>
    simp only [leBytes, leNat, ih, BitVec.toNat_ofNat, Nat.pow_succ']
    exact (Nat.mod_mul (x := x) (a := 256) (b := 256 ^ n)).symm

theorem leBytes_take (n k x : Nat) (h : k ≤ n) : (leBytes n x).take k = leBytes k x := by
  induction n generalizing k x with
  | zero => obtain rfl : k = 0 := by omega
            rfl
  | succ n ih =>
    cases k with
    | zero => rfl
    | succ k => simp [leBytes, ih k _ (by omega)]

theorem leBytes_drop (n k x : Nat) : (leBytes n x).drop k = leBytes (n - k) (x / 256 ^ k) := by
  induction n generalizing k x with
  | zero => simp [leBytes]
  | succ n ih =>
    cases k with
    | zero => simp
    | succ k => simp [leBytes, ih, Nat.div_div_eq_div_mul, Nat.pow_succ']

/-- Bytes read the same where two memories agree. -/
theorem memRead_congr {m m' : List Host.Cell} {a n : Nat} (h : ∀ x, a ≤ x → x < a + n → memByte m x = memByte m' x) :
    memRead m a n = memRead m' a n := by
  induction n generalizing a with
  | zero => rfl
  | succ n ih =>
    simp only [memRead, h a (by omega) (by omega), ih (a := a + 1) (fun x h1 h2 => h x (by omega) (by omega))]

/-- A number beside a written range is as it was. -/
theorem memNat_memWrite_out (m : List Host.Cell) (a b n : Nat) (bs : List Byte) (h : b + n ≤ a ∨ a + bs.length ≤ b) :
    memNat (memWrite m a bs) b n = memNat m b n :=
  congrArg leNat (memRead_congr (fun x h1 h2 => memByte_memWrite_out m a x bs (by omega)))

/-- Bytes written read back, from any place among them. -/
theorem memRead_memWrite_in (m : List Host.Cell) (hm : Memory.wf m = true) (a k n : Nat) (bs : List Byte) (h : k + n ≤ bs.length) :
    memRead (memWrite m a bs) (a + k) n = (bs.drop k).take n := by
  induction n generalizing k with
  | zero => simp [memRead]
  | succ n ih =>
    have hk : k < bs.length := by omega
    rw [memRead, memByte_memWrite m hm, if_pos (by omega), show a + k + 1 = a + (k + 1) by omega, ih (k + 1) (by omega),
      List.drop_eq_getElem_cons hk, List.take_succ_cons, show a + k - a = k by omega, List.getD_eq_getElem _ _ hk]

/-- A field of a number written reads back. -/
theorem memNat_memWrite_field (m : List Host.Cell) (hm : Memory.wf m = true) (a k n w x : Nat) (h : k + n ≤ w) :
    memNat (memWrite m a (leBytes w x)) (a + k) n = x / 256 ^ k % 256 ^ n := by
  rw [memNat, memRead_memWrite_in m hm a k n _ (by simpa using h), leBytes_drop, leBytes_take _ _ _ (by omega), leNat_leBytes]

/-- A number written reads back, modulo its width. -/
theorem memNat_memWrite_self (m : List Host.Cell) (hm : Memory.wf m = true) (a w x : Nat) :
    memNat (memWrite m a (leBytes w x)) a w = x % 256 ^ w := by
  simpa using memNat_memWrite_field m hm a 0 w w x (by omega)

theorem memWrite_append (m : List Host.Cell) (a : Nat) (xs ys : List Byte) :
    memWrite m a (xs ++ ys) = memWrite (memWrite m a xs) (a + xs.length) ys := by
  induction xs generalizing m a with
  | nil => rfl
  | cons x r ih => simp [memWrite, ih, Nat.add_assoc, Nat.add_comm]

/-! ### Memory across the operations of the home slice -/

@[simp] theorem sendInval_mem (s : State) (line : Nat) : (sendInval s line).mem = s.mem := rfl

@[simp] theorem clearPoison_mem (s : State) (pa n : Nat) : (clearPoison s pa n).mem = s.mem := by
  unfold clearPoison; split <;> rfl

/-- A fold keeps what each of its steps keeps. -/
theorem foldl_keeps {σ α β : Type} (p : σ → β) (f : σ → α → σ) (h : ∀ s a, p (f s a) = p s) (s : σ) (l : List α) :
    p (l.foldl f s) = p s := by
  induction l generalizing s with
  | nil => rfl
  | cons a l ih => rw [List.foldl_cons, ih, h]

/-- A write at the home slice writes memory, and what else it does is about poison and port buffers. -/
@[simp] theorem homeWrite_mem (s : State) (pa : Nat) (bs : List Byte) : (homeWrite s pa bs).mem = memWrite s.mem pa bs := by
  unfold homeWrite
  rw [foldl_keeps State.mem _ sendInval_mem, clearPoison_mem]

@[simp] theorem applyAll_mem (s : State) : (applyAll s).mem = s.mem := foldl_keeps State.mem applyInval (fun _ _ => rfl) _ _

end Sys2Proof.Machine
end

section
/-! Barrier objects (R22, R23, Table 1.7). -/

namespace Sys2Proof.Machine

@[simp] theorem addCount_mem (s : State) (pa k : Nat) :
    (addCount s pa k).mem = memWrite s.mem pa (leBytes 4 ((memNat s.mem pa 4 + k) % 2 ^ 32)) := homeWrite_mem _ _ _

/-- An arrival counts modulo 2^32 (R22). -/
theorem addCount_count (s : State) (pa k : Nat) (hm : Memory.wf s.mem = true) :
    memNat (addCount s pa k).mem pa 4 = (memNat s.mem pa 4 + k) % 2 ^ 32 := by
  rw [addCount_mem, memNat_memWrite_self _ hm]
  exact Nat.mod_mod _ _

/-- An arrival changes no byte beside COUNT. -/
theorem addCount_frame (s : State) (pa k a : Nat) (h : ¬ (pa ≤ a ∧ a < pa + 4)) :
    memByte (addCount s pa k).mem a = memByte s.mem a := by
  rw [addCount_mem, memByte_memWrite_out _ _ _ _ (by simp; omega)]

/-- The first word of a posted object's status: STATE, CAUSE and ERRCNT (Table 1.7). -/
def postStatus (st cause errs : Nat) : Nat := st + 2 ^ 8 * cause + 2 ^ 16 * errs

/-- Memory once the status and fault fields of a posted object are written, before its COUNT. -/
def postFields (m : List Host.Cell) (pa st cause errs fc : Nat) (fpc faddr finfo fid : Word) : List Host.Cell :=
  memWrite (memWrite (memWrite (memWrite (memWrite (memWrite m (pa + 8) (leBytes 4 (postStatus st cause errs)))
    (pa + 12) (leBytes 4 fc)) (pa + 16) (leBytes 8 fpc.toNat)) (pa + 24) (leBytes 8 faddr.toNat)) (pa + 32) (leBytes 8 finfo.toNat))
    (pa + 40) (leBytes 8 fid.toNat)

theorem postFields_wf {m : List Host.Cell} (hm : Memory.wf m = true) (pa st cause errs fc : Nat) (fpc faddr finfo fid : Word) :
    Memory.wf (postFields m pa st cause errs fc fpc faddr finfo fid) = true := by
  unfold postFields
  iterate 6 apply memWrite_wf
  exact hm

/-- Below the status word nothing of an object is written but its COUNT. -/
theorem postFields_low (m : List Host.Cell) (pa st cause errs fc b n : Nat) (fpc faddr finfo fid : Word) (h : b + n ≤ pa + 8) :
    memNat (postFields m pa st cause errs fc fpc faddr finfo fid) b n = memNat m b n := by
  unfold postFields
  iterate 6 rw [memNat_memWrite_out _ _ _ _ _ (by omega)]

/-- A post outside a hole writes the fields, then adds 1 to COUNT (R23). -/
theorem postObject_mem (s : State) (pa st cause errs fc : Nat) (fpc faddr finfo fid : Word) (h : pa + 64 ≤ hbmTop) :
    (postObject s pa st cause errs fc fpc faddr finfo fid).mem =
      memWrite (postFields s.mem pa st cause errs fc fpc faddr finfo fid) pa (leBytes 4 ((memNat s.mem pa 4 + 1) % 2 ^ 32)) := by
  rw [← postFields_low s.mem pa st cause errs fc pa 4 fpc faddr finfo fid (by omega)]
  unfold postObject
  rw [if_neg (by omega)]
  simp [postFields, postStatus, memWrite_append, Nat.add_assoc]

/-- A post into a hole is logged and takes nothing (R66). -/
theorem postObject_hole (s : State) (pa st cause errs fc : Nat) (fpc faddr finfo fid : Word) (h : hbmTop < pa + 64) :
    postObject s pa st cause errs fc fpc faddr finfo fid = logViolation s pa := if_pos h

/-- A field of a posted object past TARGET is what was written there. -/
theorem postObject_high (s : State) (pa st cause errs fc k n : Nat) (fpc faddr finfo fid : Word) (h : pa + 64 ≤ hbmTop) (hk : 4 ≤ k) :
    memNat (postObject s pa st cause errs fc fpc faddr finfo fid).mem (pa + k) n
      = memNat (postFields s.mem pa st cause errs fc fpc faddr finfo fid) (pa + k) n := by
  rw [postObject_mem _ _ _ _ _ _ _ _ _ _ h, memNat_memWrite_out _ _ _ _ _ (by simp; omega)]

theorem postObject_count (s : State) (pa st cause errs fc : Nat) (fpc faddr finfo fid : Word) (hm : Memory.wf s.mem = true)
    (h : pa + 64 ≤ hbmTop) :
    memNat (postObject s pa st cause errs fc fpc faddr finfo fid).mem pa 4 = (memNat s.mem pa 4 + 1) % 2 ^ 32 := by
  rw [postObject_mem _ _ _ _ _ _ _ _ _ _ h, memNat_memWrite_self _ (postFields_wf hm ..)]
  exact Nat.mod_mod _ _

/-- A post changes no byte outside the first 48 of its object. -/
theorem postObject_frame (s : State) (pa st cause errs fc : Nat) (fpc faddr finfo fid : Word) (h : pa + 64 ≤ hbmTop) (a : Nat)
    (ha : ¬ (pa ≤ a ∧ a < pa + 48)) : memByte (postObject s pa st cause errs fc fpc faddr finfo fid).mem a = memByte s.mem a := by
  rw [postObject_mem _ _ _ _ _ _ _ _ _ _ h, postFields]
  iterate 7 rw [memByte_memWrite_out _ _ _ _ (by simp; omega)]

/-- The status and fault fields of a posted object read back as they were given. -/
theorem postFields_read {m : List Host.Cell} (hm : Memory.wf m = true) (pa : Nat) {st cause errs fc : Nat} (fpc faddr finfo fid : Word)
    (hst : st < 2 ^ 8) (hcause : cause < 2 ^ 8) (herrs : errs < 2 ^ 16) (hfc : fc < 2 ^ 32) :
    let m' := postFields m pa st cause errs fc fpc faddr finfo fid
    memNat m' (pa + 8) 1 = st ∧ memNat m' (pa + 9) 1 = cause ∧ memNat m' (pa + 10) 2 = errs
      ∧ memNat m' (pa + 12) 4 = fc ∧ memNat m' (pa + 16) 8 = fpc.toNat ∧ memNat m' (pa + 24) 8 = faddr.toNat
      ∧ memNat m' (pa + 32) 8 = finfo.toNat ∧ memNat m' (pa + 40) 8 = fid.toNat := by
  have word8 (x : Word) : x.toNat % 256 ^ 8 = x.toNat := Nat.mod_eq_of_lt x.isLt
  have status (k n : Nat) (hk : k + n ≤ 4) : memNat (postFields m pa st cause errs fc fpc faddr finfo fid) (pa + 8 + k) n
      = postStatus st cause errs / 256 ^ k % 256 ^ n := by
    unfold postFields
    iterate 5 rw [memNat_memWrite_out _ _ _ _ _ (by omega)]
    exact memNat_memWrite_field _ hm _ _ _ _ _ hk
  refine ⟨?_, ?_, ?_, ?_, ?_, ?_, ?_, ?_⟩
  · refine (status 0 1 (by omega)).trans ?_; unfold postStatus; omega
  · refine (status 1 1 (by omega)).trans ?_; unfold postStatus; omega
  · refine (status 2 2 (by omega)).trans ?_; unfold postStatus; omega
  · unfold postFields
    iterate 4 rw [memNat_memWrite_out _ _ _ _ _ (by omega)]
    rw [memNat_memWrite_self _ (memWrite_wf hm _ _)]; omega
  · unfold postFields
    iterate 3 rw [memNat_memWrite_out _ _ _ _ _ (by omega)]
    rw [memNat_memWrite_self _ (memWrite_wf (memWrite_wf hm _ _) _ _), word8]
  · unfold postFields
    iterate 2 rw [memNat_memWrite_out _ _ _ _ _ (by omega)]
    rw [memNat_memWrite_self _ (memWrite_wf (memWrite_wf (memWrite_wf hm _ _) _ _) _ _), word8]
  · unfold postFields
    rw [memNat_memWrite_out _ _ _ _ _ (by omega),
      memNat_memWrite_self _ (memWrite_wf (memWrite_wf (memWrite_wf (memWrite_wf hm _ _) _ _) _ _) _ _), word8]
  · unfold postFields
    rw [memNat_memWrite_self _ (memWrite_wf (memWrite_wf (memWrite_wf (memWrite_wf (memWrite_wf hm _ _) _ _) _ _) _ _) _ _), word8]

/-- Settles O50: an arrival is one write of COUNT, and a post the writes of its fields before that of COUNT. -/
theorem barrierObjects : Obligations.BarrierObjects := by
  unfold Obligations.BarrierObjects
  refine ⟨fun s pa k hm => ⟨addCount_count s pa k hm, addCount_frame s pa k⟩, fun s pa => decide_eq_true_iff, ?_, postObject_hole⟩
  intro s pa st cause errs fc fpc faddr finfo fid hm hpa hst hcause herrs hfc t
  have high (k n : Nat) (hk : 4 ≤ k) : memNat t.mem (pa + k) n = _ := postObject_high s pa st cause errs fc k n fpc faddr finfo fid hpa hk
  have target : memNat t.mem (pa + 4) 4 = memNat s.mem (pa + 4) 4 :=
    (high 4 4 (by omega)).trans (postFields_low _ _ _ _ _ _ _ _ _ _ _ _ (by omega))
  obtain ⟨h8, h9, h10, h12, h16, h24, h32, h40⟩ := postFields_read hm pa fpc faddr finfo fid hst hcause herrs hfc
  exact ⟨postObject_count s pa st cause errs fc fpc faddr finfo fid hm hpa, target, (high 8 1 (by omega)).trans h8,
    (high 9 1 (by omega)).trans h9, (high 10 2 (by omega)).trans h10, (high 12 4 (by omega)).trans h12, (high 16 8 (by omega)).trans h16,
    (high 24 8 (by omega)).trans h24, (high 32 8 (by omega)).trans h32, (high 40 8 (by omega)).trans h40,
    postObject_frame s pa st cause errs fc fpc faddr finfo fid hpa⟩

end Sys2Proof.Machine
end

section
/-! Words without a meaning, and dictionary codes (R14, R74, R87, R88, R90). -/

namespace Sys2Proof.Machine

/-! ### EILL at the cursor -/

/-- A word without a meaning traps at its own address, in the lanes that would have issued it. -/
theorem illegalWord_traps {s : State} {g : Group} (n : Nat) (hg : groupAt s s.iss.core s.iss.grp = some g)
    (ha : activeLanes g s.iss.pc ≠ []) :
    illegalWord n s = .next (takeTrap s s.iss.core s.iss.grp (eill n s.iss.d16) s.iss.pc s.iss.pc false false (activeLanes g s.iss.pc)) := by
  simp [illegalWord, hg, ha]

/-! ### The word of an entry -/

/-- A short form of format K runs from a dictionary as it does from memory. -/
theorem execEntry_kInstr {op : Nat} {w : KWord} {i : Instr} (h : kInstr op w = some i) (s : State) : execEntry i s = exec i s := by
  unfold kInstr at h
  split at h <;> cases h <;> rfl

/-- A short form of format J runs from a dictionary as it does from memory. -/
theorem execEntry_jInstr {op : Nat} {w : JWord} {i : Instr} (h : jInstr op w = some i) (s : State) : execEntry i s = exec i s := by
  unfold jInstr at h
  split at h <;> cases h <;> rfl

/-- A short form of format B runs from a dictionary as it does from memory. -/
theorem execEntry_bInstr {op : Nat} {w : BWord} {i : Instr} (h : bInstr op w = some i) (s : State) : execEntry i s = exec i s := by
  unfold bInstr at h
  split at h <;> cases h <;> rfl

/-- A 32-bit core word runs from a dictionary as it does from memory (R74). -/
theorem execEntry_decode32 (x : Nat) (s : State) : execEntry (decode32 x) s = exec (decode32 x) s := by
  simp only [decode32]
  split
  · rfl
  · split
    · exact execEntry_kInstr ‹_› s
    · split
      · exact execEntry_jInstr ‹_› s
      · split
        · exact execEntry_bInstr ‹_› s
        · rfl

/-! ### A dictionary code at the cursor -/

/-- The state in which a code's checks and the word of its entry run: the cursor names the code and its length. -/
def State.atCode (s : State) (w : D16Word) : State := { s with iss := { s.iss with len := 2, d16 := some w } }

/-- Entry `n` of a launch's dictionary, as its 32 bits (R14). -/
def Launch.entryBits (l : Launch) (n : Nat) : Nat := ((l.dict.getD []).getD n 0).toNat % 2 ^ 32

/-- The word that a code runs: its entry's, with the S of either (R74). -/
def codeWord (w : D16Word) (e : Nat) : Nat := if w.s = true ∧ nbit e 2 = false then e + 4 else e

/-- What a code comes to at the cursor of `s`: the checks of Table 5.11 in their order, then the word of its entry. -/
def codeChecks (w : D16Word) (l : Launch) (act : List Nat) (s : State) : Host.Outcome State Fault Refusal :=
  if w.rsvd ≠ 0 then illegalWord 0x01 s
  else if w.idx = 0 ∨ recDict l.rec_ = 0 then illegalWord 0x02 s
  else match l.dictBad with
    | some k => .next (takeTrap s s.iss.core s.iss.grp (dictTrap l k w.idx.toNat) s.iss.pc s.iss.pc false false act)
    | none =>
      if l.entryBits w.idx.toNat % 4 ≠ 1 then illegalWord 0x03 s
      else exec (decode32 (codeWord w (l.entryBits w.idx.toNat))) s

section

variable {w : D16Word} {l : Launch} (act : List Nat) (s : State)

theorem codeChecks_reserved (hr : w.rsvd ≠ 0) : codeChecks w l act s = illegalWord 0x01 s := if_pos hr

theorem codeChecks_zero (hr : w.rsvd = 0) (hz : w.idx = 0 ∨ recDict l.rec_ = 0) : codeChecks w l act s = illegalWord 0x02 s :=
  (if_neg (not_not_intro hr)).trans (if_pos hz)

theorem codeChecks_unreadable (hr : w.rsvd = 0) (hz : ¬ (w.idx = 0 ∨ recDict l.rec_ = 0)) {k : Nat} (hb : l.dictBad = some k) :
    codeChecks w l act s =
      .next (takeTrap s s.iss.core s.iss.grp (dictTrap l k w.idx.toNat) s.iss.pc s.iss.pc false false act) := by
  rw [codeChecks, if_neg (not_not_intro hr), if_neg hz, hb]

theorem codeChecks_read (hr : w.rsvd = 0) (hz : ¬ (w.idx = 0 ∨ recDict l.rec_ = 0)) (hb : l.dictBad = none) :
    codeChecks w l act s = if l.entryBits w.idx.toNat % 4 ≠ 1 then illegalWord 0x03 s
      else exec (decode32 (codeWord w (l.entryBits w.idx.toNat))) s := by
  rw [codeChecks, if_neg (not_not_intro hr), if_neg hz, hb]

end

/-- A dictionary code of a group that issues is checked, and runs the word of its entry. -/
theorem exec_d16Code {s : State} {w : D16Word} {l : Launch} {g : Group}
    (hl : (tget s.teams s.iss.core).bind (fun t => launchAt s t.launch) = some l)
    (hg : groupAt s s.iss.core s.iss.grp = some g) (ha : activeLanes g s.iss.pc ≠ []) :
    exec (.d16Code w) s = codeChecks w l (activeLanes g s.iss.pc) (s.atCode w) := by
  have hl' : (tget s.teams s.iss.core).bind (fun t => launchAt (s.atCode w) t.launch) = some l := hl
  have hg' : groupAt (s.atCode w) s.iss.core s.iss.grp = some g := hg
  have hi : w.idx.toNat = 0 ↔ w.idx = 0 := by simp [← BitVec.toNat_inj]
  change execD16Code w s = _
  simp only [execD16Code, codeChecks, Launch.entryBits, codeWord, ← State.atCode.eq_1, hl', hg', List.isEmpty_iff, ha,
    if_false, execEntry_decode32, bne_iff_ne, hi, Bool.or_eq_true,
    decide_eq_true_eq, Bool.and_eq_true, Bool.not_eq_true'] <;> rfl

/-- Settles O16: `exec_d16Code` gives the checks of a code, in their order, and a word without a meaning is an `illegalWord`. -/
theorem illegalWordsAndCodes : Obligations.IllegalWordsAndCodes := by
  unfold Obligations.IllegalWordsAndCodes
  intro s g hg ha traps
  have ill (n : Nat) := illegalWord_traps n hg ha
  refine ⟨fun _ => ill 2, fun _ => ill 2, fun _ => ill 2, fun _ => ill 4, fun _ => ill 5, fun _ => ill 5,
    illegalWord_traps (s := { s with iss := { s.iss with d16 := some ⟨false, 0, 0⟩ } }) 2 hg ha, ?_⟩
  intro w l hl s1 trap e
  have code : exec (.d16Code w) s = codeChecks w l (activeLanes g s.iss.pc) s1 := exec_d16Code hl hg ha
  have ill1 (n : Nat) : illegalWord n s1 = _ := illegalWord_traps n hg ha
  have read (hr : w.rsvd = 0) (hz : w.idx ≠ 0) (hd : recDict l.rec_ ≠ 0) (hb : l.dictBad = none) :
      exec (.d16Code w) s = if e % 4 ≠ 1 then illegalWord 0x03 s1 else exec (decode32 (codeWord w e)) s1 :=
    code.trans (codeChecks_read _ _ hr (not_or.2 ⟨hz, hd⟩) hb)
  refine ⟨fun hr => code.trans ((codeChecks_reserved _ _ hr).trans (ill1 1)),
    fun hr hz => code.trans ((codeChecks_zero _ _ hr hz).trans (ill1 2)),
    fun k hr hz hd hb => code.trans (codeChecks_unreadable _ _ hr (not_or.2 ⟨hz, hd⟩) hb),
    fun hr hz hd hb => ⟨fun he => (read hr hz hd hb).trans ((if_pos he).trans (ill1 3)),
      fun he => (read hr hz hd hb).trans (if_neg (not_not_intro he)), fun k c he hk ho => ?_⟩⟩
  have run : exec (.d16Code w) s = exec (.movK k) s1 := hk ▸ (read hr hz hd hb).trans (if_neg (not_not_intro he))
  obtain ⟨t, ht, hdone⟩ := short_completes (i := .movK k) (fun c l => c.rd l (kLong 0 k).a) ho rfl rfl (.inl rfl) _ rfl
  exact ⟨t, run.trans ht, hdone⟩

end Sys2Proof.Machine
end

section
/-! A team at dispatch (R21). -/

namespace Sys2Proof.Machine

/-- A table that lists the numbers below `n`. -/
theorem tget_range {α : Type} (f : Nat → α) (n k : Nat) :
    tget ((List.range n).map (fun i => (i, f i))) k = if k < n then some (f k) else none := by
  suffices h : ∀ a, tget ((List.range' a n).map (fun i => (i, f i))) k = if a ≤ k ∧ k < a + n then some (f k) else none by
    simpa [List.range_eq_range'] using h 0
  induction n with
  | zero => intro a; simp [tget]
  | succ n ih =>
    intro a
    rw [List.range'_succ, List.map_cons, tget, ih (a + 1)]
    by_cases h : a = k
    · simp [h]
    · rw [if_neg h]
      congr 1
      simp only [eq_iff_iff]
      omega

/-- The contexts of a team at dispatch hold its groups, one each. -/
theorem startTeam_group (r : LaunchRecord) (stamp n cix tix k : Nat) :
    tget (startTeam r stamp n cix tix).groups k = if k < recGpt r then some (startGroup r stamp k) else none :=
  tget_range (startGroup r stamp) (recGpt r) k

@[simp] theorem startGroup_threads_length (r : LaunchRecord) (stamp k : Nat) :
    (startGroup r stamp k).threads.length = recWidth r := by simp [startGroup, Group.openStretch]

theorem startGroup_lane (r : LaunchRecord) (stamp k l : Nat) (h : l < recWidth r) :
    (startGroup r stamp k).lane l = startThread (recCode r) (k * recWidth r + l) := by
  simp [Group.lane, startGroup, Group.openStretch, h]

theorem startGroup_sreg (r : LaunchRecord) (stamp k i : Nat) :
    wget (startGroup r stamp k).sreg i = if i = 0 then recArgs r else 0 :=
  wget_wset [] 0 i (recArgs r)

/-- Of a thread's predicates at dispatch p0 alone is true. -/
theorem startThread_pred (code : Word) (tid i : Nat) : (startThread code tid).p.getLsbD i = decide (i = 0) := by
  change (1#128).getLsbD i = _
  simp [BitVec.getLsbD_one]

/-- Settles O54: the team is `startTeam`, its groups `startGroup` and its threads `startThread`. -/
theorem teamAtDispatch : Obligations.TeamAtDispatch := by
  unfold Obligations.TeamAtDispatch
  intro r stamp n cix tix t
  refine ⟨fun _ => rfl, rfl, rfl, rfl, rfl, rfl, rfl, ?_, rfl, rfl, rfl, ?_, ?_⟩
  · intro c hc
    rw [List.eq_of_mem_replicate (hc : c ∈ List.replicate 4 Channel.idle)]
    rfl
  · intro k
    rw [startTeam_group]
    split <;> simp_all
  · intro k g hg
    rw [startTeam_group] at hg
    obtain ⟨-, rfl⟩ : k < recGpt r ∧ startGroup r stamp k = g := by simpa using hg
    refine ⟨rfl, startGroup_threads_length r stamp k, startGroup_sreg r stamp k 0, fun i hi => (startGroup_sreg r stamp k i).trans (if_neg hi),
      rfl, rfl, fun l hl => ?_⟩
    rw [startGroup_lane r stamp k l hl]
    exact ⟨rfl, rfl, rfl, rfl, rfl, fun _ => rfl, startThread_pred _ _ 0, fun i hi => by simp [startThread_pred, hi]⟩

end Sys2Proof.Machine
end

section
/-! What an access leaves as it was: memory and what keeps it are apart from launches, contexts and requests. -/

namespace Sys2Proof.Machine

/-- A package without its memory, the errors in it with their counts and log, the lines that caches hold of it, and the
port buffers: what accesses to memory change. -/
def State.sansMemory (s : State) : State :=
  { s with mem := [], poison := [], l2lost := [], renewed := [], upsets := [], l2 := [], dies := [], secnt := 0, defrt := [],
           elogaddr := 0, elogcause := 0, steward := false, portBufs := [], pendInv := [] }

theorem launches_of_sansMemory {s t : State} (h : t.sansMemory = s.sansMemory) : t.launches = s.launches := by
  have e := congrArg State.launches h
  exact e

theorem hubFaults_of_sansMemory {s t : State} (h : t.sansMemory = s.sansMemory) : t.hubFaults = s.hubFaults := by
  have e := congrArg State.hubFaults h
  exact e

theorem cposts_of_sansMemory {s t : State} (h : t.sansMemory = s.sansMemory) : t.cposts = s.cposts := by
  have e := congrArg State.cposts h
  exact e

@[simp] theorem logEvent_sansMemory (s : State) (pa event struct die : Nat) (hub : Bool) (unit : Nat) :
    (logEvent s pa event struct die hub unit).sansMemory = s.sansMemory := by
  unfold logEvent; split <;> rfl

@[simp] theorem logViolation_sansMemory (s : State) (pa : Nat) : (logViolation s pa).sansMemory = s.sansMemory :=
  logEvent_sansMemory ..

@[simp] theorem appendRt_sansMemory (s : State) (struct die unit row : Nat) :
    (appendRt s struct die unit row).sansMemory = s.sansMemory := by
  unfold appendRt; split <;> rfl

@[simp] theorem bumpSecnt_sansMemory (s : State) (lo w : Nat) : (bumpSecnt s lo w).sansMemory = s.sansMemory := rfl

@[simp] theorem modDie_sansMemory (s : State) (d : Nat) (f : Die → Die) : (modDie s d f).sansMemory = s.sansMemory := rfl

/-- A correction is counted, logged, and may cost a spare or the unit (R360, R361). -/
theorem countCorrection_sansMemory (s : State) (addr struct die unit inst key row : Nat) (disable : State → State)
    (hd : ∀ u, (disable u).sansMemory = u.sansMemory) :
    (countCorrection s addr struct die unit inst key row disable).sansMemory = s.sansMemory := by
  simp only [countCorrection]
  split
  · simp
  · split <;> simp [hd]

theorem correctHbm_sansMemory (s : State) (pa : Nat) : (correctHbm s pa).sansMemory = s.sansMemory :=
  countCorrection_sansMemory _ _ _ _ _ _ _ _ _ (fun _ => rfl)

theorem meetUpset_sansMemory (s : State) (sec : Nat) : (meetUpset s sec).sansMemory = s.sansMemory := by
  simp only [meetUpset]
  split
  · rfl
  · exact correctHbm_sansMemory _ _
  · exact logEvent_sansMemory ..

@[simp] theorem meetUpsets_sansMemory (s : State) (pa n : Nat) : (meetUpsets s pa n).sansMemory = s.sansMemory := by
  unfold meetUpsets
  split
  · rfl
  · exact foldl_keeps State.sansMemory _ meetUpset_sansMemory _ _

@[simp] theorem l2TouchAll_sansMemory (s : State) (pa n cp wp : Nat) (write : Bool) :
    (l2TouchAll s pa n cp wp write).sansMemory = s.sansMemory :=
  foldl_keeps State.sansMemory (fun s l => l2Touch s (128 * l) cp wp write) (fun _ _ => rfl) _ _

@[simp] theorem touchAt_sansMemory (s : State) (ctx va n : Nat) (write : Bool) : (touchAt s ctx va n write).sansMemory = s.sansMemory := by
  unfold touchAt
  split
  · dsimp only; split <;> simp
  · rfl

@[simp] theorem clearPoison_sansMemory (s : State) (pa n : Nat) : (clearPoison s pa n).sansMemory = s.sansMemory := by
  unfold clearPoison; split <;> rfl

@[simp] theorem homeWrite_sansMemory (s : State) (pa : Nat) (bs : List Byte) : (homeWrite s pa bs).sansMemory = s.sansMemory := by
  unfold homeWrite
  rw [foldl_keeps State.sansMemory sendInval (fun _ _ => rfl), clearPoison_sansMemory]
  rfl

@[simp] theorem applyAll_sansMemory (s : State) : (applyAll s).sansMemory = s.sansMemory :=
  foldl_keeps State.sansMemory applyInval (fun _ _ => rfl) _ _

@[simp] theorem postObject_sansMemory (s : State) (pa st cause errs fc : Nat) (fpc faddr finfo fid : Word) :
    (postObject s pa st cause errs fc fpc faddr finfo fid).sansMemory = s.sansMemory := by
  unfold postObject
  split <;> simp [addCount]

@[simp] theorem firmwareWrites_sansMemory (s : State) (cells : List Host.Cell) : (firmwareWrites s cells).sansMemory = s.sansMemory := by
  unfold firmwareWrites
  rw [foldl_keeps State.sansMemory _ (fun _ _ => clearPoison_sansMemory ..)]
  rfl

/-- The firmware's cells are written one after another. -/
@[simp] theorem firmwareWrites_mem (s : State) (cells : List Host.Cell) : (firmwareWrites s cells).mem = memPatch s.mem cells := by
  unfold firmwareWrites
  rw [foldl_keeps State.mem _ (fun _ _ => clearPoison_mem ..)]

end Sys2Proof.Machine
end

section
/-! The submission of a record (R20, R26, R27). -/

namespace Sys2Proof.Machine

/-- Every launch keeps its record and its context; what else it holds may change. -/
def KeepsRecords (s t : State) : Prop :=
  ∀ n l, launchAt s n = some l → ∃ l', launchAt t n = some l' ∧ l'.rec_ = l.rec_ ∧ l'.ctx = l.ctx

theorem KeepsRecords.of_launches {s t : State} (h : t.launches = s.launches) : KeepsRecords s t :=
  fun n l hl => ⟨l, (congrArg (tget · n) h).trans hl, rfl, rfl⟩

theorem KeepsRecords.of_sansMemory {s t : State} (h : t.sansMemory = s.sansMemory) : KeepsRecords s t :=
  .of_launches (launches_of_sansMemory h)

theorem KeepsRecords.trans {s t u : State} (h : KeepsRecords s t) (h' : KeepsRecords t u) : KeepsRecords s u := by
  intro n l hl
  obtain ⟨l', hl', hr, hc⟩ := h n l hl
  obtain ⟨l'', hl'', hr', hc'⟩ := h' n l' hl'
  exact ⟨l'', hl'', hr'.trans hr, hc'.trans hc⟩

theorem launchAt_modLaunch (s : State) (k n : Nat) (f : Launch → Launch) :
    launchAt (modLaunch s k f) n = if n = k then (launchAt s n).map f else launchAt s n := by
  simp only [launchAt, modLaunch]
  by_cases h : n = k
  · subst h
    cases hk : tget s.launches n <;> simp [hk]
  · cases hk : tget s.launches k <;> simp [h, tget_tset_ne]

theorem modLaunch_keepsRecords (s : State) (k : Nat) (f : Launch → Launch) (hf : ∀ l, (f l).rec_ = l.rec_ ∧ (f l).ctx = l.ctx) :
    KeepsRecords s (modLaunch s k f) := by
  intro n l hl
  rw [launchAt_modLaunch, hl]
  by_cases h : n = k
  · exact ⟨f l, if_pos h, hf l⟩
  · exact ⟨l, if_neg h, rfl, rfl⟩

theorem takeHead_keepsRecords (s : State) (p : Nat) : KeepsRecords s (takeHead s p) := by
  simp only [takeHead]
  split
  · exact .of_launches rfl
  · exact modLaunch_keepsRecords s _ _ (fun _ => ⟨rfl, rfl⟩)

theorem settleHead_keepsRecords (s : State) : KeepsRecords s (settleHead s) := by
  unfold settleHead
  split
  · exact .of_launches rfl
  · split
    · exact takeHead_keepsRecords _ _
    · split
      · exact .of_launches rfl
      · exact KeepsRecords.trans (modLaunch_keepsRecords s _ _ (by exact fun _ => ⟨rfl, rfl⟩)) (takeHead_keepsRecords _ _)

theorem installDict_keepsRecords (s : State) (n : Nat) : KeepsRecords s (installDict s n) := by
  unfold installDict
  split
  · exact .of_launches rfl
  · split
    · exact .of_launches rfl
    · split
      · exact (KeepsRecords.of_sansMemory (touchAt_sansMemory ..)).trans (modLaunch_keepsRecords _ _ _ (fun _ => ⟨rfl, rfl⟩))
      · split
        · exact modLaunch_keepsRecords _ _ _ (fun _ => ⟨rfl, rfl⟩)
        · refine KeepsRecords.trans (.of_sansMemory ?_) (modLaunch_keepsRecords _ _ _ (fun _ => ⟨rfl, rfl⟩))
          split <;> simp

theorem makeReady_keepsRecords (s : State) (n : Nat) : KeepsRecords s (makeReady s n) :=
  .trans (.trans (modLaunch_keepsRecords s n _ (by exact fun _ => ⟨rfl, rfl⟩)) (installDict_keepsRecords _ _)) (settleHead_keepsRecords _)

/-- A launch that has been entered keeps its record and context, whether or not it is READY at once. -/
theorem entered_launch {u : State} {n ctx : Nat} {l : Launch} {r : LaunchRecord} (c : Bool) (hl : launchAt u n = some l)
    (hr : l.rec_ = r) (hc : l.ctx = ctx) :
    ∃ l', launchAt (if c then makeReady u n else u) n = some l' ∧ l'.rec_ = r ∧ l'.ctx = ctx := by
  subst hr hc
  cases c
  · exact ⟨l, hl, rfl, rfl⟩
  · exact makeReady_keepsRecords u n n l hl

/-- A record that passes R20's checks takes the free slot, unless its context has all its launches (R20, R27). -/
theorem submit_accepted {s : State} {ctx n : Nat} (svc : Bool) {r : LaunchRecord} (hr : recReason s ctx r = 0) (hn : freeSlot s = some n)
    (hc : (s.launches.filter (fun e => e.2.ctx == ctx)).length < 256) :
    (submit s ctx svc r).2 = (0, 0) ∧ ∃ l, launchAt (submit s ctx svc r).1 n = some l ∧ l.rec_ = r ∧ l.ctx = ctx := by
  have hn' (vas : List Nat) : freeSlot (dropTold s ctx vas) = some n := hn
  have hc' (vas : List Nat) : ¬ ((dropTold s ctx vas).launches.filter (fun e => e.2.ctx == ctx)).length ≥ 256 := Nat.not_le.2 hc
  simp only [submit, hr, hn', hc', bne_self_eq_false, Bool.false_eq_true, if_false, true_and]
  exact entered_launch _ (tget_tset_self _ n _) rfl rfl

/-- A record that fails a check answers with its reason, and no launch is added (R20). -/
theorem submit_rejected {s : State} {ctx : Nat} (svc : Bool) {r : LaunchRecord} (hr : recReason s ctx r ≠ 0) :
    (submit s ctx svc r).2 = (1, recReason s ctx r) ∧ (submit s ctx svc r).1.launches = s.launches := by
  simp only [submit, bne_iff_ne.2 hr, if_true, true_and]
  split
  · exact (launches_of_sansMemory ((postObject_sansMemory ..).trans (touchAt_sansMemory ..))).trans rfl
  · rfl

/-- A record for which no slot is left answers FULL (R27). -/
theorem submit_full {s : State} {ctx : Nat} (svc : Bool) {r : LaunchRecord} (hr : recReason s ctx r = 0)
    (hf : freeSlot s = none ∨ 256 ≤ (s.launches.filter (fun e => e.2.ctx == ctx)).length) :
    (submit s ctx svc r).2 = (2, 0) ∧ (submit s ctx svc r).1.launches = s.launches := by
  have hs (vas : List Nat) : freeSlot (dropTold s ctx vas) = freeSlot s := rfl
  have hl (vas : List Nat) : (dropTold s ctx vas).launches = s.launches := rfl
  simp only [submit, hr, hs, hl, bne_self_eq_false, Bool.false_eq_true, if_false]
  split
  · exact ⟨rfl, rfl⟩
  · rw [if_pos (hf.resolve_left (by simp_all))]
    exact ⟨rfl, rfl⟩

end Sys2Proof.Machine
end

section
/-! Requests at the mailboxes and on the service path (R20, R24 to R26). -/

namespace Sys2Proof.Machine

/-- An event that leaves memory untouched happens quietly. -/
theorem Quietly.of_mem {i : Instr} {s t : State} (he : exec i s = .next t) (hm : t.mem = s.mem) : Quietly i s t :=
  ⟨he, fun a => congrArg (memByte · a) hm⟩

@[simp] theorem mboxOf_setMbox (s : State) (m : Nat) (x : Mailbox) : mboxOf (setMbox s m x) m = x := by
  unfold mboxOf setMbox
  split <;> simp [tgetD]

@[simp] theorem setMbox_mem (s : State) (m : Nat) (x : Mailbox) : (setMbox s m x).mem = s.mem := by
  unfold setMbox; split <;> rfl

theorem setMbox_lt (s : State) {m : Nat} (h : m < 64) (x : Mailbox) : setMbox s m x = { s with mboxes := tset s.mboxes m x } :=
  if_neg (by omega)

theorem bar0Open_iff (s : State) : bar0Open s = true ↔ 3 ≤ s.stage := decide_eq_true_iff

theorem goneOut_iff (s : State) (ctx : Nat) : goneOut s ctx = true ↔ ∃ r ∈ s.reqs, r.kind = .gone ∧ r.ctx = ctx := by
  simp [goneOut]

section

variable {s : State} {m : Nat} {op : Word} (hmsg : s.msg = some (.mailboxOp m op)) (hm : m < 64) (hstage : 3 ≤ s.stage)

include hmsg hm hstage

/-- A write of an OP word of a mailbox: ignored while BUSY, answered 3 when it is not a SUBMIT that can be made, else a SUBMIT (R25). -/
theorem exec_mailboxOp : exec .mailboxSubmit s =
    if (mboxOf s m).busy then .next s
    else if (mboxOf s m).bound = false ∨ op ≠ 1 ∨ recaddrOk (mboxOf s m) = false then
      .next (setMbox s m (({ mboxOf s m with op := op } : Mailbox).answer 3 0))
    else .next (runSubmit (setMbox s m { mboxOf s m with op := op }) m) := by
  have h64 : ¬ m > 64 := by omega
  have hne : m ≠ 64 := by omega
  have hrec : recaddrOk { mboxOf s m with op := op } = recaddrOk (mboxOf s m) := rfl
  change execMailboxSubmit s = _
  simp [execMailboxSubmit, hmsg, (bar0Open_iff s).2 hstage, h64, hne, hrec, or_assoc]

/-- An OP word that is no SUBMIT to make is answered INVALID (R25). -/
theorem mailboxOp_invalid (hb : (mboxOf s m).busy = false)
    (h : (mboxOf s m).bound = false ∨ op ≠ 1 ∨ recaddrOk (mboxOf s m) = false) :
    exec .mailboxSubmit s = .next { s with mboxes := tset s.mboxes m (({ mboxOf s m with op := op } : Mailbox).answer 3 0) } := by
  rw [exec_mailboxOp hmsg hm hstage, if_neg (by simp [hb]), if_pos h, setMbox_lt s hm]

/-- A SUBMIT is run with the mailbox as its OP word leaves it. -/
theorem mailboxOp_submit (hb : (mboxOf s m).busy = false) (hbound : (mboxOf s m).bound = true) (hop : op = 1)
    (hrec : recaddrOk (mboxOf s m) = true) :
    exec .mailboxSubmit s = .next (runSubmit { s with mboxes := tset s.mboxes m { mboxOf s m with op := op } } m) := by
  rw [exec_mailboxOp hmsg hm hstage, if_neg (by simp [hb]), if_neg (by simp [hbound, hop, hrec]), setMbox_lt s hm]

end

/-- A SUBMIT whose record meets a NOTVALID waits for the firmware, and keeps the record as read (R16, R26). -/
theorem runSubmit_waits {s : State} {m a : Nat} {x : Mailbox} (hm : m < 64) (hx : mboxOf s m = x)
    (h : submitNeeds s x.bind x.recaddr.toNat x.kept = some a) :
    runSubmit s m = { askFirmware s x.bind a with
      mboxes := tset s.mboxes m { x with busy := true, kept := recordOf s x.bind x.recaddr.toNat x.kept } } := by
  subst hx
  simp only [runSubmit, h, setMbox_lt _ hm]
  rfl

/-- A SUBMIT that needs no page of the firmware answers (R20, R26). -/
theorem runSubmit_answers {s : State} {m : Nat} {x : Mailbox} (hm : m < 64) (hx : mboxOf s m = x)
    (h : submitNeeds s x.bind x.recaddr.toNat x.kept = none) :
    runSubmit s m = let r := submitAt s x.bind false x.recaddr.toNat x.kept
      { r.1 with mboxes := tset r.1.mboxes m (x.answer r.2.1 r.2.2) } := by
  subst hx
  simp only [runSubmit, h, setMbox_lt _ hm]

/-- DONEBIT is cleared, and nothing else changes (R25). -/
theorem exec_donebitClear {s : State} {m : Nat} (hmsg : s.msg = some (.donebitClear m)) (hm : m < 64) (hstage : 3 ≤ s.stage) :
    exec .mailboxDonebitClear s = .next { s with mboxes := tset s.mboxes m { mboxOf s m with done := false } } := by
  have h64 : ¬ m > 64 := by omega
  change execMailboxDonebitClear s = _
  simp [execMailboxDonebitClear, hmsg, (bar0Open_iff s).2 hstage, h64, setMbox_lt _ hm]

/-- A service submission of a package whose service context exists: it waits while a peer has yet to hear of the end of the
one before, and else is run (R24, log 90). -/
theorem exec_service {s : State} {a : Word} (hmsg : s.msg = some (.service a)) (hc : (tget s.ctxs 0xFFF).isSome = true) :
    exec .serviceSubmission s =
      if goneOut s 0xFFF then .next { s with svcq := s.svcq ++ [(a, none)] } else .next (runService s a none) := by
  have hn : (tget s.ctxs 0xFFF).isNone = false := by simpa [← Option.not_isSome] using hc
  change execServiceSubmission s = _
  simp [execServiceSubmission, hmsg, hn]

/-- A service submission that needs no page of the firmware leaves its answer in the status (R24). -/
theorem runService_answers {s : State} {a : Word} (h : submitNeeds s 0xFFF a.toNat none = none) :
    runService s a none = let r := submitAt s 0xFFF true a.toNat none; { r.1 with svcStat := r.2.1 + 2 ^ 8 * r.2.2 } := by
  simp only [runService, h]

end Sys2Proof.Machine
end

section
/-! Requests of the management mailbox (R67, R68, Table 4.10). -/

namespace Sys2Proof.Machine

/-- The package once the OP word of the management mailbox is written. -/
def State.withOp (s : State) (op : Word) : State := { s with mgmt := { s.mgmt with op := op } }

/-- The OP word of the management mailbox is written, and starts a request: the mailbox is bound, idle and holds an address. -/
structure StartsRequest (s : State) (op : Word) : Prop where
  msg   : s.msg = some (.mailboxOp 64 op)
  stage : 3 ≤ s.stage
  idle  : s.mgmt.busy = false
  bound : s.mgmt.bound = true
  addr  : recaddrOk s.mgmt = true

section

variable {s : State} {op : Word} {start : State → MgmtReq → State} {again : State → MgmtReq → Option State}

/-- A request that starts reads its block; one that does not decode answers 3 (R67, log 45). -/
theorem StartsRequest.management_eq (h : StartsRequest s op) : management op.toNat start again s =
    .next ((readBlock (s.withOp op)).elim (mgmtAnswer (s.withOp op) 3) (start (s.withOp op))) := by
  have hc : (op.toNat != op.toNat || !bar0Open s || s.mgmt.busy || !s.mgmt.bound || !recaddrOk s.mgmt) = false := by
    simp [h.idle, h.bound, h.addr, (bar0Open_iff s).2 h.stage]
  unfold management
  rw [h.msg]
  show (if _ then _ else _) = _
  rw [if_neg (by rw [hc]; exact Bool.false_ne_true), ← h.msg]
  cases hr : readBlock (s.withOp op) <;> unfold State.withOp at hr <;> simp only [hr] <;> rfl

/-- A request whose block does not decode changes nothing but its mailbox. -/
theorem StartsRequest.unread {i : Instr} (h : StartsRequest s op) (he : exec i s = management op.toNat start again s)
    (hn : readBlock (s.withOp op) = none) : Quietly i s (mgmtAnswer (s.withOp op) 3) :=
  .of_mem (by rw [he, h.management_eq, hn]; rfl) rfl

/-- A request whose block decodes starts. -/
theorem StartsRequest.starts {i : Instr} (h : StartsRequest s op) (he : exec i s = management op.toNat start again s)
    {r : MgmtReq} (hr : readBlock (s.withOp op) = some r) : exec i s = .next (start (s.withOp op) r) := by
  rw [he, h.management_eq, hr]; rfl

/-- A request that has waited goes on (R67). -/
theorem management_goes_on {r : MgmtReq} {t : State} (hmsg : s.msg = none) (hop : s.mgmt.op = op) (hb : s.mgmt.busy = true)
    (hr : s.mgmtReq = some r) (ha : again s r = some t) : management op.toNat start again s = .next t := by
  subst hop
  unfold management
  simp [hmsg, hb, hr, ha]

end

/-- RECLAIM takes the lines of its leaves out of the L2 (R68). -/
theorem reclaimed_no_line {l2 : Tab (List L2Line)} {ls : List Leaf} {e : Nat × List L2Line} {y : L2Line} {l : Leaf}
    (he : e ∈ tmap (fun _ es => es.filter (fun y => !ls.any (fun l => l.holds y.line))) l2) (hy : y ∈ e.2) (hl : l ∈ ls) :
    l.holds y.line = false := by
  obtain ⟨e', -, rfl⟩ := List.mem_map.1 he
  have hn : ls.any (fun l => l.holds y.line) = false := by simpa using (List.mem_filter.1 hy).2
  simpa using List.any_eq_false.1 hn l hl

theorem mem_insertNat (x y : Nat) (l : List Nat) : y ∈ insertNat x l ↔ y = x ∨ y ∈ l := by
  induction l with
  | nil => simp [insertNat]
  | cons z r ih =>
    simp only [insertNat]
    split
    · simp
    · split
      · subst_vars; simp
      · simp only [List.mem_cons, ih]; tauto

/-- The frames of an EXPORT join those exported before (R67). -/
theorem mem_insertAll (fs es : List Nat) (f : Nat) : f ∈ fs.foldl (fun e f => insertNat f e) es ↔ f ∈ es ∨ f ∈ fs := by
  induction fs generalizing es with
  | nil => simp
  | cons x r ih => simp only [List.foldl_cons, ih, mem_insertNat, List.mem_cons]; tauto

/-! ### What each request does when its block decodes -/

/-- UNMAP: V of the leaves is cleared, and a TLBINV completes or is waited for (R68). -/
def unmapStart (s : State) (r : MgmtReq) : State :=
  let v := clearPages s r r.leaves
  if pagesQuiet v r then mgmtAnswer v 0 else mgmtWait v r

/-- UNMAP that has waited answers once its TLBINV has completed. -/
def unmapAgain (s : State) (r : MgmtReq) : Option State := if pagesQuiet s r then some (mgmtAnswer s 0) else none

/-- The first half of a MIGRATE that nothing refuses: its leaves are no longer valid, their pages migrate. -/
def migrateClear (s : State) (r : MgmtReq) : State :=
  let c := clearPages s r r.leaves
  { c with migrating := c.migrating ++ r.leaves.flatMap (Leaf.pages r.ctx) }

/-- A MIGRATE of movable leaves: its refusals in the model's order (log 45), then its first half. -/
def migrateMovable (s : State) (r : MgmtReq) : State :=
  if r.leaves.any (pinnedIn s) then mgmtAnswer s 0x11
  else if r.leaves.any (exportedIn s) then mgmtAnswer s 0x12
  else if r.leaves.any (cpygOpen s r.ctx) then mgmtAnswer s 0x10
  else if !newFramesOk r.new r.leaves then mgmtAnswer s 3
  else if pagesQuiet (migrateClear s r) r then mgmtAnswer (finishMigrate (migrateClear s r) r) 0
  else mgmtWait (migrateClear s r) r

/-- MIGRATE moves the leaves that it can move (R68). -/
def migrateStart (s : State) (r : MgmtReq) : State := migrateMovable s { r with leaves := r.leaves.filter movable }

/-- MIGRATE that has waited finishes once its TLBINV has completed. -/
def migrateAgain (s : State) (r : MgmtReq) : Option State :=
  if pagesQuiet s r then some (mgmtAnswer (finishMigrate s r) 0) else none

/-- RECLAIM: BUSY while a frame holds pinned lines, else the frames' lines leave the L2 (R68). -/
def reclaimStart (s : State) (r : MgmtReq) : State :=
  let ls := r.leaves.filter Leaf.isLocal
  if ls.any (pinnedIn s) then mgmtAnswer s 0x10
  else mgmtAnswer { s with l2 := tmap (fun _ es => es.filter (fun y => !ls.any (fun l => l.holds y.line))) s.l2 } 0

/-- EXPORT: the frames of valid pages join the exported ones (R67). -/
def exportStart (s : State) (r : MgmtReq) : State :=
  mgmtAnswer { s with exported := (framesOf r.leaves false).foldl (fun e f => insertNat f e) s.exported } 0

/-- UNEXPORT: the frames of pages, valid or not, leave the exported ones (R67). -/
def unexportStart (s : State) (r : MgmtReq) : State :=
  mgmtAnswer { s with exported := s.exported.filter (fun f => !(framesOf r.leaves true).contains f) } 0

theorem exec_unmap (s : State) : exec .unmap s = management (0x10 : Word).toNat unmapStart unmapAgain s := rfl
theorem exec_migrate (s : State) : exec .migrate s = management (0x11 : Word).toNat migrateStart migrateAgain s := rfl
theorem exec_reclaim (s : State) : exec .reclaim s = management (0x12 : Word).toNat reclaimStart noAgain s := rfl
theorem exec_exportFrames (s : State) : exec .exportFrames s = management (0x13 : Word).toNat exportStart noAgain s := rfl
theorem exec_unexportFrames (s : State) : exec .unexportFrames s = management (0x14 : Word).toNat unexportStart noAgain s := rfl

/-! ### MIGRATE's answers -/

section

variable {s : State} {r : MgmtReq}

theorem migrateMovable_pinned (hp : r.leaves.any (pinnedIn s) = true) : migrateMovable s r = mgmtAnswer s 0x11 := if_pos hp

theorem migrateMovable_exported (hp : r.leaves.any (pinnedIn s) = false) (he : r.leaves.any (exportedIn s) = true) :
    migrateMovable s r = mgmtAnswer s 0x12 := by
  simp only [migrateMovable, hp, he, Bool.false_eq_true, if_false, if_true]

theorem migrateMovable_open (hp : r.leaves.any (pinnedIn s) = false) (he : r.leaves.any (exportedIn s) = false)
    (hc : r.leaves.any (cpygOpen s r.ctx) = true) : migrateMovable s r = mgmtAnswer s 0x10 := by
  simp only [migrateMovable, hp, he, hc, Bool.false_eq_true, if_false, if_true]

theorem migrateMovable_clears (hp : r.leaves.any (pinnedIn s) = false) (he : r.leaves.any (exportedIn s) = false)
    (hc : r.leaves.any (cpygOpen s r.ctx) = false) (hn : newFramesOk r.new r.leaves = true) :
    migrateMovable s r = if pagesQuiet (migrateClear s r) r then mgmtAnswer (finishMigrate (migrateClear s r) r) 0
      else mgmtWait (migrateClear s r) r := by
  simp only [migrateMovable, hp, he, hc, hn, Bool.not_true, Bool.false_eq_true, if_false]

end

/-! ### RECLAIM, EXPORT and UNEXPORT -/

/-- RECLAIM of leaves of which one is pinned changes nothing but its answer (R68). -/
theorem reclaimStart_pinned {s : State} {r : MgmtReq} (hp : (r.leaves.filter Leaf.isLocal).any (pinnedIn s) = true) :
    reclaimStart s r = mgmtAnswer s 0x10 := if_pos hp

/-- RECLAIM of leaves of which none is pinned leaves no line of theirs in the L2 (R68). -/
theorem reclaimStart_free {s : State} {r : MgmtReq} (hp : (r.leaves.filter Leaf.isLocal).any (pinnedIn s) = false) :
    (reclaimStart s r).mem = s.mem ∧ (reclaimStart s r).mgmt.status = 0
      ∧ ∀ e ∈ (reclaimStart s r).l2, ∀ y ∈ e.2, ∀ l ∈ r.leaves.filter Leaf.isLocal, l.holds y.line = false := by
  simp only [reclaimStart, hp, Bool.false_eq_true, if_false]
  exact ⟨rfl, rfl, fun _ he _ hy _ hl => reclaimed_no_line he hy hl⟩

theorem exportStart_exported (s : State) (r : MgmtReq) (f : Nat) :
    f ∈ (exportStart s r).exported ↔ f ∈ s.exported ∨ f ∈ framesOf r.leaves false := mem_insertAll _ _ _

theorem unexportStart_exported (s : State) (r : MgmtReq) (f : Nat) :
    f ∈ (unexportStart s r).exported ↔ f ∈ s.exported ∧ f ∉ framesOf r.leaves true := by
  change f ∈ s.exported.filter (fun f => !(framesOf r.leaves true).contains f) ↔ _
  simp

end Sys2Proof.Machine
end

section
/-! The creation and the end of contexts (R60, R279, R380, R385). -/

namespace Sys2Proof.Machine

/-! ### What a context is created with -/

/-- Entries written one after another: a number holds the value that every write of it gives. -/
theorem tget_foldl_tset {α β : Type} (k : α → Nat) (f : α → β) (l : List α) (t : Tab β) (p : Nat) (v : β)
    (hv : ∀ x ∈ l, k x = p → f x = v) (h : (∃ x ∈ l, k x = p) ∨ tget t p = some v) :
    tget (l.foldl (fun t x => tset t (k x) (f x)) t) p = some v := by
  induction l generalizing t with
  | nil => simpa using h
  | cons a l ih =>
    refine ih (tset t (k a) (f a)) (fun x hx => hv x (by simp [hx])) ?_
    by_cases ha : k a = p
    · right
      rw [← ha, tget_tset_self, hv a (by simp) ha]
    · refine h.imp (fun ⟨x, hx, hk⟩ => ?_) (fun ht => (tget_tset_ne t _ (Ne.symm ha)).trans ht)
      rcases List.mem_cons.1 hx with rfl | hx
      · exact absurd hk ha
      · exact ⟨x, hx, hk⟩

theorem mem_livePeers {s : State} {p : Nat} : p ∈ livePeers s ↔ p < 16 ∧ nbit s.live p = true ∧ p ≠ s.pkgid := by
  simp [livePeers]

/-- The incarnation of a package that the firmware names is learnt (R380). -/
theorem learnIncs_peerInc (s : State) {incs : List (Nat × Nat)} {p v : Nat} (hp : ∃ x ∈ incs, x.1 = p)
    (hv : ∀ y ∈ incs, y.1 = p → y.2 = v) : tget (learnIncs s incs).peerInc p = some (v % 2 ^ 16) :=
  tget_foldl_tset (·.1) (fun x => x.2 % 2 ^ 16) incs s.peerInc p (v % 2 ^ 16) (fun y hy hk => by rw [hv y hy hk]) (.inl hp)

/-- What a context that is created holds: everything zero but the incarnations that it has seen and its mailbox (R60, R380). -/
def createdContext (s : State) (mailbox : Option Nat) : Context :=
  { Context.fresh with
    incseen := tset ((livePeers s).foldl (fun t p => tset t p (tgetD s.peerInc p 0)) []) s.pkgid s.inc, mailbox := mailbox }

theorem createdContext_peer {s : State} {p : Nat} (mailbox : Option Nat) (hp : p ∈ livePeers s) :
    tget (createdContext s mailbox).incseen p = some (tgetD s.peerInc p 0) :=
  (tget_tset_ne _ _ (mem_livePeers.1 hp).2.2).trans
    (tget_foldl_tset id (fun p => tgetD s.peerInc p 0) _ [] p _ (fun _ _ hk => hk ▸ rfl) (.inl ⟨p, hp, rfl⟩))

theorem createdContext_own (s : State) (mailbox : Option Nat) : tget (createdContext s mailbox).incseen s.pkgid = some s.inc :=
  tget_tset_self _ _ _

@[simp] theorem setMbox_ctxs (s : State) (m : Nat) (x : Mailbox) : (setMbox s m x).ctxs = s.ctxs := by
  unfold setMbox; split <;> rfl

theorem createContext_ctxs (s : State) (ctx : Nat) (mailbox : Option Nat) :
    (createContext s ctx mailbox).ctxs = tset s.ctxs ctx (createdContext s mailbox) := by
  cases mailbox
  · rfl
  · exact setMbox_ctxs _ _ _

theorem createContext_mem (s : State) (ctx : Nat) (mailbox : Option Nat) : (createContext s ctx mailbox).mem = s.mem := by
  cases mailbox
  · rfl
  · exact setMbox_mem _ _ _

/-- The mailbox that a context is created with is bound to it (R25). -/
theorem createContext_binds (s : State) (ctx m : Nat) :
    (mboxOf (createContext s ctx (some m)) m).bound = true ∧ (mboxOf (createContext s ctx (some m)) m).bind = ctx := by
  simp [createContext]

/-- A context that may be created is (R25, R380, R390). -/
theorem exec_contextCreate {s : State} {ctx m : Nat} {incs : List (Nat × Nat)} (hmsg : s.msg = some (.contextCreate ctx m incs))
    (hctx : ctx < 0xFFF) (hfree : tget s.ctxs ctx = none) (hstage : 3 ≤ s.stage) (hm : (mboxOf s m).bound = false ∨ 64 ≤ m)
    (hincs : ∀ p ∈ livePeers s, ∃ x ∈ incs, x.1 = p) (hgone : ∀ r ∈ s.reqs, r.kind = .gone → r.ctx ≠ ctx) :
    exec .contextCreate s = .next (createContext (learnIncs s incs) ctx (if m < 64 && 1 ≤ s.svclvl then some m else none)) := by
  have hfull : incsFull s incs = true := by simpa [incsFull] using hincs
  have hno : goneOut s ctx = false := Bool.eq_false_iff.2 fun h => by
    obtain ⟨r, hr, hk, hc⟩ := (goneOut_iff s ctx).1 h
    exact hgone r hr hk hc
  have hbound : ((mboxOf s m).bound && decide (m < 64)) = false := by
    rcases hm with h | h
    · simp [h]
    · simp [Nat.not_lt.2 h]
  change execContextCreate s = _
  simp [execContextCreate, hmsg, Nat.not_le.2 hctx, hfree, (bar0Open_iff s).2 hstage, hfull, hno, hbound]

/-! ### What the end of a context's launches leaves -/

/-- A package without its launches and what they have of cores, engines, walkers, translations and requests: what the end of
launches changes. -/
def State.sansLaunches (s : State) : State :=
  { s with teams := [], cores := [], engines := [], dies := [], ctxs := [], launches := [], served := [], head := none, images := [],
           preempting := [], rects := [], reqs := [] }

@[simp] theorem modLaunch_sansLaunches (s : State) (n : Nat) (f : Launch → Launch) :
    (modLaunch s n f).sansLaunches = s.sansLaunches := by
  unfold modLaunch; split <;> rfl

@[simp] theorem modTeam_sansLaunches (s : State) (k : Nat) (f : Team → Team) : (modTeam s k f).sansLaunches = s.sansLaunches := by
  unfold modTeam; split <;> rfl

theorem takeHead_sansLaunches (s : State) (p : Nat) : (takeHead s p).sansLaunches = s.sansLaunches := by
  simp only [takeHead]
  split
  · rfl
  · exact modLaunch_sansLaunches _ _ _

theorem settleHead_sansLaunches (s : State) : (settleHead s).sansLaunches = s.sansLaunches := by
  unfold settleHead
  split
  · rfl
  · split
    · exact takeHead_sansLaunches _ _
    · split
      · rfl
      · exact (takeHead_sansLaunches _ _).trans (modLaunch_sansLaunches _ _ _)

theorem settleTiles_sansLaunches (s : State) (q : Nat) : (settleTiles s q).sansLaunches = s.sansLaunches := by
  refine foldl_keeps State.sansLaunches _ (fun s core => ?_) _ _
  split
  · rfl
  · dsimp only
    split
    · rfl
    · exact modTeam_sansLaunches _ _ _

theorem dropLaunches_sansLaunches (s : State) (ctx : Nat) : (dropLaunches s ctx).sansLaunches = s.sansLaunches := by
  unfold dropLaunches
  rw [settleHead_sansLaunches, foldl_keeps State.sansLaunches _ (fun _ _ => settleTiles_sansLaunches _ _)]
  exact foldl_keeps State.sansLaunches (fun s c => liftTeam (forgetCore s c) c) (fun _ _ => rfl) _ _

/-! ### The notices of a context's end -/

theorem sendTo_only (s : State) (dst : Nat) (m : Message) : ∃ out, sendTo s dst m = { s with out := out } := by
  unfold sendTo; split
  · exact ⟨_, rfl⟩
  · exact ⟨s.out, rfl⟩

/-- A notice enters the requests, and a packet may leave. -/
theorem newReq_gone (s : State) (r : Req) (hk : r.kind = .gone) : ∃ r' out, newReq s r =
    { s with reqs := s.reqs ++ [r'], stamp := s.stamp + 1, out := out } ∧ r'.kind = .gone ∧ r'.owner = r.owner ∧ r'.ctx = r.ctx := by
  unfold newReq
  split
  · exact ⟨{ r with sends := 0 }, s.out, rfl, hk, rfl, rfl⟩
  · obtain ⟨out, h⟩ := sendTo_only { s with reqs := s.reqs ++ [r], stamp := s.stamp + 1 } r.owner
      (packetOf { s with reqs := s.reqs ++ [r], stamp := s.stamp + 1 } r)
    refine ⟨r, out, ?_, hk, rfl, rfl⟩
    rw [← h, sendReq, hk]

/-- A peer is told of the end of a context by a request that it acknowledges (R45, R279). -/
theorem notify_gone (s : State) (p ctx : Nat) : ∃ r out, notify s .gone p ctx 0 0 =
    { s with reqs := s.reqs ++ [r], stamp := s.stamp + 1, out := out } ∧ r.kind = .gone ∧ r.owner = p ∧ r.ctx = ctx :=
  newReq_gone s _ rfl

/-- Every peer of a list is told of the end of a context. -/
def notifyGone (s : State) (ps : List Nat) (ctx : Nat) : State := ps.foldl (fun s p => notify s .gone p ctx 0 0) s

/-- The notices of a context's end enter the requests, one for each peer, and nothing else changes but the packets sent. -/
theorem notifyGone_only (s : State) (ps : List Nat) (ctx : Nat) : ∃ rs stamp out, notifyGone s ps ctx =
    { s with reqs := s.reqs ++ rs, stamp := stamp, out := out } ∧ (∀ r ∈ rs, r.kind = .gone ∧ r.ctx = ctx)
      ∧ ∀ p ∈ ps, ∃ r ∈ rs, r.owner = p := by
  induction ps generalizing s with
  | nil => exact ⟨[], s.stamp, s.out, by simp [notifyGone], by simp, by simp⟩
  | cons p ps ih =>
    obtain ⟨r, out, h, hk, ho, hc⟩ := notify_gone s p ctx
    obtain ⟨rs, stamp, out', h', hrs, hps⟩ := ih { s with reqs := s.reqs ++ [r], stamp := s.stamp + 1, out := out }
    refine ⟨r :: rs, stamp, out', ?_, ?_, ?_⟩
    · rw [notifyGone, List.foldl_cons, h]
      exact h'.trans (by simp)
    · simpa [hk, hc] using hrs
    · intro q hq
      rcases List.mem_cons.1 hq with rfl | hq
      · exact ⟨r, by simp, ho⟩
      · obtain ⟨x, hx, hxo⟩ := hps q hq
        exact ⟨x, by simp [hx], hxo⟩

/-! ### The end of a context -/

/-- The mailbox of a context that ends is unbound, and what it waited for is dropped (R385, log 69). -/
def unbindMailbox (s : State) (mailbox : Option Nat) : State :=
  match mailbox with
  | some m => setMbox s m { mboxOf s m with bind := 0, bound := false, busy := false, kept := none }
  | none => s

/-- What a context holds in the hub goes with it (R385). -/
def releaseContext (s : State) (ctx : Nat) : State :=
  { s with
    ctxs := tdel s.ctxs ctx,
    l2 := tmap (fun _ es => es.map (fun y => if y.pin == some ctx then { y with pin := none } else y)) s.l2,
    cslots := s.cslots.filter (fun e => e.2.ctx != ctx),
    reqs := s.reqs.filter (fun r => r.ctx != ctx || r.kind == .abort || r.kind == .gone),
    winq := s.winq.filter (fun x => x.ctx != ctx), cposts := s.cposts.filter (fun p => p.ctx != ctx),
    hubFaults := s.hubFaults.filter (fun f => f.1 != ctx),
    dies := tmap (fun _ d => { d with misses := d.misses.filter (fun m => m.ctx != ctx) }) s.dies,
    migrating := s.migrating.filter (fun m => m.1 != ctx) }

/-- The package once the launches, the translations and the mailbox of a context are gone. -/
def strippedContext (s : State) (ctx : Nat) : State :=
  unbindMailbox (dropTranslations (dropLaunches s ctx) ⟨some ctx, 0, 2 ^ 56⟩) (ctxOf s ctx).mailbox

theorem destroyContext_eq (s : State) (ctx : Nat) : destroyContext s ctx =
    notifyGone (releaseContext (strippedContext s ctx) ctx) (livePeers (strippedContext s ctx)) ctx := rfl

theorem unbindMailbox_mem (s : State) (mb : Option Nat) : (unbindMailbox s mb).mem = s.mem := by
  cases mb
  · rfl
  · exact setMbox_mem _ _ _

theorem unbindMailbox_livePeers (s : State) (mb : Option Nat) : livePeers (unbindMailbox s mb) = livePeers s := by
  cases mb
  · rfl
  · simp only [unbindMailbox, setMbox]; split <;> rfl

theorem stripped_sansLaunches (s : State) (ctx : Nat) :
    (dropTranslations (dropLaunches s ctx) ⟨some ctx, 0, 2 ^ 56⟩).sansLaunches = s.sansLaunches :=
  dropLaunches_sansLaunches s ctx

theorem strippedContext_mem (s : State) (ctx : Nat) : (strippedContext s ctx).mem = s.mem := by
  have e := congrArg State.mem (stripped_sansLaunches s ctx)
  exact (unbindMailbox_mem _ _).trans e

theorem strippedContext_livePeers (s : State) (ctx : Nat) : livePeers (strippedContext s ctx) = livePeers s := by
  have e := congrArg livePeers (stripped_sansLaunches s ctx)
  exact (unbindMailbox_livePeers _ _).trans e

theorem strippedContext_mailbox {s : State} {ctx m : Nat} (h : (ctxOf s ctx).mailbox = some m) :
    (mboxOf (strippedContext s ctx) m).bound = false ∧ (mboxOf (strippedContext s ctx) m).busy = false := by
  simp [strippedContext, h, unbindMailbox]

/-- The end of a context: it is gone with its slots and requests, its mailbox is free, and every live peer is told (R279, R385). -/
theorem destroyContext_done (s : State) (ctx : Nat) : let t := destroyContext s ctx
    t.mem = s.mem ∧ tget t.ctxs ctx = none ∧ (∀ e ∈ t.cslots, e.2.ctx ≠ ctx)
      ∧ (∀ r ∈ t.reqs, r.ctx = ctx → r.kind = .abort ∨ r.kind = .gone)
      ∧ (∀ p ∈ livePeers s, ∃ r ∈ t.reqs, r.kind = .gone ∧ r.owner = p ∧ r.ctx = ctx)
      ∧ (∀ m, (ctxOf s ctx).mailbox = some m → (mboxOf t m).bound = false ∧ (mboxOf t m).busy = false) := by
  obtain ⟨rs, stamp, out, h, hrs, hps⟩ := notifyGone_only (releaseContext (strippedContext s ctx) ctx) (livePeers (strippedContext s ctx)) ctx
  rw [← destroyContext_eq] at h
  intro t
  have ht : t = _ := h
  rw [ht]
  refine ⟨strippedContext_mem s ctx, by simp [releaseContext, tget_tdel], ?_, ?_, ?_, fun m hm => strippedContext_mailbox hm⟩
  · intro e he
    simpa using (List.mem_filter.1 he).2
  · intro r hr hc
    rcases List.mem_append.1 hr with hr | hr
    · simpa [hc] using (List.mem_filter.1 hr).2
    · exact .inr (hrs r hr).1
  · intro p hp
    obtain ⟨r, hr, ho⟩ := hps p (strippedContext_livePeers s ctx ▸ hp)
    exact ⟨r, List.mem_append_right _ hr, (hrs r hr).1, ho, (hrs r hr).2⟩

theorem exec_contextDestroy {s : State} {ctx : Nat} (hmsg : s.msg = some (.contextDestroy ctx)) (hctx : ctx < 0xFFF)
    (hc : (tget s.ctxs ctx).isSome = true) : exec .contextDestroy s = .next (destroyContext s ctx) := by
  change execContextDestroy s = _
  simp [execContextDestroy, hmsg, hctx, hc]

end Sys2Proof.Machine
end

section
/-! The firmware's answers about pages of the hub and of dictionaries (R14, R26, R323). -/

namespace Sys2Proof.Machine

theorem runPosts_none {s : State} {ctx : Nat} (h : ∀ p ∈ s.cposts, p.ctx ≠ ctx) :
    runPosts s ctx = { s with cposts := s.cposts.filter (fun p => p.ctx != ctx) } := by
  have he : s.cposts.filter (fun p => p.ctx == ctx) = [] := List.filter_eq_nil_iff.2 (fun p hp => by simpa using h p hp)
  rw [runPosts, he]; rfl

/-- The firmware has mapped a page of the hub: its cells are written, and the page is no longer asked for (R26, R323). -/
theorem hubResolved_found {s : State} {ctx page : Nat} (writes : List Host.Cell) (hp : ∀ p ∈ s.cposts, p.ctx ≠ ctx) :
    (ctx, page, false) ∉ (hubResolved s ctx page true writes).hubFaults
      ∧ (hubResolved s ctx page true writes).mem = memPatch s.mem writes := by
  have posts := cposts_of_sansMemory (firmwareWrites_sansMemory { s with hubFaults := s.hubFaults.filter (· != (ctx, page, false)) } writes)
  have faults := hubFaults_of_sansMemory (firmwareWrites_sansMemory { s with hubFaults := s.hubFaults.filter (· != (ctx, page, false)) } writes)
  rw [hubResolved, runPosts_none (by simpa [posts] using hp)]
  simp [faults]

theorem exec_hubResolved {s : State} {ctx page : Nat} {found : Bool} {writes : List Host.Cell}
    (hmsg : s.msg = some (.hubResolved ctx page found writes)) (hf : s.hubFaults.contains (ctx, page, false) = true) :
    exec .pageFaultResolved s = .next (hubResolved s ctx page found writes) := by
  change execPageFaultResolved s = _
  simp only [execPageFaultResolved, hmsg, hf, if_true]

theorem exec_dictResolved {s : State} {n : Nat} {found : Bool} {writes : List Host.Cell} {l : Launch}
    (hmsg : s.msg = some (.dictResolved n found writes)) (hl : launchAt s n = some l) (hw : l.dictWait = true) :
    exec .pageFaultResolved s = .next (dictResolved s n found writes) := by
  change execPageFaultResolved s = _
  simp [execPageFaultResolved, hmsg, hl, hw]

end Sys2Proof.Machine
end

section
/-! The requests at the hub together. -/

namespace Sys2Proof.Machine

/-- Settles O52: each request by the lemmas about its event. -/
theorem hubRequests : Obligations.HubRequests := by
  unfold Obligations.HubRequests
  refine ⟨?mailbox, fun _ _ _ => ⟨rfl, rfl, rfl, rfl, rfl, rfl, rfl, rfl, rfl⟩, fun _ _ _ _ => rfl,
    fun _ _ svc _ _ hr hn hc => submit_accepted svc hr hn hc, fun _ _ svc _ hr => submit_rejected svc hr,
    fun _ _ svc _ hr hf => submit_full svc hr hf, fun _ _ hmsg hm hs => .of_mem (exec_donebitClear hmsg hm hs) rfl,
    ?serviceWaits, ?service, ?management, ?goesOn, ?create, ?destroy, ?hubPage, ?dictPage⟩
  case mailbox =>
    intro s m op hmsg hm hs x y
    refine ⟨fun hb => .of_mem ((exec_mailboxOp hmsg hm hs).trans (if_pos hb)) rfl,
      fun hb h => .of_mem (mailboxOp_invalid hmsg hm hs hb h) rfl, ?_⟩
    intro hb hbound hop hrec u
    have run := mailboxOp_submit hmsg hm hs hb hbound hop hrec
    have hy : mboxOf u m = y := by
      have e := mboxOf_setMbox s m y
      rwa [setMbox_lt s hm] at e
    exact ⟨fun a ha => run.trans (congrArg _ (runSubmit_waits hm hy ha)), fun hn => run.trans (congrArg _ (runSubmit_answers hm hy hn))⟩
  case serviceWaits =>
    intro s a hmsg hc hg
    exact .of_mem ((exec_service hmsg hc).trans (if_pos ((goneOut_iff s 0xFFF).2 hg))) rfl
  case service =>
    intro s a hmsg hc hg hn
    have hno : ¬ goneOut s 0xFFF = true := fun h => by
      obtain ⟨r, hr, hk, hctx⟩ := (goneOut_iff s 0xFFF).1 h
      exact hg r hr hk hctx
    exact (exec_service hmsg hc).trans ((if_neg hno).trans (congrArg _ (runService_answers hn)))
  case management =>
    intro s op hmsg hs hb hbound hrec u answers
    have h : StartsRequest s op := ⟨hmsg, hs, hb, hbound, hrec⟩
    constructor
    · intro hn
      refine ⟨?_, ?_, ?_, ?_, ?_⟩ <;> rintro rfl
      · exact h.unread (exec_unmap s) hn
      · exact h.unread (exec_migrate s) hn
      · exact h.unread (exec_reclaim s) hn
      · exact h.unread (exec_exportFrames s) hn
      · exact h.unread (exec_unexportFrames s) hn
    · intro r hr wait
      refine ⟨?_, ?_, ?_, ?_, ?_⟩ <;> rintro rfl
      · exact h.starts (exec_unmap s) hr
      · have start {t : State} (ht : migrateStart u r = t) : exec .migrate s = .next t := (h.starts (exec_migrate s) hr).trans (congrArg _ ht)
        exact ⟨fun hp => .of_mem (start (migrateMovable_pinned hp)) rfl, fun hp he => .of_mem (start (migrateMovable_exported hp he)) rfl,
          fun hp he => ⟨fun hc => .of_mem (start (migrateMovable_open hp he hc)) rfl, fun hc hn => start (migrateMovable_clears hp he hc hn)⟩⟩
      · have start := h.starts (exec_reclaim s) hr
        refine ⟨fun hp => .of_mem (start.trans (congrArg _ (reclaimStart_pinned hp))) rfl, fun hp => ?_⟩
        obtain ⟨hmem, hst, hl2⟩ := reclaimStart_free hp
        exact ⟨_, .of_mem start hmem, hst, hl2⟩
      · exact ⟨_, .of_mem (h.starts (exec_exportFrames s) hr) rfl, rfl, exportStart_exported u r⟩
      · exact ⟨_, .of_mem (h.starts (exec_unexportFrames s) hr) rfl, rfl, unexportStart_exported u r⟩
  case goesOn =>
    intro s r hmsg hb hr hq answers
    exact ⟨fun hop => (exec_unmap s).trans (management_goes_on hmsg hop hb hr (if_pos hq)),
      fun hop => (exec_migrate s).trans (management_goes_on hmsg hop hb hr (if_pos hq))⟩
  case create =>
    intro s ctx m incs hmsg hctx hfree hs hm hincs hgone
    refine ⟨_, createdContext (learnIncs s incs) (if m < 64 && 1 ≤ s.svclvl then some m else none),
      .of_mem (exec_contextCreate hmsg hctx hfree hs hm hincs hgone) (createContext_mem ..), ?_, rfl, ?_, createdContext_own .., ?_⟩
    · rw [createContext_ctxs, tget_tset_self]
    · intro p hp v hv
      rw [createdContext_peer _ (s := learnIncs s incs) hp, tgetD, learnIncs_peerInc s (hincs p hp) hv]; rfl
    · intro hm64 hsvc
      simp only [hm64, hsvc, decide_true, Bool.and_self, if_true]
      exact createContext_binds _ ctx m
  case destroy =>
    intro s ctx hmsg hctx hc
    obtain ⟨hmem, hdone⟩ := destroyContext_done s ctx
    exact ⟨_, .of_mem (exec_contextDestroy hmsg hctx hc) hmem, hdone⟩
  case hubPage =>
    intro s ctx page writes hmsg hf hp
    obtain ⟨hgone, hmem⟩ := hubResolved_found (page := page) writes hp
    exact ⟨_, exec_hubResolved hmsg hf, hgone, fun a => congrArg (memByte · a) hmem⟩
  case dictPage =>
    intro s n writes l hmsg hl hw
    exact .of_mem (exec_dictResolved hmsg hl hw) (modLaunch_mem ..)

end Sys2Proof.Machine
end

section
/-! Writes of CSRs (R354). -/

namespace Sys2Proof.Machine

/-! ### CSRW and CSRX -/

/-- No CSR instruction parks its group, with a result or without. -/
theorem issueCsr_blocking (w : LongWord) (pre : Ic → Option TrapInfo) : (issueCsr w pre).blocking = false := by
  unfold issueCsr; split <;> rfl

/-- The result of a CSR read transfers no lane. -/
theorem csrResult_xfer (c : Ic) (s : State) : (csrResult c s).xfer = [] := by
  unfold csrResult; split <;> rfl

/-- Nothing follows the retirement of a CSR read. -/
theorem csrResult_post (c : Ic) (s t : State) : (csrResult c s).post t = t := by
  unfold csrResult; split <;> rfl

/-- The shape of CSRW (Table 21.6). -/
abbrev shapeCsrw (w : LongWord) : Shape := shapeCsr w (w.sub6 == 0#6) .unused (.src 1) true

section

variable {s : State} {w : LongWord} {c : Ic}

/-- What a CSR instruction that is offered writes comes from its own field A. -/
theorem Offered.csrSrc_eq {sh : Shape} {k : Issue} (o : Offered s w sh k c) : csrSrc c = c.rd (c.en.headD 0) w.a := by
  rw [csrSrc, o.word]

/-- CSRW of an accepted value: the CSR takes it, and the instruction retires. -/
theorem exec_csrw_accepted {s' : State} (h : offer s w (shapeCsrw w) { pre := csrPriv } = .ok c)
    (hw : csrWrite c (csrNo w) (c.rd (c.en.headD 0) w.a) = .ok s') :
    exec (.csrw w) s = .next (retire s' c.core c.grp c.pc c.next c.act [] w.s) := by
  refine (issue_ok h _).trans ?_
  simp only [(offer_ok h).csrSrc_eq, hw, Bool.not_false, Bool.and_true]
  rfl

/-- CSRW of a refused value: the trap, and nothing else. -/
theorem exec_csrw_refused {x : TrapInfo} (h : offer s w (shapeCsrw w) { pre := csrPriv } = .ok c)
    (hw : csrWrite c (csrNo w) (c.rd (c.en.headD 0) w.a) = .error (.trap x)) :
    exec (.csrw w) s = .next (takeTrap c.s c.core c.grp x c.pc c.pc false false c.act) := by
  refine (issue_ok h _).trans ?_
  simp only [(offer_ok h).csrSrc_eq, hw]
  rfl

variable {sub : Bool} (h : offer s w (shapeCsr w sub (.dst 1) (.src 1) true) (issueCsr w csrPriv) = .ok c) (new : Word → Word → Word)

include h

/-- CSRX of an accepted value: the CSR takes it, and D gets what CSRR reads. -/
theorem csrExchange_accepted {s' : State}
    (hw : csrWrite c (csrNo w) (new (csrRead c (csrNo w) (c.en.headD 0)) (c.rd (c.en.headD 0) w.a)) = .ok s') :
    csrExchange w sub new s = .next (retire (csrResult c s').st c.core c.grp c.pc c.next c.act [] w.s) := by
  refine (issue_ok h _).trans ?_
  simp only [(offer_ok h).csrSrc_eq, hw, issueCsr_blocking, Bool.not_false, Bool.and_true]
  exact congrArg Host.Outcome.next ((csrResult_post _ _ _).trans (by rw [csrResult_xfer]))

/-- CSRX of a refused value: the trap, and nothing else. -/
theorem csrExchange_refused {x : TrapInfo}
    (hw : csrWrite c (csrNo w) (new (csrRead c (csrNo w) (c.en.headD 0)) (c.rd (c.en.headD 0) w.a)) = .error (.trap x)) :
    csrExchange w sub new s = .next (takeTrap c.s c.core c.grp x c.pc c.pc false false c.act) := by
  refine (issue_ok h _).trans ?_
  simp only [(offer_ok h).csrSrc_eq, hw]
  rfl

/-- An instruction that exchanges a CSR completes when the CSR accepts the value, and traps when it refuses it with EILL. -/
theorem csrx_completes {i : Instr} (hi : exec i s = csrExchange w sub new s) :
    (∀ s', csrWrite c (csrNo w) (new (csrRead c (csrNo w) (c.en.headD 0)) (c.rd (c.en.headD 0) w.a)) = .ok s' →
      ∃ t, exec i s = .next t ∧ t = retire (if csrLong (csrNo w) then longResult { c with s := s' } (csrSeen c)
        else shortResult { c with s := s' } (csrSeen c)).st c.core c.grp c.pc c.next c.act [] w.s)
    ∧ (csrWrite c (csrNo w) (new (csrRead c (csrNo w) (c.en.headD 0)) (c.rd (c.en.headD 0) w.a)) = .error (.trap ⟨0x01, 0, 0x0F⟩) →
        exec i s = .next (takeTrap c.s c.core c.grp ⟨0x01, 0, 0x0F⟩ c.pc c.pc false false c.act)) :=
  ⟨fun s' hw => ⟨_, hi.trans (csrExchange_accepted h new hw), by rw [csrResult, (offer_ok h).word]⟩,
    fun hw => hi.trans (csrExchange_refused h new hw)⟩

end

theorem csrPriv_eq (c : Ic) : csrPriv c =
    if csrAccess (csrNo c.w) = some .rp ∧ c.svc = false then some ⟨0x02, 0, word (2 ^ 16 * csrNo c.w)⟩ else none := by
  simp [csrPriv]

/-- The claim about CSRW and CSRX, each by whether its CSR accepts the value. -/
theorem csrWrites : Claims.CsrWrites := by
  unfold Claims.CsrWrites
  refine ⟨fun _ _ _ _ h hw => exec_csrw_accepted h hw, fun _ _ _ h hw => exec_csrw_refused h hw, fun w s c h => ?swap,
    fun w s c h => ?set, fun w s c h => ?clr, csrPriv_eq⟩
  case swap => exact csrx_completes h (fun _ x => x) rfl
  case set => exact csrx_completes h (fun o x => o ||| x) rfl
  case clr => exact csrx_completes h (fun o x => o &&& ~~~x) rfl

end Sys2Proof.Machine
end

section
/-! The rows of the registers' writes, the count of an eye, and a host's write of RECADDR (R25, R101, R393). -/

namespace Sys2Proof.Machine

/-! ### A row at the cursor -/

/-- The event `i` runs the CSRW or CSRX at the cursor of a CSR that `p` names as that instruction itself, and a CSRW that is
offered and accepted completes. -/
def RunsWrites (i : Instr) (s : State) (p : Nat → Prop) : Prop := ∀ w u, p (csrNo w) →
  (fetchGroup s s.iss.core s.iss.grp = some (.ok (.csrw w, u)) → exec i s = exec (.csrw w) u
    ∧ ∀ c s', offer u w (shapeCsrw w) { pre := csrPriv } = .ok c → csrWrite c (csrNo w) (c.rd (c.en.headD 0) w.a) = .ok s' →
        exec i s = .next (retire s' c.core c.grp c.pc c.next c.act [] w.s))
  ∧ (fetchGroup s s.iss.core s.iss.grp = some (.ok (.csrxSwap w, u)) → exec i s = exec (.csrxSwap w) u)
  ∧ (fetchGroup s s.iss.core s.iss.grp = some (.ok (.csrxSet w, u)) → exec i s = exec (.csrxSet w) u)
  ∧ (fetchGroup s s.iss.core s.iss.grp = some (.ok (.csrxClr w, u)) → exec i s = exec (.csrxClr w) u)

/-- A row runs a CSRW at the cursor of a CSR that is its own. -/
theorem writeRow_csrw {s u : State} {w : LongWord} {b : Nat → Bool} (hb : b (csrNo w) = true)
    (hf : fetchGroup s s.iss.core s.iss.grp = some (.ok (.csrw w, u))) : writeRow b s = exec (.csrw w) u := by
  rw [writeRow, hf]; exact if_pos hb

/-- An event that is the row of at least the CSRs of `p` runs their writes. -/
theorem runsWrites_of_row {i : Instr} {s : State} {b : Nat → Bool} {p : Nat → Prop} (hi : exec i s = writeRow b s)
    (hp : ∀ n, p n → b n = true) : RunsWrites i s p := by
  intro w u hn
  have hb := hp _ hn
  refine ⟨fun hf => ?_, fun hf => ?_, fun hf => ?_, fun hf => ?_⟩
  · have hrun := hi.trans (writeRow_csrw hb hf)
    exact ⟨hrun, fun c s' h hw => hrun.trans (exec_csrw_accepted h hw)⟩
  all_goals
    rw [hi, writeRow, hf]
    exact if_pos hb

/-- The row of one CSR runs the writes of that CSR. -/
theorem runsWrites_of_row_one {i : Instr} {s : State} {n : Nat} (hi : exec i s = writeRow (· == n) s) : RunsWrites i s (· = n) :=
  runsWrites_of_row hi fun _ h => beq_iff_eq.2 h

/-- REGISTER_WRITE without a message is a row like the others (R101). -/
theorem exec_registerWrite_row {s : State} (h : s.msg = none) : exec .registerWrite s =
    writeRow (fun n => !([0x010, 0x021, 0x043, 0x046, 0x0A0].contains n || (0x080 ≤ n && n ≤ 0x083))) s := by
  change execRegisterWrite s = _
  rw [execRegisterWrite, h]

theorem translationCsrWrite_runs (s : State) : RunsWrites .translationCsrWrite s (fun n => 0x080 ≤ n ∧ n ≤ 0x083) :=
  runsWrites_of_row (b := fun n => 0x080 ≤ n && n ≤ 0x083) rfl fun n h => by simpa using h

theorem registerWrite_runs {s : State} (h : s.msg = none) :
    RunsWrites .registerWrite s (fun n => n ∉ [0x010, 0x021, 0x043, 0x046, 0x0A0] ∧ ¬ (0x080 ≤ n ∧ n ≤ 0x083)) :=
  runsWrites_of_row (exec_registerWrite_row h) fun n h => by simpa [imp_iff_not_or] using h

/-! ### The count of an eye (R393) -/

@[simp] theorem retire_meye (s : State) (core grp : Nat) (pc next : Word) (act : List Nat) (xfer : List (Nat × Word)) (park : Bool) :
    (retire s core grp pc next act xfer park).meye = s.meye := modGroup_meye ..

/-- A write of MEYE that leaves START set and DONE clear starts a count. -/
theorem exec_meyeStart {s t : State} (h : writeRow (· == 0x0CB) s = .next t) (hs : nbit t.meye.toNat 24 = true)
    (hd : nbit t.meye.toNat 25 = false) : exec .meyeStart s = .next t := by
  change execMeyeStart s = _
  simp [execMeyeStart, h, hs, hd]

/-- The end of a count sets DONE, beside ERRS. -/
theorem exec_meyeCountDone {s : State} (hs : nbit s.meye.toNat 24 = true) (hd : nbit s.meye.toNat 25 = false) :
    exec .meyeCountDone s = .next { s with
      free := s.free + 1, meye := s.meye + word (2 ^ 25 + 2 ^ 32 * (Config.outcome s.free % (2 ^ 20 + 1))) } := by
  change execMeyeCountDone s = _
  simp [execMeyeCountDone, hs, hd]

/-- DONE and ERRS come into a word without DONE: DONE is set, and the fields below it stay. -/
theorem meye_done {x : Word} (h : nbit x.toNat 25 = false) (e : Nat) :
    nbit (x + word (2 ^ 25 + 2 ^ 32 * e)).toNat 25 = true
      ∧ (x + word (2 ^ 25 + 2 ^ 32 * e)).toNat % 2 ^ 25 = x.toNat % 2 ^ 25 := by
  simp only [nbit, beq_eq_false_iff_ne, beq_iff_eq, word, BitVec.toNat_add, BitVec.toNat_ofNat] at h ⊢
  omega

/-! ### A host's write of RECADDR (R25) -/

/-- Once stage 2 is complete a host's write of a mailbox's RECADDR is ignored while BUSY, and takes effect otherwise. -/
theorem exec_registerWrite_recaddr {s : State} {m : Nat} {v : Word} (hmsg : s.msg = some (.mailboxRecaddr m v)) (hm : m < 64)
    (hstage : 3 ≤ s.stage) {x : Mailbox} (hx : tgetD s.mboxes m Mailbox.reset = x) :
    exec .registerWrite s = .next (if x.busy then s else { s with mboxes := tset s.mboxes m { x with recaddr := v } }) := by
  change execRegisterWrite s = _
  simp [execRegisterWrite, hmsg, Nat.ne_of_lt hm, Nat.not_lt.2 (Nat.le_of_lt hm), Nat.not_lt.2 hstage, hx]

/-! ### The rows together -/

/-- The claim about the rows: each runs the write that stands at the cursor, and the other two events by their own lemmas. -/
theorem registerWrites : Claims.RegisterWrites := by
  unfold Claims.RegisterWrites
  refine ⟨fun _ => runsWrites_of_row_one rfl, fun _ => runsWrites_of_row_one rfl, fun _ => runsWrites_of_row_one rfl,
    fun _ => runsWrites_of_row_one rfl, fun _ => runsWrites_of_row_one rfl, translationCsrWrite_runs,
    fun _ => registerWrite_runs, ?start, ?done, ?recaddr⟩
  case start =>
    intro s w u c s' hf hn h hw hs hd
    have hrow := writeRow_csrw (b := (· == 0x0CB)) (beq_iff_eq.2 hn) hf
    exact exec_meyeStart (hrow.trans (exec_csrw_accepted h hw)) (by simpa using hs) (by simpa using hd)
  case done =>
    intro s hs hd
    obtain ⟨hdone, hlow⟩ := meye_done hd (Config.outcome s.free % (2 ^ 20 + 1))
    exact ⟨_, .of_mem (exec_meyeCountDone hs hd) rfl, hdone, hlow, rfl⟩
  case recaddr =>
    intro s m v hmsg hm hstage x
    have e := exec_registerWrite_recaddr hmsg hm hstage (x := x) rfl
    exact ⟨fun hb => .of_mem (e.trans (by rw [hb]; rfl)) rfl, fun hb => .of_mem (e.trans (by rw [hb]; rfl)) rfl⟩

/-- Settles O37: the writes by what their CSR accepts, and the rows by the write that each runs. -/
theorem csrWritesAndBar0 : Obligations.CsrWritesAndBar0 := ⟨csrWrites, registerWrites⟩

end Sys2Proof.Machine
end

section
/-! Every step keeps memory in its canonical form (R51, R52): which operations leave memory as it is, what keeps the form of it
where it is written, and the step that is assembled from them. -/

namespace Sys2Proof.Machine

/-! ### Operations that leave memory as it is -/

@[simp] theorem logEvent_mem (s : State) (pa event struct die : Nat) (hub : Bool) (unit : Nat) :
    (logEvent s pa event struct die hub unit).mem = s.mem := by
  unfold logEvent; split <;> rfl

@[simp] theorem logLost_mem (s : State) (struct core : Nat) : (logLost s struct core).mem = s.mem := by simp [logLost]

@[simp] theorem logViolation_mem (s : State) (pa : Nat) : (logViolation s pa).mem = s.mem := by simp [logViolation]

@[simp] theorem l2Touch_mem (s : State) (pa cp wp : Nat) (write : Bool) : (l2Touch s pa cp wp write).mem = s.mem := rfl

@[simp] theorem l2TouchAll_mem (s : State) (pa n cp wp : Nat) (write : Bool) : (l2TouchAll s pa n cp wp write).mem = s.mem :=
  foldl_keeps State.mem (fun s l => l2Touch s (128 * l) cp wp write) (fun _ _ => rfl) _ _

@[simp] theorem l1Take_mem (s : State) (core grp line mark : Nat) : (l1Take s core grp line mark).mem = s.mem := by simp [l1Take]

@[simp] theorem appendRt_mem (s : State) (struct die unit row : Nat) : (appendRt s struct die unit row).mem = s.mem := by
  unfold appendRt; split <;> rfl

@[simp] theorem bumpSecnt_mem (s : State) (lo w : Nat) : (bumpSecnt s lo w).mem = s.mem := rfl

/-- A correction, and the disabling of its unit where that leaves memory, leave memory. -/
theorem countCorrection_mem {disable : State → State} (h : ∀ s, (disable s).mem = s.mem) (s : State)
    (addr struct die unit inst key row : Nat) : (countCorrection s addr struct die unit inst key row disable).mem = s.mem := by
  simp only [countCorrection]
  (repeat' split) <;> simp [h]

@[simp] theorem disableSlice_mem (die slice : Nat) (s : State) : (disableSlice die slice s).mem = s.mem := rfl

@[simp] theorem poisonSector_mem (s : State) (sec : Nat) (l2 : Bool) : (poisonSector s sec l2).mem = s.mem := rfl

@[simp] theorem correctHbm_mem (s : State) (pa : Nat) : (correctHbm s pa).mem = s.mem :=
  countCorrection_mem (disableSlice_mem _ _) ..

@[simp] theorem meetUpset_mem (s : State) (sec : Nat) : (meetUpset s sec).mem = s.mem := by
  unfold meetUpset; split <;> simp

@[simp] theorem meetUpsets_mem (s : State) (pa n : Nat) : (meetUpsets s pa n).mem = s.mem := by
  simp only [meetUpsets]
  split <;> simp [foldl_keeps State.mem]

@[simp] theorem applyInval_mem (s : State) (p : Nat × Nat) : (applyInval s p).mem = s.mem := rfl

@[simp] theorem l1Refresh_mem (s : State) (core pa n : Nat) : (l1Refresh s core pa n).mem = s.mem := by simp [l1Refresh]

@[simp] theorem l1DropRange_mem (s : State) (core pa n : Nat) : (l1DropRange s core pa n).mem = s.mem := by simp [l1DropRange]

@[simp] theorem l1Clear_mem (s : State) (core : Nat) : (l1Clear s core).mem = s.mem := by simp [l1Clear]

@[simp] theorem cachedRead_mem (s : State) (core ctx grp : Nat) (o : Ord) (retain : Bool) (x : Xl) (va n : Nat) :
    (cachedRead s core ctx grp o retain x va n).1.mem = s.mem := by
  simp only [cachedRead]
  (repeat' split) <;> simp

@[simp] theorem addMarks_mem (s : State) (core rank stamp : Nat) (ws : List (Nat × Nat × Nat)) :
    (addMarks s core rank stamp ws).mem = s.mem := by
  unfold addMarks; split <;> rfl

@[simp] theorem keepOlds_mem (s : State) (ps : List (Nat × Nat)) : (keepOlds s ps).mem = s.mem := rfl

@[simp] theorem latchErr_mem (s : State) (core grp cause kind : Nat) (addr info : Word) :
    (latchErr s core grp cause kind addr info).mem = s.mem := by
  simp [latchErr]

@[simp] theorem finishEntry_mem (s : State) (core : Nat) (e : OttEntry) : (finishEntry s core e).mem = s.mem := by
  simp only [finishEntry]
  split <;> simp

@[simp] theorem putEntry_mem (s : State) (core : Nat) (e : OttEntry) : (putEntry s core e).mem = s.mem := by simp [putEntry]

@[simp] theorem settle_mem (s : State) (core : Nat) (e : OttEntry) : (settle s core e).mem = s.mem := by
  unfold settle; split <;> simp

@[simp] theorem sendTo_mem (s : State) (dst : Nat) (m : Message) : (sendTo s dst m).mem = s.mem := by unfold sendTo; split <;> rfl

@[simp] theorem relayPacket_mem (s : State) (dst : Nat) (m : Message) : (relayPacket s dst m).mem = s.mem := by
  unfold relayPacket; split <;> rfl

@[simp] theorem sendReq_mem (s : State) (r : Req) : (sendReq s r).mem = s.mem := by
  unfold sendReq; split <;> simp

@[simp] theorem heldReq_mem (s : State) (r : Req) : (heldReq s r).mem = s.mem := rfl

@[simp] theorem newReq_mem (s : State) (r : Req) : (newReq s r).mem = s.mem := by
  unfold newReq; split <;> simp

@[simp] theorem notify_mem (s : State) (kind : ReqKind) (owner ctx slot : Nat) (seq : BitVec 32) :
    (notify s kind owner ctx slot seq).mem = s.mem := by
  simp [notify]

@[simp] theorem takeSerial_mem (s : State) (ctx stream owner : Nat) : (takeSerial s ctx stream owner).1.mem = s.mem := by simp [takeSerial]

@[simp] theorem retireSerial_mem (s : State) (r : Req) : (retireSerial s r).mem = s.mem := by simp [retireSerial]

@[simp] theorem noteUnits_mem (s : State) (space off n : Nat) : (noteUnits s space off n).mem = s.mem := by
  simp only [noteUnits]
  split <;> simp

@[simp] theorem spadWrite_mem (s : State) (core off : Nat) (bs : List Byte) : (spadWrite s core off bs).mem = s.mem := by simp [spadWrite]

@[simp] theorem sendRecords_mem (s : State) (ctx n : Nat) : (sendRecords s ctx n).mem = s.mem := by
  induction n generalizing s with
  | zero => rfl
  | succ n ih =>
    simp only [sendRecords]
    repeat' split
    all_goals simp [ih]

@[simp] theorem latchHeld_mem (s : State) (core grp cause kind : Nat) (addr info : Word) :
    (latchHeld s core grp cause kind addr info).mem = s.mem := by
  unfold latchHeld; split <;> simp

@[simp] theorem dropRecords_mem (s : State) (ctx : Nat) : (dropRecords s ctx).mem = s.mem := rfl

@[simp] theorem seedResult_mem (s : State) (ctx flags : Nat) : (seedResult s ctx flags).mem = s.mem := by
  simp only [seedResult]
  (repeat' split) <;> simp

@[simp] theorem gateLost_mem (s : State) (ctx : Nat) : (gateLost s ctx).mem = s.mem := by
  unfold gateLost; split <;> simp

@[simp] theorem coverSyncs_mem (s : State) (ctx : Nat) : (coverSyncs s ctx).mem = s.mem := rfl

@[simp] theorem noPartner_mem (s : State) (ctx peer : Nat) : (noPartner s ctx peer).mem = s.mem := by simp [noPartner]

@[simp] theorem touchAt_mem (s : State) (ctx va n : Nat) (write : Bool) : (touchAt s ctx va n write).mem = s.mem := by
  simp only [touchAt]
  (repeat' split) <;> simp

@[simp] theorem askFirmware_mem (s : State) (ctx va : Nat) : (askFirmware s ctx va).mem = s.mem := rfl

@[simp] theorem dropTold_mem (s : State) (ctx : Nat) (vas : List Nat) : (dropTold s ctx vas).mem = s.mem := rfl

@[simp] theorem touchDeps_mem (s : State) (l : Launch) : (touchDeps s l).mem = s.mem := by
  simp [touchDeps, foldl_keeps State.mem, apply_ite State.mem]

@[simp] theorem takeHead_mem (s : State) (p : Nat) : (takeHead s p).mem = s.mem := by
  simp only [takeHead]
  split <;> simp

@[simp] theorem settleHead_mem (s : State) : (settleHead s).mem = s.mem := by
  simp only [settleHead]
  (repeat' split) <;> simp

@[simp] theorem installDict_mem (s : State) (n : Nat) : (installDict s n).mem = s.mem := by
  simp only [installDict]
  (repeat' split) <;> simp

@[simp] theorem makeReady_mem (s : State) (n : Nat) : (makeReady s n).mem = s.mem := by simp [makeReady]

@[simp] theorem Perf.fail_mem (p : Perf) (lane : Nat) (t : TrapInfo) : (Perf.fail p lane t).st.mem = p.st.mem := rfl

@[simp] theorem Perf.hole_mem (p : Perf) (lane pa va : Nat) : (Perf.hole p lane pa va).st.mem = p.st.mem := by simp [Perf.hole]

@[simp] theorem peerRead_mem (p : Perf) (core ctx : Nat) (a : Acc) (key op ty : Nat) (parts : List (Nat × Nat)) (offs : List Nat) (pols : List (Nat × Nat)) :
    (peerRead p core ctx a key op ty parts offs pols).st.mem = p.st.mem := by
  simp [peerRead]

@[simp] theorem peerWrite_mem (p : Perf) (core ctx : Nat) (a : Acc) (key : Nat) (data : List (Nat × List Byte)) (pols : List (Nat × Nat)) :
    (peerWrite p core ctx a key data pols).st.mem = p.st.mem := by
  simp only [peerWrite]
  split <;> simp

@[simp] theorem modThreads_mem (s : State) (core : Nat) (tids : List Nat) (f : Thread → Thread) :
    (modThreads s core tids f).mem = s.mem := by
  simp [modThreads]

@[simp] theorem noteFar_mem (s : State) (core : Nat) (tids : List Nat) : (noteFar s core tids).mem = s.mem := by simp [noteFar]

@[simp] theorem noteWrote_mem (s : State) (core : Nat) (tids : List Nat) : (noteWrote s core tids).mem = s.mem := by simp [noteWrote]

@[simp] theorem wcMerge_mem (s : State) (core : Nat) (e : OttEntry) (a : Acc) (pa : Nat) (bs : List Byte) :
    (wcMerge s core e a pa bs).mem = s.mem := by
  simp [wcMerge]

@[simp] theorem recordRead_mem (s : State) (core grp lane sec : Nat) (bs : List Byte) :
    (recordRead s core grp lane sec bs).mem = s.mem := by
  simp [recordRead]

@[simp] theorem laneRead_mem (s : State) (core ctx : Nat) (e : OttEntry) (retain : Bool) (tx : List Nat) (a : Acc) (n : Nat) :
    (laneRead s core ctx e retain tx a n).1.mem = s.mem := by
  simp only [laneRead]
  (repeat' split) <;> simp [foldl_keeps State.mem]

@[simp] theorem deviceRead_mem (s : State) : (deviceRead s).1.mem = s.mem := rfl

@[simp] theorem performLoad_mem (core ctx ty : Nat) (retain : Bool) (tx : List Nat) (p : Perf) (a : Acc) :
    (performLoad core ctx ty retain tx p a).st.mem = p.st.mem := by
  simp only [performLoad]
  (repeat' split) <;> simp

@[simp] theorem windowStore_mem (p : Perf) (core ctx key : Nat) (n64 : Bool) (ps : List (Acc × List Byte)) :
    (windowStore p core ctx key n64 ps).st.mem = p.st.mem :=
  rfl

@[simp] theorem wcStore_mem (p : Perf) (core : Nat) (a : Acc) (pa : Nat) (bs : List Byte) : (wcStore p core a pa bs).st.mem = p.st.mem := by
  unfold wcStore; split <;> simp

@[simp] theorem blockRead_mem (s : State) (core ctx : Nat) (e : OttEntry) (serve : Option Nat) (qs : List (Xl × Nat × Nat)) :
    (blockRead s core ctx e serve qs).1.mem = s.mem := by
  simp only [blockRead]
  (repeat' split) <;> simp [foldl_keeps State.mem, apply_ite State.mem]

@[simp] theorem performLoadBlock_mem (core ctx ty : Nat) (p : Perf) (ps : List (Acc × Nat)) :
    (performLoadBlock core ctx ty p ps).st.mem = p.st.mem := by
  simp only [performLoadBlock]
  split
  · rfl
  · split
    · repeat' split
      all_goals simp
    · split
      · simp
      · split
        · simp
        · refine (foldl_keeps (fun p : Perf => p.st.mem) _ (fun p k => ?_) _ _).trans
            (foldl_keeps (fun p : Perf => p.st.mem) _ (fun p x => blockRead_mem ..) _ _)
          split <;> simp

@[simp] theorem performSLoad_mem (ty : Nat) (p : Perf) (a : SAcc) : (performSLoad ty p a).st.mem = p.st.mem := by
  unfold performSLoad; split <;> rfl

@[simp] theorem pinLine_mem (s : State) (ctx core grp pa : Nat) (x : Xl) : (pinLine s ctx core grp pa x).mem = s.mem := by
  simp only [pinLine]
  (repeat' split) <;> simp

@[simp] theorem cmntLine_mem (core ctx grp op : Nat) (x : Xl) (s : State) (pa : Nat) : (cmntLine core ctx grp op x s pa).mem = s.mem := by
  unfold cmntLine; split <;> simp

@[simp] theorem performCmnt_mem (core ctx op : Nat) (p : Perf) (a : Acc) : (performCmnt core ctx op p a).st.mem = p.st.mem := by
  simp only [performCmnt]
  split <;> simp

@[simp] theorem prefPeer_mem (s : State) (core ctx cp : Nat) (e : OttEntry) (x : Xl) (va pa : Nat) :
    (prefPeer s core ctx cp e x va pa).mem = s.mem := by
  unfold prefPeer; split <;> simp

@[simp] theorem performPref_mem (core ctx lvl lines : Nat) (p : Perf) (va0 : Nat) :
    (performPref core ctx lvl lines p va0).st.mem = p.st.mem := by
  simp only [performPref]
  refine foldl_keeps State.mem _ (fun s i => ?_) _ _
  (repeat' split) <;> simp

@[simp] theorem meetEntry_mem (s : State) (core ctx : Nat) (e : OttEntry) : (meetEntry s core ctx e).mem = s.mem := by
  simp [meetEntry, foldl_keeps State.mem, apply_ite State.mem]

@[simp] theorem setMarks_mem (s : State) (core ctx : Nat) (e : OttEntry) : (setMarks s core ctx e).mem = s.mem := by
  simp only [setMarks]
  (repeat' split) <;> simp [foldl_keeps State.mem]

@[simp] theorem beforeEntry_mem (s : State) (core ctx : Nat) (e : OttEntry) : (beforeEntry s core ctx e).mem = s.mem := by
  simp only [beforeEntry]
  (repeat' split) <;> simp

@[simp] theorem completeBarriers_mem (s : State) (core : Nat) : (completeBarriers s core).mem = s.mem := by
  simp only [completeBarriers]
  (repeat' split) <;> simp [foldl_keeps State.mem, apply_ite State.mem]

@[simp] theorem serveWaiter_mem (core : Nat) (s : State) (e : OttEntry) : (serveWaiter core s e).mem = s.mem := by
  simp only [serveWaiter]
  (repeat' split) <;> simp

@[simp] theorem serveWaiters_mem (s : State) (core : Nat) : (serveWaiters s core).mem = s.mem := by
  simp only [serveWaiters]
  split <;> simp [foldl_keeps State.mem]

@[simp] theorem closeCpyg_mem (s : State) (c : Channel) (done : Bool) : (closeCpyg s c done).mem = s.mem := by
  simp only [closeCpyg]
  (repeat' split) <;> simp

@[simp] theorem dropChanReads_mem (s : State) (core k : Nat) : (dropChanReads s core k).mem = s.mem := rfl

@[simp] theorem cancelChan_mem (s : State) (core k : Nat) (c : Channel) : (cancelChan s core k c).mem = s.mem := by
  unfold cancelChan; split <;> simp

@[simp] theorem beginEnd_mem (s : State) (core : Nat) : (beginEnd s core).mem = s.mem := by
  simp only [beginEnd]
  (repeat' split) <;> simp [foldl_keeps State.mem]

@[simp] theorem giveBackOut_mem (s : State) (core : Nat) : (giveBackOut s core).mem = s.mem := by
  unfold giveBackOut
  split
  · rfl
  · refine foldl_keeps State.mem _ (fun s w => ?_) _ _
    split <;> simp

@[simp] theorem haltReqs_mem (s : State) (core : Nat) : (haltReqs s core).mem = s.mem := by
  simp only [haltReqs]
  split <;> simp [foldl_keeps State.mem]

@[simp] theorem haltTeam_mem (s : State) (core : Nat) (h : HaltRec) : (haltTeam s core h).mem = s.mem := by simp [haltTeam]

@[simp] theorem regionRestart_mem (s : State) (core grp : Nat) : (regionRestart s core grp).mem = s.mem := by
  simp only [regionRestart]
  (repeat' split) <;> simp [foldl_keeps State.mem, apply_ite State.mem]

@[simp] theorem logPoison_mem (s : State) (core : Nat) (p : Option (Nat × TrapInfo)) : (logPoison s core p).mem = s.mem := by
  simp only [logPoison]
  (repeat' split) <;> simp

@[simp] theorem logFetch_mem (s : State) (ctx : Nat) (pc : Word) : (logFetch s ctx pc).mem = s.mem := by
  simp only [logFetch]
  (repeat' split) <;> simp

@[simp] theorem deliverTrap_mem (s : State) (core grp : Nat) (t : TrapInfo) (tpc resume : Word) (park latched : Bool) (lanes : List Nat) :
    (deliverTrap s core grp t tpc resume park latched lanes).mem = s.mem := by
  simp only [deliverTrap]
  (repeat' split) <;> simp

@[simp] theorem dropEntry_mem (s : State) (core : Nat) (e : OttEntry) : (dropEntry s core e).mem = s.mem := by simp [dropEntry]

@[simp] theorem awaitTrap_mem (s : State) (core grp : Nat) (t : TrapInfo) (tpc resume : Word) (park latched : Bool) (lanes : List Nat) :
    (awaitTrap s core grp t tpc resume park latched lanes).mem = s.mem := by
  unfold awaitTrap; split <;> simp

@[simp] theorem poisonRestart_mem (s : State) (core grp : Nat) (pc : Word) : (poisonRestart s core grp pc).mem = s.mem := by
  simp [poisonRestart]

@[simp] theorem returnFromTrap_mem (s : State) (core grp : Nat) : (returnFromTrap s core grp).mem = s.mem := by simp [returnFromTrap]

@[simp] theorem retire_mem (s : State) (core grp : Nat) (pc next : Word) (act : List Nat) (xfer : List (Nat × Word)) (park : Bool) :
    (retire s core grp pc next act xfer park).mem = s.mem := by
  simp [retire]

@[simp] theorem registerMisses_mem (s : State) (core grp ctx : Nat) (pages : List Nat) :
    (registerMisses s core grp ctx pages).mem = s.mem :=
  rfl

@[simp] theorem stallGroup_mem (s : State) (core grp : Nat) (st : Stall) : (stallGroup s core grp st).mem = s.mem := by simp [stallGroup]

@[simp] theorem fetchMeets_mem (s : State) (core ctx : Nat) (service : Bool) (walked : List (Nat × Nat)) (pc n : Nat) :
    (fetchMeets s core ctx service walked pc n).mem = s.mem := by
  refine foldl_keeps State.mem _ (fun s i => ?_) _ _
  dsimp only
  split <;> simp

@[simp] theorem setCursor_mem (s : State) (core grp : Nat) (pc : Word) (len : Nat) : (setCursor s core grp pc len).mem = s.mem := rfl

@[simp] theorem takeBranch_mem (s : State) (core grp : Nat) (ts : List (Nat × Word)) : (takeBranch s core grp ts).mem = s.mem := by
  simp [takeBranch]

@[simp] theorem writeLink_mem (c : Ic) (s : State) : (writeLink c s).mem = s.mem := by simp [writeLink]

@[simp] theorem fileLanes_mem (s : State) (core grp : Nat) (lanes : List Nat) : (fileLanes s core grp lanes).mem = s.mem := by
  simp [fileLanes]

@[simp] theorem fileHeld_mem (s : State) (core grp : Nat) : (fileHeld s core grp).mem = s.mem := by
  simp only [fileHeld]
  (repeat' split) <;> simp

@[simp] theorem endThreads_mem (s : State) (core grp : Nat) (lanes : List Nat) : (endThreads s core grp lanes).mem = s.mem := by
  simp only [endThreads]
  (repeat' split) <;> simp

@[simp] theorem txStore_mem (s : State) (core ctx grp : Nat) (o : Ord) (a : Acc) (bs : List Byte) :
    (txStore s core ctx grp o a bs).mem = s.mem := by
  simp [txStore]

@[simp] theorem stopChan_mem (s : State) (core k : Nat) (c : Channel) (kind va : Nat) : (stopChan s core k c kind va).mem = s.mem := by
  simp [stopChan]

@[simp] theorem finishChan_mem (s : State) (core k : Nat) (c : Channel) : (finishChan s core k c).mem = s.mem := by
  simp only [finishChan]
  split <;> simp [foldl_keeps State.mem]

@[simp] theorem dropBack_mem (s : State) (pa n : Nat) : (dropBack s pa n).mem = s.mem := by simp [dropBack, foldl_keeps State.mem]

@[simp] theorem answer_mem (s : State) (pkg req yst : Nat) (data : List Byte) : (answer s pkg req yst data).mem = s.mem := by simp [answer]

@[simp] theorem setBase_mem (s : State) (pkg ctx base : Nat) : (setBase s pkg ctx base).mem = s.mem := rfl

@[simp] theorem ackStore_mem (s : State) (pkg ctx : Nat) : (ackStore s pkg ctx).mem = s.mem := by simp [ackStore]

@[simp] theorem modTile_mem (s : State) (q i : Nat) (f : Tile → Tile) : (modTile s q i f).mem = s.mem := rfl

@[simp] theorem checkPoint_mem (s : State) (q i : Nat) : (checkPoint s q i).mem = s.mem := rfl

@[simp] theorem clearTile_mem (s : State) (q i : Nat) : (clearTile s q i).mem = s.mem := rfl

@[simp] theorem disableEngine_mem (q : Nat) (s : State) : (disableEngine q s).mem = s.mem := rfl

@[simp] theorem checkTile_mem (s : State) (q i : Nat) : (checkTile s q i).1.mem = s.mem := by
  unfold checkTile
  split
  · rfl
  dsimp only
  split
  · rfl
  · split <;> split
    · exact (countCorrection_mem (disableEngine_mem q) ..).trans (bumpSecnt_mem ..)
    · exact logEvent_mem ..
    · exact (countCorrection_mem (disableEngine_mem q) ..).trans (bumpSecnt_mem ..)
    · exact logEvent_mem ..
  · exact logEvent_mem ..

@[simp] theorem checkTiles_mem (s : State) (q : Nat) (is : List Nat) : (checkTiles s q is).1.mem = s.mem := by
  refine foldl_keeps (fun x : State × Bool => x.1.mem) _ (fun x i => ?_) _ _
  dsimp only
  split <;> simp

@[simp] theorem opbufWrite_mem (s : State) (core off : Nat) (bs : List Byte) : (opbufWrite s core off bs).mem = s.mem := by
  simp [opbufWrite]

@[simp] theorem finishResv_mem (s : State) (core id : Nat) (e : OttEntry) : (finishResv s core id e).mem = s.mem := by simp [finishResv]

@[simp] theorem resvAsk_mem (core ctx : Nat) (v : Reservation) (p : Perf) : (resvAsk core ctx v p).st.mem = p.st.mem := by
  refine foldl_keeps (fun p : Perf => p.st.mem) _ (fun p k => ?_) _ _
  dsimp only
  split <;> simp

@[simp] theorem loadTile_mem (s : State) (x : EngEntry) (va : Word) : (loadTile s x va).1.mem = s.mem := by
  unfold loadTile
  generalize List.range 16384 = ks
  refine foldl_keeps (fun x : State × Option TrapInfo × Tab (BitVec 32 × BitVec 32) => x.1.mem) _ (fun x k => ?_) (s, none, []) ks
  dsimp only
  (repeat' split) <;> simp

@[simp] theorem runPass_mem (s : State) (q : Nat) (x : EngEntry) (ws : List Word) (aop bop : List Byte) (tiles : List (Nat × Nat)) :
    (runPass s q x ws aop bop tiles).1.mem = s.mem := by
  simp only [runPass]
  split
  · simp
  split
  · simp
  have pass (f : Nat → Nat → Nat → Nat → Tile → Tile) (ys : List (Nat × Nat × Nat)) (u : State) :
      (ys.foldl (fun s y => match tiles.find? (fun t => t.1 == y.1) with
        | none => s
        | some (_, i) => modTile s q i (f y.1 y.2.1 y.2.2 i)) u).mem = u.mem := by
    refine foldl_keeps State.mem _ (fun s y => ?_) _ _
    split <;> rfl
  split
  · exact (checkTiles_mem ..).trans ((pass (fun _ a b _ => passOver _ _ _ a b _) _ _).trans (checkTiles_mem ..))
  · exact (pass (fun _ a b _ => passOver _ _ _ a b _) _ _).trans (checkTiles_mem ..)

@[simp] theorem runSelftest_mem (s : State) (core pattern : Nat) : (runSelftest s core pattern).1.mem = s.mem := rfl

@[simp] theorem settleTiles_mem (s : State) (q : Nat) : (settleTiles s q).mem = s.mem := by
  refine foldl_keeps State.mem _ (fun s core => ?_) _ _
  dsimp only
  (repeat' split) <;> simp

@[simp] theorem sendMarkers_mem (c : Ic) : (sendMarkers c).mem = c.s.mem :=
  foldl_keeps State.mem _ (fun _ _ => newReq_mem _ _) _ _

@[simp] theorem noteFence_mem (c : Ic) (o : Ord) (s : State) : (noteFence c o s).mem = s.mem := by
  unfold noteFence; split <;> simp

@[simp] theorem arriveAt_mem (c : Ic) (h : Held) (s : State) : (arriveAt c h s).mem = s.mem := by simp [arriveAt]

@[simp] theorem holdAll_mem (c : Ic) (h : Held) (s : State) : (holdAll c h s).mem = s.mem := by simp [holdAll]

@[simp] theorem setEntries_mem (s : State) (core grp : Nat) (lanes : List Nat) : (setEntries s core grp lanes).mem = s.mem := by
  simp [setEntries]

@[simp] theorem pollObject_mem (s : State) (core ctx grp owner pa va : Nat) (pc : Word) (acq : Bool) (cp wp : Nat) :
    (pollObject s core ctx grp owner pa va pc acq cp wp).mem = s.mem := by
  simp [pollObject]

@[simp] theorem pollPeer_mem (c : Ic) (o : Ord) (a : Acc) : (pollPeer c o a).mem = c.s.mem := by
  unfold pollPeer; split <;> simp

@[simp] theorem pollHeld_mem (s : State) (core ctx : Nat) (h : Held) : (pollHeld s core ctx h).mem = s.mem := by
  simp only [pollHeld]
  (repeat' split) <;> simp

@[simp] theorem wakeOne_mem (core : Nat) (s : State) (h : Held) : (wakeOne core s h).mem = s.mem := by
  simp only [wakeOne]
  (repeat' split) <;> simp

@[simp] theorem wakeWaitv_mem (s : State) (core pa : Nat) : (wakeWaitv s core pa).mem = s.mem := by
  simp only [wakeWaitv]
  split <;> simp [foldl_keeps State.mem]

@[simp] theorem giveToken_mem (s : State) (core : Nat) : (giveToken s core).mem = s.mem := by simp [giveToken]

@[simp] theorem settleToken_mem (s : State) (n : Nat) : (settleToken s n).mem = s.mem := by
  simp only [settleToken]
  (repeat' split) <;> simp

@[simp] theorem dropToken_mem (s : State) (core : Nat) : (dropToken s core).mem = s.mem := by
  simp only [dropToken]
  (repeat' split) <;> simp

@[simp] theorem streamClosed_mem (s : State) (ctx n : Nat) : (streamClosed s ctx n).mem = s.mem := by simp [streamClosed]

@[simp] theorem dropReq_mem (s : State) (id : Nat) : (dropReq s id).mem = s.mem := rfl

@[simp] theorem sendNextLane_mem (s : State) (r : Req) : (sendNextLane s r).mem = s.mem := by
  simp [sendNextLane, foldl_keeps State.mem, apply_ite State.mem]

@[simp] theorem laneDone_mem (s : State) (r : Req) (f : OttEntry → OttEntry) : (laneDone s r f).mem = s.mem := by
  simp only [laneDone]
  (repeat' split) <;> simp

@[simp] theorem modTeams_mem (s : State) (f : Team → Team) : (modTeams s f).mem = s.mem := rfl

@[simp] theorem sentDone_mem (s : State) (seq : Nat) : (sentDone s seq).mem = s.mem := rfl

@[simp] theorem sentFails_mem (s : State) (seq cause kind : Nat) (info : Word) : (sentFails s seq cause kind info).mem = s.mem := rfl

@[simp] theorem drainFails_mem (s : State) (seq yst peer : Nat) : (drainFails s seq yst peer).mem = s.mem := by
  simp only [drainFails, sentDone_mem, sentFails_mem]
  refine foldl_keeps State.mem _ (fun s e => ?_) _ _
  split
  · rfl
  · simp [foldl_keeps State.mem]

@[simp] theorem renumberWrite_mem (s : State) (old new : Nat) : (renumberWrite s old new).mem = s.mem := rfl

@[simp] theorem wcDone_mem (s : State) (seq : Nat) : (wcDone s seq).mem = s.mem := rfl

@[simp] theorem endAbandoned_mem (s : State) (r : Req) : (endAbandoned s r).mem = s.mem := by simp [endAbandoned]

@[simp] theorem wcSend_mem (s : State) (core : Nat) (e : WcEntry) : (wcSend s core e).mem = s.mem := by
  simp only [wcSend]
  (repeat' split) <;> simp

@[simp] theorem ownerLost_mem (s : State) (pa struct : Nat) : (ownerLost s pa struct).mem = s.mem := by simp [ownerLost]

@[simp] theorem ownerStatus_mem (s : State) (pa n : Nat) : (ownerStatus s pa n).1.mem = s.mem := by
  simp only [ownerStatus]
  (repeat' split) <;> simp

@[simp] theorem portRead_mem (s : State) (port cp wp line : Nat) : (portRead s port cp wp line).1.mem = s.mem := by
  unfold portRead; split <;> simp

@[simp] theorem portBytes_mem (port : Nat) (pol : Nat × Nat) (x : State × List Byte × Option (Nat × Nat)) (p : Nat × Nat) :
    (portBytes port pol x p).1.mem = x.1.mem := by
  refine foldl_keeps (fun y : State × List Byte × Option (Nat × Nat) => y.1.mem) _ (fun y l => ?_) _ _
  simp

@[simp] theorem applyAt_mem (s : State) (port : Nat) (lines : List Nat) : (applyAt s port lines).mem = s.mem :=
  foldl_keeps State.mem _ applyInval_mem _ _

@[simp] theorem oneAccess_mem (s : State) (port : Nat) (parts : List (Nat × Nat)) : (oneAccess s port parts).mem = s.mem := by
  simp only [oneAccess]
  split <;> simp

@[simp] theorem holdMsg_mem (s : State) (m : Message) : (holdMsg s m).mem = s.mem := rfl

@[simp] theorem ownerRead_mem (s : State) (pkg port req : Nat) (pols parts : List (Nat × Nat)) :
    (ownerRead s pkg port req pols parts).mem = s.mem := by
  have reads (x : State × List Byte × Option (Nat × Nat)) (ps : List ((Nat × Nat) × Nat)) :
      (ps.foldl (fun x p => portBytes port (polAt pols p.2) x p.1) x).1.mem = x.1.mem :=
    foldl_keeps (fun y : State × List Byte × Option (Nat × Nat) => y.1.mem) _ (fun _ _ => portBytes_mem ..) _ _
  simp only [ownerRead]
  (repeat' split) <;> simp [reads]

@[simp] theorem ackWrite_mem (s : State) (pkg seq yst : Nat) : (ackWrite s pkg seq yst).mem = s.mem := by simp [ackWrite]

@[simp] theorem lwmSteps_mem (s : State) (pkg ctx stream : Nat) (lwm : BitVec 32) : (lwmSteps s pkg ctx stream lwm).1.mem = s.mem := by
  simp only [lwmSteps]
  (repeat' split) <;> simp

@[simp] theorem retireContext_mem (s : State) (pkg ctx : Nat) : (retireContext s pkg ctx).mem = s.mem := rfl

@[simp] theorem ownerRestart_mem (s : State) : (ownerRestart s).mem = s.mem := by simp [ownerRestart]

@[simp] theorem piecesMeetL2_mem (s : State) (ps : List HubPiece) (write : Bool) : (piecesMeetL2 s ps write).mem = s.mem := by
  simp [piecesMeetL2, foldl_keeps State.mem]

@[simp] theorem piecesTouch_mem (s : State) (ps : List HubPiece) : (piecesTouch s ps).mem = s.mem := by simp [piecesTouch]

@[simp] theorem winDone_mem (s : State) (x : WinStore) : (winDone s x).mem = s.mem := by
  simp only [winDone]
  (repeat' split) <;> simp

@[simp] theorem winDrop_mem (s : State) (x : WinStore) (cause kind : Nat) : (winDrop s x cause kind).mem = s.mem := by simp [winDrop]

@[simp] theorem winRefuse_mem (s : State) (x : WinStore) (kind : Nat) : (winRefuse s x kind).mem = s.mem := by simp [winRefuse]

@[simp] theorem armOver_mem (s : State) (x : WinStore) (r : List Word) : (armOver s x r).mem = s.mem := by unfold armOver; split <;> rfl

@[simp] theorem modSlot_mem (s : State) (n : Nat) (f : CSlot → CSlot) : (modSlot s n f).mem = s.mem := by unfold modSlot; split <;> rfl

@[simp] theorem wakeSlot_mem (s : State) (n : Nat) : (wakeSlot s n).mem = s.mem := by simp [wakeSlot]

@[simp] theorem ackPacket_mem (s : State) (pkg slot req : Nat) : (ackPacket s pkg slot req).mem = s.mem := by simp [ackPacket]

@[simp] theorem transferDone_mem (s : State) (slot id : Nat) : (transferDone s slot id).mem = s.mem := by simp [transferDone]

@[simp] theorem carAck_mem (s : State) (pkg slot req : Nat) : (carAck s pkg slot req).mem = s.mem := by
  unfold carAck; split <;> simp

@[simp] theorem carSend1_mem (n : Nat) (i : BitVec 4) (pkt : CPacket) (r : State × CSlot) (peer : Nat) :
    (carSend1 n i pkt r peer).1.mem = r.1.mem := by
  simp only [carSend1]
  split <;> simp

@[simp] theorem dropTranslations_mem (s : State) (t : TlbScope) : (dropTranslations s t).mem = s.mem := rfl

@[simp] theorem dropBank_mem (s : State) (core bank : Nat) : (dropBank s core bank).mem = s.mem := by simp [dropBank]

@[simp] theorem endSelftest_mem (s : State) (core : Nat) (e : OttEntry) (pattern arg : Nat) :
    (endSelftest s core e pattern arg).mem = s.mem := by
  unfold endSelftest; split <;> simp

@[simp] theorem walkOver_mem (s : State) (page : Nat) (r : Except Nat Xl) (ctx : Nat) (w : Nat × Nat) :
    (walkOver s page r ctx w).mem = s.mem := by
  unfold walkOver; split <;> simp

@[simp] theorem refile_mem (s : State) (core : Nat) : (refile s core).mem = s.mem := by simp [refile]

@[simp] theorem drawBin_mem (s : State) (core i : Nat) : (drawBin s core i).mem = s.mem := by
  simp only [drawBin]
  (repeat' split) <;> simp

@[simp] theorem drainBins_mem (s : State) (core n : Nat) : (drainBins s core n).mem = s.mem := by
  induction n generalizing s with
  | zero => rfl
  | succ n ih =>
    unfold drainBins
    split
    · rw [ih, drawBin_mem]
    · rfl

@[simp] theorem sampleLaunch_mem (s : State) (n : Nat) (l : Launch) : (sampleLaunch s n l).mem = s.mem := by
  simp only [sampleLaunch]
  split <;> simp

@[simp] theorem placeTeam_mem (s : State) (n cix tix core : Nat) (r : LaunchRecord) : (placeTeam s n cix tix core r).mem = s.mem := rfl

@[simp] theorem restartFaults_mem (s : State) (core : Nat) : (restartFaults s core).mem = s.mem := by
  unfold restartFaults
  split
  · rfl
  · refine foldl_keeps State.mem _ (fun s g => ?_) _ _
    split <;> simp

@[simp] theorem sendAllWc_mem (s : State) (core : Nat) : (sendAllWc s core).mem = s.mem := by
  simp only [sendAllWc]
  split <;> simp [foldl_keeps State.mem]

@[simp] theorem forgetCore_mem (s : State) (core : Nat) : (forgetCore s core).mem = s.mem := rfl

@[simp] theorem renameHeld_mem (s : State) (ctx n old new : Nat) : (renameHeld s ctx n old new).mem = s.mem := by simp [renameHeld]

@[simp] theorem renameMarks_mem (s : State) (old new : Nat) : (renameMarks s old new).mem = s.mem := rfl

@[simp] theorem liftTeam_mem (s : State) (core : Nat) : (liftTeam s core).mem = s.mem := rfl

@[simp] theorem saveTeam_mem (s : State) (core : Nat) : (saveTeam s core).1.mem = s.mem := by
  simp only [saveTeam]
  split <;> simp

@[simp] theorem settlePlacing_mem (s : State) (n : Nat) : (settlePlacing s n).mem = s.mem := by
  simp only [settlePlacing]
  (repeat' split) <;> simp

@[simp] theorem settleRects_mem (s : State) : (settleRects s).mem = s.mem := rfl

@[simp] theorem freeCore_mem (s : State) (core : Nat) (t : Team) : (freeCore s core t).mem = s.mem := by
  simp only [freeCore]
  (repeat' split) <;> simp

@[simp] theorem endSteps.settlePlacing'_mem (s : State) (t : Team) : (endSteps.settlePlacing' s t).mem = s.mem := by
  unfold endSteps.settlePlacing'; split <;> simp

@[simp] theorem endSteps_mem (s : State) (core : Nat) : (endSteps s core).mem = s.mem := by
  simp only [endSteps]
  (repeat' split) <;> simp

@[simp] theorem mgmtAnswer_mem (s : State) (status : Nat) : (mgmtAnswer s status).mem = s.mem := rfl

@[simp] theorem mgmtWait_mem (s : State) (r : MgmtReq) : (mgmtWait s r).mem = s.mem := rfl

@[simp] theorem learnIncs_mem (s : State) (incs : List (Nat × Nat)) : (learnIncs s incs).mem = s.mem := rfl

@[simp] theorem dropLaunches_mem (s : State) (ctx : Nat) : (dropLaunches s ctx).mem = s.mem := by
  have e := congrArg State.mem (dropLaunches_sansLaunches s ctx)
  exact e

@[simp] theorem destroyContext_mem (s : State) (ctx : Nat) : (destroyContext s ctx).mem = s.mem := by
  simp only [destroyContext]
  split <;> simp [foldl_keeps State.mem]

@[simp] theorem hubLost_mem (s : State) : (hubLost s).mem = s.mem := by simp [hubLost, foldl_keeps State.mem]

@[simp] theorem startFirmware_mem (s : State) (incs : List (Nat × Nat)) : (startFirmware s incs).mem = s.mem := rfl

@[simp] theorem bindMgmt_mem (s : State) : (bindMgmt s).mem = s.mem := rfl

@[simp] theorem bootTest_mem (pass : Bool) (pattern : Nat) (s : State) (core : Nat) : (bootTest pass pattern s core).mem = s.mem := by
  unfold bootTest; split <;> rfl

@[simp] theorem excludeDie_mem (s : State) (d : Nat) : (excludeDie s d).mem = s.mem := by simp [excludeDie]

@[simp] theorem bootEngine_mem (bad : List Nat) (s : State) (q : Nat) : (bootEngine bad s q).mem = s.mem := by
  unfold bootEngine; split <;> simp

@[simp] theorem disableUnit_mem (die unit : Nat) (s : State) : (disableUnit die unit s).mem = s.mem := by unfold disableUnit; split <;> rfl

@[simp] theorem meetSoftError_mem (s : State) (struct die unit row pa : Nat) : (meetSoftError s struct die unit row pa).mem = s.mem := by
  simp only [meetSoftError]
  repeat' split
  · rfl
  · simp
  · exact countCorrection_mem (disableSlice_mem _ _) ..
  · exact countCorrection_mem (disableUnit_mem _ _) ..

@[simp] theorem strikeTag_mem (s : State) (set way : Nat) : (strikeTag s set way).mem = s.mem := by
  unfold strikeTag
  split
  · rfl
  refine (logEvent_mem ..).trans ?_
  split
  · exact foldl_keeps State.mem _ (fun _ _ => poisonSector_mem ..) _ _
  · rfl

@[simp] theorem strikeRegister_mem (s : State) (core grp n : Nat) (half : Option Nat) : (strikeRegister s core grp n half).mem = s.mem := by
  simp [strikeRegister]

@[simp] theorem strikeStaging_mem (s : State) (core k : Nat) : (strikeStaging s core k).mem = s.mem := by
  simp only [strikeStaging]
  (repeat' split) <;> simp

@[simp] theorem strikeTile_mem (s : State) (q i : Nat) (elems rows cols : List (Nat × BitVec 32 × BitVec 32)) :
    (strikeTile s q i elems rows cols).mem = s.mem :=
  rfl

@[simp] theorem configure_mem (s : State) (pkgid pod : Nat) (ue : List Nat) : (configure s pkgid pod ue).mem = s.mem := by
  unfold configure; split <;> rfl

@[simp] theorem setWayMasks_mem (s : State) (masks : List Nat) : (setWayMasks s masks).mem = s.mem := rfl

@[simp] theorem issueState_mem (s : State) : (issueState s).mem = s.mem := rfl

@[simp] theorem noteIssue_mem (n : Nat) (pack : Option (List Nat)) (s : State) (core grp : Nat) :
    (noteIssue n pack s core grp).mem = s.mem := by
  simp [noteIssue]

theorem takeNotice_mem {f : State → State} (h : ∀ s, (f s).mem = s.mem) (s : State) (pkg req : Nat) :
    (takeNotice s pkg req f).mem = s.mem := by
  unfold takeNotice; split <;> simp [h]

@[simp] theorem plainMessage_mem (s : State) (m : Message) : (plainMessage s m).mem = s.mem := by
  unfold plainMessage
  split
  case h_2 => exact takeNotice_mem (by intro; rfl) ..
  case h_3 => exact takeNotice_mem (retireContext_mem · _ _) ..
  all_goals simp

@[simp] theorem popTiming_mem (s : State) : (popTiming s).mem = s.mem := rfl

/-! ### What a stop, a check and an outcome leave -/

/-- Where a stop carries a state, its memory is in canonical form. -/
def Stop.Formed : Stop → Prop
  | .waiting _ s | .failed s _ => Memory.wf s.mem = true
  | _ => True

/-- The effect leaves memory in canonical form, and what follows the retirement keeps that form. -/
def Eff.Formed (e : Eff) : Prop :=
  Memory.wf e.st.mem = true ∧ ∀ s : State, Memory.wf s.mem = true → Memory.wf (e.post s).mem = true

/-- A check or a body: its answer has `P`, and the state of a stop is formed. -/
def Settles {α : Type} (P : α → Prop) : Except Stop α → Prop
  | .ok a => P a
  | .error st => st.Formed

/-- Where an outcome answers a next state, its memory is in canonical form. -/
def Formed (o : Host.Outcome State Fault Refusal) : Prop := ∀ t, o = .next t → Memory.wf t.mem = true

@[simp] theorem Stop.formed_trap (t : TrapInfo) : (Stop.trap t).Formed := trivial
@[simp] theorem Stop.formed_software (t : TrapInfo) : (Stop.software t).Formed := trivial
@[simp] theorem Stop.formed_latched (t : TrapInfo) : (Stop.latched t).Formed := trivial
@[simp] theorem Stop.formed_stall (st : Stall) : (Stop.stall st).Formed := trivial
@[simp] theorem Stop.formed_misses (ps : List Nat) : (Stop.misses ps).Formed := trivial
@[simp] theorem Stop.formed_pageFault (va : Nat) : (Stop.pageFault va).Formed := trivial
@[simp] theorem Stop.formed_waiting (b : Block) (s : State) : (Stop.waiting b s).Formed ↔ Memory.wf s.mem = true := Iff.rfl
@[simp] theorem Stop.formed_failed (s : State) (t : TrapInfo) : (Stop.failed s t).Formed ↔ Memory.wf s.mem = true := Iff.rfl
@[simp] theorem Stop.formed_ill (n : Nat) : (ill n).Formed := trivial

@[simp] theorem Stop.formed_edetwait (n : Nat) : (edetwait n).Formed := trivial

@[simp] theorem Eff.formed_mk (s : State) (xfer : List (Nat × Word)) (post : State → State) :
    Eff.Formed ⟨s, xfer, post⟩ ↔
      Memory.wf s.mem = true ∧ ∀ s : State, Memory.wf s.mem = true → Memory.wf (post s).mem = true := Iff.rfl

@[simp] theorem settles_ok {α : Type} (P : α → Prop) (a : α) : Settles P (.ok a) ↔ P a := Iff.rfl
@[simp] theorem settles_error {α : Type} (P : α → Prop) (st : Stop) : Settles P (.error st) ↔ st.Formed := Iff.rfl
@[simp] theorem settles_bind {α β : Type} (P : β → Prop) (x : Except Stop α) (f : α → Except Stop β) :
    Settles P (x >>= f) ↔ Settles (fun a => Settles P (f a)) x := by cases x <;> rfl

theorem Settles.imp {α : Type} {P Q : α → Prop} {x : Except Stop α} (h : Settles P x) (hpq : ∀ a, P a → Q a) : Settles Q x := by
  cases x with
  | ok a => exact hpq a h
  | error st => exact h

@[simp] theorem formed_next (t : State) : Formed (.next t) ↔ Memory.wf t.mem = true := by simp [Formed]
@[simp] theorem formed_fault (f : Fault) : Formed (.fault f) := by simp [Formed]
@[simp] theorem formed_refused (r : Refusal) : Formed (.refused r) := by simp [Formed]

theorem wf_of_next {o : Host.Outcome State Fault Refusal} {t : State} (h : o = .next t) (ho : Formed o) :
    Memory.wf t.mem = true := ho t h

/-- A fold keeps the canonical form when its step does. -/
theorem foldl_wf {α : Type} {f : State → α → State} (hf : ∀ s a, Memory.wf s.mem = true → Memory.wf (f s a).mem = true)
    {s : State} (hs : Memory.wf s.mem = true) (l : List α) : Memory.wf (l.foldl f s).mem = true :=
  List.foldlRecOn l f hs fun s hs a _ => hf s a hs

/-- A fold over a value that holds a state keeps the canonical form when its step does. -/
theorem foldl_wf_of {σ α : Type} (st : σ → State) {f : σ → α → σ}
    (hf : ∀ x a, Memory.wf (st x).mem = true → Memory.wf (st (f x a)).mem = true)
    {x : σ} (hx : Memory.wf (st x).mem = true) (l : List α) : Memory.wf (st (l.foldl f x)).mem = true :=
  List.foldlRecOn (motive := fun x => Memory.wf (st x).mem = true) l f hx fun x hx a _ => hf x a hx

/-! ### Writes of memory -/

@[simp] theorem memWrite_formed {m : List Host.Cell} (hm : Memory.wf m = true) (pa : Nat) (bs : List Byte) : Memory.wf (memWrite m pa bs) = true :=
  memWrite_wf hm pa bs

@[simp] theorem memPatch_formed {m : List Host.Cell} (hm : Memory.wf m = true) (cells : List Host.Cell) : Memory.wf (memPatch m cells) = true :=
  memPatch_wf hm cells

section

variable {s : State} (hs : Memory.wf s.mem = true)

include hs

@[simp] theorem firmwareWrites_wf (cells : List Host.Cell) : Memory.wf (firmwareWrites s cells).mem = true := by
  rw [firmwareWrites_mem]; exact memPatch_wf hs _

@[simp] theorem copyFrames_wf (src dst n : Nat) : Memory.wf (copyFrames s src dst n).mem = true := by
  refine memPatch_wf (memDrop_wf ?_ dst n) _
  rwa [meetUpsets_mem]

end

section

variable {s : State} (hs : Memory.wf s.mem = true)

include hs

@[simp] theorem emitOne_wf (e : HeldEmit) : Memory.wf (emitOne s e).mem = true := by
  unfold emitOne; split <;> simp [hs]

@[simp] theorem runEmits_wf (ctx : Nat) : Memory.wf (runEmits s ctx).mem = true := by
  simp only [runEmits]
  split
  · exact hs
  · exact foldl_wf (fun _ e h => emitOne_wf h e) (by simpa using hs) _

@[simp] theorem settleGate_wf (ctx : Nat) : Memory.wf (settleGate s ctx).mem = true := by
  simp only [settleGate, coverSyncs_mem]
  refine runEmits_wf ?_ ctx
  rw [sendRecords_mem]
  split <;> simp [hs, foldl_keeps State.mem]

@[simp] theorem startSeed_wf (ctx peer : Nat) (by_ : Option (Nat × Nat × Word)) : Memory.wf (startSeed s ctx peer by_).mem = true :=
  settleGate_wf (by simpa using hs) ctx

@[simp] theorem postObject_wf (pa st cause errs fc : Nat) (fpc faddr finfo fid : Word) :
    Memory.wf (postObject s pa st cause errs fc fpc faddr finfo fid).mem = true := by
  rcases Nat.lt_or_ge hbmTop (pa + 64) with h | h
  · rwa [postObject_hole s pa st cause errs fc fpc faddr finfo fid h, logViolation_mem]
  · rw [postObject_mem s pa st cause errs fc fpc faddr finfo fid h]
    exact memWrite_wf (postFields_wf hs ..) ..

@[simp] theorem submit_wf (ctx : Nat) (service : Bool) (r : LaunchRecord) : Memory.wf (submit s ctx service r).1.mem = true := by
  simp only [submit]
  (repeat' split) <;> simp [hs]

@[simp] theorem submitAt_wf (ctx : Nat) (service : Bool) (va : Nat) (kept : Option LaunchRecord) :
    Memory.wf (submitAt s ctx service va kept).1.mem = true := by
  simp only [submitAt]
  (repeat' split) <;> simp [hs]

@[simp] theorem homeStore_wf (core pa cp wp : Nat) (bs : List Byte) : Memory.wf (homeStore s core pa cp wp bs).mem = true := by
  simp [homeStore, hs]

@[simp] theorem storeHome_wf (core ctx : Nat) (o : Ord) (x : Xl) (va : Nat) (bs : List Byte) :
    Memory.wf (storeHome s core ctx o x va bs).mem = true := homeStore_wf hs ..

end

section

variable {p : Perf} (hp : Memory.wf p.st.mem = true)

include hp

@[simp] theorem performStore_wf (core ctx ty : Nat) (a : Acc) (x : Word) : Memory.wf (performStore core ctx ty p a x).st.mem = true := by
  simp only [performStore]
  (repeat' split) <;> simp [hp]

@[simp] theorem performStoreBlock_wf (core ctx : Nat) (ps : List (Acc × Nat)) (bs : List Byte) :
    Memory.wf (performStoreBlock core ctx p ps bs).st.mem = true := by
  simp only [performStoreBlock]
  split
  · exact hp
  split
  · simpa using hp
  · refine foldl_wf_of Perf.st (fun p k h => ?_) ?_ _
    · split <;> simp [h]
    · have stored (xs : List (Acc × List Byte)) {q : Perf} (hq : Memory.wf q.st.mem = true) :
          Memory.wf (xs.foldl (fun (p : Perf) x => { p with st := storeHome p.st core ctx p.e.ord x.1.xl x.1.va x.2 }) q).st.mem = true :=
        foldl_wf_of Perf.st (fun p x h => storeHome_wf h ..) hq _
      split
      · exact stored _ (by simpa using hp)
      · rw [windowStore_mem]
        exact stored _ (by simpa using hp)

@[simp] theorem performAtom_wf (core ctx op ty stream : Nat) (hold : Bool) (a : AtomLane) :
    Memory.wf (performAtom core ctx op ty stream hold p a).st.mem = true := by
  simp only [performAtom]
  (repeat' split) <;> simp [hp]

@[simp] theorem performSAtom_wf (op ty : Nat) (a : SAtomLane) : Memory.wf (performSAtom op ty p a).st.mem = true := by
  unfold performSAtom; split <;> simp [hp]

end

section

variable {s : State} (hs : Memory.wf s.mem = true)

include hs

@[simp] theorem txCommitLane_wf (core grp l : Nat) : Memory.wf (txCommitLane core grp s l).mem = true := by
  simp only [txCommitLane]
  split
  · exact hs
  split
  · simp only [modGroup_mem, addMarks_mem]
    refine foldl_wf (fun s w h => ?_) hs _
    split <;> simp [h]
  · simpa using hs

@[simp] theorem commitTx_wf (core grp : Nat) (lanes : List Nat) : Memory.wf (commitTx s core grp lanes).1.mem = true := by
  simp only [commitTx]
  split
  · exact hs
  · simp only [modGroup_mem]
    refine foldl_wf (fun s l h => txCommitLane_wf h ..) ?_ _
    split <;> simp [hs, foldl_keeps State.mem]

@[simp] theorem launchStep_wf (core ctx : Nat) (e : OttEntry) : Memory.wf (launchStep s core ctx e).mem = true := by
  simp only [launchStep]
  (repeat' split) <;> simp [hs]

@[simp] theorem performEntry_wf (core ctx : Nat) (e : OttEntry) : Memory.wf (performEntry s core ctx e).mem = true := by
  have h0 : Memory.wf (beforeEntry s core ctx e).mem = true := by rwa [beforeEntry_mem]
  have fold {α : Type} {f : Perf → α → Perf} (hf : ∀ p a, Memory.wf p.st.mem = true → Memory.wf (f p a).st.mem = true) (ls : List α) :
    Memory.wf (ls.foldl f ⟨beforeEntry s core ctx e, e, []⟩).st.mem = true := foldl_wf_of Perf.st hf h0 ls
  cases hw : e.work <;> simp only [performEntry, hw, settle_mem, setMarks_mem, finishEntry_mem]
  case load ty retain tx ls => exact fold (fun p a h => by rwa [performLoad_mem]) ls
  case store ty ls => exact fold (fun p x h => performStore_wf h ..) ls
  case loadBlock ty ls => exact fold (fun p a h => by rwa [performLoadBlock_mem]) ls
  case storeBlock ty ls => exact fold (fun p x h => performStoreBlock_wf h ..) ls
  case sload ty ls => exact fold (fun p a h => by rwa [performSLoad_mem]) ls
  case sstore ty ls => exact fold (fun p x h => by rwa [spadWrite_mem]) ls
  case atom op ty st ls => exact fold (fun p a h => performAtom_wf h ..) ls
  case satom op ty ls => exact fold (fun p a h => performSAtom_wf h ..) ls
  case cmnt op ls => exact fold (fun p a h => by rwa [performCmnt_mem]) ls
  case pref lvl n ls => exact fold (fun p a h => by rwa [performPref_mem]) ls
  case arrive a k => split <;> simp [hs]
  case publ a x => split <;> simp [hs]
  case launch ls kept => exact launchStep_wf h0 ..
  case emit ls ty thr => exact runEmits_wf (by simpa using h0) ctx
  all_goals exact h0

theorem completeLocal_wf (core grp : Nat) (told : Bool) (n : Nat) : Memory.wf (completeLocal s core grp told n).1.mem = true := by
  induction n generalizing s with
  | zero => exact hs
  | succ n ih =>
    simp only [completeLocal]
    split
    · exact hs
    split
    · exact hs
    split
    · simpa using hs
    · exact ih (performEntry_wf (by simpa using hs) ..)

@[simp] theorem takeTrap_wf (core grp : Nat) (t : TrapInfo) (tpc resume : Word) (park latched : Bool) (lanes : List Nat) :
    Memory.wf (takeTrap s core grp t tpc resume park latched lanes).mem = true := by
  have h := completeLocal_wf hs core grp (toldOf s core grp) 4160
  unfold takeTrap
  split <;> rename_i heq <;> rw [heq] at h
  · simpa using h
  · split
    · rw [awaitTrap_mem]
      exact completeLocal_wf (by simpa using h) ..
    · simpa using h

@[simp] theorem consumePoison_wf (core ctx : Nat) (e : OttEntry) (t : TrapInfo) : Memory.wf (consumePoison s core ctx e t).mem = true := by
  unfold consumePoison
  (repeat' split) <;> simp [hs]

end

/-! ### The issue of an instruction -/

theorem stopState_formed {c : Ic} (hc : Memory.wf c.s.mem = true) {st : Stop} (h : st.Formed) : Formed (stopState c st) := by
  cases st with
  | trap t => simp [stopState, hc]
  | software t => simp [stopState, hc]
  | latched t => simp [stopState, hc]
  | stall st => simp [stopState, hc]
  | misses ps => unfold stopState; dsimp only; split <;> simp [hc]
  | pageFault va => simp [stopState, hc]
  | waiting b s => simpa [stopState] using h
  | failed s t =>
    have hs : Memory.wf s.mem = true := h
    simp only [stopState]
    repeat' split
    all_goals simp [hs]

@[simp] theorem atPark_mem (c : Ic) : c.atPark.s.mem = c.s.mem := by
  unfold Ic.atPark
  dsimp only
  (repeat' split) <;> simp

/-- What an offer comes to is formed: the state in which it passes, or the outcome that it stops with. -/
def OfferFormed : Except (Host.Outcome State Fault Refusal) Ic → Prop
  | .ok c => Memory.wf c.s.mem = true
  | .error o => Formed o

@[simp] theorem offerFormed_error (o : Host.Outcome State Fault Refusal) : OfferFormed (.error o) ↔ Formed o := Iff.rfl

theorem offer_formed {s : State} (hs : Memory.wf s.mem = true) (w : LongWord) (sh : Shape) {k : Issue}
    (hl : ∀ c st, k.late c = some st → st.Formed) : OfferFormed (offer s w sh k) := by
  unfold offer
  split
  · simp
  rename_i t ht
  split
  · simp
  rename_i g hg
  have hi : Memory.wf (issueIc s w sh t g).s.mem = true := hs
  have hp : Memory.wf (if (k.blocking && !g.parked) = true then (issueIc s w sh t g).atPark else issueIc s w sh t g).s.mem = true := by
    split
    · rwa [atPark_mem]
    · exact hi
  dsimp only
  split
  · simp
  split
  · exact stopState_formed hi trivial
  split
  · exact stopState_formed hi trivial
  split
  · simpa using hs
  generalize (if (k.blocking && !g.parked) = true then (issueIc s w sh t g).atPark else issueIc s w sh t g) = c at hp ⊢
  split
  · simpa using hp
  split
  · exact stopState_formed hp trivial
  split
  · exact stopState_formed hp (hl _ _ ‹_›)
  split
  · exact stopState_formed hp trivial
  split
  · exact stopState_formed hp trivial
  split
  · exact stopState_formed hp (by simpa using hp)
  · exact hp

/-- An instruction whose body settles with a formed effect, and whose late check leaves a formed state, comes to an outcome that is
formed. -/
theorem issue_formed_of_late {s : State} (hs : Memory.wf s.mem = true) {w : LongWord} {sh : Shape} {k : Issue} {body : Ic → Except Stop Eff}
    (hb : ∀ c : Ic, Memory.wf c.s.mem = true → Settles Eff.Formed (body c))
    (hl : ∀ c st, k.late c = some st → st.Formed) : Formed (issue s w sh k body) := by
  have ho := offer_formed hs w sh hl
  unfold issue
  split <;> rename_i heq <;> rw [heq] at ho
  · exact ho
  · rename_i c
    have h := hb c ho
    split <;> rename_i hr <;> rw [hr] at h
    · exact (formed_next _).2 (h.2 _ (by simpa using h.1))
    · exact stopState_formed ho h

/-- An instruction without a late check. -/
theorem issue_formed {s : State} (hs : Memory.wf s.mem = true) {w : LongWord} {sh : Shape} {b e : Bool} {tx : Option Nat} {ds : List Dest}
    {flag : LaunchRecord → Bool} {pre : Ic → Option TrapInfo} {body : Ic → Except Stop Eff}
    (hb : ∀ c : Ic, Memory.wf c.s.mem = true → Settles Eff.Formed (body c)) :
    Formed (issue s w sh ⟨b, e, tx, ds, flag, pre, fun _ => none⟩ body) :=
  issue_formed_of_late hs hb fun _ _ h => nomatch h

section

variable {c : Ic} (hc : Memory.wf c.s.mem = true)

include hc

@[simp] theorem shortResult_formed (f : Nat → Word) : (shortResult c f).Formed := ⟨by simpa [shortResult] using hc, fun _ h => h⟩
@[simp] theorem predResult_formed (f : Nat → Bool) : (predResult c f).Formed := ⟨by simpa [predResult] using hc, fun _ h => h⟩
@[simp] theorem enterLong_formed (ds : List Dest) (o : Ord) (work : Work) (got : List (Nat × Word)) : (enterLong c ds o work got).Formed :=
  ⟨by simpa [enterLong] using hc, fun _ h => h⟩
@[simp] theorem enterPosted_formed (o : Ord) (work : Work) : (enterPosted c o work).Formed :=
  ⟨by simpa [enterPosted] using hc, fun _ h => h⟩
@[simp] theorem longResult_formed (f : Nat → Word) : (longResult c f).Formed := enterLong_formed hc ..
@[simp] theorem enterDet_formed (o : Ord) (work : Work) : (enterDet c o work).Formed := ⟨by simpa [enterDet] using hc, fun _ h => h⟩
end

@[simp] theorem csrResult_formed (c : Ic) {s : State} (hs : Memory.wf s.mem = true) : (csrResult c s).Formed := by
  unfold csrResult; split
  · exact longResult_formed (c := { c with s := s }) hs _
  · exact shortResult_formed (c := { c with s := s }) hs _

@[simp] theorem settles_need {P : Unit → Prop} (b : Bool) {st : Stop} (hst : st.Formed) (h : P ()) : Settles P (need b st) := by
  unfold need; split
  · exact h
  · exact hst

section

variable {α : Type} {c : Ic}

@[simp] theorem settles_joined {P : List Acc → Prop} (h : ∀ l, P l) (r : List (Nat × Nat × LaneTr)) : Settles P (joined r) := by
  unfold joined; split <;> simp [h]

@[simp] theorem settles_checkLanes {P : List Acc → Prop} (h : ∀ l, P l) (k : AKind) (align : Nat) (wide : Bool) (vas : List (Nat × Nat)) :
    Settles P (checkLanes c k align wide vas) := settles_joined h _

@[simp] theorem settles_checkAtoms {P : List Acc → Prop} (h : ∀ l, P l) (stream : Nat) : Settles P (checkAtoms c stream) :=
  settles_joined h _

@[simp] theorem settles_checkParts {P : List (List (Acc × Nat)) → Prop} (h : ∀ l, P l) (k : AKind)
    (lanes : List (Nat × Nat × List (Nat × Nat × Nat))) : Settles P (checkParts c k lanes) := by
  simp only [checkParts, settles_bind]
  exact settles_joined (fun l => h _) _

@[simp] theorem settles_checkBlocks {P : List (List (Acc × Nat)) → Prop} (h : ∀ l, P l) (k : AKind) : Settles P (checkBlocks c k) :=
  settles_checkParts h ..

@[simp] theorem settles_checkSpads {P : List SAcc → Prop} (h : ∀ l, P l) (peer : Bool) (n : Nat) (vas : List (Nat × Nat)) :
    Settles P (checkSpads c peer n vas) := by
  have key : Settles (fun _ => True) (checkSpads c peer n vas) := by
    unfold checkSpads
    induction vas with
    | nil => simp
    | cons x r ih =>
      rw [List.foldr_cons]
      split
      · simp
      · split <;> rename_i hr
        · simp
        · rw [hr] at ih
          exact ih
  exact key.imp fun l _ => h l

@[simp] theorem settles_checkPages {P : List Xl → Prop} (h : ∀ l, P l) (vas : List Nat) : Settles P (checkPages c vas) := by
  simp only [checkPages]
  (repeat' split) <;> simp [h]

@[simp] theorem settles_detRelease {P : Unit → Prop} (h : P ()) (o : Ord) : Settles P (detRelease c o) := settles_need _ trivial h
@[simp] theorem settles_detFenced {P : Unit → Prop} (h : P ()) (work : Work) : Settles P (detFenced c work) := settles_need _ trivial h

@[simp] theorem settles_detToken {P : Unit → Prop} (h : P ()) : Settles P (detToken c) := by
  unfold detToken
  (repeat' split) <;> simp [h, edetwait]

@[simp] theorem settles_detBuffered {P : DetWay → Prop} (h : ∀ d, P d) : Settles P (detBuffered c) := by
  unfold detBuffered
  (repeat' split) <;> simp [h, edetwait]

@[simp] theorem settles_checkCopy {P : Unit → Prop} (h : P ()) (kind : CopyKind) (src dst n mask craw : Nat) :
    Settles P (checkCopy c kind src dst n mask craw) := by
  simp only [checkCopy, settles_bind]
  cases kind <;> simp [h, copyHole]

@[simp] theorem settles_readAcross {P : Unit → Prop} (hc : Memory.wf c.s.mem = true) (h : P ()) (ls : List Nat) :
    Settles P (readAcross c ls) := settles_need _ (by simpa using hc) h

@[simp] theorem settles_enterTable {P : State × Nat → Prop} (h : ∀ f n, P (modEngine c.s (quadNo c.core) f, n)) (cmd : EngCmd)
    (tiles recs : List (Nat × Nat)) (kept : List (Nat × Reservation)) (words : List (Nat × Nat)) (stage : Nat) (xls : List Xl) (tok : Bool) :
    Settles P (enterTable c cmd tiles recs kept words stage xls tok) := by
  simp only [enterTable]
  (repeat' split) <;> simp [h]

theorem txLate_formed {st : Stop} (h : txLate c = some st) : st.Formed := by
  simp only [txLate] at h
  repeat' split at h
  all_goals cases h
  all_goals trivial

end

section

variable {c : Ic} (hc : Memory.wf c.s.mem = true)

include hc

@[simp] theorem settles_postGlobal (o : Ord) (work : Work) : Settles Eff.Formed (postGlobal c o work) := by
  simp only [postGlobal, settles_bind]
  refine settles_detRelease (settles_detFenced (settles_detBuffered (fun d => ?_)) _) _
  cases d <;> simp [hc]

@[simp] theorem settles_reserveOut {P : State → Prop} (h : ∀ s : State, Memory.wf s.mem = true → P s) (stream : Nat) (ls : List Acc) :
    Settles P (reserveOut c stream ls) := by
  simp only [reserveOut]
  (repeat' split) <;> simp [h, hc]

@[simp] theorem settles_writeRole (v : Word) :
    Settles (fun s : State => Memory.wf s.mem = true) (writeRole c v) := by
  simp only [writeRole, settles_bind]
  refine settles_need _ (Stop.formed_trap _) (settles_need _ (Stop.formed_trap _) (settles_need _ (Stop.formed_trap _) ?_))
  split
  · exact hc
  · simp [hc]

@[simp] theorem settles_writeCtx (f : Context → Context) : Settles (fun s : State => Memory.wf s.mem = true) (writeCtx c f) := by
  unfold writeCtx
  split <;> simp [hc, csrRefused]

end

/-! ### What keeps the form of memory, one lemma per operation -/

/-! #### Of `Fetch` -/

section

variable {s : State} (hs : Memory.wf s.mem = true)

include hs

@[simp] theorem settles_fetchParcel (core ctx : Nat) (service : Bool) (walked : List (Nat × Nat)) (va : Nat) :
    Settles (fun _ => True) (fetchParcel s core ctx service walked va) := by
  simp only [fetchParcel]
  (repeat' split) <;> simp [hs]

@[simp] theorem settles_fetchBytes (core ctx : Nat) (service : Bool) (walked : List (Nat × Nat)) (va n : Nat) :
    Settles (fun _ => True) (fetchBytes s core ctx service walked va n) := by
  induction n generalizing va with
  | zero => trivial
  | succ n ih =>
    have h := settles_fetchParcel hs core ctx service walked va
    have h2 := ih (va + 2)
    unfold fetchBytes
    split <;> rename_i heq
    · rwa [heq] at h
    · split <;> rename_i heq2
      · rwa [heq2] at h2
      · trivial

theorem fetchAt_formed {core ctx : Nat} {service : Bool} {walked : List (Nat × Nat)} {pc : Nat} {st : Stop}
    (h : fetchAt s core ctx service walked pc = .stop st) : st.Formed := by
  have hb := settles_fetchBytes hs core ctx service walked pc
  unfold fetchAt at h
  split at h
  next st' heq =>
    cases h
    simpa [heq] using hb 1
  next first heq =>
    dsimp only at h
    split at h
    next st' heq2 =>
      cases h
      simpa [heq2] using hb (lengthOf (leNat first) / 2)
    next bs heq2 =>
      split at h <;> cases h
      trivial

theorem fetchGroup_error {core grp : Nat} {o : Host.Outcome State Fault Refusal} (h : fetchGroup s core grp = some (.error o)) : Formed o := by
  unfold fetchGroup at h
  repeat' split at h
  all_goals cases h
  next heq =>
    exact stopState_formed (c := fetchIc s core grp _ _ _) (by simpa [fetchIc] using hs) (fetchAt_formed hs heq)

end

theorem fetchGroup_ok {s s' : State} (hs : Memory.wf s.mem = true) {core grp : Nat} {i : Instr}
    (h : fetchGroup s core grp = some (.ok (i, s'))) : Memory.wf s'.mem = true := by
  unfold fetchGroup at h
  repeat' split at h
  all_goals cases h
  simpa using hs

/-! #### Of `Control` -/

section

variable {s : State} (hs : Memory.wf s.mem = true)

include hs

@[simp] theorem execNop_formed (w : LongWord) : Formed (execNop w s) := issue_formed hs fun c hc => by simp [hc]

@[simp] theorem jumpRel_formed (w : LongWord) (sh : Shape) (link : Bool) : Formed (jumpRel w sh link s) := by
  refine issue_formed hs fun c hc => ?_
  dsimp only
  split <;> simp [hc]

@[simp] theorem jumpReg_formed (w : LongWord) (sh : Shape) (link loops : Bool) : Formed (jumpReg w sh link loops s) := by
  refine issue_formed hs fun c hc => ?_
  dsimp only
  (repeat' split) <;> simp [hc]

@[simp] theorem loopWith_formed (w : LongWord) (sh : Shape) (count : Ic → Nat → Nat) : Formed (loopWith w sh count s) := by
  refine issue_formed hs fun c hc => ?_
  dsimp only
  split
  · trivial
  split
  · simp [hc]
  · split <;> rename_i heq
    · have h := settles_fetchParcel hc c.core c.ctx c.svc c.g.walked (c.pc + word (2 * (litNat w % 2 ^ 16))).toNat
      rwa [heq] at h
    · simp [hc]

@[simp] theorem execLbrk_formed (w : LongWord) : Formed (execLbrk w s) := issue_formed hs fun c hc => by simp [hc]

@[simp] theorem execYield_formed (w : LongWord) : Formed (execYield w s) := issue_formed hs fun c hc => by simp [hc]

@[simp] theorem execTrap_formed (w : LongWord) : Formed (execTrap w s) := issue_formed hs fun _ _ => by simp

@[simp] theorem execClock_formed (w : LongWord) : Formed (execClock w s) := issue_formed hs fun c hc => by simp [hc]

@[simp] theorem execElect_formed (w : LongWord) : Formed (execElect w s) := issue_formed hs fun c hc => by simp [hc]

@[simp] theorem execSetprio_formed (w : LongWord) : Formed (execSetprio w s) := issue_formed hs fun c hc => by simp [hc]

@[simp] theorem execLaunch_formed (w : LongWord) : Formed (execLaunch w s) := issue_formed hs fun c hc => by simp [hc]

@[simp] theorem execReform_formed (w : LongWord) : Formed (execReform w s) := by
  refine issue_formed hs fun c hc => ⟨hc, fun s h => ?_⟩
  dsimp only
  split <;> simp [h]

end

@[simp] theorem settles_exitBody {c : Ic} (hc : Memory.wf c.s.mem = true) : Settles Eff.Formed (exitBody c) := by
  unfold exitBody
  split
  · simpa using hc
  · split <;> simp [hc]

section

variable {s : State} (hs : Memory.wf s.mem = true)

include hs

@[simp] theorem execExit_formed (w : LongWord) : Formed (execExit w s) :=
  issue_formed hs fun _ hc => settles_exitBody hc

@[simp] theorem illegalWord_formed (reason : Nat) : Formed (illegalWord reason s) := by
  simp only [illegalWord]
  (repeat' split) <;> simp [hs]

@[simp] theorem execUnassignedOpcode_formed (w : RawWord) : Formed (execUnassignedOpcode w s) := by
  unfold execUnassignedOpcode; split <;> simp [hs]

end

/-! #### Of `Predicate` -/

section

variable {s : State} (hs : Memory.wf s.mem = true)

include hs

@[simp] theorem execPseti_formed (w : LongWord) : Formed (execPseti w s) := issue_formed hs fun c hc => by simp [hc]

@[simp] theorem execPsetf_formed (w : LongWord) : Formed (execPsetf w s) := by
  unfold execPsetf
  exact issue_formed hs fun c hc => predResult_formed hc _

@[simp] theorem execPlop_formed (w : LongWord) : Formed (execPlop w s) := issue_formed hs fun c hc => by simp [hc]

@[simp] theorem execPmovGet_formed (w : LongWord) : Formed (execPmovGet w s) := issue_formed hs fun c hc => by simp [hc]

@[simp] theorem execPmovSet_formed (w : LongWord) : Formed (execPmovSet w s) := issue_formed hs fun c hc => by simp [hc]

@[simp] theorem pvoteP_formed (w : LongWord) (op : Nat) (f : Nat → Nat → Bool) : Formed (pvoteP w op f s) :=
  issue_formed hs fun c hc => by simp [hc]

@[simp] theorem pvoteV_formed (w : LongWord) (op : Nat) (f : List Nat → Nat) : Formed (pvoteV w op f s) :=
  issue_formed hs fun c hc => by simp [hc]

end

/-! #### Of `Integer` -/

section

variable {s : State} (hs : Memory.wf s.mem = true)

include hs

@[simp] theorem intInstr_formed (w : LongWord) (sh : Shape) (f : Ic → Nat → Word) : Formed (intInstr w sh f s) :=
  issue_formed hs fun c hc => by simp [hc]

@[simp] theorem intBin_formed (w : LongWord) (sat : Bool) (f : Int → Int → Int) : Formed (intBin w sat f s) := by simp [intBin, hs]

@[simp] theorem intUn_formed (w : LongWord) (sh : Shape) (f : Nat → Nat → Nat) : Formed (intUn w sh f s) := by simp [intUn, hs]

@[simp] theorem execIdiv_formed (w : LongWord) : Formed (execIdiv w s) := by
  unfold execIdiv
  exact issue_formed hs fun c hc => by simp [hc]

@[simp] theorem shiftInstr_formed (w : LongWord) (sat : Bool) (f : Nat → Nat → Nat → Nat) : Formed (shiftInstr w sat f s) := by
  simp [shiftInstr, hs]

@[simp] theorem bitf_formed (w : LongWord) : Formed (bitf w s) := by simp [bitf, hs]

@[simp] theorem movReg_formed (w : LongWord) : Formed (movReg w s) := by simp [movReg, hs]

@[simp] theorem movImm_formed (w : LongWord) : Formed (movImm w s) := by simp [movImm, hs]

end

/-! #### Of `Float` -/

section

variable {s : State} (hs : Memory.wf s.mem = true)

include hs

@[simp] theorem floatBin_formed (w : LongWord) (f : Nat → Num → Num → Num) : Formed (floatBin w f s) := by simp [floatBin, hs]

@[simp] theorem floatFma_formed (w : LongWord) : Formed (floatFma w s) := by simp [floatFma, hs]

@[simp] theorem floatPick_formed (w : LongWord) (f : Num → Num → Num) : Formed (floatPick w f s) := by simp [floatPick, hs]

@[simp] theorem convInstr_formed (w : LongWord) (sh : Shape) (f : Ic → Nat → Nat → Nat → Nat) : Formed (convInstr w sh f s) := by
  simp [convInstr, hs]

end

/-! #### Of `Special` -/

section

variable {s : State} (hs : Memory.wf s.mem = true)

include hs

@[simp] theorem specialInstr_formed (w : LongWord) (anyRm : Bool) (f : Fmt → Nat → Num → Nat) : Formed (specialInstr w anyRm f s) := by
  unfold specialInstr
  exact issue_formed hs fun c hc => longResult_formed hc _

end

/-! #### Of `Block` -/

section

variable {s : State} (hs : Memory.wf s.mem = true)

include hs

@[simp] theorem blockInstr_formed (w : LongWord) (sh : Shape) (n : Nat) (f : Ic → Nat → List Word) : Formed (blockInstr w sh n f s) := by
  unfold blockInstr
  exact issue_formed hs fun c hc => enterLong_formed hc ..

end

/-! #### Of `Memory` -/

section

variable {s : State} (hs : Memory.wf s.mem = true)

include hs

@[simp] theorem loadGlobal_formed (w : LongWord) (k : AKind) : Formed (loadGlobal w k s) :=
  issue_formed_of_late hs (fun c hc => by simp [hc]) (fun _ _ h => txLate_formed h)

@[simp] theorem storeGlobal_formed (w : LongWord) : Formed (storeGlobal w s) := by
  refine issue_formed_of_late hs (fun c hc => ?_) (fun _ _ h => txLate_formed h)
  simp only [settles_bind]
  refine settles_checkLanes (fun ls => ?_) _ _ _ _
  have hf : Memory.wf (ls.foldl (fun s a => match txOf c a.lane with
      | l :: _ => txStore s c.core c.ctx c.grp (ordOf w.m6) { a with lane := l }
          (leBytes (tyBits (subNo w) / 8) (c.rd a.lane w.d).toNat)
      | [] => s) c.s).mem = true := foldl_wf (fun s a h => by split <;> simp [h]) hc ls
  split
  · exact enterPosted_formed (c := { c with s := _ }) hf ..
  · exact settles_postGlobal (c := { c with s := _ }) hf ..

@[simp] theorem loadSpad_formed (w : LongWord) (peer : Bool) : Formed (loadSpad w peer s) := issue_formed hs fun c hc => by simp [hc]

@[simp] theorem storeSpad_formed (w : LongWord) (peer : Bool) : Formed (storeSpad w peer s) := issue_formed hs fun c hc => by simp [hc]

@[simp] theorem execPref_formed (w : LongWord) : Formed (execPref w s) := issue_formed hs fun c hc => by simp [hc]

@[simp] theorem cmnt_formed (w : LongWord) (op : Nat) : Formed (cmnt w op s) := issue_formed hs fun c hc => by simp [hc]

@[simp] theorem execLdb_formed (w : LongWord) : Formed (execLdb w s) := issue_formed hs fun c hc => by simp [hc]

@[simp] theorem execStb_formed (w : LongWord) : Formed (execStb w s) := issue_formed hs fun c hc => by simp [hc]

end

/-! #### Of `Copy` -/

section

variable {s : State} (hs : Memory.wf s.mem = true)

include hs

@[simp] theorem startCopy_formed (w : LongWord) (kind : CopyKind) (sub : Bool) : Formed (startCopy w kind sub s) := by
  refine issue_formed hs fun c hc => ?_
  simp only [settles_bind]
  refine settles_checkCopy ?_ _ _ _ _ _ _
  generalize (if w.lit.isSome then litNat w else (c.rd 0 w.b).toNat) = n
  refine Settles.imp (P := fun _ => True) (by split <;> simp) fun k _ => ?_
  refine settles_need (P := fun _ => _) _ (Stop.formed_stall _) (enterLong_formed ?_ ..)
  split <;> simp [hc]

@[simp] theorem execWptr_formed (w : LongWord) : Formed (execWptr w s) := issue_formed hs fun c hc => by simp [hc]

@[simp] theorem waitCopy_formed (w : LongWord) (sub : Nat) : Formed (waitCopy w sub s) := by
  refine issue_formed hs fun c hc => ?_
  dsimp only
  split
  · exact enterLong_formed hc ..
  · exact ⟨(enterLong_formed hc ..).1, fun s h => by simp [h]⟩

@[simp] theorem execCcan_formed (w : LongWord) : Formed (execCcan w s) := by
  refine issue_formed hs fun c hc => ⟨(enterPosted_formed ?_ ..).1, fun s h => by simp [h]⟩
  dsimp only
  (repeat' split) <;> simp [hc]

@[simp] theorem execPubl_formed (w : LongWord) : Formed (execPubl w s) := by
  refine issue_formed hs fun c hc => ?_
  simp only [settles_bind]
  refine settles_checkLanes (fun ls => ?_) _ _ _ _
  split
  · simp only [settles_bind]
    refine settles_detBuffered fun d => ?_
    cases d <;> simp [hc]
  · simp [hc]

@[simp] theorem execPublSwap_formed : Formed (execPublSwap s) := by
  simp only [execPublSwap]
  (repeat' split) <;> simp [hs]

@[simp] theorem deliver_wf (core k : Nat) (c : Channel) (bs : List Byte) : Memory.wf (deliver s core k c bs).mem = true := by
  simp only [deliver]
  (repeat' split) <;> simp [hs, foldl_keeps State.mem]

@[simp] theorem copySector_wf (core k : Nat) (c : Channel) : Memory.wf (copySector s core k c).mem = true := by
  simp only [copySector]
  (repeat' split) <;> simp [hs]

@[simp] theorem execCopySectorDelivered_formed : Formed (execCopySectorDelivered s) := by
  simp only [execCopySectorDelivered]
  (repeat' split) <;> simp [hs]

@[simp] theorem execCopyPreemptPause_formed : Formed (execCopyPreemptPause s) := by
  simp only [execCopyPreemptPause]
  (repeat' split) <;> simp [hs]

end

/-! #### Of `Journal` -/

section

variable {s : State} (hs : Memory.wf s.mem = true)

include hs

@[simp] theorem execJapp_formed (w : LongWord) : Formed (execJapp w s) := issue_formed hs fun c hc => by simp [hc]

@[simp] theorem execEmit_formed (w : LongWord) : Formed (execEmit w s) := by
  refine issue_formed hs fun c hc => ?_
  simp only [settles_bind]
  (repeat' split) <;> simp [hc]

@[simp] theorem journalSync_formed (w : LongWord) (sub : Bool) (first : Ic → Nat) : Formed (journalSync w sub first s) := by
  refine issue_formed hs fun c hc => ?_
  dsimp only
  (repeat' split) <;> simp [hc]

end

theorem failSync_wf {s t : State} (hs : Memory.wf s.mem = true) {reason core grp : Nat} (h : failSync s reason core grp = some t) :
    Memory.wf t.mem = true := by
  unfold failSync at h
  repeat' split at h
  all_goals cases h
  exact takeTrap_wf hs ..

section

variable {s : State} (hs : Memory.wf s.mem = true)

include hs

@[simp] theorem execJsyncStallTimeout_formed : Formed (execJsyncStallTimeout s) := by
  unfold execJsyncStallTimeout
  split
  · exact (formed_next _).2 (failSync_wf hs ‹_›)
  · simp

@[simp] theorem endSyncs_wf (ctx : Nat) : Memory.wf (endSyncs s ctx).mem = true := by
  unfold endSyncs
  split
  · exact hs
  · refine foldl_wf (fun s x h => ?_) hs _
    cases hf : failSync s _ x.1 x.2 with
    | none => exact h
    | some t => exact failSync_wf h hf

@[simp] theorem partnerLost_wf (ctx : Nat) : Memory.wf (partnerLost s ctx).mem = true := by simp [partnerLost, hs]

@[simp] theorem losePartner_wf (peer : Nat) : Memory.wf (losePartner s peer).mem = true :=
  foldl_wf (fun s e h => by split <;> simp [h]) hs _

@[simp] theorem truncate_wf (ctx base : Nat) : Memory.wf (truncate s ctx base).mem = true := by
  simp only [truncate]
  (repeat' split) <;> simp [hs]

@[simp] theorem execJtrunc_formed (w : LongWord) : Formed (execJtrunc w s) := by
  refine issue_formed hs fun c hc => ?_
  dsimp only
  split <;> simp [hc]

@[simp] theorem execJseed_formed (w : LongWord) : Formed (execJseed w s) := by
  refine issue_formed hs fun c hc => ?_
  dsimp only
  generalize (if w.lit.isSome then litNat w else (c.rd 0 w.a).toNat) % 16 = peer
  split
  · exact enterLong_formed hc ..
  · exact ⟨(enterLong_formed hc ..).1, fun s h => startSeed_wf h ..⟩

@[simp] theorem execJournalRecordAtPartner_formed : Formed (execJournalRecordAtPartner s) := by
  simp only [execJournalRecordAtPartner]
  (repeat' split) <;> simp [hs]

@[simp] theorem execJournalTruncationAtPartner_formed : Formed (execJournalTruncationAtPartner s) := by
  simp only [execJournalTruncationAtPartner]
  (repeat' split) <;> simp [hs]

@[simp] theorem execJournalAck_formed : Formed (execJournalAck s) := by
  simp only [execJournalAck]
  (repeat' split) <;> simp [hs]

@[simp] theorem execReplayJournalFetch_formed : Formed (execReplayJournalFetch s) := by
  simp only [execReplayJournalFetch]
  (repeat' split) <;> simp [hs]

end

/-! #### Of `Matrix` -/

@[simp] theorem postEngine_formed (c : Ic) {r : State × Nat} (hr : Memory.wf r.1.mem = true) : (postEngine c r).Formed :=
  enterPosted_formed (c := { c with s := r.1 }) hr ..

section

variable {s : State} (hs : Memory.wf s.mem = true)

include hs

@[simp] theorem execMrsv_formed (w : LongWord) : Formed (execMrsv w s) := by
  refine issue_formed hs fun c hc => ?_
  dsimp only
  split <;> simp [hc]

@[simp] theorem execMrsvAcc_formed (w : LongWord) : Formed (execMrsvAcc w s) := by
  refine issue_formed hs fun c hc => ?_
  dsimp only
  generalize (if w.lit.isSome then litNat w else (c.rd 0 w.a).toNat) % 16 = mask
  split
  · exact enterLong_formed hc ..
  split
  · exact enterLong_formed hc ..
  · exact enterLong_formed (c := { c with s := _ }) (foldl_wf (fun s x h => by simp [h]) hc _) ..

end

@[simp] theorem resvSector_wf {p : Perf} (hp : Memory.wf p.st.mem = true) (core ctx : Nat) (svc : Bool) (v : Reservation) (i : Nat) :
    Memory.wf (resvSector core ctx svc v p i).st.mem = true := by
  simp only [resvSector]
  (repeat' split) <;> simp [hp]

section

variable {s : State} (hs : Memory.wf s.mem = true)

include hs

@[simp] theorem execMrsvCopyComplete_formed : Formed (execMrsvCopyComplete s) := by
  have sectors (core ctx : Nat) (service : Bool) (v : Reservation) (e : OttEntry) (n : Nat) :
      Memory.wf ((List.range n).foldl (resvSector core ctx service v) ⟨s, e, []⟩).st.mem = true :=
    foldl_wf_of Perf.st (fun p k h => by simp [h]) hs _
  simp only [execMrsvCopyComplete]
  (repeat' split) <;> simp [hs, sectors]

@[simp] theorem execMrel_formed (w : LongWord) : Formed (execMrel w s) := issue_formed hs fun c hc => by simp [hc]

@[simp] theorem execMrelAcc_formed (w : LongWord) : Formed (execMrelAcc w s) := by
  refine issue_formed hs fun c hc => ?_
  dsimp only
  split <;> simp [hc]

@[simp] theorem execMma_formed (w : LongWord) : Formed (execMma w s) := by
  refine issue_formed hs fun c hc => ?_
  dsimp only
  (repeat' split) <;> simp [hc]

@[simp] theorem waitEngine_formed (w : LongWord) (sh : Shape) (busy : Ic → EngEntry → Bool) (p : Ic → EngFail → Bool) :
    Formed (waitEngine w sh busy p s) := by
  refine issue_formed hs fun c hc => ?_
  simp only [settles_bind]
  (repeat' split) <;> simp [hc]

@[simp] theorem execMdrain_formed (w : LongWord) : Formed (execMdrain w s) := by
  refine issue_formed hs fun c hc => ?_
  simp only [settles_bind]
  refine settles_need _ (Stop.formed_trap _) ?_
  (repeat' split) <;> simp [hc]

@[simp] theorem execMzero_formed (w : LongWord) : Formed (execMzero w s) := by
  refine issue_formed hs fun c hc => ?_
  split <;> simp [hc]

@[simp] theorem tileMemory_formed (w : LongWord) (save : Bool) : Formed (tileMemory w save s) := by
  refine issue_formed hs fun c hc => ?_
  dsimp only
  split <;> simp [hc]

@[simp] theorem execMchk_formed (w : LongWord) : Formed (execMchk w s) := by
  refine issue_formed hs fun c hc => ?_
  split <;> simp [hc]

@[simp] theorem endCommand_wf (q slot : Nat) (x : EngEntry) (status : Word) (fail : Option TrapInfo) :
    Memory.wf (endCommand s q slot x status fail).mem = true := by
  simp only [endCommand]
  (repeat' split) <;> simp [hs]

end

@[simp] theorem engWrite_wf {r : State × Option TrapInfo} (hx : Memory.wf r.1.mem = true) (x : EngEntry) (va : Nat) (bs : List Byte) :
    Memory.wf (engWrite x r va bs).1.mem = true := by
  simp only [engWrite]
  (repeat' split) <;> simp [hx]

section

variable {s : State} (hs : Memory.wf s.mem = true)

include hs

@[simp] theorem drainTile_wf (x : EngEntry) (flags : Nat) (d dest : Word) (t : Tile) :
    Memory.wf (drainTile s x flags d dest t).1.mem = true := by
  unfold drainTile
  generalize List.range 16384 = ks
  refine foldl_wf_of (σ := State × Option TrapInfo) Prod.fst (fun r k h => ?_) hs ks
  dsimp only
  (repeat' split) <;> simp [h]

@[simp] theorem saveTile_wf (x : EngEntry) (va : Word) (t : Tile) : Memory.wf (saveTile s x va t).1.mem = true := by
  unfold saveTile
  generalize List.range 16384 = ks
  exact foldl_wf_of (σ := State × Option TrapInfo) Prod.fst (fun r k h => engWrite_wf h ..) hs ks

@[simp] theorem runCommand_wf (q : Nat) (x : EngEntry) (tiles : List (Nat × Nat)) : Memory.wf (runCommand s q x tiles).1.mem = true := by
  have clear (l : List Nat) : Memory.wf (l.foldl (fun s i => clearTile s q i) s).mem = true := foldl_wf (fun s i h => by simp [h]) hs l
  simp only [runCommand]
  (repeat' split) <;> simp [hs, clear]

@[simp] theorem commandDone_wf (q slot : Nat) (x : EngEntry) (status : Word) (fail : Option TrapInfo) :
    Memory.wf (commandDone s q slot x status fail).mem = true := by
  unfold commandDone; split <;> simp [hs]

@[simp] theorem execEngineCommandComplete_formed : Formed (execEngineCommandComplete s) := by
  simp only [execEngineCommandComplete]
  (repeat' split) <;> simp [hs]

@[simp] theorem execEngineGrant_formed : Formed (execEngineGrant s) := by
  simp only [execEngineGrant]
  (repeat' split) <;> simp [hs]

@[simp] theorem execEngineEntryAge_formed : Formed (execEngineEntryAge s) := by
  simp only [execEngineEntryAge]
  (repeat' split) <;> simp [hs]

@[simp] theorem mrelPerform_wf (q slot : Nat) (x : EngEntry) : Memory.wf (mrelPerform s q slot x).mem = true := by
  have clear (q : Nat) (ts : List (Nat × Nat)) : Memory.wf (ts.foldl (fun s t => modTile s q t.2 fun _ => Tile.reset) s).mem = true :=
    foldl_wf (fun s t h => by simpa using h) hs ts
  simp only [mrelPerform]
  (repeat' split) <;> simp [hs, clear]

@[simp] theorem execMrelPerform_formed : Formed (execMrelPerform s) := by
  simp only [execMrelPerform]
  (repeat' split) <;> simp [hs]

end

/-! #### Of `Sync` -/

section

variable {s : State} (hs : Memory.wf s.mem = true)

include hs

@[simp] theorem atomLong_formed (w : LongWord) (stream : Nat) (high : Bool) : Formed (atomLong w stream high s) := by
  refine issue_formed hs fun c hc => ?_
  simp only [settles_bind]
  exact settles_checkAtoms (fun ls => settles_detToken (settles_reserveOut hc (fun s h => enterLong_formed (c := { c with s := s }) h ..) ..)) _

@[simp] theorem execRed_formed (w : LongWord) : Formed (execRed w s) := by
  refine issue_formed hs fun c hc => ?_
  simp only [settles_bind]
  refine settles_checkAtoms (fun ls => settles_detRelease (settles_detFenced (settles_detBuffered fun d =>
    settles_reserveOut hc (fun s h => ?_) _ _) _) _) _
  cases d
  · exact enterPosted_formed (c := { c with s := s }) h ..
  · exact enterDet_formed (c := { c with s := s }) h ..

@[simp] theorem execAtoms_formed (w : LongWord) : Formed (execAtoms w s) := issue_formed hs fun c hc => by simp [hc]

@[simp] theorem execTbegin_formed (w : LongWord) : Formed (execTbegin w s) := issue_formed hs fun c hc => by simp [hc]

@[simp] theorem execTcommit_formed (w : LongWord) : Formed (execTcommit w s) := issue_formed hs fun c hc => by simp [hc]

@[simp] theorem execTabort_formed (w : LongWord) : Formed (execTabort w s) := issue_formed hs fun c hc => by simp [hc]

@[simp] theorem execTstat_formed (w : LongWord) : Formed (execTstat w s) := issue_formed hs fun c hc => by simp [hc]

end

theorem resumeBlocked_mem {s s' : State} {core grp id : Nat} {b : Block} {w : LongWord}
    (h : resumeBlocked s core grp id = some (b, w, s')) : s'.mem = s.mem := by
  unfold resumeBlocked at h
  repeat' split at h
  all_goals cases h
  exact modGroup_mem ..

section

variable {s : State} (hs : Memory.wf s.mem = true)

include hs

@[simp] theorem resumeWith_formed (b : Block) (id : Nat) {f : LongWord → State → Host.Outcome State Fault Refusal}
    (hf : ∀ w s, Memory.wf s.mem = true → Formed (f w s)) : Formed (resumeWith s b id f) := by
  unfold resumeWith
  split
  · split
    · exact hf _ _ (by rwa [resumeBlocked_mem ‹_›])
    · simp
  · simp

@[simp] theorem execExitDrainComplete_formed : Formed (execExitDrainComplete s) := by
  unfold execExitDrainComplete
  split
  · split
    · exact resumeWith_formed hs .exit 0 fun w s h => execExit_formed h w
    · simp
  · simp

@[simp] theorem execFence_formed (w : LongWord) : Formed (execFence w s) := by
  refine issue_formed hs fun c hc => ?_
  dsimp only
  (repeat' split) <;> simp [hc]

@[simp] theorem barrier_formed (w : LongWord) (ids : Nat) (scope : Scope) (h : Nat → Held) : Formed (barrier w ids scope h s) :=
  issue_formed hs fun c hc => by simp [hc]

@[simp] theorem execCbarCopy_formed (w : LongWord) : Formed (execCbarCopy w s) := by
  refine issue_formed hs fun c hc => ?_
  dsimp only
  (repeat' split) <;> simp [hc]

@[simp] theorem execArrive_formed (w : LongWord) : Formed (execArrive w s) := by
  refine issue_formed hs fun c hc => ?_
  simp only [settles_bind]
  refine settles_checkLanes (fun ls => settles_detRelease ?_ _) _ _ _ _
  generalize (if w.lit.isSome then litNat w else (c.rd 0 w.b).toNat % 2 ^ 32) = n
  cases ls <;> simp [hc]

@[simp] theorem execWaitv_formed (w : LongWord) : Formed (execWaitv w s) := by
  refine issue_formed hs fun c hc => ?_
  simp only [settles_bind]
  refine settles_checkLanes (fun ls => ?_) _ _ _ _
  cases ls with
  | nil => simp [hc]
  | cons a ls =>
    simp only [settles_bind]
    refine settles_need (P := fun _ => _) _ (Stop.formed_stall _) (settles_need (P := fun _ => _) _ (Stop.formed_stall _) ?_)
    repeat' split
    all_goals simp [hc]

@[simp] theorem execWaitvPoll_formed : Formed (execWaitvPoll s) := by
  unfold execWaitvPoll
  split
  · simp
  split
  · split <;> simp [hs]
  split
  · exact resumeWith_formed hs .waitv 0 fun w s h => execWaitv_formed h w
  · simp [hs]

@[simp] theorem execCommitTokenHandover_formed : Formed (execCommitTokenHandover s) := by
  simp only [execCommitTokenHandover]
  (repeat' split) <;> simp [hs]

@[simp] theorem execTokenWait_formed (w : LongWord) : Formed (execTokenWait w s) := by
  refine issue_formed hs fun c hc => ?_
  (repeat' split) <;> simp [hc]

@[simp] theorem execTokenPass_formed (w : LongWord) : Formed (execTokenPass w s) := by
  refine issue_formed hs fun c hc => ?_
  split <;> simp [hc]

@[simp] theorem execEdetwaitTimeout_formed : Formed (execEdetwaitTimeout s) := by
  simp only [execEdetwaitTimeout]
  (repeat' split) <;> simp [hs]

end

/-! #### Of `Remote` -/

section

variable {s : State} (hs : Memory.wf s.mem = true)

include hs

@[simp] theorem execSopen_formed (w : LongWord) : Formed (execSopen w s) := by
  refine issue_formed hs fun c hc => ?_
  dsimp only
  (repeat' split) <;> simp [hc]

@[simp] theorem execSclose_formed (w : LongWord) : Formed (execSclose w s) := by
  refine issue_formed hs fun c hc => ?_
  dsimp only
  split <;> simp [hc]

@[simp] theorem execStreamCloseDrain_formed : Formed (execStreamCloseDrain s) := by
  simp only [execStreamCloseDrain]
  (repeat' split) <;> simp [hs, foldl_keeps State.mem]

@[simp] theorem execStreamClosed_formed : Formed (execStreamClosed s) := by
  simp only [execStreamClosed]
  (repeat' split) <;> simp [hs]

@[simp] theorem markerDone_wf (r : Req) : Memory.wf (markerDone s r).mem = true := by
  unfold markerDone
  split
  · exact hs
  · split
    · next heq => exact wf_of_next heq (resumeWith_formed (by exact hs) .fence 1 fun w s h => execFence_formed h w)
    · exact hs

@[simp] theorem pollFails_wf (r : Req) (t : TrapInfo) : Memory.wf (pollFails s r t).mem = true := by
  simp only [pollFails]
  (repeat' split) <;> simp [hs]

@[simp] theorem failReq_wf (r : Req) (yst : Nat) : Memory.wf (failReq s r yst).mem = true := by
  simp only [failReq]
  (repeat' split) <;> simp [hs]

@[simp] theorem pollDone_wf (r : Req) (data : List Byte) : Memory.wf (pollDone s r data).mem = true := by
  simp only [pollDone]
  generalize hn : (if r.grp == 64 then noteFar s r.core (placeTids s r.core (pollPlace r))
    else noteFar s r.core (((groupAt s r.core r.grp).map liveTids).getD [])) = n
  have hm : Memory.wf n.mem = true := by rw [← hn]; split <;> simpa using hs
  split
  · split <;> simp [hm]
  · split
    · exact hm
    · split
      · next heq => exact wf_of_next heq (resumeWith_formed (by exact hm) .waitv _ fun w s h => execWaitv_formed h w)
      · exact hm

@[simp] theorem doneReq_wf (r : Req) (data : List Byte) : Memory.wf (doneReq s r data).mem = true := by
  simp only [doneReq]
  (repeat' split) <;> simp [hs, foldl_keeps State.mem]

@[simp] theorem staleOwner_wf (ctx owner inc : Nat) : Memory.wf (staleOwner s ctx owner inc).mem = true := by
  simp only [staleOwner]
  have lost {s : State} (h : Memory.wf s.mem = true) :
      Memory.wf (if partnerOf (ctxOf s ctx) == some owner then partnerLost s ctx else s).mem = true := by split <;> simp [h]
  refine lost (foldl_wf (fun s r h => ?_) (by simpa using hs) _)
  (repeat' split) <;> simp [h]

@[simp] theorem markDead_wf (peer : Nat) : Memory.wf (markDead s peer).mem = true := by
  simp only [markDead]
  refine losePartner_wf (foldl_wf (fun s r h => failReq_wf h r 6) ?_ _) peer
  refine foldl_wf (fun s e h => ?_) (by exact hs) _
  refine foldl_wf (fun s x h => ?_) h _
  rw [modTeam_mem]
  exact foldl_wf (fun s g h => by simp [h]) (by exact h) _

@[simp] theorem execRemoteAnswer_formed : Formed (execRemoteAnswer s) := by
  simp only [execRemoteAnswer]
  (repeat' split) <;> simp [hs]

@[simp] theorem execRemoteTimeout_formed : Formed (execRemoteTimeout s) := by
  simp only [execRemoteTimeout]
  (repeat' split) <;> simp [hs]

@[simp] theorem execBusyResend_formed : Formed (execBusyResend s) := by
  simp only [execBusyResend]
  (repeat' split) <;> simp [hs]

@[simp] theorem execYptPacketExpire_formed : Formed (execYptPacketExpire s) := by
  simp only [execYptPacketExpire]
  (repeat' split) <;> simp [hs]

@[simp] theorem execLwmIdleSend_formed : Formed (execLwmIdleSend s) := by
  simp only [execLwmIdleSend]
  (repeat' split) <;> simp [hs, foldl_keeps State.mem]

@[simp] theorem execWcDrain_formed : Formed (execWcDrain s) := by
  simp only [execWcDrain]
  (repeat' split) <;> simp [hs]

@[simp] theorem execWcAgeExpiry_formed : Formed (execWcAgeExpiry s) := by
  simp only [execWcAgeExpiry]
  (repeat' split) <;> simp [hs]

@[simp] theorem execWcDrainAck_formed : Formed (execWcDrainAck s) := by
  simp only [execWcDrainAck]
  (repeat' split) <;> simp [hs]

@[simp] theorem execRemoteReadAtOwner_formed : Formed (execRemoteReadAtOwner s) := by
  simp only [execRemoteReadAtOwner]
  (repeat' split) <;> simp [hs]

@[simp] theorem ownerWrite_wf (pols : List (Nat × Nat)) (whole : Bool) (data : List (Nat × List Byte)) :
    Memory.wf (ownerWrite s pols whole data).1.mem = true := by
  unfold ownerWrite
  split
  · simp [hs]
  · refine foldl_wf (fun s x h => by simp [h]) ?_ _
    split <;> simp [hs]

@[simp] theorem execRemoteWriteAtOwner_formed : Formed (execRemoteWriteAtOwner s) := by
  simp only [execRemoteWriteAtOwner]
  (repeat' split) <;> simp [hs]

@[simp] theorem ownerAtomic_wf (pa op ty cp wp : Nat) (b n : Word) : Memory.wf (ownerAtomic s pa op ty cp wp b n).1.mem = true := by
  simp only [ownerAtomic]
  (repeat' split) <;> simp [hs]

@[simp] theorem execStreamRequestAtOwner_formed : Formed (execStreamRequestAtOwner s) := by
  simp only [execStreamRequestAtOwner]
  (repeat' split) <;> simp [hs]

@[simp] theorem execLowWaterUpdate_formed : Formed (execLowWaterUpdate s) := by
  unfold execLowWaterUpdate; split <;> simp [hs]

@[simp] theorem execScFenceMarker_formed : Formed (execScFenceMarker s) := by
  unfold execScFenceMarker
  split
  · rw [formed_next, answer_mem]
    exact foldl_wf (fun s p h => by simp [h]) hs _
  · simp

@[simp] theorem execOwnerRestart_formed : Formed (execOwnerRestart s) := by
  unfold execOwnerRestart; split <;> simp [hs]

@[simp] theorem execLinkDown_formed : Formed (execLinkDown s) := by
  unfold execLinkDown; split <;> simp [hs]

@[simp] theorem execLinkRecover_formed : Formed (execLinkRecover s) := by
  unfold execLinkRecover; split <;> simp [hs]

@[simp] theorem execPackageRejoin_formed : Formed (execPackageRejoin s) := by
  unfold execPackageRejoin
  split
  · dsimp only
    split
    · exact (formed_next _).2 (foldl_wf (fun s r h => failReq_wf h ..) hs _)
    · simpa using hs
  · simp

end

/-! #### Of `Collective` -/

section

variable {s : State} (hs : Memory.wf s.mem = true)

include hs

@[simp] theorem piecesWrite_wf (ps : List HubPiece) (bs : List Byte) : Memory.wf (piecesWrite s ps bs).mem = true := by
  induction ps generalizing s bs with
  | nil => exact hs
  | cons p r ih => exact ih (by simp [hs]) _

end

/-- Where an access of the hub waits or fails, the state it leaves is formed. -/
def HubAcc.Formed : HubAcc → Prop
  | .ok _ => True
  | .wait s | .fail s _ _ => Memory.wf s.mem = true

section

variable {s : State} (hs : Memory.wf s.mem = true)

include hs

theorem hubAccess_formed (ctx va n : Nat) (u : HubUse) : (hubAccess s ctx va n u).Formed := by
  simp only [hubAccess]
  (repeat' split) <;> simp [HubAcc.Formed, hs]

end

theorem hubAccess_wait {s s' : State} (hs : Memory.wf s.mem = true) {ctx va n : Nat} {u : HubUse}
    (h : hubAccess s ctx va n u = .wait s') : Memory.wf s'.mem = true := by
  have hf := hubAccess_formed hs ctx va n u
  rwa [h] at hf

theorem hubAccess_fail {s s' : State} (hs : Memory.wf s.mem = true) {ctx va n k a : Nat} {u : HubUse}
    (h : hubAccess s ctx va n u = .fail s' k a) : Memory.wf s'.mem = true := by
  have hf := hubAccess_formed hs ctx va n u
  rwa [h] at hf

section

variable {s : State} (hs : Memory.wf s.mem = true)

include hs

theorem hubAll_formed (ctx : Nat) (l : List (Nat × Nat × HubUse)) : (hubAll s ctx l).Formed := by
  induction l with
  | nil => trivial
  | cons x r ih =>
    have h := hubAccess_formed hs ctx x.1 x.2.1 x.2.2
    unfold hubAll
    split
    · exact ih
    · exact h

end

theorem hubAll_wait {s s' : State} (hs : Memory.wf s.mem = true) {ctx : Nat} {l : List (Nat × Nat × HubUse)}
    (h : hubAll s ctx l = .wait s') : Memory.wf s'.mem = true := by
  have hf := hubAll_formed hs ctx l
  rwa [h] at hf

/-- Where the pieces of a window store wait or are dropped, the state they leave is formed. -/
def WinAcc.Formed : WinAcc → Prop
  | .ok _ => True
  | .wait s | .drop s _ _ => Memory.wf s.mem = true

section

variable {s : State} (hs : Memory.wf s.mem = true)

include hs

theorem winPiece_formed (ctx : Nat) (p : WinPart) : (winPiece s ctx p).Formed := by
  unfold winPiece
  split
  · simpa [WinAcc.Formed] using hs
  split
  · simpa [WinAcc.Formed] using hs
  split
  · exact hs
  rename_i c _
  split
  · simpa [WinAcc.Formed] using hs
  split
  · exact hs
  have h := hubAccess_formed hs ctx (cSrc c.rec_ + p.off) p.data.length .write
  split <;> rename_i heq <;> rw [heq] at h
  · exact h
  · exact h
  · trivial

theorem winPieces_formed (ctx : Nat) (l : List WinPart) : (winPieces s ctx l).Formed := by
  induction l with
  | nil => trivial
  | cons p r ih =>
    have h := winPiece_formed hs ctx p
    unfold winPieces
    split
    · split
      · trivial
      · exact ih
    · exact h

@[simp] theorem armRefused_wf (x : WinStore) (r : List Word) (code : Nat) : Memory.wf (armRefused s x r code).mem = true := by
  have h := hubAccess_formed hs x.ctx (cDone r) 64 .write
  unfold armRefused
  split
  · simp [hs]
  · split <;> rename_i heq <;> rw [heq] at h
    · simp [hs]
    · exact h
    · rw [winDrop_mem]
      exact h

@[simp] theorem execArm_formed : Formed (execArm s) := by
  unfold execArm
  split
  · simp
  rename_i x _
  split
  · simp
  split
  · simp [hs]
  split
  · simp [hs]
  have h := hubAccess_formed hs x.ctx (winVal x) 64 .record
  split <;> rename_i heq <;> rw [heq] at h
  · exact (formed_next _).2 h
  · rw [formed_next, winDrop_mem]
    exact h
  dsimp only
  split
  · exact (formed_next _).2 (armRefused_wf (by simpa using hs) ..)
  have hp (ps : List HubPiece) : Memory.wf (piecesTouch s ps).mem = true := by simpa using hs
  split
  next heq => exact (formed_next _).2 (hubAll_wait (hp _) heq)
  next => simpa using armRefused_wf (hp _) ..
  next => simpa using hs

@[simp] theorem execSeal_formed : Formed (execSeal s) := by
  simp only [execSeal]
  (repeat' split) <;> simp [hs]

@[simp] theorem postEnd_wf (p : CPost) : Memory.wf (postEnd s p).mem = true := by
  have h := hubAccess_formed hs p.ctx p.va 64 .write
  unfold postEnd
  split <;> rename_i heq <;> rw [heq] at h
  · simp [hs]
  · exact h
  · exact h

@[simp] theorem runPosts_wf (ctx : Nat) : Memory.wf (runPosts s ctx).mem = true :=
  foldl_wf (fun s p h => postEnd_wf h p) (by exact hs) _

@[simp] theorem endProgram_wf (n code hcode peer : Nat) (fpc faddr : Word) :
    Memory.wf (endProgram s n code hcode peer fpc faddr).mem = true := by
  simp only [endProgram]
  (repeat' split) <;> simp [hs, foldl_keeps State.mem]

@[simp] theorem execDisarm_formed : Formed (execDisarm s) := by
  unfold execDisarm
  split
  · simp
  rename_i x _
  split
  · simp
  split
  · simp [hs]
  split
  · simp [hs]
  rename_i c _
  dsimp only
  split
  · simpa using hs
  have h := hubAccess_formed hs x.ctx (cDone c.rec_) 64 .write
  split
  next heq =>
    rw [heq] at h
    exact (formed_next _).2 h
  next => simpa using endProgram_wf hs ..

@[simp] theorem execWindowDataStore_formed : Formed (execWindowDataStore s) := by
  unfold execWindowDataStore
  split
  · simp
  rename_i x _
  split
  · simp
  have h := winPieces_formed hs x.ctx x.parts
  split <;> rename_i heq <;> rw [heq] at h
  · exact (formed_next _).2 h
  · rw [formed_next, winDrop_mem]
    exact h
  · rw [formed_next, winDone_mem]
    refine piecesWrite_wf ?_ ..
    split <;> simp [hs]

@[simp] theorem execMembershipChange_formed : Formed (execMembershipChange s) := by
  simp only [execMembershipChange]
  split
  · split
    · simp
    · refine (formed_next _).2 (foldl_wf (fun s e h => ?_) (by exact hs) _)
      split <;> simp [h]
  · simp

@[simp] theorem packetBusy_formed (pkg req : Nat) : Formed (packetBusy s pkg req) := by
  unfold packetBusy; split <;> simp [hs]

@[simp] theorem packetArrives_formed (pkg req : Nat) (p : CPacket) : Formed (packetArrives s pkg req p) := by
  simp only [packetArrives]
  (repeat' split) <;> simp [hs]

@[simp] theorem execCaramelPacketArrival_formed : Formed (execCaramelPacketArrival s) := by
  simp only [execCaramelPacketArrival]
  (repeat' split) <;> simp [hs]

@[simp] theorem execCaramelTransferAck_formed : Formed (execCaramelTransferAck s) := by
  unfold execCaramelTransferAck; split <;> simp [hs]

@[simp] theorem execCaramelAbortReceived_formed : Formed (execCaramelAbortReceived s) := by
  simp only [execCaramelAbortReceived]
  (repeat' split) <;> simp [hs]

@[simp] theorem execCaramelProgramStart_formed : Formed (execCaramelProgramStart s) := by
  simp only [execCaramelProgramStart]
  (repeat' split) <;> simp [hs]

end

/-- The state that a word of a program leaves is formed. -/
def CarEff.Formed : CarEff → Prop
  | .go s _ | .hold s _ | .blocked s | .fail s _ _ | .left s _ => Memory.wf s.mem = true
  | .jump .. | .wait | .finish .. => True

@[simp] theorem CarEff.formed_go (s : State) (x : CSlot) : (CarEff.go s x).Formed ↔ Memory.wf s.mem = true := Iff.rfl

@[simp] theorem CarEff.formed_hold (s : State) (x : CSlot) : (CarEff.hold s x).Formed ↔ Memory.wf s.mem = true := Iff.rfl

@[simp] theorem CarEff.formed_blocked (s : State) : (CarEff.blocked s).Formed ↔ Memory.wf s.mem = true := Iff.rfl

@[simp] theorem CarEff.formed_fail (s : State) (n : Nat) (a : Word) : (CarEff.fail s n a).Formed ↔ Memory.wf s.mem = true := Iff.rfl

@[simp] theorem CarEff.formed_left (s : State) (k : Nat) : (CarEff.left s k).Formed ↔ Memory.wf s.mem = true := Iff.rfl

@[simp] theorem CarEff.formed_jump (x : CSlot) (d : Int) : (CarEff.jump x d).Formed := trivial

@[simp] theorem CarEff.formed_wait : CarEff.wait.Formed := trivial

@[simp] theorem CarEff.formed_finish (m n : Nat) : (CarEff.finish m n).Formed := trivial

section

variable {s : State} (hs : Memory.wf s.mem = true)

include hs

theorem caramel_formed {ok : Bool} {body : State → Nat → CSlot → CarEff} (hb : ∀ n x, (body s n x).Formed) : Formed (caramel ok body s) := by
  simp only [caramel]
  split
  · simp
  rename_i x _
  split
  · simp
  split
  · simp [hs]
  have h := hb s.iss.core x
  split <;> rename_i heq <;> rw [heq] at h
  all_goals simp at h
  all_goals simp [h, hs]

@[simp] theorem readsBufs_formed (n : Nat) (x : CSlot) (is : List (BitVec 4)) {eff : CarEff} (h : eff.Formed) :
    (readsBufs n x is s eff).Formed := by
  unfold readsBufs
  split
  · simpa using hs
  · exact h

@[simp] theorem carMatch_formed (w : CaramelFields) (rank : CSlot → Nat) (n : Nat) (x : CSlot) : (carMatch w rank s n x).Formed := by
  simp only [carMatch]
  (repeat' split) <;> simp [hs]

@[simp] theorem execCaramelMatch_formed (w : CaramelFields) : Formed (execCaramelMatch w s) := caramel_formed hs fun n x => by simp [hs]

@[simp] theorem execCaramelMatchx_formed (w : CaramelFields) : Formed (execCaramelMatchx w s) := caramel_formed hs fun n x => by simp [hs]

@[simp] theorem execCaramelRecv_formed (w : CaramelFields) : Formed (execCaramelRecv w s) := by
  refine caramel_formed hs fun n x => ?_
  (repeat' split) <;> simp [hs]

@[simp] theorem execCaramelWaitn_formed (w : CaramelFields) : Formed (execCaramelWaitn w s) := by
  refine caramel_formed hs fun n x => ?_
  (repeat' split) <;> simp [hs]

@[simp] theorem carComb_formed (w : CaramelFields) (tree : Bool) (n : Nat) (x : CSlot) : (carComb w tree s n x).Formed := by
  simp only [carComb]
  split
  · trivial
  · refine readsBufs_formed hs _ _ _ ?_
    repeat' split
    all_goals simp [hs]

@[simp] theorem execCaramelComb_formed (w : CaramelFields) : Formed (execCaramelComb w s) := caramel_formed hs fun n x => by simp [hs]

@[simp] theorem execCaramelCombo_formed (w : CaramelFields) : Formed (execCaramelCombo w s) := caramel_formed hs fun n x => by simp [hs]

@[simp] theorem execCaramelCvt_formed (w : CaramelFields) : Formed (execCaramelCvt w s) := by
  refine caramel_formed hs fun n x => ?_
  dsimp only
  (repeat' split) <;> simp [hs]

@[simp] theorem carSend_formed (i : BitVec 4) (ranks : State → CSlot → List Nat) (n : Nat) (x : CSlot) : (carSend i ranks s n x).Formed := by
  refine readsBufs_formed hs _ _ _ ?_
  split
  · dsimp only
    split
    · simpa using hs
    · split <;> exact foldl_wf_of Prod.fst (fun r k h => by simpa using h) hs _
  · simpa using hs

@[simp] theorem execCaramelFwd_formed (w : CaramelFields) : Formed (execCaramelFwd w s) := caramel_formed hs fun n x => by simp [hs]

@[simp] theorem execCaramelMcast_formed (w : CaramelFields) : Formed (execCaramelMcast w s) := caramel_formed hs fun n x => by simp [hs]

@[simp] theorem execCaramelSend_formed (w : CaramelFields) : Formed (execCaramelSend w s) := caramel_formed hs fun n x => by simp [hs]

@[simp] theorem execCaramelGath_formed (w : CaramelFields) : Formed (execCaramelGath w s) := by
  refine caramel_formed hs fun n x => ?_
  dsimp only
  split
  · simp
  split
  · simpa using hs
  split
  · simp
  split <;> rename_i heq
  · exact hubAccess_wait hs heq
  · exact hubAccess_fail hs heq
  · split <;> simp [hs]

@[simp] theorem execCaramelScat_formed (w : CaramelFields) : Formed (execCaramelScat w s) := by
  refine caramel_formed hs fun n x => ?_
  dsimp only
  (repeat' split) <;> simp [hs]

@[simp] theorem execScatWritesPerformed_formed : Formed (execScatWritesPerformed s) := by
  unfold execScatWritesPerformed
  split
  · simp
  rename_i x _
  split
  · simp
  rename_i sc rest _
  have h := hubAccess_formed hs x.ctx sc.va sc.bytes.length .write
  split <;> rename_i heq <;> rw [heq] at h
  · exact (formed_next _).2 h
  · exact (formed_next _).2 (endProgram_wf h ..)
  · simp [hs]

@[simp] theorem execCaramelDrop_formed (w : CaramelFields) : Formed (execCaramelDrop w s) := by
  refine caramel_formed hs fun n x => ?_
  (repeat' split) <;> simp [hs]

@[simp] theorem execCaramelLdk_formed (w : CaramelFields) : Formed (execCaramelLdk w s) := by
  unfold execCaramelLdk
  refine caramel_formed hs fun n x => ?_
  dsimp only
  split
  case h_3 | h_4 => split <;> exact hs
  all_goals exact hs

@[simp] theorem execCaramelSetk_formed (w : CaramelFields) : Formed (execCaramelSetk w s) := caramel_formed hs fun n x => by simp [hs]

@[simp] theorem execCaramelAddk_formed (w : CaramelFields) : Formed (execCaramelAddk w s) := by
  refine caramel_formed hs fun n x => ?_
  dsimp only
  (repeat' split) <;> simp [hs]

@[simp] theorem execCaramelBrk_formed (w : CaramelFields) : Formed (execCaramelBrk w s) := caramel_formed hs fun _ _ => by simp

@[simp] theorem execCaramelBnz_formed (w : CaramelFields) : Formed (execCaramelBnz w s) := caramel_formed hs fun _ _ => by simp

@[simp] theorem execCaramelLoopk_formed (w : CaramelFields) : Formed (execCaramelLoopk w s) := by
  refine caramel_formed hs fun n x => ?_
  dsimp only
  (repeat' split) <;> simp

@[simp] theorem execCaramelPost_formed (w : CaramelFields) : Formed (execCaramelPost w s) := by
  refine caramel_formed hs fun n x => ?_
  split
  · simp
  split
  · simpa using hs
  split <;> rename_i heq
  · exact hubAccess_wait hs heq
  · exact hubAccess_fail hs heq
  · simp [hs]

@[simp] theorem execCaramelDone_formed (w : CaramelFields) : Formed (execCaramelDone w s) := by
  refine caramel_formed hs fun n x => ?_
  (repeat' split) <;> simp

@[simp] theorem execCaramelHalt_formed (w : CaramelFields) : Formed (execCaramelHalt w s) := caramel_formed hs fun _ _ => by simp

@[simp] theorem execCaramelIllegalWord_formed (w : Option (BitVec 32)) : Formed (execCaramelIllegalWord w s) := by
  refine caramel_formed hs fun n x => ?_
  (repeat' split) <;> simp [hs]

end

/-! #### Of `System` -/

@[simp] theorem settles_csrWrite {c : Ic} (hc : Memory.wf c.s.mem = true) (n : Nat) (x : Word) :
    Settles (fun s : State => Memory.wf s.mem = true) (csrWrite c n x) := by
  simp only [csrWrite]
  (repeat' split) <;> simp [hc, csrRefused]

theorem issueCsr_late (w : LongWord) (pre : Ic → Option TrapInfo) (c : Ic) : (issueCsr w pre).late c = none := by
  unfold issueCsr
  split <;> rfl

section

variable {s : State} (hs : Memory.wf s.mem = true)

include hs

@[simp] theorem execCsrr_formed (w : LongWord) : Formed (execCsrr w s) :=
  issue_formed_of_late hs (fun c hc => csrResult_formed c hc) (by simp [issueCsr_late])

@[simp] theorem execCsrw_formed (w : LongWord) : Formed (execCsrw w s) := by
  refine issue_formed hs fun c hc => ?_
  rw [settles_bind]
  exact (settles_csrWrite hc _ _).imp fun s h => ⟨h, fun _ h => h⟩

@[simp] theorem csrExchange_formed (w : LongWord) (sub : Bool) (new : Word → Word → Word) : Formed (csrExchange w sub new s) := by
  refine issue_formed_of_late hs (fun c hc => ?_) (by simp [issueCsr_late])
  rw [settles_bind]
  exact (settles_csrWrite hc _ _).imp fun s h => csrResult_formed c h

@[simp] theorem execCsrxSwap_formed (w : LongWord) : Formed (execCsrxSwap w s) := by simp [execCsrxSwap, hs]

@[simp] theorem execCsrxSet_formed (w : LongWord) : Formed (execCsrxSet w s) := by simp [execCsrxSet, hs]

@[simp] theorem execCsrxClr_formed (w : LongWord) : Formed (execCsrxClr w s) := by simp [execCsrxClr, hs]

@[simp] theorem writeRow_formed (p : Nat → Bool) : Formed (writeRow p s) := by
  unfold writeRow
  split
  · split <;> simp [fetchGroup_ok hs ‹_›]
  · split <;> simp [fetchGroup_ok hs ‹_›]
  · split <;> simp [fetchGroup_ok hs ‹_›]
  · split <;> simp [fetchGroup_ok hs ‹_›]
  · simp

@[simp] theorem execMeyeStart_formed : Formed (execMeyeStart s) := by
  have h := writeRow_formed hs (· == 0x0CB)
  unfold execMeyeStart
  split
  next heq =>
    rw [heq] at h
    split
    · exact h
    · simp
  next => exact h

@[simp] theorem execMeyeCountDone_formed : Formed (execMeyeCountDone s) := by
  unfold execMeyeCountDone; split <;> simp [hs]

@[simp] theorem execRegisterWrite_formed : Formed (execRegisterWrite s) := by
  simp only [execRegisterWrite]
  (repeat' split) <;> simp [hs]

@[simp] theorem execTrapret_formed (w : LongWord) : Formed (execTrapret w s) := by
  refine issue_formed hs fun c hc => ?_
  split
  · simpa using hc
  · exact ⟨hc, fun s h => by simpa using h⟩

@[simp] theorem execRegion_formed (w : LongWord) : Formed (execRegion w s) := issue_formed hs fun c hc => by simp [hc]

@[simp] theorem tlbinv_formed (w : LongWord) (sub : Bool) (a b c : Use) : Formed (tlbinv w sub a b c s) := by
  refine issue_formed hs fun c hc => ?_
  (repeat' split) <;> simp [hc]

@[simp] theorem execTlbinvCtx_formed (w : LongWord) : Formed (execTlbinvCtx w s) := by simp [execTlbinvCtx, hs]

@[simp] theorem execTlbinvRange_formed (w : LongWord) : Formed (execTlbinvRange w s) := by simp [execTlbinvRange, hs]

@[simp] theorem execTlbinvAll_formed (w : LongWord) : Formed (execTlbinvAll w s) := by simp [execTlbinvAll, hs]

@[simp] theorem execTlbinvComplete_formed : Formed (execTlbinvComplete s) := by
  unfold execTlbinvComplete
  split
  · simp
  split
  · split
    · split
      · simp
      · refine resumeWith_formed hs .tlbinv 1 fun w s h => ?_
        split
        · simp [h]
        · split <;> simp [h]
    · simp
  · simp

@[simp] theorem selftest_formed (w : LongWord) (pattern : Nat) (operand : Bool) (pre : Ic → Option TrapInfo) (avail : Ic → Nat → Bool) :
    Formed (selftest w pattern operand pre avail s) := by
  refine issue_formed hs fun c hc => ?_
  dsimp only
  (repeat' split) <;> simp [hc]

end

/-! #### Of `GroupEvents` -/

section

variable {s : State} (hs : Memory.wf s.mem = true)

include hs

@[simp] theorem execLongResultReturn_formed : Formed (execLongResultReturn s) := by
  simp only [execLongResultReturn]
  (repeat' split) <;> simp [hs]

@[simp] theorem execPostedEntryPerformed_formed : Formed (execPostedEntryPerformed s) := by
  simp only [execPostedEntryPerformed]
  (repeat' split) <;> simp [hs]

@[simp] theorem execOttEntryGrant_formed : Formed (execOttEntryGrant s) := by
  simp only [execOttEntryGrant]
  (repeat' split) <;> simp [hs]

@[simp] theorem consumeSlot_wf (core grp : Nat) (g : Group) (x : Slot) (n : Nat) : Memory.wf (consumeSlot s core grp g x n).mem = true := by
  simp only [consumeSlot]
  (repeat' split) <;> simp [hs]

@[simp] theorem execParkCommit_formed : Formed (execParkCommit s) := by
  simp only [execParkCommit]
  (repeat' split) <;> simp [hs]

@[simp] theorem groupFaultResolved_formed (core grp : Nat) (found : Bool) (writes : List Host.Cell) :
    Formed (groupFaultResolved s core grp found writes) := by
  simp only [groupFaultResolved]
  (repeat' split) <;> simp [hs]

@[simp] theorem execTableWalkDone_formed : Formed (execTableWalkDone s) := by
  simp only [execTableWalkDone]
  (repeat' split) <;> simp [hs, foldl_keeps State.mem]

@[simp] theorem execLldWindowEnd_formed : Formed (execLldWindowEnd s) := by
  unfold execLldWindowEnd; split <;> simp [hs]

@[simp] theorem execYieldTimeout_formed : Formed (execYieldTimeout s) := by
  simp only [execYieldTimeout]
  (repeat' split) <;> simp [hs]

@[simp] theorem execReformBinDraw_formed : Formed (execReformBinDraw s) := by
  simp only [execReformBinDraw]
  (repeat' split) <;> simp [hs]

@[simp] theorem execReformBinAgeExpiry_formed : Formed (execReformBinAgeExpiry s) := by
  simp only [execReformBinAgeExpiry]
  (repeat' split) <;> simp [hs]

@[simp] theorem execReformDetDrain_formed : Formed (execReformDetDrain s) := by
  simp only [execReformDetDrain]
  (repeat' split) <;> simp [hs]

end

/-! #### Of `Launch` -/

section

variable {s : State} (hs : Memory.wf s.mem = true)

include hs

@[simp] theorem execDepSampleOnUpdate_formed : Formed (execDepSampleOnUpdate s) := by
  simp only [execDepSampleOnUpdate]
  (repeat' split) <;> simp [hs]

@[simp] theorem execDepSampleTimer_formed : Formed (execDepSampleTimer s) := by
  unfold execDepSampleTimer; split <;> simp [hs]

@[simp] theorem resendSaved_wf (core : Nat) (r : Req) : Memory.wf (resendSaved core s r).mem = true := by
  simp only [resendSaved]
  (repeat' split) <;> simp [hs]

@[simp] theorem resumeTeam_wf (n ctx : Nat) (old new : List Nat) (x : Nat × Team × List Req) :
    Memory.wf (resumeTeam n ctx old new s x).mem = true := by
  unfold resumeTeam
  refine foldl_wf (fun s d h => by split <;> simp [h]) ?_ _
  rw [modCtx_mem]
  exact foldl_wf (fun s r h => resendSaved_wf h ..) (by simpa using hs) _

@[simp] theorem dispatchCluster_wf (n k : Nat) (l : Launch) (cores : List Nat) : Memory.wf (dispatchCluster s n k l cores).mem = true := by
  simp only [dispatchCluster]
  split
  · exact foldl_wf (fun s c h => by simp [h]) (foldl_wf (fun s x h => resumeTeam_wf h ..) (by simpa using hs) _) _
  · exact foldl_wf (fun s c h => by simp [h]) (by simpa using hs) _

@[simp] theorem execClusterDispatch_formed : Formed (execClusterDispatch s) := by
  simp only [execClusterDispatch]
  (repeat' split) <;> simp [hs]

@[simp] theorem execPriorityPreemption_formed : Formed (execPriorityPreemption s) := by
  simp only [execPriorityPreemption]
  (repeat' split) <;> simp [hs]

@[simp] theorem execPreemptionHalted_formed : Formed (execPreemptionHalted s) := by
  have saved (ts : List (Nat × Team)) : Memory.wf (ts.foldl (fun (a : State × List (Nat × Team × List Req)) e =>
      let x := saveTeam a.1 e.1
      (x.1, a.2 ++ x.2.toList)) (s, [])).1.mem = true := foldl_wf_of Prod.fst (fun a e h => by simpa using h) hs ts
  unfold execPreemptionHalted
  split
  · simp
  dsimp only
  split
  · simp
  split
  · simp
  · rw [formed_next, settleHead_mem]
    exact foldl_wf (fun s e h => by simp [h]) (by simpa using saved _) _

@[simp] theorem execTeamEndChannelsQuiet_formed : Formed (execTeamEndChannelsQuiet s) := by
  simp only [execTeamEndChannelsQuiet]
  (repeat' split) <;> simp [hs]

@[simp] theorem execTeamEndEngineDone_formed : Formed (execTeamEndEngineDone s) := by
  simp only [execTeamEndEngineDone]
  (repeat' split) <;> simp [hs]

@[simp] theorem execPeerWindowCloseAck_formed : Formed (execPeerWindowCloseAck s) := by
  simp only [execPeerWindowCloseAck]
  (repeat' split) <;> simp [hs]

@[simp] theorem postDone_wf (l : Launch) (lost : Bool) (pa : Nat) : Memory.wf (postDone s l lost pa).mem = true := by
  simp only [postDone]
  (repeat' split) <;> simp [hs]

@[simp] theorem execLaunchRetire_formed : Formed (execLaunchRetire s) := by
  simp only [execLaunchRetire]
  (repeat' split) <;> simp [hs]

end

/-! #### Of `Hub` -/

section

variable {s : State} (hs : Memory.wf s.mem = true)

include hs

@[simp] theorem runSubmit_wf (m : Nat) : Memory.wf (runSubmit s m).mem = true := by
  simp only [runSubmit]
  (repeat' split) <;> simp [hs]

@[simp] theorem execMailboxSubmit_formed : Formed (execMailboxSubmit s) := by
  simp only [execMailboxSubmit]
  (repeat' split) <;> simp [hs]

@[simp] theorem execMailboxDonebitClear_formed : Formed (execMailboxDonebitClear s) := by
  simp only [execMailboxDonebitClear]
  (repeat' split) <;> simp [hs]

@[simp] theorem runService_wf (recaddr : Word) (kept : Option LaunchRecord) : Memory.wf (runService s recaddr kept).mem = true := by
  unfold runService; split <;> simp [hs]

@[simp] theorem execServiceSubmission_formed : Formed (execServiceSubmission s) := by
  unfold execServiceSubmission
  cases s.msg with
  | none =>
    dsimp only
    split
    · split
      · simp
      · exact (formed_next _).2 (runService_wf (by exact hs) ..)
    · simp
  | some m =>
    cases m
    case service a =>
      dsimp only
      split
      · simp
      · split
        · exact (formed_next _).2 hs
        · exact (formed_next _).2 (runService_wf hs ..)
    all_goals exact formed_fault _

@[simp] theorem writeLeaf_wf (l : Leaf) (e : Nat) : Memory.wf (writeLeaf s l e).mem = true := by simp [writeLeaf, hs]

@[simp] theorem clearPages_wf (r : MgmtReq) (ls : List Leaf) : Memory.wf (clearPages s r ls).mem = true := by
  unfold clearPages
  rw [dropTranslations_mem]
  exact foldl_wf (fun s l h => by split <;> simp [h]) hs _

@[simp] theorem finishMigrate_wf (r : MgmtReq) : Memory.wf (finishMigrate s r).mem = true :=
  foldl_wf_of (σ := State × Nat) Prod.fst (fun _ _ h => writeLeaf_wf (copyFrames_wf h ..) ..) hs r.leaves

end

set_option smartUnfolding false in
/-- An OP word of another mailbox starts no request: the test of the mailbox's number is that of the match itself. -/
theorem management_other {s : State} {k : Nat} {op : Word} (hm : s.msg = some (.mailboxOp k op)) (hk : k ≠ 64) (code : Nat)
    (start : State → MgmtReq → State) (again : State → MgmtReq → Option State) : management code start again s = .fault .notEnabled := by
  unfold management
  rw [hm]
  exact dif_neg (c := k = 64) (e := fun _ => Host.Outcome.fault Fault.notEnabled) hk

section

variable {s : State} (hs : Memory.wf s.mem = true)

include hs

theorem management_formed (code : Nat) {start : State → MgmtReq → State} {again : State → MgmtReq → Option State}
    (hstart : ∀ s r, Memory.wf s.mem = true → Memory.wf (start s r).mem = true)
    (hagain : ∀ r t, again s r = some t → Memory.wf t.mem = true) : Formed (management code start again s) := by
  cases hm : s.msg with
  | none =>
    unfold management
    rw [hm]
    dsimp only
    split
    · simp
    · split
      next heq =>
        obtain ⟨r, -, hr⟩ := Option.bind_eq_some_iff.1 heq
        exact (formed_next _).2 (hagain r _ hr)
      next => simp
  | some m =>
    cases m
    case mailboxOp k op =>
      by_cases hk : k = 64
      · subst hk
        unfold management
        rw [hm]
        show Formed (if _ then _ else _)
        split
        · simp
        · dsimp only
          split
          · exact (formed_next _).2 (by exact hs)
          · exact (formed_next _).2 (hstart _ _ (by exact hs))
      · rw [management_other hm hk]
        simp
    all_goals
      unfold management
      rw [hm]
      exact formed_fault _

@[simp] theorem execUnmap_formed : Formed (execUnmap s) := by
  refine management_formed hs 0x10 (fun s r h => ?_) fun r t ht => ?_
  · dsimp only
    split <;> simp [h]
  · split at ht <;> cases ht
    simpa using hs

@[simp] theorem execMigrate_formed : Formed (execMigrate s) := by
  refine management_formed hs 0x11 (fun s r h => ?_) fun r t ht => ?_
  · dsimp only
    repeat' split
    all_goals simp [h]
  · split at ht <;> cases ht
    simp [hs]

@[simp] theorem execReclaim_formed : Formed (execReclaim s) := by
  refine management_formed hs 0x12 (fun s r h => ?_) fun r t ht => by cases ht
  dsimp only
  split <;> simp [h]

@[simp] theorem execExportFrames_formed : Formed (execExportFrames s) :=
  management_formed hs 0x13 (fun s r h => by simpa using h) fun r t ht => by cases ht

@[simp] theorem execUnexportFrames_formed : Formed (execUnexportFrames s) :=
  management_formed hs 0x14 (fun s r h => by simpa using h) fun r t ht => by cases ht

@[simp] theorem execContextCreate_formed : Formed (execContextCreate s) := by
  unfold execContextCreate
  split
  · split
    · simp
    · simpa [createContext_mem] using hs
  · simp

@[simp] theorem execContextDestroy_formed : Formed (execContextDestroy s) := by
  simp only [execContextDestroy]
  (repeat' split) <;> simp [hs]

@[simp] theorem dictResolved_wf (n : Nat) (found : Bool) (writes : List Host.Cell) : Memory.wf (dictResolved s n found writes).mem = true := by
  unfold dictResolved
  split <;> simp [hs]

@[simp] theorem hubResolved_wf (ctx page : Nat) (found : Bool) (writes : List Host.Cell) :
    Memory.wf (hubResolved s ctx page found writes).mem = true := by
  cases found
  · exact runPosts_wf (by exact hs) ctx
  · exact runPosts_wf (by exact firmwareWrites_wf (by exact hs) writes) ctx

@[simp] theorem execPageFaultResolved_formed : Formed (execPageFaultResolved s) := by
  simp only [execPageFaultResolved]
  (repeat' split) <;> simp [hs]

end

/-! #### Of `Boot` -/

section

variable {s : State} (hs : Memory.wf s.mem = true)

include hs

@[simp] theorem hubReset_wf : Memory.wf (hubReset s).mem = true := by simp [hubReset, hs]

@[simp] theorem execHubReset_formed : Formed (execHubReset s) := by
  unfold execHubReset; split <;> simp [hs]

@[simp] theorem execFirmwareRestart_formed : Formed (execFirmwareRestart s) := by
  simp only [execFirmwareRestart]
  (repeat' split) <;> simp [hs]

end

@[simp] theorem powerLost_wf (s : State) : Memory.wf (powerLost s).mem = true := rfl

@[simp] theorem execPowerOff_formed (s : State) : Formed (execPowerOff s) := by
  unfold execPowerOff; split <;> simp

@[simp] theorem execOverTemperatureTrip_formed (s : State) : Formed (execOverTemperatureTrip s) := by
  unfold execOverTemperatureTrip; split <;> simp

section

variable {s : State} (hs : Memory.wf s.mem = true)

include hs

@[simp] theorem execBootRomVerify_formed : Formed (execBootRomVerify s) := by
  simp only [execBootRomVerify]
  (repeat' split) <;> simp [hs]

@[simp] theorem execDieAdmission_formed : Formed (execDieAdmission s) := by
  simp only [execDieAdmission]
  (repeat' split) <;> simp [hs, foldl_keeps State.mem]

@[simp] theorem execEngineSelftestStage_formed : Formed (execEngineSelftestStage s) := by
  simp only [execEngineSelftestStage]
  (repeat' split) <;> simp [hs, foldl_keeps State.mem]

@[simp] theorem execThermalThrottle_formed : Formed (execThermalThrottle s) := by
  unfold execThermalThrottle
  split
  · exact (formed_next _).2 (foldl_wf (fun s d h => by simp [h]) hs _)
  · simp

@[simp] theorem execThermalRecover_formed : Formed (execThermalRecover s) := by
  unfold execThermalRecover; split <;> simp [hs]

@[simp] theorem execCorrectionWindowEnd_formed : Formed (execCorrectionWindowEnd s) := by
  unfold execCorrectionWindowEnd; split <;> simp [hs]

@[simp] theorem execElogAck_formed : Formed (execElogAck s) := by
  unfold execElogAck; split <;> simp [hs]

@[simp] theorem execHostBar0InvalidAccess_formed : Formed (execHostBar0InvalidAccess s) := by
  simp only [execHostBar0InvalidAccess]
  (repeat' split) <;> simp [hs]

end

/-! #### Of `Dictionary` -/

section

variable {s : State} (hs : Memory.wf s.mem = true)

include hs

@[simp] theorem execEntry_formed (i : Instr) : Formed (execEntry i s) := by
  unfold execEntry
  split <;> simp [hs, execBraB, execCallB, execIaddI32K, execIaddI64K, execIsubI32K, execImulI32K, execShlN32K, execShrN32K, execBitfAndK, execBitfOrK,
    execBitfXorK, execFaddF32K, execFmulF32K, execFfmaF32K, execFaddBf16K, execFmulBf16K, execFfmaBf16K, execFminF32K, execFmaxF32K,
    execMovK, execLdgN32K, execLdgN64K, execStgN32K, execStgN64K, execLdsN32K, execLdsN64K, execStsN32K, execStsN64K, execIaddI32J,
    execIaddI64J, execShlN32J, execShrN32J, execBitfAndJ, execMoviI32J, execIllegalK]

@[simp] theorem execD16Code_formed (w : D16Word) : Formed (execD16Code w s) := by
  simp only [execD16Code]
  (repeat' split) <;> simp [hs]

end

/-! #### Of `Lane` -/

section

variable {s : State} (hs : Memory.wf s.mem = true)

include hs

@[simp] theorem laneInstr_formed (w : LongWord) (sh : Shape) (reads : Ic → List Nat) (f : Ic → Nat → Word) :
    Formed (laneInstr w sh reads f s) := issue_formed hs fun c hc => by simp [hc]

end

@[simp] theorem splatResult_formed {c : Ic} (hc : Memory.wf c.s.mem = true) (x : Word) : (splatResult c x).Formed := by
  simp [splatResult, hc]

section

variable {s : State} (hs : Memory.wf s.mem = true)

include hs

@[simp] theorem execBcast_formed (w : LongWord) : Formed (execBcast w s) := issue_formed hs fun c hc => by simp [hc]

@[simp] theorem execMatchOp_formed (w : LongWord) : Formed (execMatchOp w s) := by
  unfold execMatchOp
  exact issue_formed hs fun c hc => enterLong_formed hc ..

@[simp] theorem execRedl_formed (w : LongWord) : Formed (execRedl w s) := by
  unfold execRedl
  exact issue_formed hs fun c hc => by simp [hc]

end

/-! #### Of `Dispatch` -/

section

variable {s : State} (hs : Memory.wf s.mem = true)

include hs

@[simp] theorem exec_formed (i : Instr) : Formed (exec i s) := by
  unfold exec
  split <;> simp [hs, execBra, execBraB, execBrx, execCall, execCallB, execCallx, execRet, execLoop, execLoopImm, execIllegalD16, execIllegalK,
    execIllegalW, execIllegalX, execPvoteSome, execPvoteEvery, execPvoteSame, execPvoteMask, execPvoteCount, execIadd, execIaddI32K,
    execIaddI64K, execIaddI32J, execIaddI64J, execIsub, execIsubI32K, execImin, execImax, execImul, execImulI32K, execImulh, execImad,
    execIabs, execPopc, execClz, execBrev, execShl, execShlN32K, execShlN32J, execShr, execShrN32K, execShrN32J, execShra, execRot,
    execBitf, execBitfAndK, execBitfOrK, execBitfXorK, execBitfAndJ, execBfx, execBfi, execSel, execMov, execMovK, execMovi,
    execMoviI32J, execMovs, execLea, execCvti, execFadd, execFaddF32K, execFaddBf16K, execFsub, execFmul, execFmulF32K, execFmulBf16K,
    execFfma, execFfmaF32K, execFfmaBf16K, execFmin, execFminF32K, execFmax, execFmaxF32K, execFclass, execFrnd, execFcvt, execFcvti,
    execIcvtf, execFdot, execFscale, execFrcp, execFrsq, execFsqrt, execFexp2, execFlog2, execFsin, execFcos, execFtanh, execBqnt,
    execBdeq, execZpsub, execPack, execUnpack, execAmaxb, execLdg, execLdgN32K, execLdgN64K, execLdc, execStg, execStgN32K,
    execStgN64K, execLds, execLdsN32K, execLdsN64K, execSts, execStsN32K, execStsN64K, execLdx, execStx, execCmntPin, execCmntUnpin,
    execCmntClean, execCmntEvict, execCmntL1inv, execCpy, execCpym, execCpyg, execCpygSpad, execCwait, execCwaitStat, execJsync,
    execJsyncCtx, execMwait, execMwaitAll, execMsave, execMload, execAtom, execAtomx, execBar, execCbar, execBankroleWrite,
    execTgtctxWrite, execTpcWrite, execErrstatClear, execJpartnerWrite, execTranslationCsrWrite, execSelftestLane, execSelftestL1,
    execSelftestEngine, execSelftestRfull, execSelftestLink, execShfl, execPerm, execScanl]

end

/-! #### Of `Turns` -/

@[simp] theorem issued_formed {s : State} (core grp : Nat) {o : Host.Outcome State Fault Refusal} (h : Formed o) :
    Formed (issued s core grp o) := by
  cases o with
  | next t => simpa [issued] using h
  | fault f => simp [issued]
  | refused r => simp [issued]

section

variable {s : State} (hs : Memory.wf s.mem = true)

include hs

@[simp] theorem runIssue_formed (core grp : Nat) : Formed (runIssue s core grp) := by
  unfold runIssue
  split
  next heq => exact issued_formed core grp (exec_formed (fetchGroup_ok (by exact hs) heq) _)
  next heq => exact issued_formed core grp (fetchGroup_error (by exact hs) heq)
  next => simp

@[simp] theorem runCaramel_formed (n : Nat) : Formed (runCaramel s n) := by
  have h' : Memory.wf ({ s with msg := none, iss := at_ n 0 0 } : State).mem = true := hs
  unfold runCaramel
  generalize ({ s with msg := none, iss := at_ n 0 0 } : State) = s' at h' ⊢
  dsimp only
  split
  · simp
  split
  · exact exec_formed h' _
  split <;> rename_i heq
  · exact exec_formed (by simpa using h') _
  · exact (formed_next _).2 (hubAccess_wait h' heq)
  · exact exec_formed (hubAccess_fail h' heq) _

@[simp] theorem runMessage_formed : Formed (runMessage s) := by
  simp only [runMessage]
  (repeat' split) <;> simp [hs]

@[simp] theorem runHeld_formed (i : Nat) : Formed (runHeld s i) := by
  simp only [runHeld]
  (repeat' split) <;> simp [hs]

@[simp] theorem runTrap_formed (core grp : Nat) : Formed (runTrap s core grp) := by
  simp only [runTrap]
  (repeat' split) <;> simp [hs]

@[simp] theorem runTurn_formed (t : Turn) : Formed (runTurn s t) := by
  unfold runTurn; split <;> simp [hs]

end

/-! #### Of `Step` -/

section

variable {s : State} (hs : Memory.wf s.mem = true)

include hs

@[simp] theorem step_formed : Formed (step s) := by
  unfold step; split <;> simp [hs]

end

/-- Settles O60: memory keeps its canonical form in every step, by `step_formed`, whose one lemma per operation is above. -/
theorem stepKeepsMemoryForm : Obligations.StepKeepsMemoryForm := fun _ t hs h => step_formed hs t h

end Sys2Proof.Machine

end

section
/-! The checks of a lane's address, in the order of Table 4.7, and the lanes of an instruction together (R59, R61, R62, R64, R223). -/

namespace Sys2Proof.Machine

/-! ### One lane -/

theorem checkLane_misaligned {s : State} {core ctx : Nat} {svc : Bool} {walked : List (Nat × Nat)} {k : AKind} {va align : Nat}
    {wide : Bool} (hk : k ≠ .pref) (hv : va % align ≠ 0) : checkLane s core ctx svc walked k va align wide = .trap ⟨0x03, word va, 0⟩ := by
  simp [checkLane, hk, hv]

section

variable {s : State} {core ctx : Nat} {svc : Bool} {walked : List (Nat × Nat)} {k : AKind} {va align : Nat} {wide : Bool}
  (hv : va % align = 0)

include hv

theorem checkLane_fault {n : Nat} (ht : translate s core ctx walked va = .fault n) (hn : n ≠ 2) :
    checkLane s core ctx svc walked k va align wide = .trap (kindTrap n va) := by
  simp only [checkLane, hv, ht]
  split <;> simp_all

theorem checkLane_notValid (ht : translate s core ctx walked va = .fault 2) :
    checkLane s core ctx svc walked k va align wide = .notValid := by
  simp [checkLane, hv, ht]

theorem checkLane_miss {p : Nat} (ht : translate s core ctx walked va = .miss p) :
    checkLane s core ctx svc walked k va align wide = .miss p := by
  simp [checkLane, hv, ht]

variable {x : Xl} (ht : translate s core ctx walked va = .ok x)

include ht

/-- A page of MT 6: a service group loads and stores n32 and n64 there (R59, R134). -/
theorem checkLane_device (hm : x.mt = 6) (hk : k ≠ .launch) :
    checkLane s core ctx svc walked k va align wide =
      if svc = false then .trap (kindTrap 5 va)
      else if (k ≠ .load ∧ k ≠ .store) ∨ wide = false then .trap (kindTrap 4 va)
      else if k = .store ∧ x.w = false then .trap (kindTrap 6 va) else .ok x := by
  simp [checkLane, hv, ht, hm, hk]

/-- Any other page: the memory type of the access, W, X, PEERDEAD (Table 4.7). -/
theorem checkLane_page (h : x.mt ≠ 6 ∨ k = .launch) :
    checkLane s core ctx svc walked k va align wide =
      if admits k x.mt = false then .trap (kindTrap 4 va)
      else if needsW k = true ∧ x.w = false then .trap (kindTrap 6 va)
      else if k = .fetch ∧ x.x = false then .trap (kindTrap 7 va)
      else if (x.mt = 5 ∧ s.peerdead.getLsbD x.aux = true) ∧ k ≠ .copySrc then .trap (goneTrap x.aux va)
      else .ok x := by
  have hd : (x.mt == 6 && k != .launch) = false := by
    rcases h with h | h <;> simp [h]
  simp [checkLane, hv, ht, hd, goneTrap]

end

theorem laneChecks : Claims.LaneChecks := by
  intro s core ctx svc walked k va align wide hk _ out
  refine ⟨checkLane_misaligned hk, fun hv => ⟨fun n hn => checkLane_fault hv hn, checkLane_notValid hv, fun p => checkLane_miss hv,
    fun x ht => ⟨fun hm hl => ?_, fun hm hl => ?_, fun hm ha => ?_, fun hm ha => ?_⟩⟩⟩
  · have hout : out = _ := checkLane_device hv ht hm hl
    rw [hout]
    refine ⟨fun h => if_pos h, fun h => ?_⟩
    rw [if_neg (by simp [h])]
    refine ⟨fun hw => if_pos hw, fun hw hk => ?_, fun hw hk => ?_⟩
    · rw [if_neg (by simp [hw, hk]), if_neg (by simp [hk])]
    · rw [if_neg (by simp [hw, hk])]
      cases hx : x.w
      · exact if_pos ⟨hk, rfl⟩
      · exact if_neg (by simp)
  · have hout : out = _ := checkLane_page hv ht (.inr hl)
    rw [hout]
    exact if_pos (by rw [hl, hm]; rfl)
  · have hout : out = _ := checkLane_page hv ht (.inl hm)
    rw [hout]
    exact if_pos ha
  · have hout : out = _ := checkLane_page hv ht (.inl hm)
    rw [hout, if_neg (by simp [ha])]
    refine ⟨fun hw hx => if_pos ⟨hw, hx⟩, fun hw => ?_⟩
    rw [if_neg fun h => by simp [hw h.1] at h]
    refine ⟨fun hk hx => if_pos ⟨hk, hx⟩, fun hx => ?_⟩
    rw [if_neg fun h => by simp [hx h.1] at h]
    refine ⟨fun hm hd hk => if_pos ⟨⟨hm, hd⟩, hk⟩, fun hd => if_neg fun h => ?_⟩
    obtain ⟨⟨hm, hp⟩, hk⟩ := h
    simp [hd hm hk] at hp

/-! ### The lanes together -/

/-- The page of a lane that misses. -/
def LaneTr.missOf : LaneTr → Option Nat
  | .miss p => some p
  | _ => none

/-- The trap of a lane that fails with one. -/
def LaneTr.trapOf : LaneTr → Option TrapInfo
  | .trap t => some t
  | _ => none

/-- The address of a lane that meets an entry that is not valid. -/
def LaneTr.notValidOf (va : Nat) : LaneTr → Option Nat
  | .notValid => some va
  | _ => none

/-- The access of a lane that passes. -/
def LaneTr.accOf (lane va : Nat) : LaneTr → Option Acc
  | .ok x => some ⟨lane, va, x⟩
  | _ => none

@[simp] theorem LaneTr.missOf_ok (x : Xl) : (LaneTr.ok x).missOf = none := rfl
@[simp] theorem LaneTr.trapOf_ok (x : Xl) : (LaneTr.ok x).trapOf = none := rfl
@[simp] theorem LaneTr.trapOf_trap (t : TrapInfo) : (LaneTr.trap t).trapOf = some t := rfl
@[simp] theorem LaneTr.notValidOf_ok (va : Nat) (x : Xl) : (LaneTr.ok x).notValidOf va = none := rfl
@[simp] theorem LaneTr.accOf_ok (lane va : Nat) (x : Xl) : (LaneTr.ok x).accOf lane va = some ⟨lane, va, x⟩ := rfl

/-- What the lanes come to: the misses, then the first trap, then the first entry that is not valid, then the accesses. -/
theorem joinLanes_eq (r : List (Nat × Nat × LaneTr)) : joinLanes r =
    if !(r.filterMap (fun e => e.2.2.missOf)).isEmpty then .misses (sortNat (r.filterMap (fun e => e.2.2.missOf)))
    else match r.findSome? (fun e => e.2.2.trapOf) with
      | some t => .trap t
      | none => match r.findSome? (fun e => e.2.2.notValidOf e.2.1) with
        | some va => .pageFault va
        | none => .ok (r.filterMap (fun e => e.2.2.accOf e.1 e.2.1)) := rfl

theorem joined_ok {vas : List (Nat × Nat)} {one : Nat → LaneTr} {f : Nat → Xl} (h : ∀ v ∈ vas, one v.2 = .ok (f v.2)) :
    joined (vas.map (fun v => (v.1, v.2, one v.2))) = .ok (vas.map (fun v => ⟨v.1, v.2, f v.2⟩)) := by
  have none_found {α : Type} : vas.findSome? (fun _ => (none : Option α)) = none := List.findSome?_eq_none_iff.2 fun _ _ => rfl
  rw [List.map_congr_left (g := fun v => (v.1, v.2, LaneTr.ok (f v.2))) fun v hv => by rw [h v hv], joined, joinLanes_eq]
  simp [List.findSome?_map, List.filterMap_map, Function.comp_def, none_found]

/-- No lane misses, and of the lanes that fail with a trap the first is `v`: its trap is the instruction's (R62, R223). -/
theorem joined_trap {pre post : List (Nat × Nat)} {v : Nat × Nat} {one : Nat → LaneTr} {t : TrapInfo}
    (hm : ∀ u ∈ pre ++ v :: post, ∀ p, one u.2 ≠ .miss p) (hv : one v.2 = .trap t) (hpre : ∀ u ∈ pre, ∀ t', one u.2 ≠ .trap t') :
    joined ((pre ++ v :: post).map (fun v => (v.1, v.2, one v.2))) = .error (.trap t) := by
  have hmiss : ((pre ++ v :: post).map (fun v => (v.1, v.2, one v.2))).filterMap (fun e => e.2.2.missOf) = [] := by
    rw [List.filterMap_map, List.filterMap_eq_nil_iff]
    intro u hu
    cases ho : one u.2 with
    | miss p => exact absurd ho (hm u hu p)
    | _ => simp [ho, LaneTr.missOf]
  have htrap : pre.findSome? (fun u => (one u.2).trapOf) = none := by
    rw [List.findSome?_eq_none_iff]
    intro u hu
    cases ho : one u.2 with
    | trap t' => exact absurd ho (hpre u hu t')
    | _ => rfl
  rw [joined, joinLanes_eq, hmiss, List.findSome?_map]
  simp [List.findSome?_append, Function.comp_def, htrap, hv]

theorem lanesTogether : Claims.LanesTogether := by
  intro c k align wide vas one
  refine ⟨fun f h => joined_ok h, fun pre v post t hvas hm hv hpre => ?_⟩
  subst hvas
  exact joined_trap hm hv hpre

/-- Settles O20: the checks of one lane by the two chains that a page of MT 6 and any other page meet, the lanes together by what
`joinLanes` looks for first. -/
theorem checkedLanes : Obligations.CheckedLanes := ⟨laneChecks, lanesTogether⟩

end Sys2Proof.Machine

end

section
/-! The scratchpad accesses, the block accesses, PREF and CMNT complete with their entries (R57, R223, R227 to R231). -/

namespace Sys2Proof.Machine

/-! ### What the DET rules let pass (R314, R316) -/

theorem need_true {b : Bool} (h : b = true) (st : Stop) : need b st = .ok () := by simp [need, h]

theorem detRelease_ok {c : Ic} {o : Ord} (h : c.mayRelease o) : detRelease c o = .ok () := by
  refine need_true ?_ _
  rcases h with h | h | h | ⟨hd, ht⟩
  · simp [h]
  · simp [h]
  · have : ¬ 2 ≤ scopeRank o.scope := by omega
    simp [this]
  · rcases ht with ht | ht <;> simp [hd, ht]

theorem detFenced_ok {c : Ic} {work : Work} (h : ¬ c.afterFence work) : detFenced c work = .ok () := by
  refine need_true ?_ _
  simp only [Ic.afterFence, not_and_or, Bool.not_eq_true, ne_eq, Decidable.not_not] at h
  rcases h with h | h | h <;> simp [h]

theorem detBuffered_direct {c : Ic} (h : c.writesNow) : detBuffered c = .ok .direct := by
  rcases h with h | h <;> simp [detBuffered, h]

theorem detBuffered_buffer {c : Ic} (h : c.buffers) : detBuffered c = .ok .buffer := by
  obtain ⟨hd, ht, hh, hl⟩ := h
  have : ¬ 256 ≤ c.t.det.length := by omega
  simp [detBuffered, hd, ht, hh, this]

section

variable {c : Ic} {o : Ord} {work : Work} (hr : c.mayRelease (effOrd o work)) (hf : ¬ c.afterFence work)

include hr hf

theorem postGlobal_direct (h : c.writesNow) : postGlobal c o work = .ok (enterPosted c o work) := by
  simp only [postGlobal, detRelease_ok hr, detFenced_ok hf, detBuffered_direct h]
  rfl

theorem postGlobal_buffer (h : c.buffers) : postGlobal c o work = .ok (enterDet c o work) := by
  simp only [postGlobal, detRelease_ok hr, detFenced_ok hf, detBuffered_buffer h]
  rfl

end

theorem enterDet_done {s : State} {w : LongWord} {sh : Shape} {k : Issue} {c : Ic} (h : Offered s w sh k c) (o : Ord) (work : Work) :
    BufferedDone c o work (retire (enterDet c o work).st c.core c.grp c.pc c.next c.act [] w.s) := by
  have ht : tget ({ c.s with stamp := c.s.stamp + 1 } : State).teams c.core = some c.t := h.team
  refine ⟨?_, fun a => ?_⟩
  · simp only [enterDet, modTeam_eq ht, retire]
    refine (modGroup_eq (g := c.g) (setTeam_get _ _ _) ?_ _).trans ?_
    · exact h.group
    rw [setTeam_setTeam, ← h.word]
    rfl
  · have hm : (retire (enterDet c o work).st c.core c.grp c.pc c.next c.act [] w.s).mem = c.s.mem := by simp [enterDet]
    rw [hm]

/-- An instruction whose body makes an entry of the DET buffer completes with it. -/
theorem buffered_completes {i : Instr} {s : State} {w : LongWord} {sh : Shape} {k : Issue} {c : Ic} (h : offer s w sh k = .ok c)
    (body : Ic → Except Stop Eff) (he : exec i s = issue s w sh k body) (hk : k.blocking = false) (o : Ord) (work : Work)
    (hb : body c = .ok (enterDet c o work)) : Completes i s (BufferedDone c o work) := by
  refine ⟨_, he.trans ((issue_ok h _).trans ?_), enterDet_done (offer_ok h) _ _⟩
  simp [hb, hk]; rfl

/-! ### The scratchpad -/

theorem loadSpad_completes {i : Instr} {w : LongWord} {peer : Bool} (he : ∀ s, exec i s = loadSpad w peer s) {s : State} {c : Ic}
    {ls : List SAcc} (h : offer s w (shapeMem w (mSLoad w) (.dst 1)) { entry := true, dests := [destOf w.d] } = .ok c)
    (hl : checkSpads c peer (tyBits (subNo w) / 8) (effLanes c) = .ok ls) :
    Completes i s (LongDone c [destOf w.d] (ordOf w.m6) (.sload (subNo w) ls) []) :=
  long_completes h _ (he s) rfl _ _ _ _ (by simp only [hl]; rfl)

theorem storeSpad_completes {i : Instr} {w : LongWord} {peer : Bool} (he : ∀ s, exec i s = storeSpad w peer s) {s : State} {c : Ic}
    {ls : List SAcc} (h : offer s w (shapeMem w (mSStore w) (.src 1)) { entry := true } = .ok c)
    (hl : checkSpads c peer (tyBits (subNo w) / 8) (effLanes c) = .ok ls) (hr : c.mayRelease (ordOf w.m6)) :
    Completes i s (PostedDone c (ordOf w.m6) (.sstore (subNo w) (ls.map (fun a => (a, c.rd a.lane w.d))))) :=
  posted_completes h _ (he s) rfl _ _ (by simp only [hl, detRelease_ok hr]; rfl)

section

variable {c : Ic} {n l ea : Nat}

theorem checkSpad_misaligned (h : ea % n ≠ 0) (peer : Bool) : checkSpad c peer n l ea = .error ⟨0x03, word ea, 0⟩ := by
  simp [checkSpad, h]

theorem checkSpad_own (h : ea % n = 0) (hb : ea + n ≤ recScratch c.r) : checkSpad c false n l ea = .ok ⟨l, c.core, ea⟩ := by
  simp [checkSpad, h, hb]

theorem checkSpad_beyond (h : ea % n = 0) (hb : recScratch c.r < ea + n) : checkSpad c false n l ea = .error ⟨0x05, word ea, 8⟩ := by
  have : ¬ ea + n ≤ recScratch c.r := by omega
  simp [checkSpad, h, this]

/-- The address of a peer's scratchpad that names the team's own rank (R227). -/
theorem checkSpad_self (h : ea % n = 0) (he : ea < 2 ^ 24) (hr : ea / 2 ^ 20 = c.t.tix) (ht : c.t.tix < recTeams c.r)
    (hb : ea % 2 ^ 20 + n ≤ recScratch c.r) : checkSpad c true n l ea = .ok ⟨l, c.core, ea % 2 ^ 20⟩ := by
  have hrank : bitsAt ea 20 4 = c.t.tix := by
    rw [← hr, bitsAt]
    omega
  simp [checkSpad, h, hrank]
  omega

end

theorem scratchpadAccesses : Claims.ScratchpadAccesses :=
  ⟨fun _ _ _ _ => loadSpad_completes fun _ => rfl, fun _ _ _ _ => loadSpad_completes fun _ => rfl,
    fun _ _ _ _ => loadSpad_completes fun _ => rfl, fun _ _ _ _ => loadSpad_completes fun _ => rfl,
    fun _ _ _ _ => storeSpad_completes fun _ => rfl, fun _ _ _ _ => storeSpad_completes fun _ => rfl,
    fun _ _ _ _ => storeSpad_completes fun _ => rfl, fun _ _ _ _ => storeSpad_completes fun _ => rfl,
    fun _ _ _ _ _ => ⟨checkSpad_misaligned, checkSpad_own, checkSpad_beyond, checkSpad_self⟩⟩

/-! ### Blocks, PREF and CMNT -/

theorem ldb_completes {w : LongWord} {s : State} {c : Ic} {ls : List (List (Acc × Nat))}
    (h : offer s w (shapeBlock w (mLoad w) .dst)
      { entry := true, tx := some 2, dests := (List.range (payRegs (subNo w) + 1)).map (destAt w.d) } = .ok c)
    (hl : checkBlocks c .ldb = .ok ls) (hq : overQuota c = false) (hm : meetsBuffered c ls.flatten = false)
    (hr : c.mayRelease (effOrd (ordOf w.m6) (.loadBlock (subNo w) ls))) :
    Completes (.ldb w) s (LongDone c ((List.range (payRegs (subNo w) + 1)).map (destAt w.d)) (ordOf w.m6) (.loadBlock (subNo w) ls) []) :=
  long_completes h _ rfl rfl _ _ _ _ (by
    simp only [hl, need_true (show (!overQuota c) = true by simp [hq]), detRelease_ok hr, bind, Except.bind,
      need_true (show (!meetsBuffered c ls.flatten) = true by simp [hm])])

theorem pref_completes {w : LongWord} {s : State} {c : Ic} (h : offer s w { a := .src 1, b := .src 1 } { entry := true } = .ok c)
    (hq : w.m6.toNat % 4 = 1 → overQuota c = false) :
    Completes (.pref w) s (PostedDone c Ord.relaxed (.pref (w.m6.toNat % 4) (subNo w + 1) ((effLanes c).map (·.2)))) :=
  posted_completes h _ rfl rfl _ _ (by
    have hn : (!(w.m6.toNat % 4 == 1 && overQuota c)) = true := by
      by_cases h1 : w.m6.toNat % 4 = 1 <;> simp [h1, hq]
    simp only [need_true hn]
    rfl)

theorem cmnt_completes {i : Instr} {w : LongWord} {op : Nat} (he : ∀ s, exec i s = cmnt w op s) {s : State} {c : Ic}
    {ls : List (List (Acc × Nat))} (h : offer s w { sub := subNo w == op, a := .src 1, b := .src 1 } { entry := true } = .ok c)
    (hl : checkParts c .cmnt ((effLanes c).map (fun x =>
      (x.1, x.2, (x.2, 1, 128) :: (List.range w.m6.toNat).map (fun i => (x.2 / 128 * 128 + 128 * (i + 1), 1, 128))))) = .ok ls) :
    Completes i s (PostedDone c Ord.relaxed (.cmnt op (ls.flatMap (fun l => l.map (fun x => { x.1 with va := x.1.va / 128 * 128 }))))) :=
  posted_completes h _ (he s) rfl _ _ (by simp only [hl]; rfl)

/-- What STB stores: each lane's payload and metadata, from D's registers (R229, R230). -/
def stbWork (c : Ic) (w : LongWord) (ls : List (List (Acc × Nat))) : Work :=
  .storeBlock (subNo w) ((ls.zip c.lanes).map (fun (x : List (Acc × Nat) × Nat) => (x.1,
    substPayload (subNo w) (((List.range (payRegs (subNo w))).flatMap (fun q => leBytes 8 (readRegAt c.g x.2 w.d q).toNat)).take
      (payBytes (subNo w)))
      ++ leBytes (if w.c == 0#8 then 4 else metaBytes (subNo w)) (substMeta (subNo w) (readRegAt c.g x.2 w.d (payRegs (subNo w))).toNat))))

/-- STB is a global store of that work once its blocks are checked. -/
theorem stb_body (w : LongWord) (s : State) {c : Ic} {ls : List (List (Acc × Nat))} (hl : checkBlocks c .stb = .ok ls) :
    ∃ body, exec (.stb w) s = issue s w (shapeBlock w (mStore w) .src) { entry := true, tx := some 2 } body
      ∧ body c = postGlobal c (ordOf w.m6) (stbWork c w ls) := by
  refine ⟨_, rfl, ?_⟩
  simp only [hl, stbWork, List.flatMap_map, bind, Except.bind]

theorem stb_completes {w : LongWord} {s : State} {c : Ic} {ls : List (List (Acc × Nat))}
    (h : offer s w (shapeBlock w (mStore w) .src) { entry := true, tx := some 2 } = .ok c) (hl : checkBlocks c .stb = .ok ls)
    (hr : c.mayRelease (effOrd (ordOf w.m6) (stbWork c w ls))) (hf : ¬ c.afterFence (stbWork c w ls)) :
    (c.writesNow → Completes (.stb w) s (PostedDone c (ordOf w.m6) (stbWork c w ls)))
    ∧ (c.buffers → Completes (.stb w) s (BufferedDone c (ordOf w.m6) (stbWork c w ls))) := by
  obtain ⟨body, he, hb⟩ := stb_body w s hl
  exact ⟨fun hw => posted_completes h body he rfl _ _ (hb.trans (postGlobal_direct hr hf hw)),
    fun hw => buffered_completes h body he rfl _ _ (hb.trans (postGlobal_buffer hr hf hw))⟩

theorem blockAccessesAndHints : Claims.BlockAccessesAndHints :=
  ⟨fun _ _ _ _ => ldb_completes, fun _ _ _ _ h hl hr hf => stb_completes h hl hr hf, fun _ _ _ => pref_completes,
    fun _ _ _ _ => cmnt_completes fun _ => rfl, fun _ _ _ _ => cmnt_completes fun _ => rfl,
    fun _ _ _ _ => cmnt_completes fun _ => rfl, fun _ _ _ _ => cmnt_completes fun _ => rfl,
    fun _ _ _ _ => cmnt_completes fun _ => rfl⟩

/-- Settles O25: each access completes by its body at its offer, with what the DET rules let pass. -/
theorem scratchpadAndBlocks : Obligations.ScratchpadAndBlocks := ⟨scratchpadAccesses, blockAccessesAndHints⟩

end Sys2Proof.Machine

end

section
/-! REGION and TLBINV complete, and what TLBINV leaves of the translations (R53, R65, R356, R357). -/

namespace Sys2Proof.Machine

/-! ### A trap of an offered instruction before its other checks (R343) -/

theorem issueTrap_pre {c : Ic} {k : Issue} {tr : TrapInfo} (h : k.pre c = some tr) : issueTrap c k = some tr := by
  simp [issueTrap, h]

/-- An instruction that passes is its group's at the cursor, or at its park. -/
theorem offer_context {s : State} {w : LongWord} {sh : Shape} {k : Issue} {c : Ic} (h : offer s w sh k = .ok c) :
    ∃ t g, c = issueIc s w sh t g ∨ c = (issueIc s w sh t g).atPark := by
  unfold offer at h
  split at h
  · cases h
  rename_i t _
  split at h
  · cases h
  rename_i g _
  refine ⟨t, g, ?_⟩
  dsimp only at h
  generalize hc : (if (k.blocking && !g.parked) = true then (issueIc s w sh t g).atPark else issueIc s w sh t g) = c' at h
  have heq : c = c' := by
    repeat' split at h
    all_goals cases h
    rfl
  rw [heq, ← hc]
  split
  · exact .inr rfl
  · exact .inl rfl

theorem offer_mem {s : State} {w : LongWord} {sh : Shape} {k : Issue} {c : Ic} (h : offer s w sh k = .ok c) : c.s.mem = s.mem := by
  obtain ⟨t, g, rfl | rfl⟩ := offer_context h
  · rfl
  · rw [atPark_mem]
    rfl

/-- The context of a blocking instruction: at its park where nothing of its stretch is outstanding. -/
def blockingIc (s : State) (w : LongWord) (sh : Shape) (t : Team) (g : Group) : Ic :=
  if g.parked = false ∧ g.rb = [] then (issueIc s w sh t g).atPark else issueIc s w sh t g

theorem blockingIc_svc {s : State} {w : LongWord} {sh : Shape} {t : Team} {g : Group} (ht : tget s.teams s.iss.core = some t)
    (hg : tget t.groups s.iss.grp = some g) : (blockingIc s w sh t g).svc = isService s t := by
  unfold blockingIc
  split
  · rw [atPark_eq (c := issueIc s w sh t g) ht hg]
    rfl
  · rfl

/-- A blocking instruction that decodes and that its mode or its privilege forbids traps, before its park where results are
outstanding (R343, log 35). -/
theorem offer_forbidden {s : State} {w : LongWord} {sh : Shape} {k : Issue} {t : Team} {g : Group} {tr : TrapInfo}
    (ht : tget s.teams s.iss.core = some t) (hg : tget t.groups s.iss.grp = some g) (hb : k.blocking = true)
    (hpre : ∀ c : Ic, c.svc = isService s t → k.pre c = some tr) (hact : (issueIc s w sh t g).act ≠ [])
    (hen : (blockingIc s w sh t g).en ≠ [])
    (hd : decodeFail { sh with ok13 := k.flag (recOf s t) } w (recVregs (recOf s t)) = none) :
    offer s w sh k = .error (stopState (blockingIc s w sh t g) (.trap tr)) := by
  have htrap : issueTrap (blockingIc s w sh t g) k = some tr := issueTrap_pre (hpre _ (blockingIc_svc ht hg))
  have hd' : decodeFail { sh with ok13 := k.flag (issueIc s w sh t g).r } w (recVregs (issueIc s w sh t g).r) = none := hd
  unfold offer
  simp only [ht, hg, List.isEmpty_iff, hact, if_false, hd', hb, Bool.true_and]
  unfold blockingIc at hen htrap ⊢
  cases hp : g.parked <;> by_cases hr : g.rb = []
  all_goals simp only [hp, hr, if_true, if_false, true_and, and_true, false_and, Bool.true_eq_false] at hen htrap ⊢
  all_goals simp [hr, hen, htrap]

theorem issue_stopped {s : State} {w : LongWord} {sh : Shape} {k : Issue} {o : Host.Outcome State Fault Refusal}
    (h : offer s w sh k = .error o) (body : Ic → Except Stop Eff) : issue s w sh k body = o := by
  simp only [issue, h]

/-! ### TLBINV -/

/-- The issue of every form of TLBINV. -/
def tlbinvIssue : Issue := { blocking := true, tx := some 2, pre := fun c => if c.svc then none else some ⟨0x02, 0, 0⟩ }

/-- The shape of a form of TLBINV. -/
def tlbinvShape (w : LongWord) (sub : Bool) (a b c : Use) : Shape :=
  { form := w.lit.isNone, sub := sub, m6 := layoutZ w, a := a, b := b, c := c, port := .uniform }

section

variable {s : State} {w : LongWord} {sub : Bool} {a b d : Use}

/-- Outside a service group (log 35). -/
theorem tlbinv_outside {t : Team} {g : Group} (ht : tget s.teams s.iss.core = some t) (hg : tget t.groups s.iss.grp = some g)
    (hs : isService s t = false) (hact : (issueIc s w (tlbinvShape w sub a b d) t g).act ≠ [])
    (hen : (blockingIc s w (tlbinvShape w sub a b d) t g).en ≠ [])
    (hd : decodeFail (tlbinvShape w sub a b d) w (recVregs (recOf s t)) = none) :
    tlbinv w sub a b d s = stopState (blockingIc s w (tlbinvShape w sub a b d) t g) (.trap ⟨0x02, 0, 0⟩) := by
  have h : offer s w (tlbinvShape w sub a b d) tlbinvIssue =
      .error (stopState (blockingIc s w (tlbinvShape w sub a b d) t g) (.trap ⟨0x02, 0, 0⟩)) :=
    offer_forbidden ht hg rfl (fun c hc => by simp [tlbinvIssue, hc, hs]) hact hen hd
  exact issue_stopped h _

variable {c : Ic} {x : TlbScope} (h : offer s w (tlbinvShape w sub a b d) tlbinvIssue = .ok c) (hx : tlbScope w (c.rd 0) = .ok x)

include h hx

theorem tlbinv_empty (he : x.hi = x.lo) : tlbinv w sub a b d s =
    .next (retire (modCtx c.s (x.ctx.getD 0) Context.applyCsrs) c.core c.grp c.pc c.next c.act [] false) := by
  refine (issue_ok h _).trans ?_
  simp [hx, he, tlbinvIssue]

theorem tlbinv_gone (hr : x.lo < x.hi) (hi : c.s.iss.id = 1) :
    tlbinv w sub a b d s = .next (c.with (retireGroup c.pc c.next c.act [] false c.g)) := by
  have hne : ¬ x.hi = x.lo := by omega
  refine (issue_ok h _).trans ?_
  simp [hx, hi, hne, tlbinvIssue, with_self (offer_ok h).team (offer_ok h).group]

theorem tlbinv_waits (hr : x.lo < x.hi) (hi : c.s.iss.id ≠ 1) : tlbinv w sub a b d s =
    .next (modGroup (dropTranslations c.s x) c.core c.grp (fun g => { g with status := .blocked .tlbinv w c.len c.s.iss.d16, stall := none })) := by
  have hne : ¬ x.hi = x.lo := by omega
  refine (issue_ok h _).trans ?_
  simp only [hx, hne, hi, decide_false, Bool.false_or, beq_iff_eq, if_false, stopState, (offer_ok h).word]
  rfl

end

theorem region_completes {w : LongWord} {s : State} {c : Ic}
    (h : offer s w (shapeW w) { blocking := true, tx := some 2, pre := fun c => if c.g.hm.isSome then some wrongMode else none } = .ok c)
    (hr : regionWaits c = false) : Completes (.region w) s (fun t => SameMemory s t ∧
      t = setEntries (c.with (retireGroup c.pc c.next c.act [] false c.g)) c.core c.grp c.en) := by
  have o := offer_ok h
  refine ⟨_, (issue_ok h _).trans ?_, fun a => ?_, rfl⟩
  · rw [← with_self o.team o.group]
    simp [hr, need]
    rfl
  · rw [setEntries_mem]
    exact congrArg (memByte · a) (offer_mem h)

/-- The three outcomes of a form of TLBINV that is offered and names its range. -/
theorem tlbinv_settles {i : Instr} {w : LongWord} {sub : Bool} {a b d : Use} (he : ∀ s, exec i s = tlbinv w sub a b d s) {s : State} {c : Ic}
    {x : TlbScope} (h : offer s w (tlbinvShape w sub a b d) tlbinvIssue = .ok c) (hx : tlbScope w (c.rd 0) = .ok x) :
    (x.hi = x.lo → Completes i s (fun t => SameMemory s t ∧
      t = retire (modCtx c.s (x.ctx.getD 0) Context.applyCsrs) c.core c.grp c.pc c.next c.act [] false))
    ∧ (x.lo < x.hi → c.s.iss.id = 1 → Completes i s (fun t => t = c.with (retireGroup c.pc c.next c.act [] false c.g) ∧ SameMemory s t))
    ∧ (x.lo < x.hi → c.s.iss.id ≠ 1 → exec i s = .next (modGroup (dropTranslations c.s x) c.core c.grp (fun g =>
        { g with status := .blocked .tlbinv w c.len c.s.iss.d16, stall := none }))) :=
  ⟨fun hh => ⟨_, (he s).trans (tlbinv_empty h hx hh), fun a => by rw [retire_mem, modCtx_mem, offer_mem h], rfl⟩,
    fun hr hi => ⟨_, (he s).trans (tlbinv_gone h hx hr hi), rfl, fun a => congrArg (memByte · a) (offer_mem h)⟩,
    fun hr hi => (he s).trans (tlbinv_waits h hx hr hi)⟩

theorem regionAndTlbinv : Claims.RegionAndTlbinv :=
  ⟨fun _ _ _ => region_completes, fun _ _ _ _ _ => tlbinv_settles fun _ => rfl, fun _ _ _ _ _ => tlbinv_settles fun _ => rfl,
    fun _ _ _ _ _ => tlbinv_settles fun _ => rfl, fun _ _ _ _ ht hg hs ha _ hen hd => tlbinv_outside ht hg hs ha hen hd,
    fun _ _ _ _ ht hg hs ha _ hen hd => tlbinv_outside ht hg hs ha hen hd, fun _ _ _ _ ht hg hs ha _ hen hd => tlbinv_outside ht hg hs ha hen hd⟩

/-! ### What is left of the translations -/

theorem translationsDropped : Claims.TranslationsDropped := by
  intro s x t
  refine ⟨fun a => by rw [show t.mem = s.mem from dropTranslations_mem s x], fun e he y hy => ?_, fun e he y hy => ?_, fun e he y hy => ?_,
    fun e he ch hch y hy => ?_, fun e he hn => ?_⟩
  all_goals obtain ⟨e', -, rfl⟩ := List.mem_map.1 he
  · simpa using (List.mem_filter.1 hy).2
  · simpa using (List.mem_filter.1 hy).2
  · simpa using (List.mem_filter.1 hy).2
  · obtain ⟨ch', -, rfl⟩ := List.mem_map.1 hch
    simpa using (List.mem_filter.1 hy).2
  · simp only [show x.names e'.1 = true from hn, if_true, Context.applyCsrs, and_self]

/-- Settles O39: the outcomes of REGION and of the forms of TLBINV from their offer, and what `dropTranslations` filters. -/
theorem regionsAndTranslations : Obligations.RegionsAndTranslations := ⟨regionAndTlbinv, translationsDropped⟩

end Sys2Proof.Machine

end

section
/-! Walks, bandwidth windows and the drawing of bins (R56, R63, R64, R113, R115 to R117). -/

namespace Sys2Proof.Machine

/-! ### Walks -/

theorem mem_cacheAdd_self {α : Type} [DecidableEq α] {cap : Nat} (hc : 0 < cap) (l : List α) (x : α) : x ∈ cacheAdd cap l x := by
  unfold cacheAdd
  rw [List.drop_append_of_le_length (by simp; omega)]
  simp

@[simp] theorem dieOf_modDie_self (s : State) (d : Nat) (f : Die → Die) : dieOf (modDie s d f) d = f (dieOf s d) := by
  simp [dieOf, modDie, tgetD]

@[simp] theorem coreRegs_modCore_self (s : State) (k : Nat) (f : CoreRegs → CoreRegs) : coreRegs (modCore s k f) k = f (coreRegs s k) := by
  simp [coreRegs, modCore, tgetD]

theorem coreRegs_modCore_ne (s : State) {k j : Nat} (h : j ≠ k) (f : CoreRegs → CoreRegs) : coreRegs (modCore s k f) j = coreRegs s j := by
  simp [coreRegs, modCore, tgetD, tget_tset_ne _ _ h]

@[simp] theorem walkOver_dies (s : State) (page : Nat) (r : Except Nat Xl) (ctx : Nat) (w : Nat × Nat) :
    (walkOver s page r ctx w).dies = s.dies := by
  unfold walkOver
  split <;> simp

/-- A waiter whose walk finds a translation has it in its core's TLB, and every core keeps it (R64). -/
theorem walkOver_tlb {s : State} {page ctx k : Nat} {x : Xl} {w : Nat × Nat} (h : k = w.1 ∨ (ctx, x) ∈ (coreRegs s k).tlb) :
    (ctx, x) ∈ (coreRegs (walkOver s page (.ok x) ctx w) k).tlb := by
  have hc : coreRegs (walkOver s page (.ok x) ctx w) k = coreRegs (modCore s w.1 (fun c => { c with tlb := cacheAdd 128 c.tlb (ctx, x) })) k := by
    unfold walkOver coreRegs
    simp only [modGroup_cores]
  rw [hc]
  by_cases hk : k = w.1
  · subst hk
    rw [coreRegs_modCore_self]
    dsimp only
    exact mem_cacheAdd_self (by omega) _ _
  · rw [coreRegs_modCore_ne _ hk]
    exact h.resolve_left hk

theorem walkOvers_tlb {page ctx k : Nat} {x : Xl} (ws : List (Nat × Nat)) {s : State}
    (h : (∃ w ∈ ws, k = w.1) ∨ (ctx, x) ∈ (coreRegs s k).tlb) :
    (ctx, x) ∈ (coreRegs (ws.foldl (fun s w => walkOver s page (.ok x) ctx w) s) k).tlb := by
  induction ws generalizing s with
  | nil => simpa using h
  | cons w ws ih =>
    refine ih ?_
    rcases h with ⟨v, hv, hk⟩ | h
    · rcases List.mem_cons.1 hv with rfl | hv
      · exact .inr (walkOver_tlb (.inl hk))
      · exact .inl ⟨v, hv, hk⟩
    · exact .inr (walkOver_tlb (.inr h))

theorem tableWalkDone_ends {s : State} {m : _} (hm : (dieOf s s.iss.core).misses[s.iss.id]? = some m) :
    ∃ t, exec .tableWalkDone s = .next t ∧ SameMemory s t
      ∧ (dieOf t s.iss.core).misses = (dieOf s s.iss.core).misses.eraseIdx s.iss.id
      ∧ ∀ x, let c := ctxNow s m.ctx m.page
          nbit c.usePtroot.toNat 0 = true → walkFrom s (walkRead s (dieOf s s.iss.core) m.ctx) m.page (rootOf c) 3 = .ok x →
          (m.ctx, x) ∈ (dieOf t s.iss.core).tlb ∧ ∀ w ∈ m.waiters, (m.ctx, x) ∈ (coreRegs t w.1).tlb := by
  have dies (r : Except Nat Xl) (u : State) : (m.waiters.foldl (fun s w => walkOver s m.page r m.ctx w) u).dies = u.dies :=
    foldl_keeps State.dies _ (fun s w => walkOver_dies ..) _ _
  have die (r : Except Nat Xl) (u : State) (d : Nat) :
      dieOf (m.waiters.foldl (fun s w => walkOver s m.page r m.ctx w) u) d = dieOf u d := by
    unfold dieOf
    rw [dies]
  show ∃ t, execTableWalkDone s = .next t ∧ _
  unfold execTableWalkDone
  dsimp only
  rw [hm]
  refine ⟨_, rfl, fun a => congrArg (memByte · a) ?_, ?_, fun x hc hx => ⟨?_, fun w hw => ?_⟩⟩
  · exact foldl_keeps State.mem _ (fun s w => walkOver_mem ..) _ _
  · rw [die, dieOf_modDie_self]
  · rw [die, dieOf_modDie_self]
    simp only [hc, if_true, hx]
    exact mem_cacheAdd_self (cap := 8192) (by omega) _ _
  · simp only [hc, if_true, hx]
    exact walkOvers_tlb _ (.inl ⟨w, hw, rfl⟩)

/-! ### Bandwidth windows -/

theorem nbit_toNat (x : Word) (i : Nat) : nbit x.toNat i = x.getLsbD i := by
  simp [nbit, BitVec.getLsbD, Nat.testBit_eq_decide_div_mod_eq, beq_eq_decide]

theorem nextQuota_rules (c : CoreRegs) (q e : Nat) : let thr := c.lldthr.toNat % 2 ^ 16
    let least := c.lldmin.toNat % 2 ^ 7
    (c.lldthr.getLsbD 16 = false → nextQuota c q e = 64)
    ∧ (c.lldthr.getLsbD 16 = true →
        (thr < e → nextQuota c q e = max least (q / 2)) ∧ (2 * e ≤ thr → nextQuota c q e = min 64 (2 * q))
        ∧ (thr < 2 * e → e ≤ thr → nextQuota c q e = q)) := by
  intro thr least
  unfold nextQuota
  rw [nbit_toNat]
  refine ⟨fun h => by rw [h]; rfl, fun h => ?_⟩
  simp only [h, Bool.not_true, Bool.false_eq_true, if_false]
  refine ⟨fun he => ?_, fun he => ?_, fun he he' => ?_⟩
  · rw [if_pos he]
    split <;> omega
  · rw [if_neg (by omega), if_pos he]
    split <;> omega
  · rw [if_neg (by omega), if_neg (by omega)]

/-! ### The bin of lowest key PC (R116) -/

/-- One bin against the lowest before it: its key PC with its place. -/
def lowestStep (p : Bin → Bool) (a : Option (Nat × Nat)) (b : Option Bin × Nat) : Option (Nat × Nat) :=
  match b.1 with
  | some x => if x.held || !p x then a else
    match a with
    | none => some (x.pc.toNat, b.2)
    | some y => if x.pc.toNat < y.1 then some (x.pc.toNat, b.2) else some y
  | none => a

theorem lowestOf_eq (t : Team) (p : Bin → Bool) : lowestOf t p = (t.bins.zipIdx.foldl (lowestStep p) none).map (·.2) := rfl

/-- The place holds the bin, which is not of held threads and of which `p` is true. -/
def Qualifies (p : Bin → Bool) (b : Option Bin × Nat) (x : Bin) : Prop := b.1 = some x ∧ x.held = false ∧ p x = true

theorem lowestStep_of_not {p : Bin → Bool} {b : Option Bin × Nat} (h : ∀ x, ¬ Qualifies p b x) (a : Option (Nat × Nat)) :
    lowestStep p a b = a := by
  unfold lowestStep
  split
  · rename_i x hx
    have hn := h x
    simp only [Qualifies, hx, true_and, not_and, Bool.not_eq_true] at hn
    cases hh : x.held <;> simp_all
  · rfl

theorem lowestStep_of {p : Bin → Bool} {b : Option Bin × Nat} {x : Bin} (h : Qualifies p b x) (a : Option (Nat × Nat)) :
    lowestStep p a b = match a with
      | none => some (x.pc.toNat, b.2)
      | some y => if x.pc.toNat < y.1 then some (x.pc.toNat, b.2) else some y := by
  obtain ⟨hb, hh, hp⟩ := h
  simp [lowestStep, hb, hh, hp]

/-- Of the places of a list the lowest that qualifies, where one does. -/
def Lowest (p : Bin → Bool) (l : List (Option Bin × Nat)) : Option (Nat × Nat) → Prop
  | none => ∀ b ∈ l, ∀ x, ¬ Qualifies p b x
  | some y => (∃ b ∈ l, ∃ x, Qualifies p b x ∧ y = (x.pc.toNat, b.2)) ∧ ∀ b ∈ l, ∀ x, Qualifies p b x → y.1 ≤ x.pc.toNat

theorem lowest_foldl (p : Bin → Bool) (l : List (Option Bin × Nat)) : Lowest p l (l.foldl (lowestStep p) none) := by
  induction l using List.reverseRecOn with
  | nil => simp [Lowest]
  | append_singleton l b ih =>
    rw [List.foldl_concat]
    generalize l.foldl (lowestStep p) none = a at ih ⊢
    by_cases hq : ∃ x, Qualifies p b x
    · obtain ⟨x, hx⟩ := hq
      have only {y : Bin} (hy : Qualifies p b y) : y = x := Option.some.inj (hy.1.symm.trans hx.1)
      rw [lowestStep_of hx]
      cases a with
      | none =>
        refine ⟨⟨b, by simp, x, hx, rfl⟩, fun b' hb y hy => ?_⟩
        rcases List.mem_append.1 hb with hb | hb
        · exact absurd hy (ih b' hb y)
        · cases List.mem_singleton.1 hb
          rw [only hy]
      | some y =>
        obtain ⟨⟨b₀, hb₀, x₀, hx₀, rfl⟩, hmin⟩ := ih
        dsimp only
        split
        next hlt =>
          refine ⟨⟨b, by simp, x, hx, rfl⟩, fun b' hb y hy => ?_⟩
          rcases List.mem_append.1 hb with hb | hb
          · exact (Nat.le_of_lt hlt).trans (hmin b' hb y hy)
          · cases List.mem_singleton.1 hb
            rw [only hy]
        next hlt =>
          refine ⟨⟨b₀, List.mem_append_left _ hb₀, x₀, hx₀, rfl⟩, fun b' hb y hy => ?_⟩
          rcases List.mem_append.1 hb with hb | hb
          · exact hmin b' hb y hy
          · cases List.mem_singleton.1 hb
            rw [only hy]
            exact Nat.le_of_not_lt hlt
    · have hn : ∀ x, ¬ Qualifies p b x := fun x hx => hq ⟨x, hx⟩
      rw [lowestStep_of_not hn]
      have here {b' : Option Bin × Nat} {y : Bin} (hb : b' ∈ l ++ [b]) (hy : Qualifies p b' y) : b' ∈ l := by
        rcases List.mem_append.1 hb with hb | hb
        · exact hb
        · cases List.mem_singleton.1 hb
          exact absurd hy (hn y)
      cases a with
      | none => exact fun b' hb y hy => ih b' (here hb hy) y hy
      | some y =>
        obtain ⟨⟨b₀, hb₀, x₀, hx₀, rfl⟩, hmin⟩ := ih
        exact ⟨⟨b₀, List.mem_append_left _ hb₀, x₀, hx₀, rfl⟩, fun b' hb y hy => hmin b' (here hb hy) y hy⟩

theorem mem_zipIdx_of_join {bins : List (Option Bin)} {j : Nat} {x : Bin} (h : (bins[j]?).join = some x) : (some x, j) ∈ bins.zipIdx := by
  rw [List.mem_zipIdx_iff_getElem?]
  exact Option.join_eq_some_iff.1 h

theorem lowestOf_lowest {t : Team} {p : Bin → Bool} {i : Nat} (h : lowestOf t p = some i) :
    ∃ b : Bin, (t.bins[i]?).join = some b ∧ b.held = false ∧ p b = true
      ∧ ∀ (j : Nat) (x : Bin), (t.bins[j]?).join = some x → x.held = false → p x = true → b.pc.toNat ≤ x.pc.toNat := by
  rw [lowestOf_eq, Option.map_eq_some_iff] at h
  obtain ⟨y, hy, rfl⟩ := h
  have hl := lowest_foldl p t.bins.zipIdx
  rw [hy] at hl
  obtain ⟨⟨⟨o, i⟩, hb, x, ⟨ho, hh, hp⟩, rfl⟩, hmin⟩ := hl
  cases ho
  refine ⟨x, Option.join_eq_some_iff.2 (List.mem_zipIdx_iff_getElem?.1 hb), hh, hp, fun j z hz hzh hzp => ?_⟩
  exact hmin (some z, j) (mem_zipIdx_of_join hz) z ⟨rfl, hzh, hzp⟩

/-! ### What a draw leaves -/

theorem minNat_spec {l : List Nat} (h : l ≠ []) : ∃ m, minNat l = some m ∧ m ∈ l ∧ ∀ x ∈ l, m ≤ x := by
  induction l with
  | nil => exact absurd rfl h
  | cons a r ih =>
    by_cases hr : r = []
    · subst hr
      exact ⟨a, rfl, by simp, by simp⟩
    · obtain ⟨m, hm, hmem, hle⟩ := ih hr
      refine ⟨if a ≤ m then a else m, by simp [minNat, hm], ?_, fun x hx => ?_⟩
      · split <;> simp [hmem]
      · rcases List.mem_cons.1 hx with rfl | hx
        · split <;> omega
        · have := hle x hx
          split <;> omega

/-- A bin of threads is as old as the first filed of them (R116). -/
theorem Bin.of_stamp (b : Bin) {ts : List (Thread × Word × Word)} (h : ts ≠ []) :
    (∀ x ∈ ts, (b.of ts).stamp ≤ x.1.filed) ∧ ∃ x ∈ ts, (b.of ts).stamp = x.1.filed := by
  obtain ⟨m, hm, hmem, hle⟩ := minNat_spec (l := ts.map (·.1.filed)) (by simpa using h)
  have hs : (b.of ts).stamp = m := by simp [Bin.of, hm]
  rw [hs]
  obtain ⟨x, hx, rfl⟩ := List.mem_map.1 hmem
  exact ⟨fun y hy => hle _ (List.mem_map_of_mem hy), x, hx, rfl⟩

theorem length_insertTid (x : Thread × Word × Word) (l : List (Thread × Word × Word)) : (insertTid x l).length = l.length + 1 := by
  induction l with
  | nil => rfl
  | cons y r ih =>
    unfold insertTid
    split <;> simp [ih]

theorem length_sortTid (l : List (Thread × Word × Word)) : (l.foldr insertTid []).length = l.length := by
  induction l with
  | nil => rfl
  | cons x r ih => rw [List.foldr_cons, length_insertTid, ih, List.length_cons]

theorem drawable_some {s : State} {t : Team} {b : Bin} (h : drawable s = some (t, b)) :
    tget s.teams s.iss.core = some t ∧ (t.bins[s.iss.id]?).join = some b := by
  unfold drawable at h
  split at h
  · cases h
  rename_i t' ht
  dsimp only at h
  split at h
  · cases h
  obtain ⟨b', hb, hr⟩ := Option.bind_eq_some_iff.1 h
  split at hr
  · cases hr
  · cases hr
    exact ⟨ht, hb⟩

theorem drawnGroup_tids (s : State) (r : LaunchRecord) {xs : List (Thread × Word × Word)} (h : recWidth r ≤ xs.length) :
    (drawnGroup s r xs).threads.map (·.tid) = xs.map (fun x => x.1.tid) := by
  have h0 : recWidth r - xs.length = 0 := by omega
  simp [drawnGroup, Group.openStretch, h0, Function.comp_def]

/-- A draw from a bin that holds more than W threads of one key: the W of lowest TID run, the rest stays (R115 to R117). -/
theorem drawBin_rest {s : State} {t : Team} {b : Bin} {c : Nat} (hd : drawable s = some (t, b)) (hc : freeContext t = some c)
    (hl : recWidth (recOf s t) < b.threads.length) (ha : ∀ x ∈ b.threads, b.takes x = true) :
    ∃ t' g, tget (drawBin s s.iss.core s.iss.id).teams s.iss.core = some t' ∧ tget t'.groups c = some g
      ∧ g.threads.map (·.tid) = ((b.threads.foldr insertTid []).take (recWidth (recOf s t))).map (fun x => x.1.tid)
      ∧ ∃ b', (t'.bins[s.iss.id]?).join = some b' ∧ b'.threads = (b.threads.foldr insertTid []).drop (recWidth (recOf s t))
        ∧ (∀ x ∈ b'.threads, b'.stamp ≤ x.1.filed) ∧ ∃ x ∈ b'.threads, b'.stamp = x.1.filed := by
  obtain ⟨ht, hb⟩ := drawable_some hd
  have hsort := length_sortTid b.threads
  have hall : b.threads.filter b.takes = b.threads := List.filter_eq_self.2 ha
  have hnone : b.threads.filter (fun x => !b.takes x) = [] := List.filter_eq_nil_iff.2 fun x hx => by simp [ha x hx]
  have hrest : (b.threads.foldr insertTid []).drop (recWidth (recOf s t)) ≠ [] := by
    rw [ne_eq, List.drop_eq_nil_iff]
    omega
  have hi : s.iss.id < t.bins.length := by
    obtain ⟨hi, -⟩ := List.getElem?_eq_some_iff.1 (Option.join_eq_some_iff.1 hb)
    exact hi
  have ht' : tget ({ s with stamp := s.stamp + 1 } : State).teams s.iss.core = some t := ht
  simp only [drawBin, ht, hc, hb, hall, hnone, List.append_nil, List.isEmpty_iff, hrest, if_false]
  rw [modTeam_eq ht']
  refine ⟨_, _, setTeam_get _ _ _, tget_tset_self _ _ _, ?_, b.of _, ?_, rfl, ?_⟩
  · exact drawnGroup_tids s _ (by rw [List.length_take]; omega)
  · simp [hi]
  · exact b.of_stamp hrest

/-- Settles O45: the walk's end by what `walkOver` adds for each waiter, the window by `nextQuota`, the bins by the lowest place of the
fold and by what a draw files again. -/
theorem walksAndBins : Obligations.WalksAndBins := by
  refine ⟨fun s m => tableWalkDone_ends, fun s t ht => .of_mem ?_ rfl, nextQuota_rules, fun s t b hd => ⟨fun h => .of_mem ?_ ?_, fun h => .of_mem ?_ ?_⟩,
    fun t p i => lowestOf_lowest, fun s t ht hr hdet hi hlow hf => .of_mem ?_ ?_, fun s t b k c hd hc hl ha hk => hk ▸ drawBin_rest hd hc hl ha⟩
  · show execLldWindowEnd s = _
    simp only [execLldWindowEnd, ht]
  · show execReformBinDraw s = _
    have h' : lowestOf t (ripe s t) = some s.iss.id := h
    simp [execReformBinDraw, hd, h']
  · simp
  · show execReformBinAgeExpiry s = _
    have h' : lowestOf t (fun x => ripe s t x || decide (x.stamp ≤ b.stamp)) = some s.iss.id := h
    simp [execReformBinAgeExpiry, hd, h']
  · simp
  · show execReformDetDrain s = _
    simp [execReformDetDrain, ht, hr, hdet, hi, hlow, hf]
  · simp

end Sys2Proof.Machine

end

section
/-! A step of each kind of turn: what the ports note of an issue, the bytes that a fetch takes, and the run of what they decode to
(R58, R70, R71, R101, R114, R328, R343, R344). -/

namespace Sys2Proof.Machine

theorem meetUpsets_none {s : State} (h : s.upsets = []) (pa n : Nat) : meetUpsets s pa n = s := by simp [meetUpsets, h]

/-- With no upset in the arrays a fetch leaves only its record in the L2. -/
theorem fetchMeets_only {s : State} (h : s.upsets = []) (core ctx : Nat) (service : Bool) (walked : List (Nat × Nat)) (pc n : Nat) :
    ∃ x, fetchMeets s core ctx service walked pc n = { s with l2 := x } := by
  unfold fetchMeets
  generalize List.range (n / 2) = is
  induction is generalizing s with
  | nil => exact ⟨s.l2, rfl⟩
  | cons i is ih =>
    rw [List.foldl_cons]
    dsimp only
    split
    · rw [meetUpsets_none h]
      exact ih (s := l2Touch s _ _ _ false) h
    · exact ih h

/-- What the ports' note of an issue may change of a team: its counts, its pack and what its groups note of their turns. -/
def NotedTeam (x y : Team) : Prop :=
  y = { x with issued := y.issued, pack := y.pack, packAge := y.packAge, groups := y.groups }
  ∧ ∀ k g, tget x.groups k = some g → ∃ h, tget y.groups k = some h
    ∧ h = { g with age := h.age, since := h.since, waited := h.waited, yielded := h.yielded }

/-- The group that issued has its age and its turn noted, every other one whether it still yields (R101, R114). -/
theorem teamIssued_noted (n grp : Nat) (pack : Option (List Nat)) (x : Team) : NotedTeam x (teamIssued n grp pack x) := by
  refine ⟨rfl, fun k g hg => ?_⟩
  by_cases hk : k = grp
  · subst hk
    exact ⟨_, by simp only [teamIssued, tget_tmap, hg, beq_self_eq_true, if_true, Option.map_some]; rfl, rfl⟩
  · exact ⟨_, by simp only [teamIssued, tget_tmap, hg, beq_eq_false_iff_ne.2 hk, Option.map_some]; rfl, rfl⟩

/-- A group whose instruction stalled leaves its pack and has its turn noted. -/
theorem waited_noted (grp : Nat) (pack : List Nat) (x : Team) :
    NotedTeam x ({ x with pack := pack }.modGroup grp (fun g => { g with waited := true })) := by
  unfold Team.modGroup
  dsimp only
  split
  case h_1 w hw =>
    refine ⟨rfl, fun k g hg => ?_⟩
    by_cases hk : k = grp
    · subst hk
      obtain rfl : w = g := Option.some.inj (hw.symm.trans hg)
      exact ⟨_, tget_tset_self _ _ _, rfl⟩
    · exact ⟨g, (tget_tset_ne _ _ hk).trans hg, rfl⟩
  case h_2 => exact ⟨rfl, fun k g hg => ⟨g, hg, rfl⟩⟩

theorem noteIssue_only (n : Nat) (pack : Option (List Nat)) (s : State) (core grp : Nat) :
    ∃ ts, noteIssue n pack s core grp = { s with teams := ts } := modTeam_only ..

theorem noteIssue_noted {s : State} {core : Nat} {x : Team} (hx : tget s.teams core = some x) (n : Nat) (pack : Option (List Nat))
    (grp : Nat) : ∃ y, tget (noteIssue n pack s core grp).teams core = some y ∧ NotedTeam x y := by
  refine ⟨_, modTeam_get hx _, ?_⟩
  split
  · exact waited_noted grp _ x
  · exact teamIssued_noted n grp pack x

/-- The bytes of a fetch are those of its parcels, in order. -/
theorem fetchBytes_of_parcels {s : State} {core ctx : Nat} {service : Bool} {walked : List (Nat × Nat)} {pc : Nat} {pas : List Nat}
    (h : ∀ k, k < pas.length → fetchParcel s core ctx service walked (pc + 2 * k) = .ok (pas.getD k 0)) :
    fetchBytes s core ctx service walked pc pas.length = .ok (pas.flatMap (fun pa => memRead s.mem pa 2)) := by
  induction pas generalizing pc with
  | nil => rfl
  | cons pa pas ih =>
    have hpa : fetchParcel s core ctx service walked pc = .ok pa := h 0 (by simp)
    have hrest := ih (pc := pc + 2) fun k hk => by
      have := h (k + 1) (by simpa using hk)
      rw [show pc + 2 + 2 * k = pc + 2 * (k + 1) by omega]
      simpa using this
    simp [fetchBytes, hpa, hrest]

/-- A fetch whose parcels make one whole instruction runs it (R58, R70, R71). -/
theorem fetchAt_of_parcels {s : State} {core ctx : Nat} {service : Bool} {walked : List (Nat × Nat)} {pc : Nat} {i : Instr} {pas : List Nat}
    (h : ∀ k, k < pas.length → fetchParcel s core ctx service walked (pc + 2 * k) = .ok (pas.getD k 0)) (hne : pas ≠ [])
    (hlen : lengthOf (leNat ((pas.flatMap (fun pa => memRead s.mem pa 2)).take 2)) = 2 * pas.length)
    (hdec : decode (pas.flatMap (fun pa => memRead s.mem pa 2)) = .ok (i, [])) :
    fetchAt s core ctx service walked pc = .run i (2 * pas.length) := by
  obtain ⟨pa, rest, rfl⟩ := List.exists_cons_of_ne_nil hne
  have hfirst : fetchBytes s core ctx service walked pc 1 = .ok (memRead s.mem pa 2) := by
    have hpa : fetchParcel s core ctx service walked pc = .ok pa := h 0 (by simp)
    simp [fetchBytes, hpa]
  have htake : ((pa :: rest).flatMap (fun pa => memRead s.mem pa 2)).take 2 = memRead s.mem pa 2 := rfl
  rw [htake] at hlen
  have hhalf : 2 * (pa :: rest).length / 2 = (pa :: rest).length := by omega
  simp only [fetchAt, hfirst, hlen, hhalf, fetchBytes_of_parcels h, hdec]

/-- What the issue of an instruction answers: the ports note an issue that went on, and anything else stands as it is. -/
theorem issued_cases (s : State) (core grp : Nat) (o : Host.Outcome State Fault Refusal) :
    (∀ v, o = .next v → issued s core grp o = .next (noteIssue s.stamp (packWith s core grp) v core grp))
      ∧ ((∀ v, o ≠ .next v) → issued s core grp o = o) := by
  cases o with
  | next v => exact ⟨fun _ h => by cases h; rfl, fun h => absurd rfl (h v)⟩
  | _ => exact ⟨fun _ h => (nomatch h), fun _ => rfl⟩

theorem step_of_turn {s : State} {t : Turn} (h : pickTurn s = some t) : step s = runTurn (popTiming s) t := by
  simp [step, h]

theorem fetchGroup_of_run {s : State} {core grp : Nat} {t : Team} {g : Group} {pc : Word} {i : Instr} {n : Nat}
    (ht : tget s.teams core = some t) (hg : tget t.groups grp = some g) (hpc : issuePc g = some pc)
    (hrun : fetchAt s core (teamCtx s t) (isService s t) g.walked pc.toNat = .run i n) :
    fetchGroup s core grp
      = some (.ok (i, setCursor (fetchMeets s core (teamCtx s t) (isService s t) g.walked pc.toNat n) core grp pc n)) := by
  simp [fetchGroup, ht, hg, hpc, hrun]

/-- A turn of a program runs the word at its PC (R328). -/
theorem runCaramel_word {s : State} {n : Nat} {x : CSlot} {ps : List HubPiece} (hx : tget s.cslots n = some x) (hlo : 0 ≤ x.pc)
    (hhi : x.pc < 1024)
    (hps : hubAccess { s with msg := none, iss := at_ n 0 0 } x.ctx (carPc x).toNat 4 .read = .ok ps) :
    runCaramel s n = exec (decodeCaramel (leNat (piecesRead { s with msg := none, iss := at_ n 0 0 } ps)))
      (piecesTouch { s with msg := none, iss := at_ n 0 0 } ps) := by
  have hin : ¬ (x.pc < 0 ∨ x.pc ≥ 1024) := by omega
  simp only [runCaramel, hx, Bool.or_eq_true, decide_eq_true_eq, hin, if_false, hps]

/-- A turn of a message runs its row once the device has power. -/
theorem runMessage_row {s : State} {m : Message} {r : List Message} {i : Instr} (hin : s.inbox = m :: r)
    (hr : messageRow { s with inbox := r, msg := some m, iss := at_ 0 0 0 } m = some i) (hpow : s.powered = true) :
    runMessage s = exec i { s with inbox := r, msg := some m, iss := at_ 0 0 0 } := by
  simp only [runMessage, hin, hr]
  simp [hpow]

/-- A turn of a request held in the hub takes it from the list and runs its row (R297). -/
theorem runHeld_row {s : State} {k : Nat} {m : Message} {i : Instr} (hm : s.held[k]? = some m) (hr : messageRow s m = some i) :
    runHeld s k = exec i { s with held := s.held.eraseIdx k, msg := some m, iss := at_ 0 0 0 } := by
  simp only [runHeld, hm, hr]

/-- A turn of a trap delivers it once no result of another unit is out (R344). -/
theorem runTrap_delivers {s : State} {core grp : Nat} {t : Team} {g : Group} {x : TrapInfo} {tpc resume : Word} {park latched : Bool}
    {lanes : List Nat} (ht : tget s.teams core = some t) (hg : tget t.groups grp = some g)
    (hst : g.status = .trapping x tpc resume park latched lanes) (hout : resultsOut s core grp = false) :
    runTrap s core grp = .next (takeTrap (modGroup { s with msg := none } core grp (fun g => { g with status := .running }))
      core grp x tpc resume park latched lanes) := by
  simp [runTrap, groupAt, ht, hg, hst, hout]

/-- Settles O58: each turn by what its run does, the fetch by the parcels of its bytes. -/
theorem stepRunsDecoded : Obligations.StepRunsDecoded := by
  refine ⟨?_, ?_, ?_, ?_, ?_, ?_, ?_, ?_, ?_, ?_, ?_, ?_⟩
  · intro s core grp i u hp hf
    have hrun : step s = issued (popTiming s) core grp (exec i u) := by
      rw [step_of_turn hp]
      simp only [runTurn, runIssue, hf]
    rw [hrun]
    exact issued_cases _ _ _ _
  · intro n p s core grp
    obtain ⟨ts, hts⟩ := noteIssue_only n p s core grp
    exact ⟨by rw [hts], fun c hc => modTeam_get_ne s hc _, fun x hx => noteIssue_noted hx n p grp⟩
  · intro s core grp t g pc i n ht hg hpc hrun
    refine ⟨fetchGroup_of_run ht hg hpc hrun, fun h => ?_, fun a => congrArg (memByte · a) (fetchMeets_mem ..)⟩
    obtain ⟨x, hx⟩ := fetchMeets_only h core (teamCtx s t) (isService s t) g.walked pc.toNat n
    rw [hx]
  · exact fun s core ctx svc walked pc i pas h hne hlen hdec => fetchAt_of_parcels h hne hlen hdec
  · intro s n x ps u hp hx hlo hhi hps
    rw [step_of_turn hp]
    exact runCaramel_word hx hlo hhi hps
  · exact fun s i c hp => step_of_turn hp
  · intro s i c u hp
    rw [step_of_turn hp]
    exact issued_cases (popTiming s) c.core c.grp (exec i u)
  · intro s core grp t g x tpc resume park latched lanes hp ht hg hst hout
    rw [step_of_turn hp]
    exact runTrap_delivers ht hg hst hout
  · intro s i m r u hp hm hr
    rw [step_of_turn hp]
    exact runHeld_row hm hr
  · exact fun s port line hp => step_of_turn hp
  · intro s m r i u hp hin hr hpow
    rw [step_of_turn hp]
    exact runMessage_row hin hr hpow
  · exact fun s hp => by simp [step, hp]

end Sys2Proof.Machine

end

section
/-! The offer for issue in the order of its checks, the traps of issue, the errors of registers, and an instruction with no enabled lane
(R72, R80, R104, R106, R107, R110, R343, R347, R358, R359, R362). -/

namespace Sys2Proof.Machine

/-! ### The park point of a blocking instruction -/

/-- With nothing in the return buffer a commit opens a stretch and does nothing else (R107). -/
theorem commit_of_empty {g : Group} (h : g.rb = []) : g.commit = { g.openStretch with poisonPc := [] } := by
  simp only [Group.commit, h, List.foldl_nil]
  exact congrArg (fun l => { g.openStretch with rb := l, poisonPc := [] }) h.symm

/-- The context in which an instruction that needs no park any more is offered: a blocking one is at its park (R107). -/
def offeredIc (s : State) (w : LongWord) (sh : Shape) (k : Issue) (t : Team) (g : Group) : Ic :=
  if k.blocking && !g.parked then (issueIc s w sh t g).atPark else issueIc s w sh t g

section

variable {s : State} {w : LongWord} {sh : Shape} {k : Issue} {t : Team} {g : Group}

theorem offeredIc_plain (hb : k.blocking = false) : offeredIc s w sh k t g = issueIc s w sh t g := by simp [offeredIc, hb]

theorem offeredIc_parked (hp : g.parked = true) : offeredIc s w sh k t g = issueIc s w sh t g := by simp [offeredIc, hp]

theorem offeredIc_unparked (hb : k.blocking = true) (hp : g.parked = false) :
    offeredIc s w sh k t g = (issueIc s w sh t g).atPark := by simp [offeredIc, hb, hp]

variable (ht : tget s.teams s.iss.core = some t) (hg : tget t.groups s.iss.grp = some g)

include ht hg

/-- The park changes the state, the team and the group of the context alone. -/
theorem offeredIc_only : ∃ u t' g', offeredIc s w sh k t g = { issueIc s w sh t g with s := u, t := t', g := g' } := by
  unfold offeredIc
  split
  · exact ⟨_, _, _, atPark_eq (c := issueIc s w sh t g) ht hg⟩
  · exact ⟨_, _, _, rfl⟩

theorem offeredIc_grp : (offeredIc s w sh k t g).grp = s.iss.grp := by
  obtain ⟨_, _, _, h⟩ := offeredIc_only (w := w) (sh := sh) (k := k) ht hg
  rw [h]
  rfl

theorem offeredIc_en : (offeredIc s w sh k t g).en = (issueIc s w sh t g).en := by
  obtain ⟨_, _, _, h⟩ := offeredIc_only (w := w) (sh := sh) (k := k) ht hg
  rw [h]

/-- The state at the park: the stretch is committed. -/
theorem atPark_state : (issueIc s w sh t g).atPark.s = (issueIc s w sh t g).with { g.commit with parked := true } := by
  rw [atPark_eq (c := issueIc s w sh t g) ht hg]
  rfl

/-- No thread changes at a park that commits nothing. -/
theorem offeredIc_lane (hpark : k.blocking = true → g.parked = true ∨ g.rb = []) (l : Nat) :
    (offeredIc s w sh k t g).g.lane l = g.lane l := by
  unfold offeredIc
  split
  · rename_i h
    simp only [Bool.and_eq_true, Bool.not_eq_true'] at h
    obtain ⟨hb, hp⟩ := h
    have hr : g.rb = [] := (hpark hb).resolve_left (by simp [hp])
    rw [atPark_eq (c := issueIc s w sh t g) ht hg]
    change Group.lane { g.commit with parked := true } l = g.lane l
    rw [commit_of_empty hr]
    rfl
  · rfl

end

/-! ### The checks after the guard -/

/-- The last check: a register that the instruction reads has no error (R362). -/
def Ic.registersChecked (c : Ic) (k : Issue) : Except (Host.Outcome State Fault Refusal) Ic :=
  match lostRegister c k.dests.isEmpty with
  | some r => .error (stopState c (.failed (logLost c.s (if r.1 then 1 else 7) c.core) (registerTrap r)))
  | none => .ok c

/-- The checks of an instruction with an enabled lane, in the order of R343: EILL and EPRIV of its mode and ETXN, what it waits
for or traps at of its own, ESTRETCH, its entry in the table, and the errors of the registers that it reads. -/
def Ic.checked (c : Ic) (k : Issue) : Except (Host.Outcome State Fault Refusal) Ic :=
  match issueTrap c k with
  | some t => .error (stopState c (.trap t))
  | none =>
  match k.late c with
  | some st => .error (stopState c st)
  | none =>
  match (if k.dests.isEmpty then none else stretchFull c.g k.dests) with
  | some n => .error (stopState c (.trap ⟨0x12, 0, word n⟩))
  | none =>
  if k.entry && ottFull c.t c.grp then .error (stopState c (.stall .ott)) else c.registersChecked k

section

variable {c : Ic} {k : Issue}

/-- No enabled lane is in a transaction that the instruction may not be issued in. -/
def Ic.txFree (c : Ic) (k : Issue) : Prop := k.tx = none ∨ ∀ l ∈ c.en, (c.g.lane l).txs = .none_

theorem txFree_of_any (h : k.tx = none ∨ c.en.any (fun l => (c.g.lane l).txs != .none_) = false) : c.txFree k :=
  h.imp_right fun h l hl => by simpa using List.any_eq_false.1 h l hl

theorem issueTrap_none (hpre : k.pre c = none) (htx : c.txFree k) : issueTrap c k = none := by
  rcases htx with htx | htx
  · simp [issueTrap, hpre, htx]
  · have hany : c.en.any (fun l => (c.g.lane l).txs != .none_) = false := List.any_eq_false.2 fun l hl => by simp [htx l hl]
    cases h : k.tx <;> simp [issueTrap, hpre, h, hany]

theorem issueTrap_tx (hpre : k.pre c = none) {n : Nat} (hn : k.tx = some n)
    (hany : c.en.any (fun l => (c.g.lane l).txs != .none_) = true) : issueTrap c k = some ⟨0x0D, 0, word n⟩ := by
  simp only [issueTrap, hpre, hn, hany, if_true]

theorem checked_trap {tr : TrapInfo} (h : issueTrap c k = some tr) : c.checked k = .error (stopState c (.trap tr)) := by
  simp only [Ic.checked, h]

variable (hpre : k.pre c = none) (htx : c.txFree k)

include hpre htx

theorem checked_late {st : Stop} (h : k.late c = some st) : c.checked k = .error (stopState c st) := by
  simp only [Ic.checked, issueTrap_none hpre htx, h]

variable (hlate : k.late c = none)

include hlate

theorem checked_stretch (hd : k.dests ≠ []) {n : Nat} (h : stretchFull c.g k.dests = some n) :
    c.checked k = .error (stopState c (.trap ⟨0x12, 0, word n⟩)) := by
  simp [Ic.checked, issueTrap_none hpre htx, hlate, hd, h]

variable (hfit : k.dests = [] ∨ stretchFull c.g k.dests = none) (hott : k.entry = false ∨ ottFull c.t c.grp = false)

include hfit hott

theorem checked_registers : c.checked k = c.registersChecked k := by
  have hs : (if k.dests.isEmpty then none else stretchFull c.g k.dests) = none := by rcases hfit with h | h <;> simp [h]
  have ho : (k.entry && ottFull c.t c.grp) = false := by rcases hott with h | h <;> simp [h]
  simp only [Ic.checked, issueTrap_none hpre htx, hlate, hs, ho, Bool.false_eq_true, if_false]

theorem checked_lost {r : Bool × Nat} (h : lostRegister c k.dests.isEmpty = some r) :
    c.checked k = .error (stopState c (.failed (logLost c.s (if r.1 then 1 else 7) c.core) (registerTrap r))) := by
  rw [checked_registers hpre htx hlate hfit hott]
  simp only [Ic.registersChecked, h]

theorem checked_ok (h : lostRegister c k.dests.isEmpty = none) : c.checked k = .ok c := by
  rw [checked_registers hpre htx hlate hfit hott]
  simp only [Ic.registersChecked, h]

end

/-! ### The offer -/

section

variable {s : State} {w : LongWord} {sh : Shape} {k : Issue} {t : Team} {g : Group}
  (ht : tget s.teams s.iss.core = some t) (hg : tget t.groups s.iss.grp = some g) (hact : (issueIc s w sh t g).act ≠ [])

include ht hg hact

theorem offer_illegal {n : Nat} (h : decodeFail { sh with ok13 := k.flag (recOf s t) } w (recVregs (recOf s t)) = some n) :
    offer s w sh k = .error (stopState (issueIc s w sh t g) (.trap (eill n s.iss.d16))) := by
  have h' : decodeFail { sh with ok13 := k.flag (issueIc s w sh t g).r } w (recVregs (issueIc s w sh t g).r) = some n := h
  simp only [offer, ht, hg, List.isEmpty_iff, hact, if_false, h']

variable (hdec : decodeFail { sh with ok13 := k.flag (recOf s t) } w (recVregs (recOf s t)) = none)

include hdec

/-- A blocking instruction with results outstanding waits for its park (R107). -/
theorem offer_parks (hb : k.blocking = true) (hp : g.parked = false) (hr : g.rb ≠ [])
    (hen : (issueIc s w sh t g).en = [] ∨ issueTrap (issueIc s w sh t g) k = none) :
    offer s w sh k = .error (.next ((issueIc s w sh t g).with
      { g with status := .parking true (issueIc s w sh t g).pc (issueIc s w sh t g).next (issueIc s w sh t g).act })) := by
  have hdec' : decodeFail { sh with ok13 := k.flag (issueIc s w sh t g).r } w (recVregs (issueIc s w sh t g).r) = none := hdec
  have hwait : (k.blocking && !g.parked && !g.rb.isEmpty) = true := by simp [hb, hp, hr]
  have htrap : (if !(issueIc s w sh t g).en.isEmpty then issueTrap (issueIc s w sh t g) k else none) = none := by
    rcases hen with h | h <;> simp [h]
  simp only [offer, ht, hg, hact, List.isEmpty_eq_false_iff.2, ne_eq, not_false_eq_true, Bool.false_eq_true, if_false, hdec', hwait,
    Bool.true_and, htrap, if_true]
  exact congrArg Except.error (congrArg Host.Outcome.next (modGroup_with (c := issueIc s w sh t g) ht hg _))

/-- An instruction that needs no park any more retires with no enabled lane, and takes its checks otherwise (R80, R343). -/
theorem offer_checks (hpark : k.blocking = true → g.parked = true ∨ g.rb = []) :
    offer s w sh k = if (offeredIc s w sh k t g).en = [] then
        .error (.next (retire (offeredIc s w sh k t g).s s.iss.core s.iss.grp s.iss.pc (issueIc s w sh t g).next
          (issueIc s w sh t g).act [] (w.s && !k.blocking)))
      else (offeredIc s w sh k t g).checked k := by
  have hdec' : decodeFail { sh with ok13 := k.flag (issueIc s w sh t g).r } w (recVregs (issueIc s w sh t g).r) = none := hdec
  have hnow : (k.blocking && !g.parked && !g.rb.isEmpty) = false := by
    cases hb : k.blocking
    · rfl
    · rcases hpark hb with h | h <;> simp [h]
  obtain ⟨u, t', g', hc⟩ := offeredIc_only (w := w) (sh := sh) (k := k) ht hg
  simp only [offer, ht, hg, List.isEmpty_iff, hact, if_false, hdec', hnow, Bool.false_and, Bool.false_eq_true, ← offeredIc.eq_1, Ic.checked,
    Ic.registersChecked]
  rw [hc]
  rfl

theorem offer_enabled (hb : k.blocking = false) (hen : (issueIc s w sh t g).en ≠ []) :
    offer s w sh k = (issueIc s w sh t g).checked k := by
  rw [offer_checks ht hg hact hdec (by simp [hb]), offeredIc_plain hb, if_neg hen]

end

theorem issueConditions : Claims.IssueConditions := by
  intro s w sh k t g ht hg c hact hdec hpark p
  have hoffer : offer s w sh k = _ := offer_checks ht hg hact hdec hpark
  refine ⟨fun hen => hoffer.trans (if_pos hen), fun hen hpre htx hlate hfit hott hlost => (hoffer.trans (if_neg hen)).trans ?_⟩
  have hfree : p.txFree k := or_iff_not_imp_left.2 fun h l hl => (congrArg Thread.txs (offeredIc_lane ht hg hpark l)).trans (htx h l hl)
  rw [show c.grp = p.grp from (offeredIc_grp ht hg).symm] at hott
  exact checked_ok hpre hfree hlate (or_iff_not_imp_left.2 hfit) ((Bool.eq_false_or_eq_true k.entry).symm.imp_right hott) hlost

theorem issueTraps : Claims.IssueTraps := by
  intro s w sh k t g ht hg hb c traps dec tx hact
  refine ⟨fun n hn => issue_stopped (offer_illegal ht hg hact hn), fun hdec hen => ?_⟩
  have traps_of {x : TrapInfo} (h : c.checked k = .error (stopState c (.trap x))) : traps x :=
    issue_stopped ((offer_enabled ht hg hact hdec hb hen).trans h)
  refine ⟨fun x hx => traps_of (checked_trap (issueTrap_pre hx)), fun hpre => ⟨?_, ?_, ?_⟩⟩
  · exact fun n hn htx => traps_of (checked_trap (issueTrap_tx hpre hn htx))
  · exact fun htx x hx => traps_of (checked_late hpre (txFree_of_any htx) hx)
  · exact fun htx hlate n hd hn => traps_of (checked_stretch hpre (txFree_of_any htx) hlate hd hn)

/-! ### Errors of registers -/

section

variable {c : Ic} {u : State} {x : TrapInfo} (hx : x.cause = 0x10) (hh : c.g.hm = none)

include hx hh

/-- The first time a group meets an error it restarts at its region entries (R347). -/
theorem stopState_failed_restarts (hr : c.g.rmtOp = false) (hp : c.pc ∉ c.g.poisonPc) :
    stopState c (.failed u x) = .next (poisonRestart u c.core c.grp c.pc) := by
  simp [stopState, hx, hh, hr, hp]

/-- After a remote atomic, or at the same PC again, the error is a trap (R285, R347). -/
theorem stopState_failed_traps (h : c.g.rmtOp = true ∨ c.pc ∈ c.g.poisonPc) :
    stopState c (.failed u x) = .next (takeTrap u c.core c.grp x c.pc c.pc false false c.act) := by
  rcases h with h | h <;> simp [stopState, hx, hh, h]

end

/-- The group or a thread of it holds a register with an error. -/
def Group.hasBad (g : Group) : Prop := g.sbad ≠ [] ∨ ∃ x ∈ g.threads, x.bad ≠ []

/-- A lane with a bad register is a lane of the group. -/
theorem hasBad_of_lane {g : Group} {l n : Nat} (h : n ∈ (g.lane l).bad) : g.hasBad := by
  by_cases hl : l < g.threads.length
  · refine .inr ⟨g.lane l, ?_, List.ne_nil_of_mem h⟩
    simp [Group.lane, List.getD_eq_getElem?_getD, hl]
  · rw [lane_out g l (by omega)] at h
    cases h

theorem lostRegister_clear {c : Ic} (h : ¬ c.g.hasBad) (short : Bool) : lostRegister c short = none := by
  simp only [Group.hasBad, not_or, not_not, not_exists, not_and] at h
  obtain ⟨hs, ht⟩ := h
  have hall : c.g.threads.all (fun t => t.bad.isEmpty) = true := List.all_eq_true.2 fun x hx => by simp [ht x hx]
  simp [lostRegister, hs, hall]

/-- The first source with an error: a v-register is lost in an enabled lane (R358). -/
def Ic.lostSource (c : Ic) : Option (Bool × Nat) :=
  ((sourceRegs c.sh c.w).flatMap regSpan).find? (fun r =>
    if r.1 then c.en.any (fun l => (c.g.lane l).bad.contains r.2) else c.g.sbad.contains r.2)

/-- The v-registers that a field writes. -/
def destSpan (u : Use) (f : BitVec 8) : List (Bool × Nat) := match u with | .dst n => (regSpan (f, n)).filter (·.1) | _ => []

/-- The first destination of a short result whose code word, written in part, holds an error (R359). -/
def Ic.lostDest (c : Ic) (short : Bool) : Option (Bool × Nat) :=
  (if short then destSpan c.sh.d c.w.d ++ destSpan c.sh.c c.w.c else []).find? (fun r =>
    c.en.any (fun l => !wholeHalf c.g c.en (l / 32) && wordLost c.g r.2 l))

/-- The sources are looked at before the destinations. -/
theorem lostRegister_eq {c : Ic} (h : c.g.hasBad) (short : Bool) : lostRegister c short = c.lostSource.or (c.lostDest short) := by
  have hany : (c.g.sbad.isEmpty && c.g.threads.all (fun t => t.bad.isEmpty)) = false := by
    rcases h with h | ⟨x, hx, h⟩
    · simp [h]
    · have : c.g.threads.all (fun t => t.bad.isEmpty) = false := List.all_eq_false.2 ⟨x, hx, by simpa using h⟩
      simp [this]
  simp only [lostRegister, hany, Bool.false_eq_true, if_false, ← Ic.lostSource.eq_1]
  cases c.lostSource <;> rfl

theorem regSpan_one (f : BitVec 8) : regSpan (f, 1) = [(isV f, if isV f then f.toNat else f.toNat - 192)] := rfl

/-- A is the first register that an instruction reads. -/
theorem sourceRegs_a {sh : Shape} {w : LongWord} (ha : sh.a = .src 1) (hl : w.lit = none) : ∃ r, sourceRegs sh w = (w.a, 1) :: r := by
  simp [sourceRegs, ha, hl]

section

variable {c : Ic} (ha : c.sh.a = .src 1) (hl : c.w.lit = none)

include ha hl

theorem lostSource_v {l : Nat} (hv : isV c.w.a = true) (hen : l ∈ c.en) (hb : c.w.a.toNat ∈ (c.g.lane l).bad) :
    c.lostSource = some (true, c.w.a.toNat) := by
  obtain ⟨r, hr⟩ := sourceRegs_a ha hl
  have hany : c.en.any (fun l => (c.g.lane l).bad.contains c.w.a.toNat) = true := List.any_eq_true.2 ⟨l, hen, by simpa using hb⟩
  rw [Ic.lostSource, hr, List.flatMap_cons, regSpan_one, hv]
  simp only [if_true, List.cons_append, List.find?_cons, hany]

theorem lostSource_s (hv : isV c.w.a = false) (hb : c.w.a.toNat - 192 ∈ c.g.sbad) :
    c.lostSource = some (false, c.w.a.toNat - 192) := by
  obtain ⟨r, hr⟩ := sourceRegs_a ha hl
  rw [Ic.lostSource, hr, List.flatMap_cons, regSpan_one, hv]
  simp [hb]

end

theorem lostDest_d {c : Ic} {l : Nat} (hd : c.sh.d = .dst 1) (hv : isV c.w.d = true) (hen : l ∈ c.en)
    (hlost : wordLost c.g c.w.d.toNat l = true) (hpart : wholeHalf c.g c.en (l / 32) = false) : c.lostDest true = some (true, c.w.d.toNat) := by
  have hany : c.en.any (fun l => !wholeHalf c.g c.en (l / 32) && wordLost c.g c.w.d.toNat l) = true :=
    List.any_eq_true.2 ⟨l, hen, by simp [hlost, hpart]⟩
  simp only [Ic.lostDest, if_true, hd, destSpan, regSpan_one, hv, List.filter_cons_of_pos, List.cons_append, List.find?_cons, hany]

theorem hasBad_of_wordLost {g : Group} {n l : Nat} (h : wordLost g n l = true) : g.hasBad := by
  obtain ⟨m, -, hm⟩ := List.any_eq_true.1 h
  simp only [Bool.and_eq_true, List.contains_iff_mem] at hm
  exact hasBad_of_lane hm.2

theorem registerErrors : Claims.RegisterErrors := by
  refine ⟨?_, fun c hs ht short => lostRegister_clear (by simpa [Group.hasBad, hs] using ht) short, ?_, ?_, ?_⟩
  · intro s w sh k t g body r ht hg hb c hact hdec hen hpre htx hlate hfit hott hlost hh u x
    have hissue : issue s w sh k body = stopState c (.failed u x) := issue_stopped
      ((offer_enabled ht hg hact hdec hb hen).trans (checked_lost hpre htx hlate hfit hott hlost)) body
    exact ⟨fun hr hp => hissue.trans (stopState_failed_restarts rfl hh hr hp), fun h => hissue.trans (stopState_failed_traps rfl hh h)⟩
  · intro c l short ha hl hv hen hb
    exact ⟨(true, c.w.a.toNat), by rw [lostRegister_eq (hasBad_of_lane hb), lostSource_v ha hl hv hen hb, Option.some_or], rfl⟩
  · intro c short ha hl hv hb
    rw [lostRegister_eq (.inl (List.ne_nil_of_mem hb)), lostSource_s ha hl hv hb]
    rfl
  · intro c l hd hv hen hlost hpart
    rw [lostRegister_eq (hasBad_of_wordLost hlost), lostDest_d hd hv hen hlost hpart]
    simp

/-- Settles O7: the offer is the checks of Table 5.11, the park, and then the checks of `Ic.checked` in their order. -/
theorem issueOrder : Obligations.IssueOrder := ⟨issueConditions, issueTraps, registerErrors⟩

/-! ### No enabled lane -/

theorem mem_enabledLanes {g : Group} {w : LongWord} {act : List Nat} {l : Nat} :
    l ∈ enabledLanes g w act ↔ l ∈ act ∧ readP g l w.gp.toNat ≠ w.gn := by simp [enabledLanes]

/-- p0 is true, so its complement as a guard enables no lane (R79, R80). -/
theorem enabledLanes_not_p0 (g : Group) {w : LongWord} (act : List Nat) (hp : w.gp = 0#7) (hn : w.gn = true) :
    enabledLanes g w act = [] := by simp [enabledLanes, hp, hn, readP]

/-- An instruction that needs no park any more and has no enabled lane leaves its group, `g'` at its park, retired. -/
theorem issue_guarded_off {s : State} {w : LongWord} {sh : Shape} {k : Issue} {t : Team} {g g' : Group}
    (ht : tget s.teams s.iss.core = some t) (hg : tget t.groups s.iss.grp = some g) (hact : (issueIc s w sh t g).act ≠ [])
    (hdec : decodeFail { sh with ok13 := k.flag (recOf s t) } w (recVregs (recOf s t)) = none)
    (hpark : k.blocking = true → g.parked = true ∨ g.rb = []) (hen : (issueIc s w sh t g).en = [])
    (hret : ∀ pc next act xfer park, retire (offeredIc s w sh k t g).s s.iss.core s.iss.grp pc next act xfer park
      = (issueIc s w sh t g).with (retireGroup pc next act xfer park g')) (body : Ic → Except Stop Eff) :
    let c := issueIc s w sh t g
    ∃ u, issue s w sh k body = .next u ∧ u = c.with (retireGroup c.pc c.next c.act [] (w.s && !k.blocking) g') ∧ SameMemory s u := by
  have hoffer := offer_checks ht hg hact hdec hpark
  rw [if_pos ((offeredIc_en ht hg).trans hen), hret] at hoffer
  exact ⟨_, issue_stopped hoffer body, rfl, with_mem (issueIc s w sh t g) _⟩

/-- Settles O8: with no enabled lane the offer is a retirement, of the group as it stands or at its park. -/
theorem guardedOff : Obligations.GuardedOff := by
  unfold Obligations.GuardedOff
  refine ⟨fun _ _ _ _ => mem_enabledLanes, enabledLanes_not_p0, ?_, ?_⟩
  · intro s w sh k body t g ht hg hb c hact hen hdec
    have h := issue_guarded_off (g' := g) ht hg hact hdec (by simp [hb]) hen (by
      rw [offeredIc_plain hb]
      exact with_self (c := c) ht hg) body
    rwa [hb, Bool.not_false, Bool.and_true] at h
  · intro s w sh k body t g ht hg hb c hact hen hdec
    refine ⟨fun hp hr => issue_stopped (offer_parks ht hg hact hdec hb hp hr (.inl hen)) body, fun hp => ?_, fun hp hr => ?_⟩
    · have h := issue_guarded_off (g' := g) ht hg hact hdec (fun _ => .inl hp) hen (by
        rw [offeredIc_parked hp]
        exact with_self (c := c) ht hg) body
      rwa [hb, Bool.not_true, Bool.and_false] at h
    · have h := issue_guarded_off (g' := { g.openStretch with poisonPc := [], parked := true }) ht hg hact hdec (fun _ => .inr hr) hen (by
        rw [offeredIc_unparked hb hp, atPark_state ht hg, commit_of_empty hr]
        exact retire_with (c := c) _) body
      rwa [hb, Bool.not_true, Bool.and_false] at h

end Sys2Proof.Machine

end

section
/-! Retirement: the next PCs of the lanes, and the loop stack at the end of a body (R72, R104, R111, R119, R137, Table 7.8). -/

namespace Sys2Proof.Machine

/-- Threads changed one after another, each lane once, are changed all together. -/
theorem foldl_modLane_eq_mapLanes (f : Nat → Thread → Thread) {act : List Nat} (h : act.Nodup) (g : Group) :
    act.foldl (fun g l => g.modLane l (f l)) g = g.mapLanes (fun l x => if act.contains l then f l x else x) := by
  induction act generalizing g with
  | nil =>
    refine congrArg (fun ts => { g with threads := ts }) (List.ext_getElem? fun i => ?_)
    simp
  | cons a r ih =>
    obtain ⟨ha, hr⟩ := List.nodup_cons.1 h
    rw [List.foldl_cons, ih hr]
    refine congrArg (fun ts => { g with threads := ts }) (List.ext_getElem? fun i => ?_)
    simp only [Group.modLane, List.getElem?_mapIdx, List.getElem?_modify, List.contains_cons, Option.map_eq_map, Option.map_map]
    refine congrArg (Option.map · g.threads[i]?) (funext fun x => ?_)
    by_cases hi : a = i
    · subst hi
      simp [ha]
    · simp [hi, Ne.symm hi]

theorem retirement : Claims.Retirement := by
  intro g pc next act xfer park h
  rw [retireGroup, foldl_modLane_eq_mapLanes _ h]
  rfl

/-! ### The loop stack -/

theorem advance_of_empty {x : Thread} (pc next : Word) (h : x.loops = []) : x.advance pc next = { x with pc := next } := by
  simp [Thread.advance, h, endCheck]

section

variable {x : Thread} {pc : Word} (next : Word) {e : LoopEntry} {r : List LoopEntry} (h : x.loops = e :: r)

include h

theorem advance_inside (hpc : e.stop.toNat ≠ pc.toNat) : x.advance pc next = { x with pc := next } := by
  simp [Thread.advance, h, endCheck, hpc]

theorem advance_again (hpc : e.stop.toNat = pc.toNat) (hc : 1 < e.count.toNat) :
    x.advance pc next = { x with loops := { e with count := e.count - 1 } :: r, pc := word e.start.toNat } := by
  simp [Thread.advance, h, endCheck, hpc, hc]

theorem advance_pops (hpc : e.stop.toNat = pc.toNat) (hc : e.count.toNat ≤ 1) :
    x.advance pc next = { x with loops := r }.advance pc next := by
  simp [Thread.advance, h, endCheck, hpc, Nat.not_lt.2 hc]

end

theorem popLoops_cons (e : LoopEntry) (r : List LoopEntry) (a : Word) :
    popLoops (e :: r) a = if e.start.toNat ≤ a.toNat ∧ a.toNat ≤ e.stop.toNat then e :: r else popLoops r a := by
  simp [popLoops, LoopEntry.contains]

theorem loopStack : Claims.LoopStack :=
  ⟨fun _ pc next => advance_of_empty pc next,
    fun _ _ next _ _ h => ⟨advance_inside next h, advance_again next h, advance_pops next h⟩, fun _ => rfl, popLoops_cons⟩

/-- Settles O9: the lanes advance together as they take part once each, and the loop stack by the rows of Table 7.8. -/
theorem retirementOrder : Obligations.RetirementOrder := ⟨retirement, loopStack⟩

end Sys2Proof.Machine

end

section
/-! The commit of a stretch: each slot writes its destination, in program order (R79, R105, R107). -/

namespace Sys2Proof.Machine

/-! ### A place of a lane after a write in some lanes -/

theorem lane_modLane_if (g : Group) (l k : Nat) (f : Thread → Thread) :
    (g.modLane l f).lane k = if k = l ∧ k < g.threads.length then f (g.lane k) else g.lane k := by
  by_cases hk : k < g.threads.length
  · rw [lane_modLane g l k f hk]
    simp [hk]
  · rw [lane_out g k (by omega), lane_out _ k (by simpa using hk), if_neg (by omega)]

/-- A write of a predicate leaves every other predicate, and p0 (R79). -/
theorem getLsbD_writeP_other (t : Thread) {n m : Nat} (b : Bool) (h : n = 0 ∨ m ≠ n ∨ 128 ≤ n) :
    (t.writeP n b).p.getLsbD m = t.p.getLsbD m := by
  by_cases hn : n < 128
  · rw [getLsbD_writeP t n m b hn, if_neg (by omega)]
  · have hshift : (1#128 <<< n) = 0#128 := BitVec.shiftLeft_eq_zero (by omega)
    by_cases h0 : n = 0
    · simp [Thread.writeP, h0]
    · cases b <;> simp only [Thread.writeP, h0, if_false, hshift, Bool.false_eq_true, if_true, BitVec.or_zero, BitVec.not_zero, BitVec.and_allOnes]

theorem lane_writeP_v (g : Group) (l n : Nat) (b : Bool) (k : Nat) : ((g.writeP l n b).lane k).v = (g.lane k).v := by
  rw [Group.writeP, lane_modLane_if]
  split
  · unfold Thread.writeP
    split <;> rfl
  · rfl

theorem lane_writeV_p (g : Group) (l n : Nat) (x : Word) (k : Nat) : ((g.writeV l n x).lane k).p = (g.lane k).p := by
  rw [Group.writeV, lane_modLane_if]
  split <;> rfl

/-- A v-register of a lane after writes in some lanes. -/
theorem wget_foldl_writeV (n m k : Nat) (x : Nat → Word) (lanes : List Nat) (g : Group) :
    wget ((lanes.foldl (fun g l => g.writeV l n (x l)) g).lane k).v m =
      if m = n ∧ k ∈ lanes ∧ k < g.threads.length then x k else wget (g.lane k).v m := by
  induction lanes generalizing g with
  | nil => simp
  | cons a r ih =>
    rw [List.foldl_cons, ih, Group.writeV, modLane_length, lane_modLane_if]
    by_cases hk : k = a ∧ k < g.threads.length
    · rw [if_pos hk, Thread.writeV, wget_wset]
      obtain ⟨rfl, hk⟩ := hk
      by_cases hm : m = n <;> simp [hk, hm]
    · have hmem : k ∈ a :: r ∧ k < g.threads.length ↔ k ∈ r ∧ k < g.threads.length := by rw [List.mem_cons]; tauto
      simp only [hk, if_false, hmem]

/-- A predicate of a lane after writes in some lanes; p0 stays (R79). -/
theorem getLsbD_foldl_writeP (n m k : Nat) (x : Nat → Bool) (lanes : List Nat) (g : Group) :
    ((lanes.foldl (fun g l => g.writeP l n (x l)) g).lane k).p.getLsbD m =
      if (n ≠ 0 ∧ n < 128) ∧ m = n ∧ k ∈ lanes ∧ k < g.threads.length then x k else (g.lane k).p.getLsbD m := by
  induction lanes generalizing g with
  | nil => simp
  | cons a r ih =>
    rw [List.foldl_cons, ih, Group.writeP, modLane_length, lane_modLane_if]
    by_cases hk : k = a ∧ k < g.threads.length
    · by_cases hw : (n ≠ 0 ∧ n < 128) ∧ m = n
      · obtain ⟨⟨h0, hn⟩, rfl⟩ := hw
        obtain ⟨rfl, hk⟩ := hk
        rw [if_pos (And.intro rfl hk), getLsbD_writeP _ _ _ _ hn]
        simp [hk, h0, hn]
      · have hkeep : ((g.lane k).writeP n (x a)).p.getLsbD m = (g.lane k).p.getLsbD m := getLsbD_writeP_other _ _ (by omega)
        have hno {P : Prop} : ¬ ((n ≠ 0 ∧ n < 128) ∧ m = n ∧ P) := fun ⟨hn, hm, _⟩ => hw ⟨hn, hm⟩
        rw [if_pos hk, hkeep, if_neg hno, if_neg hno]
    · have hmem : k ∈ a :: r ∧ k < g.threads.length ↔ k ∈ r ∧ k < g.threads.length := by rw [List.mem_cons]; tauto
      simp only [hk, if_false, hmem]

/-! ### One slot -/

section

variable (g : Group) {x : Slot} {n l : Nat}

theorem commitSlot_sreg_other (h : x.dest ≠ .s n) : wget (g.commitSlot x).sreg n = wget g.sreg n := by
  unfold Group.commitSlot
  split
  · split
    next m hd => rw [Group.writeS, wget_wset, if_neg (fun e => h (hd.trans (by rw [e])))]
    next => exact congrArg (wget · n) (foldl_keeps Group.sreg _ (by exact fun _ _ => rfl) _ _)
    next => exact congrArg (wget · n) (foldl_keeps Group.sreg _ (by exact fun _ _ => rfl) _ _)
  · rfl

theorem commitSlot_v_other (h : x.dest ≠ .v n ∨ l ∉ x.lanes) : wget ((g.commitSlot x).lane l).v n = wget (g.lane l).v n := by
  unfold Group.commitSlot
  split
  · split
    next => rfl
    next m hd =>
      rw [wget_foldl_writeV, if_neg]
      rintro ⟨rfl, hl, -⟩
      exact h.elim (· hd) (· hl)
    next => exact congrArg (wget · n) (foldl_keeps (fun g => (g.lane l).v) _ (fun g k => lane_writeP_v g k _ _ l) _ _)
  · rfl

theorem commitSlot_p_other (h : (x.dest ≠ .p n ∨ l ∉ x.lanes) ∨ n = 0) :
    ((g.commitSlot x).lane l).p.getLsbD n = (g.lane l).p.getLsbD n := by
  unfold Group.commitSlot
  split
  · split
    next => rfl
    next => exact congrArg (BitVec.getLsbD · n) (foldl_keeps (fun g => (g.lane l).p) _ (fun g k => lane_writeV_p g k _ _ l) _ _)
    next m hd =>
      rw [getLsbD_foldl_writeP, if_neg]
      rintro ⟨⟨h0, -⟩, rfl, hl, -⟩
      exact h.elim (·.elim (· hd) (· hl)) h0
  · rfl

variable {res : List (Nat × Word)} (hs : x.st = .filled res)

include hs

theorem commitSlot_sreg (hd : x.dest = .s n) : wget (g.commitSlot x).sreg n = laneVal res 0 := by
  simp [Group.commitSlot, hs, hd, Group.writeS, wget_wset]

theorem commitSlot_v (hd : x.dest = .v n) (hl : l ∈ x.lanes) (hw : l < g.threads.length) :
    wget ((g.commitSlot x).lane l).v n = laneVal res l := by
  simp [Group.commitSlot, hs, hd, wget_foldl_writeV, hl, hw]

theorem commitSlot_p (hd : x.dest = .p n) (h0 : n ≠ 0) (hn : n < 128) (hl : l ∈ x.lanes) (hw : l < g.threads.length) :
    ((g.commitSlot x).lane l).p.getLsbD n = (laneVal res l != 0) := by
  simp only [Group.commitSlot, hs, hd, getLsbD_foldl_writeP]
  simp [h0, hn, hl, hw]

end

/-- A slot changes only what the writes of registers and predicates change. -/
theorem commitSlot_keeps {β : Type} (r : Group → β) (hs : ∀ g n v, r (Group.writeS g n v) = r g) (hv : ∀ g l n v, r (Group.writeV g l n v) = r g)
    (hp : ∀ g l n b, r (Group.writeP g l n b) = r g) (x : Slot) (g : Group) : r (g.commitSlot x) = r g := by
  unfold Group.commitSlot
  split
  · split
    · exact hs _ _ _
    · exact foldl_keeps r _ (by exact fun _ _ => hv _ _ _ _) _ _
    · exact foldl_keeps r _ (by exact fun _ _ => hp _ _ _ _) _ _
  · rfl

theorem commitSlot_width (g : Group) (x : Slot) : (g.commitSlot x).threads.length = g.threads.length :=
  commitSlot_keeps (·.threads.length) (fun _ _ _ => rfl) (fun g l _ _ => modLane_length g l _) (fun g l _ _ => modLane_length g l _) x g

theorem commitSlot_lc (x : Slot) (g : Group) : (g.commitSlot x).lc = g.lc :=
  commitSlot_keeps Group.lc (fun _ _ _ => rfl) (fun _ _ _ _ => rfl) (fun _ _ _ _ => rfl) x g

/-! ### The slots in their order -/

/-- What none of the slots writes is kept. -/
theorem foldl_commitSlot_keeps {β : Type} (r : Group → β) {xs : List Slot} (h : ∀ x ∈ xs, ∀ g : Group, r (g.commitSlot x) = r g) (g : Group) :
    r (xs.foldl Group.commitSlot g) = r g := by
  induction xs generalizing g with
  | nil => rfl
  | cons x xs ih =>
    rw [List.foldl_cons, ih (fun y hy => h y (List.mem_cons_of_mem _ hy)), h x List.mem_cons_self]

/-- What a slot writes and no later one does stands at the end. -/
theorem foldl_commitSlot_last {β : Type} (r : Group → β) {pre post : List Slot} {x : Slot} {b : β} {g : Group}
    (hx : ∀ g' : Group, g'.threads.length = g.threads.length → r (g'.commitSlot x) = b)
    (h : ∀ y ∈ post, ∀ g : Group, r (g.commitSlot y) = r g) : r ((pre ++ x :: post).foldl Group.commitSlot g) = b := by
  rw [List.foldl_append, List.foldl_cons, foldl_commitSlot_keeps r h]
  exact hx _ (foldl_width _ commitSlot_width pre g)

/-- Settles O44: each slot by what it writes, and the slots in their order by the last that writes a place. -/
theorem commitInOrder : Obligations.CommitInOrder := by
  intro g
  refine ⟨fun n h => ?_, fun l n h => ?_, fun l n h => ?_, ?_, fun l => ?_, rfl, commit_width g, ?_⟩
  · exact foldl_commitSlot_keeps (fun g => wget g.sreg n) (fun x hx g => commitSlot_sreg_other g (h x hx)) g
  · exact foldl_commitSlot_keeps (fun g => wget (g.lane l).v n) (fun x hx g => commitSlot_v_other g (h x hx)) g
  · exact foldl_commitSlot_keeps (fun g => (g.lane l).p.getLsbD n) (fun x hx g => commitSlot_p_other g (.inl (h x hx))) g
  · intro pre x post res n hrb hs hpost
    have last {β : Type} (r : Group → β) {b : β} (hx : ∀ g' : Group, g'.threads.length = g.threads.length → r (g'.commitSlot x) = b)
        (h : ∀ y ∈ post, ∀ g : Group, r (g.commitSlot y) = r g) : r (g.rb.foldl Group.commitSlot g) = b := by
      rw [hrb]
      exact foldl_commitSlot_last r hx h
    refine ⟨fun hd => ?_, fun hd l hl hw => ?_, fun hd h0 hn l hl hw => ?_⟩
    all_goals rw [hd] at hpost
    · exact last (fun g => wget g.sreg n) (fun g' _ => commitSlot_sreg g' hs hd) (fun y hy g => commitSlot_sreg_other g (hpost y hy))
    · exact last (fun g => wget (g.lane l).v n) (fun g' hg => commitSlot_v g' hs hd hl (hg ▸ hw))
        (fun y hy g => commitSlot_v_other g (.inl (hpost y hy)))
    · exact last (fun g => (g.lane l).p.getLsbD n) (fun g' hg => commitSlot_p g' hs hd h0 hn hl (hg ▸ hw))
        (fun y hy g => commitSlot_p_other g (.inl (.inl (hpost y hy))))
  · exact foldl_commitSlot_keeps (fun g => (g.lane l).p.getLsbD 0) (fun x _ g => commitSlot_p_other g (.inr rfl)) g
  · exact foldl_commitSlot_keeps Group.lc (fun x _ => commitSlot_lc x) g

end Sys2Proof.Machine

end

section
/-! The instructions that write predicates or read them as words (R79, R137, R138, R140 to R144). -/

namespace Sys2Proof.Machine

/-- Each of them is a predicate result. -/
theorem predicateResults : Claims.PredicateResults := by
  refine ⟨?_, ?_, ?_, ?_, ?_, ?_, ?_⟩
  all_goals exact fun _ _ _ h => pred_completes _ h rfl rfl _ rfl

/-! ### PMOV.set -/

/-- Predicates written one after another in each of some lanes. -/
theorem groupWrites_foldLanes (f : Group → Nat → Group) (p : Nat → Nat → Option Bool) (lanes : List Nat) (g : Group)
    (hf : ∀ g' : Group, g'.threads.length = g.threads.length → ∀ l ∈ lanes,
      GroupWrites g' (f g' l) noWrite (fun _ => none) (fun k n => if k = l then p l n else none)) :
    GroupWrites g (lanes.foldl f g) noWrite (fun _ => none) (fun k n => if lanes.contains k then p k n else none) := by
  induction lanes generalizing g with
  | nil => exact (GroupWrites.refl g).congr (fun _ _ => rfl) (fun _ => rfl) (fun _ _ => rfl)
  | cons a r ih =>
    have ha := hf g rfl a List.mem_cons_self
    have hr := ih (f g a) (fun g' hg l hl => hf g' (hg.trans ha.width) l (List.mem_cons_of_mem _ hl))
    refine (ha.trans hr).congr (fun _ _ => rfl) (fun _ => rfl) (fun k n => ?_)
    by_cases hk : k = a
    · subst hk
      by_cases hm : k ∈ r <;> simp [hm]
    · simp [hk]

/-- The `m` predicates of a lane from `b` on; p0 is excepted (R79). -/
theorem groupWrites_predRange (g : Group) (l b m : Nat) (x : Nat → Bool) (hl : l < g.threads.length) (hb : b + m ≤ 128) :
    GroupWrites g ((List.range m).foldl (fun g i => g.writeP l (b + i) (x i)) g) noWrite (fun _ => none)
      (fun k n => if k = l then (if n ≠ 0 ∧ b ≤ n ∧ n < b + m then some (x (n - b)) else none) else none) := by
  induction m with
  | zero => exact (GroupWrites.refl g).congr (fun _ _ => rfl) (fun _ => rfl) (fun k n => by simp [noWrite])
  | succ m ih =>
    have hm := ih (by omega)
    rw [List.range_succ, List.foldl_append]
    refine (hm.trans (groupWrites_writeP _ l (b + m) (x m) (hm.width ▸ hl) (by omega))).congr (fun _ _ => rfl) (fun _ => rfl) (fun k n => ?_)
    by_cases hk : k = l
    · subst hk
      by_cases hn : n = b + m
      · subst hn
        by_cases h0 : b + m = 0 <;> simp [h0]
      · have hrange : (n ≠ 0 ∧ b ≤ n ∧ n < b + (m + 1)) ↔ (n ≠ 0 ∧ b ≤ n ∧ n < b + m) := by omega
        simp [hn, hrange]
    · simp [hk]

/-- What PMOV.set writes in each enabled lane. -/
theorem pmovSet_writes {c : Ic} (half : Nat) (hh : half < 2) (x : Nat → Word) (hl : ∀ l ∈ c.en, l < c.g.threads.length) :
    GroupWrites c.g (c.en.foldl (fun g l => (List.range 64).foldl (fun g i => g.writeP l (64 * half + i) ((x l).getLsbD i)) g) c.g)
      noWrite (fun _ => none) (fun l n => if n != 0 && c.en.contains l && 64 * half ≤ n && n < 64 * half + 64
        then some ((x l).getLsbD (n - 64 * half)) else none) := by
  refine (groupWrites_foldLanes _ _ c.en c.g fun g' hw l hen =>
    groupWrites_predRange g' l (64 * half) 64 _ (hw ▸ hl l hen) (by omega)).congr (fun _ _ => rfl) (fun _ => rfl) (fun l n => ?_)
  by_cases hen : l ∈ c.en
  · simp [hen, and_assoc]
  · simp [hen]

/-- A form with a check of its subfield passes it. -/
theorem sub_of_decode {sh : Shape} {w : LongWord} {n : Nat} (h : decodeFail sh w n = none) : sh.sub = true := by
  by_contra hc
  simp only [Bool.not_eq_true] at hc
  simp only [decodeFail, hc, Bool.not_false, if_true] at h
  split at h <;> cases h

/-- An instruction whose body changes its group alone completes with that group. -/
theorem group_completes {i : Instr} {s : State} {w : LongWord} {sh : Shape} {c : Ic} (f : Ic → Group → Group)
    (h : offer s w sh {} = .ok c) (he : exec i s = issue s w sh {} (fun c => .ok { st := modGroup c.s c.core c.grp (f c) })) :
    Completes i s (c.retires [] (f c c.g)) := by
  have o := offer_ok h
  refine ⟨_, he.trans ((issue_ok h _).trans ?_), rfl, with_mem c _⟩
  simp [modGroup_with o.team o.group, retire_with, o.word]

/-- Each of them is a short result, but PMOV.set, which writes its lanes' predicates one after another. -/
theorem predicateWords : Claims.PredicateWords := by
  refine ⟨fun _ _ _ h => short_completes _ h rfl rfl (.inr rfl) _ rfl, fun _ _ _ h => short_completes _ h rfl rfl (.inr rfl) _ rfl,
    fun _ _ _ h => short_completes _ h rfl rfl (.inr rfl) _ rfl, fun _ _ _ h => short_completes _ h rfl rfl (.inl rfl) _ rfl,
    fun w s c h => ?_⟩
  have o := offer_ok h
  obtain ⟨-, hact, -⟩ := o.lanes
  have hsub : subNo w < 4 := by simpa using sub_of_decode o.code
  obtain ⟨t, he, ht⟩ := group_completes (i := .pmovSet w) _ h rfl
  exact ⟨t, he, _, pmovSet_writes (subNo w / 2) (by omega) (fun l => c.rd l w.a) (fun l hl => o.width l (hact l hl)), ht⟩

/-- Settles O6: the results of predicates and of words by their one effect each, and PMOV.set by what it writes. -/
theorem predicateWrites : Obligations.PredicateWrites := ⟨predicateResults, predicateWords⟩

end Sys2Proof.Machine

end

section
/-! Words of the spec's encodings (R70, R76 to R78, R88, R122, R354 to R356, R371). -/

namespace Sys2Proof

/-- OP7 0x7F is ILLEGAL, whatever the other fields hold (R77, R88). -/
theorem decode32_illegal {x : Nat} (h : x / 8 % 128 = 0x7F) : decode32 x = .illegalK (BitVec.ofNat 32 x) := by
  have hop : bitsAt x 3 7 = 0x7F := h
  simp [decode32, hop]

theorem decodeTableWord_illegalK (w : BitVec 32) (hlow : w.toNat % 4 = 1) (hop : w.toNat / 8 % 128 = 0x7F) :
    decodeTableWord 32 w.toNat = some (.illegalK w) := by
  simp only [decodeTableWord, Nat.mod_eq_of_lt w.isLt, decodeWord, hlow, decode32_illegal hop]
  simp

/-- Settles O57: each word by running the decoder on it, and the 32-bit ILLEGAL for every word of its OP7. -/
theorem decodedWords : Obligations.DecodedWords := by
  refine ⟨?_, ?_, ?_, ?_, ?_, ?_, ?_, decodeTableWord_illegalK⟩
  all_goals decide

end Sys2Proof

end

section
/-! The issue PC (R111), and the machine right after reset (R101, R387). -/

namespace Sys2Proof.Machine

/-! ### The choice of the issue PC -/

/-- Outside a handler a thread takes part in the choice if it is live and not held. -/
theorem laneReady_iff {g : Group} (hm : g.hm = none) (l : Nat) :
    laneReady g l = true ↔ (g.lane l).live = true ∧ (g.lane l).held = none := by
  simp [laneReady, handlerLanes, hm]

/-- The next PCs of the threads that take part. -/
def readyPcs (g : Group) : List Nat := ((laneList g).filter (laneReady g)).map (fun l => (g.lane l).pc.toNat)

theorem mem_readyPcs {g : Group} (hm : g.hm = none) {n : Nat} :
    n ∈ readyPcs g ↔ ∃ l, (l < g.threads.length ∧ (g.lane l).live = true ∧ (g.lane l).held = none) ∧ (g.lane l).pc.toNat = n := by
  simp only [readyPcs, laneList, List.mem_map, List.mem_filter, List.mem_range, laneReady_iff hm]

theorem issuePc_eq_none {g : Group} : issuePc g = none ↔ readyPcs g = [] := by
  by_cases h : readyPcs g = []
  · exact iff_of_true (by rw [issuePc, ← readyPcs, h]; rfl) h
  · obtain ⟨m, hmin, -⟩ := minNat_spec h
    exact iff_of_false (by rw [issuePc, ← readyPcs, hmin]; simp) h

/-- The issue PC is one of those next PCs, and none is lower. -/
theorem issuePc_eq_some {g : Group} {pc : Word} (h : issuePc g = some pc) :
    pc.toNat ∈ readyPcs g ∧ ∀ n ∈ readyPcs g, pc.toNat ≤ n := by
  have hne : readyPcs g ≠ [] := fun he => by rw [issuePc_eq_none.2 he] at h; cases h
  obtain ⟨m, hmin, hmem, hle⟩ := minNat_spec hne
  rw [issuePc, ← readyPcs, hmin] at h
  obtain ⟨l, -, rfl⟩ := List.mem_map.1 hmem
  cases h
  simpa [word] using ⟨hmem, hle⟩

/-- Settles O10: the issue PC is the least of the next PCs of the threads that take part. -/
theorem issuePcIsLowest : Obligations.IssuePcIsLowest := by
  intro g hm
  refine ⟨?_, fun pc h => ?_⟩
  · rw [issuePc_eq_none, List.eq_nil_iff_forall_not_mem]
    simp only [mem_readyPcs hm]
    exact ⟨fun h l hl => h _ ⟨l, hl, rfl⟩, fun h _ ⟨l, hl, _⟩ => h l hl⟩
  · obtain ⟨hmem, hle⟩ := issuePc_eq_some h
    refine ⟨(mem_readyPcs hm).1 hmem, fun l hl => hle _ ((mem_readyPcs hm).2 ⟨l, hl, rfl⟩), fun l => ?_⟩
    simp only [activeLanes, laneList, List.mem_filter, List.mem_range, Bool.and_eq_true, laneReady_iff hm, beq_iff_eq,
      ← BitVec.toNat_inj, and_assoc]

/-! ### Reset -/

/-- Settles O59: each field as `State.reset` and `CoreRegs.reset` give it; an unlisted core has the registers of reset, and empty
memory is canonical. -/
theorem resetState : Obligations.ResetState := by
  refine ⟨rfl, rfl, rfl, rfl, rfl, rfl, rfl, rfl, rfl, rfl, rfl, rfl, rfl, rfl, fun c => ?_, rfl, rfl⟩
  have hc : coreRegs State.reset c = CoreRegs.reset := rfl
  rw [hc]
  exact ⟨rfl, rfl, rfl, rfl⟩

end Sys2Proof.Machine

end

section
/-! LOOP and LBRK: where their lanes go, and their loop stacks (R119, R125 to R127, Table 7.8). -/

namespace Sys2Proof.Machine

/-! ### Lanes and their targets -/

@[simp] theorem atPark_en (c : Ic) : c.atPark.en = c.en := by
  simp only [Ic.atPark]
  repeat' split
  all_goals rfl

/-- The enabled lanes of an offered instruction stand in ascending order (R80). -/
theorem offer_en_sorted {s : State} {w : LongWord} {sh : Shape} {k : Issue} {c : Ic} (h : offer s w sh k = .ok c) :
    c.en.Pairwise (· < ·) := by
  have hen (t : Team) (g : Group) : (issueIc s w sh t g).en.Pairwise (· < ·) :=
    (List.pairwise_lt_range.filter _).filter _
  obtain ⟨t, g, rfl | rfl⟩ := offer_context h
  · exact hen t g
  · rw [atPark_en]
    exact hen t g

theorem find?_targets (ls : List Nat) (f : Nat → Word) (k : Nat) :
    (ls.map (fun l => (l, f l))).find? (fun x => x.1 == k) = if k ∈ ls then some (k, f k) else none := by
  induction ls with
  | nil => rfl
  | cons a r ih =>
    by_cases hk : a = k
    · subst hk
      simp
    · have : ¬ k = a := fun h => hk h.symm
      simpa [hk, this] using ih

/-- Retiring asks of the targets only which one each lane has. -/
theorem retireGroup_congr {xfer xfer' : List (Nat × Word)}
    (h : ∀ k, xfer.find? (fun x => x.1 == k) = xfer'.find? (fun x => x.1 == k)) (pc next : Word) (act : List Nat) (park : Bool) (g : Group) :
    retireGroup pc next act xfer park g = retireGroup pc next act xfer' park g := by
  simp only [retireGroup, h]

/-- An instruction whose body sends lanes away and makes the issuing group `g` completes with both (R121). -/
theorem transfer_completes {i : Instr} {s : State} {w : LongWord} {sh : Shape} {c : Ic} {g : Group} {ts xfer : List (Nat × Word)}
    (h : offer s w sh {} = .ok c) (body : Ic → Except Stop Eff) (he : exec i s = issue s w sh {} body)
    (hb : body c = .ok { st := c.with g, xfer := ts })
    (hx : ∀ k, ts.find? (fun x => x.1 == k) = xfer.find? (fun x => x.1 == k)) : Completes i s (c.retires xfer g) := by
  refine ⟨_, he.trans ((issue_ok h body).trans ?_), rfl, with_mem c _⟩
  simp [hb, retire_with, (offer_ok h).word, retireGroup_congr hx]

/-- Threads changed by lane: only what the lanes hold matters. -/
theorem mapLanes_congr {g : Group} {f f' : Nat → Thread → Thread} (h : ∀ l, f l (g.lane l) = f' l (g.lane l)) :
    g.mapLanes f = g.mapLanes f' := by
  refine congrArg (fun ts => { g with threads := ts }) (List.ext_getElem? fun l => ?_)
  simp only [List.getElem?_mapIdx]
  cases hl : g.threads[l]? with
  | none => rfl
  | some x =>
    have hx : g.lane l = x := by simp [Group.lane, hl]
    rw [Option.map_some, Option.map_some, ← hx, h l]

/-! ### LOOP (R119, R125) -/

/-- The entry that a LOOP pushes for a lane whose count is not zero. -/
def loopEntry (start stop : Word) (n : Nat) : LoopEntry := ⟨BitVec.ofNat 56 start.toNat, BitVec.ofNat 56 stop.toNat, BitVec.ofNat 32 n⟩

/-- The lanes that LOOP sends to START and past END are the enabled ones by their counts. -/
theorem loop_targets (en : List Nat) (count : Nat → Nat) (start past past' : Word) (hp : (∃ l ∈ en, count l = 0) → past' = past) (k : Nat) :
    (((en.filter (fun l => count l != 0)).map (fun l => (l, start))
      ++ (en.filter (fun l => count l == 0)).map (fun l => (l, past'))).find? (fun x => x.1 == k))
    = (en.map (fun l => (l, if count l = 0 then past else start))).find? (fun x => x.1 == k) := by
  rw [List.find?_append, find?_targets, find?_targets, find?_targets]
  by_cases hk : k ∈ en <;> by_cases h0 : count k = 0 <;> simp [hk, h0]
  exact hp ⟨k, hk, h0⟩

section

variable {s : State} {w : LongWord} {sh : Shape} {count : Ic → Nat → Nat} {c : Ic} (h : offer s w sh {} = .ok c)

include h

theorem loop_completes {i : Instr} (he : exec i s = loopWith w sh count s)
    (hroom : ∀ l ∈ c.en.filter (fun l => count c l != 0), (c.g.lane l).loops.length < 4) (past : Word)
    (hpast : c.en.filter (fun l => count c l == 0) ≠ [] → ∃ pa,
      fetchParcel c.s c.core c.ctx c.svc c.g.walked (c.pc + word (2 * (litNat w % 2 ^ 16))).toNat = .ok pa
        ∧ past = c.pc + word (2 * (litNat w % 2 ^ 16)) + word (lengthOf (memNat c.s.mem pa 2))) :
    Completes i s (c.retires (c.en.map (fun l => (l, if count c l = 0 then past else c.pc + 12)))
      (c.g.mapLanes (fun l x => if (c.en.filter (fun l => count c l != 0)).contains l then
        { x with loops := loopEntry (c.pc + 12) (c.pc + word (2 * (litNat w % 2 ^ 16))) (count c l) :: x.loops } else x))) := by
  have o := offer_ok h
  have hfind : (c.en.filter (fun l => count c l != 0)).find? (fun l => decide ((c.g.lane l).loops.length ≥ 4)) = none :=
    List.find?_eq_none.2 fun l hl => by simpa using hroom l hl
  have hnd : (c.en.filter (fun l => count c l != 0)).Nodup := ((offer_en_sorted h).imp Nat.ne_of_lt).filter _
  rw [← foldl_modLane_eq_mapLanes (fun l x => { x with
    loops := loopEntry (c.pc + 12) (c.pc + word (2 * (litNat w % 2 ^ 16))) (count c l) :: x.loops }) hnd]
  by_cases hz : (c.en.filter (fun l => count c l == 0)).isEmpty = true
  · refine transfer_completes h _ he (by simp only [hfind, hz, if_true, modGroup_with o.team o.group]; rfl)
      (loop_targets c.en (count c) _ _ _ fun ⟨l, hl, h0⟩ => ?_)
    exact absurd h0 (by simpa using List.filter_eq_nil_iff.1 (List.isEmpty_iff.1 hz) l hl)
  · obtain ⟨pa, hf, rfl⟩ := hpast (by simpa using hz)
    exact transfer_completes h _ he (by
      simp only [hfind, hz, hf, modGroup_with o.team o.group]; rfl) (loop_targets c.en (count c) _ _ _ fun _ => rfl)

/-- The lowest lane whose stack is full raises ELOOPDEPTH, and no lane transfers (R119). -/
theorem loop_too_deep {i : Instr} (he : exec i s = loopWith w sh count s) {l : Nat} (hl : l ∈ c.en.filter (fun l => count c l != 0))
    (hfull : 4 ≤ (c.g.lane l).loops.length)
    (hlow : ∀ k ∈ c.en.filter (fun l => count c l != 0), k < l → (c.g.lane k).loops.length < 4) :
    exec i s = .next (takeTrap c.s c.core c.grp ⟨0x0A, 0, word l⟩ c.pc c.pc false false c.act) := by
  have hsorted := (offer_en_sorted h).filter (fun l => count c l != 0)
  have hfind : (c.en.filter (fun l => count c l != 0)).find? (fun l => decide ((c.g.lane l).loops.length ≥ 4)) = some l := by
    obtain ⟨pre, post, hsplit⟩ := List.append_of_mem hl
    refine List.find?_eq_some_iff_append.2 ⟨by simpa using hfull, pre, post, hsplit, fun k hk => ?_⟩
    rw [hsplit] at hsorted hlow
    have hkl : k < l := (List.pairwise_append.1 hsorted).2.2 k hk l (by simp)
    simpa using hlow k (by simp [hk]) hkl
  refine he.trans ((issue_ok h _).trans ?_)
  simp only [hfind, stopState]

end

/-! ### LBRK (R127) -/

/-- The target of LBRK for a lane that runs in an entry. -/
def lbrkTarget (w : LongWord) (e : LoopEntry) : Word := relTarget (word e.stop.toNat) (litInt w)

/-- A lane's loop stack after LBRK: a taken transfer from its top entry. -/
def lbrkStack (w : LongWord) : List LoopEntry → List LoopEntry
  | [] => []
  | e :: r => popLoops (e :: r) (lbrkTarget w e)

/-- The lanes that LBRK sends away take their branch together. -/
theorem lbrk_branches (w : LongWord) (g : Group) {en : List Nat} (hnd : en.Nodup) :
    (en.filterMap (fun l => (g.lane l).loops.head?.map (fun e => (l, lbrkTarget w e)))).foldl
      (fun g x => g.modLane x.1 (fun t => { t with loops := popLoops t.loops x.2 })) g
    = g.mapLanes (fun l x => if en.contains l then { x with loops := lbrkStack w x.loops } else x) := by
  rw [List.foldl_filterMap]
  refine (List.foldl_ext _ (fun g' l => g'.modLane l (fun t =>
    ((g.lane l).loops.head?.map (fun e => { t with loops := popLoops t.loops (lbrkTarget w e) })).getD t)) _ fun g' l _ => ?_).trans
      ((foldl_modLane_eq_mapLanes _ hnd g).trans (mapLanes_congr fun l => ?_))
  · cases (g.lane l).loops with
    | nil => exact (congrArg (fun ts => { g' with threads := ts }) (List.modify_id _ _)).symm
    | cons e r => rfl
  · cases hl : (g.lane l).loops with
    | nil =>
      have hsame : ({ g.lane l with loops := lbrkStack w [] } : Thread) = g.lane l := by rw [lbrkStack, ← hl]
      simp [hsame]
    | cons e r => simp [lbrkStack]

theorem lbrk_completes {s : State} {w : LongWord} {c : Ic} (h : offer s w (shapeX w) {} = .ok c) :
    Completes (.lbrk w) s (c.retires (c.en.filterMap (fun l => (c.g.lane l).loops.head?.map (fun e => (l, lbrkTarget w e))))
      (c.g.mapLanes (fun l x => if c.en.contains l then { x with loops := lbrkStack w x.loops } else x))) := by
  have o := offer_ok h
  have hts : c.en.filterMap (fun l => match (c.g.lane l).loops with
      | e :: _ => some (l, lbrkTarget w e)
      | [] => none) = c.en.filterMap (fun l => (c.g.lane l).loops.head?.map (fun e => (l, lbrkTarget w e))) :=
    List.filterMap_congr fun l _ => by cases (c.g.lane l).loops <;> rfl
  have he : exec (.lbrk w) s = execLbrk w s := rfl
  refine transfer_completes h _ (he.trans rfl) ?_ (fun _ => rfl)
  rw [← lbrk_branches w c.g ((offer_en_sorted h).imp Nat.ne_of_lt), ← hts]
  simp only [takeBranch, modGroup_with o.team o.group]
  rfl

/-- Settles O12: the lanes by their counts, the lowest full stack, and LBRK's lanes by their top entries. -/
theorem loops : Obligations.Loops := by
  refine ⟨fun w s c h => ?_, fun w s c h => ?_, fun w s c h => ?_⟩
  · exact ⟨loop_completes (i := .loop w) h rfl, fun _ => loop_too_deep (i := .loop w) h rfl⟩
  · exact ⟨loop_completes (i := .loopImm w) (count := fun _ _ => litNat w / 2 ^ 16) h rfl,
      fun _ => loop_too_deep (i := .loopImm w) (count := fun _ _ => litNat w / 2 ^ 16) h rfl⟩
  · exact lbrk_completes h

end Sys2Proof.Machine

end

section
/-! CSRR (R101, R354), and the global loads at their issue (R105, R222, R226, R316). -/

namespace Sys2Proof.Machine

/-! ### CSRR -/

section

variable {s : State} {w : LongWord} {c : Ic}
  (h : offer s w (shapeCsr w (w.sub6 == 0#6) (.dst 1) .unused false) (issueCsr w (fun _ => none)) = .ok c)

include h

/-- A CSR that is read as a long instruction waits in its entry. -/
theorem csrr_long (hl : csrLong (csrNo w) = true) :
    Completes (.csrr w) s (LongDone c [destOf w.d] Ord.relaxed .values (c.lanes.map (fun l => (l, csrSeen c l)))) := by
  have hw := (offer_ok h).word
  have he : exec (.csrr w) s = execCsrr w s := rfl
  have hr : csrResult c c.s = longResult c (csrSeen c) := if_pos (by rw [hw, hl])
  refine long_completes h _ (he.trans rfl) (issueCsr_blocking _ _) _ _ _ _ ?_
  simp only [hr, longResult, laneResults, hw]

/-- Every other CSR is written to D at once. -/
theorem csrr_short (hl : csrLong (csrNo w) = false) : Completes (.csrr w) s (ShortDone c (csrSeen c)) := by
  have hk : issueCsr w (fun _ => none) = {} := by simp [issueCsr, hl]
  have hw := (offer_ok h).word
  rw [hk] at h
  have he : exec (.csrr w) s = issue s w (shapeCsr w (w.sub6 == 0#6) (.dst 1) .unused false) {} (fun c => .ok (csrResult c c.s)) :=
    congrArg (fun k => issue s w (shapeCsr w (w.sub6 == 0#6) (.dst 1) .unused false) k (fun c => .ok (csrResult c c.s))) hk
  refine ⟨_, he.trans ((issue_ok h _).trans ?_),
    shortResult_done (offer_ok h) (dst_port (m := 1) (offer_ok h).code rfl (.inl rfl)) _⟩
  have hr : csrResult c c.s = shortResult c (csrSeen c) := if_neg (by rw [hw, hl]; simp)
  simp [hr]
  rfl

end

/-- Settles O35: CSRR by whether its CSR is read as a long instruction, and the reads as `csrRead` lists them. -/
theorem csrReads : Obligations.CsrReads := by
  refine ⟨fun w s c h => ?_, fun c l => ⟨rfl, rfl, rfl, rfl, rfl, rfl, rfl, rfl, rfl, rfl, rfl, rfl⟩⟩
  have hw := (offer_ok h).word
  have hseen : (fun l => csrRead c (csrNo w) (if c.uni then c.en.headD 0 else l)) = csrSeen c := by
    funext l
    rw [csrSeen, hw]
  exact ⟨fun hl => by simpa only [← hseen] using csrr_long h hl, fun hl => by simpa only [← hseen] using csrr_short h hl⟩

/-! ### LDG and LDC -/

theorem loadGlobal_completes {i : Instr} {w : LongWord} {k : AKind} {s : State} (he : exec i s = loadGlobal w k s) {c : Ic} {ls : List Acc}
    (h : offer s w (shapeMem w (mLoad w) (.dst 1)) { entry := true, dests := [destOf w.d], late := txLate } = .ok c)
    (hl : checkLanes c k (tyBits (subNo w) / 8) (subNo w == 1 || subNo w == 3) (effLanes c) = .ok ls) (hq : overQuota c = false)
    (hm : meetsBuffered c (ls.map (fun a => (a, tyBits (subNo w) / 8))) = false)
    (hr : c.mayRelease (effOrd (ordOf w.m6) (.load (subNo w) (k == .ldc) (c.en.filter (inTx c)) ls))) :
    Completes i s (LongDone c [destOf w.d] (ordOf w.m6) (.load (subNo w) (k == .ldc) (c.en.filter (inTx c)) ls) []) :=
  long_completes h _ he rfl _ _ _ _ (by
    simp only [need_true (show (!overQuota c) = true by simp [hq]), hl,
      need_true (show (!meetsBuffered c (ls.map (fun a => (a, tyBits (subNo w) / 8)))) = true by simp [hm]), detRelease_ok hr, bind,
      Except.bind])

/-- Settles O21: every form is one load, of its kind of access, once it is offered and its lanes are checked. -/
theorem globalLoads : Obligations.GlobalLoads :=
  ⟨fun _ _ _ _ => loadGlobal_completes rfl, fun _ _ _ _ => loadGlobal_completes rfl, fun _ _ _ _ => loadGlobal_completes rfl,
    fun _ _ _ _ => loadGlobal_completes rfl⟩

end Sys2Proof.Machine

end

section
/-! What the CSRs take of a written value, BANKROLE among them (R101, R113, R208, R209, R345, R354, R363, R393, R399). -/

namespace Sys2Proof.Machine

/-! ### Ranges -/

/-- A CSR of `n` bits takes a value that fits. -/
theorem ranged_accepts {α : Type} {v n : Nat} (h : v < 2 ^ n) (refused accepted : α) :
    (if (v / 2 ^ n != 0) = true then refused else accepted) = accepted := if_neg (by simpa using h)

/-- A CSR of `n` bits refuses a value that does not fit (R354). -/
theorem ranged_refuses {α : Type} {v n : Nat} (h : 2 ^ n ≤ v) (refused accepted : α) :
    (if (v / 2 ^ n != 0) = true then refused else accepted) = refused := if_pos (by simpa using h)

section

variable (c : Ic) (x : Word)

/-! ### MVDD (R393) -/

theorem csrWrite_mvdd {n : Nat} (h1 : 0x0C1 ≤ n) (h2 : n ≤ 0x0C8) : csrWrite c n x =
    if (x.toNat / 2 ^ 8 != 0) = true then .error csrRefused
    else .ok { c.s with mvdd := wset c.s.mvdd (n - 0x0C1) (word (clampByte 20 x.toNat)) } := by
  interval_cases n <;> rfl

theorem word_wrap_byte (y : Int) : word (wrap 8 y) = (BitVec.ofInt 8 y).setWidth 64 := by
  apply BitVec.eq_of_toNat_eq
  simp [word, wrap]

/-- A byte clamped to ±20 is the byte of its signed value clamped. -/
theorem clampByte_signed {v : Nat} (h : v < 2 ^ 8) : word (clampByte 20 v) =
    (BitVec.ofInt 8 (max (-20) (min 20 (if v < 128 then (v : Int) else (v : Int) - 256)))).setWidth 64 := by
  have hs : sxInt 8 v = if v < 128 then (v : Int) else (v : Int) - 256 := by
    rw [sxInt, Nat.mod_eq_of_lt h]
    simp
  rw [clampByte, word_wrap_byte, hs]
  congr 2
  split <;> (try split) <;> omega

/-! ### ERRSTAT (R363) -/

/-- ERRSTAT after a write: a bit given as 1 clears PINFULL or the latched error. -/
def errstatCleared (v : Nat) (e : Word) : Word :=
  let e' := if nbit v 1 then e &&& 1 else e
  if nbit v 0 then e' &&& ~~~1 else e'

theorem csrWrite_errstat : csrWrite c 0x0A0 x =
    .ok (modGroup c.s c.core c.grp (fun g => { g with errstat := errstatCleared x.toNat g.errstat })) := rfl

theorem errstatCleared_pinfull (v : Nat) (e : Word) : (errstatCleared v e).getLsbD 0 = (e.getLsbD 0 && !nbit v 0) := by
  unfold errstatCleared
  cases nbit v 0 <;> cases nbit v 1 <;> simp

theorem errstatCleared_latched (v : Nat) (e : Word) {i : Nat} (hi : 0 < i) :
    (errstatCleared v e).getLsbD i = (e.getLsbD i && !nbit v 1) := by
  have one : (1 : Word).getLsbD i = false := by
    rw [show (1 : Word) = 1#64 from rfl, BitVec.getLsbD_one]
    simp only [Nat.ne_of_gt hi, decide_false, Bool.and_false]
  have kept (w : Word) : (w &&& ~~~1).getLsbD i = w.getLsbD i := by
    rw [BitVec.getLsbD_and, BitVec.getLsbD_not, one, Bool.not_false, Bool.and_true]
    cases hw : w.getLsbD i
    · rfl
    · simpa using BitVec.lt_of_getLsbD hw
  have cleared : (e &&& 1).getLsbD i = false := by rw [BitVec.getLsbD_and, one, Bool.and_false]
  unfold errstatCleared
  cases nbit v 0 <;> cases nbit v 1 <;> simp only [Bool.false_eq_true, if_true, if_false, kept, cleared, Bool.not_false, Bool.not_true, Bool.and_true, Bool.and_false]

theorem csrRules : Claims.CsrRules := by
  intro c x
  refine ⟨fun h => ranged_accepts h _ _, fun h => ranged_refuses h _ _, fun h => ranged_accepts h _ _, fun h => ranged_refuses h _ _,
    fun h => ranged_accepts h _ _, fun h => ranged_refuses h _ _, ?wcage, fun n h1 h2 h => ?mvdd, rfl, rfl, fun h => ranged_accepts h _ _,
    fun h => ranged_refuses h _ _, fun n h1 h2 h => ?big, fun h => ?meye, fun g hg => ?errstat⟩
  case wcage =>
    have hage : word (max 64 (x.toNat % 2 ^ 16)) = if x.toNat % 2 ^ 16 < 64 then 64 else word (x.toNat % 2 ^ 16) := by
      split
      · rw [Nat.max_eq_left (by omega)]; rfl
      · rw [Nat.max_eq_right (by omega)]
    show csrWrite c 0x040 x = _
    rw [hage]
    rfl
  case mvdd => exact (csrWrite_mvdd c x h1 h2).trans ((ranged_accepts h _ _).trans (by rw [clampByte_signed h]))
  case big => exact (csrWrite_mvdd c x h1 h2).trans (ranged_refuses h _ _)
  case meye => exact if_pos (by simp [h])
  case errstat =>
    obtain ⟨t, ht, hg⟩ := Option.bind_eq_some_iff.1 hg
    refine ⟨_, csrWrite_errstat c x, { g with errstat := errstatCleared x.toNat g.errstat }, ?_, ?_⟩
    · rw [modGroup_eq ht hg, groupAt_setTeam, tget_tset_self]
    · simp only [errstatCleared_pinfull]
      exact ⟨fun h => by simp [h], fun h => by simp [h], fun h i hi => by simp [errstatCleared_latched _ _ hi, h],
        fun h i hi => by simp [errstatCleared_latched _ _ hi, h]⟩

/-! ### BANKROLE (R208, R209) -/

/-- Every condition of Table 12.1 on the new role, `new`, for the present one, `old`, as `writeRole` tests them. -/
def roleTaken (old new : Nat) : Bool :=
  (List.range 32).all (fun g => bitsAt new (2 * g) 2 != 3)
  && (List.range 32).all (fun g => bitsAt new (2 * g) 2 == bitsAt old (2 * g) 2
      || (bitsAt new (2 * g) 2 != 0 && bitsAt old (2 * g) 2 != 0))
  && decide (2 ≤ ((List.range 32).filter (fun g => bitsAt new (2 * g) 2 == 1)).length)

theorem roleTaken_iff {old new : Nat} : roleTaken old new = true ↔
    (∀ g, g < 32 → bitsAt new (2 * g) 2 ≠ 3)
    ∧ (∀ g, g < 32 → bitsAt new (2 * g) 2 = bitsAt old (2 * g) 2 ∨ (bitsAt new (2 * g) 2 ≠ 0 ∧ bitsAt old (2 * g) 2 ≠ 0))
    ∧ 2 ≤ ((List.range 32).filter (fun g => bitsAt new (2 * g) 2 == 1)).length := by
  simp only [roleTaken, Bool.and_eq_true, List.all_eq_true, List.mem_range, bne_iff_ne, Bool.or_eq_true, beq_iff_eq,
    decide_eq_true_eq, and_assoc]

/-- No reservation lies in a group that leaves role 10. -/
def roleSpares (resv : List Reservation) (old new : Nat) : Bool :=
  resv.all (fun v => (List.range 32).all (fun g => !(bitsAt old (2 * g) 2 == 2 && bitsAt new (2 * g) 2 != 2)
    || decide (v.offs + v.len ≤ g * 32768) || decide ((g + 1) * 32768 ≤ v.offs)))

theorem roleSpares_iff {resv : List Reservation} {old new : Nat} : roleSpares resv old new = true ↔
    ∀ v ∈ resv, ∀ g, g < 32 → bitsAt old (2 * g) 2 = 2 → bitsAt new (2 * g) 2 ≠ 2 →
      v.offs + v.len ≤ g * 32768 ∨ (g + 1) * 32768 ≤ v.offs := by
  simp only [roleSpares, List.all_eq_true, List.mem_range, Bool.or_eq_true, Bool.not_eq_true', Bool.and_eq_false_iff,
    beq_eq_false_iff_ne, bne_eq_false_iff_eq, decide_eq_true_eq]
  exact forall₂_congr fun v _ => forall₂_congr fun g _ => by tauto

/-- Three checks that refuse alike are one check. -/
theorem need_three {α : Type} (p q r : Bool) (st : Stop) (k : Except Stop α) :
    (do need p st; need q st; need r st; k) = if (p && q && r) = true then k else .error st := by
  cases p <;> cases q <;> cases r <;> rfl

/-- A check and what follows it. -/
theorem need_then {α : Type} (p : Bool) (st : Stop) (k : Except Stop α) :
    (do need p st; k) = if p = true then k else .error st := by cases p <;> rfl

/-- A write of BANKROLE, its conditions in order. -/
theorem csrWrite_bankrole : csrWrite c 0x010 x =
    if roleTaken c.t.role.toNat x.toNat = true then
      if x.toNat = c.t.role.toNat then .ok c.s
      else if (mrelPending c.s c.core || engineReads c.s c.core) = true then .error (.stall .bankRole)
      else if roleSpares c.t.resv c.t.role.toNat x.toNat = true then
        .ok (modTeam c.s c.core (fun t => { t with
          role := x, l1 := t.l1.filter (fun y => !(bitsAt c.t.role.toNat (2 * y.bank) 2 == 1 && bitsAt x.toNat (2 * y.bank) 2 != 1)) }))
      else .error (.trap (eopbuf 5))
    else .error csrRefused := by
  refine (need_three _ _ _ _ _).trans (if_congr Iff.rfl (if_congr Iff.rfl rfl ?_) rfl)
  rw [need_then, need_then]
  cases mrelPending c.s c.core || engineReads c.s c.core <;> rfl

theorem bankRole : Claims.BankRole := by
  intro c x
  dsimp only
  rw [← roleTaken_iff, csrWrite_bankrole]
  refine ⟨fun h => if_neg h, fun h heq => ?_, fun h hne hm he => ?_⟩
  · rw [if_pos h, if_pos heq]
  · rw [if_pos h, if_neg hne, hm, he, if_neg (by simp)]
    refine ⟨fun hv => if_pos (roleSpares_iff.2 hv), fun v hv g hg h2 h2' hin => ?_⟩
    rw [if_neg (fun hs => hin (roleSpares_iff.1 hs v hv g hg h2 h2'))]
    rfl

end

/-- Settles O38: each CSR's rule by its own equation; BANKROLE by the conditions of its write in their order. -/
theorem csrRulesAndRoles : Obligations.CsrRulesAndRoles := ⟨csrRules, bankRole⟩

end Sys2Proof.Machine

end

section
/-! TRAPRET: the record's stretch is committed after a park trap, and the record's threads continue (R107, R355). -/

namespace Sys2Proof.Machine

/-! ### The end of a stretch, register by register -/

theorem commitSlot_unfilled {x : Slot} (g : Group) (h : ∀ res, x.st ≠ .filled res) : g.commitSlot x = g := by
  unfold Group.commitSlot
  split
  next res hs => exact absurd hs (h res)
  next => rfl

/-- What is read of a group after the commit of some slots is what the slots make of it one after another. -/
theorem foldl_commitSlot_read {β : Type} (r : Group → β) (f : β → Slot → β) (g : Group)
    (h : ∀ (g' : Group) (x : Slot), g'.threads.length = g.threads.length → r (g'.commitSlot x) = f (r g') x) (xs : List Slot) :
    r (xs.foldl Group.commitSlot g) = xs.foldl f (r g) := by
  induction xs generalizing g with
  | nil => rfl
  | cons x xs ih =>
    rw [List.foldl_cons, List.foldl_cons, ← h g x rfl]
    exact ih (g.commitSlot x) (fun g' y hg => h g' y (hg.trans (commitSlot_width g x)))

/-! ### The record -/

/-- A thread of lane `l` with what the record holds of it restored. -/
def TrapRecord.back (r : TrapRecord) (l : Nat) (x : Thread) : Thread :=
  match r.threads.find? (fun y => y.lane == l) with
  | some y => { x with pc := r.resume, loops := y.loops, txs := y.txs, txw := y.txw }
  | none => match r.others.find? (fun y => y.1 == l) with
    | some y => { x with txs := y.2.1, txw := y.2.2 }
    | none => x

section

variable (g : Group) (r : TrapRecord) {l : Nat}

theorem unwound_width : (g.unwound r).threads.length = g.threads.length := by simp [Group.unwound]

theorem unwound_lane (h : l < g.threads.length) : (g.unwound r).lane l = r.back l (g.lane l) := by
  simp only [Group.unwound, Group.lane, List.getD_eq_getElem?_getD, List.getElem?_map, List.getElem?_zipIdx, List.getElem?_eq_getElem h, Option.map_some, Option.getD_some, Nat.zero_add]
  rfl

theorem back_v (x : Thread) : (r.back l x).v = x.v := by
  unfold TrapRecord.back
  split
  · rfl
  · split <;> rfl

theorem back_p (x : Thread) : (r.back l x).p = x.p := by
  unfold TrapRecord.back
  split
  · rfl
  · split <;> rfl

theorem back_recorded {y : SavedThread} (x : Thread) (h : r.threads.find? (fun y => y.lane == l) = some y) :
    (r.back l x).pc = r.resume ∧ (r.back l x).loops = y.loops ∧ (r.back l x).txs = y.txs := by
  simp [TrapRecord.back, h]

theorem back_other (x : Thread) (h : ∀ y ∈ r.threads, y.lane ≠ l) : (r.back l x).pc = x.pc ∧ (r.back l x).loops = x.loops := by
  have hfind : r.threads.find? (fun y => y.lane == l) = none := List.find?_eq_none.2 fun y hy => by simpa using h y hy
  simp only [TrapRecord.back, hfind]
  split <;> exact ⟨rfl, rfl⟩

end

/-! ### The commit of the record's stretch -/

/-- What of a thread the writes of registers and predicates leave. -/
def Thread.flow (x : Thread) : Word × List LoopEntry × TxState := (x.pc, x.loops, x.txs)

theorem flow_of_modLane (g : Group) (l k : Nat) (f : Thread → Thread) (h : ∀ x, (f x).flow = x.flow) :
    ((g.modLane k f).lane l).flow = (g.lane l).flow := by
  rw [lane_modLane_if]
  split
  · exact h _
  · rfl

theorem flow_writeP (x : Thread) (n : Nat) (b : Bool) : (x.writeP n b).flow = x.flow := by
  unfold Thread.writeP
  split <;> rfl

section

variable (g : Group) (l : Nat)

theorem commit_flow : (g.commit.lane l).flow = (g.lane l).flow :=
  foldl_commitSlot_keeps (fun g => (g.lane l).flow) (fun x _ g => commitSlot_keeps (fun g => (g.lane l).flow) (fun _ _ _ => rfl)
    (fun g k _ _ => flow_of_modLane g l k _ fun _ => rfl) (fun g k _ _ => flow_of_modLane g l k _ fun x => flow_writeP x _ _) x g) g

theorem commit_hm : g.commit.hm = g.hm :=
  foldl_commitSlot_keeps Group.hm (fun x _ g => commitSlot_keeps Group.hm (fun _ _ _ => rfl) (fun _ _ _ _ => rfl) (fun _ _ _ _ => rfl) x g) g

theorem commit_lc : g.commit.lc = g.lc := foldl_commitSlot_keeps Group.lc (fun x _ => commitSlot_lc x) g

end

/-- A group after the return from its handler. -/
def Group.returned (g : Group) (r : TrapRecord) : Group := if r.park then (g.unwound r).commit else g.unwound r

section

variable (g : Group) (r : TrapRecord)

theorem returned_of_not_park (h : r.park = false) : g.returned r = g.unwound r := by simp [Group.returned, h]

theorem returned_of_park (h : r.park = true) : g.returned r = (g.unwound r).commit := by simp [Group.returned, h]

theorem returned_hm : (g.returned r).hm = none := by
  cases h : r.park
  · rw [returned_of_not_park g r h]; rfl
  · rw [returned_of_park g r h, commit_hm]; rfl

theorem returned_lc : (g.returned r).lc = g.lc := by
  cases h : r.park
  · rw [returned_of_not_park g r h]; rfl
  · rw [returned_of_park g r h, commit_lc]; rfl

theorem returned_flow {l : Nat} (hl : l < g.threads.length) : ((g.returned r).lane l).flow = (r.back l (g.lane l)).flow := by
  cases h : r.park
  · rw [returned_of_not_park g r h, unwound_lane g r hl]
  · rw [returned_of_park g r h, commit_flow, unwound_lane g r hl]

/-- The registers that the commit of the record's stretch leaves are read slot by slot. -/
theorem returned_read {β : Type} (rd : Group → β) (f : β → Slot → β) (hpark : r.park = true)
    (hopen : ∀ g : Group, rd { g.openStretch with rb := [], poisonPc := [] } = rd g)
    (hslot : ∀ (g' : Group) (x : Slot), g'.threads.length = g.threads.length → rd (g'.commitSlot x) = f (rd g') x) :
    rd (g.returned r) = r.stretch.foldl f (rd (g.unwound r)) := by
  rw [returned_of_park g r hpark]
  exact (hopen _).trans (foldl_commitSlot_read rd f (g.unwound r) (fun g' x hg => hslot g' x (hg.trans (unwound_width g r))) r.stretch)

end

/-! ### The instruction -/

/-- The issue of TRAPRET: in a handler whose own stretch holds nothing. -/
def trapretIssue : Issue := { pre := fun c => if c.g.hm.isNone || !c.g.rb.isEmpty then some wrongMode else none }

theorem returnFromTrap_with (c : Ic) {g : Group} {r : TrapRecord} (h : g.hm = some r) :
    returnFromTrap (c.with g) c.core c.grp = c.with (g.returned r) := by
  rw [returnFromTrap, Ic.with, modGroup_eq (setTeam_get _ _ _) (tget_tset_self _ _ _)]
  simp only [h]
  simp [Ic.with, Group.returned]

section

variable {w : LongWord} {s : State} {c : Ic} (h : offer s w (shapeW w) trapretIssue = .ok c)

include h

theorem trapret_lost {n : Nat} (hl : returnLost c.g = some n) :
    exec (.trapret w) s = .next (modGroup (logLost c.s 1 c.core) c.core c.grp (fun g => { g with
      status := .pageFault ⟨0x10, 0, word (16 + 256 * n)⟩ true none none .running, stall := none })) := by
  have he : exec (.trapret w) s = execTrapret w s := rfl
  have hm : c.g.hm.isSome = true := by
    cases hm : c.g.hm with
    | none => simp [returnLost, hm] at hl
    | some r => rfl
  refine he.trans ((issue_ok h _).trans ?_)
  simp [hl, stopState, registerTrap, hm]

theorem trapret_returns {r : TrapRecord} (hr : c.g.hm = some r) (hl : returnLost c.g = none) :
    exec (.trapret w) s = .next (c.with ((retireGroup c.pc c.next c.act [] w.s c.g).returned r)) := by
  have o := offer_ok h
  have hm : (retireGroup c.pc c.next c.act [] w.s c.g).hm = some r := by rw [retirement _ _ _ _ _ _ o.lanes.2.2]; exact hr
  have he : exec (.trapret w) s = execTrapret w s := rfl
  refine he.trans ((issue_ok h _).trans ?_)
  have hpark : (w.s && !trapretIssue.blocking) = w.s := Bool.and_true w.s
  simp only [hl, retire, modGroup_with o.team o.group, hpark]
  exact congrArg Host.Outcome.next (returnFromTrap_with c hm)

end

section

variable {pc next : Word} {act : List Nat} (park : Bool) (g : Group) (h : act.Nodup)

include h

/-- A lane of a group whose instruction retires without a transfer. -/
theorem retireGroup_lane {l : Nat} (hl : l < g.threads.length) : (retireGroup pc next act [] park g).lane l =
    if l ∈ act then (g.lane l).advance pc next else g.lane l := by
  rw [retirement _ _ _ _ _ _ h]
  simp [Group.lane, Group.mapLanes, hl]

theorem retireGroup_width : (retireGroup pc next act [] park g).threads.length = g.threads.length := by
  rw [retirement _ _ _ _ _ _ h]
  simp [Group.mapLanes]

theorem retireGroup_lc : (retireGroup pc next act [] park g).lc = g.lc + 1 := by rw [retirement _ _ _ _ _ _ h]

theorem retireGroup_sreg : (retireGroup pc next act [] park g).sreg = g.sreg := by
  rw [retirement _ _ _ _ _ _ h]
  rfl

end

theorem advance_regs (x : Thread) (pc next : Word) : (x.advance pc next).v = x.v ∧ (x.advance pc next).p = x.p := ⟨rfl, rfl⟩

theorem groupAt_with (c : Ic) (g : Group) : groupAt (c.with g) c.core c.grp = some g := by
  rw [Ic.with, groupAt_setTeam, tget_tset_self]

/-! ### What the slots make of a register -/

section

variable (g : Group) (x : Slot) (n l : Nat)

theorem commitSlot_sreg_step : wget (g.commitSlot x).sreg n = (match x.st, x.dest with
    | .filled res, .s m => if m = n then laneVal res 0 else wget g.sreg n
    | _, _ => wget g.sreg n) := by
  split
  next res m hs hd =>
    split
    next hm => exact commitSlot_sreg g hs (hm ▸ hd)
    next hm => exact commitSlot_sreg_other g (by simpa [hd] using hm)
  next hno =>
    by_cases hd : x.dest = .s n
    · rw [commitSlot_unfilled g fun res hs => hno res n hs hd]
    · exact commitSlot_sreg_other g hd

theorem commitSlot_v_step (hl : l < g.threads.length) : wget ((g.commitSlot x).lane l).v n = (match x.st, x.dest with
    | .filled res, .v m => if m = n ∧ l ∈ x.lanes then laneVal res l else wget (g.lane l).v n
    | _, _ => wget (g.lane l).v n) := by
  split
  next res m hs hd =>
    split
    next hm => exact commitSlot_v g hs (hm.1 ▸ hd) hm.2 hl
    next hm => exact commitSlot_v_other g (by simpa [hd, ← not_and_or] using hm)
  next hno =>
    by_cases hd : x.dest = .v n
    · rw [commitSlot_unfilled g fun res hs => hno res n hs hd]
    · exact commitSlot_v_other g (.inl hd)

theorem commitSlot_p_step (hl : l < g.threads.length) (hn : n < 128) : ((g.commitSlot x).lane l).p.getLsbD n = (match x.st, x.dest with
    | .filled res, .p m => if m = n ∧ n ≠ 0 ∧ l ∈ x.lanes then laneVal res l != 0 else (g.lane l).p.getLsbD n
    | _, _ => (g.lane l).p.getLsbD n) := by
  split
  next res m hs hd =>
    split
    next hm => exact commitSlot_p g hs (hm.1 ▸ hd) hm.2.1 hn hm.2.2 hl
    next hm =>
      refine commitSlot_p_other g ?_
      rw [hd, Ne, Dest.p.injEq]
      tauto
  next hno =>
    by_cases hd : x.dest = .p n
    · rw [commitSlot_unfilled g fun res hs => hno res n hs hd]
    · exact commitSlot_p_other g (.inl (.inl hd))

end

/-- Settles O19: the retired group with the record restored; after a park trap its registers are read through the record's slots,
which are committed one after another. -/
theorem trapReturn : Obligations.TrapReturn := by
  refine ⟨fun w s c r h hr => ⟨fun n hl => trapret_lost h hl, fun hl => ?_⟩, fun w s t g ht hg hm => ?_⟩
  · have o := offer_ok h
    have hn := o.lanes.2.2
    have hs := o.plain rfl
    have hw := retireGroup_width (pc := c.pc) (next := c.next) w.s c.g hn
    refine ⟨_, trapret_returns h hr hl, fun a => by rw [← hs]; rfl, _, groupAt_with c _, fun hp => ?plain, fun hp => ?committed,
      returned_hm _ _, (returned_lc _ _).trans (retireGroup_lc _ _ hn), fun hp => ?stretch, fun hp => ?empty, fun l x hx hl => ?thread,
      fun l hx ha hl => ?other⟩
    case plain =>
      rw [returned_of_not_park _ _ hp]
      refine ⟨retireGroup_sreg w.s c.g hn, fun l hl => ?_⟩
      rw [unwound_lane _ _ (hw.symm ▸ hl), back_v, back_p, retireGroup_lane w.s c.g hn hl]
      split <;> exact ⟨rfl, rfl⟩
    case committed =>
      refine ⟨fun n => ?_, fun l hl => ?_⟩
      · rw [← retireGroup_sreg (pc := c.pc) (next := c.next) w.s c.g hn]
        exact returned_read _ r (fun g => wget g.sreg n) _ hp (fun _ => rfl) fun g x _ => commitSlot_sreg_step g x n
      · have hl' : l < (retireGroup c.pc c.next c.act [] w.s c.g).threads.length := hw.symm ▸ hl
        have hkept : ((retireGroup c.pc c.next c.act [] w.s c.g).lane l).v = (c.g.lane l).v
            ∧ ((retireGroup c.pc c.next c.act [] w.s c.g).lane l).p = (c.g.lane l).p := by
          rw [retireGroup_lane w.s c.g hn hl]
          split <;> exact ⟨rfl, rfl⟩
        have hv : (c.g.lane l).v = (((retireGroup c.pc c.next c.act [] w.s c.g).unwound r).lane l).v := by
          rw [unwound_lane _ r hl', back_v, hkept.1]
        have hpr : (c.g.lane l).p = (((retireGroup c.pc c.next c.act [] w.s c.g).unwound r).lane l).p := by
          rw [unwound_lane _ r hl', back_p, hkept.2]
        refine ⟨fun n => ?_, fun n h128 => ?_⟩
        · rw [hv]
          exact returned_read _ r (fun g => wget (g.lane l).v n) _ hp (fun _ => rfl)
            fun g x hg => commitSlot_v_step g x n l (hg.symm ▸ hl')
        · rw [hpr]
          exact returned_read _ r (fun g => (g.lane l).p.getLsbD n) _ hp (fun _ => rfl)
            fun g x hg => commitSlot_p_step g x n l (hg.symm ▸ hl') h128
    case stretch => rw [returned_of_not_park _ _ hp]; rfl
    case empty => rw [returned_of_park _ _ hp]; rfl
    case thread =>
      have hflow := returned_flow (retireGroup c.pc c.next c.act [] w.s c.g) r (l := l) (hw.symm ▸ hl)
      simp only [Thread.flow, Prod.mk.injEq] at hflow
      obtain ⟨hpc, hloops, htxs⟩ := hflow
      rw [hpc, hloops, htxs]
      exact back_recorded r _ hx
    case other =>
      have hflow := returned_flow (retireGroup c.pc c.next c.act [] w.s c.g) r (l := l) (hw.symm ▸ hl)
      simp only [Thread.flow, Prod.mk.injEq] at hflow
      obtain ⟨hpc, hloops, -⟩ := hflow
      rw [hpc, hloops, retireGroup_lane w.s c.g hn hl, if_neg ha]
      exact back_other r _ hx
  · intro c hact hen hdec
    refine (issue_stopped (k := trapretIssue) ((offer_enabled ht hg hact hdec rfl hen).trans
      (checked_trap (issueTrap_pre (tr := wrongMode) ?_))) _).trans ?_
    · show (if g.hm.isNone || !g.rb.isEmpty then some wrongMode else none) = _
      rw [hm]
      rfl
    · rfl

end Sys2Proof.Machine
end

section
/-! An LDB with a piece of no bytes: that piece touches no line, and a word lost in the L1 at its address is met all the same
(R229, R362). -/

namespace Sys2Proof.Machine

/-- A block of 33 bytes in one line, and a piece of no bytes at byte 4 of the next line. -/
def emptyPieceBlock : List (Acc × Nat) := [(⟨0, 0x40000, placeXl⟩, 33), (⟨0, 0x40084, placeXl⟩, 0)]

/-- The LDB of that block. -/
def emptyPieceEntry : OttEntry := longEntry Ord.relaxed (.loadBlock 0x0D [emptyPieceBlock])

/-- It is due while the L1 holds the second line, whose first word came lost from memory (64 is word 0 of structure 4). -/
def emptyPieceState : State :=
  demoDue emptyPieceEntry [.v 1] (fun t => { t with l1 := [⟨0x40080 / 128, 0, 0, 0, List.replicate 128 0, [64]⟩] })

/-- Whether a team and its group are as `Due` asks of the LDB, with one slot in the return buffer, and the L1 holds no line that
the pieces touch. -/
def emptyPieceDue (s : State) (t : Team) (g : Group) : Bool :=
  t.ott.find? (fun x => x.id == s.iss.id) == some emptyPieceEntry && mayPerform s (teamCtx s t) t emptyPieceEntry
  && g.hm == none && g.status == .running && g.rb.length == 1
  && (localPieces s (teamCtx s t) emptyPieceBlock).all (fun q =>
      decide (q.1 + q.2 ≤ hbmTop) && t.l1.all (fun y => !(linesOf q.1 q.2).contains y.line))
  && s.upsets == [] && s.poison == []

theorem emptyPieceState_due :
    (tget emptyPieceState.teams 0).any (fun t => (tget t.groups 0).any (emptyPieceDue emptyPieceState t)) = true := by decide +kernel

/-- The package after the LDB, with an empty return buffer. -/
def clearsBuffer (o : Host.Outcome State Fault Refusal) : Bool :=
  match o with
  | .next u => (tget u.teams 0).all (fun t => (tget t.groups 0).all (fun g => g.rb.isEmpty))
  | _ => true

/-- The LDB does not return: its group restarts, and its slot is gone. -/
theorem emptyPieceState_restarts : clearsBuffer (exec .longResultReturn emptyPieceState) = true := by decide +kernel

theorem fillFrom_isEmpty (rb : List Slot) (id k : Nat) (got : List (Nat × Word)) : (fillFrom rb id k got).isEmpty = rb.isEmpty := by
  cases rb with
  | nil => rfl
  | cons x r =>
    unfold fillFrom
    split <;> rfl

theorem not_blockLoadsPerformed : ¬ Claims.BlockLoadsPerformed := by
  intro h
  obtain ⟨t, ht, hany⟩ := (Option.any_eq_true _ _).1 emptyPieceState_due
  obtain ⟨g, hg, hdue⟩ := (Option.any_eq_true _ _).1 hany
  simp only [emptyPieceDue, Bool.and_eq_true, beq_iff_eq, List.all_eq_true, decide_eq_true_eq, Bool.not_eq_true',
    and_assoc] at hdue
  obtain ⟨hentry, hmay, hhm, hrun, hrb, hpieces, hup, hpo⟩ := hdue
  have due : Due emptyPieceState t emptyPieceEntry g :=
    ⟨ht, hentry, hg, ⟨hhm, fun _ _ _ _ _ => by rw [hrun]; exact GStatus.noConfusion⟩, ⟨rfl, rfl⟩, hmay⟩
  obtain ⟨u, hu, -, t', g', ht', hg', -, hrb', -⟩ := h _ t _ g 0x0D [emptyPieceBlock] due rfl rfl hup hpo (by decide)
    (fun b hb q hq => (hpieces q (List.mem_singleton.1 hb ▸ hq)).1)
    (.inr (.inr fun b hb q hq y hy => by simpa using (hpieces q (List.mem_singleton.1 hb ▸ hq)).2 y hy))
  have hgone := emptyPieceState_restarts
  rw [hu, clearsBuffer] at hgone
  have hempty : g'.rb.isEmpty = true := by simpa [show tget u.teams 0 = some t' from ht', show tget t'.groups 0 = some g' from hg'] using hgone
  rw [hrb', fillFrom_isEmpty, List.isEmpty_iff] at hempty
  rw [hempty] at hrb
  exact absurd hrb (by decide)

/-- Refutes O24: an LDB of which one piece has no bytes is due while the L1 holds a lost word at that piece's address; no line that
the block touches is in the L1, yet the LDB consumes the error and its group restarts. -/
theorem not_loadsPerformed : ¬ Obligations.LoadsPerformed := fun h => not_blockLoadsPerformed h.2.2

end Sys2Proof.Machine

end

section
/-! The issue of the atomics, and each operation's new value (R177, R178, R276, R285, R286, R303, R305, R315). -/

namespace Sys2Proof.Machine

/-! ### Places of the stream -/

/-- The issuing instruction with `n` places taken in OUT of a stream: its group is not restarted from its region entries any more
(R276, R285). -/
def Ic.placed (c : Ic) (st n : Nat) : Ic :=
  if n = 0 then c
  else { c with s := modStream c.s c.ctx st (fun y => { y with out := y.out + n }), g := { c.g with rmtOp := true } }

/-- The package with those places taken. -/
def Ic.placedState (c : Ic) (st n : Nat) : State :=
  if n = 0 then c.s
  else modGroup (modStream c.s c.ctx st (fun y => { y with out := y.out + n })) c.core c.grp (fun g => { g with rmtOp := true })

/-- The lanes that operate at a peer. -/
def atPeer (ls : List Acc) : Nat := (ls.filter (fun a => a.xl.mt == 5)).length

theorem reserveOut_ok {c : Ic} {st : Nat} {ls : List Acc}
    (h : atPeer ls = 0 ∨ (streamOf (ctxOf c.s c.ctx) st).out + atPeer ls ≤ 1024) :
    reserveOut c st ls = .ok (c.placedState st (atPeer ls)) := by
  show (if atPeer ls = 0 then _ else if (streamOf (ctxOf c.s c.ctx) st).out + atPeer ls > 1024 then _ else _) = _
  unfold Ic.placedState
  split
  · rfl
  · rw [if_neg (by omega)]
    rfl

section

variable {s : State} {w : LongWord} {sh : Shape} {k : Issue} {c : Ic} (o : Offered s w sh k c) (st n : Nat)

/-- The instruction with its places, as the state that its effects are made in has it. -/
def Ic.placedNow (c : Ic) (st n : Nat) : Ic :=
  let s := modStream c.s c.ctx st (fun y => { y with out := y.out + n })
  let g : Group := { c.g with rmtOp := true }
  let t := { c.t with groups := tset c.t.groups c.grp g }
  { c with s := setTeam s c.core t, t := t, g := g }

include o

theorem placedState_eq (hn : n ≠ 0) : c.placedState st n = (c.placedNow st n).s := by
  rw [Ic.placedState, if_neg hn]
  exact modGroup_eq (by rw [modStream_teams]; exact o.team) o.group _

theorem placedNow_offered (hs : c.s = s) : Offered (c.placedNow st n).s w sh k (c.placedNow st n) where
  word := o.word
  shape := o.shape
  core := by simpa [Ic.placedNow, hs] using o.core
  grp := by simpa [Ic.placedNow, hs] using o.grp
  pc := by simpa [Ic.placedNow, hs] using o.pc
  len := by simpa [Ic.placedNow, hs] using o.len
  team := setTeam_get _ _ _
  group := tget_tset_self _ _ _
  width := o.width
  lanes := o.lanes
  uni := o.uni
  code := o.code
  plain := fun _ => rfl

end

/-- An order number is taken and a team set, whatever the team was set to before. -/
theorem setTeam_stamped (s : State) (k : Nat) (t t' : Team) :
    setTeam { setTeam s k t with stamp := (setTeam s k t).stamp + 1 } k t' = setTeam { s with stamp := s.stamp + 1 } k t' :=
  setTeam_setTeam { s with stamp := s.stamp + 1 } k t t'

theorem placedNow_enters (c : Ic) (st : Nat) {n : Nat} (hn : n ≠ 0) (e : OttEntry) (g : Group) :
    (c.placedNow st n).enters e g = (c.placed st n).enters e g := by
  refine (setTeam_stamped _ _ _ _).trans ?_
  simp only [Ic.placed, if_neg hn, Ic.placedNow, Ic.enters, tset_tset]
  rfl

section

variable {s : State} {w : LongWord} {sh : Shape} {k : Issue} {c : Ic} (o : Offered s w sh k c) (hs : c.s = s) (st n : Nat) (r : Ord)
  (work : Work)

include o hs

theorem placed_long (ds : List Dest) (got : List (Nat × Word)) : LongDone (c.placed st n) ds r work got
    (retire (enterLong { c with s := c.placedState st n } ds r work got).st c.core c.grp c.pc c.next c.act [] w.s) := by
  by_cases hn : n = 0
  · subst hn
    exact enterLong_done o ds r work got
  · obtain ⟨he, -⟩ := enterLong_done (placedNow_offered o st n hs) ds r work got
    have hdone := (placedNow_enters c st hn _ _).symm.trans he.symm
    rw [placedState_eq o st n hn]
    refine ⟨(hdone.symm.trans ?_), fun a => ?_⟩
    · unfold Ic.placed
      rw [if_neg hn]
      rfl
    · simp [Ic.placed, hn, enterLong, Ic.placedNow]

theorem placed_posted : PostedDone (c.placed st n) r work
    (retire (enterPosted { c with s := c.placedState st n } r work).st c.core c.grp c.pc c.next c.act [] w.s) := by
  by_cases hn : n = 0
  · subst hn
    exact enterPosted_done o r work
  · obtain ⟨he, -⟩ := enterPosted_done (placedNow_offered o st n hs) r work
    have hdone := (placedNow_enters c st hn _ _).symm.trans he.symm
    rw [placedState_eq o st n hn]
    refine ⟨(hdone.symm.trans ?_), fun a => ?_⟩
    · unfold Ic.placed
      rw [if_neg hn]
      rfl
    · simp [Ic.placed, hn, enterPosted, Ic.placedNow]

theorem placed_buffered : BufferedDone (c.placed st n) r work
    (retire (enterDet { c with s := c.placedState st n } r work).st c.core c.grp c.pc c.next c.act [] w.s) := by
  by_cases hn : n = 0
  · subst hn
    exact enterDet_done o r work
  · obtain ⟨he, -⟩ := enterDet_done (placedNow_offered o st n hs) r work
    rw [placedState_eq o st n hn]
    refine ⟨he.trans ?_, fun a => ?_⟩
    · refine (setTeam_stamped _ _ _ _).trans ?_
      simp only [Ic.placed, if_neg hn, Ic.placedNow, tset_tset]
      rfl
    · simp [Ic.placed, hn, enterDet, Ic.placedNow]

end

/-! ### The issue -/

theorem detToken_ok {c : Ic} (h : c.writesNow) : detToken c = .ok () := by
  rcases h with h | h <;> simp [detToken, h]

/-- An instruction whose body gives a state retires in it. -/
theorem completes_of_body {i : Instr} {s : State} {w : LongWord} {sh : Shape} {k : Issue} {c : Ic} {st : State} {P : State → Prop}
    (h : offer s w sh k = .ok c) (body : Ic → Except Stop Eff) (he : exec i s = issue s w sh k body) (hk : k.blocking = false)
    (hb : body c = .ok { st := st }) (hP : P (retire st c.core c.grp c.pc c.next c.act [] w.s)) : Completes i s P := by
  refine ⟨_, he.trans ((issue_ok h _).trans ?_), hP⟩
  simp [hb, hk]

theorem atomLong_completes {i : Instr} {w : LongWord} {st : Nat} {high : Bool} {s : State} {c : Ic} {ls : List Acc}
    (he : exec i s = atomLong w st high s)
    (h : offer s w (shapeAtom w (.dst 1) high) { entry := true, tx := some 2, dests := [destOf w.d] } = .ok c)
    (hl : checkAtoms c st = .ok ls) (hw : c.writesNow)
    (hroom : atPeer ls = 0 ∨ (streamOf (ctxOf c.s c.ctx) st).out + atPeer ls ≤ 1024) :
    Completes i s (LongDone (c.placed st (atPeer ls)) [destOf w.d] (ordOf w.m6) (.atom (w.c.toNat % 16) (subNo w) st (atomLanes c ls)) []) := by
  have o := offer_ok h
  refine completes_of_body h _ he rfl ?_ (placed_long o (o.plain rfl) st (atPeer ls) _ _ _ _)
  simp only [hl, bind, Except.bind, detToken_ok hw, reserveOut_ok hroom]
  rfl

/-- RED once checked, released and fenced: its way is posted or through the DET store buffer. -/
theorem red_completes {w : LongWord} {s : State} {c : Ic} {ls : List Acc}
    (h : offer s w (shapeAtom w .unused (w.c.toNat < 16)) { entry := true, tx := some 2 } = .ok c)
    (hl : checkAtoms c 0 = .ok ls) (hr : c.mayRelease (effOrd (ordOf w.m6) (.atom (w.c.toNat % 16) (subNo w) 0 (atomLanes c ls))))
    (hf : ¬ c.afterFence (.atom (w.c.toNat % 16) (subNo w) 0 (atomLanes c ls)))
    (hroom : atPeer ls = 0 ∨ (streamOf (ctxOf c.s c.ctx) 0).out + atPeer ls ≤ 1024) :
    (c.writesNow → Completes (.red w) s (PostedDone (c.placed 0 (atPeer ls)) (ordOf w.m6) (.atom (w.c.toNat % 16) (subNo w) 0 (atomLanes c ls))))
    ∧ (c.buffers → Completes (.red w) s (BufferedDone (c.placed 0 (atPeer ls)) (ordOf w.m6) (.atom (w.c.toNat % 16) (subNo w) 0 (atomLanes c ls)))) := by
  have o := offer_ok h
  have he : exec (.red w) s = execRed w s := rfl
  refine ⟨fun hw => completes_of_body h _ he rfl ?_ (placed_posted o (o.plain rfl) 0 (atPeer ls) _ _),
    fun hb => completes_of_body h _ he rfl ?_ (placed_buffered o (o.plain rfl) 0 (atPeer ls) _ _)⟩
  · simp only [hl, bind, Except.bind, detRelease_ok hr, detFenced_ok hf, detBuffered_direct hw, reserveOut_ok hroom]
    rfl
  · simp only [hl, bind, Except.bind, detRelease_ok hr, detFenced_ok hf, detBuffered_buffer hb, reserveOut_ok hroom]
    rfl

theorem atoms_completes {w : LongWord} {s : State} {c : Ic} {ls : List SAcc}
    (h : offer s w (shapeAtom w (.dst 1) (w.c.toNat < 32)) { entry := true, dests := [destOf w.d] } = .ok c)
    (hl : checkSpads c (nbit w.c.toNat 4) (tyBits (subNo w) / 8) (c.lanes.map (fun l => (l, (c.rd l w.a).toNat))) = .ok ls)
    (hr : c.mayRelease (ordOf w.m6)) :
    Completes (.atoms w) s (LongDone c [destOf w.d] (ordOf w.m6) (.satom (w.c.toNat % 16) (subNo w)
      (ls.map (fun a => ⟨a, opB c (subNo w) a.lane, readRegAt c.g a.lane w.b 1⟩))) []) := by
  have he : exec (.atoms w) s = execAtoms w s := rfl
  refine long_completes h _ (he.trans rfl) rfl _ _ _ _ ?_
  simp only [hl, bind, Except.bind, detRelease_ok hr]

theorem atomics : Claims.Atomics :=
  ⟨fun _ _ _ _ h hl hw hr => atomLong_completes rfl h hl hw hr, fun _ _ _ _ h hl hw hr => atomLong_completes rfl h hl hw hr,
    fun _ _ _ _ h hl hr hf hroom => red_completes h hl hr hf hroom, fun _ _ _ _ h hl hr => atoms_completes h hl hr⟩

/-! ### The new values -/

theorem atomNew_min (ty m b n : Nat) (h : ty ≠ 8) : tyInt ty (atomNew 1 ty m b n) = min (tyInt ty m) (tyInt ty b) := by
  simp only [atomNew, beq_eq_false_iff_ne.2 h, Bool.false_eq_true, if_false, min_def]
  split <;> rfl

theorem atomNew_max (ty m b n : Nat) (h : ty ≠ 8) : tyInt ty (atomNew 2 ty m b n) = max (tyInt ty m) (tyInt ty b) := by
  simp only [atomNew, beq_eq_false_iff_ne.2 h, Bool.false_eq_true, if_false, max_comm (tyInt ty m), max_def, ge_iff_le]
  split <;> rfl

theorem atomicValues : Claims.AtomicValues := by
  refine ⟨fun ty m b n h _ _ => ⟨?add, atomNew_min ty m b n h, atomNew_max ty m b n h, Nat.testBit_and m b, Nat.testBit_or m b,
    Nat.testBit_xor m b⟩, fun ty m b n => ⟨rfl, ?cas⟩, fun m b n => ⟨rfl, rfl, rfl⟩⟩
  case add => exact if_neg (by simpa using h)
  case cas => exact if_congr beq_iff_eq rfl rfl

end Sys2Proof.Machine
end

section
/-! The performing of an entry: its order, what it leaves of the package, and the end of the entry (R109, R211, R299, R300). -/

namespace Sys2Proof.Machine

/-! ### The ports of the L2 -/

/-- What the port buffers hold and what invalidations are pending. -/
def State.ports (s : State) : List (Nat × Nat × List Byte × List Nat) × List (Nat × Nat) := (s.portBufs, s.pendInv)

/-- No port buffer holds a line, and no invalidation is pending. -/
def State.quiet (s : State) : Prop := s.portBufs = [] ∧ s.pendInv = []

theorem quiet_of_ports {s u : State} (h : u.ports = s.ports) (hq : s.quiet) : u.quiet := by
  obtain ⟨hb, hp⟩ := Prod.mk.inj h
  exact ⟨hb.trans hq.1, hp.trans hq.2⟩

@[simp] theorem logEvent_ports (s : State) (pa event struct die : Nat) (hub : Bool) (unit : Nat) :
    (logEvent s pa event struct die hub unit).ports = s.ports := by
  unfold logEvent; split <;> rfl

@[simp] theorem appendRt_ports (s : State) (struct die unit row : Nat) : (appendRt s struct die unit row).ports = s.ports := by
  unfold appendRt; split <;> rfl

theorem countCorrection_ports (s : State) (addr struct die unit inst key row : Nat) (disable : State → State)
    (hd : ∀ u, (disable u).ports = u.ports) : (countCorrection s addr struct die unit inst key row disable).ports = s.ports := by
  have hbump (s : State) (lo w : Nat) : (bumpSecnt s lo w).ports = s.ports := rfl
  have hdie (s : State) (d : Nat) (f : Die → Die) : (modDie s d f).ports = s.ports := rfl
  simp only [countCorrection]
  split
  · simp [hdie, hbump]
  · split <;> simp [hd, hdie, hbump]

theorem meetUpset_ports (s : State) (sec : Nat) : (meetUpset s sec).ports = s.ports := by
  simp only [meetUpset]
  split
  · rfl
  · exact countCorrection_ports _ _ _ _ _ _ _ _ _ (fun _ => rfl)
  · exact logEvent_ports ..

@[simp] theorem meetUpsets_ports (s : State) (pa n : Nat) : (meetUpsets s pa n).ports = s.ports := by
  unfold meetUpsets
  split
  · rfl
  · exact foldl_keeps State.ports _ meetUpset_ports _ _

theorem sendInval_quiet {s : State} (line : Nat) (h : s.quiet) : (sendInval s line).quiet := by
  obtain ⟨hb, hp⟩ := h
  exact ⟨hb, by simp [sendInval, hb, hp]⟩

theorem applyInval_quiet {s : State} (p : Nat × Nat) (h : s.quiet) : (applyInval s p).quiet := by
  obtain ⟨hb, hp⟩ := h
  exact ⟨by simp [applyInval, hb], by simp [applyInval, hp]⟩

/-! ### What an access to the package's own memory leaves -/

/-- Of a core's team only the lines of the L1, and what channels keep of their sources, have changed; contexts, quiet ports, and
memory without errors are as they were. -/
structure HomeKept (core : Nat) (s u : State) : Prop where
  iss   : u.iss = s.iss
  ctxs  : u.ctxs = s.ctxs
  team  : ∀ t, tget s.teams core = some t → ∃ l1 ch, tget u.teams core = some { t with l1 := l1, chan := ch }
  quiet : s.quiet → u.quiet
  sound : s.poison = [] ∧ s.upsets = [] → u.poison = [] ∧ u.upsets = []

section

variable {core : Nat} {s u v : State}

theorem HomeKept.of_eq (hi : u.iss = s.iss) (hc : u.ctxs = s.ctxs) (ht : u.teams = s.teams) (hq : s.quiet → u.quiet)
    (hs : s.poison = [] ∧ s.upsets = [] → u.poison = [] ∧ u.upsets = []) : HomeKept core s u :=
  ⟨hi, hc, fun t h => ⟨t.l1, t.chan, by rw [ht, h]⟩, hq, hs⟩

theorem HomeKept.refl (core : Nat) (s : State) : HomeKept core s s := .of_eq rfl rfl rfl id id

theorem HomeKept.trans (h : HomeKept core s u) (h' : HomeKept core u v) : HomeKept core s v := by
  refine ⟨h'.iss.trans h.iss, h'.ctxs.trans h.ctxs, fun t ht => ?_, fun hq => h'.quiet (h.quiet hq), fun hs => h'.sound (h.sound hs)⟩
  obtain ⟨l1, ch, hu⟩ := h.team t ht
  obtain ⟨l1', ch', hv⟩ := h'.team _ hu
  exact ⟨l1', ch', hv⟩

theorem HomeKept.ite {p : Prop} [Decidable p] (h : HomeKept core s u) : HomeKept core s (if p then u else s) := by
  split
  · exact h
  · exact .refl core s

theorem foldl_homeKept {α : Type} (f : State → α → State) (h : ∀ s a, HomeKept core s (f s a)) (s : State) (l : List α) :
    HomeKept core s (l.foldl f s) :=
  List.foldlRecOn l f (.refl core s) fun u hu a _ => hu.trans (h u a)

theorem HomeKept.of_modTeam (f : Team → Team) (hf : ∀ t, ∃ l1, f t = { t with l1 := l1 }) (s : State) :
    HomeKept core s (modTeam s core f) := by
  refine ⟨modTeam_iss .., modTeam_ctxs .., fun t ht => ?_, quiet_of_ports (by simp [State.ports]), by simp⟩
  obtain ⟨l1, hl⟩ := hf t
  exact ⟨l1, t.chan, by rw [modTeam_get ht, hl]⟩

theorem meetUpsets_kept (s : State) (pa n : Nat) : HomeKept core s (meetUpsets s pa n) where
  iss := by
    have h := congrArg State.iss (meetUpsets_sansMemory s pa n)
    exact h
  ctxs := by
    have h := congrArg State.ctxs (meetUpsets_sansMemory s pa n)
    exact h
  team t ht := by
    have h : (meetUpsets s pa n).teams = s.teams := by
      have h := congrArg State.teams (meetUpsets_sansMemory s pa n)
      exact h
    exact ⟨t.l1, t.chan, by rw [h, ht]⟩
  quiet := quiet_of_ports (meetUpsets_ports s pa n)
  sound h := by rw [meetUpsets_none h.2]; exact h

theorem l2Touch_kept (s : State) (pa cp wp : Nat) (write : Bool) : HomeKept core s (l2Touch s pa cp wp write) := .of_eq rfl rfl rfl id id

theorem l2TouchAll_kept (s : State) (pa n cp wp : Nat) (write : Bool) : HomeKept core s (l2TouchAll s pa n cp wp write) :=
  foldl_homeKept _ (fun s l => l2Touch_kept s (128 * l) cp wp write) _ _

theorem clearPoison_kept (s : State) (pa n : Nat) : HomeKept core s (clearPoison s pa n) := by
  unfold clearPoison
  split
  · exact .refl core s
  · exact .of_eq rfl rfl rfl id fun h => ⟨by simp [h.1], h.2⟩

theorem homeWrite_kept (s : State) (pa : Nat) (bs : List Byte) : HomeKept core s (homeWrite s pa bs) := by
  refine HomeKept.trans ?_ ((clearPoison_kept _ pa bs.length).trans
    (foldl_homeKept sendInval (fun _ l => .of_eq rfl rfl rfl (sendInval_quiet l) id) _ (linesOf pa bs.length)))
  exact .of_eq rfl rfl rfl id fun h => ⟨h.1, by simp [h.2]⟩

theorem l1Refresh_kept (s : State) (pa n : Nat) : HomeKept core s (l1Refresh s core pa n) := .of_modTeam _ (fun _ => ⟨_, rfl⟩) s

theorem l1Clear_kept (s : State) : HomeKept core s (l1Clear s core) := .of_modTeam _ (fun _ => ⟨_, rfl⟩) s

theorem l1DropRange_kept (s : State) (pa n : Nat) : HomeKept core s (l1DropRange s core pa n) := by
  refine .of_modTeam _ (fun t => ?_) s
  refine List.foldlRecOn (motive := fun u => ∃ l1, u = { t with l1 := l1 }) _ l1Drop ⟨t.l1, rfl⟩ fun u hu l _ => ?_
  obtain ⟨l1, rfl⟩ := hu
  exact ⟨_, rfl⟩

theorem applyAll_kept (s : State) : HomeKept core s (applyAll s) :=
  foldl_homeKept applyInval (fun _ p => .of_eq rfl rfl rfl (applyInval_quiet p) id) _ _

theorem meetEntry_kept (s : State) (core' ctx : Nat) (e : OttEntry) : HomeKept core s (meetEntry s core' ctx e) := by
  unfold meetEntry
  split
  · exact .refl core s
  · exact foldl_homeKept _ (fun s r => (meetUpsets_kept s _ _).ite) _ _

/-- A store at its home (R212, R226). -/
theorem storeHome_kept (s : State) (ctx : Nat) (o : Ord) (x : Xl) (va : Nat) (bs : List Byte) :
    HomeKept core s (storeHome s core ctx o x va bs) :=
  (meetUpsets_kept ..).trans ((l2TouchAll_kept ..).trans ((homeWrite_kept ..).trans (l1Refresh_kept ..)))

theorem keepOlds_kept (s : State) (ps : List (Nat × Nat)) : HomeKept core s (keepOlds s ps) :=
  ⟨rfl, rfl, fun t ht => ⟨t.l1, t.chan.map (Channel.keepOlds s ps), by simp [keepOlds, ht]⟩, id, id⟩

/-- What precedes the performing of an entry (R212, R299). -/
theorem beforeEntry_kept (s : State) (ctx : Nat) (e : OttEntry) : HomeKept core s (beforeEntry s core ctx e) :=
  (l1Clear_kept s).ite.trans ((applyAll_kept _).ite.trans (meetEntry_kept _ core ctx e))

end

end Sys2Proof.Machine
end

section
/-! The end of an entry: marks, the lines whose invalidations it awaits, and its place in the table (R109, R297, R299, R300). -/

namespace Sys2Proof.Machine

/-- What follows the lanes of an entry: its marks, and its end or what it still waits for. -/
def finishPerf (core ctx : Nat) (e : OttEntry) (p : Perf) : State :=
  let s := setMarks p.st core ctx e
  let lines := stillPending s ((localWrites s ctx e.work).flatMap (fun w => linesOf w.1 w.2))
  settle s core { p.e with work := if p.left.isEmpty then .inval lines else .remote p.left }

section

variable (s : State) (core ctx : Nat) {e : OttEntry}

/-- An entry as its lanes begin. -/
def startPerf (s : State) (core ctx : Nat) (e : OttEntry) : Perf := ⟨beforeEntry s core ctx e, e, []⟩

theorem performEntry_store {ty : Nat} {ls : List (Acc × Word)} (h : e.work = .store ty ls) :
    performEntry s core ctx e = finishPerf core ctx e (ls.foldl (fun p x => performStore core ctx ty p x.1 x.2) (startPerf s core ctx e)) := by
  simp only [performEntry, finishPerf, startPerf, h]

theorem performEntry_storeBlock {ty : Nat} {ls : List (List (Acc × Nat) × List Byte)} (h : e.work = .storeBlock ty ls) :
    performEntry s core ctx e = finishPerf core ctx e (ls.foldl (fun p x => performStoreBlock core ctx p x.1 x.2) (startPerf s core ctx e)) := by
  simp only [performEntry, finishPerf, startPerf, h]

theorem performEntry_sstore {ty : Nat} {ls : List (SAcc × Word)} (h : e.work = .sstore ty ls) :
    performEntry s core ctx e = finishPerf core ctx e (ls.foldl (fun p x =>
      { p with st := spadWrite p.st x.1.core x.1.off (leBytes (tyBits ty / 8) x.2.toNat) }) (startPerf s core ctx e)) := by
  simp only [performEntry, finishPerf, startPerf, h]

/-- Whether lanes after the first of a stream wait: in a deterministic launch (R286). -/
def holdsLanes (s : State) (core : Nat) : Bool := ((tget s.teams core).map (fun t => recDet (recOf s t))).getD false

theorem performEntry_atom {op ty st : Nat} {ls : List AtomLane} (h : e.work = .atom op ty st ls) :
    performEntry s core ctx e = finishPerf core ctx e
      (ls.foldl (performAtom core ctx op ty st (holdsLanes (beforeEntry s core ctx e) core)) (startPerf s core ctx e)) := by
  simp only [performEntry, finishPerf, startPerf, holdsLanes, h]

end

/-! ### The entry leaves the table -/

theorem setMarks_only (s : State) (core ctx : Nat) (e : OttEntry) : ∃ ms, setMarks s core ctx e = { s with marks := ms } := by
  have hadd (s : State) (core rank stamp : Nat) (ws : List (Nat × Nat × Nat)) : ∃ ms, addMarks s core rank stamp ws = { s with marks := ms } := by
    unfold addMarks
    split
    · exact ⟨s.marks, rfl⟩
    · exact ⟨_, rfl⟩
  unfold setMarks
  dsimp only
  split
  · split
    · exact ⟨s.marks, rfl⟩
    · exact hadd ..
  · split
    · exact ⟨s.marks, rfl⟩
    · refine List.foldlRecOn (motive := fun u => ∃ ms, u = ({ s with marks := ms } : State)) _ _ ⟨s.marks, rfl⟩ fun u hu f _ => ?_
      obtain ⟨ms, rfl⟩ := hu
      obtain ⟨ms', h⟩ := hadd { s with marks := ms } core f.2.1 f.1 (markedPlaces s ctx e.work)
      exact ⟨ms', h⟩

theorem stillPending_nil {s : State} {ls : List Nat} (h : s.pendInv = [] ∨ ls = []) : stillPending s ls = [] := by
  rcases h with h | rfl
  · simp [stillPending, h]
  · rfl

section

variable {s : State} {core : Nat} {t : Team} {e : OttEntry} (ht : tget s.teams core = some t)

include ht

/-- A long entry without a failure leaves the table, and its slots hold its results (R105, R109). -/
theorem finishEntry_long {g : Group} (hl : e.long = true) (hb : e.bad = none) (hg : tget t.groups e.grp = some g) (hm : g.hm = none) :
    ∃ t', tget (finishEntry s core e).teams core = some t' ∧ t'.ott = t.ott.filter (fun y => y.id != e.id)
      ∧ tget t'.groups e.grp = some { g with rb := fillFrom g.rb e.id 0 e.got } := by
  refine ⟨{ t with
    ott := t.ott.filter (fun y => y.id != e.id)
    det := t.det.filter (fun d => d.id != e.id)
    groups := tset t.groups e.grp { g with rb := fillFrom g.rb e.id 0 e.got } }, ?_, rfl, tget_tset_self _ _ _⟩
  simp [finishEntry, hl, hb, modTeam_eq ht, Team.modGroup, hg, hm]

/-- A posted entry leaves the table; of its team besides only groups have changed, where a failure is latched (R66, R109). -/
theorem finishEntry_posted (hl : e.long = false) : ∃ gs, tget (finishEntry s core e).teams core = some { t with
    ott := t.ott.filter (fun y => y.id != e.id), det := t.det.filter (fun d => d.id != e.id), groups := gs } := by
  cases hb : e.bad with
  | none => exact ⟨t.groups, by simp [finishEntry, hl, hb, modTeam_eq ht]⟩
  | some x =>
    simp only [finishEntry, hl, hb, modTeam_eq ht, latchErr, modGroup, setTeam_setTeam, Bool.false_eq_true, if_false,
      modTeam_eq (setTeam_get _ _ _), setTeam_get]
    unfold Team.modGroup
    split
    · exact ⟨_, rfl⟩
    · exact ⟨_, rfl⟩

end

theorem finishEntry_other (s : State) {core k : Nat} (e : OttEntry) (hk : k ≠ core) :
    tget (finishEntry s core e).teams k = tget s.teams k := by
  simp only [finishEntry]
  split
  · rw [latchErr, modGroup, modTeam_get_ne _ hk, modTeam_get_ne _ hk]
  · rw [modTeam_get_ne _ hk]

/-- With no lane left and no invalidation awaited the entry ends. -/
theorem finishPerf_ends {core ctx : Nat} {e : OttEntry} {p : Perf} (hleft : p.left = [])
    (hp : p.st.pendInv = [] ∨ ∀ s : State, localWrites s ctx e.work = []) :
    ∃ ms, finishPerf core ctx e p = finishEntry { p.st with marks := ms } core { p.e with work := .inval [] } := by
  obtain ⟨ms, hms⟩ := setMarks_only p.st core ctx e
  have hlines : stillPending (setMarks p.st core ctx e)
      ((localWrites (setMarks p.st core ctx e) ctx e.work).flatMap (fun w => linesOf w.1 w.2)) = [] :=
    stillPending_nil (hp.imp (fun h => by rw [hms]; exact h) fun h => by rw [h]; rfl)
  refine ⟨ms, ?_⟩
  simp only [finishPerf, hlines, hleft, List.isEmpty_nil, if_true, settle]
  rw [hms]

theorem finishPerf_mem (core ctx : Nat) (e : OttEntry) (p : Perf) : (finishPerf core ctx e p).mem = p.st.mem := by
  simp [finishPerf]

/-! ### The two events that perform entries -/

theorem realEntry_only (t : Team) (e : OttEntry) : ∃ w, realEntry t e = { e with work := w } := by
  unfold realEntry
  split
  · split <;> exact ⟨_, rfl⟩
  · exact ⟨_, rfl⟩

theorem posted_performed {s : State} {t : Team} {e : OttEntry} (ht : tget s.teams s.iss.core = some t)
    (he : t.ott.find? (fun x => x.id == s.iss.id) = some e) (hl : e.long = false) (hm : mayPerform s (teamCtx s t) t e = true) :
    exec .postedEntryPerformed s = .next (performEntry s s.iss.core (teamCtx s t) (realEntry t e)) := by
  have hc : cursorEntry s = some (t, e) := by simp [cursorEntry, ht, he]
  show execPostedEntryPerformed s = _
  simp [execPostedEntryPerformed, hc, hl, hm]

/-- A long entry that is due, is no test and finds no error is performed (R109, R347, R362). -/
theorem long_performed {s : State} {t : Team} {e : OttEntry} {g : Group} (d : Due s t e g) (hl : e.long = true)
    (ht : ∀ p a, e.work ≠ .selftest p a) (hw : launchWaits s (teamCtx s t) e.work = false)
    (hp : entryPoisoned (beforeEntry s s.iss.core (teamCtx s t) e) s.iss.core (teamCtx s t) e = none) :
    exec .longResultReturn s = .next (performEntry (beforeEntry s s.iss.core (teamCtx s t) e) s.iss.core (teamCtx s t) e) := by
  have hc : cursorEntry s = some (t, e) := by simp [cursorEntry, d.team, d.entry]
  have hf : waitsForFirmware t e.grp = false := by
    simp only [waitsForFirmware, d.group]
    split
    next tr h n p b hs => exact absurd hs (d.calm.2 tr h n p b)
    next => rfl
  have hi := (beforeEntry_kept (core := s.iss.core) s (teamCtx s t) e).iss
  show execLongResultReturn s = _
  simp only [execLongResultReturn, hc, hl, d.order, hf, hw, Bool.not_true, Bool.or_false, Bool.false_eq_true, if_false, hi, hp]

end Sys2Proof.Machine
end

section
/-! The atomics performed on memory of the package: their lanes take effect one after another (R109, R286, R303 to R305). -/

namespace Sys2Proof.Machine

/-- A page that is not of MT 7 has one place, whatever the state (R60). -/
theorem physAddr_fixed {x : Xl} (h : x.mt ≠ 7) (s u : State) (ctx va : Nat) (back : Bool) :
    physAddr u ctx x va back = physAddr s ctx x va back := by
  simp [physAddr, h]

theorem physAddr_home {x : Xl} (h : x.mt = 0) (s u : State) (ctx va : Nat) (back : Bool) : physAddr u ctx x va back = physAddr s ctx x va back :=
  physAddr_fixed (by omega) ..

/-! ### The end of an entry whose accesses were to the package's own memory -/

/-- The team once a posted entry has ended: the entry is gone, and besides only groups have changed. -/
theorem finishPerf_team {core ctx : Nat} {e : OttEntry} {p : Perf} {t : Team} (ht : tget p.st.teams core = some t) (hleft : p.left = [])
    (hw : p.st.pendInv = [] ∨ ∀ s : State, localWrites s ctx e.work = []) (hl : p.e.long = false) :
    ∃ gs, tget (finishPerf core ctx e p).teams core = some { t with
      ott := t.ott.filter (fun y => y.id != p.e.id), det := t.det.filter (fun d => d.id != p.e.id), groups := gs } := by
  obtain ⟨ms, hms⟩ := finishPerf_ends (core := core) hleft hw
  rw [hms]
  exact finishEntry_posted (s := { p.st with marks := ms }) (e := { p.e with work := .inval [] }) ht hl

section

variable {s : State} {core : Nat} {t : Team} {e e' : OttEntry} {p : Perf} (ctx : Nat) (ht : tget s.teams core = some t)
  (hk : HomeKept core s p.st) (hid : p.e.id = e.id) (hleft : p.left = []) (hq : s.quiet)

include ht hk hid hleft hq

theorem finishPerf_releases (hl : p.e.long = false) (hc : core = s.iss.core) : Released s t e (finishPerf core ctx e' p) := by
  intro t' ht'
  obtain ⟨l1, ch, hp⟩ := hk.team t ht
  obtain ⟨gs, hgs⟩ := finishPerf_team (ctx := ctx) (e := e') hp hleft (.inl (hk.quiet hq).2) hl
  rw [← hc, hgs] at ht'
  obtain rfl := Option.some.inj ht'
  simp only [hid]

theorem finishPerf_returns {g : Group} (hl : p.e.long = true) (hb : p.e.bad = none) (hgrp : p.e.grp = e.grp) (hg : tget t.groups e.grp = some g)
    (hm : g.hm = none) (hc : core = s.iss.core) : Returned s t e g p.e.got (finishPerf core ctx e' p) := by
  obtain ⟨l1, ch, hp⟩ := hk.team t ht
  obtain ⟨ms, hms⟩ := finishPerf_ends (core := core) (ctx := ctx) (e := e') hleft (.inl (hk.quiet hq).2)
  obtain ⟨t', ht', hott, hg'⟩ := finishEntry_long (s := { p.st with marks := ms }) (core := core) (e := { p.e with work := .inval [] }) hp hl hb
    (by rw [← hgrp] at hg; exact hg) hm
  rw [hgrp] at hg'
  rw [hid] at hott hg'
  exact ⟨t', _, by rw [← hc, hms, ht'], hg', hott, rfl, rfl, rfl⟩

end

/-! ### One lane, and the lanes in their order -/

/-- The lanes of an atomic on the package's own memory: each its address and operands. -/
def homeLanes (s : State) (ctx ty : Nat) (ls : List AtomLane) : List (Nat × Nat × Nat × Nat × Nat) :=
  ls.map (fun a => (a.acc.lane, 0, physAddr s ctx a.acc.xl a.acc.va false, a.b.toNat % 2 ^ tyBits ty, a.n.toNat % 2 ^ tyBits ty))

/-- Every lane is at memory of the package. -/
def atHome (s : State) (ctx ty : Nat) (ls : List AtomLane) : Prop :=
  ∀ a ∈ ls, a.acc.xl.mt = 0 ∧ physAddr s ctx a.acc.xl a.acc.va false + tyBits ty / 8 ≤ hbmTop

theorem entryPoisoned_none {s : State} {core ctx : Nat} {e : OttEntry} (h : trialBad s core ctx e = none) :
    entryPoisoned s core ctx e = none := by
  simp [entryPoisoned, h]

theorem poisoned_none {s : State} (h : s.poison = []) (pa n : Nat) : poisoned s pa n = false := by simp [poisoned, h]

section

variable (core ctx op ty st : Nat) (hold : Bool)

/-- A new value of `n` bytes takes effect in memory of the package (R212, R291, R305). -/
def atomWrite (core n : Nat) (s : State) (x : Xl) (pa new : Nat) : State :=
  l1DropRange (homeWrite (l2Touch (meetUpsets s pa n) pa x.cp x.wp true) pa (leBytes n new)) core pa n

theorem atomWrite_kept (n : Nat) (s : State) (x : Xl) (pa new : Nat) : HomeKept core s (atomWrite core n s x pa new) :=
  (meetUpsets_kept ..).trans ((l2Touch_kept ..).trans ((homeWrite_kept ..).trans (l1DropRange_kept ..)))

@[simp] theorem atomWrite_mem (n : Nat) (s : State) (x : Xl) (pa new : Nat) :
    (atomWrite core n s x pa new).mem = memWrite s.mem pa (leBytes n new) := by simp [atomWrite]

theorem performAtom_home (s : State) {p : Perf} {a : AtomLane} (hs : p.st.poison = []) (hmt : a.acc.xl.mt = 0)
    (hpa : physAddr s ctx a.acc.xl a.acc.va false + tyBits ty / 8 ≤ hbmTop) :
    performAtom core ctx op ty st hold p a =
      let pa := physAddr s ctx a.acc.xl a.acc.va false
      let m := memNat p.st.mem pa (tyBits ty / 8)
      { p with
        st := atomWrite core (tyBits ty / 8) p.st a.acc.xl pa (atomNew op ty m (a.b.toNat % 2 ^ tyBits ty) (a.n.toNat % 2 ^ tyBits ty))
        e := { p.e with got := p.e.got ++ [(a.acc.lane, tyExt ty m)] } } := by
  have hpop : populated (physAddr s ctx a.acc.xl a.acc.va false) (tyBits ty / 8) = true := by simpa [populated] using hpa
  simp only [performAtom, hmt, physAddr_home hmt s p.st, hpop, poisoned_none hs, Nat.reduceBEq, Bool.false_eq_true, Bool.not_true, if_false]
  rfl

theorem foldl_performAtom (s : State) (ls : List AtomLane) (p : Perf) (f : Nat → List Host.Cell) (hf : f 0 = p.st.mem)
    (hs : p.st.poison = [] ∧ p.st.upsets = []) (hh : atHome s ctx ty ls) :
    ∃ u, HomeKept core p.st u ∧ u.mem = (atomsInTurn op ty f (homeLanes s ctx ty ls)).1 0
      ∧ ls.foldl (performAtom core ctx op ty st hold) p = { p with
          st := u, e := { p.e with got := p.e.got ++ (atomsInTurn op ty f (homeLanes s ctx ty ls)).2 } } := by
  induction ls generalizing p f with
  | nil => exact ⟨p.st, .refl core _, hf.symm, by simp [homeLanes, atomsInTurn]⟩
  | cons a r ih =>
    obtain ⟨hmt, hpa⟩ := hh a List.mem_cons_self
    have hstep := performAtom_home core ctx op ty st hold s hs.1 hmt hpa
    obtain ⟨u, hu, hmem, hfold⟩ := ih (performAtom core ctx op ty st hold p a) (putBytes f 0 (physAddr s ctx a.acc.xl a.acc.va false)
      (tyBits ty / 8) (atomNew op ty (memNat (f 0) (physAddr s ctx a.acc.xl a.acc.va false) (tyBits ty / 8))
            (a.b.toNat % 2 ^ tyBits ty) (a.n.toNat % 2 ^ tyBits ty))) (by rw [hstep]; simp [putBytes, hf])
      (by rw [hstep]; exact (atomWrite_kept ..).sound hs) (fun b hb => hh b (List.mem_cons_of_mem _ hb))
    refine ⟨u, HomeKept.trans ?_ hu, hmem, ?_⟩
    · rw [hstep]
      exact atomWrite_kept ..
    · rw [List.foldl_cons, hfold, hstep, ← hf]
      simp [homeLanes, atomsInTurn]

end

/-- What no lane names stays (R303). -/
theorem atomsInTurn_out (op ty a : Nat) (ls : List (Nat × Nat × Nat × Nat × Nat)) (f : Nat → List Host.Cell)
    (h : ∀ x ∈ ls, ¬ (x.2.2.1 ≤ a ∧ a < x.2.2.1 + tyBits ty / 8)) (k : Nat) :
    memByte ((atomsInTurn op ty f ls).1 k) a = memByte (f k) a := by
  induction ls generalizing f with
  | nil => rfl
  | cons x r ih =>
    obtain ⟨lane, space, pa, b, n⟩ := x
    refine (ih _ fun y hy => h y (List.mem_cons_of_mem _ hy)).trans ?_
    unfold putBytes
    split
    · refine memByte_memWrite_out _ _ _ _ ?_
      have hout : ¬ (pa ≤ a ∧ a < pa + tyBits ty / 8) := h _ List.mem_cons_self
      simp only [leBytes_length]
      omega
    · rfl

/-! ### The events -/

section

variable {s b : State} {core ctx op ty st : Nat} {ls : List AtomLane} {e : OttEntry} (hk : HomeKept core s b) (hm : b.mem = s.mem)
  (hs : s.poison = [] ∧ s.upsets = []) (hh : atHome s ctx ty ls)

include hk hm hs hh

/-- An atomic performed in a state that has been kept since `s`: its lanes have taken effect on memory as it was in `s`. -/
theorem performEntry_atomHome (hw : e.work = .atom op ty st ls) : ∃ u, HomeKept core s u
    ∧ u.mem = (atomsInTurn op ty (fun _ => s.mem) (homeLanes s ctx ty ls)).1 0
    ∧ performEntry b core ctx e = finishPerf core ctx e
        ⟨u, { e with got := e.got ++ (atomsInTurn op ty (fun _ => s.mem) (homeLanes s ctx ty ls)).2 }, []⟩ := by
  have hk' := hk.trans (beforeEntry_kept b ctx e)
  obtain ⟨u, hu, hmem, hfold⟩ := foldl_performAtom core ctx op ty st (holdsLanes (beforeEntry b core ctx e) core) s ls (startPerf b core ctx e)
    (fun _ => s.mem) (by simp [startPerf, hm]) (hk'.sound hs) hh
  exact ⟨u, hk'.trans hu, hmem, by rw [performEntry_atom _ _ _ hw, hfold]; rfl⟩

/-- No error is found before it (R362). -/
theorem entryPoisoned_atomHome (hw : e.work = .atom op ty st ls) : entryPoisoned b core ctx e = none := by
  obtain ⟨u, -, -, hfold⟩ := foldl_performAtom core ctx op ty st false s ls ⟨b, { e with work := .atom op ty st ls, bad := none }, []⟩
    (fun _ => s.mem) hm.symm (hk.sound hs) hh
  refine entryPoisoned_none ?_
  simp only [trialBad, hw, hfold]

end

theorem atoms_leave {s u v : State} {ctx op ty : Nat} {ls : List AtomLane} (hu : u.mem = v.mem)
    (hv : v.mem = (atomsInTurn op ty (fun _ => s.mem) (homeLanes s ctx ty ls)).1 0) :
    (∀ a, memByte u.mem a = memByte ((atomsInTurn op ty (fun _ => s.mem) (homeLanes s ctx ty ls)).1 0) a)
    ∧ ∀ a, (∀ x ∈ homeLanes s ctx ty ls, ¬ (x.2.2.1 ≤ a ∧ a < x.2.2.1 + tyBits ty / 8)) → memByte u.mem a = memByte s.mem a :=
  ⟨fun a => by rw [hu, hv], fun a ha => by rw [hu, hv]; exact atomsInTurn_out op ty a _ _ ha 0⟩

theorem atomicsPerformed : Claims.AtomicsPerformed := by
  refine ⟨fun s t e g op ty st ls d hw hl hh => ?long, fun s t e op ty st ls ht he hw hl hmay hh => ?posted⟩
  case long =>
    obtain ⟨hup, hpo, hh⟩ := hh
    have hb := beforeEntry_kept (core := s.iss.core) s (teamCtx s t) e
    obtain ⟨u, hu, hmem, hdone⟩ := performEntry_atomHome hb (beforeEntry_mem ..) ⟨hpo, hup⟩ hh hw
    refine ⟨_, long_performed d hl (by simp [hw]) (by simp [hw, launchWaits])
      (entryPoisoned_atomHome hb (beforeEntry_mem ..) ⟨hpo, hup⟩ hh hw), ?_, fun hports hpend => ?_⟩
    · rw [hdone]
      exact atoms_leave (finishPerf_mem ..) hmem
    · obtain ⟨hbad, hgot⟩ := d.fresh
      rw [hdone, hgot]
      exact finishPerf_returns _ d.team hu rfl rfl ⟨hports, hpend⟩ hl hbad rfl d.group d.calm.1 rfl
  case posted =>
    obtain ⟨hup, hpo, hh⟩ := hh
    obtain ⟨w, hreal⟩ := realEntry_only t e
    obtain ⟨u, hu, hmem, hdone⟩ := performEntry_atomHome (.refl s.iss.core s) rfl ⟨hpo, hup⟩ hh hw
    refine ⟨_, posted_performed ht he hl hmay, ?_, fun hports hpend => ?_⟩
    · rw [hdone]
      exact atoms_leave (finishPerf_mem ..) hmem
    · rw [hdone]
      exact finishPerf_releases _ ht hu (by rw [hreal]) rfl ⟨hports, hpend⟩ (by rw [hreal]; exact hl) rfl

/-- Settles O28: the issue by its places in the stream, the new values by their table, and the lanes performed one after another. -/
theorem atomicOperations : Obligations.AtomicOperations := ⟨atomics, atomicValues, atomicsPerformed⟩

end Sys2Proof.Machine

end

section
/-! STG and STB performed on memory of the package: each lane's bytes in their order (R109, R168, R224, R226, R229, R230). -/

namespace Sys2Proof.Machine

/-! ### The last of several writes -/

/-- A value that each of a list may replace, one after another. -/
def overlaid {α β : Type} (P : α → Prop) [DecidablePred P] (v : α → β) (b : β) (ls : List α) : β :=
  ls.foldl (fun b x => if P x then v x else b) b

section

variable {α β : Type} (P : α → Prop) [DecidablePred P] (v : α → β)

theorem overlaid_none (b : β) {ls : List α} (h : ∀ x ∈ ls, ¬ P x) : overlaid P v b ls = b := by
  induction ls with
  | nil => rfl
  | cons x r ih =>
    unfold overlaid at ih ⊢
    rw [List.foldl_cons, if_neg (h x List.mem_cons_self)]
    exact ih fun y hy => h y (List.mem_cons_of_mem _ hy)

theorem overlaid_last (b : β) {pre post : List α} {x : α} (hx : P x) (h : ∀ y ∈ post, ¬ P y) :
    overlaid P v b (pre ++ x :: post) = v x := by
  have hpost := overlaid_none P v (v x) h
  unfold overlaid at hpost ⊢
  rw [List.foldl_append, List.foldl_cons, if_pos hx, hpost]

end

theorem leBytes_getElem? {n k : Nat} (x : Nat) (h : k < n) : (leBytes n x)[k]? = some (BitVec.ofNat 8 (x / 256 ^ k)) := by
  have hd := leBytes_drop n k x
  obtain ⟨m, hm⟩ := Nat.exists_eq_add_of_lt h
  rw [show n - k = m + 1 by omega, leBytes] at hd
  have h0 := congrArg (·[0]?) hd
  simpa using h0

/-- A byte of memory after writes one after another. -/
theorem memByte_foldl_memWrite {α : Type} (pa : α → Nat) (n : Nat) (x : α → Nat) (ls : List α) {m : List Host.Cell}
    (hm : Memory.wf m = true) (a : Nat) : memByte (ls.foldl (fun m y => memWrite m (pa y) (leBytes n (x y))) m) a =
      overlaid (fun y => pa y ≤ a ∧ a < pa y + n) (fun y => BitVec.ofNat 8 (x y / 256 ^ (a - pa y))) (memByte m a) ls := by
  induction ls generalizing m with
  | nil => rfl
  | cons y r ih =>
    refine (ih (memWrite_wf hm _ _)).trans ?_
    rw [memByte_memWrite m hm, leBytes_length]
    unfold overlaid
    rw [List.foldl_cons]
    congr 1
    split
    next h => rw [List.getD_eq_getElem?_getD, leBytes_getElem? _ (by omega)]; rfl
    next => rfl

/-! ### Lanes that change the state alone -/

/-- Lanes that leave the entry as it is act on the state one after another, while it keeps what they need of it. -/
theorem foldl_onState {α : Type} (P : State → Prop) (f : Perf → α → Perf) (g : State → α → State) (e : OttEntry) (left : List Nat)
    (xs : List α) (h : ∀ x ∈ xs, ∀ u, P u → f ⟨u, e, left⟩ x = ⟨g u x, e, left⟩ ∧ P (g u x)) (u : State) (hP : P u) :
    xs.foldl f ⟨u, e, left⟩ = ⟨xs.foldl g u, e, left⟩ ∧ P (xs.foldl g u) := by
  induction xs generalizing u with
  | nil => exact ⟨rfl, hP⟩
  | cons x r ih =>
    obtain ⟨hf, hg⟩ := h x List.mem_cons_self u hP
    rw [List.foldl_cons, List.foldl_cons, hf]
    exact ih (fun y hy => h y (List.mem_cons_of_mem _ hy)) _ hg

section

variable (core ctx : Nat) (o : Ord)

@[simp] theorem storeHome_mem (s : State) (x : Xl) (va : Nat) (bs : List Byte) :
    (storeHome s core ctx o x va bs).mem = memWrite s.mem (physAddr s ctx x va false) bs := by simp [storeHome, homeStore]

/-- Stores at their homes one after another; the places are those of any state, as the pages are of MT 0. -/
theorem foldl_storeHome_mem {α : Type} (acc : α → Acc) (bs : α → List Byte) (s : State) (xs : List α) (h : ∀ x ∈ xs, (acc x).xl.mt = 0)
    (u : State) : (xs.foldl (fun u x => storeHome u core ctx o (acc x).xl (acc x).va (bs x)) u).mem =
      xs.foldl (fun m x => memWrite m (physAddr s ctx (acc x).xl (acc x).va false) (bs x)) u.mem := by
  induction xs generalizing u with
  | nil => rfl
  | cons x r ih =>
    rw [List.foldl_cons, List.foldl_cons, ih fun y hy => h y (List.mem_cons_of_mem _ hy), storeHome_mem,
      physAddr_home (h x List.mem_cons_self) s u]

theorem foldl_storeHome_kept {α : Type} (acc : α → Acc) (bs : α → List Byte) (xs : List α) (u : State) :
    HomeKept core u (xs.foldl (fun u x => storeHome u core ctx o (acc x).xl (acc x).va (bs x)) u) :=
  foldl_homeKept _ (fun s x => storeHome_kept s ctx o (acc x).xl (acc x).va (bs x)) u xs

end

/-! ### STG -/

theorem performStore_home (core ctx ty : Nat) (s : State) {p : Perf} {a : Acc} (x : Word) (hmt : a.xl.mt = 0)
    (hpa : physAddr s ctx a.xl a.va false + tyBits ty / 8 ≤ hbmTop) :
    performStore core ctx ty p a x = { p with st := storeHome p.st core ctx p.e.ord a.xl a.va (leBytes (tyBits ty / 8) x.toNat) } := by
  have hpop : populated (physAddr s ctx a.xl a.va false) (tyBits ty / 8) = true := by simpa [populated] using hpa
  simp [performStore, hmt, physAddr_home hmt s p.st, hpop]

/-- STG performed: its lanes' stores, and nothing else of the entry. -/
theorem performEntry_storeHome (s : State) (core ctx : Nat) {e : OttEntry} {ty : Nat} {ls : List (Acc × Word)} (hw : e.work = .store ty ls)
    (hh : ∀ x ∈ ls, x.1.xl.mt = 0 ∧ physAddr s ctx x.1.xl x.1.va false + tyBits ty / 8 ≤ hbmTop) :
    ∃ u, HomeKept core s u
      ∧ u.mem = ls.foldl (fun m x => memWrite m (physAddr s ctx x.1.xl x.1.va false) (leBytes (tyBits ty / 8) x.2.toNat)) s.mem
      ∧ performEntry s core ctx e = finishPerf core ctx e ⟨u, e, []⟩ := by
  have hstep (x : Acc × Word) (hx : x ∈ ls) (u : State) := performStore_home core ctx ty s (p := ⟨u, e, []⟩) x.2 (hh x hx).1 (hh x hx).2
  have hfold := (foldl_onState (fun _ => True) (fun p x => performStore core ctx ty p x.1 x.2) _ e [] ls
    (fun x hx u _ => ⟨hstep x hx u, trivial⟩) (beforeEntry s core ctx e) trivial).1
  refine ⟨_, (beforeEntry_kept s ctx e).trans
    (foldl_storeHome_kept core ctx e.ord Prod.fst (fun x => leBytes (tyBits ty / 8) x.2.toNat) ls _), ?_, ?_⟩
  · rw [foldl_storeHome_mem core ctx e.ord Prod.fst (fun x => leBytes (tyBits ty / 8) x.2.toNat) s ls (fun x hx => (hh x hx).1),
      beforeEntry_mem]
  · rw [performEntry_store _ _ _ hw, startPerf, hfold]

theorem globalStoresPerformed : Claims.GlobalStoresPerformed := by
  intro s t e ty ls ht he hw hl hmay hinv pa n hh
  obtain ⟨w, hreal⟩ := realEntry_only t e
  obtain ⟨u, hk, hmem, hdone⟩ := performEntry_storeHome s s.iss.core (teamCtx s t) hw hh
  have hread (a : Nat) := memByte_foldl_memWrite (fun x : Acc × Word => pa x.1) n (fun x => x.2.toNat) ls hinv a
  refine ⟨_, posted_performed ht he hl hmay, fun a ha => ?_, fun pre x post hls a h1 h2 hpost => ?_, fun hports hpend => ?_⟩
  · rw [hdone, finishPerf_mem]
    refine (congrArg (memByte · a) hmem).trans ((hread a).trans (overlaid_none _ _ _ ha))
  · rw [hdone, finishPerf_mem]
    refine (congrArg (memByte · a) hmem).trans ((hread a).trans ?_)
    rw [hls]
    exact overlaid_last _ _ _ ⟨h1, h2⟩ hpost
  · rw [hdone]
    exact finishPerf_releases _ ht hk (by rw [hreal]) rfl ⟨hports, hpend⟩ (by rw [hreal]; exact hl) rfl

end Sys2Proof.Machine

end

section
/-! STB performed on memory of the package, piece by piece (R109, R168, R229, R230). -/

namespace Sys2Proof.Machine

/-! ### The pieces of a block -/

theorem mem_splitPieces {x : Acc × List Byte} {ps : List (Acc × Nat)} {bs : List Byte} (h : x ∈ splitPieces ps bs) :
    ∃ q ∈ ps, x.1 = q.1 ∧ x.2.length ≤ q.2 := by
  induction ps generalizing bs with
  | nil => cases h
  | cons p r ih =>
    rcases List.mem_cons.1 h with rfl | h
    · exact ⟨p, List.mem_cons_self, rfl, List.length_take_le _ _⟩
    · obtain ⟨q, hq, hx⟩ := ih h
      exact ⟨q, List.mem_cons_of_mem _ hq, hx⟩

/-- Every piece is at memory of the package. -/
def piecesHome (s : State) (ctx : Nat) (ps : List (Acc × Nat)) : Prop :=
  ∀ x ∈ ps, x.1.xl.mt = 0 ∧ physAddr s ctx x.1.xl x.1.va false + x.2 ≤ hbmTop

section

variable (core ctx : Nat) (o : Ord)

/-- The state that a lane of STB leaves: what channels keep, and its pieces at their homes; a block of no piece does nothing (R168). -/
def blockHome (u : State) (b : List (Acc × Nat) × List Byte) : State :=
  if b.1 = [] then u else
  (splitPieces b.1 b.2).foldl (fun u x => storeHome u core ctx o x.1.xl x.1.va x.2)
    (keepOlds u (b.1.map (fun x => (physAddr u ctx x.1.xl x.1.va false, x.2))))

theorem blockHome_kept (u : State) (b : List (Acc × Nat) × List Byte) : HomeKept core u (blockHome core ctx o u b) := by
  unfold blockHome
  split
  · exact .refl core u
  · exact (keepOlds_kept ..).trans (foldl_storeHome_kept core ctx o Prod.fst Prod.snd _ _)

theorem blockHome_mem {s : State} {b : List (Acc × Nat) × List Byte} (h : piecesHome s ctx b.1) (u : State) : (blockHome core ctx o u b).mem =
    (splitPieces b.1 b.2).foldl (fun m x => memWrite m (physAddr s ctx x.1.xl x.1.va false) x.2) u.mem := by
  unfold blockHome
  split
  next hb => rw [hb]; rfl
  refine (foldl_storeHome_mem core ctx o Prod.fst Prod.snd s (splitPieces b.1 b.2) (fun x hx => ?_) _).trans (by rw [keepOlds_mem])
  obtain ⟨q, hq, hxq, -⟩ := mem_splitPieces hx
  rw [hxq]
  exact (h q hq).1

end

theorem performStoreBlock_home (core ctx : Nat) {s : State} {e : OttEntry} {b : List (Acc × Nat) × List Byte} (h : piecesHome s ctx b.1)
    (u : State) : performStoreBlock core ctx ⟨u, e, []⟩ b.1 b.2 = ⟨blockHome core ctx e.ord u b, e, []⟩ := by
  obtain ⟨ps, bs⟩ := b
  cases ps with
  | nil => rfl
  | cons q r =>
    have hall : (q :: r).filter (fun x => x.1.xl.mt == 0) = q :: r := List.filter_eq_self.2 fun x hx => by simp [(h x hx).1]
    have hpop : ((q :: r).map (fun x => (physAddr u ctx x.1.xl x.1.va false, x.2))).find? (fun q => !populated q.1 q.2) = none := by
      refine List.find?_eq_none.2 fun y hy => ?_
      obtain ⟨x, hx, rfl⟩ := List.mem_map.1 hy
      have hp := (h x hx).2
      rw [← physAddr_home (h x hx).1 s u] at hp
      simpa [populated] using hp
    have hmt (x : Acc × List Byte) (hx : x ∈ splitPieces (q :: r) bs) : x.1.xl.mt = 0 := by
      obtain ⟨y, hy, hxy, -⟩ := mem_splitPieces hx
      rw [hxy]
      exact (h y hy).1
    have hpieces : (splitPieces (q :: r) bs).filter (fun x => x.1.xl.mt == 0) = splitPieces (q :: r) bs :=
      List.filter_eq_self.2 fun x hx => by simp [hmt x hx]
    have hwin : (splitPieces (q :: r) bs).filter (fun x => 1 ≤ x.1.xl.mt && x.1.xl.mt ≤ 3) = [] :=
      List.filter_eq_nil_iff.2 fun x hx => by simp [hmt x hx]
    have hpeers : peersOf (q :: r) = [] := by
      rw [peersOf, List.filter_eq_nil_iff.2 fun x hx => by simp [(h x hx).1]]
      rfl
    have hfold := (foldl_onState (fun _ => True)
      (fun (p : Perf) (x : Acc × List Byte) => { p with st := storeHome p.st core ctx p.e.ord x.1.xl x.1.va x.2 }) _ e []
      (splitPieces (q :: r) bs) (fun x _ u _ => ⟨rfl, trivial⟩)
      (keepOlds u ((q :: r).map (fun x => (physAddr u ctx x.1.xl x.1.va false, x.2)))) trivial).1
    rw [blockHome, if_neg (List.cons_ne_nil q r)]
    simp only [performStoreBlock, hall, hpop, hpieces, hwin, hpeers, List.isEmpty_nil, if_true, List.foldl_nil]
    exact hfold

/-! ### STB -/

/-- STB performed: its lanes' blocks, and nothing else of the entry. -/
theorem performEntry_blockHome (s : State) (core ctx : Nat) {e : OttEntry} {ty : Nat} {ls : List (List (Acc × Nat) × List Byte)}
    (hw : e.work = .storeBlock ty ls) (hh : ∀ b ∈ ls, piecesHome s ctx b.1) :
    ∃ u, HomeKept core s u
      ∧ u.mem = ls.foldl (fun m b => (splitPieces b.1 b.2).foldl (fun m x => memWrite m (physAddr s ctx x.1.xl x.1.va false) x.2) m) s.mem
      ∧ performEntry s core ctx e = finishPerf core ctx e ⟨u, e, []⟩ := by
  have hstep (b : List (Acc × Nat) × List Byte) (hb : b ∈ ls) (u : State) := performStoreBlock_home core ctx (e := e) (hh b hb) u
  have hfold := (foldl_onState (fun _ => True) (fun p b => performStoreBlock core ctx p b.1 b.2) _ e [] ls
    (fun b hb u _ => ⟨hstep b hb u, trivial⟩) (beforeEntry s core ctx e) trivial).1
  refine ⟨_, (beforeEntry_kept s ctx e).trans (foldl_homeKept _ (blockHome_kept core ctx e.ord) _ ls), ?_,
    by rw [performEntry_storeBlock _ _ _ hw, startPerf, hfold]⟩
  rw [← beforeEntry_mem s core ctx e]
  generalize beforeEntry s core ctx e = u
  clear hfold hstep hw
  induction ls generalizing u with
  | nil => rfl
  | cons b r ih =>
    rw [List.foldl_cons, List.foldl_cons, ih (fun c hc => hh c (List.mem_cons_of_mem _ hc)), blockHome_mem core ctx e.ord (hh b List.mem_cons_self)]

/-- A byte outside every piece stays. -/
theorem memByte_blocks_out (s : State) (ctx : Nat) (ls : List (List (Acc × Nat) × List Byte)) (m : List Host.Cell) (a : Nat)
    (h : ∀ b ∈ ls, ∀ x ∈ b.1, ¬ (physAddr s ctx x.1.xl x.1.va false ≤ a ∧ a < physAddr s ctx x.1.xl x.1.va false + x.2)) :
    memByte (ls.foldl (fun m b => (splitPieces b.1 b.2).foldl (fun m x => memWrite m (physAddr s ctx x.1.xl x.1.va false) x.2) m) m) a
      = memByte m a := by
  refine List.foldlRecOn (motive := fun m' => memByte m' a = memByte m a) ls _ rfl fun m1 h1 b hb => ?_
  refine List.foldlRecOn (motive := fun m' => memByte m' a = memByte m a) _ _ h1 fun m2 h2 x hx => ?_
  obtain ⟨q, hq, hxq, hlen⟩ := mem_splitPieces hx
  have hout := h b hb q hq
  rw [memByte_memWrite_out _ _ _ _ (by rw [hxq]; omega), h2]

theorem blockStoresPerformed : Claims.BlockStoresPerformed := by
  intro s t e ty ls ht he hw hl hmay pa hh
  obtain ⟨w, hreal⟩ := realEntry_only t e
  obtain ⟨u, hk, hmem, hdone⟩ := performEntry_blockHome s s.iss.core (teamCtx s t) hw hh
  refine ⟨_, posted_performed ht he hl hmay, fun a => ?_, fun a ha => ?_, fun hports hpend => ?_⟩
  · rw [hdone, finishPerf_mem]
    exact congrArg (memByte · a) hmem
  · rw [hdone, finishPerf_mem]
    exact (congrArg (memByte · a) hmem).trans (memByte_blocks_out s (teamCtx s t) ls s.mem a ha)
  · rw [hdone]
    exact finishPerf_releases _ ht hk (by rw [hreal]) rfl ⟨hports, hpend⟩ (by rw [hreal]; exact hl) rfl

end Sys2Proof.Machine

end

section
/-! STS and STX performed (R109, R224, R227). -/

namespace Sys2Proof.Machine

/-! ### Scratchpads after a write -/

@[simp] theorem noteUnits_teams (s : State) (space off n : Nat) : (noteUnits s space off n).teams = s.teams := by
  unfold noteUnits
  dsimp only
  split <;> rfl

/-- Of every team only the scratchpad has changed. -/
def SpadsOnly (s u : State) : Prop :=
  ∀ k t, tget s.teams k = some t → ∃ sp bad, tget u.teams k = some { t with spad := sp, spadBad := bad }

theorem spadWrite_only (s : State) (core off : Nat) (bs : List Byte) : SpadsOnly s (spadWrite s core off bs) := by
  intro k t ht
  have ht' : tget (noteUnits s (2 * core) off bs.length).teams k = some t := by rw [noteUnits_teams, ht]
  by_cases hk : k = core
  · subst hk
    exact ⟨_, _, modTeam_get ht' _⟩
  · exact ⟨t.spad, t.spadBad, by rw [spadWrite, modTeam_get_ne _ hk, ht']⟩

theorem SpadsOnly.trans {s u v : State} (h : SpadsOnly s u) (h' : SpadsOnly u v) : SpadsOnly s v := by
  intro k t ht
  obtain ⟨sp, bad, hu⟩ := h k t ht
  obtain ⟨sp', bad', hv⟩ := h' k _ hu
  exact ⟨sp', bad', hv⟩

theorem spadOf_spadWrite {s : State} {core : Nat} (h : (tget s.teams core).isSome = true) (off n x : Nat) :
    spadOf (spadWrite s core off (leBytes n x)) = putBytes (spadOf s) core off n x := by
  obtain ⟨t, ht⟩ := Option.isSome_iff_exists.1 h
  funext k
  have ht' : tget (noteUnits s (2 * core) off (leBytes n x).length).teams core = some t := by rw [noteUnits_teams, ht]
  unfold spadOf putBytes spadWrite
  split
  next hk => rw [hk, modTeam_get ht']; simp [ht]
  next hk => rw [modTeam_get_ne _ hk, noteUnits_teams]

/-- Stores to scratchpads one after another. -/
theorem spadOf_foldl_spadWrite (n : Nat) (ls : List (SAcc × Word)) (u : State) (h : ∀ x ∈ ls, (tget u.teams x.1.core).isSome = true) :
    SpadsOnly u (ls.foldl (fun u x => spadWrite u x.1.core x.1.off (leBytes n x.2.toNat)) u)
    ∧ spadOf (ls.foldl (fun u x => spadWrite u x.1.core x.1.off (leBytes n x.2.toNat)) u)
      = ls.foldl (fun f x => putBytes f x.1.core x.1.off n x.2.toNat) (spadOf u) := by
  induction ls generalizing u with
  | nil => exact ⟨fun _ t ht => ⟨t.spad, t.spadBad, ht⟩, rfl⟩
  | cons x r ih =>
    have hx := spadWrite_only u x.1.core x.1.off (leBytes n x.2.toNat)
    obtain ⟨honly, hspad⟩ := ih (spadWrite u x.1.core x.1.off (leBytes n x.2.toNat)) fun y hy => by
      obtain ⟨t, ht⟩ := Option.isSome_iff_exists.1 (h y (List.mem_cons_of_mem _ hy))
      obtain ⟨sp, bad, hu⟩ := hx _ t ht
      rw [hu]
      rfl
    refine ⟨hx.trans honly, ?_⟩
    rw [List.foldl_cons, List.foldl_cons, hspad, spadOf_spadWrite (h x List.mem_cons_self)]

/-! ### The other teams -/

theorem meetEntry_sansMemory (s : State) (core ctx : Nat) (e : OttEntry) : (meetEntry s core ctx e).sansMemory = s.sansMemory := by
  unfold meetEntry
  split
  · rfl
  · refine foldl_keeps State.sansMemory _ (fun s r => ?_) _ _
    dsimp only
    split
    · exact meetUpsets_sansMemory ..
    · rfl

/-- Apart from memory and what keeps it, only an acquire changes something: it empties the L1 (R212). -/
theorem beforeEntry_sansMemory (s : State) (core ctx : Nat) (e : OttEntry) :
    (beforeEntry s core ctx e).sansMemory = (if clearsL1 e.ord then l1Clear s core else s).sansMemory := by
  refine (meetEntry_sansMemory ..).trans ?_
  split
  · exact applyAll_sansMemory _
  · rfl

theorem beforeEntry_teams (s : State) (core ctx : Nat) (e : OttEntry) :
    (beforeEntry s core ctx e).teams = (if clearsL1 e.ord then l1Clear s core else s).teams := by
  have h := congrArg State.teams (beforeEntry_sansMemory s core ctx e)
  exact h

theorem spadOf_modTeam {s : State} {core : Nat} {f : Team → Team} (hf : ∀ t, (f t).spad = t.spad) : spadOf (modTeam s core f) = spadOf s := by
  funext k
  unfold spadOf
  by_cases hk : k = core
  · subst hk
    cases ht : tget s.teams k with
    | none => rw [modTeam, ht]; simp [ht]
    | some t => rw [modTeam_get ht]; simp [hf]
  · rw [modTeam_get_ne _ hk]

theorem spadOf_beforeEntry (s : State) (core ctx : Nat) (e : OttEntry) : spadOf (beforeEntry s core ctx e) = spadOf s := by
  unfold spadOf
  rw [beforeEntry_teams]
  split
  · exact spadOf_modTeam (s := s) (fun _ => rfl)
  · rfl

/-! ### The event -/

theorem realEntry_plain {t : Team} {e : OttEntry} (h : e.work ≠ .buffered) : realEntry t e = e := by
  simp [realEntry, h]

theorem finishEntry_spad {s : State} {core : Nat} {e : OttEntry} {t : Team} (ht : tget s.teams core = some t) (hl : e.long = false) :
    spadOf (finishEntry s core e) = spadOf s := by
  funext k
  unfold spadOf
  by_cases hk : k = core
  · subst hk
    obtain ⟨gs, hgs⟩ := finishEntry_posted (e := e) ht hl
    rw [hgs, ht]
    rfl
  · rw [finishEntry_other _ _ hk]

theorem finishPerf_spad {core ctx : Nat} {e : OttEntry} {p : Perf} {t : Team} (ht : tget p.st.teams core = some t) (hleft : p.left = [])
    (hw : p.st.pendInv = [] ∨ ∀ s : State, localWrites s ctx e.work = []) (hl : p.e.long = false) :
    spadOf (finishPerf core ctx e p) = spadOf p.st := by
  obtain ⟨ms, hms⟩ := finishPerf_ends (core := core) hleft hw
  rw [hms]
  exact finishEntry_spad (s := { p.st with marks := ms }) (e := { p.e with work := .inval [] }) ht hl

/-- STS and STX performed: their bytes in the scratchpads, the entry then at its end. -/
theorem performEntry_sstoreLanes (s : State) (core ctx : Nat) {e : OttEntry} {ty : Nat} {ls : List (SAcc × Word)} (hw : e.work = .sstore ty ls) :
    performEntry s core ctx e = finishPerf core ctx e
      ⟨ls.foldl (fun u x => spadWrite u x.1.core x.1.off (leBytes (tyBits ty / 8) x.2.toNat)) (beforeEntry s core ctx e), e, []⟩ := by
  have hfold := (foldl_onState (fun _ => True)
    (fun (p : Perf) (x : SAcc × Word) => { p with st := spadWrite p.st x.1.core x.1.off (leBytes (tyBits ty / 8) x.2.toNat) }) _ e [] ls
    (fun x _ u _ => ⟨rfl, trivial⟩) (beforeEntry s core ctx e) trivial).1
  rw [performEntry_sstore _ _ _ hw, startPerf, hfold]

theorem foldl_spadWrite_mem (n : Nat) (ls : List (SAcc × Word)) (u : State) :
    (ls.foldl (fun u x => spadWrite u x.1.core x.1.off (leBytes n x.2.toNat)) u).mem = u.mem :=
  foldl_keeps State.mem _ (fun _ _ => spadWrite_mem ..) u ls

theorem scratchpadStoresPerformed : Claims.ScratchpadStoresPerformed := by
  intro s t e ty ls ht he hw hl _ hmay hteams
  obtain ⟨l1, ch, hb⟩ := (beforeEntry_kept (core := s.iss.core) s (teamCtx s t) e).team t ht
  have hteams' : ∀ x ∈ ls, (tget (beforeEntry s s.iss.core (teamCtx s t) e).teams x.1.core).isSome = true := fun x hx => by
    rw [beforeEntry_teams]
    split
    · by_cases hk : x.1.core = s.iss.core
      · rw [hk, l1Clear, modTeam_get ht]; rfl
      · rw [l1Clear, modTeam_get_ne _ hk]; exact hteams x hx
    · exact hteams x hx
  obtain ⟨honly, hspad⟩ := spadOf_foldl_spadWrite (tyBits ty / 8) ls _ hteams'
  obtain ⟨sp, bad, hp⟩ := honly _ _ hb
  have hnone (u : State) : localWrites u (teamCtx s t) e.work = [] := by rw [hw]; rfl
  refine ⟨_, (posted_performed ht he hl hmay).trans (by rw [realEntry_plain (by simp [hw])]), fun a => ?_, ?_, fun core => ?_⟩
  all_goals rw [performEntry_sstoreLanes s _ _ hw]
  · rw [finishPerf_mem, foldl_spadWrite_mem, beforeEntry_mem]
  · intro t' ht'
    obtain ⟨gs, hgs⟩ := finishPerf_team (e := e) (p := ⟨_, e, []⟩) hp rfl (.inr hnone) hl
    rw [hgs] at ht'
    obtain rfl := Option.some.inj ht'
    rfl
  · rw [finishPerf_spad (e := e) (p := ⟨_, e, []⟩) hp rfl (.inr hnone) hl]
    exact congrFun (hspad.trans (by rw [spadOf_beforeEntry])) core

end Sys2Proof.Machine

end

section
/-! The write-combining buffer: what a store to a peer's page leaves in it (R217, R224). -/

namespace Sys2Proof.Machine

/-- The entry that a store to a peer's line may combine into: it is not drained (R217). -/
def WcEntry.takes (w : WcEntry) (peer line : Nat) : Bool := w.peer == peer && w.line == line && w.seq.isNone

/-- The byte that the combining buffer holds for an address of a peer. -/
def heldByte (wc : List WcEntry) (peer a : Nat) : Option Byte :=
  (wc.find? (fun w => w.takes peer (a / 128))).bind (fun w => tget w.bytes (a % 128))

/-- The buffer with `put` made on the entry of a peer's line that takes it, or on the new entry `fresh`. -/
def wcPut (wc : List WcEntry) (peer line : Nat) (put : WcEntry → WcEntry) (fresh : WcEntry) : List WcEntry :=
  if wc.any (fun w => w.takes peer line) then wc.map (fun w => if w.takes peer line then put w else w) else wc ++ [put fresh]

section

variable {wc : List WcEntry} {peer line : Nat} {put : WcEntry → WcEntry} {fresh : WcEntry}
  (hput : ∀ w p l, (put w).takes p l = w.takes p l)

include hput

/-- Where an entry takes the line, the buffer is searched as before, and what is found has been put to. -/
theorem find?_wcPut_map (p l : Nat) : (wc.map (fun w => if w.takes peer line then put w else w)).find? (fun w => w.takes p l)
    = (wc.find? (fun w => w.takes p l)).map (fun w => if w.takes peer line then put w else w) := by
  rw [List.find?_map]
  congr 2
  funext w
  simp only [Function.comp]
  split
  · exact hput w p l
  · rfl

theorem find?_wcPut_other (hf : ∀ p l, fresh.takes p l = true → p = peer ∧ l = line) {p l : Nat} (h : ¬ (p = peer ∧ l = line)) :
    (wcPut wc peer line put fresh).find? (fun w => w.takes p l) = wc.find? (fun w => w.takes p l) := by
  have hother (w : WcEntry) (hw : w.takes p l = true) : w.takes peer line = false := by
    by_contra hw'
    simp only [WcEntry.takes, Bool.and_eq_true, beq_iff_eq, Bool.not_eq_false] at hw hw'
    exact h ⟨hw.1.1.symm.trans hw'.1.1, hw.1.2.symm.trans hw'.1.2⟩
  unfold wcPut
  split
  · rw [find?_wcPut_map hput]
    cases hw : wc.find? (fun w => w.takes p l) with
    | none => rfl
    | some w =>
      have ht : w.takes p l = true := by simpa using List.find?_some (p := fun w : WcEntry => w.takes p l) hw
      simp [hother w ht]
  · have hnew : (put fresh).takes p l = false := by
      rw [hput]
      exact Bool.eq_false_iff.2 fun hw => h (hf p l hw)
    simp [List.find?_append, hnew]

theorem find?_wcPut_here (hf : fresh.takes peer line = true) :
    (wcPut wc peer line put fresh).find? (fun w => w.takes peer line)
      = some (put ((wc.find? (fun w => w.takes peer line)).getD fresh)) := by
  unfold wcPut
  split
  next hany =>
    rw [find?_wcPut_map hput]
    obtain ⟨w, hw⟩ := Option.isSome_iff_exists.1 (List.find?_isSome.2 (List.any_eq_true.1 hany))
    have ht : w.takes peer line = true := by simpa using List.find?_some (p := fun w : WcEntry => w.takes peer line) hw
    simp [hw, ht]
  next hany =>
    have hnone : wc.find? (fun w => w.takes peer line) = none := List.find?_eq_none.2 fun w hw ht => hany (List.any_eq_true.2 ⟨w, hw, ht⟩)
    simp [List.find?_append, hnone, hput, hf]

end

/-- A table of bytes after bytes are entered from a place on. -/
theorem tget_enter (bs : List Byte) (o i k : Nat) (m : Tab Byte) :
    tget ((bs.zipIdx i).foldl (fun m b => tset m (o + b.2) b.1) m) k =
      if o + i ≤ k ∧ k < o + i + bs.length then bs[k - (o + i)]? else tget m k := by
  induction bs generalizing i m with
  | nil =>
    rw [if_neg (by simp only [List.length_nil]; omega)]
    rfl
  | cons b r ih =>
    rw [List.zipIdx_cons, List.foldl_cons, ih, tget_tset]
    by_cases hk : k = o + i
    · subst hk
      simp
    · by_cases hin : o + (i + 1) ≤ k ∧ k < o + (i + 1) + r.length
      · rw [if_pos hin, if_pos (by simp only [List.length_cons]; omega), show k - (o + i) = k - (o + (i + 1)) + 1 by omega, List.getElem?_cons_succ]
      · rw [if_neg hin, if_neg hk, if_neg (by simp only [List.length_cons]; omega)]

/-- What a store of bytes puts to the entry that takes it (R217). -/
def mergePut (e : OttEntry) (a : Acc) (pa : Nat) (bs : List Byte) (w : WcEntry) : WcEntry :=
  { w with bytes := (bs.zipIdx).foldl (fun m b => tset m (pa % 128 + b.2) b.1) w.bytes, ctxs := insertNat e.grp w.ctxs,
           hint := e.ord.hint, cp := a.xl.cp, wp := a.xl.wp, tids := (e.tidsOf a.lane).foldl (fun l n => insertNat n l) w.tids,
           vas := w.vas ++ [(e.grp, e.id, a.lane, a.va)] }

/-- A new entry of the combining buffer, that holds nothing yet. -/
def newWc (peer line stamp : Nat) : WcEntry := ⟨peer, line, [], [], none, stamp, none, 0, 0, [], []⟩

theorem newWc_takes {peer line stamp p l : Nat} (h : (newWc peer line stamp).takes p l = true) : p = peer ∧ l = line := by
  simp only [newWc, WcEntry.takes, Option.isNone_none, Bool.and_true, Bool.and_eq_true, beq_iff_eq] at h
  exact ⟨h.1.symm, h.2.symm⟩

/-- A store in the combining buffer: its bytes are held for its addresses, and every other byte as before. -/
theorem heldByte_merge (wc : List WcEntry) (e : OttEntry) (a : Acc) {pa : Nat} {bs : List Byte} (stamp : Nat) (hline : pa % 128 + bs.length ≤ 128)
    (peer b : Nat) :
    heldByte (wcPut wc a.xl.aux (pa / 128) (mergePut e a pa bs) (newWc a.xl.aux (pa / 128) stamp)) peer b =
      if a.xl.aux = peer ∧ pa ≤ b ∧ b < pa + bs.length then bs[b - pa]? else heldByte wc peer b := by
  have hput (w : WcEntry) (p l : Nat) : (mergePut e a pa bs w).takes p l = w.takes p l := rfl
  by_cases h : peer = a.xl.aux ∧ b / 128 = pa / 128
  · obtain ⟨rfl, hb⟩ := h
    unfold heldByte
    rw [hb, find?_wcPut_here hput (by simp [newWc, WcEntry.takes])]
    refine (tget_enter bs (pa % 128) 0 (b % 128) _).trans ?_
    have hkey : (pa % 128 + 0 ≤ b % 128 ∧ b % 128 < pa % 128 + 0 + bs.length) ↔ (a.xl.aux = a.xl.aux ∧ pa ≤ b ∧ b < pa + bs.length) := by omega
    refine if_congr hkey (by rw [show b % 128 - (pa % 128 + 0) = b - pa by omega]) ?_
    cases wc.find? (fun w => w.takes a.xl.aux (pa / 128)) <;> rfl
  · unfold heldByte
    rw [find?_wcPut_other hput (fun _ _ hf => newWc_takes hf) h, if_neg (by omega)]

end Sys2Proof.Machine

end

section
/-! STG to a peer's pages performed: combined, or with release a write of its own (R217, R218, R224, R226, R269). -/

namespace Sys2Proof.Machine

/-! ### What precedes it -/

theorem beforeEntry_peerdead (s : State) (core ctx : Nat) (e : OttEntry) : (beforeEntry s core ctx e).peerdead = s.peerdead := by
  have h : (beforeEntry s core ctx e).peerdead = (if clearsL1 e.ord then l1Clear s core else s).peerdead := by
    have h := congrArg State.peerdead (beforeEntry_sansMemory s core ctx e)
    exact h
  rw [h]
  split
  · exact modTeam_peerdead ..
  · rfl

theorem beforeEntry_reqs (s : State) (core ctx : Nat) (e : OttEntry) : (beforeEntry s core ctx e).reqs = s.reqs := by
  have h : (beforeEntry s core ctx e).reqs = (if clearsL1 e.ord then l1Clear s core else s).reqs := by
    have h := congrArg State.reqs (beforeEntry_sansMemory s core ctx e)
    exact h
  rw [h]
  split
  · exact modTeam_reqs ..
  · rfl

/-! ### Combined stores -/

theorem wcMerge_team {s : State} {core : Nat} {t : Team} (ht : tget s.teams core = some t) (e : OttEntry) (a : Acc) (pa : Nat) (bs : List Byte) :
    ∃ t', tget (wcMerge s core e a pa bs).teams core = some t' ∧ t'.ott = t.ott
      ∧ t'.wc = wcPut t.wc a.xl.aux (pa / 128) (mergePut e a pa bs) (newWc a.xl.aux (pa / 128) s.stamp) := by
  refine ⟨_, modTeam_get (modTeam_get ht _) _, ?_, ?_⟩
  · dsimp only
    split <;> rfl
  · exact apply_ite Team.wc _ _ _

@[simp] theorem wcMerge_peerdead (s : State) (core : Nat) (e : OttEntry) (a : Acc) (pa : Nat) (bs : List Byte) :
    (wcMerge s core e a pa bs).peerdead = s.peerdead := by simp [wcMerge, noteWrote, modThreads]

/-- The lanes of an STG without release to live peers, each in one line. -/
def peerLanes (s : State) (ctx n : Nat) (ls : List (Acc × Word)) : Prop :=
  ∀ x ∈ ls, x.1.xl.mt = 5 ∧ s.peerdead.getLsbD x.1.xl.aux = false ∧ physAddr s ctx x.1.xl x.1.va false % 128 + n ≤ 128

section

variable (s : State) (core ctx n : Nat) (e : OttEntry)

/-- A lane's bytes in the combining buffer. -/
def mergeLane (u : State) (x : Acc × Word) : State :=
  wcMerge u core e x.1 (physAddr s ctx x.1.xl x.1.va false) (leBytes n x.2.toNat)

theorem performStore_peer {ty : Nat} {x : Acc × Word} {u : State} (hr : e.ord.rel = false) (hmt : x.1.xl.mt = 5)
    (hlive : u.peerdead.getLsbD x.1.xl.aux = false) :
    performStore core ctx ty ⟨u, e, []⟩ x.1 x.2 = ⟨mergeLane s core ctx (tyBits ty / 8) e u x, e, []⟩ := by
  have hpa := physAddr_fixed (by omega : x.1.xl.mt ≠ 7) s u ctx x.1.va false
  simp [performStore, hmt, hr, wcStore, hlive, hpa, mergeLane]

theorem foldl_mergeLane_mem (ls : List (Acc × Word)) (u : State) : (ls.foldl (mergeLane s core ctx n e) u).mem = u.mem :=
  foldl_keeps State.mem _ (fun _ _ => wcMerge_mem ..) u ls

theorem foldl_mergeLane_team (ls : List (Acc × Word)) (hl : peerLanes s ctx n ls) {u : State} {t : Team} (ht : tget u.teams core = some t) :
    ∃ t', tget (ls.foldl (mergeLane s core ctx n e) u).teams core = some t' ∧ t'.ott = t.ott
      ∧ ∀ peer b, heldByte t'.wc peer b = overlaid
          (fun x : Acc × Word => x.1.xl.aux = peer ∧ physAddr s ctx x.1.xl x.1.va false ≤ b ∧ b < physAddr s ctx x.1.xl x.1.va false + n)
          (fun x => some (BitVec.ofNat 8 (x.2.toNat / 256 ^ (b - physAddr s ctx x.1.xl x.1.va false)))) (heldByte t.wc peer b) ls := by
  induction ls generalizing u t with
  | nil => exact ⟨t, ht, rfl, fun _ _ => rfl⟩
  | cons x r ih =>
    obtain ⟨t1, ht1, hott1, hwc1⟩ := wcMerge_team ht e x.1 (physAddr s ctx x.1.xl x.1.va false) (leBytes n x.2.toNat)
    obtain ⟨t2, ht2, hott2, hheld⟩ := ih (fun y hy => hl y (List.mem_cons_of_mem _ hy)) ht1
    refine ⟨t2, ht2, hott2.trans hott1, fun peer b => (hheld peer b).trans ?_⟩
    obtain ⟨-, -, hline⟩ := hl x List.mem_cons_self
    rw [hwc1, heldByte_merge _ e x.1 _ (by simpa using hline)]
    unfold overlaid
    rw [List.foldl_cons]
    congr 1
    simp only [leBytes_length]
    split
    next h => exact leBytes_getElem? _ (by omega)
    next => rfl

end

/-- STG to live peers performed without release: its bytes are combined, the entry then at its end. -/
theorem performEntry_combines (s : State) (core ctx : Nat) {e : OttEntry} {ty : Nat} {ls : List (Acc × Word)} (hw : e.work = .store ty ls)
    (hr : e.ord.rel = false) (hl : peerLanes s ctx (tyBits ty / 8) ls) : performEntry s core ctx e = finishPerf core ctx e
      ⟨ls.foldl (mergeLane s core ctx (tyBits ty / 8) e) (beforeEntry s core ctx e), e, []⟩ := by
  have hstep (x : Acc × Word) (hx : x ∈ ls) (u : State) (hu : u.peerdead = s.peerdead) :=
    performStore_peer s core ctx e (ty := ty) (u := u) hr (hl x hx).1 (by rw [hu]; exact (hl x hx).2.1)
  have hfold := (foldl_onState (fun u => u.peerdead = s.peerdead) (fun p x => performStore core ctx ty p x.1 x.2) _ e [] ls
    (fun x hx u hu => ⟨hstep x hx u hu, (wcMerge_peerdead ..).trans hu⟩) (beforeEntry s core ctx e) (beforeEntry_peerdead ..)).1
  rw [performEntry_store _ _ _ hw, startPerf, hfold]
  rfl

theorem localWrites_peer (u : State) {ctx ty : Nat} {w : Work} {ls : List (Acc × Word)} (hw : w = .store ty ls) (h : ∀ x ∈ ls, x.1.xl.mt = 5) :
    localWrites u ctx w = [] := by
  subst hw
  simp only [localWrites, workRanges, List.filter_map, List.map_map, List.map_eq_nil_iff]
  refine List.filter_eq_nil_iff.2 fun x hx => ?_
  simp [spaceOf, h x hx]

/-! ### A release -/

theorem newReq_write (s : State) {r : Req} (hk : r.kind = .write) : ∃ r' out, newReq s r =
    { s with reqs := s.reqs ++ [r'], stamp := s.stamp + 1, out := out } ∧ r'.kind = .write ∧ r'.owner = r.owner ∧ r'.data = r.data := by
  unfold newReq
  split
  · exact ⟨{ r with sends := 0 }, s.out, rfl, hk, rfl, rfl⟩
  · obtain ⟨out, h⟩ := sendTo_only { s with reqs := s.reqs ++ [r], stamp := s.stamp + 1 } r.owner
      (packetOf { s with reqs := s.reqs ++ [r], stamp := s.stamp + 1 } r)
    refine ⟨r, out, ?_, hk, rfl, rfl⟩
    rw [← h, sendReq, hk]

/-- A write at a peer enters the requests, sent or held; its key is what the entry waits for. -/
theorem peerWrite_enters (p : Perf) (core ctx : Nat) (a : Acc) (key : Nat) (data : List (Nat × List Byte)) :
    ∃ r out, peerWrite p core ctx a key data [] =
        { p with st := { p.st with reqs := p.st.reqs ++ [r], stamp := p.st.stamp + 1, out := out }, left := p.left ++ [key] }
      ∧ r.kind = .write ∧ r.owner = a.xl.aux ∧ r.data = data := by
  unfold peerWrite
  dsimp only
  split
  · exact ⟨_, p.st.out, rfl, rfl, rfl, rfl⟩
  · obtain ⟨r, out, h, hr⟩ := newReq_write p.st (r := { Req.base p.st.stamp .write a.xl.aux ctx core p.e.grp p.e.id key p.e.pc a.va
      (physAddr p.st ctx a.xl a.va false) ((data.map (·.2.length)).sum) (incOf p.st ctx a.xl.aux) with
        data := data, cp := policy p.e.ord a.xl, wp := a.xl.wp, pols := [], op := 0 }) rfl
    exact ⟨r, out, by rw [← h]; rfl, hr⟩

/-- An entry with a lane at a peer stays in the table and waits for it (R109). -/
theorem finishPerf_waits (core ctx : Nat) (e : OttEntry) {p : Perf} {k : Nat} (hleft : p.left = [k]) :
    ∃ ms, finishPerf core ctx e p = putEntry { p.st with marks := ms } core { p.e with work := .remote [k] } := by
  obtain ⟨ms, hms⟩ := setMarks_only p.st core ctx e
  refine ⟨ms, ?_⟩
  simp only [finishPerf, hleft, List.isEmpty_cons, Bool.false_eq_true, if_false, settle]
  rw [hms]

/-- STG with release of one lane at a peer: its write enters the requests, and the entry waits for its answer (R218). -/
theorem performEntry_releases (s : State) (core ctx : Nat) {e : OttEntry} {ty : Nat} {x : Acc × Word} (hw : e.work = .store ty [x])
    (hr : e.ord.rel = true) (hmt : x.1.xl.mt = 5) :
    ∃ r stamp out ms, performEntry s core ctx e = putEntry
        { beforeEntry s core ctx e with reqs := s.reqs ++ [r], stamp := stamp, out := out, marks := ms } core { e with work := .remote [x.1.lane] }
      ∧ r.kind = .write ∧ r.owner = x.1.xl.aux
      ∧ r.data = [(physAddr s ctx x.1.xl x.1.va false, leBytes (tyBits ty / 8) x.2.toNat)] := by
  have hpa := physAddr_fixed (by omega : x.1.xl.mt ≠ 7) s (beforeEntry s core ctx e) ctx x.1.va false
  obtain ⟨r, out, hp, hrk, hro, hrd⟩ := peerWrite_enters (startPerf s core ctx e) core ctx x.1 x.1.lane
    [(physAddr s ctx x.1.xl x.1.va false, leBytes (tyBits ty / 8) x.2.toNat)]
  have hsent : performStore core ctx ty (startPerf s core ctx e) x.1 x.2 = peerWrite (startPerf s core ctx e) core ctx x.1 x.1.lane
      [(physAddr s ctx x.1.xl x.1.va false, leBytes (tyBits ty / 8) x.2.toNat)] [] := by
    simp [performStore, startPerf, hmt, hr, hpa]
  have hstore := hsent.trans hp
  obtain ⟨ms, hms⟩ := finishPerf_waits core ctx e (p := performStore core ctx ty (startPerf s core ctx e) x.1 x.2) (k := x.1.lane)
    (by rw [hstore]; rfl)
  refine ⟨r, (beforeEntry s core ctx e).stamp + 1, out, ms, ?_, hrk, hro, hrd⟩
  rw [performEntry_store _ _ _ hw, List.foldl_cons, List.foldl_nil, hms, hstore, ← beforeEntry_reqs s core ctx e]
  rfl

theorem putEntry_team {s : State} {core : Nat} {t : Team} (ht : tget s.teams core = some t) (e : OttEntry) :
    tget (putEntry s core e).teams core = some { t with ott := t.ott.map (fun x => if x.id == e.id then e else x) } := modTeam_get ht _

theorem peerStoresPerformed : Claims.PeerStoresPerformed := by
  intro s t e ty ls ht he hw hl hbad hmay pa n held hh
  obtain ⟨w, hreal⟩ := realEntry_only t e
  have hord : (realEntry t e).ord = e.ord := by rw [hreal]
  have hid : (realEntry t e).id = e.id := by rw [hreal]
  obtain ⟨l1, ch, hb⟩ := (beforeEntry_kept (core := s.iss.core) s (teamCtx s t) (realEntry t e)).team t ht
  have hdone := posted_performed ht he hl hmay
  refine ⟨fun hrel => ?_, fun x hx hrel => ?_⟩
  · obtain ⟨t1, ht1, hott, hheld⟩ := foldl_mergeLane_team s s.iss.core (teamCtx s t) n (realEntry t e) ls hh hb
    rw [performEntry_combines s _ _ hw (hord ▸ hrel) hh] at hdone
    obtain ⟨gs, hgs⟩ := finishPerf_team (e := realEntry t e) (p := ⟨_, realEntry t e, []⟩) ht1 rfl
      (.inr fun u => localWrites_peer u hw fun x hx => (hh x hx).1) (by rw [hreal]; exact hl)
    refine ⟨_, _, hdone, fun a => ?_, fun t' ht' => ?_, hgs, fun peer a hno => ?_, fun pre x post hls a h1 h2 hpost => ?_⟩
    · rw [finishPerf_mem, foldl_mergeLane_mem, beforeEntry_mem]
    · rw [hgs] at ht'
      obtain rfl := Option.some.inj ht'
      rw [← hid]
      exact congrArg _ hott
    · exact (hheld peer a).trans (overlaid_none _ _ _ fun x hx hc => hno x hx hc.1 hc.2)
    · refine (hheld x.1.xl.aux a).trans ?_
      rw [hls]
      exact overlaid_last _ _ _ ⟨rfl, h1, h2⟩ fun y hy hc => hpost y hy hc.1 hc.2
  · subst hx
    obtain ⟨r, stamp, out, ms, hperf, hrk, hro, hrd⟩ := performEntry_releases s s.iss.core (teamCtx s t) hw (hord ▸ hrel) (hh x List.mem_cons_self).1
    have hteam := putEntry_team (s := { beforeEntry s s.iss.core (teamCtx s t) (realEntry t e) with
      reqs := s.reqs ++ [r], stamp := stamp, out := out, marks := ms }) hb { realEntry t e with work := .remote [x.1.lane] }
    refine ⟨_, r, _, hdone.trans (by rw [hperf]), fun a => ?_, modTeam_reqs .., hrk, hro, hrd, hteam, rfl,
      { realEntry t e with work := .remote [x.1.lane] }, ?_, hid, rfl⟩
    · rw [putEntry_mem]
      exact congrArg (memByte · a) (beforeEntry_mem ..)
    · exact List.mem_map.2 ⟨e, List.mem_of_find?_eq_some he, if_pos (by simp [hid])⟩

/-- Settles O23: a performed store leaves its bytes and no other, at home, at a peer, in a scratchpad and by blocks. -/
theorem storesPerformed : Obligations.StoresPerformed :=
  ⟨globalStoresPerformed, peerStoresPerformed, scratchpadStoresPerformed, blockStoresPerformed⟩

end Sys2Proof.Machine

end

section
/-! BRA, BRX, CALL, CALLX and RET: where their lanes go, the link, and an odd target (R121, R123). -/

namespace Sys2Proof.Machine

/-- Of ascending lanes the first with a property is the lowest. -/
theorem find?_lowest {ls : List Nat} (hs : ls.Pairwise (· < ·)) {p : Nat → Bool} {l : Nat} (hl : l ∈ ls) (hp : p l = true)
    (hlow : ∀ k ∈ ls, k < l → p k = false) : ls.find? p = some l := by
  obtain ⟨pre, post, rfl⟩ := List.append_of_mem hl
  refine List.find?_eq_some_iff_append.2 ⟨hp, pre, post, rfl, fun k hk => ?_⟩
  have hkl : k < l := (List.pairwise_append.1 hs).2.2 k hk l (by simp)
  simp [hlow k (by simp [hk]) hkl]

/-- The enabled lanes with where each goes. -/
def Ic.targets (c : Ic) (f : Nat → Word) : List (Nat × Word) := c.en.map (fun l => (l, f l))

/-- The issuing group after a taken BRA or BRX: the loop stacks by the rule of R119. -/
def Ic.branched (c : Ic) (f : Nat → Word) : Group :=
  c.g.mapLanes (fun l x => if c.en.contains l then { x with loops := popLoops x.loops (f l) } else x)

/-- The issuing group with the link written. -/
def Ic.linked (c : Ic) : Group := (if isV c.w.d then c.en else [0]).foldl (fun g l => g.writeReg l c.w.d c.next) c.g

theorem targets_even {c : Ic} {f : Nat → Word} (heven : ∀ l ∈ c.en, (f l).getLsbD 0 = false) :
    (c.targets f).find? (fun x => x.2.getLsbD 0) = none := by
  rw [Ic.targets, List.find?_map, Option.map_eq_none_iff]
  exact List.find?_eq_none.2 fun l hl => Bool.eq_false_iff.1 (heven l hl)

section

variable {i : Instr} {s : State} {w : LongWord} {sh : Shape} {c : Ic} (h : offer s w sh {} = .ok c)

include h

theorem takeBranch_with (f : Nat → Word) : takeBranch c.s c.core c.grp (c.targets f) = c.with (c.branched f) := by
  have o := offer_ok h
  have hnd : c.en.Nodup := (offer_en_sorted h).imp Nat.ne_of_lt
  rw [Ic.branched, ← foldl_modLane_eq_mapLanes (fun l x => { x with loops := popLoops x.loops (f l) }) hnd, takeBranch,
    modGroup_with o.team o.group, Ic.targets, List.foldl_map]

theorem writeLink_with : writeLink c c.s = c.with c.linked := modGroup_with (offer_ok h).team (offer_ok h).group _

/-- The link is the address after the instruction, in every enabled lane or in the one s-register (R123). -/
theorem linked_writes : GroupWrites c.g c.linked (vWrite w.d c.en (fun _ => c.next)) (sWrite w.d c.next) noWrite := by
  have o := offer_ok h
  rw [Ic.linked, o.word]
  cases hv : isV w.d
  · exact (groupWrites_foldS w.d hv (fun _ => c.next) c.g).congr (fun _ _ => by simp [vWrite, hv, noWrite]) (fun _ => rfl) (fun _ _ => rfl)
  · exact (groupWrites_foldV w.d hv (fun _ => c.next) c.en c.g fun l hl => o.width l (o.lanes.2.1 l hl)).congr
      (fun _ _ => rfl) (fun _ => by simp [sWrite, hv]) (fun _ _ => rfl)

/-- An instruction whose body leaves the state as it is and sends lanes away completes with that (R121). -/
theorem unchanged_completes {ts : List (Nat × Word)} (body : Ic → Except Stop Eff) (he : exec i s = issue s w sh {} body)
    (hb : body c = .ok { st := c.s, xfer := ts }) : Completes i s (c.retires ts c.g) := by
  have o := offer_ok h
  refine ⟨_, he.trans ((issue_ok h body).trans ?_), rfl, with_mem c _⟩
  simp [hb, with_self o.team o.group, o.word]

/-! ### Relative transfers -/

theorem jumpRel_branches (he : exec i s = jumpRel w sh false s) :
    Completes i s (c.retires (c.targets fun _ => relTarget c.pc (litInt w)) (c.branched fun _ => relTarget c.pc (litInt w))) :=
  transfer_completes h _ he (by rw [← takeBranch_with h]; rfl) fun _ => rfl

theorem jumpRel_links (he : exec i s = jumpRel w sh true s) :
    Completes i s (c.retires (c.targets fun _ => relTarget c.pc (litInt w)) c.linked) :=
  transfer_completes h _ he (by rw [← writeLink_with h]; rfl) fun _ => rfl

/-! ### Register transfers -/

/-- The lowest enabled lane whose target is odd raises EALIGN, and no lane transfers (R123). -/
theorem jumpReg_odd {link loops : Bool} (he : exec i s = jumpReg w sh link loops s) {l : Nat} (hl : l ∈ c.en)
    (hodd : (c.rd l w.a).getLsbD 0 = true) (hlow : ∀ k ∈ c.en, k < l → (c.rd k w.a).getLsbD 0 = false) :
    exec i s = .next (takeTrap c.s c.core c.grp ⟨0x03, c.rd l w.a, 0⟩ c.pc c.pc false false c.act) := by
  have hfind : (c.targets fun l => c.rd l w.a).find? (fun x => x.2.getLsbD 0) = some (l, c.rd l w.a) := by
    rw [Ic.targets, List.find?_map]
    exact congrArg (Option.map _) (find?_lowest (offer_en_sorted h) hl hodd hlow)
  refine he.trans ((issue_ok h _).trans ?_)
  simp only [← Ic.targets.eq_1, hfind, stopState]

variable (heven : ∀ l ∈ c.en, (c.rd l w.a).getLsbD 0 = false)

include heven

theorem jumpReg_branches (he : exec i s = jumpReg w sh false true s) :
    Completes i s (c.retires (c.targets fun l => c.rd l w.a) (c.branched fun l => c.rd l w.a)) :=
  transfer_completes h _ he (by
    simp only [← Ic.targets.eq_1, targets_even heven, ← takeBranch_with h]; rfl) fun _ => rfl

theorem jumpReg_links (he : exec i s = jumpReg w sh true false s) :
    Completes i s (c.retires (c.targets fun l => c.rd l w.a) c.linked) :=
  transfer_completes h _ he (by simp only [← Ic.targets.eq_1, targets_even heven, ← writeLink_with h]; rfl) fun _ => rfl

theorem jumpReg_goes (he : exec i s = jumpReg w sh false false s) : Completes i s (c.retires (c.targets fun l => c.rd l w.a) c.g) :=
  unchanged_completes h _ he (by simp only [← Ic.targets.eq_1, targets_even heven]; rfl)

end

theorem Completes.imp {i : Instr} {s : State} {P Q : State → Prop} (h : Completes i s P) (hpq : ∀ t, P t → Q t) : Completes i s Q := by
  obtain ⟨t, he, hp⟩ := h
  exact ⟨t, he, hpq t hp⟩

/-- Settles O11: the relative transfers by one body, the register transfers by another, each with its branch rule or its link. -/
theorem transfers : Obligations.Transfers := by
  refine ⟨?_, ?_, ?_, ?_, ?_, ?_, ?_, ?_, ?_, ?_⟩
  · exact fun w s c h => jumpRel_branches (i := .bra w) h rfl
  · exact fun w s c h => jumpRel_branches (i := .braB w) h rfl
  · exact fun w s c h => (jumpRel_links (i := .call w) h rfl).imp fun _ ht => ⟨_, linked_writes h, ht⟩
  · exact fun w s c h => (jumpRel_links (i := .callB w) h rfl).imp fun _ ht => ⟨_, linked_writes h, ht⟩
  · exact fun w s c h heven => jumpReg_branches (i := .brx w) h heven rfl
  · exact fun w s c h heven => jumpReg_goes (i := .ret w) h heven rfl
  · exact fun w s c h heven => (jumpReg_links (i := .callx w) h heven rfl).imp fun _ ht => ⟨_, linked_writes h, ht⟩
  · exact fun w s c l h => jumpReg_odd (i := .brx w) h rfl
  · exact fun w s c l h => jumpReg_odd (i := .ret w) h rfl
  · exact fun w s c l h => jumpReg_odd (i := .callx w) h rfl

end Sys2Proof.Machine

end

section
/-! NOP and TRAP (R122, R132). -/

namespace Sys2Proof.Machine

/-! ### NOP -/

theorem ite_some_eq_none {α : Type} {p : Prop} [Decidable p] {a : α} {x : Option α} :
    (if p then some a else x) = none ↔ ¬ p ∧ x = none := by split <;> simp [*]

/-- A word that passes the checks of a W form with no operand has no field set (Table 5.11). -/
theorem fields_zero_of_decode {w : LongWord} {n : Nat} (h : decodeFail (shapeW w) w n = none) :
    w.lit = none ∧ w.sub6 = 0 ∧ w.m6 = 0 ∧ w.d = 0 ∧ w.a = 0 ∧ w.b = 0 ∧ w.c = 0 := by
  unfold decodeFail shapeW layoutZ at h
  simp only [ite_some_eq_none] at h
  obtain ⟨hform, hsub, hm, -, hfields, -⟩ := h
  simp_all

/-- A NOP with any other field set is no instruction (R122). -/
theorem nop_illegal {w : LongWord} {s : State} {t : Team} {g : Group} (ht : tget s.teams s.iss.core = some t)
    (hg : tget t.groups s.iss.grp = some g) (hact : activeLanes g s.iss.pc ≠ [])
    (hset : w.lit ≠ none ∨ w.sub6 ≠ 0 ∨ w.m6 ≠ 0 ∨ w.d ≠ 0 ∨ w.a ≠ 0 ∨ w.b ≠ 0 ∨ w.c ≠ 0) :
    ∃ n, exec (.nop w) s =
      .next (takeTrap s s.iss.core s.iss.grp (eill n s.iss.d16) s.iss.pc s.iss.pc false false (activeLanes g s.iss.pc)) := by
  have he : exec (.nop w) s = execNop w s := rfl
  cases hd : decodeFail (shapeW w) w (recVregs (recOf s t)) with
  | none =>
    obtain ⟨hl, hsub, hm, hd, ha, hb, hc⟩ := fields_zero_of_decode hd
    simp [hl, hsub, hm, hd, ha, hb, hc] at hset
  | some n => exact ⟨n, he.trans (issue_stopped (offer_illegal (k := {}) ht hg hact hd) _)⟩

/-- Settles O13: a body that leaves the state as it is, the two words by the decoder, and a set field by the checks of Table 5.11. -/
theorem nopOnlyAdvances : Obligations.NopOnlyAdvances := by
  refine ⟨fun w s c h => unchanged_completes (i := .nop w) h (fun c => .ok { st := c.s }) rfl rfl, ?_, ?_, fun w s t g => nop_illegal⟩
  all_goals decide

/-! ### TRAP -/

/-- TRAP with a lane enabled is counted and raises ESW, to be resumed after it (R132). -/
theorem trap_raises {w : LongWord} {s : State} {c : Ic} (h : offer s w { shapeW w with form := true } {} = .ok c) :
    exec (.trap w) s =
      .next (takeTrap (c.with { c.g with lc := c.g.lc + 1 }) c.core c.grp ⟨0x11, 0, word (litNat w)⟩ c.next c.next false false c.act) := by
  have o := offer_ok h
  have he : exec (.trap w) s = execTrap w s := rfl
  refine he.trans ((issue_ok h _).trans ?_)
  simp only [stopState, modGroup_with o.team o.group]

theorem litNat_lt (w : LongWord) : litNat w < 2 ^ 32 := (w.lit.getD 0#32).isLt

theorem toNat_word_litNat (w : LongWord) : (word (litNat w)).toNat = litNat w :=
  (BitVec.toNat_ofNat ..).trans (Nat.mod_eq_of_lt ((litNat_lt w).trans (by decide)))

/-- Settles O15: the trap by its stop, which counts the instruction, and with no lane enabled the retirement of any instruction. -/
theorem softwareTrap : Obligations.SoftwareTrap := by
  refine fun w s => ⟨fun c h => ⟨trap_raises h, toNat_word_litNat w, litNat_lt w⟩, ?_⟩
  intro t g ht hg c hact hen hdec
  obtain ⟨-, -, hoff, -⟩ := guardedOff
  obtain ⟨u, hu, rfl, -⟩ := hoff s w _ {} (fun _ => .error (.software ⟨0x11, 0, word (litNat w)⟩)) t g ht hg rfl hact hen hdec
  exact hu

end Sys2Proof.Machine

end

section
/-! The threads that leave a group: what follows lets no group come and no thread live again (R115, R129, R311, R382). -/

namespace Sys2Proof.Machine

/-! ### No group comes, and no thread lives again -/

/-- A relation that each step of a fold keeps holds from its start to its end. -/
theorem foldl_related {σ α : Type} {R : σ → σ → Prop} (hrefl : ∀ s, R s s) (htrans : ∀ {a b c}, R a b → R b c → R a c) {f : σ → α → σ}
    (h : ∀ s a, R s (f s a)) (l : List α) (s : σ) : R s (l.foldl f s) :=
  List.foldlRecOn l f (hrefl s) fun _ hs a _ => htrans hs (h _ a)

/-- Every lane that holds a live thread in `g'` holds one in `g`. -/
def Group.OnlyLeave (g g' : Group) : Prop := ∀ l, (g'.lane l).live = true → (g.lane l).live = true

/-- Every group of `t'` is one of `t` that threads have only left. -/
def Team.OnlyLeave (t t' : Team) : Prop := ∀ n g', tget t'.groups n = some g' → ∃ g, tget t.groups n = some g ∧ g.OnlyLeave g'

/-- Every group of every team of `u` is one of `s` that threads have only left. -/
def State.OnlyLeave (s u : State) : Prop := ∀ core t', tget u.teams core = some t' → ∃ t, tget s.teams core = some t ∧ t.OnlyLeave t'

/-! ### Groups -/

namespace Group.OnlyLeave

theorem refl (g : Group) : g.OnlyLeave g := fun _ => id

theorem trans {g g' g'' : Group} (h : g.OnlyLeave g') (h' : g'.OnlyLeave g'') : g.OnlyLeave g'' := fun l => h l ∘ h' l

theorem of_threads {g g' : Group} (h : g'.threads = g.threads) : g.OnlyLeave g' := fun l => by simp [Group.lane, h]

/-- Lane by lane. -/
theorem of_getElem? {g g' : Group}
    (h : ∀ (l : Nat) (x' : Thread), g'.threads[l]? = some x' → x'.live = true → ∃ x, g.threads[l]? = some x ∧ x.live = true) :
    g.OnlyLeave g' := fun l hl => by
  simp only [Group.lane, List.getD_eq_getElem?_getD] at hl ⊢
  cases hx' : g'.threads[l]? with
  | none =>
    rw [hx'] at hl
    cases hl
  | some x' =>
    rw [hx'] at hl
    obtain ⟨x, hx, hlive⟩ := h l x' hx' hl
    rwa [hx]

theorem modLane {f : Thread → Thread} (hf : ∀ x, (f x).live = true → x.live = true) (g : Group) (l : Nat) : g.OnlyLeave (g.modLane l f) :=
  of_getElem? fun k x' hx' hlive => by
    simp only [Group.modLane, List.getElem?_modify, Option.map_eq_map, Option.map_eq_some_iff] at hx'
    obtain ⟨x, hx, rfl⟩ := hx'
    refine ⟨x, hx, ?_⟩
    split at hlive
    · exact hf x hlive
    · exact hlive

theorem dropLane (g : Group) (l : Nat) : g.OnlyLeave (g.dropLane l) :=
  (modLane (fun _ h => Bool.noConfusion h) g l).trans (of_threads rfl)

theorem mapThreads {f : Thread → Thread} (hf : ∀ x, (f x).live = x.live) (g : Group) :
    g.OnlyLeave { g with threads := g.threads.map f } :=
  of_getElem? fun l x' hx' hlive => by
    simp only [List.getElem?_map, Option.map_eq_some_iff] at hx'
    obtain ⟨x, hx, rfl⟩ := hx'
    exact ⟨x, hx, (hf x).symm.trans hlive⟩

theorem zipThreads {f : Thread → Thread → Thread} (hf : ∀ x y, (f x y).live = y.live) (g : Group) (xs : List Thread) :
    g.OnlyLeave { g with threads := List.zipWith f xs g.threads } :=
  of_getElem? fun l x' hx' hlive => by
    obtain ⟨x, y, -, hy, rfl⟩ := List.getElem?_zipWith_eq_some.1 hx'
    exact ⟨y, hy, (hf x y).symm.trans hlive⟩

theorem retireGroup (pc next : Word) (act : List Nat) (xfer : List (Nat × Word)) (park : Bool) (g : Group) :
    g.OnlyLeave (retireGroup pc next act xfer park g) :=
  (foldl_related refl trans (fun g l => modLane (fun x h => by split at h <;> exact h) g l) act g).trans (of_threads rfl)

end Group.OnlyLeave

/-! ### Teams -/

theorem release_live (x : Thread) (h : Held) : (x.release h).live = x.live := by
  unfold Thread.release
  split <;> rfl

namespace Team.OnlyLeave

theorem refl (t : Team) : t.OnlyLeave t := fun _ g hg => ⟨g, hg, .refl g⟩

theorem trans {t t' t'' : Team} (h : t.OnlyLeave t') (h' : t'.OnlyLeave t'') : t.OnlyLeave t'' := fun n g'' hg'' => by
  obtain ⟨g', hg', hlater⟩ := h' n g'' hg''
  obtain ⟨g, hg, hfirst⟩ := h n g' hg'
  exact ⟨g, hg, hfirst.trans hlater⟩

theorem of_groups {t t' : Team} (h : t'.groups = t.groups) : t.OnlyLeave t' := fun _ g hg => ⟨g, h ▸ hg, .refl g⟩

theorem modGroup {f : Group → Group} (hf : ∀ g : Group, g.OnlyLeave (f g)) (t : Team) (n : Nat) : t.OnlyLeave (t.modGroup n f) := by
  unfold Team.modGroup
  split
  · rename_i g hg
    intro k g' hg'
    simp only [tget_tset] at hg'
    split at hg'
    · subst k
      obtain rfl := Option.some.inj hg'
      exact ⟨g, hg, hf g⟩
    · exact ⟨g', hg', .refl g'⟩
  · exact refl t

theorem tdelGroup (t : Team) (n : Nat) : t.OnlyLeave { t with groups := tdel t.groups n } := fun k g' hg' => by
  simp only [tget_tdel] at hg'
  split at hg'
  · cases hg'
  · exact ⟨g', hg', .refl g'⟩

theorem fileLane (stamp grp : Nat) (t : Team) (l : Nat) : t.OnlyLeave (t.fileLane stamp grp l) := by
  unfold Team.fileLane
  split
  · exact refl t
  split
  · exact (of_groups rfl).trans (modGroup (fun g => .dropLane g l) _ grp)
  · exact modGroup (fun g => .modLane (fun _ hx => by exact hx) g l) t grp

theorem fileLanes (stamp grp : Nat) (lanes : List Nat) (t : Team) : t.OnlyLeave (t.fileLanes stamp grp lanes) := by
  have hfiled : t.OnlyLeave (lanes.foldl (Team.fileLane stamp grp) t) := foldl_related refl trans (fileLane stamp grp) lanes t
  unfold Team.fileLanes
  dsimp only
  split
  · split
    · exact hfiled.trans (tdelGroup _ grp)
    · exact hfiled
  · exact hfiled

theorem refile (stamp : Nat) (t : Team) : t.OnlyLeave (t.refile stamp) :=
  foldl_related refl trans (fun t e => by
    split
    · exact refl t
    · exact fileLanes stamp e.1 _ t) t.groups t

theorem refileIf {t t' : Team} (h : t.OnlyLeave t') (full : Bool) (stamp : Nat) :
    t.OnlyLeave (if full then t'.refile stamp else t') := by
  split
  · exact h.trans (refile stamp t')
  · exact h

/-- The end of a wait changes what holds its threads, whatever else `f` makes of a group that threads may only leave. -/
theorem endWait {f : Group → Group} (hf : ∀ g : Group, g.OnlyLeave (f g)) (t : Team) (h : Held) (stamp : Nat)
    (k : Thread × Word × Word → Thread × Word × Word) : t.OnlyLeave (t.endWait h stamp f k) := by
  unfold Team.endWait
  refine refileIf (fun n g' hg' => ?_) _ stamp
  simp only [tget_tmap, Option.map_eq_some_iff] at hg'
  obtain ⟨g, hg, rfl⟩ := hg'
  refine ⟨g, hg, ?_⟩
  split
  · exact (hf g).trans (.zipThreads (fun x y => by split <;> rfl) (f g) g.threads)
  · exact .refl g

theorem releaseHeld (t : Team) (h : Held) (stamp : Nat) : t.OnlyLeave (releaseHeld t h stamp) := by
  refine endWait (fun g => ?_) t h stamp _
  exact (Group.OnlyLeave.mapThreads (fun x => release_live x h) g).trans (.of_threads rfl)

end Team.OnlyLeave

/-! ### The package -/

namespace State.OnlyLeave

theorem refl (s : State) : s.OnlyLeave s := fun _ t ht => ⟨t, ht, .refl t⟩

theorem trans {s u v : State} (h : s.OnlyLeave u) (h' : u.OnlyLeave v) : s.OnlyLeave v := fun core t'' ht'' => by
  obtain ⟨t', ht', hlater⟩ := h' core t'' ht''
  obtain ⟨t, ht, hfirst⟩ := h core t' ht'
  exact ⟨t, ht, hfirst.trans hlater⟩

theorem of_teams {s u : State} (h : u.teams = s.teams) : s.OnlyLeave u := fun _ t ht => ⟨t, h ▸ ht, .refl t⟩

theorem modTeam {f : Team → Team} (hf : ∀ t : Team, t.OnlyLeave (f t)) (s : State) (core : Nat) : s.OnlyLeave (modTeam s core f) := by
  unfold Machine.modTeam
  split
  · rename_i t ht
    intro k t' ht'
    simp only [setTeam_teams, tget_tset] at ht'
    split at ht'
    · subst k
      obtain rfl := Option.some.inj ht'
      exact ⟨t, ht, hf t⟩
    · exact ⟨t', ht', .refl t'⟩
  · exact refl s

/-- A group of the later package is one of the earlier that threads have only left. -/
theorem group {s u : State} (h : s.OnlyLeave u) {core n : Nat} {g' : Group} (hg' : groupAt u core n = some g') :
    ∃ g, groupAt s core n = some g ∧ g.OnlyLeave g' := by
  obtain ⟨t', ht', hget⟩ := Option.bind_eq_some_iff.1 hg'
  obtain ⟨t, ht, hteam⟩ := h core t' ht'
  obtain ⟨g, hg, hleave⟩ := hteam n g' hget
  exact ⟨g, groupAt_eq ht hg, hleave⟩

theorem retire (s : State) (core grp : Nat) (pc next : Word) (act : List Nat) (xfer : List (Nat × Word)) (park : Bool) :
    s.OnlyLeave (retire s core grp pc next act xfer park) :=
  modTeam (fun t => .modGroup (fun g => .retireGroup pc next act xfer park g) t grp) s core

theorem fileLanes (s : State) (core grp : Nat) (lanes : List Nat) : s.OnlyLeave (fileLanes s core grp lanes) :=
  (of_teams rfl).trans (modTeam (fun t => .fileLanes s.stamp grp lanes t) _ core)

theorem fileHeld (s : State) (core grp : Nat) : s.OnlyLeave (fileHeld s core grp) := by
  unfold Machine.fileHeld
  split
  · split
    · exact fileLanes s core grp _
    · exact refl s
  · exact refl s

theorem completeBarriers (s : State) (core : Nat) : s.OnlyLeave (completeBarriers s core) := by
  unfold Machine.completeBarriers
  split
  · exact refl s
  refine (foldl_related refl trans (fun s i => modTeam (fun t => ?_) s core) (List.range 16) s).trans
    (foldl_related refl trans (fun s i => ?_) (List.range 4) _)
  · split
    · exact .releaseHeld t _ _
    · exact .refl t
  · dsimp only
    split
    · refine foldl_related refl trans (fun s c => modTeam (fun x => ?_) s c) _ s
      split
      · exact (Team.OnlyLeave.releaseHeld x _ _).trans (.of_groups rfl)
      · exact .refl x
    · exact refl s

theorem closeCpyg (s : State) (c : Channel) (done : Bool) : s.OnlyLeave (closeCpyg s c done) := of_teams <| by
  unfold Machine.closeCpyg
  (repeat' split) <;> simp

theorem cancelChan (s : State) (core k : Nat) (c : Channel) : s.OnlyLeave (cancelChan s core k c) := by
  unfold Machine.cancelChan
  split
  · exact refl s
  · refine (closeCpyg s c false).trans ((of_teams (u := dropChanReads _ core k) rfl).trans (modTeam (fun t => ?_) _ core))
    exact .of_groups rfl

theorem beginEnd (s : State) (core : Nat) : s.OnlyLeave (beginEnd s core) := by
  unfold Machine.beginEnd
  split
  · exact refl s
  split
  · exact refl s
  · refine (foldl_related refl trans (fun s x => cancelChan s core x.2 x.1) (List.zipIdx _) s).trans (modTeam (fun t => ?_) _ core)
    exact .of_groups rfl

end State.OnlyLeave

end Sys2Proof.Machine

end

section
/-! EXIT (R129). -/

namespace Sys2Proof.Machine

/-! ### The threads that leave -/

/-- The group with the threads of some lanes out of the live set. -/
def Group.ended (g : Group) (lanes : List Nat) : Group := lanes.foldl (fun g l => g.modLane l (fun t => { t with live := false, loops := [] })) g

/-- The team without a group's context when no thread of it is live. -/
def Team.freed (t : Team) (grp : Nat) : Team :=
  match tget t.groups grp with
  | some g => if (liveLanes g).isEmpty then { t with groups := tdel t.groups grp } else t
  | none => t

theorem ended_lane_live {lanes : List Nat} (hnd : lanes.Nodup) (g : Group) (l : Nat) :
    ((g.ended lanes).lane l).live = true ↔ (g.lane l).live = true ∧ l ∉ lanes := by
  rw [Group.ended, foldl_modLane_eq_mapLanes (fun _ t => { t with live := false, loops := [] }) hnd]
  simp only [Group.mapLanes, Group.lane, List.getD_eq_getElem?_getD, List.getElem?_mapIdx]
  cases g.threads[l]? with
  | none => simp [Thread.empty]
  | some x => by_cases hl : l ∈ lanes <;> simp [hl]

theorem lt_of_live {g : Group} {l : Nat} (h : (g.lane l).live = true) : l < g.threads.length := by
  by_contra hl
  rw [lane_out g l (Nat.le_of_not_lt hl)] at h
  cases h

theorem mem_liveLanes {g : Group} {l : Nat} : l ∈ liveLanes g ↔ (g.lane l).live = true := by
  simpa [liveLanes, laneList] using lt_of_live

/-- The end of threads is their leaving the live set, the freeing of an empty context, and what only lets threads leave. -/
theorem endThreads_onlyLeave (s : State) (core grp : Nat) (lanes : List Nat) :
    (modTeam (modGroup s core grp (fun g => g.ended lanes)) core (fun t => t.freed grp)).OnlyLeave (endThreads s core grp lanes) := by
  refine ((State.OnlyLeave.fileHeld _ core grp).trans (.completeBarriers _ core)).trans ?_
  unfold endThreads
  dsimp only
  split
  · split
    · exact .beginEnd _ core
    · exact .refl _
  · exact .refl _

theorem groupAt_freed (c : Ic) (g : Group) :
    groupAt (modTeam (c.with g) c.core (fun t => t.freed c.grp)) c.core c.grp = if (liveLanes g).isEmpty then none else some g := by
  rw [Ic.with, modTeam_eq (setTeam_get ..), groupAt_setTeam]
  simp only [Team.freed, tget_tset_self]
  split
  · simp [tget_tdel]
  · simp

section

variable {s : State} {w : LongWord} {sh : Shape} {k : Issue} {c : Ic} (h : offer s w sh k = .ok c)

include h

/-- A group of the package after the end of the enabled threads has those of its threads that were live and not enabled. -/
theorem endThreads_group {pc next : Word} {act : List Nat} {xfer : List (Nat × Word)} {park : Bool} {g : Group}
    (hg : groupAt (retire (endThreads c.s c.core c.grp c.en) c.core c.grp pc next act xfer park) c.core c.grp = some g) :
    liveLanes (c.g.ended c.en) ≠ [] ∧ (c.g.ended c.en).OnlyLeave g := by
  have o := offer_ok h
  have hleave := (endThreads_onlyLeave c.s c.core c.grp c.en).trans (.retire _ c.core c.grp pc next act xfer park)
  rw [modGroup_with o.team o.group] at hleave
  obtain ⟨g', hg', hgone⟩ := hleave.group hg
  rw [groupAt_freed] at hg'
  split at hg'
  · cases hg'
  · rename_i hlive
    obtain rfl := Option.some.inj hg'
    exact ⟨by simpa using hlive, hgone⟩

end

/-! ### The instruction -/

/-- The issue of EXIT. -/
def exitIssue : Issue := { blocking := true, tx := some 2 }

theorem offer_iss {s : State} {w : LongWord} {sh : Shape} {k : Issue} {c : Ic} (h : offer s w sh k = .ok c) : c.s.iss = s.iss := by
  obtain ⟨t, g, rfl | rfl⟩ := offer_context h
  · rfl
  · unfold Ic.atPark
    dsimp only
    (repeat' split) <;> simp [issueIc]

section

variable {w : LongWord} {s : State} {c : Ic} (h : offer s w (shapeW w) exitIssue = .ok c)

include h

/-- With an entry outstanding EXIT waits (R129). -/
theorem exit_waits (hd : drained c.t c.grp = false) :
    exec (.exit w) s = .next (c.with { c.g with status := .blocked .exit w c.len s.iss.d16, stall := none }) := by
  have o := offer_ok h
  have he : exec (.exit w) s = execExit w s := rfl
  refine he.trans ((issue_ok h _).trans ?_)
  simp only [exitBody, hd, Bool.not_false, if_true, stopState, modGroup_with o.team o.group, o.word, offer_iss h]

variable (hd : drained c.t c.grp = true)

include hd

/-- A latched error is raised, and no thread exits (R129). -/
theorem exit_raises {x : TrapInfo} (hx : latchedTrap c.g = some x) :
    exec (.exit w) s = .next (takeTrap (c.with { c.g with lc := c.g.lc + 1 }) c.core c.grp x c.pc c.pc false true c.act) := by
  have o := offer_ok h
  have he : exec (.exit w) s = execExit w s := rfl
  refine he.trans ((issue_ok h _).trans ?_)
  simp only [exitBody, hd, Bool.not_true, Bool.false_eq_true, if_false, hx, stopState, modGroup_with o.team o.group]

theorem exit_ends (hx : latchedTrap c.g = none) :
    exec (.exit w) s = .next (retire (endThreads c.s c.core c.grp c.en) c.core c.grp c.pc c.next c.act [] false) := by
  have he : exec (.exit w) s = execExit w s := rfl
  refine he.trans ((issue_ok h _).trans ?_)
  simp [exitBody, hd, hx, exitIssue]

end

theorem exitEndsThreads : Claims.ExitEndsThreads := by
  refine fun w s c h => ⟨fun hd hx => ⟨_, exit_ends h hd hx, rfl, fun a => ?_, ?_⟩, fun x hd hx => exit_raises h hd hx, exit_waits h⟩
  · rw [retire_mem, endThreads_mem, offer_mem h]
  have hlane (l : Nat) : ((c.g.ended c.en).lane l).live = true ↔ (c.g.lane l).live = true ∧ l ∉ c.en :=
    ended_lane_live ((offer_en_sorted h).imp Nat.ne_of_lt) c.g l
  refine ⟨fun g hg l hl => ?_, fun hall => ?_⟩
  · obtain ⟨-, hgone⟩ := endThreads_group h hg
    exact Bool.eq_false_iff.2 fun hlive => ((hlane l).1 (hgone l hlive)).2 hl
  · refine Option.eq_none_iff_forall_ne_some.2 fun g hg => ?_
    obtain ⟨hsome, -⟩ := endThreads_group h hg
    obtain ⟨l, hl⟩ := List.exists_mem_of_ne_nil _ hsome
    obtain ⟨hlive, hnot⟩ := (hlane l).1 (mem_liveLanes.1 hl)
    exact hnot (hall l (lt_of_live hlive) hlive)

end Sys2Proof.Machine

end

section
/-! YIELD, SETPRIO, LAUNCH and REFORM (R128, R131, R133, R139). -/

namespace Sys2Proof.Machine

section

variable {w : LongWord} {s : State} {c : Ic}

/-- YIELD marks the retired group with the groups that it lets go first (R131). -/
theorem yield_completes (h : offer s w (shapeW w) {} = .ok c) :
    Completes (.yield w) s (fun t =>
      t = c.with { retireGroup c.pc c.next c.act [] w.s c.g with yielded := if (yieldsTo c).isEmpty then none else some (yieldsTo c) }
        ∧ SameMemory s t) := by
  have o := offer_ok h
  have he : exec (.yield w) s = execYield w s := rfl
  refine ⟨_, he.trans ((issue_ok h _).trans ?_), rfl, fun a => ?_⟩
  · simp only [Bool.not_false, Bool.and_true, with_self o.team o.group]
    rw [Ic.with, modGroup_eq (setTeam_get ..) (tget_tset_self ..)]
    simp [Ic.with]
  · rw [with_mem c _ a, offer_mem h]

theorem setprio_completes (h : offer s w { form := w.lit.isNone, sub := subNo w < 4, m6 := layoutZ w } {} = .ok c) :
    Completes (.setprio w) s (c.retires [] { c.g with prio := subNo w }) := by
  have o := offer_ok h
  have he : exec (.setprio w) s = execSetprio w s := rfl
  refine transfer_completes h _ he ?_ fun _ => rfl
  rw [modGroup_with o.team o.group]

/-- LAUNCH with its addresses checked: an s-register address with a v-register result serves every enabled lane (R133). -/
theorem launch_completes {ls : List Acc}
    (h : offer s w { shapeW w with d := .dst 1, a := .src 1 } { entry := true, tx := some 2, dests := [destOf w.d] } = .ok c)
    (hls : checkLanes c .launch 128 false (c.lanes.map (fun l => (l, (c.rd l w.a).toNat))) = .ok ls) :
    Completes (.launch w) s (LongDone c [destOf w.d] ⟨false, true, false, .sys, none⟩
      (.launch ((if !isV w.d || isV w.a then ls else c.en.filterMap (fun l => (ls.head?).map (fun a => { a with lane := l }))).map
        (fun a => (a.lane, a))) none) []) := by
  have he : exec (.launch w) s = execLaunch w s := rfl
  refine long_completes h _ he rfl _ _ _ _ ?_
  simp only [hls]
  cases isV w.d <;> cases isV w.a <;> rfl

/-- REFORM files the live threads of the retired group (R128); that the END check comes first is log 95. -/
theorem reform_completes (h : offer s w (shapeX w) { blocking := true, tx := some 2, flag := recReform } = .ok c) :
    let g := retireGroup c.pc c.next c.act (c.en.map (fun l => (l, relTarget c.pc (litInt w)))) false c.g
    Completes (.reform w) s (fun t => t = fileLanes (c.with g) c.core c.grp (liveLanes g) ∧ SameMemory s t) := by
  have o := offer_ok h
  have he : exec (.reform w) s = execReform w s := rfl
  refine ⟨_, he.trans ((issue_ok h _).trans ?_), rfl, fun a => ?_⟩
  · simp only [Bool.not_true, Bool.and_false, with_self o.team o.group, groupAt_with]
  · rw [fileLanes_mem, with_mem c _ a, offer_mem h]

end

theorem schedulingInstructions : Claims.SchedulingInstructions :=
  ⟨fun _ _ _ => yield_completes, fun _ _ _ => setprio_completes, fun _ _ _ _ => launch_completes, fun _ _ _ => reform_completes⟩

/-- Settles O14: each instruction by its body at its offer; EXIT by what its end of threads lets happen to the group. -/
theorem schedulingAndExit : Obligations.SchedulingAndExit := ⟨schedulingInstructions, exitEndsThreads⟩

end Sys2Proof.Machine

end

section
/-! The integer, address and bit instructions: each a short result of its sub-elements, and IDIV with two destinations (R149 to R158). -/

namespace Sys2Proof.Machine

/-! ### Integer arithmetic (R149 to R151) -/

/-- Each of them is a short result, written to D. -/
theorem integerArithmetic : Claims.IntegerArithmetic := by
  refine ⟨?_, ?_, ?_, ?_, ?_, ?_, ?_, ?_, ?_, ?_, ?_, ?_, ?_⟩
  all_goals exact fun _ _ _ h => short_completes _ h rfl rfl (.inl rfl) _ rfl

/-- Registers D and C of a lane written, D's value where the two are one register: what IDIV does in a lane (R151). -/
def Group.writeBoth (g : Group) (l : Nat) (d c : BitVec 8) (x y : Word) : Group :=
  if c == d then g.writeReg l d x else (g.writeReg l d x).writeReg l c y

/-- The write of a register field in one lane. -/
theorem groupWrites_writeReg (g : Group) (l : Nat) (f : BitVec 8) (x : Nat → Word) (hl : l < g.threads.length) :
    GroupWrites g (g.writeReg l f (x l)) (vWrite f [l] x) (sWrite f (x l)) noWrite := by
  cases hv : isV f
  · have h := groupWrites_foldS f hv (fun _ => x l) g
    simp only [List.foldl_cons, List.foldl_nil, Group.writeReg, hv, Bool.false_eq_true, if_false] at h ⊢
    exact h.congr (fun _ _ => by simp [vWrite, hv, noWrite]) (fun _ => rfl) (fun _ _ => rfl)
  · exact (groupWrites_foldV f hv x [l] g (by simpa using hl)).congr (fun _ _ => rfl) (fun _ => by simp [sWrite, hv]) (fun _ _ => rfl)

/-- Writes of different v-register fields do not meet, so either may count as the later. -/
theorem vWrite_or_comm {d c : BitVec 8} (hcd : c ≠ d) (lanes : List Nat) (x y : Nat → Word) (l n : Nat) :
    (vWrite c lanes y l n).or (vWrite d lanes x l n) = (vWrite d lanes x l n).or (vWrite c lanes y l n) := by
  have hne : c.toNat ≠ d.toNat := fun h => hcd (BitVec.eq_of_toNat_eq h)
  by_cases hc : n = c.toNat
  · simp [vWrite, hc, hne]
  · simp [vWrite, hc]

/-- Writes of different s-register fields do not meet. -/
theorem sWrite_or_comm {d c : BitVec 8} (hcd : c ≠ d) (x y : Word) (n : Nat) :
    (sWrite c y n).or (sWrite d x n) = (sWrite d x n).or (sWrite c y n) := by
  have hne : c.toNat ≠ d.toNat := fun h => hcd (BitVec.eq_of_toNat_eq h)
  cases hc : isV c <;> cases hd : isV d <;> simp only [isV, decide_eq_true_eq, decide_eq_false_iff_not] at hc hd
  case false.false =>
    by_cases hn : n = c.toNat - 192
    · have hn' : c.toNat - 192 ≠ d.toNat - 192 := by omega
      simp [sWrite, hn, hn']
    · simp [sWrite, hn]
  all_goals simp [sWrite, isV, hc, hd]

/-- The writes of D and C in one lane; D's is the one that counts (R151). -/
theorem groupWrites_writeBoth (g : Group) (l : Nat) (d c : BitVec 8) (x y : Nat → Word) (hl : l < g.threads.length) :
    GroupWrites g (g.writeBoth l d c (x l) (y l)) (fun k n => (vWrite d [l] x k n).or (vWrite c [l] y k n))
      (fun n => (sWrite d (x l) n).or (sWrite c (y l) n)) noWrite := by
  have hd := groupWrites_writeReg g l d x hl
  by_cases hcd : c = d
  · subst hcd
    rw [Group.writeBoth, if_pos (by simp)]
    refine hd.congr (fun k n => ?_) (fun n => ?_) (fun _ _ => rfl)
    · simp only [vWrite]; split <;> rfl
    · simp only [sWrite]; split <;> rfl
  · rw [Group.writeBoth, if_neg (by simpa using hcd)]
    exact (hd.trans (groupWrites_writeReg _ l c y (hd.width.symm ▸ hl))).congr (fun k n => vWrite_or_comm hcd ..)
      (fun n => sWrite_or_comm hcd ..) (fun _ _ => rfl)

/-- The writes of v-registers D and C in each of some lanes. -/
theorem groupWrites_foldBoth {d c : BitVec 8} (hd : isV d = true) (hc : isV c = true) (x y : Nat → Word) (lanes : List Nat) (g : Group)
    (hl : ∀ l ∈ lanes, l < g.threads.length) :
    GroupWrites g (lanes.foldl (fun g l => g.writeBoth l d c (x l) (y l)) g)
      (fun l n => (vWrite d lanes x l n).or (vWrite c lanes y l n)) (fun _ => none) noWrite := by
  induction lanes generalizing g with
  | nil => exact (GroupWrites.refl g).congr (fun l n => by simp [vWrite, noWrite]) (fun _ => rfl) (fun _ _ => rfl)
  | cons a r ih =>
    have ha := groupWrites_writeBoth g a d c x y (hl a List.mem_cons_self)
    have hr := ih (g.writeBoth a d c (x a) (y a)) fun l h => ha.width.symm ▸ hl l (List.mem_cons_of_mem _ h)
    refine (ha.trans hr).congr (fun l n => ?_) (fun n => by simp [sWrite, hd, hc]) (fun _ _ => rfl)
    by_cases hla : l = a
    · subst hla
      by_cases hm : l ∈ r <;> by_cases hn : n = d.toNat <;> simp [vWrite, hd, hc, hm, hn]
    · simp [vWrite, hla]

/-- Destinations of one instruction of the normal port are all v-registers or all s-registers (R81). -/
theorem isV_dst_eq {sh : Shape} {w : LongWord} (h : ok11 sh w = true) (hp : sh.port = .normal) {f f' : BitVec 8}
    (hf : (f, true) ∈ namedRegs sh w) (hf' : (f', true) ∈ namedRegs sh w) : isV f = isV f' := by
  have hall {a b : BitVec 8} (ha : (a, true) ∈ namedRegs sh w) (hb : (b, true) ∈ namedRegs sh w) (hv : isV a = true) : isV b = true := by
    by_contra hs
    have hV : ((namedRegs sh w).filter (·.2)).any (fun r => isV r.1) = true :=
      List.any_eq_true.2 ⟨_, List.mem_filter.2 ⟨ha, rfl⟩, hv⟩
    have hS : ((namedRegs sh w).filter (·.2)).any (fun r => !isV r.1) = true :=
      List.any_eq_true.2 ⟨_, List.mem_filter.2 ⟨hb, rfl⟩, by simp [hs]⟩
    simp [ok11, hp, hV, hS] at h
  exact Bool.eq_iff_iff.2 ⟨hall hf hf', hall hf' hf⟩

/-- The instruction acts in lanes of its group: the enabled ones, or lane 0 for them all (R81). -/
theorem Offered.lanes_lt {s : State} {w : LongWord} {sh : Shape} {k : Issue} {c : Ic} (o : Offered s w sh k c) {l : Nat}
    (hl : l ∈ c.lanes) : l < c.g.threads.length := by
  obtain ⟨hne, hact, -⟩ := o.lanes
  unfold Ic.lanes at hl
  split at hl
  · obtain ⟨a, ha⟩ := List.exists_mem_of_ne_nil _ hne
    rw [List.mem_singleton.1 hl]
    exact Nat.zero_lt_of_lt (o.width a (hact a ha))
  · exact o.width l (hact l hl)

/-- What IDIV writes in the lanes that it acts in: both destinations are v-registers, or both s-registers and the one lane is 0. -/
theorem idiv_writes {s : State} {w : LongWord} {sh : Shape} {c : Ic} (h : offer s w sh {} = .ok c) (hd : sh.d = .dst 1)
    (hc : sh.c = .dst 1) (hp : sh.port = .normal) (x y : Nat → Word) :
    GroupWrites c.g (c.lanes.foldl (fun g l => g.writeBoth l w.d w.c (x l) (y l)) c.g)
      (fun l n => (vWrite w.d c.lanes x l n).or (vWrite w.c c.lanes y l n))
      (fun n => (sWrite w.d (x 0) n).or (sWrite w.c (y 0) n)) noWrite := by
  have o := offer_ok h
  have hdc : isV w.d = isV w.c := isV_dst_eq (ok11_of_decode o.code) hp (by simp [namedRegs, hd]) (by simp [namedRegs, hc])
  cases hv : isV w.d
  · have hu : isUniform sh w = true := (dst_port o.code hd (.inl hp)).resolve_left (by simp [hv])
    have hlanes : c.lanes = [0] := by simp [Ic.lanes, o.uni, hu]
    rw [hlanes]
    exact groupWrites_writeBoth c.g 0 w.d w.c x y (o.lanes_lt (by simp [hlanes]))
  · exact (groupWrites_foldBoth hv (hdc ▸ hv) x y c.lanes c.g fun _ hl => o.lanes_lt hl).congr (fun _ _ => rfl)
      (fun _ => by simp [sWrite, hv, hdc ▸ hv]) (fun _ _ => rfl)

/-- The word of IDIV in a lane, by sub-element the quotient or the remainder (R151). -/
def Ic.divided (c : Ic) (w : LongWord) (f : Int → Int → Int) (l : Nat) : Word :=
  perElem (subNo w) (fun k => wrap (tyBits (subNo w)) (f (getInt (subNo w) k (c.rd l w.a)) (getInt (subNo w) k (opB c (subNo w) l))))

/-- The quotient and the remainder are those of R151, and IDIV writes both from its sources as they were. -/
theorem integerDivision : Claims.IntegerDivision := by
  intro w s c h
  refine ⟨?_, fun a b hb => ⟨if_neg hb, if_neg hb⟩, fun a => ⟨if_pos rfl, if_pos rfl⟩⟩
  obtain ⟨t, he, ht⟩ := group_completes (i := .idiv w)
    (fun c g => c.lanes.foldl (fun g l => g.writeBoth l w.d w.c (c.divided w quotInt l) (c.divided w remInt l)) g) h rfl
  exact ⟨t, he, _, idiv_writes h rfl rfl rfl _ _, ht⟩

/-- Settles O1: the arithmetic as short results, and IDIV by its two writes in each lane. -/
theorem integerResults : Obligations.IntegerResults := ⟨integerArithmetic, integerDivision⟩

/-! ### One source and shifts (R152, R153) -/

/-- Each of them is a short result, written to D. -/
theorem integerUnaryAndShifts : Claims.IntegerUnaryAndShifts := by
  refine ⟨?_, ?_, ?_, ?_, ?_, ?_, ?_, ?_, ?_, ?_, ?_, ?_⟩
  all_goals exact fun _ _ _ h => short_completes _ h rfl rfl (.inl rfl) _ rfl

/-- Of a number of `b + 1` bits, the highest bit says whether it lies in the upper half. -/
theorem nbit_top {b x : Nat} (hx : x < 2 ^ (b + 1)) : nbit x b = decide (2 ^ b ≤ x) := by
  have hlt : x / 2 ^ b < 2 := Nat.div_lt_of_lt_mul (by rwa [← Nat.pow_succ])
  have hiff : x / 2 ^ b = 1 ↔ 2 ^ b ≤ x := by
    rw [← Nat.one_le_div_iff (Nat.two_pow_pos b)]
    omega
  rw [nbit, Nat.mod_eq_of_lt hlt, Bool.beq_eq_decide_eq, decide_eq_decide.2 hiff]

/-- The signed reading shifted down by the width is 0 or -1, by its sign (R153). -/
theorem sxInt_div_width {b x : Nat} (hx : x < 2 ^ (b + 1)) :
    sxInt (b + 1) x / ((2 ^ (b + 1) : Nat) : Int) = if nbit x b then -1 else 0 := by
  rw [nbit_top hx, sxInt, Nat.mod_eq_of_lt hx, if_neg (Nat.succ_ne_zero b), Nat.add_sub_cancel]
  by_cases h : x < 2 ^ b
  · rw [if_pos h, decide_eq_false (Nat.not_le.2 h), if_neg (by simp)]
    exact Int.ediv_eq_zero_of_lt (by omega) (by exact_mod_cast hx)
  · rw [if_neg h, decide_eq_true (Nat.le_of_not_lt h), if_pos rfl]
    exact Int.ediv_eq_neg_one_of_neg_of_le (by omega) (by omega)

theorem wrap_neg_one (w : Nat) : wrap w (-1) = 2 ^ w - 1 := by
  have hw : 0 < 2 ^ w := Nat.two_pow_pos w
  have hm : (-1 : Int) % ((2 ^ w : Nat) : Int) = ((2 ^ w : Nat) : Int) - 1 := by
    rw [Int.emod_eq_add_self_emod, neg_add_eq_sub, Int.emod_eq_of_lt (by omega) (by omega)]
  rw [wrap, hm]
  omega

/-- Each shift by the branch that a count of the width or more takes. -/
theorem shiftPastWidth : Claims.ShiftPastWidth := by
  intro t x n ht hx hn
  have hlt : ¬ n < tyBits t := Nat.not_lt.2 hn
  refine ⟨by simp [shlElem, hlt], if_neg hlt, ?_, by simp [rotElem]⟩
  obtain ⟨b, hb⟩ := Nat.exists_eq_succ_of_ne_zero ht
  rw [shraElem, if_neg hlt]
  simp only [hb, Nat.succ_eq_add_one] at hx ⊢
  rw [sxInt_div_width hx]
  cases hs : nbit x b
  · simp [wrap, hs]
  · simp [wrap_neg_one, hs]

/-- Settles O2: the instructions as short results, and the shifts past the width by the branch that they take. -/
theorem unaryAndShiftResults : Obligations.UnaryAndShiftResults := ⟨integerUnaryAndShifts, shiftPastWidth⟩

/-! ### Bit functions, bit fields, selects, moves, LEA and CVTI (R154 to R158) -/

/-- Settles O3: each of them is a short result, written to D; SEL's port is the vector port. -/
theorem bitsAndMoves : Obligations.BitsAndMoves := by
  refine ⟨?_, ?_, ?_, ?_, ?_, ?_, ?_, ?sel, ?_, ?_, ?_, ?_, ?_, ?_, ?_⟩
  case sel => exact fun _ _ _ h => short_completes _ h rfl rfl (.inr rfl) _ rfl
  all_goals exact fun _ _ _ h => short_completes _ h rfl rfl (.inl rfl) _ rfl

end Sys2Proof.Machine

end

section
/-! The short floating-point instructions: each writes to D the result of its entry, sub-element by sub-element (R184, R186 to R192). -/

namespace Sys2Proof.Machine

/-! ### Arithmetic: one lemma per operand form (R184, R186) -/

/-- With two operands the exact result is rounded once in each sub-element (R184). -/
theorem floatBin_completes {i : Instr} {s : State} {w : LongWord} {c : Ic} (f : Nat → Num → Num → Num)
    (h : offer s w (shapeF w (layoutFRS w)) {} = .ok c) (he : exec i s = floatBin w f s) :
    Completes i s (ShortDone c (fun l => perElem (subNo w) (fun k =>
      rnd c (subNo w) l k (f (rmOf w) (fv (subNo w) k (c.rd l w.a)) (fv (subNo w) k (opB c (subNo w) l)))))) :=
  short_completes _ h he rfl (.inl rfl) _ rfl

/-- With three operands the product and the sum are rounded together, once in each sub-element (R184). -/
theorem floatFma_completes {i : Instr} {s : State} {w : LongWord} {c : Ic}
    (h : offer s w { shapeF w (layoutFRS w) with c := .src 1 } {} = .ok c) (he : exec i s = floatFma w s) :
    Completes i s (ShortDone c (fun l => perElem (subNo w) (fun k => rnd c (subNo w) l k
      (numFma (rmOf w) (fv (subNo w) k (c.rd l w.a)) (fv (subNo w) k (opB c (subNo w) l)) (fv (subNo w) k (c.rd l w.c)))))) :=
  short_completes _ h he rfl (.inl rfl) _ rfl

/-- The operand chosen in each sub-element is written as it is, with no rounding (R186). -/
theorem floatPick_completes {i : Instr} {s : State} {w : LongWord} {c : Ic} (f : Num → Num → Num)
    (h : offer s w (shapeF w (layoutZ w)) {} = .ok c) (he : exec i s = floatPick w f s) :
    Completes i s (ShortDone c (fun l => perElem (subNo w) (fun k =>
      (fmtT (subNo w)).same (f (fv (subNo w) k (c.rd l w.a)) (fv (subNo w) k (opB c (subNo w) l)))))) :=
  short_completes _ h he rfl (.inl rfl) _ rfl

/-- Each instruction by its operand form and its function; a K form runs as its long instruction (R76). -/
theorem floatArithmetic : Claims.FloatArithmetic := by
  refine ⟨?fadd, ?faddF32K, ?faddBf16K, ?fsub, ?fmul, ?fmulF32K, ?fmulBf16K, ?ffma, ?ffmaF32K, ?ffmaBf16K, ?fmin, ?fminF32K,
    ?fmax, ?fmaxF32K⟩
  case fadd | faddF32K | faddBf16K => exact fun _ _ _ h => floatBin_completes numAdd h rfl
  case fsub => exact fun _ _ _ h => floatBin_completes (fun rm a b => numAdd rm a (numNeg b)) h rfl
  case fmul | fmulF32K | fmulBf16K => exact fun _ _ _ h => floatBin_completes (fun _ => numMul) h rfl
  case ffma | ffmaF32K | ffmaBf16K => exact fun _ _ _ h => floatFma_completes h rfl
  case fmin | fminF32K => exact fun _ _ _ h => floatPick_completes numMin h rfl
  case fmax | fmaxF32K => exact fun _ _ _ h => floatPick_completes numMax h rfl

/-! ### Classes, conversions, products of pairs and scaling (R187 to R192) -/

/-- Each of them is a short result of the normal port, written to D. -/
theorem floatConversions : Claims.FloatConversions := by
  refine ⟨?fclass, ?frnd, ?fcvt, ?fcvti, ?icvtf, ?fdot, ?fscale⟩
  all_goals exact fun _ _ _ h => short_completes _ h rfl rfl (.inl rfl) _ rfl

/-- Settles O4: the arithmetic by its operand forms, and the rest as short results. -/
theorem floatResults : Obligations.FloatResults := ⟨floatArithmetic, floatConversions⟩

end Sys2Proof.Machine

end

section
/-! STG at its issue: its lanes' values in an entry of the table or of the DET store buffer, or in the group's write set (R214, R226,
R307, R315). -/

namespace Sys2Proof.Machine

/-! ### The lanes of an access and their transactions -/

/-- Lanes that all pass give their accesses, and no others. -/
theorem joined_accs {r : List (Nat × Nat × LaneTr)} {ls : List Acc} (h : joined r = .ok ls) :
    ls = r.filterMap (fun e => e.2.2.accOf e.1 e.2.1) := by
  have hj : joinLanes r = .ok ls := by
    unfold joined at h
    split at h
    next l hl => rw [hl, Except.ok.inj h]
    all_goals cases h
  rw [joinLanes_eq] at hj
  split at hj
  · cases hj
  split at hj
  · cases hj
  split at hj
  · cases hj
  exact (LanesTr.ok.inj hj).symm

theorem accOf_lane {l va : Nat} {x : LaneTr} {a : Acc} (h : x.accOf l va = some a) : a.lane = l := by
  cases x with
  | ok x => exact (Option.some.inj h) ▸ rfl
  | _ => cases h

/-- Every access that the checks give is one of a lane that was checked. -/
theorem checkLanes_lane {c : Ic} {k : AKind} {align : Nat} {wide : Bool} {vas : List (Nat × Nat)} {ls : List Acc}
    (h : checkLanes c k align wide vas = .ok ls) {a : Acc} (ha : a ∈ ls) : ∃ v ∈ vas, v.1 = a.lane := by
  rw [joined_accs h, List.filterMap_map, List.mem_filterMap] at ha
  obtain ⟨v, hv, hva⟩ := ha
  exact ⟨v, hv, (accOf_lane hva).symm⟩

/-- The lanes that a group's access is checked for are enabled ones. -/
theorem checkLanes_enabled {c : Ic} {k : AKind} {align : Nat} {wide : Bool} {ls : List Acc}
    (h : checkLanes c k align wide (effLanes c) = .ok ls) (hu : c.uni = false) {a : Acc} (ha : a ∈ ls) : a.lane ∈ c.en := by
  obtain ⟨v, hv, hva⟩ := checkLanes_lane h ha
  obtain ⟨l, hl, rfl⟩ := List.mem_map.1 hv
  rw [Ic.lanes, hu] at hl
  rwa [← hva]

theorem txOf_none {c : Ic} {l : Nat} (hx : anyTx c = false) (hl : c.uni = false → l ∈ c.en) : txOf c l = [] := by
  refine List.filter_eq_nil_iff.2 fun x hx' => ?_
  have hen : x ∈ c.en := by
    cases hu : c.uni with
    | true => simpa [hu] using hx'
    | false =>
      obtain rfl : x = l := by simpa [hu] using hx'
      exact hl hu
  exact List.any_eq_false.1 hx x hen

theorem txOf_opened {c : Ic} {l : Nat} (hu : c.uni = false) (hl : (c.g.lane l).txs = .opened) : txOf c l = [l] := by
  simp [txOf, hu, inTx, hl]

/-! ### The body of STG (R226) -/

/-- A lane's store in the group's write set, where the lane is in transaction. -/
def txLane (c : Ic) (w : LongWord) (s : State) (a : Acc) : State :=
  match txOf c a.lane with
  | l :: _ => txStore s c.core c.ctx c.grp (ordOf w.m6) { a with lane := l } (leBytes (tyBits (subNo w) / 8) (c.rd a.lane w.d).toNat)
  | [] => s

/-- The lanes that are in no transaction, with their values of D. -/
def plainLanes (c : Ic) (w : LongWord) (ls : List Acc) : List (Acc × Word) :=
  (ls.filter (fun a => (txOf c a.lane).isEmpty)).map (fun a => (a, c.rd a.lane w.d))

/-- STG once its lanes' addresses are checked: the lanes in transaction go to the write set, the others' values to an entry. -/
theorem storeGlobal_body (w : LongWord) (s : State) {c : Ic} {ls : List Acc}
    (hl : checkLanes c .store (tyBits (subNo w) / 8) (subNo w == 1 || subNo w == 3) (effLanes c) = .ok ls) :
    ∃ body, storeGlobal w s = issue s w (shapeMem w (mStore w) (.src 1)) { entry := true, late := txLate } body
      ∧ body c = if (plainLanes c w ls).isEmpty then .ok (enterPosted { c with s := ls.foldl (txLane c w) c.s } (ordOf w.m6) .done)
          else postGlobal { c with s := ls.foldl (txLane c w) c.s } (ordOf w.m6) (.store (subNo w) (plainLanes c w ls)) := by
  refine ⟨_, rfl, ?_⟩
  simp only [hl, bind, Except.bind]
  rfl

/-! ### Outside transactions -/

theorem plainLanes_all {c : Ic} {ls : List Acc} (h : ∀ a ∈ ls, txOf c a.lane = []) (w : LongWord) :
    plainLanes c w ls = ls.map (fun a => (a, c.rd a.lane w.d)) := by
  rw [plainLanes, List.filter_eq_self.2 fun a ha => by simp [h a ha]]

theorem foldl_txLane_none {c : Ic} {ls : List Acc} (h : ∀ a ∈ ls, txOf c a.lane = []) (w : LongWord) (s : State) :
    ls.foldl (txLane c w) s = s :=
  List.foldlRecOn (motive := fun u => u = s) ls (txLane c w) rfl fun u hu a ha => by rw [txLane, h a ha, hu]

/-- STG of lanes in no transaction is a posted global write of their values. -/
theorem storeGlobal_plain (w : LongWord) (s : State) {c : Ic} {ls : List Acc}
    (hl : checkLanes c .store (tyBits (subNo w) / 8) (subNo w == 1 || subNo w == 3) (effLanes c) = .ok ls) (hx : anyTx c = false)
    (hne : ls ≠ []) :
    ∃ body, storeGlobal w s = issue s w (shapeMem w (mStore w) (.src 1)) { entry := true, late := txLate } body
      ∧ body c = postGlobal c (ordOf w.m6) (.store (subNo w) (ls.map (fun a => (a, c.rd a.lane w.d)))) := by
  have hnone (a : Acc) (ha : a ∈ ls) : txOf c a.lane = [] := txOf_none hx fun hu => checkLanes_enabled hl hu ha
  obtain ⟨body, he, hb⟩ := storeGlobal_body w s hl
  refine ⟨body, he, hb.trans ?_⟩
  rw [plainLanes_all hnone, foldl_txLane_none hnone, if_neg (by simpa using hne)]

theorem postGlobal_fenced {c : Ic} {o : Ord} {work : Work} (hr : c.mayRelease (effOrd o work)) (hf : c.afterFence work) :
    postGlobal c o work = .error (.stall .token) := by
  obtain ⟨hd, hw, hn⟩ := hf
  have hfenced : detFenced c work = .error (.stall .token) := by simp [detFenced, need, hd, hw, hn]
  simp only [postGlobal, detRelease_ok hr, hfenced]
  rfl

theorem postGlobal_passed {c : Ic} {o : Ord} {work : Work} (hr : c.mayRelease (effOrd o work)) (hf : ¬ c.afterFence work)
    (hd : recDet c.r = true) (ht : c.t.hasToken = false) (hh : c.t.hadToken = true) : postGlobal c o work = .error (edetwait 3) := by
  have hway : detBuffered c = .error (edetwait 3) := by simp [detBuffered, hd, ht, hh]
  simp only [postGlobal, detRelease_ok hr, detFenced_ok hf, hway]
  rfl

/-- An instruction whose body stops it ends as the stop does. -/
theorem stops_of_body {i : Instr} {s : State} {w : LongWord} {sh : Shape} {k : Issue} {c : Ic} {st : Stop}
    (h : offer s w sh k = .ok c) (body : Ic → Except Stop Eff) (he : exec i s = issue s w sh k body) (hb : body c = .error st) :
    exec i s = stopState c st := by
  rw [he, issue_ok h, hb]

/-- What a posted global write that may release comes to at its issue: it waits for the token, is performed, is buffered, or traps (R293,
R315 to R317). -/
def WriteIssued (i : Instr) (s : State) (c : Ic) (o : Ord) (work : Work) : Prop :=
  (c.afterFence work → exec i s = .next (stallGroup c.s c.core c.grp .token))
  ∧ (¬ c.afterFence work →
      (c.writesNow → Completes i s (PostedDone c o work))
      ∧ (c.buffers → Completes i s (BufferedDone c o work))
      ∧ (recDet c.r = true → c.t.hasToken = false → c.t.hadToken = true →
          exec i s = .next (takeTrap c.s c.core c.grp ⟨0x0F, 0, 3⟩ c.pc c.pc false false c.act)))

theorem postGlobal_issued {i : Instr} {s : State} {w : LongWord} {sh : Shape} {k : Issue} {c : Ic} {o : Ord} {work : Work}
    (h : offer s w sh k = .ok c) (body : Ic → Except Stop Eff) (he : exec i s = issue s w sh k body) (hk : k.blocking = false)
    (hb : body c = postGlobal c o work) (hr : c.mayRelease (effOrd o work)) : WriteIssued i s c o work :=
  ⟨fun hf => stops_of_body h body he (hb.trans (postGlobal_fenced hr hf)),
    fun hf => ⟨fun hn => posted_completes h body he hk _ _ (hb.trans (postGlobal_direct hr hf hn)),
      fun hn => buffered_completes h body he hk _ _ (hb.trans (postGlobal_buffer hr hf hn)),
      fun hd ht hh => stops_of_body h body he (hb.trans (postGlobal_passed hr hf hd ht hh))⟩⟩

theorem storeGlobal_issued {i : Instr} {w : LongWord} {s : State} (he : exec i s = storeGlobal w s) {c : Ic} {ls : List Acc}
    (h : offer s w (shapeMem w (mStore w) (.src 1)) { entry := true, late := txLate } = .ok c)
    (hl : checkLanes c .store (tyBits (subNo w) / 8) (subNo w == 1 || subNo w == 3) (effLanes c) = .ok ls) (hx : anyTx c = false)
    (hne : ls ≠ []) (hr : c.mayRelease (effOrd (ordOf w.m6) (.store (subNo w) (ls.map (fun a => (a, c.rd a.lane w.d)))))) :
    WriteIssued i s c (ordOf w.m6) (.store (subNo w) (ls.map (fun a => (a, c.rd a.lane w.d)))) := by
  obtain ⟨body, hi, hb⟩ := storeGlobal_plain w s hl hx hne
  exact postGlobal_issued h body (he.trans hi) rfl hb hr

theorem globalStores : Claims.GlobalStores :=
  ⟨fun _ _ _ _ => storeGlobal_issued rfl, fun _ _ _ _ => storeGlobal_issued rfl, fun _ _ _ _ => storeGlobal_issued rfl⟩

/-! ### In transactions (R214, R307) -/

/-- The package is as the instruction found it but for the issuing group, which is `g`. -/
def Ic.Shows (c : Ic) (u : State) (g : Group) : Prop := (u = c.s ∧ g = c.g) ∨ u = c.with g

/-- What the write set keeps of a lane's store (R214, R307). -/
def txWrite (c : Ic) (w : LongWord) (a : Acc) : TxWrite :=
  ⟨c.s.stamp, a.lane, a.va, physAddr c.s c.ctx a.xl a.va false, policy (ordOf w.m6) a.xl, a.xl.wp,
    leBytes (tyBits (subNo w) / 8) (c.rd a.lane w.d).toNat⟩

theorem mem_sortNat (x : Nat) (l : List Nat) : x ∈ sortNat l ↔ x ∈ l := by
  induction l with
  | nil => rfl
  | cons y r ih => exact (mem_insertNat y x (sortNat r)).trans ((or_congr_right ih).trans List.mem_cons.symm)

theorem mem_txLines {g : Group} {n : Nat} : n ∈ txLines g ↔ ∃ x ∈ g.txw, x.pa / 128 = n := by
  rw [txLines, mem_sortNat, List.mem_map]

section

variable {s : State} {w : LongWord} {sh : Shape} {k : Issue} {c : Ic} (o : Offered s w sh k c) {u : State} {g : Group} (hu : c.Shows u g)

include o hu

theorem modGroup_shows (f : Group → Group) : modGroup u c.core c.grp f = c.with (f g) := by
  rcases hu with ⟨rfl, rfl⟩ | rfl
  · exact modGroup_with o.team o.group f
  · rw [Ic.with, modGroup_eq (setTeam_get _ _ _) (tget_tset_self _ _ _)]
    simp [Ic.with]

/-- A posted entry is made with the group as it shows. -/
theorem enterPosted_shows (r : Ord) (work : Work) :
    PostedWith c r work g (retire (enterPosted { c with s := u } r work).st c.core c.grp c.pc c.next c.act [] w.s) := by
  rcases hu with ⟨rfl, rfl⟩ | rfl
  · exact enterPosted_done o r work
  · have ht : tget ({ c.with g with stamp := c.s.stamp + 1 } : State).teams c.core = some { c.t with groups := tset c.t.groups c.grp g } :=
      setTeam_get _ _ _
    have e : retire (enterPosted { c with s := c.with g } r work).st c.core c.grp c.pc c.next c.act [] w.s
        = c.enters (c.entry false r work []) g := by
      refine (congrArg (retire · c.core c.grp c.pc c.next c.act [] w.s) (modTeam_eq ht _)).trans ?_
      refine (modGroup_eq (g := g) (setTeam_get _ _ _) (tget_tset_self _ _ _) _).trans ?_
      rw [setTeam_setTeam, tset_tset, ← o.word]
      exact setTeam_stamped c.s c.core _ _
    exact ⟨e, by rw [e]; exact fun _ => rfl⟩

/-- The store of an OPEN lane to a line of the write set is kept there. -/
theorem txLane_kept {a : Acc} (huni : c.uni = false) (hc : (c.g.lane a.lane).txs = .opened) (hg : (g.lane a.lane).txs = .opened)
    (hm : (txWrite c w a).pa / 128 ∈ txLines g) : c.Shows (txLane c w u a) { g with txw := g.txw ++ [txWrite c w a] } := by
  have hpa : physAddr u c.ctx a.xl a.va false = physAddr c.s c.ctx a.xl a.va false := by
    rcases hu with ⟨rfl, -⟩ | rfl <;> rfl
  have hstamp : u.stamp = c.s.stamp := by
    rcases hu with ⟨rfl, -⟩ | rfl <;> rfl
  have hm' : physAddr c.s c.ctx a.xl a.va false / 128 ∈ txLines g := hm
  refine .inr ?_
  simp only [txLane, txOf_opened huni hc, txStore, modGroup_shows o hu, hpa, hstamp]
  simp [hg, hm', txWrite]

end

/-- The stores of OPEN lanes to lines of the write set are kept there, in lane order. -/
theorem foldl_txLane_kept {s : State} {w : LongWord} {sh : Shape} {k : Issue} {c : Ic} (o : Offered s w sh k c) (huni : c.uni = false)
    (ls : List Acc) (hopen : ∀ a ∈ ls, (c.g.lane a.lane).txs = .opened) {u : State} {g : Group} (hu : c.Shows u g)
    (hg : g.threads = c.g.threads) (hm : ∀ a ∈ ls, (txWrite c w a).pa / 128 ∈ txLines g) :
    c.Shows (ls.foldl (txLane c w) u) { g with txw := g.txw ++ ls.map (txWrite c w) } := by
  induction ls generalizing u g with
  | nil => simpa using hu
  | cons a r ih =>
    have hga : (g.lane a.lane).txs = .opened := by
      rw [Group.lane, hg]
      exact hopen a List.mem_cons_self
    have hstep := txLane_kept o hu huni (hopen a List.mem_cons_self) hga (hm a List.mem_cons_self)
    have hrest := ih (fun b hb => hopen b (List.mem_cons_of_mem _ hb)) hstep hg fun b hb => by
      obtain ⟨x, hx, hxb⟩ := mem_txLines.1 (hm b (List.mem_cons_of_mem _ hb))
      exact mem_txLines.2 ⟨x, List.mem_append_left _ hx, hxb⟩
    simpa using hrest

theorem plainLanes_none {c : Ic} {ls : List Acc} (h : ∀ a ∈ ls, txOf c a.lane ≠ []) (w : LongWord) : plainLanes c w ls = [] := by
  rw [plainLanes, List.filter_eq_nil_iff.2 fun a ha => by simpa using h a ha, List.map_nil]

theorem storeGlobal_kept {i : Instr} {w : LongWord} {s : State} (he : exec i s = storeGlobal w s) {c : Ic} {ls : List Acc}
    (h : offer s w (shapeMem w (mStore w) (.src 1)) { entry := true, late := txLate } = .ok c) (huni : c.uni = false)
    (hl : checkLanes c .store (tyBits (subNo w) / 8) (subNo w == 1 || subNo w == 3) (effLanes c) = .ok ls)
    (hopen : ∀ l ∈ c.en, (c.g.lane l).txs = .opened) (hm : ∀ a ∈ ls, (txWrite c w a).pa / 128 ∈ txLines c.g) :
    Completes i s (PostedWith c (ordOf w.m6) .done { c.g with txw := c.g.txw ++ ls.map (txWrite c w) }) := by
  have o := offer_ok h
  have hlane (a : Acc) (ha : a ∈ ls) := hopen a.lane (checkLanes_enabled hl huni ha)
  have hkept := foldl_txLane_kept o huni ls hlane (.inl ⟨rfl, rfl⟩) rfl hm
  obtain ⟨body, hi, hb⟩ := storeGlobal_body w s hl
  rw [plainLanes_none (fun a ha => by simp [txOf_opened huni (hlane a ha)]) w] at hb
  exact completes_of_body h body (he.trans hi) rfl hb (enterPosted_shows o hkept _ _)

theorem transactionalStores : Claims.TransactionalStores :=
  ⟨fun _ _ _ _ => storeGlobal_kept rfl, fun _ _ _ _ => storeGlobal_kept rfl, fun _ _ _ _ => storeGlobal_kept rfl⟩

/-- Settles O22: lanes in no transaction make one posted global write, OPEN lanes enter the group's write set one after another. -/
theorem storesIssued : Obligations.StoresIssued := ⟨globalStores, transactionalStores⟩

end Sys2Proof.Machine

end

section
/-! A request's events at the package that sent it: its answer, its timeout, its resend, and the low-water updates of a stream (R270 to
R273, R276, R277, R282, R338). -/

namespace Sys2Proof.Machine

/-! ### What sending leaves -/

@[simp] theorem sendTo_reqs (s : State) (dst : Nat) (m : Message) : (sendTo s dst m).reqs = s.reqs := by
  obtain ⟨out, h⟩ := sendTo_only s dst m
  rw [h]

@[simp] theorem sendReq_reqs (s : State) (r : Req) : (sendReq s r).reqs = s.reqs := by
  unfold sendReq
  split <;> simp

/-- A request enters the table, sent at once or held. -/
theorem request_enters (s : State) (r : Req) (wait : Bool) :
    ∃ n, { r with sends := n } ∈ (if wait then heldReq s r else newReq s r).reqs := by
  have held : { r with sends := 0 } ∈ (heldReq s r).reqs := List.mem_append_right _ (List.mem_singleton.2 rfl)
  split
  · exact ⟨0, held⟩
  · unfold newReq
    split
    · exact ⟨0, held⟩
    · exact ⟨r.sends, by simp⟩

@[simp] theorem finishEntry_reqs (s : State) (core : Nat) (e : OttEntry) : (finishEntry s core e).reqs = s.reqs := by
  simp only [finishEntry]
  split <;> simp [latchErr]

@[simp] theorem settle_reqs (s : State) (core : Nat) (e : OttEntry) : (settle s core e).reqs = s.reqs := by
  unfold settle
  split <;> simp [putEntry]

/-- With no request outstanding none waits for an answer. -/
theorem sendNextLane_none {s : State} (h : s.reqs = []) (r : Req) : sendNextLane s r = s := by
  simp [sendNextLane, h]

/-! ### Answers (R270, R271, R274, R282) -/

/-- A request of the table changed, as a resend and an answer BUSY change it (R272). -/
def modReq (s : State) (id : Nat) (f : Req → Req) : State := { s with reqs := s.reqs.map (fun x => if x.id == id then f x else x) }

section

variable {s : State} {req yst inc : Nat} {data : List Byte}

theorem remoteAnswer_unknown (hm : s.msg = some (.remoteAnswer req yst data inc)) (hr : s.reqs.find? (fun r => r.id == req) = none) :
    Quietly .remoteAnswer s s := by
  refine ⟨?_, fun _ => rfl⟩
  show execRemoteAnswer s = _
  simp only [execRemoteAnswer, hm, hr]

/-- The answer of an outstanding request, by its status. -/
theorem remoteAnswer_ends (hm : s.msg = some (.remoteAnswer req yst data inc)) {r : Req} (hr : s.reqs.find? (fun r => r.id == req) = some r) :
    (yst = 0 → exec .remoteAnswer s = .next (doneReq s r data))
    ∧ (yst = 1 → Quietly .remoteAnswer s (modReq s req (fun x => { x with busy := true, sends := 0 })))
    ∧ (yst = 2 → exec .remoteAnswer s = .next (staleOwner s r.ctx r.owner inc))
    ∧ ((yst = 3 ∨ yst = 4) → exec .remoteAnswer s = .next (failReq s r yst)) := by
  have he : exec .remoteAnswer s = execRemoteAnswer s := rfl
  simp only [execRemoteAnswer, hm, hr] at he
  refine ⟨?done, ?busy, ?stale, ?failed⟩
  case done => rintro rfl; exact he
  case busy => rintro rfl; exact ⟨by simp [he, modReq, hm], fun _ => rfl⟩
  case stale => rintro rfl; exact he
  case failed => rintro (rfl | rfl) <;> exact he

end

/-- The last lane of an entry has been read, with no other request outstanding: the entry, as `f` leaves it, settles (R109, R212). -/
theorem laneDone_lastRead {s : State} {r : Req} {e : OttEntry} (f : OttEntry → OttEntry) (hk : r.kind = .read) (hop : r.op = 0)
    (he : entryOf s r = some e) (hw : e.work = .remote [r.lane]) (hs : s.reqs = []) :
    let u := noteFar s r.core (e.tidsOf (r.lane % 64))
    laneDone s r f = settle (if (f { e with work := .remote [] }).ord.acq then l1Clear u r.core else u) r.core
      (f { e with work := .remote [] }) := by
  intro u
  have hu : u.reqs = [] := (modTeam_reqs ..).trans hs
  have hsettled : (settle (if (f { e with work := .remote [] }).ord.acq then l1Clear u r.core else u) r.core
      (f { e with work := .remote [] })).reqs = [] := by
    rw [settle_reqs]
    split
    · exact (modTeam_reqs ..).trans hu
    · exact hu
  have hfar : (r.kind == .write) = false := by rw [hk]; rfl
  have hcopy : (r.op == 5) = false := by rw [hop]; rfl
  have hleft : [r.lane].filter (· != r.lane) = [] := by simp
  simp only [laneDone, he, hw, hfar, hcopy, hleft, List.isEmpty_nil, Bool.true_and, Bool.and_false, Bool.false_eq_true, if_false]
  exact sendNextLane_none hsettled r

/-- A read of a lane that is the package's only request: its value enters its entry, whose last lane it is (R105, R212, R271). -/
theorem doneReq_lastRead {s : State} {r : Req} {t : Team} {e : OttEntry} (data : List Byte) (hk : r.kind = .read) (hop : r.op = 0)
    (ht : tget s.teams r.core = some t) (he : t.ott.find? (fun e => e.id == r.ott) = some e) (hw : e.work = .remote [r.lane])
    (hreqs : s.reqs = [r]) :
    let u := noteFar { s with reqs := [] } r.core (e.tidsOf (r.lane % 64))
    doneReq s r data = settle (if e.ord.acq then l1Clear u r.core else u) r.core { e with
      work := .remote [], got := e.got ++ [(r.lane, tyExt r.ty (leNat (r.returned data).flatten % 2 ^ tyBits r.ty))] } := by
  have hdrop : dropReq s r.id = { s with reqs := [] } := by simp [dropReq, hreqs]
  have hentry : entryOf { s with reqs := [] } r = some e := by simp [entryOf, ht, he]
  simp only [doneReq, hk, hop, hdrop]
  exact laneDone_lastRead _ hk hop hentry hw rfl

/-! ### What a read returns (R316) -/

theorem returned_whole {r : Req} (data : List Byte) (hl : r.laid = []) {pa n : Nat} (hp : r.parts = [(pa, n)]) :
    r.returned data = [data.take n] := by
  simp [Req.returned, hp, partBytes, layOver, hl]

/-- The team's own buffered byte stands before the owner's. -/
theorem returned_laid {r : Req} {data : List Byte} {pa : Nat} {b : Byte} (hp : r.parts = [(pa, 1)]) (hl : r.laid = [(pa, b)])
    (hd : data.length = 1) : r.returned data = [[b]] := by
  obtain ⟨x, rfl⟩ := List.length_eq_one_iff.1 hd
  simp [Req.returned, hp, partBytes, layOver, hl]

/-! ### Timeouts and resends (R272, R273, R338) -/

section

variable {s : State} {r : Req}

section

variable (hr : s.reqs.find? (fun r => r.id == s.iss.id) = some r)

include hr

theorem remoteTimeout_dead (hd : s.peerdead.getLsbD r.owner = true) : exec .remoteTimeout s = .next (failReq s r 6) := by
  show execRemoteTimeout s = _
  simp only [execRemoteTimeout, hr, hd, if_true]

variable (hd : s.peerdead.getLsbD r.owner = false) (hb : r.busy = false) (hs : r.sends ≠ 0)

include hd hb hs

theorem remoteTimeout_live : exec .remoteTimeout s =
    if abandoned s r then .next (endAbandoned s r)
    else if r.sends < 4 then .next (sendReq (modReq s r.id (fun x => { x with sends := x.sends + 1 })) r)
    else .next (markDead (failReq s r 5) r.owner) := by
  show execRemoteTimeout s = _
  simp only [execRemoteTimeout, hr, hd, hb, hs, Bool.false_or, decide_false, Bool.false_eq_true, if_false, modReq]

theorem remoteTimeout_abandoned (ha : abandoned s r = true) : Quietly .remoteTimeout s (endAbandoned s r) :=
  ⟨by rw [remoteTimeout_live hr hd hb hs, if_pos ha], fun a => by rw [endAbandoned_mem]⟩

theorem remoteTimeout_resends (ha : abandoned s r = false) :
    (r.sends < 4 → Quietly .remoteTimeout s (sendReq (modReq s r.id (fun x => { x with sends := x.sends + 1 })) r))
    ∧ (4 ≤ r.sends → exec .remoteTimeout s = .next (markDead (failReq s r 5) r.owner)) := by
  have he := remoteTimeout_live hr hd hb hs
  rw [ha, if_neg Bool.false_ne_true] at he
  exact ⟨fun h => ⟨he.trans (if_pos h), fun a => by rw [sendReq_mem]; rfl⟩, fun h => he.trans (if_neg (by omega))⟩

end

theorem busyResend_resends (hr : s.reqs.find? (fun r => r.id == s.iss.id && r.busy) = some r) (ha : abandoned s r = false) :
    Quietly .busyResend s (sendReq (modReq s r.id (fun x => { x with busy := false, sends := 1 })) r) := by
  refine ⟨?_, fun a => by rw [sendReq_mem]; rfl⟩
  show execBusyResend s = _
  simp only [execBusyResend, hr, ha, Bool.false_eq_true, if_false, modReq]

theorem yptPacketExpire_drops {i : Nat} (hm : s.msg = some (.yptExpire i)) (hi : i < s.out.length) :
    Quietly .yptPacketExpire s { s with out := s.out.eraseIdx i } := by
  refine ⟨?_, fun _ => rfl⟩
  show execYptPacketExpire s = _
  simp only [execYptPacketExpire, hm, hi, if_true]

end

/-! ### Low-water updates (R276) -/

/-- A stream whose LWM a request carries. -/
def Stream.tell (x : Stream) : Stream := { x with told := x.lwm }

theorem Stream.tell_eq {x : Stream} (h : x.told = x.lwm) : x.tell = x := by
  cases x
  cases h
  rfl

/-- The stream is told, be there such a context or not: one that is not there has told its LWM. -/
theorem streamOf_tell (s : State) (ctx n : Nat) :
    streamOf (ctxOf (modStream s ctx n Stream.tell) ctx) n = (streamOf (ctxOf s ctx) n).tell := by
  unfold modStream modCtx
  cases hc : tget s.ctxs ctx with
  | some x => simp [ctxOf, streamOf, tgetD, hc]
  | none =>
    simp only [ctxOf, streamOf, tgetD, hc, Option.getD_none, Context.fresh, tget]
    split <;> rfl

theorem modStream_only (s : State) (ctx n : Nat) (f : Stream → Stream) : ∃ cs, modStream s ctx n f = { s with ctxs := cs } := by
  unfold modStream modCtx
  split
  · exact ⟨_, rfl⟩
  · exact ⟨s.ctxs, rfl⟩

/-- A packet is sent where there is a path, and no packet on its way is lost (R44). -/
theorem sendTo_sent (s : State) (dst : Nat) (m : Message) : ∃ out, sendTo s dst m = { s with out := out } ∧ (∀ p ∈ s.out, p ∈ out)
    ∧ ∀ via, routeOf s s.pkgid dst = some via → (⟨dst, portTo s.pod s.pkgid (via.getD dst), via, m⟩ : Packet) ∈ out := by
  unfold sendTo
  split
  next via h => exact ⟨_, rfl, fun p hp => List.mem_append_left _ hp, fun via' h' => by
    obtain rfl := Option.some.inj (h.symm.trans h')
    simp⟩
  next h => exact ⟨s.out, rfl, fun _ hp => hp, fun via' h' => by rw [h] at h'; cases h'⟩

/-- The request that tells an owner a stream's LWM. -/
def lwmReq (s : State) (ctx n o : Nat) : Req := { Req.base s.stamp .lwm o ctx 0 0 0 0 0 0 0 0 (incOf s ctx o) with stream := n }

/-- An owner is told a stream's LWM. -/
def tellOwner (ctx n : Nat) (s : State) (o : Nat) : State := newReq s (lwmReq s ctx n o)

/-- A request of a list tells an owner of a stream's LWM, and its packet is sent where there is a path. -/
def OwnerTold (s t : State) (ctx n : Nat) (lwm : BitVec 32) (rs : List Req) (o : Nat) : Prop :=
  ∃ r ∈ rs, r.kind = .lwm ∧ r.owner = o ∧ r.ctx = ctx ∧ r.stream = n
    ∧ ∀ via, routeOf s s.pkgid o = some via →
        (⟨o, portTo s.pod s.pkgid (via.getD o), via, .lowWaterUpdate s.pkgid ctx n lwm r.id⟩ : Packet) ∈ t.out

/-- The requests `rs` tell a list of owners of a stream, one each, and nothing else has changed but the packets sent and the
contexts, in which the stream is as it was. -/
structure OwnersTold (ctx n : Nat) (ls : List Nat) (s t : State) (rs : List Req) : Prop where
  rest   : ∃ stamp out cs, t = { s with reqs := s.reqs ++ rs, stamp := stamp, out := out, ctxs := cs }
  stream : streamOf (ctxOf t ctx) n = streamOf (ctxOf s ctx) n
  count  : rs.length = ls.length
  sent   : ∀ p ∈ s.out, p ∈ t.out
  told   : ∀ o ∈ ls, OwnerTold s t ctx n (streamOf (ctxOf s ctx) n).lwm rs o

/-- One live owner is told. -/
theorem tellOwner_told {s : State} {ctx n o : Nat} (hlive : s.peerdead.getLsbD o = false)
    (htold : (streamOf (ctxOf s ctx) n).told = (streamOf (ctxOf s ctx) n).lwm) :
    OwnersTold ctx n [o] s (tellOwner ctx n s o) [lwmReq s ctx n o] := by
  obtain ⟨out, hout, hkept, hnew⟩ := sendTo_sent { s with reqs := s.reqs ++ [lwmReq s ctx n o], stamp := s.stamp + 1 } o
    (.lowWaterUpdate s.pkgid ctx n (streamOf (ctxOf s ctx) n).lwm s.stamp)
  have he : tellOwner ctx n s o
      = modStream { s with reqs := s.reqs ++ [lwmReq s ctx n o], stamp := s.stamp + 1, out := out } ctx n Stream.tell := by
    rw [← hout, tellOwner, newReq, if_neg (by simpa [lwmReq, Req.base] using hlive)]
    rfl
  obtain ⟨cs, hcs⟩ := modStream_only { s with reqs := s.reqs ++ [lwmReq s ctx n o], stamp := s.stamp + 1, out := out } ctx n Stream.tell
  have hend : (tellOwner ctx n s o).out = out := by rw [he, hcs]
  refine ⟨⟨_, out, cs, by rw [he, hcs]⟩, ?_, rfl, fun p hp => hend ▸ hkept p hp, fun o' ho' => ?_⟩
  · rw [he, streamOf_tell]
    exact Stream.tell_eq htold
  · obtain rfl := List.mem_singleton.1 ho'
    exact ⟨_, List.mem_singleton.2 rfl, rfl, rfl, rfl, rfl, fun via hvia => hend ▸ hnew via hvia⟩

theorem OwnersTold.trans {ctx n : Nat} {ls ls' : List Nat} {s u t : State} {rs rs' : List Req} (h : OwnersTold ctx n ls s u rs)
    (h' : OwnersTold ctx n ls' u t rs') : OwnersTold ctx n (ls ++ ls') s t (rs ++ rs') := by
  obtain ⟨_, _, _, rfl⟩ := h.rest
  obtain ⟨stamp, out, cs, rfl⟩ := h'.rest
  refine ⟨⟨stamp, out, cs, by simp⟩, h'.stream.trans h.stream, by simp [h.count, h'.count], fun p hp => h'.sent p (h.sent p hp),
    fun o ho => ?_⟩
  rcases List.mem_append.1 ho with ho | ho
  · obtain ⟨r, hr, hk, how, hc, hst, hp⟩ := h.told o ho
    exact ⟨r, List.mem_append_left _ hr, hk, how, hc, hst, fun via hvia => h'.sent _ (hp via hvia)⟩
  · obtain ⟨r, hr, hk, how, hc, hst, hp⟩ := h'.told o ho
    rw [h.stream] at hp
    exact ⟨r, List.mem_append_right _ hr, hk, how, hc, hst, hp⟩

/-- Live owners of a stream that has told its LWM are each told. -/
theorem foldl_tellOwner {ctx n : Nat} (ls : List Nat) {s : State} (hlive : ∀ o ∈ ls, s.peerdead.getLsbD o = false)
    (htold : (streamOf (ctxOf s ctx) n).told = (streamOf (ctxOf s ctx) n).lwm) :
    ∃ rs, OwnersTold ctx n ls s (ls.foldl (tellOwner ctx n) s) rs := by
  induction ls generalizing s with
  | nil => exact ⟨[], ⟨s.stamp, s.out, s.ctxs, by simp⟩, rfl, rfl, fun _ hp => hp, fun _ ho => by cases ho⟩
  | cons o ls ih =>
    have h := tellOwner_told (hlive o List.mem_cons_self) htold
    have hdead : (tellOwner ctx n s o).peerdead = s.peerdead := by
      obtain ⟨_, _, _, he⟩ := h.rest
      rw [he]
    obtain ⟨rs, hrs⟩ := ih (s := tellOwner ctx n s o) (fun p hp => hdead ▸ hlive p (List.mem_cons_of_mem _ hp))
      (by rw [h.stream]; exact htold)
    exact ⟨_, h.trans hrs⟩

section

variable {s : State} (hlwm : (streamOf (ctxOf s s.iss.core) s.iss.id).told ≠ (streamOf (ctxOf s s.iss.core) s.iss.id).lwm)
  (hst : (streamOf (ctxOf s s.iss.core) s.iss.id).st ≠ 0)

include hlwm hst

/-- LWM_IDLE_SEND: the stream has told its LWM, and then each live owner is told it. -/
theorem lwmIdleSend_next :
    exec .lwmIdleSend s = .next (((streamOf (ctxOf s s.iss.core) s.iss.id).owners.filter (fun o => !s.peerdead.getLsbD o)).foldl
      (tellOwner s.iss.core s.iss.id) (modStream s s.iss.core s.iss.id Stream.tell)) := by
  rw [← modStream_peerdead s s.iss.core s.iss.id Stream.tell]
  exact if_neg (by simp [hlwm, hst])

theorem lwmIdleSend_tells :
    let ctx := s.iss.core
    let n := s.iss.id
    let x := streamOf (ctxOf s ctx) n
    let live := x.owners.filter (fun o => !s.peerdead.getLsbD o)
    ∃ t, Quietly .lwmIdleSend s t ∧ (streamOf (ctxOf t ctx) n).told = x.lwm
      ∧ (∀ o ∈ live, OwnerTold s t ctx n x.lwm t.reqs o) ∧ t.reqs.length = s.reqs.length + live.length := by
  intro ctx n x live
  have he := lwmIdleSend_next hlwm hst
  have htell : streamOf (ctxOf (modStream s ctx n Stream.tell) ctx) n = x.tell := streamOf_tell s ctx n
  obtain ⟨cs, hu⟩ := modStream_only s ctx n Stream.tell
  rw [hu] at he htell
  obtain ⟨rs, h⟩ := foldl_tellOwner live (s := { s with ctxs := cs }) (ctx := ctx) (n := n)
    (fun o ho => by simpa using (List.mem_filter.1 ho).2) (by rw [htell]; rfl)
  obtain ⟨hreqs, hmem⟩ : (live.foldl (tellOwner ctx n) { s with ctxs := cs }).reqs = s.reqs ++ rs
      ∧ SameMemory s (live.foldl (tellOwner ctx n) { s with ctxs := cs }) := by
    obtain ⟨_, _, _, ht⟩ := h.rest
    rw [ht]
    exact ⟨rfl, fun _ => rfl⟩
  refine ⟨_, ⟨he, hmem⟩, ?_, fun o ho => ?_, by rw [hreqs, List.length_append, h.count]⟩
  · rw [h.stream, htell]
    rfl
  · obtain ⟨r, hr, hk, how, hc, hst, hp⟩ := h.told o ho
    rw [htell] at hp
    exact ⟨r, hreqs ▸ List.mem_append_right _ hr, hk, how, hc, hst, hp⟩

end

end Sys2Proof.Machine

end

section
/-! The drains of the write-combining buffer: what sends an entry, and what its acknowledgement leaves (R217 to R219, R338). -/

namespace Sys2Proof.Machine

/-! ### Drains (R218) -/

section

variable {s : State} {t : Team} {e : WcEntry} (ht : tget s.teams s.iss.core = some t) (he : t.wc[s.iss.id]? = some e)

include ht

/-- A drained entry is one write to its owner, of its bytes, under its policy and partition (R59, R214, R218). -/
theorem wcSend_request : ∃ r ∈ (wcSend s s.iss.core e).reqs, r.kind = .write ∧ r.owner = e.peer ∧ r.pa = e.line * 128
    ∧ r.data = byteRuns (e.line * 128) e.bytes ∧ r.cp = e.hint.getD e.cp ∧ r.wp = e.wp ∧ r.id = s.stamp := by
  simp only [wcSend, ht]
  obtain ⟨n, hr⟩ := request_enters _ _ _
  exact ⟨_, hr, rfl, rfl, rfl, rfl, rfl, rfl, rfl⟩

include he

variable (hseq : e.seq = none) (hb : wcBehind s t e = false)

include hseq hb

theorem wcAgeExpiry_sends : Quietly .wcAgeExpiry s (wcSend s s.iss.core e) := by
  refine ⟨?_, fun a => by rw [wcSend_mem]⟩
  show execWcAgeExpiry s = _
  simp [execWcAgeExpiry, ht, he, hseq, hb]

theorem wcDrain_sends (hm : wcMustDrain s t e = true) : Quietly .wcDrain s (wcSend s s.iss.core e) := by
  refine ⟨?_, fun a => by rw [wcSend_mem]⟩
  show execWcDrain s = _
  simp [execWcDrain, ht, he, hseq, hb, hm]

end

theorem wcMustDrain_full (s : State) (t : Team) {e : WcEntry} (h : 128 ≤ e.bytes.length) : wcMustDrain s t e = true := by
  simp [wcMustDrain, h]

/-! ### Acknowledgements (R218, R219) -/

/-- No team holds an acknowledged write any more, in its buffer or among those sent at a preemption. -/
theorem wcDone_sentDone_clear (s : State) (seq : Nat) :
    ∀ e ∈ (wcDone (sentDone s seq) seq).teams, (∀ x ∈ e.2.wc, x.seq ≠ some seq) ∧ ∀ x ∈ e.2.sent, x.id ≠ seq := by
  intro e he
  simp only [wcDone, sentDone, modTeams, tmap, List.map_map, List.mem_map] at he
  obtain ⟨y, -, rfl⟩ := he
  exact ⟨fun x hx => by simpa using (List.mem_filter.1 hx).2, fun x hx => by simpa using (List.mem_filter.1 hx).2⟩

section

variable {s : State} {seq yst inc : Nat} (hm : s.msg = some (.wcDrainAck seq yst inc))

include hm

theorem wcDrainAck_unknown (hr : s.reqs.find? (fun r => r.id == seq && r.kind == .write) = none) : Quietly .wcDrainAck s s := by
  refine ⟨?_, fun _ => rfl⟩
  show execWcDrainAck s = _
  simp only [execWcDrainAck, hm, hr]

variable {r : Req} (hr : s.reqs.find? (fun r => r.id == seq && r.kind == .write) = some r)

include hr

theorem wcDrainAck_done (hy : yst = 0) : exec .wcDrainAck s = .next (wcDone (sentDone (doneReq s r []) seq) seq) := by
  subst hy
  show execWcDrainAck s = _
  simp only [execWcDrainAck, hm, hr]

theorem wcDrainAck_busy (hy : yst = 1) (ha : abandoned s r = false) :
    Quietly .wcDrainAck s (modReq s seq (fun x => { x with busy := true, sends := 0 })) := by
  subst hy
  refine ⟨?_, fun _ => rfl⟩
  show execWcDrainAck s = _
  simp [execWcDrainAck, hm, hr, ha, modReq]

end

/-- Settles O48: answers by their status, timeouts and resends by the state of the request, low-water updates owner by owner, and the
drains of the combining buffer with what their acknowledgement leaves. -/
theorem requesterEvents : Obligations.RequesterEvents := by
  refine ⟨fun _ _ _ _ _ hm => ⟨remoteAnswer_unknown hm, fun _ hr => remoteAnswer_ends hm hr⟩,
    fun s req data inc r t e hm hr hk hop ht he hw _ _ hs => ?lastRead,
    fun _ data => ⟨fun hl _ _ hp => returned_whole data hl hp, fun _ _ hp hl hd => returned_laid hp hl hd⟩,
    fun _ _ => remoteTimeout_dead, fun _ _ => remoteTimeout_abandoned, fun _ _ => remoteTimeout_resends, fun _ _ => busyResend_resends,
    fun _ _ => yptPacketExpire_drops, fun _ => lwmIdleSend_tells,
    fun s t e ht he hseq hb => ⟨wcAgeExpiry_sends ht he hseq hb, wcDrain_sends ht he hseq hb, wcMustDrain_full s t, wcSend_request ht⟩,
    fun s seq yst inc hm => ⟨wcDrainAck_unknown hm, fun r hr => ⟨fun hy => ⟨_, wcDrainAck_done hm hr hy, wcDone_sentDone_clear _ _⟩,
      wcDrainAck_busy hm hr⟩⟩⟩
  case lastRead =>
    intro u
    obtain ⟨hdone, -⟩ := remoteAnswer_ends hm hr
    rw [hdone rfl, doneReq_lastRead data hk hop ht he hw hs]

end Sys2Proof.Machine

end

section
/-! The copy commands, and the instructions that read a channel, wait for it, cancel it or publish (R232, R233, R236 to R240, R294,
R315). -/

namespace Sys2Proof.Machine

/-! ### An instruction whose effect has changed the package and its team -/

section

variable {s s' u : State} {w : LongWord} {sh : Shape} {k : Issue} {c : Ic} (o : Offered s w sh k c) {t : Team}
  (hg : tget t.groups c.grp = some c.g)

include o hg

/-- An instruction that passes is offered alike where its effect has changed the package and its team, its group being as it was. -/
theorem Offered.within (hi : u.iss = s.iss) (ht : tget u.teams c.core = some t) : Offered u w sh k { c with s := u, t := t } where
  word := o.word
  shape := o.shape
  core := o.core.trans (by rw [hi])
  grp := o.grp.trans (by rw [hi])
  pc := o.pc.trans (by rw [hi])
  len := o.len.trans (by rw [hi])
  team := ht
  group := hg
  width := o.width
  lanes := o.lanes
  uni := o.uni
  code := o.code
  plain := fun _ => rfl

variable (hi : s'.iss = s.iss)

include hi

theorem enterLong_overTeam (ds : List Dest) (r : Ord) (work : Work) (got : List (Nat × Word)) :
    LongDone { c with s := s', t := t } ds r work got
      (retire (enterLong { c with s := setTeam s' c.core t } ds r work got).st c.core c.grp c.pc c.next c.act [] w.s) := by
  obtain ⟨he, hm⟩ := enterLong_done (o.within hg (u := setTeam s' c.core t) hi (setTeam_get _ _ _)) ds r work got
  exact ⟨he.trans (setTeam_stamped _ _ _ _), hm⟩

theorem enterPosted_overTeam (r : Ord) (work : Work) :
    PostedDone { c with s := s', t := t } r work
      (retire (enterPosted { c with s := setTeam s' c.core t } r work).st c.core c.grp c.pc c.next c.act [] w.s) := by
  obtain ⟨he, hm⟩ := enterPosted_done (o.within hg (u := setTeam s' c.core t) hi (setTeam_get _ _ _)) r work
  exact ⟨he.trans (setTeam_stamped _ _ _ _), hm⟩

end

/-- An instruction whose body gives a state, and what follows once its lanes have advanced. -/
theorem completes_then {i : Instr} {s : State} {w : LongWord} {sh : Shape} {k : Issue} {c : Ic} {st : State} {post : State → State}
    {P : State → Prop} (h : offer s w sh k = .ok c) (body : Ic → Except Stop Eff) (he : exec i s = issue s w sh k body)
    (hk : k.blocking = false) (hb : body c = .ok { st := st, post := post })
    (hP : P (post (retire st c.core c.grp c.pc c.next c.act [] w.s))) : Completes i s P := by
  refine ⟨_, he.trans ((issue_ok h _).trans ?_), hP⟩
  simp [hb, hk]

theorem modCtx_setTeam (s : State) (n : Nat) (f : Context → Context) (core : Nat) (t : Team) :
    modCtx (setTeam s core t) n f = setTeam (modCtx s n f) core t := by
  simp only [modCtx, setTeam]
  split <;> rfl

/-! ### Copy commands (R232, R233, R236) -/

/-- The number of bytes that a copy command names. -/
def Ic.copyLen (c : Ic) (w : LongWord) : Nat := if w.lit.isSome then litNat w else (c.rd 0 w.b).toNat

/-- A copy to a publish buffer. -/
def CopyKind.publishes (kind : CopyKind) : Bool := kind == .cpyg || kind == .cpygSpad

/-- Where a copy command's bytes go. -/
def Ic.copyDst (c : Ic) (w : LongWord) (kind : CopyKind) : Nat :=
  if kind.publishes then (c.rd 0 w.c).toNat else (c.rd 0 w.c).toNat % 2 ^ 20

/-- The ranks that a copy command names: a CPYM's. -/
def Ic.copyMask (c : Ic) (w : LongWord) (kind : CopyKind) : Nat := if kind == .cpym then bitsAt (c.rd 0 w.c).toNat 32 12 else 0

/-- The generation of the next command of a channel. -/
def Ic.nextGen (c : Ic) (k : Nat) : Nat := (((c.t.chan[k]?).map (·.gen)).getD 0 + 1) % 2 ^ 30

/-- The channel of a copy command that has nothing to do with a publish buffer yet. -/
def Ic.copyChan (c : Ic) (w : LongWord) (kind : CopyKind) (k : Nat) : Channel :=
  { Channel.idle with st := if c.copyLen w = 0 then .done else .active, gen := c.nextGen k, kind := kind, grp := c.grp, ctx := c.ctx,
                      src := (c.rd 0 w.a).toNat, dst := c.copyDst w kind, len := c.copyLen w, mask := c.copyMask w kind,
                      hint := w.m6.toNat % 4, after := c.s.stamp, tids := c.tids.map (·.2) }

/-- What the first page of a CPYG's destination answers; a command that publishes nothing asks none. -/
def Ic.copyPage (c : Ic) (w : LongWord) (kind : CopyKind) : Except (Option Nat) Nat :=
  if kind.publishes && c.copyLen w != 0 then firstPage c.s c.ctx (c.copyDst w kind) else .error (some 0)

/-- The channel as its command starts it: open on its publish buffer, STOPPED at its first page, or with no buffer. -/
def Ic.copyStart (c : Ic) (w : LongWord) (kind : CopyKind) (k : Nat) : Channel :=
  if !kind.publishes || c.copyLen w = 0 then c.copyChan w kind k else
    match c.copyPage w kind with
    | .ok id => { c.copyChan w kind k with pubId := some id, open_ := true }
    | .error kd => { c.copyChan w kind k with st := .stopped, fkind := kd.getD 0, fva := c.copyDst w kind }

/-- The context counts one more open CPYG of the buffer of a channel, where it has one. -/
def Ic.countOpen (c : Ic) (ch : Channel) (s : State) : State :=
  match ch.pubId with
  | some id => modCtx s c.ctx (fun x => { x with openCpyg := tset x.openCpyg id (tgetD x.openCpyg id 0 + 1) })
  | none => s

theorem countOpen_setTeam (c : Ic) (ch : Channel) (s : State) (core : Nat) (t : Team) :
    c.countOpen ch (setTeam s core t) = setTeam (c.countOpen ch s) core t := by
  unfold Ic.countOpen
  split
  · exact modCtx_setTeam _ _ _ _ _
  · rfl

@[simp] theorem countOpen_iss (c : Ic) (ch : Channel) (s : State) : (c.countOpen ch s).iss = s.iss := by
  unfold Ic.countOpen; split <;> simp

@[simp] theorem countOpen_stamp (c : Ic) (ch : Channel) (s : State) : (c.countOpen ch s).stamp = s.stamp := by
  unfold Ic.countOpen; split <;> simp

@[simp] theorem countOpen_mem (c : Ic) (ch : Channel) (s : State) : (c.countOpen ch s).mem = s.mem := by
  unfold Ic.countOpen; split <;> simp

/-- Channel `k` has become `ch`, in the package `s'` otherwise, and the entry returns the handle. -/
def CopyStarted (c : Ic) (w : LongWord) (k : Nat) (ch : Channel) (s' t : State) : Prop :=
  t = ({ c with s := s', t := { c.t with chan := c.t.chan.set k ch } } : Ic).enters
    (c.entry true Ord.relaxed .values [(0, handleOf k (c.nextGen k))]) (c.slots [destOf w.d]) ∧ SameMemory c.s t

/-- A copy command by its parts: the checks, the idle channel, the first page, and the channel as it starts. -/
theorem startCopy_body (w : LongWord) (kind : CopyKind) (sub : Bool) (s : State) (c : Ic) :
    ∃ body, startCopy w kind sub s = issue s w (shapeCpy w sub) { entry := true, tx := some 2, dests := [destOf w.d] } body
      ∧ body c = (do
          checkCopy c kind (c.rd 0 w.a).toNat (c.copyDst w kind) (c.copyLen w) (c.copyMask w kind) (c.rd 0 w.c).toNat
          let k ← (match c.t.chan.findIdx? (fun x => x.st == .idle) with
            | some k => .ok k
            | none => .error (.stall .channel))
          need (c.copyPage w kind != .error none || !kind.publishes || c.copyLen w == 0) (.stall .order)
          .ok (enterLong { c with s := c.countOpen (c.copyStart w kind k) (modTeam c.s c.core (fun t =>
            { t with chan := t.chan.set k (c.copyStart w kind k) })) } [destOf w.d] Ord.relaxed .values [(0, handleOf k (c.nextGen k))])) :=
  ⟨_, rfl, rfl⟩

section

variable {i : Instr} {s : State} {w : LongWord} {kind : CopyKind} {sub : Bool} {c : Ic} {k : Nat}
  (he : exec i s = startCopy w kind sub s)
  (h : offer s w (shapeCpy w sub) { entry := true, tx := some 2, dests := [destOf w.d] } = .ok c)
  (hcheck : checkCopy c kind (c.rd 0 w.a).toNat (c.copyDst w kind) (c.copyLen w) (c.copyMask w kind) (c.rd 0 w.c).toNat = .ok ())
  (hk : c.t.chan.findIdx? (fun x => x.st == .idle) = some k)

include he h hcheck hk

/-- A copy command whose first page is not under migration starts the lowest idle channel. -/
theorem startCopy_completes (hpage : c.copyPage w kind ≠ .error none) :
    Completes i s (CopyStarted c w k (c.copyStart w kind k) (c.countOpen (c.copyStart w kind k) c.s)) := by
  have o := offer_ok h
  obtain ⟨body, hi, hb⟩ := startCopy_body w kind sub s c
  have hneed : (c.copyPage w kind != .error none || !kind.publishes || c.copyLen w == 0) = true := by
    simp [bne_iff_ne.2 hpage]
  obtain ⟨hdone, hmem⟩ := enterLong_overTeam (s' := c.countOpen (c.copyStart w kind k) c.s)
    (t := { c.t with chan := c.t.chan.set k (c.copyStart w kind k) }) o o.group (by simp [o.plain rfl])
    [destOf w.d] Ord.relaxed .values [(0, handleOf k (c.nextGen k))]
  refine completes_of_body h body (he.trans hi) rfl ?_ ⟨hdone.trans ?_, fun a => (hmem a).trans (by simp)⟩
  · simp only [hb, hcheck, hk, need_true hneed, modTeam_eq o.team, countOpen_setTeam, bind, Except.bind]
    rfl
  · simp only [Ic.entry, Ic.slots, countOpen_stamp]
    rfl

/-- How a copy command starts: by its operands alone, open on a publish buffer, or STOPPED at once at a first page that is no publish
page (R236). -/
theorem startCopy_outcomes :
    ((kind.publishes = false ∨ c.copyLen w = 0) → Completes i s (CopyStarted c w k (c.copyChan w kind k) c.s))
    ∧ (kind.publishes = true → c.copyLen w ≠ 0 →
        (∀ id, firstPage c.s c.ctx (c.copyDst w kind) = .ok id →
          Completes i s (CopyStarted c w k { c.copyChan w kind k with pubId := some id, open_ := true }
            (modCtx c.s c.ctx (fun x => { x with openCpyg := tset x.openCpyg id (tgetD x.openCpyg id 0 + 1) }))))
        ∧ (∀ kd, firstPage c.s c.ctx (c.copyDst w kind) = .error (some kd) →
            Completes i s (CopyStarted c w k { c.copyChan w kind k with st := .stopped, fkind := kd, fva := c.copyDst w kind } c.s))) := by
  have starts {ch : Channel} (hpage : c.copyPage w kind ≠ .error none) (hch : c.copyStart w kind k = ch) :
      Completes i s (CopyStarted c w k ch (c.countOpen ch c.s)) := hch ▸ startCopy_completes he h hcheck hk hpage
  refine ⟨fun hp => ?plain, fun hp hn => ⟨fun id hid => ?opens, fun kd hkd => ?stops⟩⟩
  case plain =>
    have hpage : c.copyPage w kind = .error (some 0) := by rcases hp with hp | hp <;> simp [Ic.copyPage, hp]
    exact starts (by simp [hpage]) (by rcases hp with hp | hp <;> simp [Ic.copyStart, hp])
  case opens =>
    have hpage : c.copyPage w kind = .ok id := by simp [Ic.copyPage, hp, hn, hid]
    exact starts (by simp [hpage]) (by simp [Ic.copyStart, hp, hn, hpage])
  case stops =>
    have hpage : c.copyPage w kind = .error (some kd) := by simp [Ic.copyPage, hp, hn, hkd]
    exact starts (by simp [hpage]) (by simp [Ic.copyStart, hp, hn, hpage])

end

theorem copyCommands : Claims.CopyCommands :=
  ⟨fun _ _ _ _ h hcheck hk => startCopy_outcomes rfl h hcheck hk, fun _ _ _ _ h hcheck hk => startCopy_outcomes rfl h hcheck hk,
    fun _ _ _ _ h hcheck hk => startCopy_outcomes rfl h hcheck hk, fun _ _ _ _ h hcheck hk => startCopy_outcomes rfl h hcheck hk⟩

/-! ### WPTR, CWAIT and PUBL (R237, R238, R240) -/

/-- What WPTR returns: the channel's P, or all ones for a stale handle (R237). -/
def Ic.writePointer (c : Ic) (x : Word) : Word :=
  match chanOf c.t x with
  | some (_, ch) => word ch.p
  | none => word (2 ^ 64 - 1)

theorem wptr_completes {w : LongWord} {s : State} {c : Ic}
    (h : offer s w { shapeW w with d := .dst 1, a := .src 1, port := .uniform } { entry := true, dests := [destOf w.d] } = .ok c) :
    Completes (.wptr w) s (LongDone c [destOf w.d] Ord.relaxed .values [(0, c.writePointer (c.rd 0 w.a))]) := by
  have he : exec (.wptr w) s = execWptr w s := rfl
  exact long_completes h (fun c => .ok (enterLong c [destOf w.d] Ord.relaxed .values [(0, c.writePointer (c.rd 0 w.a))])) he rfl _ _ _ _ rfl

section

variable {i : Instr} {s : State} {w : LongWord} {sub : Nat} {c : Ic} (he : exec i s = waitCopy w sub s)
  (h : offer s w { shapeW w with sub := subNo w == sub, d := .dst 1, a := .src 1, port := .uniform }
    { entry := true, dests := [destOf w.d] } = .ok c)

include he h

/-- A CWAIT of a stale handle has its status at once. -/
theorem waitCopy_stale (hh : chanOf c.t (c.rd 0 w.a) = none) :
    Completes i s (LongDone c [destOf w.d] Ord.relaxed .values [(0, staleWord)]) :=
  long_completes h _ he rfl _ _ _ _ (by simp only [hh])

/-- A CWAIT of a channel waits in its entry, and is served once the channel is final. -/
theorem waitCopy_waits {k : Nat} {ch : Channel} (hh : chanOf c.t (c.rd 0 w.a) = some (k, ch)) :
    Completes i s (fun t => SameMemory c.s t ∧ t = serveWaiters
      (c.enters (c.entry true ⟨true, false, false, .team, none⟩ (.cwait k ch.gen (sub == 0)) []) (c.slots [destOf w.d])) c.core) := by
  obtain ⟨hdone, hmem⟩ := enterLong_done (offer_ok h) [destOf w.d] ⟨true, false, false, .team, none⟩ (.cwait k ch.gen (sub == 0)) []
  refine completes_then h _ he rfl (by simp only [hh]; rfl) ⟨fun a => ?_, congrArg (serveWaiters · c.core) hdone⟩
  rw [serveWaiters_mem]
  exact hmem a

end

theorem publ_completes {w : LongWord} {s : State} {c : Ic} {ls : List Acc}
    (h : offer s w { shapeW w with m6 := w.m6.toNat ≤ 4, a := .src 1, port := .uniform } { entry := true, tx := some 2 } = .ok c)
    (hl : checkLanes c .publ 1 false [(0, (c.rd 0 w.a).toNat)] = .ok ls) {a : Acc} (ha : ls.head? = some a) {o : Ord}
    (ho : o = ⟨false, true, false, scopeOf (w.m6.toNat % 8), none⟩) :
    (c.writesNow → Completes (.publ w) s (PostedDone c o (.publ a o.scope)))
    ∧ (c.buffers → Completes (.publ w) s (BufferedDone c o (.publ a o.scope))) := by
  obtain ⟨ls, rfl⟩ := List.head?_eq_some_iff.1 ha
  subst ho
  refine ⟨fun hw => posted_completes h _ rfl rfl _ _ ?_, fun hb => buffered_completes h _ rfl rfl _ _ ?_⟩
  · simp only [hl, detBuffered_direct hw, bind, Except.bind]
  · simp only [hl, detBuffered_buffer hb, bind, Except.bind]

theorem copyControl : Claims.CopyControl := by
  refine ⟨fun _ _ _ => wptr_completes, fun _ _ _ h => ⟨waitCopy_stale rfl h, fun _ _ => waitCopy_waits rfl h⟩,
    fun _ _ _ h => ⟨waitCopy_stale rfl h, fun _ _ => waitCopy_waits rfl h⟩, fun _ _ _ _ h hl _ ha => publ_completes h hl ha rfl⟩

/-- Settles O26: the commands by how they start the lowest idle channel, the others by their entries. -/
theorem copyIssued : Obligations.CopyIssued := ⟨copyCommands, copyControl⟩

/-! ### CCAN (R239) -/

/-- The channel that a handle names is one of the team's. -/
theorem chanOf_get {t : Team} {x : Word} {k : Nat} {ch : Channel} (h : chanOf t x = some (k, ch)) : t.chan[k]? = some ch := by
  unfold chanOf at h
  dsimp only at h
  split at h
  · rename_i hc
    split at h
    · cases h
      exact hc
    · cases h
  · cases h

/-- An element that is there is replaced. -/
theorem lmod_of_get {α : Type} {l : List α} {k : Nat} {x : α} (h : l[k]? = some x) (f : α → α) : lmod l k f = l.set k (f x) := by
  rw [lmod, List.modify_eq_set_getElem?, h]
  rfl

@[simp] theorem closeCpyg_teams (s : State) (c : Channel) (done : Bool) : (closeCpyg s c done).teams = s.teams := by
  unfold closeCpyg
  (repeat' split) <;> simp

@[simp] theorem closeCpyg_iss (s : State) (c : Channel) (done : Bool) : (closeCpyg s c done).iss = s.iss := by
  unfold closeCpyg
  (repeat' split) <;> simp

@[simp] theorem closeCpyg_stamp (s : State) (c : Channel) (done : Bool) : (closeCpyg s c done).stamp = s.stamp := by
  unfold closeCpyg
  (repeat' split) <;> simp

/-- The package once CCAN has acted on the channel that a handle names (R239). -/
def Ic.cancels (c : Ic) (x : Word) : State :=
  match chanOf c.t x with
  | some (k, ch) =>
    if ch.st == .stopped then modTeam c.s c.core (fun t => { t with chan := lmod t.chan k (fun y => { y with st := .cancelled }) })
    else cancelChan c.s c.core k ch
  | none => c.s

section

variable {c : Ic} {x : Word}

theorem cancels_stale (hx : chanOf c.t x = none) : c.cancels x = c.s := by simp only [Ic.cancels, hx]

variable {k : Nat} {ch : Channel} (hx : chanOf c.t x = some (k, ch))

include hx

theorem cancels_final (hst : ch.st = .done ∨ ch.st = .cancelled) : c.cancels x = c.s := by
  rcases hst with hst | hst <;> simp [Ic.cancels, hx, hst, cancelChan]

variable (ht : tget c.s.teams c.core = some c.t)

include ht

theorem cancels_stopped (hst : ch.st = .stopped) :
    c.cancels x = setTeam c.s c.core { c.t with chan := c.t.chan.set k { ch with st := .cancelled } } := by
  simp [Ic.cancels, hx, hst, modTeam_eq ht, lmod_of_get (chanOf_get hx)]

theorem cancels_active (hst : ch.st = .active) :
    c.cancels x = setTeam (dropChanReads (closeCpyg c.s ch false) c.core k) c.core
      { c.t with chan := c.t.chan.set k { ch with st := .cancelled, open_ := false, waitRemote := false } } := by
  have ht' : tget (dropChanReads (closeCpyg c.s ch false) c.core k).teams c.core = some c.t := by simpa [dropChanReads] using ht
  simp [Ic.cancels, hx, hst, cancelChan, modTeam_eq ht', lmod_of_get (chanOf_get hx)]

end

/-- CCAN posted, with the team's channels `chan` and the package `s'` otherwise, and the CWAITs of the team then served. -/
def CancelPosted (c : Ic) (s s' : State) (chan : List Channel) (t : State) : Prop :=
  SameMemory s t ∧ t =
    serveWaiters (({ c with s := s', t := { c.t with chan := chan } } : Ic).enters (c.entry false Ord.relaxed .done []) c.g) c.core

theorem ccan_body (w : LongWord) (s : State) (c : Ic) :
    ∃ body, exec (.ccan w) s = issue s w { shapeW w with a := .src 1, port := .uniform } { entry := true } body
      ∧ body c = .ok { st := (enterPosted { c with s := c.cancels (c.rd 0 w.a) } Ord.relaxed .done).st,
                       post := fun s => serveWaiters s c.core } := by
  have he : exec (.ccan w) s = execCcan w s := rfl
  exact ⟨_, he, rfl⟩

section

variable {s s' : State} {w : LongWord} {c : Ic} {chan : List Channel}
  (h : offer s w { shapeW w with a := .src 1, port := .uniform } { entry := true } = .ok c)

include h

/-- CCAN completes with the entry that it has made in the package it leaves. -/
theorem ccan_posts (hs : s'.stamp = c.s.stamp) (hm : s'.mem = c.s.mem)
    (hdone : PostedDone { c with s := s', t := { c.t with chan := chan } } Ord.relaxed .done
      (retire (enterPosted { c with s := c.cancels (c.rd 0 w.a) } Ord.relaxed .done).st c.core c.grp c.pc c.next c.act [] w.s)) :
    Completes (.ccan w) s (CancelPosted c s s' chan) := by
  obtain ⟨he, hmem⟩ := hdone
  obtain ⟨body, hi, hb⟩ := ccan_body w s c
  refine completes_then h body hi rfl hb ⟨fun a => ?_, congrArg (serveWaiters · c.core) (he.trans ?_)⟩
  · rw [serveWaiters_mem, ← offer_mem h, ← hm]
    exact hmem a
  · simp only [Ic.entry, hs]
    rfl

theorem ccan_unchanged (hx : c.cancels (c.rd 0 w.a) = c.s) : Completes (.ccan w) s (CancelPosted c s c.s c.t.chan) :=
  ccan_posts h rfl rfl (by rw [hx]; exact enterPosted_done (offer_ok h) Ord.relaxed .done)

theorem ccan_changes (hi : s'.iss = c.s.iss) (hs : s'.stamp = c.s.stamp) (hm : s'.mem = c.s.mem)
    (hx : c.cancels (c.rd 0 w.a) = setTeam s' c.core { c.t with chan := chan }) : Completes (.ccan w) s (CancelPosted c s s' chan) := by
  have o := offer_ok h
  refine ccan_posts h hs hm ?_
  rw [hx]
  exact enterPosted_overTeam o (t := { c.t with chan := chan }) o.group (hi.trans (congrArg State.iss (o.plain rfl))) Ord.relaxed .done

end

/-- Settles O27: what CCAN leaves of the package by the state of the channel, and its entry in that package. -/
theorem cancelChannel : Obligations.CancelChannel := by
  intro w s c h
  have ht := (offer_ok h).team
  refine ⟨fun hx => ccan_unchanged h (cancels_stale hx), fun k ch hx => ⟨fun hst => ccan_unchanged h (cancels_final hx hst),
    fun hst => ccan_changes h rfl rfl rfl (cancels_stopped hx ht hst),
    fun hst => ccan_changes h ?_ ?_ ?_ (cancels_active hx ht hst)⟩⟩
  all_goals simp [dropChanReads]

end Sys2Proof.Machine

end

section
/-! Commands of the matrix engine: how one enters the request table, and MMA (R244, R249, R250, R260). -/

namespace Sys2Proof.Machine

/-! ### The request table (R244, R249, R260) -/

section

variable {c : Ic} {cmd : EngCmd} {tiles recs words : List (Nat × Nat)} {kept : List (Nat × Reservation)} {stage : Nat} {xls : List Xl}
  {tok : Bool}

/-- With room in the table and in the staging array the command enters, in the lowest free entry. -/
theorem enterTable_ok (h : c.engineRoom stage) : ∃ c' n, c.Commands cmd tiles recs kept words stage xls tok c' n
    ∧ enterTable c cmd tiles recs kept words stage xls tok = .ok (c'.s, n) := by
  obtain ⟨⟨j, hj, hfree⟩, hstage⟩ := h
  obtain ⟨i, hi⟩ := Option.isSome_iff_exists.1 (List.find?_isSome.2
    ⟨j, List.mem_range.2 hj, Option.isNone_iff_eq_none.2 hfree⟩ : ((List.range 32).find? (fun i => (tget c.eng.table i).isNone)).isSome)
  obtain ⟨hnone, hmem, hlow⟩ := List.find?_range_eq_some.1 hi
  have hroom : ¬ ((stage != 0 && decide ((c.eng.table.map (fun x => x.2.stage)).sum + stage > 128 * 1024)) = true) := by
    rcases hstage with h | h
    · simp [h]
    · simp; omega
  refine ⟨_, _, ⟨i, List.mem_range.1 hmem, Option.isNone_iff_eq_none.1 hnone, fun k hk hn => ?_, rfl, rfl⟩, ?_⟩
  · simpa [hn] using hlow k hk
  · simp only [enterTable, hi, if_neg hroom]

/-- A command in the table changes no team, and no memory. -/
theorem Ic.Commands.frame {c' : Ic} {n : Nat} (h : c.Commands cmd tiles recs kept words stage xls tok c' n) :
    ∃ u, c' = { c with s := u } ∧ u.teams = c.s.teams ∧ u.iss = c.s.iss ∧ u.mem = c.s.mem := by
  obtain ⟨i, -, -, -, -, hc⟩ := h
  exact ⟨_, hc, rfl, rfl, rfl⟩

end

section

variable {i : Instr} {s : State} {w : LongWord} {sh : Shape} {k : Issue} {c : Ic} (h : offer s w sh k = .ok c)
  (body : Ic → Except Stop Eff) (he : exec i s = issue s w sh k body) (hk : k.blocking = false) {cmd : EngCmd}
  {tiles recs words : List (Nat × Nat)}

include h he hk

/-- An instruction whose body posts an engine command completes with it in the table. -/
theorem commandPosted_completes {xls : List Xl} {tok : Bool} (hroom : c.engineRoom 0)
    (hb : body c = (enterTable c cmd tiles recs [] words 0 xls tok >>= fun r => .ok (postEngine c r))) :
    Completes i s (CommandPosted c cmd tiles recs words xls tok) := by
  obtain ⟨c', n, hc, ht⟩ := enterTable_ok (cmd := cmd) (tiles := tiles) (recs := recs) (kept := []) (words := words) (xls := xls)
    (tok := tok) hroom
  obtain ⟨u, rfl, hteams, hiss, hm⟩ := hc.frame
  have o := offer_ok h
  obtain ⟨hdone, hmem⟩ := enterPosted_done (o.within o.group (hiss.trans (congrArg State.iss (o.plain hk))) (hteams ▸ o.team))
    Ord.relaxed (.engine n)
  exact completes_of_body h body he hk (hb.trans (by rw [ht]; rfl)) ⟨_, n, hc, hdone, fun a => (hmem a).trans (by rw [hm])⟩

/-- An instruction whose body makes a long engine command completes with it in the table. -/
theorem commandLong_completes {kept : List (Nat × Reservation)} {stage : Nat} {work : Nat → Work} {got : Nat → List (Nat × Word)}
    (hroom : c.engineRoom stage) (hb : body c = (enterTable c cmd tiles recs kept words stage [] false >>= fun r =>
      .ok (enterLong { c with s := r.1 } [destOf w.d] Ord.relaxed (work r.2) (got r.2)))) :
    Completes i s (CommandLong c cmd tiles recs kept words stage work got) := by
  obtain ⟨c', n, hc, ht⟩ := enterTable_ok (cmd := cmd) (tiles := tiles) (recs := recs) (kept := kept) (words := words) (xls := [])
    (tok := false) hroom
  obtain ⟨u, rfl, hteams, hiss, hm⟩ := hc.frame
  have o := offer_ok h
  obtain rfl := o.word
  obtain ⟨hdone, hmem⟩ := enterLong_done (o.within o.group (hiss.trans (congrArg State.iss (o.plain hk))) (hteams ▸ o.team))
    [destOf c.w.d] Ord.relaxed (work n) (got n)
  exact completes_of_body h body he hk (hb.trans (by rw [ht]; rfl)) ⟨_, n, hc, hdone, fun a => (hmem a).trans (by rw [hm])⟩

end

/-- A check that passes is followed by what comes after it. -/
theorem ok_bind {α β : Type} (a : α) (f : α → Except Stop β) : (Except.ok a >>= f) = f a := rfl

/-- Words of which none is among others meet none of them. -/
theorem overlapAt_none {us vs : List (Nat × Nat)} (h : ∀ u ∈ us, u ∉ vs) : overlapAt us vs = none := by
  have hnil : us.filter (fun x => vs.contains x) = [] := List.filter_eq_nil_iff.2 fun u hu => by simpa using h u hu
  rw [overlapAt, hnil]
  rfl

/-! ### MMA (R249, R250, R260) -/

theorem snapshotLost_none {c : Ic} (h : ∀ x ∈ c.g.threads, x.bad = []) (o : Opnd) : snapshotLost c o = none := by
  have hall : c.g.threads.all (fun t => t.bad.isEmpty) = true := List.all_eq_true.2 fun x hx => by simp [h x hx]
  simp [snapshotLost, hall]

theorem matrixPass : Claims.MatrixPass := by
  intro w s c h ws src words a b hfail hbad hdrain hroom
  have he : exec (.mma w) s = execMma w s := rfl
  refine commandLong_completes h _ he rfl hroom ?_
  dsimp only [ws] at hfail
  simp only [hfail]
  rw [overlapAt_none]
  · simp only [snapshotLost_none hbad, Option.or_none]
    rfl
  · intro u hu hmem
    obtain ⟨x, hx, hux⟩ := List.mem_flatMap.1 hmem
    split at hux
    · rename_i f d v hcmd
      split at hux
      · exact hdrain x hx f d v hcmd (eq_of_beq ‹_›) u hu hux
      · cases hux
    · cases hux

end Sys2Proof.Machine

end

section
/-! MWAIT: the failure that it raises, and the wait (R261, R267). -/

namespace Sys2Proof.Machine

/-- The older of a failure and the oldest so far, the first of two as old. -/
def olderFail (a : Option EngFail) (f : EngFail) : Option EngFail :=
  match a with
  | none => some f
  | some x => if f.stamp < x.stamp then some f else some x

theorem coveredFail_eq (c : Ic) (p : EngFail → Bool) :
    coveredFail c p = (c.eng.fails.filter (fun f => f.core == c.core && f.grp == c.grp && p f)).foldl olderFail none := rfl

theorem olderFail_takes {a : Option EngFail} {f : EngFail} (h : ∀ y, a = some y → y = f ∨ f.stamp < y.stamp) : olderFail a f = some f := by
  cases a with
  | none => rfl
  | some y => rcases h y rfl with rfl | hlt <;> simp [olderFail, *]

theorem olderFail_keeps {f x : EngFail} (h : f.stamp < x.stamp) : olderFail (some f) x = some f :=
  if_neg (Nat.not_lt_of_gt h)

theorem olderFail_either (a : Option EngFail) (x : EngFail) : olderFail a x = some x ∨ olderFail a x = a := by
  cases a with
  | none => exact .inl rfl
  | some y => exact ite_eq_or_eq _ _ _

/-- The oldest of a list is found, from any start that is younger. -/
theorem foldl_olderFail {f : EngFail} {l : List EngFail} (hl : ∀ x ∈ l, x ≠ f → f.stamp < x.stamp) {a : Option EngFail}
    (ha : a = some f ∨ f ∈ l ∧ ∀ y, a = some y → f.stamp < y.stamp) : l.foldl olderFail a = some f := by
  induction l generalizing a with
  | nil => simpa using ha
  | cons x r ih =>
    refine ih (fun y hy => hl y (List.mem_cons_of_mem _ hy)) ?_
    by_cases hx : x = f
    · subst hx
      refine .inl (olderFail_takes fun y hy => ?_)
      rcases ha with ha | ⟨-, ha⟩
      · exact .inl (Option.some.inj (hy.symm.trans ha))
      · exact .inr (ha y hy)
    · have hlt := hl x List.mem_cons_self hx
      rcases ha with rfl | ⟨hf, ha⟩
      · exact .inl (olderFail_keeps hlt)
      · refine .inr ⟨(List.mem_cons.1 hf).resolve_left (Ne.symm hx), fun y hy => ?_⟩
        rcases olderFail_either a x with h | h
        · exact Option.some.inj (h.symm.trans hy) ▸ hlt
        · exact ha y (h ▸ hy)

theorem coveredFail_none {c : Ic} {p : EngFail → Bool} (h : ∀ f ∈ c.eng.fails, f.core = c.core → f.grp = c.grp → p f = false) :
    coveredFail c p = none := by
  have hnil : c.eng.fails.filter (fun f => f.core == c.core && f.grp == c.grp && p f) = [] :=
    List.filter_eq_nil_iff.2 fun f hf hcov => by
      simp only [Bool.and_eq_true, beq_iff_eq] at hcov
      obtain ⟨⟨hc, hg⟩, hp⟩ := hcov
      simp [h f hf hc hg] at hp
  rw [coveredFail_eq, hnil]
  rfl

theorem coveredFail_oldest {c : Ic} {p : EngFail → Bool} {f : EngFail} (hf : f ∈ c.eng.fails) (hc : f.core = c.core) (hg : f.grp = c.grp)
    (hp : p f = true) (hold : ∀ y ∈ c.eng.fails, y.core = c.core → y.grp = c.grp → p y = true → y ≠ f → f.stamp < y.stamp) :
    coveredFail c p = some f := by
  rw [coveredFail_eq]
  refine foldl_olderFail (fun y hy => ?_) (.inr ⟨List.mem_filter.2 ⟨hf, by simp [hc, hg, hp]⟩, fun _ h => nomatch h⟩)
  obtain ⟨hy, hcov⟩ := List.mem_filter.1 hy
  simp only [Bool.and_eq_true, beq_iff_eq] at hcov
  obtain ⟨⟨hyc, hyg⟩, hyp⟩ := hcov
  exact hold y hy hyc hyg hyp

/-- The package in which a failure is no longer kept: it is raised (R267). -/
def Ic.raises (c : Ic) (f : EngFail) : State := modEngine c.s (quadNo c.core) (fun e => { e with fails := e.fails.filter (fun y => y != f) })

section

variable {i : Instr} {s : State} {w : LongWord} {sh : Shape} {busy : Ic → EngEntry → Bool} {p : Ic → EngFail → Bool} {c : Ic}
  (he : exec i s = waitEngine w sh busy p s) (h : offer s w sh { blocking := true, tx := some 2 } = .ok c)
  (hbusy : ∀ x ∈ c.eng.table, busy c x.2 = false)

include he h hbusy

/-- A wait with nothing of its commands in the table comes to what they failed with. -/
theorem waitEngine_idle : exec i s = match coveredFail c (p c) with
    | none => .next (retire c.s c.core c.grp c.pc c.next c.act [] false)
    | some f => stopState c (.failed (c.raises f) f.trap) := by
  have hnone : c.eng.table.any (fun x => busy c x.2) = false := List.any_eq_false.2 fun x hx => by simp [hbusy x hx]
  have htok : c.eng.table.any (fun x => busy c x.2 && x.2.tok) = false := List.any_eq_false.2 fun x hx => by simp [hbusy x hx]
  refine he.trans ((issue_ok h _).trans ?_)
  simp only [hnone, htok, Bool.false_and, Bool.not_false, need, if_true, bind, Except.bind]
  cases coveredFail c (p c)
  · simp
  · rfl

theorem waitEngine_goes (hnone : coveredFail c (p c) = none) :
    Completes i s (fun t => t = c.with (retireGroup c.pc c.next c.act [] false c.g) ∧ SameMemory s t) := by
  have o := offer_ok h
  refine ⟨_, by rw [waitEngine_idle he h hbusy, hnone], with_self o.team o.group _ _ _ _ _, fun a => ?_⟩
  rw [with_self o.team o.group, ← offer_mem h]
  rfl

theorem waitEngine_raises {f : EngFail} (hf : coveredFail c (p c) = some f) (hc : f.trap.cause ≠ 0x10) :
    exec i s = .next (takeTrap (c.raises f) c.core c.grp f.trap c.pc c.pc false false c.act) := by
  rw [waitEngine_idle he h hbusy, hf]
  simp [stopState, hc]

/-- A wait goes on where no command that it covers has failed, and raises the oldest failure that it covers (R267). -/
theorem waitEngine_outcomes :
    ((∀ f ∈ c.eng.fails, f.core = c.core → f.grp = c.grp → p c f = false) →
      Completes i s (fun t => t = c.with (retireGroup c.pc c.next c.act [] false c.g) ∧ SameMemory s t))
    ∧ (∀ f ∈ c.eng.fails, f.core = c.core → f.grp = c.grp → p c f = true → f.trap.cause ≠ 0x10 →
        (∀ y ∈ c.eng.fails, y.core = c.core → y.grp = c.grp → p c y = true → y ≠ f → f.stamp < y.stamp) →
        exec i s = .next (takeTrap (c.raises f) c.core c.grp f.trap c.pc c.pc false false c.act)) :=
  ⟨fun hn => waitEngine_goes he h hbusy (coveredFail_none hn),
    fun _ hf hc hg hp hu hold => waitEngine_raises he h hbusy (coveredFail_oldest hf hc hg hp hold) hu⟩

end

theorem matrixWaits : Claims.EngineWaits := by
  refine ⟨fun w s c h hbusy => ?_, fun w s c h hbusy => ?_⟩
  · have he : exec (.mwait w) s = execMwait w s := rfl
    exact waitEngine_outcomes he h hbusy
  · have he : exec (.mwaitAll w) s = execMwaitAll w s := rfl
    exact waitEngine_outcomes he h hbusy

end Sys2Proof.Machine

end

section
/-! The tile commands: MZERO, MSAVE, MLOAD, MCHK and MDRAIN (R227, R247, R262 to R266). -/

namespace Sys2Proof.Machine

/-! ### MZERO, MSAVE, MLOAD and MCHK (R264 to R266) -/

theorem mzero_completes {w : LongWord} {s : State} {c : Ic} {ts : List (Nat × Nat)}
    (h : offer s w (shapeM w (subNo w != 0 && subNo w < 16)) { entry := true, tx := some 2 } = .ok c)
    (ht : maskTiles c (subNo w) = some ts) (hroom : c.engineRoom 0) : Completes (.mzero w) s (CommandPosted c .mzero ts [] [] [] false) := by
  have he : exec (.mzero w) s = execMzero w s := rfl
  refine commandPosted_completes h _ he rfl hroom ?_
  simp only [ht]

theorem tileMemory_completes {i : Instr} {w : LongWord} {save : Bool} {s : State} (he : exec i s = tileMemory w save s) {c : Ic} {b : Nat}
    {xls : List Xl} (h : offer s w { shapeM w (subNo w < 4) with a := .src 1 } { entry := true, tx := some 2 } = .ok c)
    (hva : (c.rd 0 w.a).toNat % 128 = 0) (hb : heldTile c.eng c.core c.grp (subNo w) = some b)
    (hp : checkPages c (pagesOf [((c.rd 0 w.a).toNat, 131072)]) = .ok xls) (hx : ∀ x ∈ xls, x.mt = 0 ∧ (save = true → x.w = true))
    (hroom : c.engineRoom 0) : Completes i s (CommandPosted c (if save then .msave (c.rd 0 w.a) else .mload (c.rd 0 w.a))
      [(subNo w, b)] [] [] xls false) := by
  have hw : xls.all (fun x => x.mt == 0 && (x.w || !save)) = true := List.all_eq_true.2 fun x hm => by
    obtain ⟨hmt, hsave⟩ := hx x hm
    have hwrite : (x.w || !save) = true := by
      cases hs : save
      · exact Bool.or_true _
      · rw [hsave hs]; rfl
    simp [hmt, hwrite]
  refine commandPosted_completes h _ he rfl hroom ?_
  simp only [need_true (beq_iff_eq.2 hva), hb, hp, need_true hw, ok_bind]

theorem mchk_completes {w : LongWord} {s : State} {c : Ic} {b : Nat}
    (h : offer s w { shapeM w (subNo w < 4) with d := .dst 1 } { entry := true, tx := some 2, dests := [destOf w.d] } = .ok c)
    (hb : heldTile c.eng c.core c.grp (subNo w) = some b) (hroom : c.engineRoom 0) :
    Completes (.mchk w) s (CommandLong c .mchk [(subNo w, b)] [] [] [] 0 .engine (fun _ => [])) := by
  have he : exec (.mchk w) s = execMchk w s := rfl
  refine commandLong_completes h _ he rfl hroom ?_
  simp only [hb]

/-! ### MDRAIN (R262, R263) -/

theorem need_false {b : Bool} (h : b = false) (st : Stop) : need b st = .error st := by simp [need, h]

/-- The descriptor of a drain. -/
def Ic.drainDesc (c : Ic) (w : LongWord) : Nat := (readRegAt c.g 0 w.a 1).toNat

/-- The address that a drain writes from. -/
def Ic.drainDst (c : Ic) (w : LongWord) : Nat := (c.rd 0 w.a).toNat

/-- The command of a drain. -/
def Ic.drainCmd (c : Ic) (w : LongWord) : EngCmd := .mdrain (subNo w) (readRegAt c.g 0 w.a 1) (c.rd 0 w.a)

/-- The first byte of a row of a drain to a scratchpad. -/
def Ic.drainRow (c : Ic) (w : LongWord) (i : Nat) : Nat := c.drainDst w % 2 ^ 20 + i * bitsAt (c.drainDesc w) 0 20

/-- The bytes of a row. -/
def Ic.drainRowLen (c : Ic) (w : LongWord) : Nat := 128 * (if bitsAt (c.drainDesc w) 22 5 = 8 then 4 else 2)

/-- The words of a core's scratchpad that the rows of a drain lie in. -/
def Ic.drainWords (c : Ic) (w : LongWord) (k : Nat) : List (Nat × Nat) :=
  (List.range 128).flatMap (fun i =>
    (List.range ((c.drainRow w i + c.drainRowLen w - 1) / 8 - c.drainRow w i / 8 + 1)).map (fun j => (2 * k, c.drainRow w i / 8 + j)))

/-- The words that passes of the team in the request table read. -/
def Ic.passWords (c : Ic) : List (Nat × Nat) :=
  c.eng.table.flatMap (fun x => match x.2.cmd with
    | .mma _ _ _ => if x.2.core == c.core then x.2.words else []
    | _ => [])

/-- What a drain to a scratchpad comes to, its descriptor and its tile being good (R227, R247, R263). -/
def Ic.spadDrain (c : Ic) (w : LongWord) (b : Nat) : Except Stop Eff :=
  match rankCore c (bitsAt (c.drainDst w) 20 4) with
  | none => .error (.trap (emma 5))
  | some k => do
    need (k == c.core || !c.t.closed.contains (bitsAt (c.drainDst w) 20 4)) (.trap ⟨0x06, word (c.drainDst w), 0⟩)
    need ((List.range 128).all (fun i => decide (c.drainRow w i + c.drainRowLen w ≤ recScratch c.r))) (.trap (emma 6))
    match overlapAt (c.drainWords w k) (c.passWords ++ logWords c.eng c.core) with
    | some o => .error (.trap ⟨0x0B, word o, 0⟩)
    | none => enterTable c (c.drainCmd w) [(bitsAt (c.drainDesc w) 20 2, b)] [] [] (c.drainWords w k) 0 [] false
        >>= fun r => .ok (postEngine c r)

theorem drainRows_eq (c : Ic) (w : LongWord) :
    drainRows (c.drainDesc w) (c.drainDst w % 2 ^ 20) = (List.range 128).map (fun i => (c.drainRow w i, c.drainRowLen w)) := by
  simp only [drainRows, drainWidth, beq_iff_eq]
  rfl

/-- A word that no pass of the team in the request table reads. -/
theorem not_mem_passWords {c : Ic} {u : Nat × Nat}
    (h : ∀ x ∈ c.eng.table, ∀ p y z, x.2.core = c.core → x.2.cmd = .mma p y z → u ∉ x.2.words) : u ∉ c.passWords := by
  intro hmem
  obtain ⟨x, hx, hux⟩ := List.mem_flatMap.1 hmem
  split at hux
  · rename_i p y z hcmd
    split at hux
    · exact h x hx p y z (eq_of_beq ‹_›) hcmd hux
    · cases hux
  · cases hux

section

variable {c : Ic} {w : LongWord} {b k : Nat}

/-- A rank that names no core of the quad. -/
theorem spadDrain_unreachable (hr : rankCore c (bitsAt (c.drainDst w) 20 4) = none) : c.spadDrain w b = .error (.trap ⟨0x15, 0, 5⟩) := by
  simp only [Ic.spadDrain, hr]
  rfl

variable (hr : rankCore c (bitsAt (c.drainDst w) 20 4) = some k)

include hr

/-- A rank of another team that is closed. -/
theorem spadDrain_closed (hk : k ≠ c.core) (hc : bitsAt (c.drainDst w) 20 4 ∈ c.t.closed) :
    c.spadDrain w b = .error (.trap ⟨0x06, word (c.drainDst w), 0⟩) := by
  have hopen : (k == c.core || !c.t.closed.contains (bitsAt (c.drainDst w) 20 4)) = false := by simp [hk, hc]
  simp only [Ic.spadDrain, hr, need_false hopen]
  rfl

variable (hopen : k = c.core ∨ bitsAt (c.drainDst w) 20 4 ∉ c.t.closed)

include hopen

/-- A row that lies past SCRATCH. -/
theorem spadDrain_past (hp : ∃ i, i < 128 ∧ recScratch c.r < c.drainRow w i + c.drainRowLen w) :
    c.spadDrain w b = .error (.trap ⟨0x15, 0, 6⟩) := by
  obtain ⟨i, hi, hlt⟩ := hp
  have hrank : (k == c.core || !c.t.closed.contains (bitsAt (c.drainDst w) 20 4)) = true := by simpa using hopen
  have hrows : (List.range 128).all (fun i => decide (c.drainRow w i + c.drainRowLen w ≤ recScratch c.r)) = false :=
    List.all_eq_false.2 ⟨i, List.mem_range.2 hi, by simpa using hlt⟩
  simp only [Ic.spadDrain, hr, need_true hrank, need_false hrows]
  rfl

/-- Rows below SCRATCH that meet no word which a pass of the team may still read. -/
theorem spadDrain_enters (hrows : ∀ i, i < 128 → c.drainRow w i + c.drainRowLen w ≤ recScratch c.r)
    (hu : ∀ u ∈ c.drainWords w k, u ∉ logWords c.eng c.core
      ∧ ∀ x ∈ c.eng.table, ∀ p y z, x.2.core = c.core → x.2.cmd = .mma p y z → u ∉ x.2.words) :
    c.spadDrain w b = (enterTable c (c.drainCmd w) [(bitsAt (c.drainDesc w) 20 2, b)] [] [] (c.drainWords w k) 0 [] false
      >>= fun r => .ok (postEngine c r)) := by
  have hrank : (k == c.core || !c.t.closed.contains (bitsAt (c.drainDst w) 20 4)) = true := by simpa using hopen
  have hall : (List.range 128).all (fun i => decide (c.drainRow w i + c.drainRowLen w ≤ recScratch c.r)) = true :=
    List.all_eq_true.2 fun i hi => decide_eq_true (hrows i (List.mem_range.1 hi))
  have hfree : overlapAt (c.drainWords w k) (c.passWords ++ logWords c.eng c.core) = none := by
    refine overlapAt_none fun u hmem => ?_
    obtain ⟨hlog, hpass⟩ := hu u hmem
    simp [hlog, not_mem_passWords hpass]
  simp only [Ic.spadDrain, hr, need_true hrank, need_true hall, hfree, ok_bind]

end

section

variable {s : State} {w : LongWord} {c : Ic} {b : Nat}
  (hd : badDrain (c.drainDesc w) = false) (hb : heldTile c.eng c.core c.grp (bitsAt (c.drainDesc w) 20 2) = some b)

include hd hb

theorem mdrain_memory (h : offer s w { shapeM w (subNo w < 8) with a := .src 2 } { entry := true, tx := some 2 } = .ok c)
    (hspad : nbit (subNo w) 1 = false) (hdst : c.drainDst w % 32 = 0)
    (hdet : recDet c.r = false ∨ c.t.hadToken = false ∨ c.t.hasToken = true) {xls : List Xl}
    (hp : checkPages c (pagesOf (drainRows (c.drainDesc w) (c.drainDst w))) = .ok xls)
    (hx : ∀ x ∈ xls, x.mt = 0 ∧ x.w = true) (hroom : c.engineRoom 0) :
    Completes (.mdrain w) s (CommandPosted c (c.drainCmd w) [(bitsAt (c.drainDesc w) 20 2, b)] [] [] xls (recDet c.r)) := by
  have he : exec (.mdrain w) s = execMdrain w s := rfl
  have hgood : (!badDrain (c.drainDesc w) && c.drainDst w % 32 == 0) = true := by simp [hd, hdst]
  have htok : (!(recDet c.r && c.t.hadToken && !c.t.hasToken)) = true := by rcases hdet with h | h | h <;> simp [h]
  have hw : xls.all (fun x => x.mt == 0 && x.w) = true := List.all_eq_true.2 fun x hm => by simp [hx x hm]
  refine commandPosted_completes h _ he rfl hroom ?_
  simp only [← Ic.drainDesc.eq_1, ← Ic.drainDst.eq_1, ← Ic.drainCmd.eq_1, hspad, Bool.false_eq_true, if_false, need_true hgood, hb, hp,
    need_true htok, need_true hw, ok_bind]

theorem mdrain_spad (hspad : nbit (subNo w) 1 = true) (hdst : c.drainDst w < 2 ^ 24) : ∃ body,
    exec (.mdrain w) s = issue s w { shapeM w (subNo w < 8) with a := .src 2 } { entry := true, tx := some 2 } body
    ∧ body c = c.spadDrain w b := by
  have he : exec (.mdrain w) s = execMdrain w s := rfl
  have hgood : (!badDrain (c.drainDesc w) && decide (c.drainDst w < 2 ^ 24)) = true := by
    simp only [hd, hdst, decide_true, Bool.not_false, Bool.and_self]
  refine ⟨_, he, ?_⟩
  simp only [← Ic.drainDesc.eq_1, ← Ic.drainDst.eq_1, ← Ic.drainCmd.eq_1, hspad, if_true, need_true hgood, hb, ok_bind, drainRows_eq,
    List.flatMap_map, List.all_map, Function.comp_def]
  rfl

end

theorem tileCommands : Claims.TileCommands := by
  refine ⟨fun _ _ _ _ _ h hd hspad hdst hb hdet hp hx hroom => mdrain_memory hd hb h hspad hdst hdet hp hx hroom,
    fun w s c b h hd hspad hdst hb => ?spad, fun _ _ _ _ h ht hroom => mzero_completes h ht hroom,
    fun _ _ _ _ _ => tileMemory_completes (save := true) rfl, fun _ _ _ _ _ => tileMemory_completes (save := false) rfl,
    fun _ _ _ _ h hb hroom => mchk_completes h hb hroom⟩
  case spad =>
    obtain ⟨body, he, hbody⟩ := mdrain_spad (s := s) hd hb hspad hdst
    refine ⟨fun hr => stops_of_body h body he (hbody.trans (spadDrain_unreachable hr)), fun k hr =>
      ⟨fun hk hc => stops_of_body h body he (hbody.trans (spadDrain_closed hr hk hc)), fun hopen =>
      ⟨fun hp => stops_of_body h body he (hbody.trans (spadDrain_past hr hopen hp)), fun hrows hu hroom => ?_⟩⟩⟩
    exact commandPosted_completes h body he rfl hroom (hbody.trans (spadDrain_enters hr hopen hrows hu))

/-- Settles O32: a pass and the tile commands by what enters the request table, a wait by what it covers of the table and of the
failures. -/
theorem matrixCommands : Obligations.MatrixCommands := ⟨matrixPass, tileCommands, matrixWaits⟩

end Sys2Proof.Machine

end

section
/-! One group of a pass: the rounded sum of its products and the error kept (R251, R252). -/

namespace Sys2Proof.Machine

/-- The rounded sum of a group's products, p of R251. -/
def groupRound (ps : List (Num × Num)) : BitVec 32 := BitVec.ofNat 32 (fmtF32.round 0 false none (groupSum ps))

/-- ZERO has set the element, and every product of the group is −0 (R252). -/
def staysZero (x : BitVec 32 × BitVec 32) (ps : List (Num × Num)) : Bool := x == elemZero && (groupSum ps).isZero && (groupSum ps).neg

/-- The error of the addition t = s + p, (s − (t − z)) + (p − z) with z = t − s (R251). -/
def addError (s p t : BitVec 32) : BitVec 32 := f32Add (f32Sub s (f32Sub t (f32Sub t s))) (f32Sub p (f32Sub t s))

theorem accumulate_eq (x : BitVec 32 × BitVec 32) (ps : List (Num × Num)) :
    accumulate x ps = if staysZero x ps then x
      else if !f32Finite (f32Add x.1 (groupRound ps)) then (f32Add x.1 (groupRound ps), 0)
      else (f32Add x.1 (groupRound ps), f32Add x.2 (addError x.1 (groupRound ps) (f32Add x.1 (groupRound ps)))) := rfl

section

variable {x : BitVec 32 × BitVec 32} {ps : List (Num × Num)}

theorem accumulate_stays (hz : staysZero x ps = true) : accumulate x ps = x := by
  rw [accumulate_eq, if_pos hz]

variable (hz : staysZero x ps = false)

include hz

theorem accumulate_overflow (hf : f32Finite (f32Add x.1 (groupRound ps)) = false) : accumulate x ps = (f32Add x.1 (groupRound ps), 0) := by
  simp only [accumulate_eq, hz, hf, Bool.not_false, Bool.false_eq_true, if_false, if_true]

theorem accumulate_finite (hf : f32Finite (f32Add x.1 (groupRound ps)) = true) :
    accumulate x ps = (f32Add x.1 (groupRound ps), f32Add x.2 (addError x.1 (groupRound ps) (f32Add x.1 (groupRound ps)))) := by
  simp only [accumulate_eq, hz, hf, Bool.not_true, Bool.false_eq_true, if_false]

end

/-- A list that is one group long is that group alone. -/
theorem groupsOf_one {g : Nat} {l : List (Num × Num)} (h : l.length = g) : groupsOf g l 1 = [l] := by
  simp [groupsOf, ← h]

/-- A pass over rows of one group's length adds that group. -/
theorem accumElem_one {g : Nat} {a b : List Num} (hg : g ≠ 0) (hab : a.length = b.length) (ha : a.length = g)
    (x : BitVec 32 × BitVec 32) : accumElem g a b x = accumulate x (a.zip b) := by
  have hlen : (a.zip b).length = g := by rw [List.length_zip, ← hab, Nat.min_self, ha]
  have hone : a.length / g = 1 := by rw [ha, Nat.div_self (Nat.pos_of_ne_zero hg)]
  rw [accumElem, hone, groupsOf_one hlen]
  rfl

/-- Settles O33: by what accumulate comes to for an element that stays −0, for a sum that is not finite and for one that is, and
by the one group of a row of g products. -/
theorem passArithmetic : Obligations.PassArithmetic := fun _ _ =>
  ⟨accumulate_stays, accumulate_overflow, accumulate_finite, fun _ _ _ hg hab ha => accumElem_one hg hab ha _, rfl⟩

end Sys2Proof.Machine

end

section
/-! MRSV and MREL: ranges of the operand buffer and tiles of the engine (R242, R243, R258, R259). -/

namespace Sys2Proof.Machine

/-! ### Tiles bound all together (R242) -/

/-- One tile bound: the physical tile `x.2` to the logical id `x.1` of a core. -/
def bindTile (core : Nat) (s : State) (x : Nat × Nat) : State :=
  modTile { s with stamp := s.stamp + 1 } (quadNo core) x.2 (fun _ => Tile.fresh core x.1 s.stamp)

/-- Tiles bound one after another, each a logical id and a physical tile. -/
def bindTiles (core : Nat) (s : State) (xs : List (Nat × Nat)) : State := xs.foldl (bindTile core) s

@[simp] theorem engineOf_modEngine (s : State) (q : Nat) (f : Engine → Engine) : engineOf (modEngine s q f) q = f (engineOf s q) := by
  simp [engineOf, modEngine, tgetD]

/-- The tiles of the engine of a core's quad. -/
def tilesOf (s : State) (core : Nat) : List Tile := (engineOf s (quadNo core)).tiles

theorem tilesOf_bindTile (core : Nat) (s : State) (l i : Nat) :
    tilesOf (bindTile core s (l, i)) core = (tilesOf s core).modify i (fun _ => Tile.fresh core l s.stamp) := by
  rw [tilesOf, bindTile, modTile, engineOf_modEngine]
  rfl

/-- The binding of tiles changes no team, no cursor and no memory. -/
theorem bindTiles_frame (core : Nat) (s : State) (xs : List (Nat × Nat)) :
    (bindTiles core s xs).teams = s.teams ∧ (bindTiles core s xs).iss = s.iss ∧ (bindTiles core s xs).mem = s.mem := by
  induction xs generalizing s with
  | nil => exact ⟨rfl, rfl, rfl⟩
  | cons x r ih => exact ih (bindTile core s x)

theorem tilesOf_bindTiles_length (core : Nat) (s : State) (xs : List (Nat × Nat)) :
    (tilesOf (bindTiles core s xs) core).length = (tilesOf s core).length := by
  induction xs generalizing s with
  | nil => rfl
  | cons x r ih => exact (ih _).trans (by rw [tilesOf_bindTile, List.length_modify])

/-- A tile that is not among those to be bound is as it was. -/
theorem tilesOf_bindTiles_other {core i : Nat} {s : State} {xs : List (Nat × Nat)} (h : i ∉ xs.map (·.2)) :
    (tilesOf (bindTiles core s xs) core)[i]? = (tilesOf s core)[i]? := by
  induction xs generalizing s with
  | nil => rfl
  | cons x r ih =>
    obtain ⟨hne, hr⟩ := not_or.1 (mt List.mem_cons.2 h)
    exact (ih hr).trans (by rw [tilesOf_bindTile, List.getElem?_modify_ne _ _ (Ne.symm hne)])

/-- The k-th of distinct tiles to be bound is a fresh one with the k-th stamp. -/
theorem tilesOf_bindTiles_get {core i l k : Nat} {s : State} {xs : List (Nat × Nat)} (hd : (xs.map (·.2)).Nodup)
    (hi : i < (tilesOf s core).length) (hk : xs[k]? = some (l, i)) :
    (tilesOf (bindTiles core s xs) core)[i]? = some (Tile.fresh core l (s.stamp + k)) := by
  induction xs generalizing s k with
  | nil => cases hk
  | cons x r ih =>
    obtain ⟨hx, hr⟩ := List.nodup_cons.1 hd
    cases k with
    | zero =>
      obtain rfl : x = (l, i) := Option.some.inj hk
      refine (tilesOf_bindTiles_other hx).trans ?_
      rw [tilesOf_bindTile, List.getElem?_modify_eq, List.getElem?_eq_getElem hi]
      rfl
    | succ k =>
      have hlen : i < (tilesOf (bindTile core s x) core).length := by rwa [tilesOf_bindTile, List.length_modify]
      refine (ih hr hlen hk).trans ?_
      rw [Nat.add_succ, ← Nat.succ_add]
      rfl

/-! ### The free tiles (R242) -/

/-- The physical tiles of the quad's engine that are not bound, in ascending order. -/
def Ic.freeTiles (c : Ic) : List Nat := (c.eng.tiles.zipIdx.filter (fun x => x.1.bound.isNone)).map (·.2)

theorem freeTiles_nodup (c : Ic) : c.freeTiles.Nodup := by
  have hsub : c.freeTiles.Sublist (c.eng.tiles.zipIdx.map (·.2)) := List.filter_sublist.map _
  refine hsub.nodup ?_
  rw [List.zipIdx_map_snd]
  exact List.nodup_range' ..

theorem freeTiles_lt {c : Ic} {i : Nat} (h : i ∈ c.freeTiles) : i < (tilesOf c.s c.core).length := by
  obtain ⟨x, hx, rfl⟩ := List.mem_map.1 h
  exact List.snd_lt_of_mem_zipIdx (List.mem_of_mem_filter hx)

/-- Logical ids bound to the lowest free tiles: each has its tile, and every other tile is as it was. -/
theorem freeTiles_bound {c : Ic} {ids : List Nat} (hlen : ids.length ≤ c.freeTiles.length) :
    let u := bindTiles c.core c.s (ids.zip c.freeTiles)
    (∀ k l i, ids[k]? = some l → c.freeTiles[k]? = some i → (tilesOf u c.core)[i]? = some (Tile.fresh c.core l (c.s.stamp + k)))
    ∧ (∀ i, i ∉ c.freeTiles.take ids.length → (tilesOf u c.core)[i]? = (tilesOf c.s c.core)[i]?) := by
  have hsnd : (ids.zip c.freeTiles).map (·.2) = c.freeTiles.take ids.length := by
    rw [List.zip_eq_zip_take_min, Nat.min_eq_left hlen, List.map_snd_zip (by simp)]
  refine ⟨fun k l i hl hi => ?_, fun i hi => tilesOf_bindTiles_other (hsnd ▸ hi)⟩
  exact tilesOf_bindTiles_get (hsnd ▸ (freeTiles_nodup c).take) (freeTiles_lt (List.mem_of_getElem? hi))
    (List.getElem?_zip_eq_some.2 ⟨hl, hi⟩)

/-! ### MRSV (R242, R243, R258) -/

/-- The record that an MRSV makes of its range, Table 14.6 (R258). -/
def Ic.resvOf (c : Ic) (w : LongWord) (o i : Nat) : Reservation :=
  let r := (readRegAt c.g 0 w.a 1).toNat
  ⟨i, o, bitsAt r 0 20, bitsAt r 20 20, bitsAt r 40 5, nbit r 45, nbit r 46, (c.rd 0 w.a).toNat, false, c.grp, c.s.stamp⟩

theorem rangeCheck_true {src r : Nat} (hsrc : src % 256 = 0) (hrec : badRecord r = false) : (src % 256 == 0 && !badRecord r) = true := by
  simp [hsrc, hrec]

/-- The operand of an MRSV of tiles or of an MREL: a literal, or register A. -/
def Ic.resvArg (c : Ic) (w : LongWord) : Nat := if w.lit.isSome then litNat w else (c.rd 0 w.a).toNat

/-- The mask of logical ids. -/
def Ic.tileMask (c : Ic) (w : LongWord) : Nat := c.resvArg w % 16

/-- The logical ids of the mask, in ascending order. -/
def Ic.tileIds (c : Ic) (w : LongWord) : List Nat := (List.range 4).filter (nbit (c.tileMask w))

/-- The engine has no tile for each id of the mask: it is off, or too few are free (R258, R361). -/
def Ic.tilesShort (c : Ic) (w : LongWord) : Prop := engineOff c.s c.core = true ∨ c.freeTiles.length < (c.tileIds w).length

theorem tilesShort_iff {c : Ic} {w : LongWord} :
    (engineOff c.s c.core || decide (c.freeTiles.length < (c.tileIds w).length)) = true ↔ c.tilesShort w := by
  simp [Ic.tilesShort]

/-- The group holds a tile under an id of the mask. -/
def Ic.holdsTile (c : Ic) (w : LongWord) : Prop := ∃ l ∈ c.tileIds w, (heldTile c.eng c.core c.grp l).isSome = true

section

variable {w : LongWord} {s : State} {c : Ic}

section

variable (h : offer s w { shapeM w (w.sub6 == 0#6) with form := w.lit.isNone || w.sub6 != 0#6, d := .dst 1, a := .src 2 }
    { entry := true, tx := some 2, dests := [destOf w.d] } = .ok c)
  (hsrc : (c.rd 0 w.a).toNat % 256 = 0) (hrec : badRecord (readRegAt c.g 0 w.a 1).toNat = false)

include h hsrc hrec

theorem mrsv_noPlace (hp : placeRange c.t (bitsAt (readRegAt c.g 0 w.a 1).toNat 0 20) = none) :
    Completes (.mrsv w) s (LongDone c [destOf w.d] Ord.relaxed .values [(0, refused 1)]) := by
  have he : exec (.mrsv w) s = execMrsv w s := rfl
  refine long_completes h _ he rfl _ _ _ _ ?_
  simp only [need_true (rangeCheck_true hsrc hrec), ok_bind, hp]

theorem mrsv_noId (hp : placeRange c.t (bitsAt (readRegAt c.g 0 w.a 1).toNat 0 20) ≠ none) (hid : freeResv c.t = none) :
    Completes (.mrsv w) s (LongDone c [destOf w.d] Ord.relaxed .values [(0, refused 2)]) := by
  have he : exec (.mrsv w) s = execMrsv w s := rfl
  obtain ⟨o, ho⟩ := Option.ne_none_iff_exists'.1 hp
  refine long_completes h _ he rfl _ _ _ _ ?_
  simp only [need_true (rangeCheck_true hsrc hrec), ok_bind, ho, hid]

/-- A range placed is listed with its record, and its copy is outstanding. -/
theorem mrsv_placed {o i : Nat} (ho : placeRange c.t (bitsAt (readRegAt c.g 0 w.a 1).toNat 0 20) = some o) (hid : freeResv c.t = some i) :
    Completes (.mrsv w) s (LongDone { c with t := { c.t with resv := c.t.resv ++ [c.resvOf w o i] } } [destOf w.d] Ord.relaxed (.mrsv i)
      [(0, word (i + 2 ^ 20 * o))]) := by
  have he : exec (.mrsv w) s = execMrsv w s := rfl
  have off := offer_ok h
  refine completes_of_body h _ he rfl ?_ (enterLong_overTeam off (s' := c.s) (t := { c.t with resv := c.t.resv ++ [c.resvOf w o i] })
    off.group (congrArg State.iss (off.plain rfl)) ..)
  simp only [need_true (rangeCheck_true hsrc hrec), ok_bind, ho, hid, modTeam_eq off.team]
  rfl

end

section

variable (h : offer s w { shapeM w (subNo w == 1) with form := true, d := .dst 1, a := .src 1, litA := true }
    { entry := true, tx := some 2, dests := [destOf w.d] } = .ok c)

include h

theorem mrsvAcc_short (hp : c.tilesShort w) :
    Completes (.mrsvAcc w) s (LongDone c [destOf w.d] Ord.relaxed .values [(0, refused 3)]) := by
  have he : exec (.mrsvAcc w) s = execMrsvAcc w s := rfl
  exact long_completes h _ he rfl _ _ _ _ (if_pos (tilesShort_iff.2 hp))

variable (hroom : ¬ c.tilesShort w)

include hroom

theorem mrsvAcc_held (hh : c.holdsTile w) :
    Completes (.mrsvAcc w) s (LongDone c [destOf w.d] Ord.relaxed .values [(0, refused 4)]) := by
  have he : exec (.mrsvAcc w) s = execMrsvAcc w s := rfl
  exact long_completes h _ he rfl _ _ _ _ ((if_neg (mt tilesShort_iff.1 hroom)).trans (if_pos (List.any_eq_true.2 hh)))

/-- Tiles bound: the package is the one with the ids of the mask bound to the lowest free tiles, and the result outstanding. -/
theorem mrsvAcc_binds (hh : ¬ c.holdsTile w) :
    Completes (.mrsvAcc w) s (LongDone { c with s := bindTiles c.core c.s ((c.tileIds w).zip c.freeTiles) } [destOf w.d] Ord.relaxed
      .values [(0, word (c.tileMask w))]) := by
  have he : exec (.mrsvAcc w) s = execMrsvAcc w s := rfl
  have off := offer_ok h
  obtain ⟨hteams, hiss, -⟩ := bindTiles_frame c.core c.s ((c.tileIds w).zip c.freeTiles)
  exact completes_of_body h _ he rfl ((if_neg (mt tilesShort_iff.1 hroom)).trans (if_neg (mt List.any_eq_true.1 hh)))
    (enterLong_done (off.within off.group (hiss.trans (congrArg State.iss (off.plain rfl))) (hteams ▸ off.team)) ..)

end

end

/-! ### MREL (R259) -/

section

variable {w : LongWord} {s : State} {c : Ic}

theorem mrel_completes
    (h : offer s w { shapeM w (w.sub6 == 0#6) with form := true, a := .src 1, litA := true } { entry := true, tx := some 2 } = .ok c)
    (hv : c.t.resv.any (fun v => v.id == c.resvArg w % 64) = true)
    (hgone : c.eng.table.any (fun x => x.2.core == c.core && x.2.cmd == .mrelBuf (c.resvArg w % 64)) = false) (hroom : c.engineRoom 0) :
    Completes (.mrel w) s (CommandPosted c (.mrelBuf (c.resvArg w % 64)) [] [(c.core, c.resvArg w % 64)] [] [] false) := by
  have he : exec (.mrel w) s = execMrel w s := rfl
  refine commandPosted_completes h _ he rfl hroom ?_
  simp only [← Ic.resvArg.eq_1, hv, hgone, Bool.not_false, Bool.and_self, need_true, ok_bind]

theorem mrelAcc_completes {ts : List (Nat × Nat)}
    (h : offer s w { shapeM w (subNo w == 1) with form := true, a := .src 1, litA := true } { entry := true, tx := some 2 } = .ok c)
    (ht : maskTiles c (c.tileMask w) = some ts) (hroom : c.engineRoom 0) :
    Completes (.mrelAcc w) s (CommandPosted c .mrelTiles ts [] [] [] false) := by
  have he : exec (.mrelAcc w) s = execMrelAcc w s := rfl
  refine commandPosted_completes h _ he rfl hroom ?_
  simp only [← Ic.resvArg.eq_1, ← Ic.tileMask.eq_1, ht]

end

/-- Settles O31: a range by what its place and its id come to, tiles by what is free and held, a release by the command that enters the
request table. -/
theorem reservations : Obligations.Reservations := by
  refine ⟨fun w s c h hsrc hrec => ⟨mrsv_noPlace h hsrc hrec, mrsv_noId h hsrc hrec, fun o i ho hid => ?_⟩,
    fun w s c h => ⟨mrsvAcc_short h, mrsvAcc_held h, fun hroom hh => ?_⟩,
    fun _ _ _ h => mrel_completes h, fun _ _ _ _ h => mrelAcc_completes h⟩
  · obtain ⟨u, he, hu, hm⟩ := mrsv_placed h hsrc hrec ho hid
    exact ⟨u, he, hm, hu⟩
  · obtain ⟨u, he, rfl, hm⟩ := mrsvAcc_binds h hroom hh
    obtain ⟨-, -, hmem⟩ := bindTiles_frame c.core c.s ((c.tileIds w).zip c.freeTiles)
    have hfree : (c.tileIds w).length ≤ c.freeTiles.length := Nat.le_of_not_lt fun hlt => hroom (.inr hlt)
    obtain ⟨hbound, hother⟩ := freeTiles_bound hfree
    exact ⟨_, he, fun a => (hm a).trans (by rw [hmem]), tilesOf_bindTiles_length .., hbound, hother⟩

end Sys2Proof.Machine

end

section
/-! Decode and encode agree: every form of a well-formed instruction is read back from its bytes (R70, R73 to R88, R332). -/

namespace Sys2Proof

/-! ### Bits and fields -/

theorem bit_lt (b : Bool) : bit b < 2 := by cases b <;> decide

theorem ofNat_bitsAt {w x lo : Nat} {f : BitVec w} (h : bitsAt x lo w = f.toNat) : BitVec.ofNat w (bitsAt x lo w) = f :=
  BitVec.eq_of_toNat_eq (by rw [h, BitVec.toNat_ofNat, Nat.mod_eq_of_lt f.isLt])

theorem beq_bitsAt {x lo : Nat} {b : Bool} (h : bitsAt x lo 1 = bit b) : (bitsAt x lo 1 == 1) = b := by
  rw [h]; cases b <;> rfl

/-- The fields of a dictionary code read back from its bits (Table 5.2). -/
theorem d16_bits (w : D16Word) :
    ∃ x, (Form.d16 w).bits = some (x, 2) ∧ x < 2 ^ 16 ∧ x % 4 = 0 ∧ d16Fields x = w := by
  obtain ⟨s, r, i⟩ := w
  have hs := bit_lt s
  refine ⟨_, rfl, by dsimp only; omega, by dsimp only; omega, ?_⟩
  rw [d16Fields, D16Word.mk.injEq]
  refine ⟨beq_bitsAt ?_, ofNat_bitsAt ?_, ofNat_bitsAt ?_⟩ <;> (simp only [bitsAt]; omega)

/-- The fields of format K read back from its bits (Table 5.3). -/
theorem k_bits {op : Nat} (hop : op < 127) (w : KWord) :
    ∃ x, (Form.k op w).bits = some (x, 4) ∧ x < 2 ^ 32 ∧ x % 4 = 1 ∧ bitsAt x 3 7 = op ∧ kFields x = w := by
  obtain ⟨s, g, n, d, a, b⟩ := w
  have hs := bit_lt s
  have hn := bit_lt n
  refine ⟨_, rfl, by dsimp only; omega, by dsimp only; omega, by simp only [bitsAt]; omega, ?_⟩
  rw [kFields, KWord.mk.injEq]
  refine ⟨beq_bitsAt ?_, ofNat_bitsAt ?_, beq_bitsAt ?_, ofNat_bitsAt ?_, ofNat_bitsAt ?_, ofNat_bitsAt ?_⟩ <;>
    (simp only [bitsAt]; omega)

/-- The fields of format J read back from its bits (Table 5.4). -/
theorem j_bits {op : Nat} (hop : op < 127) (w : JWord) :
    ∃ x, (Form.j op w).bits = some (x, 4) ∧ x < 2 ^ 32 ∧ x % 4 = 1 ∧ bitsAt x 3 7 = op ∧ jFields x = w := by
  obtain ⟨s, g, n, d, i⟩ := w
  have hs := bit_lt s
  have hn := bit_lt n
  refine ⟨_, rfl, by dsimp only; omega, by dsimp only; omega, by simp only [bitsAt]; omega, ?_⟩
  rw [jFields, JWord.mk.injEq]
  refine ⟨beq_bitsAt ?_, ofNat_bitsAt ?_, beq_bitsAt ?_, ofNat_bitsAt ?_, ofNat_bitsAt ?_⟩ <;> (simp only [bitsAt]; omega)

/-- The fields of format B read back from its bits (Table 5.5). -/
theorem b_bits {op : Nat} (hop : op < 127) (w : BWord) :
    ∃ x, (Form.b op w).bits = some (x, 4) ∧ x < 2 ^ 32 ∧ x % 4 = 1 ∧ bitsAt x 3 7 = op ∧ bFields x = w := by
  obtain ⟨s, g, n, o⟩ := w
  have hs := bit_lt s
  have hn := bit_lt n
  refine ⟨_, rfl, by dsimp only; omega, by dsimp only; omega, by simp only [bitsAt]; omega, ?_⟩
  rw [bFields, BWord.mk.injEq]
  refine ⟨beq_bitsAt ?_, ofNat_bitsAt ?_, beq_bitsAt ?_, ofNat_bitsAt ?_⟩ <;> (simp only [bitsAt]; omega)

/-- The fields of a Caramel word read back from its bits (Table 18.5). -/
theorem caramel_bits {op : Nat} (hop : op < 32) (w : CaramelFields) :
    ∃ x, (Form.caramel op w).bits = some (x, 4) ∧ x < 2 ^ 32 ∧ bitsAt x 27 5 = op ∧ caramelFields x = w := by
  obtain ⟨a, b, c, i⟩ := w
  refine ⟨_, rfl, by dsimp only; omega, by simp only [bitsAt]; omega, ?_⟩
  rw [caramelFields, CaramelFields.mk.injEq]
  refine ⟨ofNat_bitsAt ?_, ofNat_bitsAt ?_, ofNat_bitsAt ?_, ofNat_bitsAt ?_⟩ <;> (simp only [bitsAt]; omega)

/-- The fields of formats W and X, but the literal, read back from their bits (Table 5.7). -/
theorem longBits_fields {op : Nat} (hop : op < 512) (w : LongWord) :
    bitsAt (longBits op w) 3 9 = op ∧ bitsAt (longBits op w) 64 32 = (w.lit.getD 0#32).toNat
      ∧ ∀ lit, longFields (longBits op w) lit = { w with lit := lit } := by
  obtain ⟨s, sub, gp, gn, d, a, b, c, m, l⟩ := w
  have hs := bit_lt s
  have hn := bit_lt gn
  have hl : (if l.isSome then 3 else 2) < 4 := by split <;> decide
  refine ⟨by simp only [bitsAt, longBits]; omega, by simp only [bitsAt, longBits]; omega, fun lit => ?_⟩
  rw [longFields, LongWord.mk.injEq]
  refine ⟨beq_bitsAt ?_, ofNat_bitsAt ?_, ofNat_bitsAt ?_, beq_bitsAt ?_, ofNat_bitsAt ?_, ofNat_bitsAt ?_, ofNat_bitsAt ?_,
    ofNat_bitsAt ?_, ofNat_bitsAt ?_, rfl⟩ <;> (simp only [bitsAt, longBits]; omega)

/-! ### The word of each form -/

/-- A word of a form is read as `i`: its length is that of its low bits, and its reading is `i`. -/
def Form.Decodes (f : Form) (i : Instr) : Prop :=
  ∃ x n, f.bits = some (x, n) ∧ x < 256 ^ n ∧ lengthOf x = n ∧ decodeWord x = i

theorem decodes_d16 {w : D16Word} {i : Instr} (h : (Form.d16 w).reads i) : (Form.d16 w).Decodes i := by
  obtain ⟨x, hx, hlt, hlow, hw⟩ := d16_bits w
  refine ⟨x, 2, hx, hlt, by simp [lengthOf, hlow], ?_⟩
  have hzero : x = 0 ↔ w = ⟨false, 0#3, 0#10⟩ := by
    constructor
    · rintro rfl; exact hw.symm
    · rintro rfl; exact (congrArg Prod.fst (Option.some.inj hx)).symm
  rw [show i = if w = ⟨false, 0#3, 0#10⟩ then .illegalD16 else .d16Code w from h]
  simp only [decodeWord, hlow, decode16, Nat.mod_eq_of_lt hlt, hzero, hw]

theorem decodes_short {f : Form} {x op : Nat} {i : Instr} (hx : f.bits = some (x, 4)) (hlt : x < 2 ^ 32) (hlow : x % 4 = 1)
    (hop : bitsAt x 3 7 = op) (hne : op < 127)
    (hi : (kInstr op (kFields x)).or ((jInstr op (jFields x)).or (bInstr op (bFields x))) = some i) : f.Decodes i := by
  refine ⟨x, 4, hx, hlt, by simp [lengthOf, hlow], ?_⟩
  have h127 : (op == 0x7F) = false := by simp; omega
  simp only [decodeWord, hlow, decode32, hop, h127, Bool.false_eq_true, if_false]
  revert hi
  cases kInstr op (kFields x) <;> cases jInstr op (jFields x) <;> cases bInstr op (bFields x) <;> simp

/-- The low bits of a word of formats W and X, and its width (R70, Table 5.1). -/
theorem longBits_length {op : Nat} (hop : op < 512) (w : LongWord) :
    longBits op w < 256 ^ (if w.lit.isSome then 12 else 8) ∧ longBits op w % 4 = if w.lit.isSome then 3 else 2 := by
  have hs := bit_lt w.s
  have hn := bit_lt w.gn
  cases hl : w.lit <;> simp [longBits, hl] <;> omega

theorem decodes_long {op : Nat} {w : LongWord} {i : Instr} (h : (Form.long op w).reads i) : (Form.long op w).Decodes i := by
  obtain ⟨hop, hi⟩ := h
  obtain ⟨hbop, hblit, hbf⟩ := longBits_fields hop w
  obtain ⟨hlt, hlow⟩ := longBits_length hop w
  refine ⟨_, _, rfl, hlt, ?_, ?_⟩
  all_goals generalize longBits op w = x at *
  all_goals obtain ⟨s, sub, gp, gn, d, a, b, c, m, _ | l⟩ := w
  all_goals replace hlow : x % 4 = _ := hlow
  · simp [lengthOf, hlow]
  · simp [lengthOf, hlow]
  · simp [decodeWord, hlow, decode64, hbop, hbf, hi]
  · simp [decodeWord, hlow, decode96, hbop, hblit, hbf, hi]

theorem kInstr_isSome {op : Nat} {w : KWord} (h : (kInstr op w).isSome = true) : op7Assigned op = true := by
  unfold kInstr at h
  split at h
  case h_27 => cases h
  all_goals rfl

theorem jInstr_isSome {op : Nat} {w : JWord} (h : (jInstr op w).isSome = true) : op7Assigned op = true := by
  unfold jInstr at h
  split at h
  case h_7 => cases h
  all_goals rfl

theorem bInstr_isSome {op : Nat} {w : BWord} (h : (bInstr op w).isSome = true) : op7Assigned op = true := by
  unfold bInstr at h
  split at h
  case h_3 => cases h
  all_goals rfl

theorem longInstr_isSome {op : Nat} {w : LongWord} (h : (longInstr op w).isSome = true) :
    op9Assigned op = true ∨ op = 0x1FF := by
  unfold longInstr at h
  split at h
  case h_136 => cases h
  case h_135 => exact .inr rfl
  all_goals exact .inl rfl

/-- The word of an unassigned opcode stands in no table (R77, R87). -/
theorem decodes_unassigned {w : RawWord} (h : w.unassigned = true) : (Form.raw w).Decodes (.unassignedOpcode w) := by
  have long_none {op : Nat} {f : LongWord} (h1 : op9Assigned op = false) (h2 : op ≠ 0x1FF) : longInstr op f = none := by
    rw [← Option.not_isSome_iff_eq_none]
    exact fun hs => (longInstr_isSome hs).elim (by simp [h1]) h2
  cases w with
  | w16 x => cases h
  | w32 x =>
    simp only [RawWord.unassigned, Bool.and_eq_true, beq_iff_eq, Bool.not_eq_true', bne_iff_ne] at h
    obtain ⟨⟨hlow, hop⟩, hill⟩ := h
    refine ⟨x.toNat, 4, rfl, x.isLt, by simp [lengthOf, hlow], ?_⟩
    have hb : bitsAt x.toNat 3 7 = x.toNat / 8 % 128 := rfl
    have hk : kInstr (x.toNat / 8 % 128) (kFields x.toNat) = none :=
      Option.not_isSome_iff_eq_none.mp fun hs => by simp [kInstr_isSome hs] at hop
    have hj : jInstr (x.toNat / 8 % 128) (jFields x.toNat) = none :=
      Option.not_isSome_iff_eq_none.mp fun hs => by simp [jInstr_isSome hs] at hop
    have hbr : bInstr (x.toNat / 8 % 128) (bFields x.toNat) = none :=
      Option.not_isSome_iff_eq_none.mp fun hs => by simp [bInstr_isSome hs] at hop
    simp [decodeWord, hlow, decode32, hb, hill, hk, hj, hbr]
  | w64 x =>
    simp only [RawWord.unassigned, Bool.and_eq_true, beq_iff_eq, Bool.not_eq_true', bne_iff_ne] at h
    obtain ⟨⟨hlow, hop⟩, hill⟩ := h
    refine ⟨x.toNat, 8, rfl, x.isLt, by simp [lengthOf, hlow], ?_⟩
    have hb : bitsAt x.toNat 3 9 = x.toNat / 8 % 512 := rfl
    simp [decodeWord, hlow, decode64, hb, long_none hop hill]
  | w96 x =>
    simp only [RawWord.unassigned, Bool.and_eq_true, beq_iff_eq, Bool.not_eq_true', bne_iff_ne] at h
    obtain ⟨⟨hlow, hop⟩, hill⟩ := h
    refine ⟨x.toNat, 12, rfl, x.isLt, by simp [lengthOf, hlow], ?_⟩
    have hb : bitsAt x.toNat 3 9 = x.toNat / 8 % 512 := rfl
    simp [decodeWord, hlow, decode96, hb, long_none hop hill]

/-- The 32-bit ILLEGAL is read back (R77, R88). -/
theorem decodes_illegalK {b : BitVec 32} (h : (Instr.illegalK b).wellFormed = true) :
    (Form.raw (.w32 b)).Decodes (.illegalK b) := by
  replace h : (b.extractLsb' 0 2 == 1#2 && b.extractLsb' 3 7 == 0x7F#7) = true := h
  simp only [Bool.and_eq_true, beq_iff_eq, BitVec.toNat_eq, BitVec.extractLsb'_toNat] at h
  obtain ⟨hlow, hop⟩ := h
  simp [Nat.shiftRight_eq_div_pow] at hlow hop
  refine ⟨b.toNat, 4, rfl, b.isLt, by simp [lengthOf, hlow], ?_⟩
  simp [decodeWord, hlow, decode32_illegal hop]

/-! ### Every constructor -/

/-- The words that are written down as they stand: the 32-bit ILLEGAL, an unassigned opcode and an illegal Caramel word. -/
theorem form_raw {i : Instr} {w : RawWord} (h : form i = .raw w) :
    (∃ b, i = .illegalK b ∧ w = .w32 b) ∨ i = .unassignedOpcode w ∨ ∃ x, i = .caramelIllegalWord x := by
  cases i with
  | illegalK b => exact .inl ⟨b, rfl, (Form.raw.inj h).symm⟩
  | unassignedOpcode u => exact .inr (.inl (congrArg _ (Form.raw.inj h)))
  | caramelIllegalWord x => exact .inr (.inr ⟨x, rfl⟩)
  | _ => cases h

open Laws.Opcode in
/-- Every well-formed instruction stands in the table of its format, at its opcode. -/
theorem opcode_statement (i : Instr) : Statement i :=
  i.casesOn (motive := Statement)
    d16Code illegalD16 illegalK illegalW illegalX nop bra braB brx call callB callx ret loop loopImm lbrk reform exit yield
    trap launch clock elect setprio pseti psetf plop pmovGet pmovSet pvoteSome pvoteEvery pvoteSame pvoteMask pvoteCount iadd
    iaddI32K iaddI64K iaddI32J iaddI64J isub isubI32K imin imax imul imulI32K imulh imad idiv iabs popc clz brev shl shlN32K
    shlN32J shr shrN32K shrN32J shra rot bitf bitfAndK bitfOrK bitfXorK bitfAndJ bfx bfi sel mov movK movi moviI32J movs lea
    cvti fadd faddF32K faddBf16K fsub fmul fmulF32K fmulBf16K ffma ffmaF32K ffmaBf16K fmin fminF32K fmax fmaxF32K fclass frnd
    fcvt fcvti icvtf fdot fscale frcp frsq fsqrt fexp2 flog2 fsin fcos ftanh bqnt bdeq zpsub pack unpack amaxb shfl bcast
    perm matchOp redl scanl ldg ldgN32K ldgN64K stg stgN32K stgN64K ldc lds ldsN32K ldsN64K sts stsN32K stsN64K ldx stx pref
    ldb stb cmntPin cmntUnpin cmntClean cmntEvict cmntL1inv cpy cpym cpyg cpygSpad publ cwait cwaitStat wptr ccan atom red
    atoms atomx tbegin tcommit tabort tstat fence bar cbar cbarCopy arrive waitv tokenWait tokenPass mrsv mrsvAcc mrel
    mrelAcc mma mwait mwaitAll mdrain mzero msave mload mchk japp emit jsync jsyncCtx jtrunc jseed sopen sclose csrr csrw
    csrxSwap csrxSet csrxClr trapret region tlbinvCtx tlbinvRange tlbinvAll selftestLane selftestL1 selftestEngine
    selftestRfull selftestLink caramelHalt caramelMatch caramelMatchx caramelRecv caramelWaitn caramelComb caramelCombo
    caramelCvt caramelFwd caramelMcast caramelSend caramelGath caramelScat caramelDrop caramelLdk caramelSetk caramelAddk
    caramelBrk caramelBnz caramelLoopk caramelPost caramelDone unassignedOpcode caramelIllegalWord exitDrainComplete
    yieldTimeout publSwap copySectorDelivered copyPreemptPause scFenceMarker waitvPoll commitTokenHandover edetwaitTimeout
    mrsvCopyComplete mrelPerform engineGrant engineEntryAge engineCommandComplete jsyncStallTimeout journalRecordAtPartner
    journalAck replayJournalFetch streamCloseDrain streamClosed tlbinvComplete longResultReturn parkCommit pageFaultResolved
    ottEntryGrant tableWalkDone lldWindowEnd reformBinAgeExpiry reformBinDraw reformDetDrain wcDrain wcAgeExpiry wcDrainAck
    remoteReadAtOwner remoteWriteAtOwner streamRequestAtOwner lowWaterUpdate lwmIdleSend remoteAnswer remoteTimeout
    busyResend yptPacketExpire ownerRestart linkDown linkRecover membershipChange packageRejoin arm Laws.Opcode.seal disarm
    windowDataStore caramelProgramStart caramelPacketArrival caramelTransferAck caramelAbortReceived mailboxSubmit
    mailboxDonebitClear serviceSubmission unmap migrate reclaim exportFrames unexportFrames depSampleOnUpdate depSampleTimer
    clusterDispatch priorityPreemption preemptionHalted teamEndChannelsQuiet teamEndEngineDone peerWindowCloseAck
    launchRetire contextCreate contextDestroy bankroleWrite tgtctxWrite tpcWrite errstatClear jpartnerWrite
    translationCsrWrite meyeStart meyeCountDone registerWrite hostBar0InvalidAccess correctionWindowEnd elogAck bootRomVerify
    dieAdmission engineSelftestStage powerOff hubReset firmwareRestart thermalThrottle thermalRecover overTemperatureTrip
    postedEntryPerformed scatWritesPerformed journalTruncationAtPartner

/-- An instruction of the core's formats is read from its word. -/
theorem form_decodes {i : Instr} (hw : i.wellFormed = true) (hc : ∀ op w, form i ≠ .caramel op w)
    (hi : ∀ x, i ≠ .caramelIllegalWord x) (he : form i ≠ .event) : (form i).Decodes i := by
  have hr := opcode_statement i hw
  cases hf : form i with rw [hf] at hr
  | d16 w => exact decodes_d16 hr
  | k op w =>
    obtain ⟨hop, hk⟩ := hr
    obtain ⟨x, hx, hlt, hlow, hbop, hbf⟩ := k_bits hop w
    exact decodes_short hx hlt hlow hbop hop (by simp [hbf, hk])
  | j op w =>
    obtain ⟨hop, hk, hj⟩ := hr
    obtain ⟨x, hx, hlt, hlow, hbop, hbf⟩ := j_bits hop w
    exact decodes_short hx hlt hlow hbop hop (by simp [hbf, hk, hj])
  | b op w =>
    obtain ⟨hop, hk, hj, hb⟩ := hr
    obtain ⟨x, hx, hlt, hlow, hbop, hbf⟩ := b_bits hop w
    exact decodes_short hx hlt hlow hbop hop (by simp [hbf, hk, hj, hb])
  | long op w => exact decodes_long hr
  | caramel op w => exact absurd hf (hc op w)
  | raw w =>
    obtain ⟨b, rfl, rfl⟩ | rfl | ⟨x, rfl⟩ := form_raw hf
    · exact decodes_illegalK hw
    · exact decodes_unassigned hw
    · exact absurd rfl (hi x)
  | event => exact absurd hf he

theorem lengthOf_mod (x : Nat) : lengthOf (x % 2 ^ 16) = lengthOf x := by
  simp only [lengthOf, Nat.mod_mod_of_dvd x (show 4 ∣ 2 ^ 16 by decide)]

theorem two_le_lengthOf (x : Nat) : 2 ≤ lengthOf x := by
  unfold lengthOf; split <;> decide

/-- A word of the length that its low bits give is read from its bytes, whatever follows them (R70). -/
theorem decode_leBytes {x n : Nat} (hlt : x < 256 ^ n) (hlen : lengthOf x = n) (rest : List Byte) :
    decode (leBytes n x ++ rest) = .ok (decodeWord x, rest) := by
  have h2 : 2 ≤ n := hlen ▸ two_le_lengthOf x
  have hparcel : leNat ((leBytes n x ++ rest).take 2) = x % 2 ^ 16 := by
    rw [List.take_append_of_le_length (by simpa using h2), Machine.leBytes_take n 2 x h2]
    exact Machine.leNat_leBytes 2 x
  have hword : leNat ((leBytes n x ++ rest).take n) = x := by
    rw [List.take_append_of_le_length (by simp), Machine.leBytes_take n n x le_rfl, Machine.leNat_leBytes,
      Nat.mod_eq_of_lt hlt]
  have hdrop : (leBytes n x ++ rest).drop n = rest := List.drop_left' (by simp)
  simp only [decode, hparcel, lengthOf_mod, hlen, hword, hdrop, List.length_append, Machine.leBytes_length]
  rw [if_neg (by omega), if_neg (by omega)]

/-- An OP that no Caramel word has is read as an illegal word (R332). -/
theorem decodeCaramel_illegal {b : BitVec 32} (h : 0x16 ≤ b.toNat / 2 ^ 27) :
    decodeCaramel b.toNat = .caramelIllegalWord (some b) := by
  have hb : bitsAt b.toNat 27 5 = b.toNat / 2 ^ 27 := Nat.mod_eq_of_lt (by have := b.isLt; omega)
  have hnone : caramelInstr (b.toNat / 2 ^ 27) (caramelFields b.toNat) = none := by
    unfold caramelInstr
    split
    case h_23 => rfl
    all_goals omega
  simp only [decodeCaramel, hb, hnone, BitVec.ofNat_toNat, BitVec.setWidth_eq]

/-- Settles O56: the fields of each format read back from its bits, and each table holds the instruction at its opcode. -/
theorem roundTrip : Obligations.RoundTrip := by
  intro i hw
  refine ⟨fun op w hf => ?_, ?_, fun hc hi he rest => ?_⟩
  · have hr := opcode_statement i hw
    rw [hf] at hr ⊢
    obtain ⟨hop, hi⟩ := hr
    obtain ⟨x, hx, hlt, hbop, hbf⟩ := caramel_bits hop w
    exact ⟨x, hx, hlt, by simp [decodeCaramel, hbop, hbf, hi]⟩
  · rintro x rfl
    exact decodeCaramel_illegal (of_decide_eq_true hw)
  · obtain ⟨x, n, hb, hlt, hlen, hx⟩ := form_decodes hw hc hi he
    rw [encode, hb]
    exact hx ▸ decode_leBytes hlt hlen rest

end Sys2Proof

end

section
/-! Taking a trap: its delivery to a handler, and the halt of the team where there is none (R338, R341 to R344). -/

namespace Sys2Proof.Machine

/-! ### The team of a core, and a property of it -/

/-- A team stands on the core, and `P` holds of it. -/
def State.TeamHas (s : State) (core : Nat) (P : Team → Prop) : Prop := ∃ t, tget s.teams core = some t ∧ P t

theorem State.TeamHas.mono {s : State} {core : Nat} {P Q : Team → Prop} (h : s.TeamHas core P) (hpq : ∀ t, P t → Q t) :
    s.TeamHas core Q := by
  obtain ⟨t, ht, hp⟩ := h
  exact ⟨t, ht, hpq t hp⟩

theorem State.TeamHas.of_teams {s u : State} {core : Nat} {P : Team → Prop} (h : s.TeamHas core P) (hu : u.teams = s.teams) :
    u.TeamHas core P := by
  obtain ⟨t, ht, hp⟩ := h
  exact ⟨t, hu ▸ ht, hp⟩

/-- An update of any core's team that takes `P` to `Q`, and keeps what it leaves in `Q`. -/
theorem State.TeamHas.modTeam {s : State} {core : Nat} {P : Team → Prop} (h : s.TeamHas core P) (k : Nat) {f : Team → Team}
    (hf : ∀ t, P t → P (f t)) : (modTeam s k f).TeamHas core P := by
  obtain ⟨t, ht, hp⟩ := h
  by_cases hk : core = k
  · subst hk
    exact ⟨f t, modTeam_get ht f, hf t hp⟩
  · exact ⟨t, (modTeam_get_ne s hk f).trans ht, hp⟩

/-- An update of the core's own team that takes `P` to `Q`. -/
theorem State.TeamHas.modTeam_self {s : State} {core : Nat} {P Q : Team → Prop} (h : s.TeamHas core P) {f : Team → Team}
    (hf : ∀ t, P t → Q (f t)) : (Machine.modTeam s core f).TeamHas core Q := by
  obtain ⟨t, ht, hp⟩ := h
  exact ⟨f t, modTeam_get ht f, hf t hp⟩

/-- What each step of a fold keeps of a team, the fold keeps. -/
theorem State.TeamHas.foldl {α : Type} {core : Nat} {P : Team → Prop} {f : State → α → State}
    (hf : ∀ s a, s.TeamHas core P → (f s a).TeamHas core P) (l : List α) {s : State} (h : s.TeamHas core P) :
    (l.foldl f s).TeamHas core P :=
  List.foldlRecOn l f h fun s hs a _ => hf s a hs

/-! ### Threads that have all left -/

/-- No thread of the team is live or filed, its table is empty, and it has halted for `h` (R338). -/
structure Team.Halted (h : Option HaltRec) (t : Team) : Prop where
  dead : ∀ e ∈ t.groups, ∀ x ∈ e.2.threads, x.live = false
  bins : ∀ b ∈ t.bins, b = none
  ott  : t.ott = []
  halt : t.halt = h

/-- Empty bins stay empty. -/
theorem settleBins_none (bins : List (Option Bin)) (h : ∀ b ∈ bins, b = none) : ∀ b ∈ settleBins bins, b = none := by
  unfold settleBins
  dsimp only
  rw [List.flatMap_eq_nil_iff.2 fun b hb => ?_]
  · intro b hb
    obtain ⟨b0, hb0, rfl⟩ := List.mem_map.1 hb
    simp [h b0 hb0]
  · simp [h b.1 (List.fst_mem_of_mem_zipIdx hb)]

/-- A wait that ends of a team that has halted moves nothing. -/
theorem Team.Halted.endWait {h : Option HaltRec} {t : Team} (ht : t.Halted h) (w : Held) (stamp : Nat) (f : Group → Group)
    (k : Thread × Word × Word → Thread × Word × Word) : (t.endWait w stamp f k).Halted h := by
  have hfull : (!t.bins.isEmpty && t.bins.all (·.isSome)) = false := by
    cases hb : t.bins with
    | nil => rfl
    | cons b r => simp [ht.bins b (by simp [hb])]
  unfold Team.endWait
  simp only [hfull, Bool.false_eq_true, if_false, Bool.false_and]
  refine ⟨fun e he => ?_, settleBins_none _ fun b hb => ?_, ht.ott, ht.halt⟩
  · obtain ⟨e0, he0, rfl⟩ := List.mem_map.1 he
    have hnone : (e0.2.threads.any fun x => x.live && x.held == some w) = false :=
      List.any_eq_false.2 fun x hx => by simp [ht.dead e0 he0 x hx]
    simpa [hnone] using ht.dead e0 he0
  · obtain ⟨b0, hb0, rfl⟩ := List.mem_map.1 hb
    simp [ht.bins b0 hb0]

/-- The team has halted, and its end has begun. -/
def Team.HaltedEnding (h : Option HaltRec) (t : Team) : Prop := t.Halted h ∧ t.ending ≠ .none_

theorem Team.HaltedEnding.releaseHeld {h : Option HaltRec} {t : Team} (ht : t.HaltedEnding h) (w : Held) (stamp : Nat) :
    (releaseHeld t w stamp).HaltedEnding h := by
  obtain ⟨hhalt, hend⟩ := ht
  refine ⟨hhalt.endWait .., ?_⟩
  have hfull : (!t.bins.isEmpty && t.bins.all (·.isSome)) = false := by
    cases hb : t.bins with
    | nil => rfl
    | cons b r => simp [hhalt.bins b (by simp [hb])]
  simpa [Machine.releaseHeld, Team.endWait, hfull] using hend

theorem completeBarriers_halted {s : State} {core : Nat} {h : Option HaltRec} (hs : s.TeamHas core (Team.HaltedEnding h)) (c : Nat) :
    (completeBarriers s c).TeamHas core (Team.HaltedEnding h) := by
  unfold completeBarriers
  split
  · exact hs
  refine .foldl (fun s i hs => ?_) _ (.foldl (fun s i hs => hs.modTeam _ fun t ht => ?_) _ hs)
  · dsimp only
    split
    · refine .foldl (fun s c hs => hs.modTeam _ fun t ht => ?_) _ hs
      split
      · obtain ⟨⟨hd, hb, ho, hh⟩, he⟩ := ht.releaseHeld (.cbar i) s.stamp
        exact ⟨⟨hd, hb, ho, hh⟩, he⟩
      · exact ht
    · exact hs
  · split
    · exact ht.releaseHeld _ _
    · exact ht

/-! ### The end of a team begins -/

theorem cancelChan_halted {s : State} {core : Nat} {h : Option HaltRec} (hs : s.TeamHas core (Team.Halted h)) (c k : Nat) (x : Channel) :
    (cancelChan s c k x).TeamHas core (Team.Halted h) := by
  unfold cancelChan
  split
  · exact hs
  · have hd : (dropChanReads (closeCpyg s x false) c k).TeamHas core (Team.Halted h) := hs.of_teams (closeCpyg_teams s x false)
    exact hd.modTeam _ fun t ht => ⟨ht.dead, ht.bins, ht.ott, ht.halt⟩

theorem beginEnd_halted {s : State} {core : Nat} {h : Option HaltRec} (hs : s.TeamHas core (Team.Halted h)) :
    (beginEnd s core).TeamHas core (Team.HaltedEnding h) := by
  obtain ⟨t, ht, hhalt⟩ := hs
  unfold beginEnd
  simp only [ht]
  split
  · rename_i he
    exact ⟨t, ht, hhalt, by simpa using he⟩
  · have hchan := State.TeamHas.foldl (core := core) (P := Team.Halted h)
      (fun s (c : Channel × Nat) hs => cancelChan_halted hs core c.2 c.1) t.chan.zipIdx ⟨t, ht, hhalt⟩
    exact hchan.modTeam_self fun t ht => ⟨⟨ht.dead, ht.bins, ht.ott, ht.halt⟩, by simp⟩

/-! ### The halt -/

@[simp] theorem retireSerial_teams (s : State) (r : Req) : (retireSerial s r).teams = s.teams := modStream_teams ..

@[simp] theorem giveBackOut_teams (s : State) (core : Nat) : (giveBackOut s core).teams = s.teams := by
  unfold giveBackOut
  split
  · rfl
  · refine foldl_keeps State.teams _ (fun s w => ?_) _ _
    split <;> simp

theorem haltReqs_team {s : State} {core : Nat} {P : Team → Prop} (hs : s.TeamHas core P)
    (hp : ∀ t wc sent, P t → P { t with wc := wc, sent := sent }) : (haltReqs s core).TeamHas core P := by
  unfold haltReqs
  split
  · exact hs
  · refine State.TeamHas.modTeam ?_ _ fun t ht => hp t _ _ ht
    exact hs.of_teams (foldl_keeps State.teams retireSerial retireSerial_teams _ _)

theorem haltTeam_halted {s : State} {core : Nat} {old : Option HaltRec} (x : HaltRec) (hs : s.TeamHas core (fun t => t.halt = old)) :
    (haltTeam s core x).TeamHas core (Team.HaltedEnding (old.or (some x))) := by
  unfold haltTeam
  refine completeBarriers_halted (beginEnd_halted ?_) core
  have hreqs : (haltReqs (giveBackOut s core) core).TeamHas core (fun t => t.halt = old) :=
    haltReqs_team (hs.of_teams (giveBackOut_teams s core)) fun t wc sent ht => ht
  generalize haltReqs (giveBackOut s core) core = u at hreqs ⊢
  have hwin : ({ u with winq := u.winq.filter (fun x => x.core != core) } : State).TeamHas core (fun t => t.halt = old) := hreqs
  refine hwin.modTeam_self fun t ht => ⟨fun e he x hx => ?_, fun b hb => ?_, rfl, ?_⟩
  · obtain ⟨e0, -, rfl⟩ := List.mem_map.1 he
    obtain ⟨x0, -, rfl⟩ := List.mem_map.1 hx
    rfl
  · obtain ⟨b0, -, rfl⟩ := List.mem_map.1 hb
    rfl
  · subst ht
    cases t.halt <;> rfl

/-! ### What a trap comes to once the results that the core completes are in -/

theorem takeTrap_awaits {s s1 : State} {core grp : Nat} (h : completeLocal s core grp (toldOf s core grp) 4160 = (s1, none))
    (t : TrapInfo) (tpc resume : Word) (park latched : Bool) (lanes : List Nat) :
    takeTrap s core grp t tpc resume park latched lanes = awaitTrap s1 core grp t tpc resume park latched lanes := by
  simp [takeTrap, h]

theorem takeTrap_delivers {s s1 : State} {core grp : Nat} (h : completeLocal s core grp (toldOf s core grp) 4160 = (s1, none))
    (hout : resultsOut s1 core grp = false) (t : TrapInfo) (tpc resume : Word) (park latched : Bool) (lanes : List Nat) :
    takeTrap s core grp t tpc resume park latched lanes = deliverTrap s1 core grp t tpc resume park latched lanes := by
  simp [takeTrap_awaits h, awaitTrap, hout]

/-- An event logged is in the log alone, and the steward firmware may hear of it (R349, R364). -/
theorem logEvent_only (s : State) (pa event struct die : Nat) (hub : Bool) (unit : Nat) :
    ∃ a c x, logEvent s pa event struct die hub unit = { s with elogaddr := a, elogcause := c, steward := x } := by
  unfold logEvent
  dsimp only
  split
  · exact ⟨s.elogaddr, _, _, rfl⟩
  · exact ⟨_, _, _, rfl⟩

@[simp] theorem logFetch_teams (s : State) (ctx : Nat) (pc : Word) : (logFetch s ctx pc).teams = s.teams := by
  unfold logFetch
  split
  · dsimp only
    split
    · obtain ⟨a, c, x, h⟩ := logEvent_only s (physAddr s ctx _ pc.toNat false) 4 0 0 true 0
      rw [logViolation, h]
    · rfl
  · rfl

/-- Without a handler that could take it, a trap halts the team for it (R338, R344). -/
theorem deliverTrap_halts {s : State} {core grp : Nat} {tm : Team} {g : Group} (htm : tget s.teams core = some tm)
    (hg : tget tm.groups grp = some g) (t : TrapInfo) (tpc resume : Word) (park latched : Bool) (lanes : List Nat)
    (hno : recTraph (recOf s tm) = 0 ∨ g.hm ≠ none ∨ fetchFaults s (teamCtx s tm) (recTraph (recOf s tm)) = true) :
    (deliverTrap s core grp t tpc resume park latched lanes).TeamHas core (Team.HaltedEnding (tm.halt.or (some ⟨t, tpc, grp⟩))) := by
  have hcond : (decide (recTraph (recOf s tm) = 0) || g.hm.isSome || fetchFaults s (teamCtx s tm) (recTraph (recOf s tm))) = true := by
    simpa [or_assoc, Option.isSome_iff_ne_none] using hno
  simp only [deliverTrap, htm, groupAt_eq htm hg, hcond, if_true]
  refine haltTeam_halted _ (State.TeamHas.modTeam (P := fun t => t.halt = tm.halt) ?_ _ fun t ht => ?_)
  · split
    · exact ⟨tm, htm, rfl⟩
    · exact ⟨tm, by rw [logFetch_teams, htm], rfl⟩
  · unfold Team.modGroup
    split <;> exact ht

/-- Settles O18: the halt leaves the team without a live thread, and what follows it, the cancelling of channels and the completion of
barriers, lets none come back. -/
theorem trapHalts : Obligations.TrapHalts := by
  intro s s1 core grp t tpc resume park latched lanes tm g hlocal hout htm hg hno
  rw [takeTrap_delivers hlocal hout]
  refine ⟨fun a => by rw [deliverTrap_mem], ?_⟩
  obtain ⟨tm', htm', ⟨hdead, hbins, hott, hhalt⟩, hend⟩ := deliverTrap_halts htm hg t tpc resume park latched lanes hno
  refine ⟨tm', htm', hdead, hbins, hott, hend, hhalt.trans ?_⟩
  cases tm.halt <;> rfl

/-! ### Delivery to a handler (R342, R344) -/

/-- The record that a delivery keeps of a group whose threads have been doomed (R344). -/
def Group.trapRecord (g : Group) (resume : Word) (park : Bool) (lanes : List Nat) : TrapRecord :=
  { resume := resume, park := park, stretch := g.rb, start := g.start, startS := g.startS,
    threads := lanes.map (fun l => let x := (g.threads.map (fun x => x.doom 5 0)).getD l Thread.empty; ⟨l, x.pc, x.loops, x.txs, x.txw⟩),
    others := ((List.range g.threads.length).filter (fun l => !lanes.contains l)).map
      (fun l => let x := (g.threads.map (fun x => x.doom 5 0)).getD l Thread.empty; (l, x.txs, x.txw)) }

/-- The group in its handler: the CSRs hold the trap, the handler lanes are at TRAPH, and a fresh stretch is open (R342, R344). -/
def Group.inHandler (g : Group) (t : TrapInfo) (tpc resume : Word) (park latched : Bool) (lanes : List Nat) (traph : Word) : Group :=
  { { g with
      tcause := word (t.cause + (if park then 0x100 else 0) + (if latched then 0x200 else 0)),
      tpc := word (tpc.toNat % 2 ^ 56), taddr := t.taddr, tinfo := t.tinfo }.openStretch with
    threads := ((g.threads.map (fun x => x.doom 5 0)).zipIdx).map (fun x =>
      if lanes.contains x.2 then { x.1 with loops := [], pc := traph, txs := .none_ } else { x.1 with txs := .none_ }),
    hm := some (g.trapRecord resume park lanes), rb := [], status := .running, stall := none, parked := false }

/-- A trap of a group that no handler has, whose launch has a handler that can be fetched, is delivered to it. -/
theorem deliverTrap_handles {s : State} {core grp : Nat} {tm : Team} {g : Group} (htm : tget s.teams core = some tm)
    (hg : tget tm.groups grp = some g) (t : TrapInfo) (tpc resume : Word) (park latched : Bool) (lanes : List Nat)
    (hh : recTraph (recOf s tm) ≠ 0) (hm : g.hm = none) (hf : fetchFaults s (teamCtx s tm) (recTraph (recOf s tm)) = false) :
    deliverTrap s core grp t tpc resume park latched lanes = setTeam s core { tm with
      groups := tset tm.groups grp (g.inHandler t tpc resume park latched lanes (recTraph (recOf s tm))) } := by
  have hcond : (decide (recTraph (recOf s tm) = 0) || g.hm.isSome || fetchFaults s (teamCtx s tm) (recTraph (recOf s tm))) = false := by
    rw [decide_eq_false hh, hm, hf]
    rfl
  simp only [deliverTrap, htm, groupAt_eq htm hg, hcond, Bool.false_eq_true, if_false, modGroup_eq htm hg]
  rfl

theorem lane_inHandler {g : Group} {l : Nat} (hl : l < g.threads.length) (t : TrapInfo) (tpc resume : Word) (park latched : Bool)
    (lanes : List Nat) (traph : Word) :
    (g.inHandler t tpc resume park latched lanes traph).lane l =
      if l ∈ lanes then { (g.lane l).doom 5 0 with loops := [], pc := traph, txs := .none_ }
      else { (g.lane l).doom 5 0 with txs := .none_ } := by
  simp [Group.lane, Group.inHandler, List.getD_eq_getElem?_getD, hl]

@[simp] theorem doom_v (x : Thread) (o c : Nat) : (x.doom o c).v = x.v := by unfold Thread.doom; split <;> rfl
@[simp] theorem doom_p (x : Thread) (o c : Nat) : (x.doom o c).p = x.p := by unfold Thread.doom; split <;> rfl
@[simp] theorem doom_live (x : Thread) (o c : Nat) : (x.doom o c).live = x.live := by unfold Thread.doom; split <;> rfl
@[simp] theorem doom_pc (x : Thread) (o c : Nat) : (x.doom o c).pc = x.pc := by unfold Thread.doom; split <;> rfl
@[simp] theorem doom_loops (x : Thread) (o c : Nat) : (x.doom o c).loops = x.loops := by unfold Thread.doom; split <;> rfl

/-- The threads as doomed, by lane; a lane beyond the group has none. -/
theorem getD_doomed (g : Group) (l : Nat) :
    (g.threads.map (fun x => x.doom 5 0)).getD l Thread.empty = (g.lane l).doom 5 0 := by
  rw [List.getD_eq_getElem?_getD, List.getElem?_map, Group.lane, List.getD_eq_getElem?_getD]
  cases g.threads[l]? <;> rfl

/-- The turn in which a trap that waited for results is taken (R344). -/
theorem runTurn_trap {s : State} {core grp : Nat} {tm : Team} {g : Group} (htm : tget s.teams core = some tm)
    (hg : tget tm.groups grp = some g) {t : TrapInfo} {tpc resume : Word} {park latched : Bool} {lanes : List Nat}
    (hst : g.status = .trapping t tpc resume park latched lanes) (hout : resultsOut s core grp = false) :
    runTurn s (.trap core grp) = .next (takeTrap (modGroup { s with msg := none } core grp (fun g => { g with status := .running }))
      core grp t tpc resume park latched lanes) := by
  simp [runTurn, runTrap, groupAt_eq htm hg, hst, hout]

/-- Settles O17: the delivery by what it makes of each lane, and the wait for results before it. -/
theorem trapDelivery : Obligations.TrapDelivery := by
  intro s s1 core grp t tpc resume park latched lanes tm g hlocal htm hg
  refine ⟨fun hout => ?_, fun hst hout => runTurn_trap htm hg hst hout, fun hout hh hm hf => ?_⟩
  · rw [takeTrap_awaits hlocal, awaitTrap, if_pos hout, modGroup_eq htm hg]
  rw [takeTrap_delivers hlocal hout, deliverTrap_handles htm hg t tpc resume park latched lanes hh hm hf]
  refine ⟨_, rfl, BitVec.toNat_ofNat _ _,
    (BitVec.toNat_ofNat _ _).trans (Nat.mod_eq_of_lt (by omega)), rfl, rfl, rfl, rfl, rfl, rfl, rfl, fun l hl => ?_,
    fun l hin hl => ?_, fun l hin hl => ?_, _, rfl, rfl, rfl, rfl, ?_, ?_⟩
  · rw [lane_inHandler hl]
    split <;> simp
  · rw [lane_inHandler hl, if_pos hin]
    exact ⟨rfl, rfl, rfl⟩
  · rw [lane_inHandler hl, if_neg hin]
    simp
  · simp only [Group.trapRecord, List.map_map, getD_doomed, Function.comp_def, doom_pc, doom_loops]
  · rintro x hx - hopen
    obtain ⟨l, -, rfl⟩ := List.mem_map.1 hx
    replace hopen : (g.lane l).txs = .opened := hopen
    dsimp only
    rw [getD_doomed, Thread.doom, hopen]
    rfl

end Sys2Proof.Machine

end

section
/-! The long instructions on registers: special functions, blocks in registers and the cross-lane instructions (R102, R193 to R204). -/

namespace Sys2Proof.Machine

/-- An instruction whose body makes an entry of values known at issue completes with it. -/
theorem values_completes {i : Instr} {s : State} {w : LongWord} {sh : Shape} {ds : List Dest} {c : Ic} (got : Ic → List (Nat × Word))
    (h : offer s w sh { entry := true, dests := ds } = .ok c)
    (he : exec i s = issue s w sh { entry := true, dests := ds } (fun c => .ok (enterLong c ds Ord.relaxed .values (got c))))
    (x : List (Nat × Word)) (hx : got c = x) : Completes i s (LongDone c ds Ord.relaxed .values x) :=
  hx ▸ long_completes h _ he rfl _ _ _ _ rfl

/-! ### Special functions (R193, R194) -/

theorem special_completes {i : Instr} {w : LongWord} {anyRm : Bool} (f : Fmt → Nat → Num → Nat) {s : State} {c : Ic}
    (h : offer s w (shapeF1 w (if anyRm then layoutF true false false w.m6 else layoutZ w)) { entry := true, dests := [destOf w.d] } = .ok c)
    (he : exec i s = specialInstr w anyRm f s) :
    Completes i s (LongDone c [destOf w.d] Ord.relaxed .values (c.lanes.map (fun l =>
      (l, perElem (subNo w) (fun k => f (fmtT (subNo w)) (rmOf w) (fv (subNo w) k (c.rd l w.a))))))) := by
  refine long_completes h (fun c => .ok (longResult c (fun l => perElem (subNo w) (fun k => f (fmtT (subNo w)) (rmOf w)
    (fv (subNo w) k (c.rd l w.a)))))) he rfl _ _ _ _ ?_
  obtain rfl := (offer_ok h).word
  rfl

theorem specialFunctions : Claims.SpecialFunctions := by
  refine ⟨?frcp, ?fsqrt, ?frsq, ?fexp2, ?flog2, ?fsin, ?fcos, ?ftanh⟩
  case frcp => exact fun _ _ _ h => special_completes (anyRm := true) fRcp h rfl
  case fsqrt => exact fun _ _ _ h => special_completes (anyRm := true) fSqrt h rfl
  case frsq => exact fun _ _ _ h => special_completes (anyRm := false) (fun f _ => fRsq f) h rfl
  case fexp2 => exact fun _ _ _ h => special_completes (anyRm := false) (fun f _ => fExp2 f) h rfl
  case flog2 => exact fun _ _ _ h => special_completes (anyRm := false) (fun f _ => fLog2 f) h rfl
  case fsin => exact fun _ _ _ h => special_completes (anyRm := false) (fun f _ => fSinPi f) h rfl
  case fcos => exact fun _ _ _ h => special_completes (anyRm := false) (fun f _ => fCosPi f) h rfl
  case ftanh => exact fun _ _ _ h => special_completes (anyRm := false) (fun f _ => fTanh f) h rfl

/-! ### Blocks in registers (R195 to R199) -/

/-- Each of them makes an entry with the registers of its range, which the model's instruction gives. -/
theorem blocksInRegisters : Claims.BlocksInRegisters := by
  refine ⟨?_, ?_, ?_, ?_, ?_, ?_⟩
  all_goals exact fun _ _ _ h => values_completes _ h rfl _ rfl

/-! ### Cross-lane instructions (R200 to R204) -/

/-- Register A has lost its value in a live lane of those that are read. -/
def Ic.LostIn (c : Ic) (ls : List Nat) : Prop :=
  isV c.w.a = true ∧ ∃ l ∈ ls, (c.g.lane l).live = true ∧ c.w.a.toNat ∈ (c.g.lane l).bad

theorem lanesLost_iff (c : Ic) (ls : List Nat) : lanesLost c ls = true ↔ c.LostIn ls := by
  simp [lanesLost, Ic.LostIn, List.any_eq_true]

/-- A body that first reads other lanes and then makes an entry: the entry where they hold their values, and otherwise the first time
the restart of the group (R347, R362). -/
theorem across_completes {i : Instr} {w : LongWord} {sh : Shape} {k : Issue} {s : State} {c : Ic} (h : offer s w sh k = .ok c)
    (body : Ic → Except Stop Eff) (he : exec i s = issue s w sh k body) (hk : k.blocking = false) (ls : List Nat) (ds : List Dest)
    (got : List (Nat × Word)) (hb : body c = (do readAcross c ls; .ok (enterLong c ds Ord.relaxed .values got))) :
    (¬ c.LostIn ls → Completes i s (LongDone c ds Ord.relaxed .values got))
    ∧ (c.LostIn ls → c.g.hm = none → c.g.rmtOp = false → c.pc ∉ c.g.poisonPc →
        exec i s = .next (poisonRestart (logLost c.s 1 c.core) c.core c.grp c.pc)) := by
  refine ⟨fun hl => ?_, fun hl hm hr hp => ?_⟩
  · have hno : lanesLost c ls = false := Bool.eq_false_iff.2 (mt (lanesLost_iff c ls).1 hl)
    refine long_completes h body he hk ds _ _ got ?_
    rw [hb, readAcross, hno]
    rfl
  · have hyes : lanesLost c ls = true := (lanesLost_iff c ls).2 hl
    have hstop : body c = .error (.failed (logLost c.s 1 c.core) (registerTrap (true, c.w.a.toNat))) := by
      rw [hb, readAcross, hyes]
      rfl
    rw [he, issue_ok h, hstop]
    simp [stopState, registerTrap, hm, hr, hp]

/-- An instruction whose body makes one value of the lanes completes with it (R200, R203). -/
theorem splat_completes {i : Instr} {s : State} {w : LongWord} {sh : Shape} {c : Ic} (f : Ic → Word)
    (h : offer s w sh { entry := true, dests := [destOf w.d] } = .ok c)
    (he : exec i s = issue s w sh { entry := true, dests := [destOf w.d] } (fun c => .ok (splatResult c (f c))))
    (x : Word) (hx : f c = x) :
    Completes i s (LongDone c [destOf w.d] Ord.relaxed .values ((if isV w.d then c.en else [0]).map (fun l => (l, x)))) := by
  subst hx
  refine long_completes h _ he rfl _ _ _ _ ?_
  obtain rfl := (offer_ok h).word
  rfl

theorem crossLane : Claims.CrossLane := by
  refine ⟨fun w s c h => ?_, fun w s c h => ?_, fun w s c h => ?_, fun w s c h => ?_, fun w s c h => ?_, fun w s c h => ?_⟩
  · obtain rfl := (offer_ok h).word
    exact across_completes h _ rfl rfl _ _ _ rfl
  · obtain rfl := (offer_ok h).word
    exact across_completes h _ rfl rfl _ _ _ rfl
  · obtain rfl := (offer_ok h).word
    exact across_completes h _ rfl rfl _ _ _ rfl
  · exact values_completes _ h rfl _ rfl
  · exact splat_completes _ h rfl _ rfl
  · exact (across_completes h _ rfl rfl [] _ _ rfl).1 (by simp [Ic.LostIn])

/-- Settles O5: each long instruction on registers by the one effect that its body has. -/
theorem longResults : Obligations.LongResults := ⟨specialFunctions, blocksInRegisters, crossLane⟩

end Sys2Proof.Machine

end

section
/-! SELFTEST of each pattern, and the registers of the defect map (R391, R392, R396). -/

namespace Sys2Proof.Machine

/-! ### SELFTEST (R391, R392) -/

/-- What SELFTEST does with its operand, whose unit is `avail` or not (R391, R392). -/
def selftestBody (w : LongWord) (pattern : Nat) (operand : Bool) (avail : Ic → Nat → Bool) (c : Ic) : Except Stop Eff := do
  let arg := if operand then c.rd 0 w.a else 0
  if !avail c arg.toNat then
    let x := selftestWord pattern 2 0 0
    .ok (enterLong { c with s := modCore c.s c.core (fun k => { k with selftest := x }) } [destOf w.d] Ord.relaxed .values [(0, x)])
  else if pattern = 2 then
    let r ← enterTable c .selftest [] [] [] [] 0 [] false
    .ok (enterLong { c with s := r.1 } [destOf w.d] Ord.relaxed (.engine r.2) [])
  else .ok (enterLong c [destOf w.d] Ord.relaxed (.selftest pattern arg) [])

/-- The shape of SELFTEST of a pattern. -/
def shapeSelftest (w : LongWord) (pattern : Nat) (operand : Bool) : Shape :=
  { form := w.lit.isNone, sub := subNo w == pattern, m6 := layoutZ w, d := .dst 1, a := if operand then .src 1 else .unused,
    port := .uniform }

/-- The issue of SELFTEST. -/
def issueSelftest (w : LongWord) (pre : Ic → Option TrapInfo) : Issue := { entry := true, dests := [destOf w.d], pre := pre }

theorem selftest_eq (w : LongWord) (pattern : Nat) (operand : Bool) (pre : Ic → Option TrapInfo) (avail : Ic → Nat → Bool) (s : State) :
    selftest w pattern operand pre avail s
      = issue s w (shapeSelftest w pattern operand) (issueSelftest w pre) (selftestBody w pattern operand avail) := rfl

section

variable {i : Instr} {w : LongWord} {pattern : Nat} {operand : Bool} {pre : Ic → Option TrapInfo} {avail : Ic → Nat → Bool} {s : State}
  {c : Ic} (h : offer s w (shapeSelftest w pattern operand) (issueSelftest w pre) = .ok c)
  (he : exec i s = selftest w pattern operand pre avail s)

include h he

/-- A pattern whose unit is available runs in its entry. -/
theorem selftest_runs (hp : pattern ≠ 2) (ha : avail c (if operand then c.rd 0 w.a else 0).toNat = true) :
    Completes i s (LongDone c [destOf w.d] Ord.relaxed (.selftest pattern (if operand then c.rd 0 w.a else 0)) []) :=
  long_completes h _ (he.trans (selftest_eq ..)) rfl _ _ _ _ (by simp only [selftestBody, ha, hp]; rfl)

/-- Where the unit is away the result is 2, in D and in SELFTESTSTAT. -/
theorem selftest_away (ha : avail c (if operand then c.rd 0 w.a else 0).toNat = false) :
    Completes i s (fun t => SameMemory c.s t ∧ t =
      ({ c with s := modCore c.s c.core (fun k => { k with selftest := word (pattern + 2 ^ 5) }) } : Ic).enters
        (c.entry true Ord.relaxed .values [(0, word (pattern + 2 ^ 5))]) (c.slots [destOf w.d])) := by
  have hx : selftestWord pattern 2 0 0 = word (pattern + 2 ^ 5) := by simp [selftestWord]
  have o := offer_ok h
  obtain ⟨hdone, hmem⟩ := enterLong_done
    (o.within o.group (u := modCore c.s c.core (fun k => { k with selftest := word (pattern + 2 ^ 5) }))
      (show c.s.iss = s.iss from congrArg State.iss (o.plain rfl)) o.team) [destOf w.d] Ord.relaxed .values [(0, word (pattern + 2 ^ 5))]
  refine completes_of_body h _ (he.trans (selftest_eq ..)) rfl ?_ ⟨hmem, hdone⟩
  simp only [selftestBody, ha, hx]
  rfl

end

/-- Settles O40: each pattern runs in its entry or, pattern 2, in the engine's table; or it is refused at once. -/
theorem selfTests : Obligations.SelfTests := by
  refine ⟨fun w s c h => ?lane, fun w s c h => ?l1, fun w s c h => ?engine, fun w s c h => ?rfull, fun w s c h => ?link⟩
  case lane => exact selftest_runs (operand := false) (avail := fun _ _ => true) h rfl (by decide) rfl
  case l1 =>
    refine ⟨fun hr => ?_, fun hr => ?_⟩
    · exact selftest_runs (operand := true) (avail := fun c a => bitsAt c.t.role.toNat (2 * (a % 32)) 2 == 1) h rfl (by decide)
        (beq_iff_eq.2 hr)
    · exact selftest_away (operand := true) (avail := fun c a => bitsAt c.t.role.toNat (2 * (a % 32)) 2 == 1) h rfl (beq_eq_false_iff_ne.2 hr)
  case engine =>
    have hav : ((c.eng.tiles.any (fun t => t.bound.isNone) && (c.svc || c.s.svclvl != 1)) = true) ↔
        (c.eng.tiles.any (fun t => t.bound.isNone) = true ∧ (c.svc = true ∨ c.s.svclvl ≠ 1)) := by simp
    refine ⟨fun ha hroom => ?_, fun ha => ?_⟩
    · refine commandLong_completes h (selftestBody w 2 false
        (fun c _ => c.eng.tiles.any (fun t => t.bound.isNone) && (c.svc || c.s.svclvl != 1))) rfl rfl hroom ?_
      simp only [selftestBody, hav.2 ha]
      rfl
    · exact selftest_away (operand := false)
        (avail := fun c _ => c.eng.tiles.any (fun t => t.bound.isNone) && (c.svc || c.s.svclvl != 1)) h rfl
        (Bool.eq_false_iff.2 (mt hav.1 ha))
  case rfull => exact selftest_runs (operand := false) (avail := fun _ _ => true) h rfl (by decide) rfl
  case link =>
    refine ⟨fun hr => ?_, fun hr => ?_⟩
    · exact selftest_runs (operand := true) (avail := fun _ a => decide (a % 32 < 24)) h rfl (by decide) (decide_eq_true hr)
    · exact selftest_away (operand := true) (avail := fun _ a => decide (a % 32 < 24)) h rfl (decide_eq_false (Nat.not_lt.2 hr))

/-! ### DEFMAP (R396) -/

/-- A sum of distinct powers of 2 below 2^n, bit by bit. -/
theorem sum_pow_bits (f : Nat → Bool) (n : Nat) :
    ((List.range n).map (fun k => if f k then 2 ^ k else 0)).sum < 2 ^ n
      ∧ ∀ i, (((List.range n).map (fun k => if f k then 2 ^ k else 0)).sum).testBit i = (decide (i < n) && f i) := by
  induction n with
  | zero => simp
  | succ n ih =>
    obtain ⟨hlt, hbit⟩ := ih
    rw [List.range_succ, List.map_append, List.sum_append]
    generalize ((List.range n).map (fun k => if f k then 2 ^ k else 0)).sum = x at hlt hbit
    have hx : x + ([n].map (fun k => if f k then 2 ^ k else 0)).sum = 2 ^ n * (f n).toNat + x := by
      cases hf : f n <;> simp [hf, Nat.add_comm]
    rw [hx]
    refine ⟨?_, fun i => ?_⟩
    · cases f n <;> simp [Nat.pow_succ] <;> omega
    · rw [Nat.testBit_two_pow_mul_add _ hlt]
      rcases lt_trichotomy i n with h | rfl | h
      · simp [h, hbit, Nat.lt_succ_of_lt h]
      · cases hf : f i <;> simp
      · obtain ⟨k, rfl⟩ := Nat.exists_eq_add_of_lt h
        have hz : (f n).toNat.testBit (n + k + 1 - n) = false :=
          Nat.testBit_lt_two_pow (Nat.lt_of_lt_of_le (Bool.toNat_lt _) (Nat.pow_le_pow_right (n := 2) (by decide) (by omega : 1 ≤ _)))
        simp [hz]
        omega

theorem nbit_testBit (x i : Nat) : nbit x i = x.testBit i := by
  rw [nbit, Nat.testBit_eq_decide_div_mod_eq, beq_eq_decide]

/-- The CSRs from 0x0D0 to 0x0DF are those of DEFMAP (Table 7.2). -/
theorem csrRead_defmap (c : Ic) (l : Nat) {n : Nat} (h : 0x0D0 ≤ n) (h' : n ≤ 0x0DF) : csrRead c n l = defmapWord c.s (n - 0x0D0) := by
  unfold csrRead
  dsimp only
  split
  case h_40 => rw [if_neg (by simp; omega), if_pos (by simp [h, h'])]
  all_goals omega

theorem coreDisabled_at (s : State) (n : Nat) {i : Nat} (h : i < 48) :
    coreDisabled s (48 * n + i) = (nbit (memNat s.defmap (0x040 + 0x180 * n) 6) i || (coreRegs s (48 * n + i)).disabled) := by
  rw [coreDisabled, Nat.mul_add_div (by decide), Nat.mul_add_mod, Nat.div_eq_of_lt h, Nat.mod_eq_of_lt h, Nat.add_zero]

/-- Settles O36: each word bit by bit. -/
theorem defectMapRegisters : Obligations.DefectMapRegisters := by
  intro c l
  refine ⟨fun n hn i => ?_, ?_, ?_, fun n h h' => ?_⟩
  · rw [csrRead_defmap c l (by omega) (by omega), Nat.add_sub_cancel_left, defmapWord, if_pos hn, word, BitVec.getLsbD_ofNat]
    obtain ⟨hlt, hbit⟩ := sum_pow_bits (fun i => coreDisabled c.s (48 * n + i)) 48
    rw [Nat.add_comm, Nat.testBit_two_pow_mul_add _ hlt]
    by_cases hi : i < 48
    · rw [if_pos hi, if_pos hi, hbit, coreDisabled_at _ _ hi]
      simp [hi, Nat.lt_trans hi (by decide : 48 < 64)]
    · rw [if_neg hi, if_neg hi, Nat.testBit_or, Nat.testBit_mod_two_pow, nbit_testBit, nbit_testBit]
      by_cases h64 : i < 64
      · simp [h64, show i - 48 < 16 by omega]
      · simp [h64]
  · exact csrRead_defmap c l (by decide) (by decide)
  · exact csrRead_defmap c l (by decide) (by decide)
  · rw [csrRead_defmap c l (by omega) (by omega), defmapWord, if_neg (by omega), if_neg (by omega), if_neg (by omega)]

end Sys2Proof.Machine

end

section
/-! What sending and settling leave of a journal, and the instructions of the journal and of the streams (R275, R287, R365 to R376). -/

namespace Sys2Proof.Machine

/-! ### What sending, emitting and settling leave of a journal -/

/-- The positions and the records of a context's journal. -/
def Context.journal (c : Context) : Nat × Nat × Nat × Nat × List JRec := (c.jpos, c.jack, c.cack, c.tb, c.records)

/-- The journal of a context. -/
def journalOf (s : State) (k : Nat) : Nat × Nat × Nat × Nat × List JRec := (ctxOf s k).journal

theorem ctxs_of_sansMemory {s t : State} (h : t.sansMemory = s.sansMemory) : t.ctxs = s.ctxs := by
  have e := congrArg State.ctxs h
  exact e

theorem journalOf_of_ctxs {s t : State} (h : t.ctxs = s.ctxs) (k : Nat) : journalOf t k = journalOf s k := by
  rw [journalOf, ctxOf, h, ← ctxOf, ← journalOf]

theorem ctxOf_modCtx {s : State} {c : Nat} (h : (tget s.ctxs c).isSome = true) (f : Context → Context) :
    ctxOf (modCtx s c f) c = f (ctxOf s c) := by
  obtain ⟨x, hx⟩ := Option.isSome_iff_exists.1 h
  simp [modCtx, ctxOf, tgetD, hx]

/-- A context is there whose journal is not that of none. -/
theorem ctx_isSome {s : State} {c : Nat} {β : Type} (p : Context → β) (h : p (ctxOf s c) ≠ p Context.fresh) :
    (tget s.ctxs c).isSome = true := by
  rw [Option.isSome_iff_ne_none]
  intro hnone
  simp [ctxOf, tgetD, hnone] at h

theorem journalOf_modCtx (s : State) (c : Nat) {f : Context → Context} (hf : ∀ x, (f x).journal = x.journal) (k : Nat) :
    journalOf (modCtx s c f) k = journalOf s k := by
  unfold modCtx
  split
  · rename_i x hx
    simp only [journalOf, ctxOf, tgetD, tget_tset]
    split
    · rename_i hk
      subst hk
      simp [hx, hf]
    · rfl
  · rfl

theorem journalOf_modStream (s : State) (c n : Nat) (f : Stream → Stream) (k : Nat) : journalOf (modStream s c n f) k = journalOf s k :=
  journalOf_modCtx s c (f := fun x => { x with streams := tset x.streams n (f (streamOf x n)) }) (fun _ => rfl) k

theorem journalOf_sendReq (s : State) (r : Req) (k : Nat) : journalOf (sendReq s r) k = journalOf s k := by
  obtain ⟨out, hout⟩ := sendTo_only s r.owner (packetOf s r)
  unfold sendReq
  dsimp only
  rw [hout]
  split
  · exact journalOf_modStream ..
  · exact journalOf_modStream ..
  · exact journalOf_modStream ..
  · rfl

theorem journalOf_newReq (s : State) (r : Req) (k : Nat) : journalOf (newReq s r) k = journalOf s k := by
  unfold newReq
  split
  · rfl
  · exact journalOf_sendReq _ r k

theorem journalOf_notify (s : State) (kind : ReqKind) (o c n : Nat) (seq : BitVec 32) (k : Nat) :
    journalOf (notify s kind o c n seq) k = journalOf s k := journalOf_newReq ..

theorem journalOf_sendRecords (s : State) (c n k : Nat) : journalOf (sendRecords s c n) k = journalOf s k := by
  induction n generalizing s with
  | zero => rfl
  | succ n ih =>
    unfold sendRecords
    dsimp only
    split
    · rfl
    split
    · rfl
    split
    · rw [ih, journalOf_modCtx]
      exact fun _ => rfl
    · rw [ih, journalOf_newReq, journalOf_modCtx]
      exact fun _ => rfl

@[simp] theorem latchHeld_ctxs (s : State) (core grp cause kind : Nat) (addr info : Word) :
    (latchHeld s core grp cause kind addr info).ctxs = s.ctxs := by
  unfold latchHeld
  split
  · simp [latchErr]
  · rfl

@[simp] theorem emitOne_ctxs (s : State) (e : HeldEmit) : (emitOne s e).ctxs = s.ctxs := by
  unfold emitOne
  split
  · rw [latchHeld_ctxs, ctxs_of_sansMemory (logViolation_sansMemory _ _)]
  · rw [ctxs_of_sansMemory (homeWrite_sansMemory _ _ _)]
    rfl

theorem journalOf_runEmits (s : State) (c k : Nat) : journalOf (runEmits s c) k = journalOf s k := by
  unfold runEmits
  dsimp only
  split
  · rfl
  · rw [journalOf_of_ctxs (foldl_keeps State.ctxs emitOne emitOne_ctxs _ _), journalOf_modCtx]
    exact fun _ => rfl

@[simp] theorem finishEntry_ctxs (s : State) (core : Nat) (e : OttEntry) : (finishEntry s core e).ctxs = s.ctxs := by
  simp only [finishEntry]
  split <;> simp [latchErr]

theorem journalOf_seedResult (s : State) (c flags k : Nat) : journalOf (seedResult s c flags) k = journalOf s k := by
  unfold seedResult
  split
  · rfl
  · dsimp only
    split
    · rw [journalOf_of_ctxs (finishEntry_ctxs ..), journalOf_modCtx]
      exact fun _ => rfl
    · rw [journalOf_modCtx, journalOf_modCtx]
      · exact fun _ => rfl
      · exact fun _ => rfl

theorem journalOf_coverSyncs (s : State) (c k : Nat) : journalOf (coverSyncs s c) k = journalOf s k := rfl

/-- The gate settles without a change of the journal (R368, R375). -/
theorem journalOf_settleGate (s : State) (c k : Nat) : journalOf (settleGate s c) k = journalOf s k := by
  unfold settleGate
  dsimp only
  rw [journalOf_coverSyncs, journalOf_runEmits, journalOf_sendRecords]
  split
  · rw [journalOf_seedResult, journalOf_modCtx]
    · exact foldl_keeps (fun s => journalOf s k) _ (fun s p => journalOf_notify ..) _ _
    · exact fun _ => rfl
  · rfl

@[simp] theorem newReq_teams (s : State) (r : Req) : (newReq s r).teams = s.teams := by
  unfold newReq
  split
  · rfl
  · obtain ⟨out, hout⟩ := sendTo_only { s with reqs := s.reqs ++ [r], stamp := s.stamp + 1 } r.owner
      (packetOf { s with reqs := s.reqs ++ [r], stamp := s.stamp + 1 } r)
    unfold sendReq
    dsimp only
    rw [hout]
    split <;> simp

@[simp] theorem sendRecords_teams (s : State) (c n : Nat) : (sendRecords s c n).teams = s.teams := by
  induction n generalizing s with
  | zero => rfl
  | succ n ih =>
    unfold sendRecords
    dsimp only
    (repeat' split) <;> simp [ih]

/-! ### JAPP, EMIT, JSYNC (R371 to R373) -/

/-- The records that JAPP appends: one for each lane, at rising positions (R371, Table 23.1). -/
def jappRecords (w : LongWord) (c : Ic) : List JRec :=
  c.lanes.zipIdx.map (fun l => ⟨(ctxOf c.s c.ctx).jpos + l.2, recordBytes c.s.pkgid (subNo w) ((ctxOf c.s c.ctx).jpos + l.2)
    (c.rd l.1 w.a) (readRegAt c.g l.1 w.a 1) (readRegAt c.g l.1 w.a 2)⟩)

/-- The package with JAPP's records appended, and those sent that may be. -/
def jappState (w : LongWord) (c : Ic) : State :=
  let recs := jappRecords w c
  let s := modCtx c.s c.ctx (fun j => { j with records := j.records ++ recs, jpos := j.jpos + recs.length })
  let s := modGroup s c.core c.grp (fun g => { g with gjp := word ((ctxOf c.s c.ctx).jpos + recs.length) })
  sendRecords s c.ctx recs.length

/-- JAPP where the gate has a partner and room, and nothing that it comes after is outstanding. -/
theorem execJapp_next {w : LongWord} {s : State} {c : Ic}
    (h : offer s w { form := w.lit.isNone, sub := 1 ≤ subNo w && subNo w ≤ 4, m6 := layoutZ w, a := .src 3 }
      { entry := true, tx := some 2, flag := recJrnl } = .ok c)
    (hg : (ctxOf c.s c.ctx).gate ≠ .noPart) (hroom : (ctxOf c.s c.ctx).jpos + c.lanes.length ≤ (ctxOf c.s c.ctx).tb + 2 ^ 20)
    (hw : c.writesNow) (he : ∀ x ∈ c.t.ott, x.grp = c.grp → isEmit (realEntry c.t x).work = false) :
    exec (.japp w) s = .next (retire (enterPosted { c with s := jappState w c } Ord.relaxed .done).st c.core c.grp c.pc c.next c.act [] w.s) := by
  have hno : c.t.ott.any (fun x => x.grp == c.grp && isEmit (realEntry c.t x).work) = false :=
    List.any_eq_false.2 fun x hx => by
      rw [Bool.and_eq_true, beq_iff_eq]
      exact fun hxe => by simp [he x hx hxe.1] at hxe
  refine (issue_ok h _).trans ?_
  have hg' : ((ctxOf c.s c.ctx).gate != .noPart) = true := by simpa using hg
  simp only [need, hg', hroom, hno, detToken_ok hw, decide_true, Bool.not_false, Bool.and_true, if_true]
  rfl

@[simp] theorem jappRecords_length (w : LongWord) (c : Ic) : (jappRecords w c).length = c.lanes.length := by simp [jappRecords]

theorem enterPosted_ctxs (c : Ic) (o : Ord) (work : Work) : (enterPosted c o work).st.ctxs = c.s.ctxs := by simp [enterPosted]

theorem retire_ctxs (s : State) (core grp : Nat) (pc next : Word) (act : List Nat) (xfer : List (Nat × Word)) (park : Bool) :
    (retire s core grp pc next act xfer park).ctxs = s.ctxs := by simp [retire]

/-- The group that an instruction has made of its own, once it has posted an entry and retired. -/
theorem groupAt_posted {c : Ic} {u : State} {t : Team} {g : Group} (ht : tget u.teams c.core = some t) (hg : tget t.groups c.grp = some g)
    (o : Ord) (work : Work) (pc next : Word) (act : List Nat) (xfer : List (Nat × Word)) (park : Bool) :
    groupAt (retire (enterPosted { c with s := u } o work).st c.core c.grp pc next act xfer park) c.core c.grp
      = some (retireGroup pc next act xfer park g) := by
  have ht' (n : Nat) : tget ({ u with stamp := n } : State).teams c.core = some t := ht
  rw [retire, enterPosted, modGroup_eq (modTeam_get (ht' _) _) hg, groupAt_setTeam, tget_tset_self]

theorem jappState_group {w : LongWord} {c : Ic} (ht : tget c.s.teams c.core = some c.t) (hg : tget c.t.groups c.grp = some c.g) :
    tget (jappState w c).teams c.core = some { c.t with
      groups := tset c.t.groups c.grp { c.g with gjp := word ((ctxOf c.s c.ctx).jpos + c.lanes.length) } } := by
  have hctx (f : Context → Context) : tget (modCtx c.s c.ctx f).teams c.core = some c.t := by rw [modCtx_teams, ht]
  simp only [jappState, sendRecords_teams, jappRecords_length, modGroup_eq (hctx _) hg, setTeam_get]

theorem jappState_journal {w : LongWord} {c : Ic} (hc : (tget c.s.ctxs c.ctx).isSome = true) :
    journalOf (jappState w c) c.ctx = (let j := ctxOf c.s c.ctx; (j.jpos + c.lanes.length, j.jack, j.cack, j.tb, j.records ++ jappRecords w c)) := by
  rw [jappState, journalOf_sendRecords, journalOf_of_ctxs (modGroup_ctxs ..), journalOf, ctxOf_modCtx hc]
  simp [Context.journal]

theorem enterPosted_mem (c : Ic) (o : Ord) (work : Work) : (enterPosted c o work).st.mem = c.s.mem := by simp [enterPosted]

theorem japp_completes (w : LongWord) (s : State) (c : Ic)
    (h : offer s w { form := w.lit.isNone, sub := 1 ≤ subNo w && subNo w ≤ 4, m6 := layoutZ w, a := .src 3 }
      { entry := true, tx := some 2, flag := recJrnl } = .ok c) :
    let j := ctxOf c.s c.ctx
    j.gate ≠ .noPart → j.jpos + c.lanes.length ≤ j.tb + 2 ^ 20 → (recDet c.r = false ∨ c.t.hasToken = true) →
    (∀ x ∈ c.t.ott, x.grp = c.grp → isEmit (realEntry c.t x).work = false) →
    Completes (.japp w) s (fun t => SameMemory s t
      ∧ (ctxOf t c.ctx).jpos = j.jpos + c.lanes.length
      ∧ (ctxOf t c.ctx).records = j.records ++ c.lanes.zipIdx.map (fun l => ⟨j.jpos + l.2,
          recordBytes s.pkgid (subNo w) (j.jpos + l.2) (c.rd l.1 w.a) (readRegAt c.g l.1 w.a 1) (readRegAt c.g l.1 w.a 2)⟩)
      ∧ groupAt t c.core c.grp = some (retireGroup c.pc c.next c.act [] w.s { c.g with gjp := word (j.jpos + c.lanes.length) })) := by
  intro j hg hroom hw he
  have o := offer_ok h
  have hs : c.s = s := o.plain rfl
  have hj := jappState_journal (w := w) (ctx_isSome (s := c.s) (c := c.ctx) (fun x => x.gate) hg)
  refine ⟨_, execJapp_next h hg hroom hw he, fun a => ?_, ?_, ?_, ?_⟩
  · rw [retire_mem, enterPosted_mem, ← hs]
    simp [jappState]
  · rw [ctxOf, retire_ctxs, enterPosted_ctxs, ← ctxOf]
    exact congrArg (fun x => x.1) hj
  · rw [ctxOf, retire_ctxs, enterPosted_ctxs, ← ctxOf, ← hs]
    exact congrArg (fun x => x.2.2.2.2) hj
  · exact groupAt_posted (jappState_group o.team o.group) (tget_tset_self ..) ..

theorem emit_completes (w : LongWord) (s : State) (c : Ic) (ls : List Acc)
    (h : offer s w (shapeMem w (layoutZ w) (.src 1)) { entry := true, tx := some 2, flag := fun r => recJrnl r && !recReplay r } = .ok c)
    (hl : checkLanes c .emit (tyBits (subNo w) / 8) false (effLanes c) = .ok ls)
    (hg : (ctxOf c.s c.ctx).gate = .seeding ∨ (ctxOf c.s c.ctx).gate = .normal) (hw : c.writesNow) :
    Completes (.emit w) s (PostedDone c ⟨false, true, false, .sys, none⟩
      (.emit (ls.map (fun a => (a, c.rd a.lane w.d))) (subNo w) c.g.gjp.toNat)) := by
  have hr : gateReason (ctxOf c.s c.ctx) = none := by rcases hg with hg | hg <;> simp [gateReason, hg]
  refine posted_completes h _ rfl rfl _ _ ?_
  simp only [hl, hr, ok_bind, detToken_ok hw]

section

variable {i : Instr} {w : LongWord} {sub : Bool} {first : Ic → Nat} {s : State} {c : Ic}
  (h : offer s w { form := w.lit.isNone, sub := sub, m6 := layoutZ w, port := .uniform } { blocking := true, tx := some 2, flag := recJrnl } = .ok c)
  (he : exec i s = journalSync w sub first s)

include h he

/-- A JSYNC whose wait is over goes on (R373). -/
theorem sync_goesOn (hb : c.g.stall.any (fun x => x.1 == .journal 0) = true
    ∨ gateReason (ctxOf c.s c.ctx) = none ∧ syncPos c (first c) ≤ (ctxOf c.s c.ctx).cack) :
    Completes i s (fun t => t = c.with (retireGroup c.pc c.next c.act [] false c.g) ∧ SameMemory s t) := by
  have o := offer_ok h
  have hnext : exec i s = .next (retire c.s c.core c.grp c.pc c.next c.act [] false) := by
    refine he.trans ((issue_ok h _).trans ?_)
    rcases hb with hb | ⟨hr, hp⟩
    · simp [hb]
    · simp [hr, hp]
  refine ⟨_, hnext, with_self o.team o.group .., fun a => ?_⟩
  rw [retire_mem, offer_mem h]

/-- A JSYNC whose gate has no partner raises EJOURNAL (R369, R373). -/
theorem sync_raises {r : Nat} (hb : ∀ n, c.g.stall ≠ some (.journal 0, n)) (hr : gateReason (ctxOf c.s c.ctx) = some r) :
    exec i s = .next (takeTrap c.s c.core c.grp (ejournal c.s c.ctx r (word (syncPos c (first c)))) c.pc c.pc false false c.act) := by
  have hno : c.g.stall.any (fun x => x.1 == .journal 0) = false := by
    cases hst : c.g.stall with
    | none => rfl
    | some x =>
      obtain ⟨k, n⟩ := x
      have : k ≠ .journal 0 := fun hk => hb n (by rw [hst, hk])
      simpa using this
  refine he.trans ((issue_ok h _).trans ?_)
  simp [hno, hr, stopState]

end

/-! ### JTRUNC, JSEED (R374, R375) -/

/-- A context whose base has risen (R374). -/
def Context.truncated (base : Nat) (c : Context) : Context :=
  { c with
    tb := base, records := c.records.filter (fun r => r.pos ≥ base), jsent := if c.jsent < base then base else c.jsent,
    cack := if gateLive c then (if c.cack < base then base else c.cack) else base }

/-- What a truncation tells the partner leaves the journal as it is truncated (R374). -/
theorem journalOf_truncate {s : State} {c : Nat} (hc : (tget s.ctxs c).isSome = true) (base : Nat) :
    journalOf (truncate s c base) c = (Context.truncated base (ctxOf s c)).journal := by
  have hctx : journalOf (modCtx s c (Context.truncated base)) c = (Context.truncated base (ctxOf s c)).journal := by
    rw [journalOf, ctxOf_modCtx hc]
  unfold truncate
  dsimp only
  split
  · rw [journalOf_settleGate, journalOf_newReq]
    exact hctx
  · exact hctx

theorem truncate_journal {s : State} {c : Nat} (hc : (tget s.ctxs c).isSome = true) (base : Nat) :
    (ctxOf (truncate s c base) c).tb = base
      ∧ (ctxOf (truncate s c base) c).records = (ctxOf s c).records.filter (fun r => r.pos ≥ base) :=
  have hj := journalOf_truncate hc base
  ⟨congrArg (fun x => x.2.2.2.1) hj, congrArg (fun x => x.2.2.2.2) hj⟩

/-- The shape of JTRUNC. -/
def shapeJtrunc (w : LongWord) : Shape := { form := w.lit.isNone, sub := w.sub6 == 0#6, m6 := layoutZ w, a := .src 1, port := .uniform }

section

variable {w : LongWord} {s : State} {c : Ic} (h : offer s w (shapeJtrunc w) { entry := true, flag := recJrnl } = .ok c)

include h

theorem jtrunc_done (ha : (c.rd 0 w.a).toNat ≤ (ctxOf c.s c.ctx).tb) : Completes (.jtrunc w) s (PostedDone c Ord.relaxed .done) :=
  posted_completes h _ rfl rfl _ _ (by simp only [ha, if_true])

theorem jtrunc_truncates (hlo : (ctxOf c.s c.ctx).tb < (c.rd 0 w.a).toNat) (hhi : (c.rd 0 w.a).toNat ≤ (ctxOf c.s c.ctx).jack) :
    Completes (.jtrunc w) s (fun t =>
      t = retire (enterPosted { c with s := truncate c.s c.ctx (c.rd 0 w.a).toNat } Ord.relaxed .done).st c.core c.grp c.pc c.next c.act [] w.s
      ∧ (ctxOf t c.ctx).tb = (c.rd 0 w.a).toNat ∧ ∀ r ∈ (ctxOf t c.ctx).records, (c.rd 0 w.a).toNat ≤ r.pos) := by
  obtain ⟨htb, hrecs⟩ := truncate_journal (s := c.s) (c := c.ctx)
    (ctx_isSome (fun x => x.jack) (by simp only [Context.fresh]; omega)) (c.rd 0 w.a).toNat
  refine completes_of_body h _ rfl rfl ?_ ⟨rfl, ?_, ?_⟩
  · simp only [need, Nat.not_le.2 hlo, hhi, decide_true, if_true, if_false]
    rfl
  · rw [ctxOf, retire_ctxs, enterPosted_ctxs, ← ctxOf, htb]
  · rw [ctxOf, retire_ctxs, enterPosted_ctxs, ← ctxOf, hrecs]
    exact fun r hr => by simpa using (List.mem_filter.1 hr).2

theorem jtrunc_raises (hlo : (ctxOf c.s c.ctx).tb < (c.rd 0 w.a).toNat) (hhi : (ctxOf c.s c.ctx).jack < (c.rd 0 w.a).toNat) :
    exec (.jtrunc w) s = .next (takeTrap c.s c.core c.grp (ejournal c.s c.ctx 5 (c.rd 0 w.a)) c.pc c.pc false false c.act) := by
  refine (issue_ok h _).trans ?_
  simp only [need, Nat.not_le.2 hlo, Nat.not_le.2 hhi, decide_false, Bool.false_eq_true, if_false]
  rfl

end

/-- The package that a named peer seeds, once the entry is in the table (R375). -/
def jseedPeer (w : LongWord) (c : Ic) : Nat := (if w.lit.isSome then litNat w else (c.rd 0 w.a).toNat) % 16

theorem jseed_completes (w : LongWord) (s : State) (c : Ic)
    (h : offer s w { sub := w.sub6 == 0#6, m6 := layoutZ w, d := .dst 1, a := .src 1, litA := true, port := .uniform }
      { entry := true, dests := [destOf w.d], flag := recJrnl } = .ok c) :
    let why := seedWhy c.s c.ctx (jseedPeer w c)
    (why ≠ 0 → Completes (.jseed w) s (LongDone c [destOf w.d] Ord.relaxed .values [(0, word (2 ^ 56 * why + 2 ^ 63))]))
    ∧ (why = 0 → Completes (.jseed w) s (fun t => t =
        startSeed (c.enters (c.entry true Ord.relaxed .jseed []) (c.slots [destOf w.d])) c.ctx (jseedPeer w c)
          (some (c.core, c.s.stamp, word (((ctxOf c.s c.ctx).jpos - (ctxOf c.s c.ctx).tb) % 2 ^ 48))))) := by
  refine ⟨fun hw => ?_, fun hw => ?_⟩
  · refine long_completes h _ rfl rfl _ _ _ _ ?_
    have hne : (seedWhy c.s c.ctx (jseedPeer w c) != 0) = true := by simpa using hw
    exact if_pos hne
  · have hne : ¬ (seedWhy c.s c.ctx (jseedPeer w c) != 0) = true := by simpa using hw
    refine completes_then (post := fun u => startSeed u c.ctx (jseedPeer w c)
      (some (c.core, c.s.stamp, word (((ctxOf c.s c.ctx).jpos - (ctxOf c.s c.ctx).tb) % 2 ^ 48)))) h _ rfl rfl (if_neg hne) ?_
    rw [(enterLong_done (offer_ok h) _ _ _ _).1]

theorem sync_completes {i : Instr} {w : LongWord} {sub : Bool} {first : Ic → Nat} {s : State} {c : Ic}
    (h : offer s w { form := w.lit.isNone, sub := sub, m6 := layoutZ w, port := .uniform }
      { blocking := true, tx := some 2, flag := recJrnl } = .ok c) (he : exec i s = journalSync w sub first s) :
    let j := ctxOf c.s c.ctx
    let p := syncPos c (first c)
    ((j.gate = .seeding ∨ j.gate = .normal) → p ≤ j.cack → Completes i s (fun t =>
        t = c.with (retireGroup c.pc c.next c.act [] false c.g) ∧ SameMemory s t))
    ∧ ((∃ n, c.g.stall = some (.journal 0, n)) → Completes i s (fun t =>
        t = c.with (retireGroup c.pc c.next c.act [] false c.g) ∧ SameMemory s t))
    ∧ ((∀ n, c.g.stall ≠ some (.journal 0, n)) → j.gate = .noPart →
        exec i s = .next (takeTrap c.s c.core c.grp (ejournal c.s c.ctx 1 (word p)) c.pc c.pc false false c.act))
    ∧ ((∀ n, c.g.stall ≠ some (.journal 0, n)) → j.gate = .lost →
        exec i s = .next (takeTrap c.s c.core c.grp (ejournal c.s c.ctx 2 (word p)) c.pc c.pc false false c.act)) := by
  refine ⟨fun hg hp => sync_goesOn h he (.inr ⟨?_, hp⟩), fun hn => sync_goesOn h he (.inl ?_),
    fun hn hg => sync_raises h he hn (by simp [gateReason, hg]), fun hn hg => sync_raises h he hn (by simp [gateReason, hg])⟩
  · rcases hg with hg | hg <;> simp [gateReason, hg]
  · obtain ⟨n, hn⟩ := hn
    simp [hn]

theorem journalInstructions : Claims.JournalInstructions :=
  ⟨japp_completes, emit_completes, fun _ _ _ h => sync_completes (first := fun c => c.g.gjp.toNat) h rfl,
    fun _ _ _ h => sync_completes (first := fun c => (ctxOf c.s c.ctx).jpos) h rfl, fun _ _ _ h => ⟨jtrunc_done h, jtrunc_truncates h, jtrunc_raises h⟩, jseed_completes⟩

/-! ### SOPEN, SCLOSE (R275, R287) -/

@[simp] theorem enters_mem (c : Ic) (e : OttEntry) (g : Group) : (c.enters e g).mem = c.s.mem := rfl

/-- An entry made in a package that the instruction has changed apart from the teams. -/
theorem enterLong_over {s u : State} {w : LongWord} {sh : Shape} {k : Issue} {c : Ic} (o : Offered s w sh k c) (hi : u.iss = s.iss)
    (ht : u.teams = c.s.teams) (hn : u.stamp = c.s.stamp) (ds : List Dest) (r : Ord) (work : Work) (got : List (Nat × Word)) :
    retire (enterLong { c with s := u } ds r work got).st c.core c.grp c.pc c.next c.act [] w.s
      = ({ c with s := u } : Ic).enters (c.entry true r work got) (c.slots ds) := by
  refine (enterLong_done (o.within o.group hi (by rw [ht]; exact o.team)) ds r work got).1.trans ?_
  simp only [Ic.entry, Ic.slots, Ic.tids, hn]

theorem enterPosted_over {s u : State} {w : LongWord} {sh : Shape} {k : Issue} {c : Ic} (o : Offered s w sh k c) (hi : u.iss = s.iss)
    (ht : u.teams = c.s.teams) (hn : u.stamp = c.s.stamp) (r : Ord) (work : Work) :
    retire (enterPosted { c with s := u } r work).st c.core c.grp c.pc c.next c.act [] w.s
      = ({ c with s := u } : Ic).enters (c.entry false r work []) c.g := by
  refine (enterPosted_done (o.within o.group hi (by rw [ht]; exact o.team)) r work).1.trans ?_
  simp only [Ic.entry, Ic.tids, hn]

/-- The result of SOPEN (Table 15.5). -/
def sopenResult (c : Ic) (why : Nat) : List (Nat × Word) :=
  [(0, word ((streamOf (ctxOf c.s c.ctx) (streamArg c)).next.toNat + 2 ^ 32 * streamArg c + 2 ^ 56 * why + (if why = 0 then 0 else 2 ^ 63)))]

/-- Why SOPEN does not open its stream; 0 where it does (Table 15.5). -/
def sopenWhy (c : Ic) : Nat :=
  let x := streamOf (ctxOf c.s c.ctx) (streamArg c)
  if streamArg c = 0 then 3 else if x.st == 1 then 1 else if x.st == 2 then 2 else 0

/-- What SOPEN does (Table 15.5). -/
def sopenBody (w : LongWord) (c : Ic) : Except Stop Eff :=
  let s := if sopenWhy c = 0 then modStream c.s c.ctx (streamArg c) (fun x => { x with st := 1, lwm := x.next, told := x.next }) else c.s
  .ok (enterLong { c with s := s } [destOf w.d] Ord.relaxed .values (sopenResult c (sopenWhy c)))

theorem exec_sopen (w : LongWord) (s : State) :
    exec (.sopen w) s = issue s w (shapeStream w (.dst 1)) { entry := true, dests := [destOf w.d] } (sopenBody w) := rfl

section

variable {w : LongWord} {s : State} {c : Ic} (h : offer s w (shapeStream w (.dst 1)) { entry := true, dests := [destOf w.d] } = .ok c)

include h

theorem sopen_refused {why : Nat} (hw : sopenWhy c = why) (hne : why ≠ 0) :
    Completes (.sopen w) s (LongDone c [destOf w.d] Ord.relaxed .values (sopenResult c why)) :=
  long_completes h _ (exec_sopen w s) rfl _ _ _ _ (by rw [sopenBody, hw, if_neg hne])

theorem sopen_opens (hw : sopenWhy c = 0) :
    Completes (.sopen w) s (fun t => SameMemory s t ∧ t =
      ({ c with s := modStream c.s c.ctx (streamArg c) (fun x => { x with st := 1, lwm := x.next, told := x.next }) } : Ic).enters
        (c.entry true Ord.relaxed .values (sopenResult c 0)) (c.slots [destOf w.d])) := by
  have o := offer_ok h
  have hs : c.s = s := o.plain rfl
  have hend := enterLong_over o (u := modStream c.s c.ctx (streamArg c) (fun x => { x with st := 1, lwm := x.next, told := x.next }))
    (by simp [hs]) (by simp) (by simp) [destOf w.d] Ord.relaxed .values (sopenResult c 0)
  refine completes_of_body h _ (exec_sopen w s) rfl (by rw [sopenBody, hw, if_pos rfl]; rfl) ⟨fun a => ?_, hend⟩
  exact (congrArg (fun t => memByte t.mem a) hend).trans (by rw [enters_mem, modStream_mem, hs])

end

/-- What SCLOSE does (R287). -/
def scloseBody (c : Ic) : Except Stop Eff :=
  if streamArg c = 0 || (streamOf (ctxOf c.s c.ctx) (streamArg c)).st != 1 then .ok (enterPosted c Ord.relaxed .done)
  else .ok (enterPosted { c with s := modStream c.s c.ctx (streamArg c) (fun x => { x with st := 2 }) } Ord.relaxed (.sclose (streamArg c)))

theorem exec_sclose (w : LongWord) (s : State) :
    exec (.sclose w) s = issue s w (shapeStream w .unused) { entry := true } scloseBody := rfl

section

variable {w : LongWord} {s : State} {c : Ic} (h : offer s w (shapeStream w .unused) { entry := true } = .ok c)

include h

theorem sclose_done (hn : streamArg c = 0 ∨ (streamOf (ctxOf c.s c.ctx) (streamArg c)).st ≠ 1) :
    Completes (.sclose w) s (PostedDone c Ord.relaxed .done) :=
  posted_completes h _ (exec_sclose w s) rfl _ _ (if_pos (by simpa using hn))

theorem sclose_closes (hn : streamArg c ≠ 0) (hst : (streamOf (ctxOf c.s c.ctx) (streamArg c)).st = 1) :
    Completes (.sclose w) s (fun t => SameMemory s t ∧ t =
      ({ c with s := modStream c.s c.ctx (streamArg c) (fun x => { x with st := 2 }) } : Ic).enters
        (c.entry false Ord.relaxed (.sclose (streamArg c)) []) c.g) := by
  have o := offer_ok h
  have hs : c.s = s := o.plain rfl
  have hend := enterPosted_over o (u := modStream c.s c.ctx (streamArg c) (fun x => { x with st := 2 }))
    (by simp [hs]) (by simp) (by simp) Ord.relaxed (.sclose (streamArg c))
  refine completes_of_body h _ (exec_sclose w s) rfl (if_neg (by simp [hn, hst])) ⟨fun a => ?_, hend⟩
  exact (congrArg (fun t => memByte t.mem a) hend).trans (by rw [enters_mem, modStream_mem, hs])

end

theorem sopenWhy_zero {c : Ic} (hn : streamArg c = 0) : sopenWhy c = 3 := if_pos hn

theorem streams : Claims.Streams := by
  refine ⟨fun w s c h => ⟨fun hn => ?_, fun hn hst => ?_, fun hn hst => ?_, fun hn h1 h2 => ?_⟩,
    fun w s c h => ⟨sclose_done h, sclose_closes h⟩⟩
  · exact sopen_refused h (sopenWhy_zero hn) (by decide)
  · exact sopen_refused h (by simp [sopenWhy, hn, hst]) (by decide)
  · exact sopen_refused h (by simp [sopenWhy, hn, hst]) (by decide)
  · exact sopen_opens h (by simp [sopenWhy, hn, h1, h2])

/-- Settles O34: each instruction from its offer, by what its body does. -/
theorem journalAndStreams : Obligations.JournalAndStreams := ⟨journalInstructions, streams⟩

end Sys2Proof.Machine

end

section
/-! The journal's events, and the closing of a stream (R275, R287, R365, R367, R368, R374, R377). -/

namespace Sys2Proof.Machine

/-! ### The partner's store (R367, R374) -/

section

variable {s : State} {pkg ctx pos base req : Nat} {data : List Byte}
  (hm : s.msg = some (.journalRecord pkg ctx pos base data req s.inc)) {b : Nat} (hb : storeBase s pkg ctx = some b)

include hm hb

theorem record_kept (hpos : b ≤ pos) (hnew : ∀ r ∈ storeOf s pkg ctx, r.1 ≠ pos) (hroom : (storeOf s pkg ctx).length < 2 ^ 20)
    (hall : s.partnerJ.length < 2 ^ 22) :
    Quietly .journalRecordAtPartner s (ackStore { s with partnerJ := s.partnerJ ++ [(pkg, ctx, pos, data)] } pkg ctx) := by
  have hno : ¬ ((decide (pos < b) || (storeOf s pkg ctx).any (fun r => r.1 == pos)) = true) := by
    rw [Bool.or_eq_true, decide_eq_true_eq, List.any_eq_true, not_or]
    exact ⟨Nat.not_lt.2 hpos, fun ⟨r, hr, he⟩ => hnew r hr (beq_iff_eq.1 he)⟩
  have hfull : ¬ ((decide ((storeOf s pkg ctx).length ≥ 2 ^ 20) || decide (s.partnerJ.length ≥ 2 ^ 22)) = true) := by
    simp only [Bool.or_eq_true, decide_eq_true_eq]
    omega
  have he : exec .journalRecordAtPartner s = execJournalRecordAtPartner s := rfl
  refine ⟨?_, fun a => by rw [ackStore_mem]⟩
  rw [he, execJournalRecordAtPartner]
  simp only [hm, hb, bne_self_eq_false, Bool.false_eq_true, if_false, Option.isNone_some, Option.getD_some, if_neg hno, if_neg hfull]

theorem record_known (hk : pos < b ∨ ∃ r ∈ storeOf s pkg ctx, r.1 = pos) :
    Quietly .journalRecordAtPartner s (ackStore s pkg ctx) := by
  have hyes : (decide (pos < b) || (storeOf s pkg ctx).any (fun r => r.1 == pos)) = true := by simpa [List.any_eq_true] using hk
  have he : exec .journalRecordAtPartner s = execJournalRecordAtPartner s := rfl
  refine ⟨?_, fun a => by rw [ackStore_mem]⟩
  rw [he, execJournalRecordAtPartner]
  simp only [hm, hb, bne_self_eq_false, Bool.false_eq_true, if_false, Option.isNone_some, Option.getD_some, if_pos hyes]

end

/-- A record of another incarnation is answered GONE (R367). -/
theorem record_stale {s : State} {pkg ctx pos base req inc : Nat} {data : List Byte}
    (hm : s.msg = some (.journalRecord pkg ctx pos base data req inc)) (hinc : inc ≠ s.inc) :
    Quietly .journalRecordAtPartner s (sendTo s pkg (.remoteAnswer req 2 [] s.inc)) := by
  have he : exec .journalRecordAtPartner s = execJournalRecordAtPartner s := rfl
  refine ⟨?_, fun a => by rw [sendTo_mem]⟩
  rw [he, execJournalRecordAtPartner]
  simp [hm, hinc, answer]

theorem storeOf_sendTo (s : State) (dst : Nat) (m : Message) (pkg ctx : Nat) : storeOf (sendTo s dst m) pkg ctx = storeOf s pkg ctx := by
  obtain ⟨out, hout⟩ := sendTo_only s dst m
  rw [hout]
  rfl

theorem mem_storeOf_setBase {s : State} {pkg ctx base : Nat} {r : Nat × List Byte} (hr : r ∈ storeOf (setBase s pkg ctx base) pkg ctx) :
    base ≤ r.1 := by
  obtain ⟨x, hx, rfl⟩ := List.mem_map.1 hr
  obtain ⟨hx, hkey⟩ := List.mem_filter.1 hx
  have hlow := (List.mem_filter.1 hx).2
  simp only [Bool.not_eq_true', hkey, Bool.true_and, decide_eq_false_iff_not, not_lt] at hlow
  exact hlow

theorem storeOf_setBase_ne {s : State} {pkg ctx base p c : Nat} (h : (p, c) ≠ (pkg, ctx)) :
    storeOf (setBase s pkg ctx base) p c = storeOf s p c := by
  refine congrArg (List.map _) ((List.filter_filter ..).trans (List.filter_congr fun x _ => ?_))
  by_cases hx : x.1 = p ∧ x.2.1 = c
  · have hne : ¬ (x.1 = pkg ∧ x.2.1 = ctx) := fun hy => h (by rw [← hx.1, ← hx.2, hy.1, hy.2])
    have hno : (x.1 == pkg && x.2.1 == ctx) = false := by simpa using hne
    simp [hno]
  · have hno : (x.1 == p && x.2.1 == c) = false := by simpa using hx
    simp [hno]

/-- A truncation drops what is below its base from its store, and nothing from another (R374). -/
theorem truncation_drops {s : State} {pkg ctx base req : Nat} (hm : s.msg = some (.journalTruncation pkg ctx base req)) :
    ∃ t, Quietly .journalTruncationAtPartner s t
      ∧ (∀ r ∈ storeOf t pkg ctx, base ≤ r.1 ∨ ∃ b, storeBase s pkg ctx = some b ∧ base ≤ b)
      ∧ (∀ p c, (p, c) ≠ (pkg, ctx) → storeOf t p c = storeOf s p c) := by
  have he : exec .journalTruncationAtPartner s = execJournalTruncationAtPartner s := rfl
  rw [execJournalTruncationAtPartner, hm] at he
  refine ⟨_, ⟨he, fun a => ?_⟩, fun r hr => ?_, fun p c hpc => ?_⟩
  · rw [answer, sendTo_mem]
    split <;> rfl
  · rw [answer, storeOf_sendTo] at hr
    split at hr
    · exact .inl (mem_storeOf_setBase hr)
    · rename_i hall
      cases hb : storeBase s pkg ctx with
      | none => simp [hb] at hall
      | some b => exact .inr ⟨b, rfl, by simpa [hb] using hall⟩
  · rw [answer, storeOf_sendTo]
    split
    · exact storeOf_setBase_ne hpc
    · rfl

/-! ### The partner's acknowledgement (R365, R368) -/

/-- A context whose journal is acknowledged up to a position. -/
def Context.acked (upTo : Nat) (c : Context) : Context :=
  { c with cack := if c.cack < upTo then upTo else c.cack, jack := if c.jack < upTo then upTo else c.jack }

/-- The records below a position are not sent again. -/
def dropAcked (s : State) (ctx upTo : Nat) : State :=
  { s with reqs := s.reqs.filter (fun r => !(r.kind == .record && r.ctx == ctx && r.pa < upTo)) }

theorem execJournalAck_next {s : State} {pkg ctx upTo : Nat} (hm : s.msg = some (.journalAck pkg ctx upTo))
    (hp : partnerOf (ctxOf s ctx) = some pkg) (hg : gateLive (ctxOf s ctx) = true) (hle : upTo ≤ (ctxOf s ctx).jpos) :
    exec .journalAck s = .next (settleGate (modCtx (dropAcked s ctx upTo) ctx (Context.acked upTo)) ctx) := by
  have he : exec .journalAck s = execJournalAck s := rfl
  rw [he, execJournalAck]
  split
  · rename_i heq
    obtain ⟨rfl, rfl, rfl⟩ : pkg = _ ∧ ctx = _ ∧ upTo = _ := by simpa [hm] using heq
    have hlive : ¬ ((!(gateLive (ctxOf s ctx) && partnerOf (ctxOf s ctx) == some pkg)) = true) := by simp [hp, hg]
    rw [if_neg hlive, if_neg (Nat.not_lt.2 hle)]
    rfl
  · rename_i hno
    exact absurd hm (hno _ _ _)

theorem ite_lt_eq_max (a b : Nat) : (if a < b then b else a) = max a b := by
  rw [Nat.max_def]
  split <;> split <;> omega

theorem ack_raises {s : State} {pkg ctx upTo : Nat} (hm : s.msg = some (.journalAck pkg ctx upTo))
    (hp : partnerOf (ctxOf s ctx) = some pkg) (hg : gateLive (ctxOf s ctx) = true) (hle : upTo ≤ (ctxOf s ctx).jpos)
    (hc : (tget s.ctxs ctx).isSome = true) :
    ∃ t, exec .journalAck s = .next t ∧ (ctxOf t ctx).cack = max (ctxOf s ctx).cack upTo
      ∧ (ctxOf t ctx).jack = max (ctxOf s ctx).jack upTo ∧ (ctxOf t ctx).jpos = (ctxOf s ctx).jpos := by
  have hj : journalOf (settleGate (modCtx (dropAcked s ctx upTo) ctx (Context.acked upTo)) ctx) ctx
      = ((ctxOf s ctx).acked upTo).journal := by
    rw [journalOf_settleGate, journalOf, ctxOf_modCtx (by exact hc)]
    rfl
  exact ⟨_, execJournalAck_next hm hp hg hle, (congrArg (fun x => x.2.2.1) hj).trans (ite_lt_eq_max ..),
    (congrArg (fun x => x.2.1) hj).trans (ite_lt_eq_max ..), congrArg (fun x => x.1) hj⟩

theorem ack_ignored {s : State} {pkg ctx upTo : Nat} (hm : s.msg = some (.journalAck pkg ctx upTo))
    (h : partnerOf (ctxOf s ctx) ≠ some pkg ∨ gateLive (ctxOf s ctx) = false) : Quietly .journalAck s s := by
  have he : exec .journalAck s = execJournalAck s := rfl
  refine ⟨?_, fun _ => rfl⟩
  rw [he, execJournalAck, hm]
  rcases h with h | h <;> simp [h]

/-! ### Replay (R377) -/

/-- A store of a package: its number, the store's base and its records. -/
abbrev Store := Nat × Nat × List (Nat × List Byte)

/-- The better of two stores: that which reaches further, and of two that reach the same position the partner's. -/
def betterStore (partner : Option Nat) (best : Option Store) (x : Store) : Option Store :=
  match best with
  | none => some x
  | some y => if storeReach y < storeReach x || (storeReach y == storeReach x && partner == some x.1) then some x else some y

/-- The store `y` is at least as good as `x`. -/
def Covers (partner : Option Nat) (y x : Store) : Prop :=
  storeReach x ≤ storeReach y ∧ (storeReach x = storeReach y → partner = some x.1 → partner = some y.1)

theorem Covers.trans {partner : Option Nat} {x y z : Store} (h : Covers partner y x) (h' : Covers partner z y) : Covers partner z x :=
  ⟨h.1.trans h'.1, fun he hp =>
    have hxy : storeReach x = storeReach y := by have := h.1; have := h'.1; omega
    h'.2 (hxy.symm.trans he) (h.2 hxy hp)⟩

/-- The better of two is one of them, and covers both. -/
theorem betterStore_some (partner : Option Nat) (y x : Store) :
    ∃ z, betterStore partner (some y) x = some z ∧ (z = y ∨ z = x) ∧ Covers partner z y ∧ Covers partner z x := by
  by_cases h : storeReach y < storeReach x ∨ storeReach y = storeReach x ∧ partner = some x.1
  · refine ⟨x, if_pos (by simpa using h), .inr rfl, ⟨by omega, fun he _ => ?_⟩, le_rfl, fun _ hp => hp⟩
    rcases h with h | h
    · omega
    · exact h.2
  · refine ⟨y, if_neg (by simpa using h), .inl rfl, ⟨le_rfl, fun _ hp => hp⟩, by omega, fun he hp => ?_⟩
    exact absurd (.inr ⟨he.symm, hp⟩) h

/-- The best of a list of stores is one of them, and covers each. -/
theorem foldl_betterStore {partner : Option Nat} (l : List Store) {y z : Store} (h : l.foldl (betterStore partner) (some y) = some z) :
    (z = y ∨ z ∈ l) ∧ Covers partner z y ∧ ∀ x ∈ l, Covers partner z x := by
  induction l generalizing y with
  | nil =>
    obtain rfl := Option.some.inj h
    exact ⟨.inl rfl, ⟨le_rfl, fun _ hp => hp⟩, fun x hx => by cases hx⟩
  | cons x l ih =>
    obtain ⟨u, hu, hin, hy, hx⟩ := betterStore_some partner y x
    rw [List.foldl_cons, hu] at h
    obtain ⟨hz, hzu, hl⟩ := ih h
    refine ⟨?_, hy.trans hzu, fun w hw => ?_⟩
    · rcases hz with rfl | hz
      · exact hin.imp_right fun e => List.mem_cons.2 (.inl e)
      · exact .inr (List.mem_cons_of_mem _ hz)
    · rcases List.mem_cons.1 hw with rfl | hw
      · exact hx.trans hzu
      · exact hl w hw

theorem foldl_betterStore_none {partner : Option Nat} {l : List Store} {z : Store} (h : l.foldl (betterStore partner) none = some z) :
    z ∈ l ∧ ∀ x ∈ l, Covers partner z x := by
  cases l with
  | nil => cases h
  | cons y l =>
    obtain ⟨hz, hy, hl⟩ := foldl_betterStore l h
    refine ⟨by simpa using hz, fun x hx => ?_⟩
    rcases List.mem_cons.1 hx with rfl | hx
    · exact hy
    · exact hl x hx

/-- The package's own store of a key. -/
def ownStores (s : State) (origin ctx : Nat) : List Store :=
  match storeBase s origin ctx with
  | some b => [(s.pkgid, b, storeOf s origin ctx)]
  | none => []

theorem mem_ownStores {s : State} {origin ctx : Nat} {x : Store} (h : x ∈ ownStores s origin ctx) : x.1 = s.pkgid := by
  unfold ownStores at h
  split at h
  · rw [List.mem_singleton.1 h]
  · cases h

/-- The store that a replay uses is this package's own or that of a live one, and covers every live one's (R377). -/
theorem replayStore_best {s : State} {origin ctx : Nat} {stores : List Store} {partner : Option Nat} {z : Store}
    (h : replayStore s origin ctx stores partner = some z) :
    (z.1 ≠ s.pkgid → nbit s.live z.1 = true ∧ s.peerdead.getLsbD z.1 = false)
    ∧ ∀ x ∈ stores, x.1 ≠ s.pkgid → nbit s.live x.1 = true → s.peerdead.getLsbD x.1 = false → Covers partner z x := by
  have hf : (ownStores s origin ctx ++ stores.filter (fun x => x.1 != s.pkgid && nbit s.live x.1 && !s.peerdead.getLsbD x.1)).foldl
      (betterStore partner) none = some z := h
  obtain ⟨hz, hall⟩ := foldl_betterStore_none hf
  refine ⟨fun hne => ?_, fun x hx hne hl hd => hall x (List.mem_append_right _ (List.mem_filter.2 ⟨hx, by simp [hne, hl, hd]⟩))⟩
  rcases List.mem_append.1 hz with hz | hz
  · exact absurd (mem_ownStores hz) hne
  · have hlive := (List.mem_filter.1 hz).2
    simp only [Bool.and_eq_true, Bool.not_eq_true', bne_iff_ne, ne_eq] at hlive
    exact ⟨hlive.1.2, hlive.2⟩

theorem replay_places {s : State} {origin ctx into va pa k base : Nat} {stores : List Store} {partner : Option Nat}
    {entries : List Host.Cell} {recs : List (Nat × List Byte)}
    (hm : s.msg = some (.replayFetch origin ctx stores partner into va pa entries))
    (hs : replayStore s origin ctx stores (if origin = s.pkgid then partnerOf (ctxOf s ctx) else partner) = some (k, base, recs))
    (hp : populated pa (replayImage origin ctx base recs).length = true)
    (hr : mappedReadOnly { s with mem := memPatch s.mem entries } into va pa (replayImage origin ctx base recs).length = true) :
    exec .replayJournalFetch s = .next (homeWrite { s with mem := memPatch s.mem entries } pa (replayImage origin ctx base recs)) := by
  have he : exec .replayJournalFetch s = execReplayJournalFetch s := rfl
  rw [he, execReplayJournalFetch]
  split
  · rename_i heq
    obtain ⟨rfl, rfl, rfl, rfl, rfl, rfl, rfl, rfl⟩ : origin = _ ∧ ctx = _ ∧ stores = _ ∧ partner = _ ∧ into = _ ∧ va = _ ∧ pa = _
        ∧ entries = _ := by simpa [hm] using heq
    simp only [hs]
    exact if_pos (by rw [hp, hr, Bool.and_self])
  · rename_i hno
    exact absurd hm (hno _ _ _ _ _ _ _ _)

/-! ### The closing of a stream (R275, R287) -/

/-- The request that tells an owner that a stream closes. -/
def closingReq (s : State) (ctx n o : Nat) : Req := { Req.base s.stamp .closing o ctx 0 0 0 0 0 0 0 0 (incOf s ctx o) with stream := n }

/-- An owner is told that a stream closes. -/
def tellClosing (ctx n : Nat) (s : State) (o : Nat) : State := newReq s (closingReq s ctx n o)

/-- The requests of a state say to an owner that a stream closes. -/
def ClosingTold (ctx n o : Nat) (t : State) : Prop := ∃ r ∈ t.reqs, r.kind = .closing ∧ r.owner = o ∧ r.ctx = ctx ∧ r.stream = n

theorem newReq_keeps (s : State) (r : Req) {x : Req} (hx : x ∈ s.reqs) : x ∈ (newReq s r).reqs := by
  unfold newReq
  split
  · exact List.mem_append_left _ hx
  · rw [sendReq_reqs]
    exact List.mem_append_left _ hx

theorem tellClosing_told (ctx n : Nat) (s : State) (o : Nat) : ClosingTold ctx n o (tellClosing ctx n s o) := by
  obtain ⟨k, hk⟩ := request_enters s (closingReq s ctx n o) false
  exact ⟨_, hk, rfl, rfl, rfl, rfl⟩

theorem tellClosing_keeps {ctx n o : Nat} {s : State} (h : ClosingTold ctx n o s) (o' : Nat) : ClosingTold ctx n o (tellClosing ctx n s o') := by
  obtain ⟨r, hr, hd⟩ := h
  exact ⟨r, newReq_keeps _ _ hr, hd⟩

theorem foldl_tellClosing_keeps {ctx n o : Nat} (ls : List Nat) {s : State} (h : ClosingTold ctx n o s) :
    ClosingTold ctx n o (ls.foldl (tellClosing ctx n) s) := by
  induction ls generalizing s with
  | nil => exact h
  | cons p ls ih => exact ih (tellClosing_keeps h p)

theorem foldl_tellClosing {ctx n o : Nat} (ls : List Nat) {s : State} (h : o ∈ ls) : ClosingTold ctx n o (ls.foldl (tellClosing ctx n) s) := by
  induction ls generalizing s with
  | nil => cases h
  | cons p ls ih =>
    rcases List.mem_cons.1 h with rfl | h
    · exact foldl_tellClosing_keeps ls (tellClosing_told ..)
    · exact ih h

section

variable {s : State} (hst : (streamOf (ctxOf s s.iss.core) s.iss.id).st = 2) (hout : (streamOf (ctxOf s s.iss.core) s.iss.id).out = 0)
  (hun : (streamOf (ctxOf s s.iss.core) s.iss.id).unacked = [])

include hst hout hun

theorem streamCloseDrain_tells (how : (streamOf (ctxOf s s.iss.core) s.iss.id).owners ≠ []) :
    ∃ t, Quietly .streamCloseDrain s t ∧ ∀ o ∈ (streamOf (ctxOf s s.iss.core) s.iss.id).owners, s.peerdead.getLsbD o = false →
      ClosingTold s.iss.core s.iss.id o t := by
  have he : exec .streamCloseDrain s = execStreamCloseDrain s := rfl
  rw [execStreamCloseDrain, if_neg (by simp [hst, hout, hun, how])] at he
  refine ⟨_, ⟨he, fun a => ?_⟩, fun o ho hd => foldl_tellClosing _ (List.mem_filter.2 ⟨ho, by simp [hd]⟩)⟩
  refine (congrArg (memByte · a) (foldl_keeps State.mem (tellClosing s.iss.core s.iss.id) (fun s o => newReq_mem ..) _ _)).trans ?_
  rw [modStream_mem]

theorem streamClosed_closes (how : (streamOf (ctxOf s s.iss.core) s.iss.id).owners = []) :
    Quietly .streamClosed s (streamClosed s s.iss.core s.iss.id) := by
  have he : exec .streamClosed s = execStreamClosed s := rfl
  rw [execStreamClosed] at he
  exact ⟨he.trans (if_pos (by simp [hst, hout, hun, how])), fun a => by simp [streamClosed]⟩

end

/-- Settles O47: the partner's store keeps a record once and drops it at a truncation, an acknowledgement raises CACK and
JACKPOS, the best store is replayed, and a stream whose operations are answered closes. -/
theorem journalEvents : Obligations.JournalEvents :=
  ⟨fun _ _ _ _ _ _ _ hm =>
      ⟨fun _ hb hpos hnew hroom hall => record_kept hm hb hpos hnew hroom hall, fun _ hb hk => record_known hm hb hk⟩,
    fun _ _ _ _ _ _ _ _ hm hinc => record_stale hm hinc,
    fun _ _ _ _ hm hp hg hle _ hc => ack_raises hm hp hg hle hc,
    fun _ _ _ _ hm h => ack_ignored hm h,
    fun _ _ _ _ _ hm => truncation_drops hm,
    fun _ _ _ _ _ _ _ _ _ _ _ _ hm hs hp hr => ⟨replay_places hm hs hp hr, replayStore_best hs⟩,
    fun _ hst hout => ⟨fun how hun => streamCloseDrain_tells hst hout hun how, fun how hun => streamClosed_closes hst hout hun how⟩⟩

end Sys2Proof.Machine

end

section
/-! A TCOMMIT of a DOOMED lane whose TXW holds an outcome of 1: the entry waits for the lines of that lane's write set, though no
lane has performed its set (R299, R309). -/

namespace Sys2Proof.Machine

/-- One lane, DOOMED with outcome 1 in its TXW, with a byte in its write set, whose line has an invalidation pending. -/
def doomedCommitState : State :=
  { modGroup (demoA 8) 0 0 (fun g => { g with
      threads := g.threads.mapIdx (fun l t => if l = 0 then { t with txs := .doomed, txw := txStatus 1 0 0 0 } else { t with live := false }),
      txw := [⟨0, 0, 0x40000, 0x40000, 0, 0, [0xAB]⟩] }) with pendInv := [(0, 0x40000 / 128)] }

/-- The TCOMMIT. -/
def commitWord : LongWord := wd 0 0 1 0 0 0

/-- Whether a TCOMMIT that may commit finds no lane OPEN, and nothing in the table before it. -/
def commitsNone (c : Ic) : Bool :=
  !recDet c.r && c.t.det.isEmpty && commitReady c && c.g.txw.all (fun x => decide (x.pa + x.bytes.length ≤ hbmTop))
    && c.en.all (fun l => (c.g.lane l).txs != .opened) && c.core == 0

/-- Whether the entries of the team's table are all waits for line 0x40000 / 128. -/
def waitsForLine (t : State) : Bool := (tget t.teams 0).all (fun t => t.ott.all (fun e => e.work == .inval [0x40000 / 128]))

theorem doomedCommit_waits :
    passes (.tcommit commitWord) doomedCommitState commitWord { shapeW commitWord with d := .dst 1, port := .vector }
      { entry := true, dests := [destOf commitWord.d] } (fun c t => commitsNone c && waitsForLine t) = true := by decide +kernel

theorem of_passes {i : Instr} {s : State} {w : LongWord} {sh : Shape} {k : Issue} {p : Ic → State → Bool} (h : passes i s w sh k p = true) :
    ∃ c t, offer s w sh k = .ok c ∧ exec i s = .next t ∧ p c t = true := by
  unfold passes at h
  split at h
  · exact ⟨_, _, ‹_›, ‹_›, h⟩
  · cases h

/-- The commit's entry waits for a line, and no lane has the outcome 1. -/
theorem not_commit : ¬ Claims.Commit := by
  intro h
  obtain ⟨c, t, hc, ht, hp⟩ := of_passes doomedCommit_waits
  simp only [commitsNone, Bool.and_eq_true, Bool.not_eq_true', List.isEmpty_iff, List.all_eq_true, decide_eq_true_eq, bne_iff_ne, ne_eq,
    beq_iff_eq, and_assoc] at hp
  obtain ⟨hdet, hempty, hready, hpop, hnone, hcore, hwaits⟩ := hp
  obtain ⟨u, hu, tm, g, e, res, htm, -, -, -, -, -, hott, -, -, -, hlines⟩ := h _ _ _ hc (.inl hdet) hempty hready hpop [] (List.nil_sublist _)
    (fun l => ⟨fun hl => (List.not_mem_nil hl).elim, fun ho => absurd ho.1.2 (hnone l ho.1.1)⟩)
  obtain rfl : t = u := by
    rw [ht] at hu
    exact Host.Outcome.next.inj hu
  rw [hcore] at htm
  have hwork : e.work = .inval [0x40000 / 128] := by
    simp only [waitsForLine, htm, Option.all_some, hott, List.all_append, Bool.and_eq_true, List.all_cons, beq_iff_eq] at hwaits
    exact hwaits.2.1
  obtain ⟨lines, hl, hout⟩ := hlines (by rw [hwork]; exact Work.noConfusion)
  rw [hwork] at hl
  obtain rfl := Work.inval.inj hl
  obtain ⟨-, l, x, hran, -⟩ := hout _ List.mem_cons_self
  exact List.not_mem_nil hran

/-- Refutes O29: a DOOMED lane's TXW that holds an outcome of 1 makes its TCOMMIT wait for the lines of the lane's write set, though no
lane has performed its set. -/
theorem not_transactionControl : ¬ Obligations.TransactionControl := fun h => not_commit h.2

end Sys2Proof.Machine

end

section
/-! The words of a collective's program: what a word comes to, the control words, and how a program ends (R299, R328 to R337). -/

namespace Sys2Proof.Machine

/-! ### What a word comes to (R328, R332) -/

theorem modSlot_of {s : State} {n : Nat} {x : CSlot} (h : tget s.cslots n = some x) (f : CSlot → CSlot) :
    modSlot s n f = { s with cslots := tset s.cslots n (f x) } := by rw [modSlot, h]

/-- What a running slot's word comes to. -/
def CarEff.outcome (s : State) (x : CSlot) : CarEff → Host.Outcome State Fault Refusal
  | .go u y => .next (modSlot u s.iss.core (fun _ => { y with pc := y.pc + 1 }))
  | .jump y off => .next (modSlot s s.iss.core (fun _ => { y with pc := y.pc + off }))
  | .hold u y => .next (modSlot u s.iss.core (fun _ => { y with waiting := true }))
  | .wait => .next (modSlot s s.iss.core (fun x => { x with waiting := true }))
  | .blocked u => .next u
  | .fail u code a => .next (endProgram u s.iss.core code 0 0 (carPc x) a)
  | .left u k => .next (endProgram u s.iss.core 3 0 k (carPc x) 0)
  | .finish code h => .next (endProgram s s.iss.core code h 0 (if code = 0 then 0 else carPc x) 0)

/-- A word of a collective's program moves its PC by an offset: the slot is then `y` there. -/
def WordJumps (i : Instr) (s : State) (y : CSlot) (off : Int) : Prop :=
  exec i s = .next { s with cslots := tset s.cslots s.iss.core { y with pc := y.pc + off } }

section

variable {i : Instr} {s u : State} {x y y' : CSlot} {ok : Bool} {body : State → Nat → CSlot → CarEff}
  (f : State → Host.Outcome State Fault Refusal) (he : exec i s = f s) (hf : f s = caramel ok body s) (hx : Runs s x)

include he hf hx

theorem word_bad (hok : ok = false) : exec i s = .next (endProgram s s.iss.core 2 0 0 (carPc x) 0) := by
  rw [he, hf, caramel, hx.1]
  simp [hx.2, hok]

variable (hok : ok = true)

include hok

theorem word_runs : exec i s = (body s s.iss.core x).outcome s x := by
  have hphase : (x.phase != .running) = false := by simp [hx.2]
  rw [he, hf, caramel, hx.1]
  simp only [hphase, hok, Bool.not_true, Bool.false_eq_true, if_false]
  cases body s s.iss.core x <;> rfl

/-- The slot goes on with what the word makes of it, at the next word. -/
theorem word_goes (hu : tget u.cslots s.iss.core = some y') (hb : body s s.iss.core x = .go u y) : WordDone i s u y := by
  rw [WordDone, word_runs f he hf hx hok, hb, CarEff.outcome, modSlot_of hu]

theorem word_stays (hb : body s s.iss.core x = .go s y) : WordDone i s s y := word_goes f he hf hx hok hx.1 hb

theorem word_jumps {off : Int} (hb : body s s.iss.core x = .jump y off) : WordJumps i s y off := by
  rw [WordJumps, word_runs f he hf hx hok, hb, CarEff.outcome, modSlot_of hx.1]

theorem word_finishes {code h : Nat} (hb : body s s.iss.core x = .finish code h) :
    exec i s = .next (endProgram s s.iss.core code h 0 (if code = 0 then 0 else carPc x) 0) := by
  rw [word_runs f he hf hx hok, hb, CarEff.outcome]

theorem word_fails {code : Nat} {a : Word} (hb : body s s.iss.core x = .fail u code a) :
    exec i s = .next (endProgram u s.iss.core code 0 0 (carPc x) a) := by
  rw [word_runs f he hf hx hok, hb, CarEff.outcome]

theorem word_leaves {k : Nat} (hb : body s s.iss.core x = .left u k) :
    exec i s = .next (endProgram u s.iss.core 3 0 k (carPc x) 0) := by
  rw [word_runs f he hf hx hok, hb, CarEff.outcome]

end

theorem cslots_of_sansMemory {s t : State} (h : t.sansMemory = s.sansMemory) : t.cslots = s.cslots := by
  have e := congrArg State.cslots h
  exact e

@[simp] theorem piecesMeetL2_sansMemory (s : State) (ps : List HubPiece) (write : Bool) : (piecesMeetL2 s ps write).sansMemory = s.sansMemory :=
  foldl_keeps State.sansMemory _ (fun s p => by rw [l2TouchAll_sansMemory, meetUpsets_sansMemory]) _ _

@[simp] theorem addCount_sansMemory (s : State) (pa k : Nat) : (addCount s pa k).sansMemory = s.sansMemory := by simp [addCount]

/-! ### Counters and control (R333, R336, R337) -/

section

variable {s : State} {x : CSlot} {w : CaramelFields} (hx : Runs s x)

include hx

theorem setk_sets (hok : carFields w false true true 15 = true) :
    WordDone (.caramelSetk w) s s { x with k := x.k.set w.x.toNat (w.imm.zeroExtend 32) } := word_stays (execCaramelSetk w) rfl rfl hx hok rfl

theorem bnz_jumps (hok : carFields w false true true 15 = true) :
    WordJumps (.caramelBnz w) s x (if x.k.getD w.x.toNat 0 ≠ 0 then w.imm.toInt else 1) := by
  refine word_jumps (execCaramelBnz w) rfl rfl hx hok ?_
  simp only [kAt, carOff, bne_iff_ne]

theorem loopk_jumps (hok : carFields w false true true 15 = true) :
    WordJumps (.caramelLoopk w) s { x with k := x.k.set w.x.toNat (x.k.getD w.x.toNat 0 - 1) }
      (if x.k.getD w.x.toNat 0 - 1 ≠ 0 then w.imm.toInt else 1) := by
  refine word_jumps (execCaramelLoopk w) rfl rfl hx hok ?_
  simp only [setK, kAt, carOff, bne_iff_ne]

theorem addk_adds (hok : carFields w false false true 15 = true) :
    WordDone (.caramelAddk w) s s { x with k := x.k.set w.x.toNat (BitVec.ofInt 32 ((x.k.getD w.y.toNat 0).toNat +
        (if w.imm.getLsbD 14 then ((w.imm.toNat % 2 ^ 14 : Nat) - (if w.imm.getLsbD 13 then 2 ^ 14 else 0) : Int) * 2 ^ 16
         else ((w.imm.toNat % 2 ^ 14 : Nat) - (if w.imm.getLsbD 13 then 2 ^ 14 else 0) : Int)))) } := by
  refine word_stays (execCaramelAddk w) rfl rfl hx hok ?_
  have hsign : sxInt 14 w.imm.toNat = ((w.imm.toNat % 2 ^ 14 : Nat) - (if w.imm.getLsbD 13 then 2 ^ 14 else 0) : Int) := by
    have hbit : w.imm.getLsbD 13 = decide (2 ^ 13 ≤ w.imm.toNat % 2 ^ 14) := by
      rw [BitVec.getLsbD, Nat.testBit_eq_decide_div_mod_eq]
      exact decide_eq_decide.2 (by omega)
    simp only [sxInt, hbit]
    split <;> split <;> simp_all
    all_goals omega
  rw [hsign]
  simp only [setK, kAt]
  congr 5
  split <;> simp

theorem ldk_loads (hok : carFields w false (w.imm.toNat != 2 && w.imm.toNat != 3) true 4 = true) :
    let part := (x.k.getD w.y.toNat 0).toNat % 2 ^ 16
    let put (v : Nat) : Prop := WordDone (.caramelLdk w) s s { x with k := x.k.set w.x.toNat (BitVec.ofNat 32 v) }
    (w.imm = 0 → put (myRank s x)) ∧ (w.imm = 1 → put x.members.length)
    ∧ (w.imm = 2 → part < x.members.length → put ((partItems (cN x.rec_) x.members.length part + cSeg x.rec_ - 1) / cSeg x.rec_))
    ∧ (w.imm = 3 → part < x.members.length → put (partItems (cN x.rec_) x.members.length part))
    ∧ (w.imm = 4 → put (cArg x.rec_)) ∧ (w.imm = 5 → put (cSeq x.rec_).toNat) := by
  have he : exec (.caramelLdk w) s = execCaramelLdk w s := rfl
  unfold execCaramelLdk at he
  refine ⟨fun h => ?_, fun h => ?_, fun h hp => ?_, fun h hp => ?_, fun h => ?_, fun h => ?_⟩
  all_goals refine word_stays _ he rfl hx hok ?_
  · rw [h]; rfl
  · rw [h]; rfl
  · rw [h]; exact if_neg (Nat.not_le.2 hp)
  · rw [h]; exact if_neg (Nat.not_le.2 hp)
  · rw [h]; rfl
  · rw [h]; rfl

theorem ldk_bad (hb : carFields w false (w.imm.toNat != 2 && w.imm.toNat != 3) true 4 = false) :
    exec (.caramelLdk w) s = .next (endProgram s s.iss.core 2 0 0 (carPc x) 0) := by
  have he : exec (.caramelLdk w) s = execCaramelLdk w s := rfl
  unfold execCaramelLdk at he
  exact word_bad _ he rfl hx hb

theorem recv_goesOn (hok : carFields w false true true 0 = true) (hf : ∃ g t u i, x.b.getD w.x.toNat .empty = .full g t u i) :
    WordDone (.caramelRecv w) s s x := by
  obtain ⟨g, t, u, i, hf⟩ := hf
  refine word_stays (execCaramelRecv w) rfl rfl hx hok ?_
  simp only [bAt, hf]

theorem drop_empties (hok : carFields w false true true 0 = true) (hb : bufBusy x w.x = false) :
    WordDone (.caramelDrop w) s s { x with b := x.b.set w.x.toNat .empty, bad := x.bad.filter (· != w.x.toNat) } :=
  word_stays (y := setB x w.x .empty) (execCaramelDrop w) rfl rfl hx hok (by simp only [hb, Bool.false_eq_true, if_false])

theorem waitn_goesOn (hok : carFields w true true true 6 = true) (hi : w.imm.toNat ≤ 32) (ho : x.out.length + x.scats.length ≤ w.imm.toNat) :
    WordDone (.caramelWaitn w) s s x :=
  word_stays (execCaramelWaitn w) rfl rfl hx (by simp [hok, hi]) (if_pos ho)

variable (hok : carFields w true true true 0 = true)

include hok

theorem post_none (hs : x.scats = []) (hp : cProgObj x.rec_ = 0) : WordDone (.caramelPost w) s s x :=
  word_stays (execCaramelPost w) rfl rfl hx hok (by simp [hs, hp])

theorem post_counts (hs : x.scats = []) (hp : cProgObj x.rec_ ≠ 0) {ps : List HubPiece}
    (ha : hubAccess s x.ctx (cProgObj x.rec_) 64 .write = .ok ps) :
    WordDone (.caramelPost w) s (addCount (applyAll (piecesMeetL2 s ps true)) (piecesBase ps) 1) x :=
  word_goes (execCaramelPost w) rfl rfl hx hok (by rw [cslots_of_sansMemory (s := s) (by simp), hx.1]) (by simp [hs, hp, ha])

theorem done_ends (ho : x.out = []) (hs : x.scats = []) : exec (.caramelDone w) s = .next (endProgram s s.iss.core 0 0 0 0 0) :=
  word_finishes (execCaramelDone w) rfl rfl hx hok (by simp [outstanding, ho, hs])

end

theorem illegalWord_ends {s : State} {x : CSlot} (hx : Runs s x) :
    (∀ w, exec (.caramelIllegalWord (some w)) s = .next (endProgram s s.iss.core 2 0 0 (carPc x) 0))
    ∧ (x.pc < 0 ∨ 1024 ≤ x.pc → exec (.caramelIllegalWord none) s = .next (endProgram s s.iss.core 7 0 0 (carPc x) 0)) := by
  refine ⟨fun w => word_fails (execCaramelIllegalWord (some w)) rfl rfl hx rfl rfl,
    fun hp => word_fails (execCaramelIllegalWord none) rfl rfl hx rfl (if_pos ?_)⟩
  simpa using hp

theorem caramelControl : Claims.CaramelControl :=
  ⟨fun _ _ _ hx hok => ⟨setk_sets hx hok, bnz_jumps hx hok, loopk_jumps hx hok⟩, fun _ _ _ hx hok => word_jumps (execCaramelBrk _) rfl rfl hx hok rfl,
    fun _ _ _ hx hok => addk_adds hx hok, fun _ _ _ hx hok => ldk_loads hx hok,
    fun _ _ _ hx hok => ⟨recv_goesOn hx hok, drop_empties hx hok⟩, fun _ _ _ hx hok hi ho => waitn_goesOn hx hok hi ho,
    fun _ _ _ hx hok => ⟨post_none hx hok, fun hs hp _ ha => post_counts hx hok hs hp ha, done_ends hx hok⟩,
    fun _ _ _ hx hok => word_finishes (execCaramelHalt _) rfl rfl hx hok rfl, fun _ _ hx => illegalWord_ends hx⟩

/-! ### The end of a program (R330) -/

/-- A package without what an access of the hub changes: memory and what keeps it, and the waits for the firmware. -/
def State.sansHub (s : State) : State := { s.sansMemory with hubFaults := [], cposts := [] }

theorem sansHub_of_sansMemory {s t : State} (h : t.sansMemory = s.sansMemory) : t.sansHub = s.sansHub := by
  rw [State.sansHub, h, ← State.sansHub]

/-- An access of the hub that fails, or waits for the firmware, changes only what accesses to memory do. -/
theorem hubAccess_wait_sansHub {s t : State} {ctx va n : Nat} {u : HubUse} (h : hubAccess s ctx va n u = .wait t) : t.sansHub = s.sansHub := by
  unfold hubAccess at h
  split at h
  · cases h
  · dsimp only at h
    split at h
    · cases h
    · cases h
      rfl
  · cases h

theorem hubAccess_fail_sansHub {s t : State} {ctx va n k a : Nat} {u : HubUse} (h : hubAccess s ctx va n u = .fail t k a) :
    t.sansHub = s.sansHub := by
  unfold hubAccess at h
  split at h
  · cases h
  · dsimp only at h
    split at h
    · cases h
      rfl
    · cases h
  · cases h
    split
    · exact sansHub_of_sansMemory (logViolation_sansMemory ..)
    · split
      · exact sansHub_of_sansMemory (meetUpsets_sansMemory ..)
      · rfl

theorem postEnd_sansHub (s : State) (p : CPost) : (postEnd s p).sansHub = s.sansHub := by
  unfold postEnd
  split
  · exact sansHub_of_sansMemory (by simp)
  · rename_i u h
    have hu : (⟨u, p⟩ : State × CPost).1.sansHub = s.sansHub := hubAccess_wait_sansHub h
    exact hu
  · rename_i h
    exact hubAccess_fail_sansHub h

/-- The packet of an ABORT to a member that has a path and is not marked dead; `p` is the member and its place in their order. -/
def abortPacket (s : State) (n : Nat) (seq : BitVec 32) (base : Nat) (p : Nat × Nat) : Option Packet :=
  if s.peerdead.getLsbD p.1 then none else (routeOf s s.pkgid p.1).map (fun via =>
    (⟨p.1, portTo s.pod s.pkgid (via.getD p.1), via, .carAbort n seq s.pkgid (base + p.2)⟩ : Packet))

/-- The request that tells a member of an ABORT. -/
def abortReq (s : State) (ctx n : Nat) (seq : BitVec 32) (p : Nat) : Req :=
  { Req.base s.stamp .abort p ctx 0 0 0 0 0 0 0 0 (incOf s ctx p) with stream := n, serial := seq }

/-- A member is told of an ABORT. -/
def tellAbort (ctx n : Nat) (seq : BitVec 32) (s : State) (p : Nat) : State := notify s .abort p ctx n seq

theorem tellAbort_told (ctx n : Nat) (seq : BitVec 32) (s : State) (p : Nat) {base k : Nat} (hb : s.stamp = base + k) :
    ∃ r, r.kind = .abort ∧ r.owner = p ∧ r.stream = n ∧ r.serial = seq ∧ tellAbort ctx n seq s p
      = { s with reqs := s.reqs ++ [r], stamp := s.stamp + 1, out := s.out ++ [(p, k)].filterMap (abortPacket s n seq base) } := by
  by_cases hd : s.peerdead.getLsbD p = true
  · refine ⟨{ abortReq s ctx n seq p with sends := 0 }, rfl, rfl, rfl, rfl, ?_⟩
    have hnone : abortPacket s n seq base (p, k) = none := if_pos hd
    rw [List.filterMap_cons_none hnone, List.filterMap_nil, List.append_nil]
    exact if_pos hd
  · refine ⟨abortReq s ctx n seq p, rfl, rfl, rfl, rfl, (if_neg hd).trans ?_⟩
    have hpkt : abortPacket s n seq base (p, k) = (routeOf s s.pkgid p).map (fun via =>
        (⟨p, portTo s.pod s.pkgid (via.getD p), via, .carAbort n seq s.pkgid s.stamp⟩ : Packet)) := by
      rw [abortPacket, if_neg hd, hb]
    have hsend : sendReq { s with reqs := s.reqs ++ [abortReq s ctx n seq p], stamp := s.stamp + 1 } (abortReq s ctx n seq p)
        = sendTo { s with reqs := s.reqs ++ [abortReq s ctx n seq p], stamp := s.stamp + 1 } p (.carAbort n seq s.pkgid s.stamp) := rfl
    have hroute : routeOf { s with reqs := s.reqs ++ [abortReq s ctx n seq p], stamp := s.stamp + 1 } s.pkgid p = routeOf s s.pkgid p := rfl
    refine hsend.trans ?_
    unfold sendTo
    dsimp only
    rw [hroute]
    cases hr : routeOf s s.pkgid p with
    | some via => rw [List.filterMap_cons_some (hpkt.trans (by rw [hr]; rfl)), List.filterMap_nil]
    | none => rw [List.filterMap_cons_none (hpkt.trans (by rw [hr]; rfl)), List.filterMap_nil, List.append_nil]

/-- Members are told of an ABORT in their order, each by a request that is kept until it acknowledges it (R45, R330). -/
theorem foldl_tellAbort (ctx n : Nat) (seq : BitVec 32) (l : List Nat) {s : State} {base k : Nat} (hb : s.stamp = base + k) :
    ∃ rs, l.foldl (tellAbort ctx n seq) s
        = { s with reqs := s.reqs ++ rs, stamp := s.stamp + l.length, out := s.out ++ (l.zipIdx k).filterMap (abortPacket s n seq base) }
      ∧ ∀ p ∈ l, ∃ r ∈ rs, r.kind = .abort ∧ r.owner = p ∧ r.stream = n ∧ r.serial = seq := by
  induction l generalizing s k with
  | nil => exact ⟨[], by simp, fun p hp => by cases hp⟩
  | cons p l ih =>
    obtain ⟨r, hk, ho, hst, hse, he⟩ := tellAbort_told ctx n seq s p hb
    obtain ⟨rs, hl, hall⟩ := ih (s := tellAbort ctx n seq s p) (k := k + 1) (by rw [he, hb]; rfl)
    refine ⟨r :: rs, ?_, fun q hq => ?_⟩
    · have hpk : abortPacket (tellAbort ctx n seq s p) n seq base = abortPacket s n seq base := by rw [he]; rfl
      rw [List.foldl_cons, hl, hpk, he]
      simp only [List.zipIdx_cons, List.append_assoc, List.singleton_append, List.length_cons, Nat.add_assoc, Nat.add_comm 1]
      rw [← List.filterMap_append, List.singleton_append]
    · rcases List.mem_cons.1 hq with rfl | hq
      · exact ⟨r, List.mem_cons_self, hk, ho, hst, hse⟩
      · obtain ⟨r', hr', h'⟩ := hall q hq
        exact ⟨r', List.mem_cons_of_mem _ hr', h'⟩

/-- A slot whose program has ended. -/
def CSlot.over (x : CSlot) : CSlot := { x with phase := .ended, b := List.replicate 16 .empty, out := [], scats := [], waiting := false }

/-- The members that the end of a program aborts. -/
def toAbort (s : State) (code : Nat) (x : CSlot) : List Nat := if code = 0 ∨ code = 6 then [] else x.members.filter (fun p => p != s.pkgid)

/-- The end of a program, of the package once its DONEOBJ is posted. -/
def closeProgram (s : State) (n code : Nat) (x : CSlot) : State :=
  let s := (toAbort s code x).foldl (tellAbort x.ctx n (cSeq x.rec_)) s
  modSlot { s with heldPk := s.heldPk.filter (fun p => p.slot != n),
                   reqs := s.reqs.filter (fun r => !(r.kind == .car && r.stream == n)) } n CSlot.over

theorem endProgram_closes {s : State} {n : Nat} {x : CSlot} (hx : tget s.cslots n = some x) (code h peer : Nat) (fpc faddr : Word) :
    ∃ u, u.sansHub = s.sansHub ∧ endProgram s n code h peer fpc faddr = closeProgram u n code x := by
  refine ⟨_, postEnd_sansHub s ?p, ?_⟩
  case p => exact ⟨x.ctx, cDone x.rec_, if code = 0 then 1 else 2, endCauseAt s x.ctx code faddr, if code = 0 then 0 else 1, fpc, faddr,
    word (code + 2 ^ 8 * h + 2 ^ 16 * peer + 2 ^ 32 * x.epoch)⟩
  unfold endProgram closeProgram toAbort
  rw [hx]
  dsimp only
  by_cases hc : code = 0 ∨ code = 6
  · have hc' : (decide (code = 0) || decide (code = 6)) = true := by simpa using hc
    rw [if_pos hc, if_pos hc']
    rfl
  · have hc' : ¬ (decide (code = 0) || decide (code = 6)) = true := by simpa using hc
    rw [if_neg hc, if_neg hc']
    rfl

theorem of_sansHub {β : Type} (p : State → β) (hp : ∀ s, p s = p s.sansHub) {s u : State} (h : u.sansHub = s.sansHub) : p u = p s := by
  rw [hp, h, ← hp]

theorem closeProgram_ends {s : State} {n code : Nat} {x : CSlot} (hx : tget s.cslots n = some x) :
    ∃ (rs : List Req) (stamp : Nat) (reqs : List Req), closeProgram s n code x
        = { s with
            cslots := tset s.cslots n x.over, reqs := reqs, stamp := stamp, heldPk := s.heldPk.filter (fun p => p.slot != n),
            out := s.out ++ (toAbort s code x).zipIdx.filterMap (abortPacket s n (cSeq x.rec_) s.stamp) }
      ∧ (∀ r ∈ rs, r.kind = .abort → r ∈ reqs)
      ∧ ∀ p ∈ toAbort s code x, ∃ r ∈ rs, r.kind = .abort ∧ r.owner = p ∧ r.stream = n ∧ r.serial = cSeq x.rec_ := by
  obtain ⟨rs, hl, hall⟩ := foldl_tellAbort x.ctx n (cSeq x.rec_) (toAbort s code x) (s := s) (k := 0) rfl
  refine ⟨rs, s.stamp + (toAbort s code x).length, (s.reqs ++ rs).filter (fun r => !(r.kind == .car && r.stream == n)), ?_,
    fun r hr hk => ?_, hall⟩
  · rw [closeProgram, hl]
    exact modSlot_of (by exact hx) _
  · rw [List.mem_filter]
    exact ⟨List.mem_append_right _ hr, by simp [hk]⟩

theorem program_ends {s : State} {n : Nat} {x : CSlot} (hx : tget s.cslots n = some x) (code h peer : Nat) (fpc faddr : Word) :
    let t := endProgram s n code h peer fpc faddr
    tget t.cslots n = some x.over ∧ (∀ m, m ≠ n → tget t.cslots m = tget s.cslots m)
    ∧ t.out = s.out ++ (toAbort s code x).zipIdx.filterMap (abortPacket s n (cSeq x.rec_) s.stamp)
    ∧ (∀ p ∈ toAbort s code x, ∃ r ∈ t.reqs, r.kind = .abort ∧ r.owner = p ∧ r.stream = n ∧ r.serial = cSeq x.rec_)
    ∧ (∀ p ∈ t.heldPk, p.slot ≠ n) := by
  obtain ⟨u, hu, he⟩ := endProgram_closes hx code h peer fpc faddr
  have hslots : u.cslots = s.cslots := of_sansHub State.cslots (fun _ => rfl) hu
  have hout : u.out = s.out := of_sansHub State.out (fun _ => rfl) hu
  have hto : toAbort u code x = toAbort s code x := of_sansHub (toAbort · code x) (fun _ => rfl) hu
  have hpk : abortPacket u n (cSeq x.rec_) u.stamp = abortPacket s n (cSeq x.rec_) s.stamp :=
    of_sansHub (fun s => abortPacket s n (cSeq x.rec_) s.stamp) (fun _ => rfl) hu
  obtain ⟨rs, _, reqs, hc, hkept, hall⟩ := closeProgram_ends (n := n) (code := code) (hslots.symm ▸ hx)
  simp only [he, hc, hslots, hout, hto, hpk]
  refine ⟨tget_tset_self .., fun m hm => ?_, trivial, fun p hp => ?_, fun p hp => ?_⟩
  · rw [tget_tset, if_neg hm]
  · obtain ⟨r, hr, hk, hrest⟩ := hall p (hto.symm ▸ hp)
    exact ⟨r, hkept r hr hk, hk, hrest⟩
  · simpa using (List.mem_filter.1 hp).2

theorem caramelEnds : Claims.CaramelEnds := by
  refine ⟨fun w => ?_, fun s n code h peer fpc faddr x hx => ?_⟩
  · exact ⟨fun _ _ hx hb => word_bad (execCaramelHalt w) rfl rfl hx hb, fun _ _ hx hb => word_bad (execCaramelMatch w) rfl rfl hx hb,
      fun _ _ hx hb => word_bad (execCaramelMatchx w) rfl rfl hx hb, fun _ _ hx hb => word_bad (execCaramelRecv w) rfl rfl hx hb,
      fun _ _ hx hb => word_bad (execCaramelWaitn w) rfl rfl hx hb, fun _ _ hx hb => word_bad (execCaramelComb w) rfl rfl hx hb,
      fun _ _ hx hb => word_bad (execCaramelCombo w) rfl rfl hx hb, fun _ _ hx hb => word_bad (execCaramelCvt w) rfl rfl hx hb,
      fun _ _ hx hb => word_bad (execCaramelFwd w) rfl rfl hx hb, fun _ _ hx hb => word_bad (execCaramelMcast w) rfl rfl hx hb,
      fun _ _ hx hb => word_bad (execCaramelSend w) rfl rfl hx hb, fun _ _ hx hb => word_bad (execCaramelGath w) rfl rfl hx hb,
      fun _ _ hx hb => word_bad (execCaramelScat w) rfl rfl hx hb, fun _ _ hx hb => word_bad (execCaramelDrop w) rfl rfl hx hb,
      fun _ _ hx hb => ldk_bad hx hb, fun _ _ hx hb => word_bad (execCaramelSetk w) rfl rfl hx hb,
      fun _ _ hx hb => word_bad (execCaramelAddk w) rfl rfl hx hb, fun _ _ hx hb => word_bad (execCaramelBrk w) rfl rfl hx hb,
      fun _ _ hx hb => word_bad (execCaramelBnz w) rfl rfl hx hb, fun _ _ hx hb => word_bad (execCaramelLoopk w) rfl rfl hx hb,
      fun _ _ hx hb => word_bad (execCaramelPost w) rfl rfl hx hb, fun _ _ hx hb => word_bad (execCaramelDone w) rfl rfl hx hb⟩
  · obtain ⟨hslot, hothers, hout, hreqs, hheld⟩ := program_ends hx code h peer fpc faddr
    refine ⟨⟨_, hslot, rfl⟩, hothers, ?_, fun h0 h6 p hp hne => hreqs p ?_, hheld⟩
    · rw [hout, toAbort]
      split <;> rfl
    · rw [toAbort, if_neg (not_or.2 ⟨h0, h6⟩)]
      exact List.mem_filter.2 ⟨hp, by simpa using hne⟩

/-- Settles O41: a word of a program comes to what its entry says or ends it with code 2, and an end empties the slot and tells the
other members. -/
theorem caramelProgram : Obligations.CaramelProgram := ⟨caramelControl, caramelEnds⟩

end Sys2Proof.Machine

end

section
/-! The words of a collective's program that use buffers (R326, R327, R330, R333 to R335, R358). -/

namespace Sys2Proof.Machine

theorem readsBufs_whole {n : Nat} {x : CSlot} {is : List (BitVec 4)} (h : ∀ i ∈ is, i.toNat ∉ x.bad) (s : State) (eff : CarEff) :
    readsBufs n x is s eff = eff := by
  refine if_neg ?_
  rw [List.any_eq_true]
  rintro ⟨i, hi, hb⟩
  exact h i hi (List.contains_iff_mem.1 hb)

/-! ### MATCH, MATCHX (R333) -/

section

variable {i : Instr} {s : State} {x : CSlot} {w : CaramelFields} {rank : CSlot → Nat} {ok : Bool}
  (f : State → Host.Outcome State Fault Refusal) (he : exec i s = f s) (hf : f s = caramel ok (carMatch w rank) s)
  (hx : Runs s x) (hok : ok = true) (hb : bufBusy x w.x = false) (hne : ∀ a b, x.b.getD w.x.toNat .empty ≠ .expect a b)
  (hr : rank x < x.members.length) (hfill : x.filled.contains (rank x, (x.k.getD w.y.toNat 0).toNat) = false)

/-- The packet that a MATCH asks for. -/
def matchKey (s : State) (x : CSlot) (w : CaramelFields) (r : Nat) (p : CPacket) : Bool :=
  p.slot == s.iss.core && p.seq == cSeq x.rec_ && p.src == r && p.seg == (x.k.getD w.y.toNat 0).toNat

/-- The package once the packet is taken. -/
def taken (s : State) (x : CSlot) (w : CaramelFields) (r : Nat) : State :=
  { s with heldPk := s.heldPk.filter (fun p => !matchKey s x w r p) }

/-- What a MATCH comes to with the packet that it finds. -/
def matchEff (s : State) (x : CSlot) (w : CaramelFields) (r : Nat) : Option CPacket → CarEff
  | some p => if p.epoch != x.epoch then .left (taken s x w r) (x.members.getD r 0) else .go (taken s x w r) (fillBuf x w.x.toNat p)
  | none => .go (taken s x w r) (setB x w.x (.expect r (x.k.getD w.y.toNat 0).toNat))

include hb hne hr hfill

theorem carMatch_eq : carMatch w rank s s.iss.core x = matchEff s x w (rank x) (s.heldPk.find? (matchKey s x w (rank x))) := by
  have hp : ¬ rank x ≥ x.p := Nat.not_le.2 hr
  unfold carMatch
  simp only [hb, Bool.false_eq_true, if_false, hp, kAt, hfill]
  split
  · exact absurd ‹_› (hne _ _)
  · unfold matchEff
    rfl

include he hf hx hok

theorem match_done :
    (s.heldPk.find? (matchKey s x w (rank x)) = none →
      WordDone i s (taken s x w (rank x)) (setB x w.x (.expect (rank x) (x.k.getD w.y.toNat 0).toNat)))
    ∧ (∀ p, s.heldPk.find? (matchKey s x w (rank x)) = some p → p.epoch = x.epoch →
        WordDone i s (taken s x w (rank x)) (fillBuf x w.x.toNat p))
    ∧ (∀ p, s.heldPk.find? (matchKey s x w (rank x)) = some p → p.epoch ≠ x.epoch →
        exec i s = .next (endProgram (taken s x w (rank x)) s.iss.core 3 0 (x.members.getD (rank x) 0) (carPc x) 0)) := by
  have heq := carMatch_eq (s := s) hb hne hr hfill
  refine ⟨fun hn => word_goes f he hf hx hok hx.1 ?_, fun p hp hep => word_goes f he hf hx hok hx.1 ?_,
    fun p hp hep => word_leaves f he hf hx hok ?_⟩
  · rw [heq, hn, matchEff]
  · rw [heq, hp]
    simp [matchEff, hep]
  · rw [heq, hp]
    simp [matchEff, hep]

end

/-! ### COMB, COMBO, CVT (R334) -/

section

variable {s : State} {x : CSlot} {w : CaramelFields} (hx : Runs s x) (hb : bufBusy x w.x = false)

include hx hb

section

variable {seg ty : Nat} {g1 g2 : Option (Nat × Nat)} {i1 i2 : List Nat} (hok : carFields w false false true 0 = true) (hrop : cRop x.rec_ < 4)
  (h1 : bAt x w.x = .full seg ty g1 i1) (h2 : bAt x w.y = .full seg ty g2 i2)
  (hw1 : w.x.toNat ∉ x.bad) (hw2 : w.y.toNat ∉ x.bad)

include hok hrop h1 h2 hw1 hw2

theorem comb_combines : WordDone (.caramelComb w) s s
    (setB x w.x (.full seg ty none ((i1.zip i2).map (fun e => combItem (cRop x.rec_) ty e.1 e.2)))) := by
  refine word_stays (execCaramelComb w) rfl rfl hx hok ?_
  rw [carComb, if_neg (by simp [hb]), readsBufs_whole (by simp [hw1, hw2])]
  simp [h1, h2, hrop]

theorem combo_low {g : Nat × Nat} (hg : parentTag x.members.length g1 g2 = some g) : WordDone (.caramelCombo w) s s
    (setB x w.x (.full seg ty (some g) ((i1.zip i2).map (fun e => combItem (cRop x.rec_) ty e.1 e.2)))) := by
  refine word_stays (execCaramelCombo w) rfl rfl hx hok ?_
  rw [carComb, if_neg (by simp [hb]), readsBufs_whole (by simp [hw1, hw2])]
  simp [h1, h2, hrop, CSlot.p, hg]

theorem combo_high {g : Nat × Nat} (hno : parentTag x.members.length g1 g2 = none) (hg : parentTag x.members.length g2 g1 = some g) :
    WordDone (.caramelCombo w) s s
      (setB x w.x (.full seg ty (some g) ((i2.zip i1).map (fun e => combItem (cRop x.rec_) ty e.1 e.2)))) := by
  refine word_stays (execCaramelCombo w) rfl rfl hx hok ?_
  rw [carComb, if_neg (by simp [hb]), readsBufs_whole (by simp [hw1, hw2])]
  simp [h1, h2, hrop, CSlot.p, hno, hg]

end

/-- What CVT makes of a buffer. -/
theorem cvt_converts {seg : Nat} {tag : Option (Nat × Nat)} {is : List Nat} (hok : carFields w false true true 1 = true)
    (h1 : bAt x w.x = .full seg (if w.imm = 1 then cStype x.rec_ else cCtype x.rec_) tag is) (hw1 : w.x.toNat ∉ x.bad) :
    WordDone (.caramelCvt w) s s (setB x w.x (.full seg (if w.imm = 1 then cCtype x.rec_ else cStype x.rec_) tag
      (is.map (fun v => (fmtT (if w.imm = 1 then cCtype x.rec_ else cStype x.rec_)).round 0 false none
        ((fmtT (if w.imm = 1 then cStype x.rec_ else cCtype x.rec_)).read v))))) := by
  refine word_stays (execCaramelCvt w) rfl rfl hx hok ?_
  by_cases hi : w.imm = 1
  · simp only [hi, if_true] at h1 ⊢
    simp only [hb, Bool.false_eq_true, if_false]
    rw [readsBufs_whole (by simpa using hw1)]
    simp [h1]
  · simp only [hi, if_false] at h1 ⊢
    have hi' : (w.imm == 1#15) = false := by simpa using hi
    simp only [hi', Bool.false_eq_true, if_false, hb]
    rw [readsBufs_whole (by simpa using hw1)]
    simp [h1]

end

/-! ### FWD, MCAST, SEND (R335) -/

theorem newReq_car_cslots {s : State} {r : Req} (hk : r.kind = .car) : (newReq s r).cslots = s.cslots := by
  unfold newReq
  split
  · rfl
  · obtain ⟨out, hout⟩ := sendTo_only { s with reqs := s.reqs ++ [r], stamp := s.stamp + 1 } r.owner
      (packetOf { s with reqs := s.reqs ++ [r], stamp := s.stamp + 1 } r)
    simp only [sendReq, hout, hk]

section

variable {n : Nat} {b : BitVec 4} {pkt : CPacket}

/-- The transfers of a fold of sends: memory is as it was, the slot is there, and only what is outstanding has grown. -/
structure CarSent (n : Nat) (b : BitVec 4) (pkt : CPacket) (peers : List Nat) (r r' : State × CSlot) : Prop where
  mem  : r'.1.mem = r.1.mem
  slot : (tget r.1.cslots n).isSome = true → (tget r'.1.cslots n).isSome = true
  rest : r'.2 = { r.2 with out := r'.2.out }
  out  : r'.2.out.map (fun t => (t.buf, t.peer, t.pkt)) = r.2.out.map (fun t => (t.buf, t.peer, t.pkt)) ++ peers.map (fun p => (b.toNat, p, pkt))

theorem modSlot_isSome {s : State} {m : Nat} (h : (tget s.cslots m).isSome = true) (n : Nat) (f : CSlot → CSlot) :
    (tget (modSlot s n f).cslots m).isSome = true := by
  unfold modSlot
  split
  · rw [tget_tset]
    split
    · rfl
    · exact h
  · exact h

theorem carSend1_sent (r : State × CSlot) (peer : Nat) : CarSent n b pkt [peer] r (carSend1 n b pkt r peer) := by
  unfold carSend1
  dsimp only
  split
  · exact ⟨modSlot_mem .., fun h => modSlot_isSome (by exact h) .., rfl, by simp⟩
  · exact ⟨(newReq_mem ..).trans (modSlot_mem ..), fun h => by
      rw [newReq_car_cslots rfl]
      exact modSlot_isSome (by exact h) .., rfl, by simp⟩

theorem CarSent.trans {ps qs : List Nat} {r r' r'' : State × CSlot} (h : CarSent n b pkt ps r r') (h' : CarSent n b pkt qs r' r'') :
    CarSent n b pkt (ps ++ qs) r r'' where
  mem := h'.mem.trans h.mem
  slot hs := h'.slot (h.slot hs)
  rest := by
    rw [h'.rest, h.rest]
  out := by
    rw [h'.out, h.out, List.map_append, List.append_assoc]

theorem foldl_carSend1 (peers : List Nat) (r : State × CSlot) : CarSent n b pkt peers r (peers.foldl (carSend1 n b pkt) r) := by
  induction peers generalizing r with
  | nil => exact ⟨rfl, id, rfl, by simp⟩
  | cons p ps ih => exact (carSend1_sent r p).trans (ih _)

end

section

variable {i : Instr} {s : State} {x : CSlot} {b : BitVec 4} {ranks : State → CSlot → List Nat} {ok : Bool}
  (f : State → Host.Outcome State Fault Refusal) (he : exec i s = f s) (hf : f s = caramel ok (carSend b ranks) s)
  (hx : Runs s x) (hok : ok = true)

include he hf hx hok

theorem sent_done {seg ty : Nat} {tag : Option (Nat × Nat)} {is : List Nat} (hb : bAt x b = .full seg ty tag is)
    (hr : ∀ r ∈ ranks s x, r < x.members.length) (ho : x.out.length + x.scats.length + (ranks s x).length ≤ 32) (hs : x.sentTo = [])
    (hw : b.toNat ∉ x.bad) :
    let pkt : CPacket := ⟨myRank s x, s.iss.core, cSeq x.rec_, x.epoch, seg, ty, tag, is⟩
    let r := ((ranks s x).map (fun r => x.members.getD r 0)).foldl (carSend1 s.iss.core b pkt) (s, x)
    WordDone i s r.1 r.2 ∧ r.1.mem = s.mem ∧ r.2 = { x with out := r.2.out }
      ∧ r.2.out.map (fun t => (t.buf, t.peer, t.pkt)) = x.out.map (fun t => (t.buf, t.peer, t.pkt))
          ++ (ranks s x).map (fun e => (b.toNat, x.members.getD e 0, pkt)) := by
  intro pkt r
  obtain ⟨hmem, hslot, hrest, hout⟩ := foldl_carSend1 (n := s.iss.core) (b := b) (pkt := pkt)
    ((ranks s x).map (fun r => x.members.getD r 0)) (s, x)
  obtain ⟨y, hy⟩ := Option.isSome_iff_exists.1 (hslot (by rw [hx.1]; rfl))
  refine ⟨word_goes f he hf hx hok hy ?_, hmem, hrest, by rw [hout, List.map_map]; rfl⟩
  have hleft : (ranks s x).filter (fun r => !x.sentTo.contains r) = ranks s x := by simp [hs]
  have hnow : (ranks s x).take (32 - outstanding x) = ranks s x := List.take_of_length_le (by unfold outstanding; omega)
  have hrank : ¬ (ranks s x).any (fun r => decide (r ≥ x.p)) = true := by
    rw [List.any_eq_true]
    rintro ⟨k, hk, hp⟩
    exact absurd (hr k hk) (Nat.not_lt.2 (of_decide_eq_true hp))
  rw [carSend, readsBufs_whole (by simpa using hw)]
  simp only [hb, if_neg hrank, hleft, hnow, Nat.lt_irrefl, if_false]
  refine congrArg (CarEff.go _) ?_
  rw [hrest]
  cases x
  cases hs
  rfl

end

/-! ### GATH, SCAT (R335) -/

section

variable {s : State} {x : CSlot} {w : CaramelFields} (hx : Runs s x) (hok : carFields w false false true 0 = true)

include hx hok

theorem gath_gathers {ps : List HubPiece} (hb : bufBusy x w.x = false) (hsrc : cSrc x.rec_ ≠ 0) (hseal : x.sealed = true)
    (hn : (segItems x.rec_ x.members.length (x.k.getD w.y.toNat 0).toNat).2 ≠ 0)
    (ha : hubAccess s x.ctx (cSrc x.rec_ + (segItems x.rec_ x.members.length (x.k.getD w.y.toNat 0).toNat).1 * (tyBits (cStype x.rec_) / 8))
      ((segItems x.rec_ x.members.length (x.k.getD w.y.toNat 0).toNat).2 * (tyBits (cStype x.rec_) / 8)) .read = .ok ps)
    (hsc : scatBefore s x ps = false) :
    WordDone (.caramelGath w) s (piecesTouch s ps) (setB x w.x (.full (x.k.getD w.y.toNat 0).toNat (cStype x.rec_) (some (myRank s x, myRank s x + 1))
      (itemsOfBytes (tyBits (cStype x.rec_) / 8) (piecesRead s ps) (segItems x.rec_ x.members.length (x.k.getD w.y.toNat 0).toNat).2
        ++ List.replicate (cSeg x.rec_ - (segItems x.rec_ x.members.length (x.k.getD w.y.toNat 0).toNat).2)
          (2 ^ (tyBits (cStype x.rec_) - 1))))) := by
  refine word_goes (execCaramelGath w) rfl rfl hx hok (y' := x) ?_ ?_
  · rw [piecesTouch, cslots_of_sansMemory (piecesMeetL2_sansMemory s ps false), hx.1]
  · simp only [kAt, CSlot.p, cWidth, hb, Bool.false_eq_true, if_false, hsrc, hn, decide_false, Bool.or_self, hseal, Bool.not_true, ha, hsc,
      negZero]

theorem scat_enters {tag : Option (Nat × Nat)} {is : List Nat} (hdst : cDst x.rec_ ≠ 0) (ho : x.out.length + x.scats.length < 32)
    (hb : bAt x w.x = .full (x.k.getD w.y.toNat 0).toNat (cStype x.rec_) tag is) (hw : w.x.toNat ∉ x.bad)
    (htag : cRop x.rec_ = 1 → tag = some (0, x.members.length)) :
    let wd := tyBits (cStype x.rec_) / 8
    let e := segItems x.rec_ x.members.length (x.k.getD w.y.toNat 0).toNat
    let vs := (is.take e.2).map (fun v => if cRop x.rec_ = 1 then meanItem (cStype x.rec_) x.members.length v else v)
    WordDone (.caramelScat w) s { s with stamp := s.stamp + 1 } { x with
      scats := x.scats ++ [⟨s.stamp, w.x.toNat, carPc x, cDst x.rec_ + e.1 * wd, vs.flatMap (leBytes wd)⟩] } := by
  intro wd e vs
  refine word_goes (execCaramelScat w) rfl rfl hx hok (y' := x) hx.1 ?_
  have hmean : (cRop x.rec_ == 1 && tag != some (0, x.members.length)) = false := by
    by_cases h1 : cRop x.rec_ = 1
    · simp [htag h1]
    · simp [h1]
  dsimp only
  rw [readsBufs_whole (by simpa using hw)]
  simp only [hb, hdst, decide_false, bne_self_eq_false, kAt, hmean, Bool.or_self, Bool.false_eq_true, if_false, outstanding,
    Nat.not_le.2 ho, beq_iff_eq, cWidth, CSlot.p]
  rfl

end

/-- Settles O42: each buffer word runs as its entry says, on what the buffers hold. -/
theorem caramelBuffers : Obligations.CaramelBuffers :=
  ⟨fun _ _ w hx => ⟨fun hok hb hne hr hf => match_done (execCaramelMatch w) rfl rfl hx hok hb hne hr hf,
      fun hok hb hne hr hf => match_done (execCaramelMatchx w) rfl rfl hx hok hb hne hr hf⟩,
    fun _ _ _ _ _ _ _ _ _ hx hok hb hrop h1 h2 hw1 hw2 => ⟨comb_combines hx hb hok hrop h1 h2 hw1 hw2,
      fun _ hg => combo_low hx hb hok hrop h1 h2 hw1 hw2 hg, fun _ hno hg => combo_high hx hb hok hrop h1 h2 hw1 hw2 hno hg⟩,
    fun _ _ _ _ _ _ hx hok hb h1 hw1 => cvt_converts hx hb hok h1 hw1,
    fun _ _ w hx => ⟨fun hok _ _ _ _ hb hr ho hs hw => sent_done (execCaramelFwd w) rfl rfl hx hok hb hr ho hs hw,
      fun hok _ _ _ _ hb hr ho hs hw => sent_done (execCaramelMcast w) rfl rfl hx hok hb hr ho hs hw,
      fun hok _ _ _ _ hb hr ho hs hw => sent_done (execCaramelSend w) rfl rfl hx hok hb hr ho hs hw⟩,
    fun _ _ _ _ hx hok hb hsrc hseal hn ha hsc => gath_gathers hx hok hb hsrc hseal hn ha hsc,
    fun _ _ _ _ _ hx hok hdst ho hb hw htag => scat_enters hx hok hdst ho hb hw htag⟩

end Sys2Proof.Machine

end

section
/-! The events of a collective unit: window stores, packets and the end of a SCAT (R319 to R324, R326, R329 to R331, R333, R335). -/

namespace Sys2Proof.Machine

/-! ### The control stores of a window (R322 to R324) -/

section

variable {s : State} {x : WinStore} (hw : winTake s = some x) (hf : foreignSlot s x = false)

include hw hf

section

variable {ps : List HubPiece} (hc : winControl x 0 = true) (hal : winVal x % 64 = 0) (ha : hubAccess s x.ctx (winVal x) 64 .record = .ok ps)

/-- The accesses that an ARM checks after its record's (R322). -/
def armChecks (r : List Word) : List (Nat × Nat × HubUse) :=
  (cProg r, 4, .probe) :: (cDone r, 64, .write) :: (if cProgObj r = 0 then [] else [(cProgObj r, 64, .write)])

include hc hal ha

theorem arm_refused (hcode : cCheck (piecesTouch s ps) (winSlot x) (winHead x).mt (regsOfBytes (piecesRead (piecesTouch s ps) ps) 8) ≠ 0) :
    exec .arm s = .next (armRefused (piecesTouch s ps) x (regsOfBytes (piecesRead (piecesTouch s ps) ps) 8)
      (cCheck (piecesTouch s ps) (winSlot x) (winHead x).mt (regsOfBytes (piecesRead (piecesTouch s ps) ps) 8))) := by
  have he : exec .arm s = execArm s := rfl
  have hcode' := bne_iff_ne.2 hcode
  rw [he, execArm]
  simp only [hw, hc, hf, hal, ha, hcode', bne_self_eq_false, Bool.not_true, Bool.false_eq_true, if_false, if_true]

theorem arm_unreachable (hcode : cCheck (piecesTouch s ps) (winSlot x) (winHead x).mt (regsOfBytes (piecesRead (piecesTouch s ps) ps) 8) = 0)
    {v : State} {k a : Nat}
    (hall : hubAll (piecesTouch s ps) x.ctx (armChecks (regsOfBytes (piecesRead (piecesTouch s ps) ps) 8)) = .fail v k a) :
    exec .arm s = .next (armOver (armRefused (piecesTouch s ps) x (regsOfBytes (piecesRead (piecesTouch s ps) ps) 8) 0x08) x
      (regsOfBytes (piecesRead (piecesTouch s ps) ps) 8)) := by
  have he : exec .arm s = execArm s := rfl
  unfold armChecks at hall
  rw [he, execArm]
  simp only [hw, hc, hf, hal, ha, hcode, hall, bne_self_eq_false, Bool.not_true, Bool.false_eq_true, if_false]

/-- The package once the slot of an ARM is queued. -/
def armed (s : State) (x : WinStore) (r : List Word) : State :=
  { s with
    cslots := tset s.cslots (winSlot x) (armedSlot s x.ctx r), corder := s.corder + 1,
    heldPk := s.heldPk.filter (fun p => !(p.slot == winSlot x && olderSerial p.seq (cSeq r))) }

theorem arm_queues (hcode : cCheck (piecesTouch s ps) (winSlot x) (winHead x).mt (regsOfBytes (piecesRead (piecesTouch s ps) ps) 8) = 0)
    {qs : List HubPiece}
    (hall : hubAll (piecesTouch s ps) x.ctx (armChecks (regsOfBytes (piecesRead (piecesTouch s ps) ps) 8)) = .ok qs) :
    Quietly .arm s (winDone (armed (piecesTouch s ps) x (regsOfBytes (piecesRead (piecesTouch s ps) ps) 8)) x) := by
  have he : exec .arm s = execArm s := rfl
  unfold armChecks at hall
  refine ⟨?_, fun a => by rw [winDone_mem, armed, piecesTouch_mem]⟩
  rw [he, execArm]
  simp only [hw, hc, hf, hal, ha, hcode, hall, bne_self_eq_false, Bool.not_true, Bool.false_eq_true, if_false]
  rfl

end

variable {c : CSlot} (hs : tget s.cslots (winSlot x) = some c)

include hs

theorem seal_seals (hc : winControl x 8 = true) :
    (winVal x = (cSeq c.rec_).toNat → Quietly .seal s (winDone { s with
        cslots := tset s.cslots (winSlot x) { c with sealed := true, waiting := false } } x))
    ∧ (winVal x ≠ (cSeq c.rec_).toNat → Quietly .seal s (winDrop s x 0x13 4)) := by
  have he : exec .seal s = execSeal s := rfl
  rw [execSeal] at he
  simp only [hw, hc, hf, hs, Bool.not_true, Bool.false_eq_true, if_false, bne_iff_ne] at he
  refine ⟨fun hv => ⟨?_, fun a => by rw [winDone_mem]⟩, fun hv => ⟨he.trans (if_pos hv), fun a => by rw [winDrop_mem]⟩⟩
  rw [he, if_neg (by simpa using hv), modSlot_of hs, wakeSlot, modSlot_of (tget_tset_self ..), tset_tset]

theorem disarm_disarms (hc : winControl x 0x10 = true) :
    (c.phase = .ended → Quietly .disarm s (winDone { s with cslots := tdel s.cslots (winSlot x) } x))
    ∧ (∀ u, c.phase ≠ .ended → hubAccess s x.ctx (cDone c.rec_) 64 .write = .wait u → exec .disarm s = .next u)
    ∧ (c.phase ≠ .ended → (∀ u, hubAccess s x.ctx (cDone c.rec_) 64 .write ≠ .wait u) →
        exec .disarm s = .next (let u := endProgram s (winSlot x) 8 0 0 0 0
          winDone { u with cslots := tdel u.cslots (winSlot x) } x)) := by
  have he : exec .disarm s = execDisarm s := rfl
  rw [execDisarm] at he
  simp only [hw, hc, hf, hs, Bool.not_true, Bool.false_eq_true, if_false, beq_iff_eq] at he
  refine ⟨fun hp => ⟨he.trans (if_pos hp), fun a => by rw [winDone_mem]⟩, fun u hp ha => ?_, fun hp hno => ?_⟩
  · rw [he, if_neg hp, ha]
  · rw [he, if_neg hp]
    split
    · exact absurd ‹_› (hno _)
    · rfl

end

/-! ### Data stores (R320, R323) -/

theorem windowData_stores {s : State} {x : WinStore} (hw : winTake s = some x) (h0 : winControl x 0 = false) (h8 : winControl x 8 = false)
    (h10 : winControl x 0x10 = false) :
    (∀ ps, winPieces s x.ctx x.parts = .ok ps →
        (x.lane < 1024 → exec .windowDataStore s = .next (winDone (piecesWrite s ps (x.parts.flatMap (·.data))) x))
        ∧ (1024 ≤ x.lane → exec .windowDataStore s
            = .next (winDone (piecesWrite (keepOlds s (ps.map (fun p => (p.pa, p.len)))) ps (x.parts.flatMap (·.data))) x)))
    ∧ (∀ u cause kind, winPieces s x.ctx x.parts = .drop u cause kind → exec .windowDataStore s = .next (winDrop u x cause kind))
    ∧ (∀ u, winPieces s x.ctx x.parts = .wait u → exec .windowDataStore s = .next u) := by
  have he : exec .windowDataStore s = execWindowDataStore s := rfl
  rw [execWindowDataStore] at he
  simp only [hw, h0, h8, h10, Bool.or_self, Bool.false_eq_true, if_false] at he
  refine ⟨fun ps hp => ⟨fun hl => ?_, fun hl => ?_⟩, fun u cause kind hp => ?_, fun u hp => ?_⟩
  · rw [he, hp]
    simp only [hl, if_true]
  · rw [he, hp]
    simp only [Nat.not_lt.2 hl, if_false]
  · rw [he, hp]
  · rw [he, hp]

section

variable {s : State} {ctx : Nat} {p : WinPart}

theorem winPiece_foreign (h : boundElsewhere s p.slot ctx = true) : winPiece s ctx p = .drop (logViolation s p.pa) 0x05 4 := by
  rw [winPiece, if_pos h]

variable (h : boundElsewhere s p.slot ctx = false)

include h

theorem winPiece_high (ho : 0xFFFFFF0000 ≤ p.off) : winPiece s ctx p = .drop (logViolation s p.pa) 0x05 8 := by
  rw [winPiece, if_neg (by simp [h]), if_pos ho]

variable (ho : p.off < 0xFFFFFF0000)

include ho

theorem winPiece_unarmed (hn : tget s.cslots p.slot = none) : winPiece s ctx p = .drop s 0x13 4 := by
  rw [winPiece, if_neg (by simp [h]), if_neg (Nat.not_le.2 ho), hn]

variable {c : CSlot} (hc : tget s.cslots p.slot = some c)

include hc

theorem winPiece_outside (hout : cSrc c.rec_ = 0 ∨ cN c.rec_ * cWidth c.rec_ < p.off + p.data.length) :
    winPiece s ctx p = .drop (logViolation s p.pa) 0x05 8 := by
  rw [winPiece, if_neg (by simp [h]), if_neg (Nat.not_le.2 ho), hc]
  exact if_pos (by simpa using hout)

variable (hsrc : cSrc c.rec_ ≠ 0) (hin : p.off + p.data.length ≤ cN c.rec_ * cWidth c.rec_)

include hsrc hin

theorem winPiece_otherKind (hk : p.mt ≠ cKind c.rec_) : winPiece s ctx p = .drop s 0x13 4 := by
  have hno : ¬ (cSrc c.rec_ = 0 || p.off + p.data.length > cN c.rec_ * cWidth c.rec_) = true := by simpa using ⟨hsrc, hin⟩
  rw [winPiece, if_neg (by simp [h]), if_neg (Nat.not_le.2 ho), hc]
  exact (if_neg hno).trans (if_pos (bne_iff_ne.2 hk))

theorem winPiece_ok (hk : p.mt = cKind c.rec_) {ps : List HubPiece} (ha : hubAccess s ctx (cSrc c.rec_ + p.off) p.data.length .write = .ok ps) :
    winPiece s ctx p = .ok ps := by
  have hno : ¬ (cSrc c.rec_ = 0 || p.off + p.data.length > cN c.rec_ * cWidth c.rec_) = true := by simpa using ⟨hsrc, hin⟩
  rw [winPiece, if_neg (by simp [h]), if_neg (Nat.not_le.2 ho), hc]
  dsimp only
  rw [if_neg hno, if_neg (by simpa using hk), ha]

end

/-- The bytes of a store read back from its piece (R320). -/
theorem winStore_read {s : State} (hm : Memory.wf s.mem = true) (x : WinStore) (q : HubPiece) {bs : List Byte} (hl : bs.length = q.len) :
    memRead (winDone (piecesWrite s [q] bs) x).mem q.pa q.len = bs := by
  have hmem : (winDone (piecesWrite s [q] bs) x).mem = memWrite s.mem q.pa bs := by
    simp [piecesWrite, ← hl]
  have hread := memRead_memWrite_in s.mem hm q.pa 0 q.len bs (by omega)
  rw [hmem]
  simpa [← hl] using hread

/-! ### The machine and its packets (R326, R329 to R331, R333) -/

theorem program_starts {s : State} {x : CSlot} (hx : tget s.cslots s.iss.core = some x) (hp : x.phase = .queued)
    (hall : ∀ e ∈ s.cslots, e.1 % 24 = s.iss.core % 24 → e.2.phase ≠ .running ∧ (e.2.phase = .queued → x.order ≤ e.2.order)) :
    Quietly .caramelProgramStart s { s with cslots := tset s.cslots s.iss.core { x with phase := .running } } := by
  have he : exec .caramelProgramStart s = execCaramelProgramStart s := rfl
  refine ⟨?_, fun a => rfl⟩
  rw [he, execCaramelProgramStart, hx]
  dsimp only
  rw [if_pos, modSlot_of hx]
  simp only [hp, beq_self_eq_true, Bool.true_and, Bool.and_eq_true, Bool.not_eq_true', List.any_eq_false, List.mem_filter, slotUnit,
    beq_iff_eq, decide_eq_true_eq, not_and, Nat.not_lt]
  exact ⟨fun e he => (hall e he.1 he.2).1, fun e he => (hall e he.1 he.2).2⟩

section

variable {s : State} {pkg req : Nat} {p : CPacket} (hm : s.msg = some (.carPacket pkg req p)) (hne : pkg ≠ s.pkgid)

include hm

theorem packetArrival_eq : exec .caramelPacketArrival s = packetArrives s pkg req p := by
  have he : exec .caramelPacketArrival s = execCaramelPacketArrival s := rfl
  rw [he, execCaramelPacketArrival, hm]

include hne

theorem packet_held (hn : tget s.cslots p.slot = none) :
    ((s.heldPk.filter (fun q => q.slot == p.slot)).length < 16 →
      Quietly .caramelPacketArrival s (sendTo { s with heldPk := s.heldPk ++ [p] } pkg (.carTransferAck p.slot req)))
    ∧ (16 ≤ (s.heldPk.filter (fun q => q.slot == p.slot)).length →
        Quietly .caramelPacketArrival s (sendTo s pkg (.remoteAnswer req 1 [] s.inc))) := by
  refine ⟨fun hl => ⟨?_, fun a => by rw [sendTo_mem]⟩, fun hl => ⟨?_, fun a => by rw [sendTo_mem]⟩⟩
  · rw [packetArrival_eq hm, packetArrives, hn]
    dsimp only
    rw [if_neg (by omega), carAck, if_neg hne, ackPacket]
  · rw [packetArrival_eq hm, packetArrives, hn]
    dsimp only
    rw [if_pos hl, packetBusy, if_neg hne, answer]

theorem packet_fills {x : CSlot} {i : Nat} (hx : tget s.cslots p.slot = some x) (hp : x.phase ≠ .ended) (hseq : p.seq = cSeq x.rec_)
    (hep : p.epoch = x.epoch) (hi : x.b.findIdx? (fun b => b == .expect p.src p.seg) = some i)
    (hf : x.filled.contains (p.src, p.seg) = false) :
    Quietly .caramelPacketArrival s (sendTo { s with cslots := tset s.cslots p.slot { x with
      b := x.b.set i (.full p.seg p.ty p.tag p.items), filled := (p.src, p.seg) :: x.filled, bad := x.bad.filter (· != i),
      waiting := false } } pkg (.carTransferAck p.slot req)) := by
  have hold : olderSerial (cSeq x.rec_) (cSeq x.rec_) = false := by simp [olderSerial]
  have hlive : x.live = true := by simpa [CSlot.live] using hp
  have hexp : expectOf x p = some i := hi
  refine ⟨?_, fun a => by rw [sendTo_mem]⟩
  rw [packetArrival_eq hm, packetArrives, hx]
  simp only [hold, Bool.false_eq_true, if_false, hseq, bne_self_eq_false, hlive, Bool.not_true, hep, hexp, hf]
  rw [modSlot_of hx, carAck, if_neg hne]
  rfl

end

theorem transfer_acked {s : State} {slot id : Nat} {x : CSlot} (hm : s.msg = some (.carTransferAck slot id)) (hx : tget s.cslots slot = some x) :
    ∃ t, Quietly .caramelTransferAck s t
      ∧ tget t.cslots slot = some { x with out := x.out.filter (fun y => y.id != id), waiting := false } := by
  have he : exec .caramelTransferAck s = execCaramelTransferAck s := rfl
  refine ⟨transferDone s slot id, ⟨?_, fun a => ?_⟩, ?_⟩
  · rw [he, execCaramelTransferAck, hm]
  · rw [transferDone, wakeSlot_mem, modSlot_mem]
  · rw [transferDone, modSlot_of (by exact hx), wakeSlot, modSlot_of (tget_tset_self ..)]
    exact tget_tset_self ..

theorem abort_received {s : State} {slot pkg req : Nat} {seq : BitVec 32} {x : CSlot} (hm : s.msg = some (.carAbort slot seq pkg req))
    (hx : tget s.cslots slot = some x) :
    ((x.phase = .ended ∨ cSeq x.rec_ ≠ seq) → Quietly .caramelAbortReceived s (sendTo s pkg (.remoteAnswer req 0 [] s.inc)))
    ∧ (x.phase ≠ .ended → cSeq x.rec_ = seq →
        exec .caramelAbortReceived s = .next (endProgram (sendTo s pkg (.remoteAnswer req 0 [] s.inc)) slot 6 0 pkg 0 0)) := by
  have he : exec .caramelAbortReceived s = execCaramelAbortReceived s := rfl
  obtain ⟨out, hout⟩ := sendTo_only s pkg (.remoteAnswer req 0 [] s.inc)
  have hx' : tget (sendTo s pkg (.remoteAnswer req 0 [] s.inc)).cslots slot = some x := by rw [hout, hx]
  rw [execCaramelAbortReceived, hm] at he
  simp only [answer, hx', CSlot.live] at he
  refine ⟨fun h => ⟨he.trans (if_neg ?_), fun a => by rw [sendTo_mem]⟩, fun hp hs => he.trans (if_pos ?_)⟩
  · rcases h with h | h <;> simp [h]
  · simp [hp, hs]

@[simp] theorem piecesWrite_sansMemory (s : State) (ps : List HubPiece) (bs : List Byte) : (piecesWrite s ps bs).sansMemory = s.sansMemory := by
  induction ps generalizing s bs with
  | nil => rfl
  | cons p ps ih => rw [piecesWrite, ih, homeWrite_sansMemory, l2TouchAll_sansMemory, meetUpsets_sansMemory]

theorem scat_performed {s : State} {x : CSlot} {sc : CScat} {rest : List CScat} {ps : List HubPiece} (hx : tget s.cslots s.iss.core = some x)
    (hs : x.scats = sc :: rest) (ha : hubAccess s x.ctx sc.va sc.bytes.length .write = .ok ps) :
    ∃ t, exec .scatWritesPerformed s = .next t ∧ tget t.cslots s.iss.core = some { x with scats := rest, waiting := false }
      ∧ ∀ a, memByte t.mem a = memByte (piecesWrite s ps sc.bytes).mem a := by
  have he : exec .scatWritesPerformed s = execScatWritesPerformed s := rfl
  have hx' : tget (piecesWrite s ps sc.bytes).cslots s.iss.core = some x := by
    rw [cslots_of_sansMemory (piecesWrite_sansMemory s ps sc.bytes), hx]
  rw [execScatWritesPerformed, hx] at he
  simp only [hs, ha] at he
  refine ⟨_, he, ?_, fun a => by rw [wakeSlot_mem, modSlot_mem]⟩
  rw [modSlot_of hx', wakeSlot, modSlot_of (tget_tset_self ..)]
  exact tget_tset_self ..

/-- Settles O51: each event of a collective unit, by what the slot and the window hold. -/
theorem collectiveEvents : Obligations.CollectiveEvents :=
  ⟨fun _ _ _ hw hc hf hal ha => ⟨arm_refused hw hf hc hal ha, fun _ _ _ hcode hall => arm_unreachable hw hf hc hal ha hcode hall,
      fun _ hcode hall => arm_queues hw hf hc hal ha hcode hall⟩,
    fun _ _ _ hw hf hs => ⟨seal_seals hw hf hs, disarm_disarms hw hf hs⟩,
    fun _ _ hw h0 h8 h10 => windowData_stores hw h0 h8 h10,
    fun _ _ _ => ⟨winPiece_foreign, winPiece_high,
      fun ho hn => winPiece_unarmed (by simp [boundElsewhere, hn]) ho hn,
      fun _ h ho hc => ⟨winPiece_outside h ho hc, fun hsrc hin => ⟨winPiece_otherKind h ho hc hsrc hin,
        fun _ hk ha => winPiece_ok h ho hc hsrc hin hk ha⟩⟩⟩,
    fun _ x q _ hm hl => winStore_read hm x q hl,
    fun _ _ hx hp hall => program_starts hx hp hall,
    fun _ _ _ _ hm hne => ⟨packet_held hm hne, fun _ _ hx hp hseq hep hi hf => packet_fills hm hne hx hp hseq hep hi hf⟩,
    fun _ _ _ _ hm hx => transfer_acked hm hx, fun _ _ _ _ _ _ hm hx => abort_received hm hx,
    fun _ _ _ _ _ hx hs ha => scat_performed hx hs ha⟩

end Sys2Proof.Machine

end

section
/-! Bring-up, resets and power (R349, R360, R364, R385, R387 to R392, R395, R398). -/

namespace Sys2Proof.Machine

/-! ### What the loss of the hub's state keeps -/

/-- The live peers and the record of the excluded dies are as they were, and no notice of a context's end is lost. -/
structure NoticesKept (s t : State) : Prop where
  live : livePeers t = livePeers s
  excl : t.excl = s.excl
  gone : ∀ r ∈ s.reqs, r.kind = .gone → r ∈ t.reqs

theorem NoticesKept.refl (s : State) : NoticesKept s s := ⟨rfl, rfl, fun _ hr _ => hr⟩

theorem NoticesKept.trans {s t u : State} (h : NoticesKept s t) (h' : NoticesKept t u) : NoticesKept s u :=
  ⟨h'.live.trans h.live, h'.excl.trans h.excl, fun r hr hk => h'.gone r (h.gone r hr hk) hk⟩

theorem takeHead_reqs (s : State) (p : Nat) : (takeHead s p).reqs = s.reqs := by
  simp only [takeHead]
  split <;> simp

theorem settleHead_reqs (s : State) : (settleHead s).reqs = s.reqs := by
  unfold settleHead
  split
  · rfl
  · split
    · exact takeHead_reqs _ _
    · split
      · rfl
      · exact (takeHead_reqs _ _).trans (by simp)

theorem settleTiles_reqs (s : State) (q : Nat) : (settleTiles s q).reqs = s.reqs := by
  refine foldl_keeps State.reqs _ (fun s core => ?_) _ _
  split
  · rfl
  · dsimp only
    split
    · rfl
    · simp

theorem liftForgotten_kept (s : State) (c : Nat) : NoticesKept s (liftTeam (forgetCore s c) c) :=
  ⟨rfl, rfl, fun r hr hk => List.mem_filter.2 ⟨hr, by simp [hk]⟩⟩

theorem NoticesKept.of_eq {s t : State} (h : t.sansLaunches = s.sansLaunches) (hd : t.reqs = s.reqs) : NoticesKept s t := by
  have hlive : livePeers t = livePeers s := by have e := congrArg livePeers h; exact e
  have hexcl : t.excl = s.excl := by have e := congrArg State.excl h; exact e
  exact ⟨hlive, hexcl, fun r hr _ => hd ▸ hr⟩

theorem dropLaunches_kept (s : State) (ctx : Nat) : NoticesKept s (dropLaunches s ctx) := by
  have hlift := foldl_related (R := NoticesKept) .refl .trans (f := fun s c => liftTeam (forgetCore s c) c) liftForgotten_kept
  refine (hlift ((s.teams.filter (fun e => ((s.launches.filter (fun e => e.2.ctx == ctx)).map (·.1)).contains e.2.launch)).map (·.1)) s).trans
    (.of_eq ?_ ?_)
  all_goals unfold dropLaunches
  · rw [settleHead_sansLaunches, foldl_keeps State.sansLaunches _ (fun _ _ => settleTiles_sansLaunches _ _)]
    rfl
  · rw [settleHead_reqs, foldl_keeps State.reqs _ (fun _ _ => settleTiles_reqs _ _)]
    rfl

theorem unbindMailbox_kept (s : State) (mb : Option Nat) : NoticesKept s (unbindMailbox s mb) := by
  unfold unbindMailbox
  split
  · unfold setMbox
    split
    · exact ⟨rfl, rfl, fun _ hr _ => hr⟩
    · exact ⟨rfl, rfl, fun _ hr _ => hr⟩
  · exact .refl s

theorem destroyContext_kept (s : State) (ctx : Nat) : NoticesKept s (destroyContext s ctx) := by
  have hdrop : NoticesKept (dropLaunches s ctx) (dropTranslations (dropLaunches s ctx) ⟨some ctx, 0, 2 ^ 56⟩) :=
    ⟨rfl, rfl, fun _ hr _ => hr⟩
  have hrel : NoticesKept (strippedContext s ctx) (releaseContext (strippedContext s ctx) ctx) :=
    ⟨rfl, rfl, fun r hr hk => List.mem_filter.2 ⟨hr, by simp [hk]⟩⟩
  obtain ⟨rs, stamp, out, h, -, -⟩ := notifyGone_only (releaseContext (strippedContext s ctx) ctx) (livePeers (strippedContext s ctx)) ctx
  refine (dropLaunches_kept s ctx).trans (hdrop.trans ((unbindMailbox_kept ..).trans (hrel.trans ?_)))
  rw [destroyContext_eq, h]
  exact ⟨rfl, rfl, fun r hr _ => List.mem_append_left _ hr⟩

/-- The contexts of a list end, one after another. -/
def destroyContexts (s : State) (l : List Nat) : State := l.foldl destroyContext s

theorem destroyContexts_kept (s : State) (l : List Nat) : NoticesKept s (destroyContexts s l) :=
  foldl_related (R := NoticesKept) .refl .trans destroyContext_kept l s

theorem destroyContexts_told (l : List Nat) (s : State) {k p : Nat} (hk : k ∈ l) (hp : p ∈ livePeers s) :
    ∃ r ∈ (destroyContexts s l).reqs, r.kind = .gone ∧ r.owner = p ∧ r.ctx = k := by
  induction l generalizing s with
  | nil => cases hk
  | cons c l ih =>
    rcases List.mem_cons.1 hk with rfl | hk
    · obtain ⟨-, -, -, -, htold, -⟩ := destroyContext_done s k
      obtain ⟨r, hr, hg, hrest⟩ := htold p hp
      exact ⟨r, (destroyContexts_kept (destroyContext s k) l).gone r hr hg, hg, hrest⟩
    · exact ih (destroyContext s c) hk ((destroyContext_kept s c).live.symm ▸ hp)

theorem hubLost_excl (s : State) : (hubLost s).excl = s.excl := by
  rw [← (destroyContexts_kept s (s.ctxs.map (·.1))).excl]
  have h := congrArg State.excl (applyAll_sansMemory (destroyContexts s (s.ctxs.map (·.1))))
  exact h

/-- Dies that change, each by its own, stay as excluded as they are. -/
theorem excluded_of_dies {s t : State} (f : Nat → Die → Die) (ht : t.dies = tmap f s.dies) (hf : ∀ d x, (f d x).excluded = x.excluded) (d : Nat) :
    (dieOf t d).excluded = (dieOf s d).excluded := by
  simp only [dieOf, tgetD, ht, tget_tmap]
  cases tget s.dies d <;> simp [hf]

theorem hubReset_mem (s : State) : (hubReset s).mem = s.mem := (rfl : (hubReset s).mem = (hubLost s).mem).trans (hubLost_mem s)

/-- A hub reset (R387, R389, R391). -/
theorem hubReset_done {s : State} (hm : s.msg = some .hubReset) : ∃ t, Quietly .hubReset s t ∧ t.stage = 0 ∧ t.svclvl = 0 ∧ t.teams = []
    ∧ t.ctxs = [] ∧ t.resultCache = [] ∧ t.streamRecs = [] ∧ t.exported = [] ∧ t.excl = s.excl
    ∧ ∀ d, (dieOf t d).excluded = (dieOf s d).excluded := by
  have he : exec .hubReset s = execHubReset s := rfl
  rw [execHubReset, hm] at he
  exact ⟨hubReset s, ⟨he, fun a => by rw [hubReset_mem]⟩, rfl, rfl, rfl, rfl, rfl, rfl, rfl, hubLost_excl s,
    fun d => excluded_of_dies (s := s) (t := hubReset s)
      (fun _ d => { Die.reset with excluded := d.excluded, spares := d.spares, slices := d.slices }) rfl (fun _ _ => rfl) d⟩

/-! ### The firmware's start (R24, R380, R387, R389) -/

theorem incsFull_of {s : State} {incs : List (Nat × Nat)} (h : ∀ p ∈ livePeers s, ∃ x ∈ incs, x.1 = p) : incsFull s incs = true := by
  simpa [incsFull] using h

theorem startFirmware_ctxs (s : State) (incs : List (Nat × Nat)) :
    (startFirmware s incs).ctxs = tset s.ctxs 0xFFF (createdContext (learnIncs s incs) none) := createContext_ctxs ..

theorem firmwareRestart_done {s : State} {incs : List (Nat × Nat)} (hm : s.msg = some (.firmwareRestart incs)) (hst : 3 ≤ s.stage)
    (hall : ∀ p ∈ livePeers s, ∃ x ∈ incs, x.1 = p) : ∃ t, Quietly .firmwareRestart s t ∧ t.resultCache = [] ∧ t.streamRecs = []
      ∧ t.launches = [] ∧ (∀ e ∈ s.ctxs, ∀ p ∈ livePeers s, ∃ r ∈ t.reqs, r.kind = .gone ∧ r.owner = p ∧ r.ctx = e.1)
      ∧ (∀ k, k ≠ 0xFFF → tget t.ctxs k = none) ∧ (tget t.ctxs 0xFFF).isSome = true := by
  have he : exec .firmwareRestart s = execFirmwareRestart s := rfl
  rw [execFirmwareRestart, hm] at he
  have hctxs : (startFirmware (hubLost s) incs).ctxs = tset [] 0xFFF (createdContext (learnIncs (hubLost s) incs) none) :=
    startFirmware_ctxs ..
  refine ⟨_, ⟨he.trans (if_pos (by simp [hst, incsFull_of hall])), fun a => by rw [bindMgmt_mem, startFirmware_mem, hubLost_mem]⟩,
    rfl, rfl, rfl, fun e hin p hp => ?_, fun k hk => ?_, ?_⟩
  · obtain ⟨r, hr, hg, hrest⟩ := destroyContexts_told (s.ctxs.map (·.1)) s (List.mem_map_of_mem hin) hp
    exact ⟨r, List.mem_filter.2 ⟨hr, by simp [hg]⟩, hg, hrest⟩
  · refine (congrArg (tget · k) hctxs).trans ?_
    rw [tget_tset_ne _ _ hk]
    rfl
  · refine (congrArg (fun t => (tget t 0xFFF).isSome) hctxs).trans ?_
    rw [tget_tset_self]
    rfl

theorem bootRom_eq {s : State} {ecdsa lms version firmware : Bool} {incs : List (Nat × Nat)}
    (hm : s.msg = some (.bootRom ecdsa lms version firmware incs)) (hst : s.stage < 2) (hf : s.bootFail = 0)
    (hall : ∀ p ∈ livePeers s, ∃ x ∈ incs, x.1 = p) :
    exec .bootRomVerify s =
      if !ecdsa then .next { s with powered := true, stage := 1, bootFail := 1 }
      else if !lms then .next { s with powered := true, stage := 1, bootFail := 2 }
      else if !version then .next { s with powered := true, stage := 1, bootFail := 3 }
      else if firmware then .next (startFirmware { s with powered := true, stage := 3 } incs)
      else if s.attempts < 3 then
        .next { hubReset { s with powered := true, stage := 1 } with stage := 1, attempts := s.attempts + 1 }
      else .next { s with powered := true, stage := 2, bootFail := 4 } := by
  have he : exec .bootRomVerify s = execBootRomVerify s := rfl
  rw [he, execBootRomVerify]
  split
  · rename_i heq
    obtain ⟨rfl, rfl, rfl, rfl, rfl⟩ : ecdsa = _ ∧ lms = _ ∧ version = _ ∧ firmware = _ ∧ incs = _ := by simpa [hm] using heq
    exact if_neg (by simp [hf, incsFull_of hall]; omega)
  · rename_i hno
    exact absurd hm (hno _ _ _ _ _)

theorem bootRom_done {s : State} {ecdsa lms version firmware : Bool} {incs : List (Nat × Nat)}
    (hm : s.msg = some (.bootRom ecdsa lms version firmware incs)) (hst : s.stage < 2) (hf : s.bootFail = 0)
    (hall : ∀ p ∈ livePeers s, ∃ x ∈ incs, x.1 = p) :
    let on := { s with powered := true, stage := 1 }
    (ecdsa = false → Quietly .bootRomVerify s { on with bootFail := 1 })
    ∧ (ecdsa = true → lms = false → Quietly .bootRomVerify s { on with bootFail := 2 })
    ∧ (ecdsa = true → lms = true → version = false → Quietly .bootRomVerify s { on with bootFail := 3 })
    ∧ (ecdsa = true → lms = true → version = true →
        (firmware = true → ∃ t, Quietly .bootRomVerify s t ∧ t.stage = 3 ∧ (tget t.ctxs 0xFFF).isSome = true)
        ∧ (firmware = false → s.attempts < 3 → ∃ t, Quietly .bootRomVerify s t ∧ t.stage = 1 ∧ t.attempts = s.attempts + 1 ∧ t.bootFail = 0)
        ∧ (firmware = false → 3 ≤ s.attempts → Quietly .bootRomVerify s { on with stage := 2, bootFail := 4 })) := by
  have he := bootRom_eq hm hst hf hall
  refine ⟨fun h1 => ⟨he.trans (if_pos (by simp [h1])), fun _ => rfl⟩, fun h1 h2 => ⟨he.trans ?_, fun _ => rfl⟩,
    fun h1 h2 h3 => ⟨he.trans ?_, fun _ => rfl⟩, fun h1 h2 h3 => ?_⟩
  · rw [if_neg (by simp [h1]), if_pos (by simp [h2])]
  · rw [if_neg (by simp [h1]), if_neg (by simp [h2]), if_pos (by simp [h3])]
  · rw [if_neg (by simp [h1]), if_neg (by simp [h2]), if_neg (by simp [h3])] at he
    refine ⟨fun h4 => ⟨_, ⟨he.trans (if_pos h4), fun a => by rw [startFirmware_mem]⟩, rfl, ?_⟩, fun h4 ha => ?_, fun h4 ha => ?_⟩
    · rw [startFirmware_ctxs, tget_tset_self]
      rfl
    · rw [if_neg (by simp [h4]), if_pos ha] at he
      exact ⟨_, ⟨he, fun a => by exact congrArg (memByte · a) (hubReset_mem _)⟩, rfl, rfl, rfl⟩
    · rw [if_neg (by simp [h4]), if_neg (Nat.not_lt.2 ha)] at he
      exact ⟨he, fun _ => rfl⟩

/-! ### Dies and engines (R389, R390, R392) -/

/-- A test of the boot changes the core's register and the count of free values. -/
theorem bootTest_only (pass : Bool) (k : Nat) (s : State) (c : Nat) : ∃ cs n, bootTest pass k s c = { s with cores := cs, free := n } := by
  unfold bootTest
  split
  · exact ⟨_, s.free, rfl⟩
  · exact ⟨_, _, rfl⟩

theorem bootEngine_only (bad : List Nat) (s : State) (q : Nat) : ∃ cs n, bootEngine bad s q = { s with cores := cs, free := n } := by
  unfold bootEngine
  split
  · exact bootTest_only ..
  · exact ⟨s.cores, s.free, rfl⟩

/-- Steps that change the cores and the count of free values change nothing else together. -/
theorem foldl_coresFree {f : State → Nat → State} (hf : ∀ s a, ∃ cs n, f s a = { s with cores := cs, free := n }) (l : List Nat) (s : State) :
    ∃ cs n, l.foldl f s = { s with cores := cs, free := n } := by
  refine List.foldlRecOn (motive := fun u => ∃ cs n, u = ({ s with cores := cs, free := n } : State)) l f ⟨s.cores, s.free, rfl⟩
    fun u hu a _ => ?_
  obtain ⟨cs, n, rfl⟩ := hu
  obtain ⟨cs', n', h⟩ := hf { s with cores := cs, free := n } a
  exact ⟨cs', n', h⟩

/-- A property of what a list of steps makes of a state, that its step makes true and that every step keeps. -/
theorem foldl_makes {f : State → Nat → State} {P : Nat → State → Prop} {Q : Nat → Prop} (hmake : ∀ s a, Q a → P a (f s a))
    (hkeep : ∀ s a b, P a s → P a (f s b)) {l : List Nat} {a : Nat} (ha : a ∈ l) (hq : Q a) (s : State) : P a (l.foldl f s) := by
  have keep (l : List Nat) (s : State) (h : P a s) : P a (l.foldl f s) :=
    List.foldlRecOn (motive := P a) l f h fun u hu b _ => hkeep u a b hu
  induction l generalizing s with
  | nil => cases ha
  | cons b l ih =>
    rcases List.mem_cons.1 ha with rfl | ha
    · exact keep l _ (hmake s a hq)
    · exact ih ha (f s b)

theorem bootTests_pass {l : List Nat} {c : Nat} (hc : c ∈ l) (k : Nat) (s : State) :
    (coreRegs (l.foldl (bootTest true k) s) c).selftest = selftestWord k 0 0 0 := by
  refine foldl_makes (f := bootTest true k) (P := fun c s => (coreRegs s c).selftest = selftestWord k 0 0 0) (Q := fun _ => True)
    (fun s a _ => ?_) (fun s a b h => ?_) hc trivial s
  · exact congrArg CoreRegs.selftest (coreRegs_modCore_self s a (fun c => { c with selftest := selftestWord k 0 0 0 }))
  · by_cases hab : a = b
    · subst hab
      exact congrArg CoreRegs.selftest (coreRegs_modCore_self s a (fun c => { c with selftest := selftestWord k 0 0 0 }))
    · exact (congrArg CoreRegs.selftest (coreRegs_modCore_ne s hab (fun c => { c with selftest := selftestWord k 0 0 0 }))).trans h

theorem excludeDie_done (s : State) (d : Nat) :
    (dieOf (excludeDie s d) d).excluded = true ∧ (excludeDie s d).excl = s.excl + 2 ^ d ∧ (excludeDie s d).svclvl = s.svclvl := by
  unfold excludeDie appendRt
  split <;> exact ⟨congrArg Die.excluded (dieOf_modDie_self s d (fun x => { x with excluded := true })), rfl, rfl⟩

section

variable {s : State} {d : Nat} {power train init selftest : Bool} (hm : s.msg = some (.dieAdmission d power train init selftest))
  (hst : s.stage = 3) (hd : d < 8) (hno : dieDone s d = false) (hall : ∀ i, i < d → dieDone s i = true)

/-- A die as it is admitted. -/
def admitDie (s : State) (d : Nat) : State :=
  bindMgmt { modDie s d (fun x => { x with admitted := true }) with admits := s.admits + 2 ^ d, svclvl := if s.svclvl = 0 then 1 else s.svclvl }

include hm hst hd hno hall

theorem dieAdmission_eq : exec .dieAdmission s = if !(power && train && init) then .next (excludeDie s d)
    else if !selftest then .next (excludeDie ((dieCores s d).foldl (bootTest selftest 3) s) d)
    else .next (admitDie ((dieCores s d).foldl (bootTest selftest 3) s) d) := by
  have he : exec .dieAdmission s = execDieAdmission s := rfl
  have hfind : (List.range 8).find? (fun i => !dieDone s i) = some d := by
    rw [List.find?_range_eq_some]
    exact ⟨by simp [hno], List.mem_range.2 hd, fun i hi => by simp [hall i hi]⟩
  rw [he, execDieAdmission, hm]
  dsimp only
  rw [hfind, if_neg (by simp [hst])]
  rfl

theorem dieAdmission_done : ∃ t, Quietly .dieAdmission s t
    ∧ ((power && train && init && selftest) = true → (dieOf t d).admitted = true ∧ t.admits = s.admits + 2 ^ d
        ∧ t.svclvl = (if s.svclvl = 0 then 1 else s.svclvl)
        ∧ ∀ c ∈ dieCores s d, (coreRegs t c).selftest = selftestWord 3 0 0 0)
    ∧ ((power && train && init && selftest) = false → (dieOf t d).excluded = true ∧ t.excl = s.excl + 2 ^ d
        ∧ t.svclvl = s.svclvl) := by
  have he := dieAdmission_eq hm hst hd hno hall
  obtain ⟨cs, n, htests⟩ := foldl_coresFree (bootTest_only selftest 3) (dieCores s d) s
  cases hpti : power && train && init with
  | false =>
    rw [hpti] at he
    exact ⟨_, ⟨he, fun a => by rw [excludeDie_mem]⟩, fun h => (by simp at h), fun _ => excludeDie_done s d⟩
  | true =>
    rw [hpti] at he
    cases hs : selftest with
    | false =>
      rw [hs] at he htests
      rw [htests] at he
      exact ⟨_, ⟨he, fun a => by rw [excludeDie_mem]⟩, fun h => (by simp at h), fun _ => excludeDie_done { s with cores := cs, free := n } d⟩
    | true =>
      rw [hs] at he htests
      have htest := fun c (hc : c ∈ dieCores s d) => bootTests_pass hc 3 s
      rw [htests] at he htest
      exact ⟨_, ⟨he, fun _ => rfl⟩, fun _ => ⟨congrArg Die.admitted (dieOf_modDie_self s d (fun x => { x with admitted := true })), rfl, rfl, htest⟩,
        fun h => (by simp at h)⟩

end

/-- A failing engine is recorded and disabled. -/
def failEngine (s : State) (q : Nat) : State := disableEngine q (appendRt s 5 (q / 12) (q % 12) 0)

theorem failEngine_only (s : State) (q : Nat) : ∃ es rt, failEngine s q = { s with engines := es, defrt := rt } := by
  unfold failEngine appendRt
  split
  · exact ⟨_, _, rfl⟩
  · exact ⟨_, s.defrt, rfl⟩

theorem failEngine_disables (s : State) (q : Nat) : (engineOf (failEngine s q) q).disabled = true := by
  rw [failEngine, disableEngine, engineOf_modEngine]
  split
  · assumption
  · rfl

theorem engineOf_modEngine_ne (s : State) {q j : Nat} (h : j ≠ q) (f : Engine → Engine) : engineOf (modEngine s q f) j = engineOf s j := by
  simp [engineOf, modEngine, tgetD, tget_tset_ne _ _ h]

theorem failEngine_keeps (s : State) (a b : Nat) (h : (engineOf s a).disabled = true) : (engineOf (failEngine s b) a).disabled = true := by
  by_cases hab : a = b
  · subst hab
    exact failEngine_disables s a
  · rw [failEngine, disableEngine, engineOf_modEngine_ne _ hab]
    unfold appendRt
    split <;> exact h

theorem failEngines_only (l : List Nat) (s : State) : ∃ es rt, l.foldl failEngine s = { s with engines := es, defrt := rt } := by
  refine List.foldlRecOn (motive := fun u => ∃ es rt, u = ({ s with engines := es, defrt := rt } : State)) l _ ⟨s.engines, s.defrt, rfl⟩
    fun u hu a _ => ?_
  obtain ⟨es, rt, rfl⟩ := hu
  obtain ⟨es', rt', h⟩ := failEngine_only { s with engines := es, defrt := rt } a
  exact ⟨es', rt', h⟩

/-- The engines that a boot tests. -/
def testedEngines (s : State) : List Nat := (List.range 96).filter (fun q => (dieOf s (q / 12)).admitted && quadAlive s q)

theorem engineSelftest_done {s : State} {bad : List Nat} (hm : s.msg = some (.engineSelftest bad)) (hst : s.stage = 3)
    (hall : ∀ i, i < 8 → dieDone s i = true) : ∃ t, Quietly .engineSelftestStage s t ∧ t.stage = 4 ∧ (s.admits = 0xFF → t.svclvl = 2)
      ∧ (s.admits ≠ 0xFF → t.svclvl = s.svclvl)
      ∧ ∀ q ∈ bad, q < 96 → (dieOf s (q / 12)).admitted = true → quadAlive s q = true → (engineOf t q).disabled = true := by
  have he : exec .engineSelftestStage s = execEngineSelftestStage s := rfl
  have hdone : (List.range 8).all (dieDone s) = true := List.all_eq_true.2 fun i hi => hall i (List.mem_range.1 hi)
  obtain ⟨cs, n, htests⟩ := foldl_coresFree (bootEngine_only bad) (testedEngines s) s
  obtain ⟨es, rt, hfails⟩ := failEngines_only ((testedEngines s).filter (fun q => bad.contains q)) { s with cores := cs, free := n }
  rw [execEngineSelftestStage, hm] at he
  dsimp only at he
  rw [if_neg (by simp [hst, hdone])] at he
  refine ⟨{ (((testedEngines s).filter (fun q => bad.contains q)).foldl failEngine ((testedEngines s).foldl (bootEngine bad) s)) with
    stage := 4,
    svclvl := if (((testedEngines s).filter (fun q => bad.contains q)).foldl failEngine ((testedEngines s).foldl (bootEngine bad) s)).admits = 0xFF
      then 2 else (((testedEngines s).filter (fun q => bad.contains q)).foldl failEngine ((testedEngines s).foldl (bootEngine bad) s)).svclvl },
    ⟨he, ?_⟩, rfl, ?_⟩
  all_goals rw [htests]
  · rw [hfails]
    exact fun _ => rfl
  · refine ⟨fun h => ?_, fun h => ?_, fun q hq hlt ha hqa => ?_⟩
    · rw [hfails]
      exact if_pos h
    · rw [hfails]
      exact if_neg h
    · refine foldl_makes (f := failEngine) (P := fun q s => (engineOf s q).disabled = true) (Q := fun _ => True)
        (fun s q _ => failEngine_disables s q) failEngine_keeps (a := q) ?_ trivial { s with cores := cs, free := n }
      exact List.mem_filter.2 ⟨List.mem_filter.2 ⟨List.mem_range.2 hlt, by simp [ha, hqa]⟩, by simpa using hq⟩

/-! ### Power, the log and BAR0 (R349, R360, R364, R387, R398) -/

/-- A die runs at its lower clock. -/
def throttleDie (s : State) (d : Nat) : State := modDie s d (fun x => { x with throttled := true })

theorem dieOf_modDie_ne (s : State) {d j : Nat} (h : j ≠ d) (f : Die → Die) : dieOf (modDie s d f) j = dieOf s j := by
  simp [dieOf, modDie, tgetD, tget_tset_ne _ _ h]

theorem throttleDie_throttles (s : State) (d : Nat) : (dieOf (throttleDie s d) d).throttled = true :=
  congrArg Die.throttled (dieOf_modDie_self s d (fun x => { x with throttled := true }))

theorem throttle_done {s : State} {ds : List Nat} (hm : s.msg = some (.throttle ds)) :
    ∃ t, Quietly .thermalThrottle s t ∧ t = { s with dies := t.dies } ∧ ∀ d ∈ ds, d < 8 → (dieOf t d).throttled = true := by
  have he : exec .thermalThrottle s = execThermalThrottle s := rfl
  rw [execThermalThrottle, hm] at he
  have honly : (ds.filter (fun d => decide (d < 8))).foldl throttleDie s
      = { s with dies := ((ds.filter (fun d => decide (d < 8))).foldl throttleDie s).dies } := by
    refine List.foldlRecOn (motive := fun u => u = ({ s with dies := u.dies } : State)) _ _ rfl fun u hu a _ => ?_
    rw [throttleDie, modDie, hu]
  refine ⟨_, ⟨he, fun a => ?_⟩, honly, fun d hd hlt => ?_⟩
  · have h := congrArg (fun u : State => memByte u.mem a) honly
    exact h
  · refine foldl_makes (f := throttleDie) (P := fun d s => (dieOf s d).throttled = true) (Q := fun _ => True)
      (fun s d _ => throttleDie_throttles s d) (fun s a b h => ?_) (a := d) (List.mem_filter.2 ⟨hd, by simpa using hlt⟩) trivial s
    by_cases hab : a = b
    · subst hab
      exact throttleDie_throttles s a
    · rw [throttleDie, dieOf_modDie_ne s hab]
      exact h

theorem recover_done {s : State} (hm : s.msg = some .recover) :
    ∃ t, Quietly .thermalRecover s t ∧ t = { s with dies := t.dies } ∧ ∀ d, (dieOf t d).throttled = false := by
  have he : exec .thermalRecover s = .next { s with dies := tmap (fun _ d => { d with throttled := false }) s.dies } := by
    have he : exec .thermalRecover s = execThermalRecover s := rfl
    rw [he, execThermalRecover]
    split
    · rfl
    · exact absurd hm ‹_›
  refine ⟨_, ⟨he, fun _ => rfl⟩, rfl, fun d => ?_⟩
  simp only [dieOf, tgetD, tget_tmap]
  cases tget s.dies d <;> rfl

theorem nbit_valid (x : Nat) : nbit (word (x % 2 ^ 52 + 2 ^ 63)).toNat 63 = true := by
  simp only [nbit, word, BitVec.toNat_ofNat, beq_iff_eq]
  omega

/-- A violation is in the log, at its address where the log was empty (R349, R364). -/
theorem logViolation_logs (s : State) (pa : Nat) : nbit (logViolation s pa).elogaddr.toNat 63 = true
    ∧ (nbit s.elogaddr.toNat 63 = false → (logViolation s pa).elogaddr = word (pa % 2 ^ 52 + 2 ^ 63)) := by
  unfold logViolation logEvent
  split
  next h => exact ⟨h, fun h' => by simp [h] at h'⟩
  next h => exact ⟨nbit_valid pa, fun _ => rfl⟩

theorem bar0Invalid_done {s : State} {wr : Bool} {off : Nat} (hm : s.msg = some (.hostBar0 wr off)) (hoff : bar0Register off = false)
    (hst : 3 ≤ s.stage) : ∃ t, Quietly .hostBar0InvalidAccess s t ∧ (wr = false → t.hostRead = 0) ∧ nbit t.elogaddr.toNat 63 = true
      ∧ (nbit s.elogaddr.toNat 63 = false → t.elogaddr = word (off % 2 ^ 52 + 2 ^ 63)) := by
  have he : exec .hostBar0InvalidAccess s = execHostBar0InvalidAccess s := rfl
  rw [execHostBar0InvalidAccess, hm] at he
  dsimp only at he
  rw [if_neg (by simp [hoff]), if_pos ((bar0Open_iff s).2 hst)] at he
  refine ⟨_, ⟨he, fun a => ?_⟩, fun h => ?_, ?_⟩
  · split <;> simp
  · rw [h]
    rfl
  · split <;> exact logViolation_logs s off

/-- Settles O55: each check, reset and event of power leaves what its entry says. -/
theorem bootAndPower : Obligations.BootAndPower := by
  refine ⟨fun _ _ _ _ _ _ hm hst hf hall => bootRom_done hm hst hf hall,
    fun _ _ _ _ _ _ hm hst hd hno hall => dieAdmission_done hm hst hd hno hall,
    fun _ _ hm hst hall => engineSelftest_done hm hst hall, fun s => ?_, fun _ hm => hubReset_done hm,
    fun _ _ hm hst hall => firmwareRestart_done hm hst hall, fun _ _ hm => throttle_done hm, fun _ hm => recover_done hm,
    fun s d hm => ?_, fun s hm => ?_, fun _ _ _ hm hoff hst => bar0Invalid_done hm hoff hst⟩
  · refine ⟨fun hm => ?_, fun hm => ?_, rfl, rfl, rfl, rfl, rfl, rfl, rfl, rfl, rfl, rfl, rfl⟩
    · have he : exec .powerOff s = execPowerOff s := rfl
      rw [he, execPowerOff, hm]
    · have he : exec .overTemperatureTrip s = execOverTemperatureTrip s := rfl
      rw [he, execOverTemperatureTrip, hm]
  · have he : exec .correctionWindowEnd s = execCorrectionWindowEnd s := rfl
    rw [execCorrectionWindowEnd, hm] at he
    exact ⟨_, ⟨he, fun _ => rfl⟩, rfl, dieOf_modDie_self s d (fun x => { x with corr := [] })⟩
  · have he : exec .elogAck s = execElogAck s := rfl
    exact ⟨by rw [he, execElogAck]; split <;> simp_all, fun _ => rfl⟩

end Sys2Proof.Machine

end

section
/-! The events of launches and teams (R23, R27, R30 to R37, R350, R352, R382 to R384). -/

namespace Sys2Proof.Machine

/-! ### Dependences (R30) -/

theorem waitingLaunch_of {s : State} {l : Launch} (hl : launchAt s s.iss.id = some l) (hst : l.st = .waiting) : waitingLaunch s = some l := by
  simp [waitingLaunch, hl, hst]

/-- A DEP that is latched stays latched (R30). -/
theorem sampleDeps_latched (s : State) (l : Launch) {i : Nat} (hi : i < l.deps.length) (h : l.deps.getD i false = true) :
    (sampleDeps s l).deps.getD i false = true := by
  rw [List.getD_eq_getElem _ _ hi] at h
  rw [List.getD_eq_getElem _ _ (by simpa [sampleDeps] using hi)]
  simp [sampleDeps, h]

theorem depSampleTimer_done {s : State} {l : Launch} (hl : launchAt s s.iss.id = some l) (hst : l.st = .waiting) :
    Quietly .depSampleTimer s (sampleLaunch s s.iss.id l) := by
  have he : exec .depSampleTimer s = execDepSampleTimer s := rfl
  rw [execDepSampleTimer, waitingLaunch_of hl hst] at he
  exact ⟨he, fun a => by rw [sampleLaunch_mem]⟩

theorem depSampleOnUpdate_done {s : State} {l : Launch} (hl : launchAt s s.iss.id = some l) (hst : l.st = .waiting)
    (hnew : (sampleDeps s l).deps ≠ l.deps) : Quietly .depSampleOnUpdate s (sampleLaunch s s.iss.id l) := by
  have he : exec .depSampleOnUpdate s = execDepSampleOnUpdate s := rfl
  rw [execDepSampleOnUpdate, waitingLaunch_of hl hst] at he
  exact ⟨he.trans (if_pos (by simpa using hnew)), fun a => by rw [sampleLaunch_mem]⟩

/-! ### Dispatch and preemption (R32 to R37) -/

theorem noRects {s : State} {n : Nat} (h : ∀ r ∈ s.rects, r.1 ≠ n) : s.rects.any (fun r => r.1 == n) = false := by
  simpa using h

theorem clusterDispatch_done {s : State} {n k : Nat} {l : Launch} {cores : List Nat} (hh : s.head = some n) (hl : launchAt s n = some l)
    (hw : l.dictWait = false) (hb : beingHalted s n = false) (hr : ∀ r ∈ s.rects, r.1 ≠ n) (hk : nextCluster l = some k)
    (hf : firstFit s n (recShape l.rec_) = some cores) :
    exec .clusterDispatch s = .next (settleToken (settlePlacing (dispatchCluster s n k l cores) n) n) := by
  change execClusterDispatch s = _
  simp [execClusterDispatch, hh, hl, hw, hb, noRects hr, hk, hf]

theorem firstFit_free {s : State} {n shape : Nat} {cores : List Nat} (h : firstFit s n shape = some cores) : ∀ c ∈ cores, coreFree s n c = true :=
  List.all_eq_true.1 (List.find?_some (p := fun r : List Nat => r.all (coreFree s n)) h)

theorem priorityPreemption_done {s : State} {n : Nat} {l : Launch} {cores : List Nat} (hh : s.head = some n) (hl : launchAt s n = some l)
    (hw : l.dictWait = false) (hk : (nextCluster l).isSome = true) (hb : beingHalted s n = false) (hr : ∀ r ∈ s.rects, r.1 ≠ n)
    (hf : firstFit s n (recShape l.rec_) = none) (hv : chooseVictims s (recPrio l.rec_) (recShape l.rec_) = some cores)
    (hne : occupants s cores ≠ []) :
    exec .priorityPreemption s = .next { s with
      teams := tmap (fun _ t => if (occupants s cores).contains (t.launch, t.cix) then { t with stopping := true } else t) s.teams,
      preempting := s.preempting ++ (occupants s cores).filter (fun v => !s.preempting.contains v),
      rects := s.rects ++ [(n, cores, occupants s cores)] } := by
  obtain ⟨k, hk⟩ := Option.isSome_iff_exists.1 hk
  change execPriorityPreemption s = _
  simp [execPriorityPreemption, hh, hl, hw, hb, noRects hr, hk, hf, hv, hne]

/-! ### What the choice of a head and the binding of tiles keep of saved clusters -/

/-- The saved clusters, and those that are being halted. -/
def State.stopped (s : State) : List Image × List (Nat × Nat) := (s.images, s.preempting)

@[simp] theorem modLaunch_stopped (s : State) (n : Nat) (f : Launch → Launch) : (modLaunch s n f).stopped = s.stopped := by
  unfold modLaunch; split <;> rfl

@[simp] theorem modTeam_stopped (s : State) (k : Nat) (f : Team → Team) : (modTeam s k f).stopped = s.stopped := by
  unfold modTeam; split <;> rfl

theorem takeHead_stopped (s : State) (p : Nat) : (takeHead s p).stopped = s.stopped := by
  simp only [takeHead]
  split
  · rfl
  · exact modLaunch_stopped _ _ _

theorem settleHead_stopped (s : State) : (settleHead s).stopped = s.stopped := by
  unfold settleHead
  split
  · rfl
  · split
    · exact takeHead_stopped _ _
    · split
      · rfl
      · exact (takeHead_stopped _ _).trans (modLaunch_stopped _ _ _)

theorem settleTiles_stopped (s : State) (q : Nat) : (settleTiles s q).stopped = s.stopped := by
  refine foldl_keeps State.stopped _ (fun s core => ?_) _ _
  split
  · rfl
  · dsimp only
    split
    · rfl
    · exact modTeam_stopped _ _ _

/-- The state once a launch has been changed twice and what a saved cluster leaves is free. -/
def settled (s : State) (n : Nat) (f g : Launch → Launch) (ts : List (Nat × Team)) : State :=
  settleHead (ts.foldl (fun s e => settleTiles s (quadNo e.1)) (settleRects (modLaunch (modLaunch s n f) n g)))

theorem settled_stopped (s : State) (n : Nat) (f g : Launch → Launch) (ts : List (Nat × Team)) :
    (settled s n f g ts).stopped = s.stopped := by
  rw [settled, settleHead_stopped, foldl_keeps State.stopped _ (fun _ _ => settleTiles_stopped _ _)]
  exact (modLaunch_stopped _ _ _).trans (modLaunch_stopped _ _ _)

theorem settled_mem (s : State) (n : Nat) (f g : Launch → Launch) (ts : List (Nat × Team)) : (settled s n f g ts).mem = s.mem := by
  rw [settled, settleHead_mem, foldl_keeps State.mem _ (fun _ _ => settleTiles_mem _ _)]
  simp [settleRects]

/-- The teams of a cluster are saved, one after another: the state without them, and what the image holds. -/
def saveTeams (s : State) (ts : List (Nat × Team)) : State × List (Nat × Team × List Req) :=
  ts.foldl (fun (a : State × List (Nat × Team × List Req)) e =>
    let x := saveTeam a.1 e.1
    (x.1, a.2 ++ x.2.toList)) (s, [])

theorem saveTeams_mem (s : State) (ts : List (Nat × Team)) : (saveTeams s ts).1.mem = s.mem :=
  foldl_keeps (fun a : State × List (Nat × Team × List Req) => a.1.mem) _ (fun _ _ => saveTeam_mem _ _) (s, []) ts

/-- The state in which a cluster's image is kept and it is no longer being halted. -/
def imageKept (s : State) (n cix : Nat) (old : List Nat) : State :=
  let r := saveTeams s (residentTeams s n cix)
  { r.1 with images := r.1.images ++ [⟨n, cix, old, r.2⟩], preempting := r.1.preempting.filter (· != (n, cix)) }

theorem preemptionHalted_done {s : State} {n cix k : Nat} {l : Launch} (hp : s.preempting[s.iss.id]? = some (n, cix))
    (hl : launchAt s n = some l) (hk : clusterIndex l cix = some k) (hh : ∀ e ∈ residentTeams s n cix, teamHalted s e.1 e.2 = true) :
    ∃ t, Quietly .preemptionHalted s t ∧ (n, cix) ∉ t.preempting ∧ ∃ i ∈ t.images, i.launch = n ∧ i.cix = cix := by
  have hb : ((launchAt s n).bind fun l => (clusterIndex l cix).map fun k => (l, k)) = some (l, k) := by simp [hl, hk]
  obtain ⟨old, f, g, he⟩ : ∃ old f g, exec .preemptionHalted s = .next (settled (imageKept s n cix old) n f g (residentTeams s n cix)) := by
    have he : exec .preemptionHalted s = execPreemptionHalted s := rfl
    rw [execPreemptionHalted, hp] at he
    dsimp only at he
    rw [hb] at he
    exact ⟨_, _, _, he.trans (if_neg (by simpa using hh))⟩
  have hs := settled_stopped (imageKept s n cix old) n f g (residentTeams s n cix)
  have himg : (settled (imageKept s n cix old) n f g (residentTeams s n cix)).images = (imageKept s n cix old).images := congrArg Prod.fst hs
  have hpre : (settled (imageKept s n cix old) n f g (residentTeams s n cix)).preempting = (imageKept s n cix old).preempting :=
    congrArg Prod.snd hs
  refine ⟨_, ⟨he, fun a => by rw [settled_mem]; exact congrArg (memByte · a) (saveTeams_mem s _)⟩, ?_, ?_⟩
  · rw [hpre]
    simp [imageKept]
  · rw [himg]
    exact ⟨⟨n, cix, old, _⟩, List.mem_append_right _ (List.mem_singleton_self _), rfl, rfl⟩

/-! ### The end of a team (R382, R383) -/

theorem teamEndChannelsQuiet_done {s : State} {t : Team} (ht : tget s.teams s.iss.core = some t) (hend : t.ending = .channels)
    (hch : ∀ c ∈ t.chan, c.st ≠ .active) : Quietly .teamEndChannelsQuiet s (setTeam s s.iss.core { t with ending := .engine }) := by
  refine ⟨?_, fun _ => rfl⟩
  change execTeamEndChannelsQuiet s = _
  rw [execTeamEndChannelsQuiet, ht]
  exact if_pos (by simpa [hend] using hch)

/-- The binding of resumed teams' tiles leaves a team alone that has none to bind. -/
theorem settleTiles_bound {s : State} {q core : Nat} {t : Team} (ht : tget s.teams core = some t) (he : t.eng = none) :
    tget (settleTiles s q).teams core = some t := by
  refine List.foldlRecOn (motive := fun s : State => tget s.teams core = some t) _ _ ht (fun s hs c _ => ?_)
  split
  · exact hs
  · rename_i k hk
    dsimp only
    split
    · exact hs
    · have hne : core ≠ c := fun h => by simp [← h, hs, he] at hk
      exact (modTeam_get_ne _ hne _).trans hs

/-- An ending team once its engine commands have completed: step 3 of Table 25.1. -/
def engineEnded (s : State) (t : Team) : Team :=
  { t with ending := .window, window := false, resv := [], opbuf := [],
           halt := match t.halt with | some h => some h | none => engineFault s s.iss.core }

theorem teamEndEngineDone_done {s : State} {t : Team} (ht : tget s.teams s.iss.core = some t) (hend : t.ending = .engine)
    (heng : t.eng = none) (hno : ∀ x ∈ (engineOf s (quadNo s.iss.core)).table, x.2.core ≠ s.iss.core) :
    ∃ u t', Quietly .teamEndEngineDone s u ∧ tget u.teams s.iss.core = some t' ∧ t'.ending = .window ∧ t'.window = false ∧ t'.resv = []
      ∧ t'.opbuf = [] ∧ t'.halt = (match t.halt with | some h => some h | none => engineFault s s.iss.core) := by
  have he : exec .teamEndEngineDone s = execTeamEndEngineDone s := rfl
  rw [execTeamEndEngineDone, ht] at he
  refine ⟨_, engineEnded s t, ⟨he.trans (if_neg (by simpa [hend, heng] using hno)), fun a => by simp⟩, settleTiles_bound ?_ heng,
    rfl, rfl, rfl, rfl, rfl⟩
  exact tget_tset_self ..

theorem peerWindowClosed {s : State} {t : Team} (ht : tget s.teams s.iss.core = some t) (hend : t.ending = .window)
    (hp : tget s.teams s.iss.id = none) (hu : unacked s s.iss.core t = []) (ha : peersAnswered s s.iss.core t = true)
    (htok : t.hasToken = false ∨ tokenFree s s.iss.core t = true) : exec .peerWindowCloseAck s = .next (endSteps s s.iss.core) := by
  change execPeerWindowCloseAck s = _
  simp [execPeerWindowCloseAck, ht, hend, hp, hu, ha, htok]

/-- A core has acknowledged the close of an ending team's window (R227). -/
def closeAcked (s : State) (t p : Team) : State :=
  modTeam (modTeam s s.iss.id (fun p => { p with closed := insertNat t.tix p.closed })) s.iss.core
    (fun t => { t with acked := insertNat p.tix t.acked })

theorem peerWindowAcked {s : State} {t p : Team} (ht : tget s.teams s.iss.core = some t) (hend : t.ending = .window)
    (hp : tget s.teams s.iss.id = some p) (hl : p.launch = t.launch) (hc : p.cix = t.cix) (hun : p.tix ∈ unacked s s.iss.core t)
    (hq : peerQuiet s p s.iss.id s.iss.core t.tix = true)
    (hleft : unacked (closeAcked s t p) s.iss.core { t with acked := insertNat p.tix t.acked } ≠ []) :
    Quietly .peerWindowCloseAck s (closeAcked s t p) := by
  have he : exec .peerWindowCloseAck s = execPeerWindowCloseAck s := rfl
  have hfil : (tget s.teams s.iss.id).filter (fun p => (unacked s s.iss.core t).contains p.tix && p.launch == t.launch && p.cix == t.cix)
      = some p := by simp [hp, hl, hc, hun, Option.filter]
  rw [execPeerWindowCloseAck, ht] at he
  dsimp only at he
  rw [if_neg (by simp [hend]), hfil] at he
  dsimp only at he
  rw [if_neg (by simp [hq])] at he
  simp only [modTeam_iss] at he
  refine ⟨he.trans (congrArg _ (if_neg fun h => hleft ?_)), fun a => by simp [closeAcked]⟩
  simp only [Bool.and_eq_true, List.isEmpty_iff] at h
  exact h.1.1

/-! ### The end of a launch (R23, R384) -/

/-- What DONE holds depends on memory alone. -/
theorem postDone_mem {s u : State} (l : Launch) (lost : Bool) {pa : Nat} (hpa : pa + 64 ≤ hbmTop) (h : s.mem = u.mem) :
    (postDone s l lost pa).mem = (postDone u l lost pa).mem := by
  unfold postDone
  dsimp only
  split
  · rw [postObject_mem _ _ _ _ _ _ _ _ _ _ hpa, postObject_mem _ _ _ _ _ _ _ _ _ _ hpa, h]
  · split
    · rw [postObject_mem _ _ _ _ _ _ _ _ _ _ hpa, postObject_mem _ _ _ _ _ _ _ _ _ _ hpa, h]
    · rw [postObject_mem _ _ _ _ _ _ _ _ _ _ hpa, postObject_mem _ _ _ _ _ _ _ _ _ _ hpa, h]

theorem writableMt0_below {s : State} {ctx va pa : Nat} (h : writableMt0 s ctx va = some pa) : pa + 64 ≤ hbmTop := by
  unfold writableMt0 at h
  split at h
  · dsimp only at h
    split at h
    · rename_i hc
      obtain rfl : _ = pa := Option.some.inj h
      simp only [Bool.and_eq_true, decide_eq_true_eq] at hc
      exact hc.2
    · cases h
  · cases h

theorem takeHead_absent {s : State} {p n : Nat} (h : launchAt s n = none) : launchAt (takeHead s p) n = none := by
  simp only [takeHead]
  split
  · exact h
  · exact (launchAt_modLaunch ..).trans (by simp [h])

theorem settleHead_absent {s : State} {n : Nat} (h : launchAt s n = none) : launchAt (settleHead s) n = none := by
  unfold settleHead
  split
  · exact h
  · split
    · exact takeHead_absent h
    · split
      · exact h
      · exact takeHead_absent ((launchAt_modLaunch ..).trans (by simp [h]))

theorem launchRetire_done {s : State} {l : Launch} {pa : Nat} (hl : launchAt s s.iss.id = some l) (hst : l.st ≠ .waiting)
    (hend : allEnded l = true)
    (hheld : (ctxOf s l.ctx).emits.any (fun e => e.launch == s.iss.id) = false ∨ gateLive (ctxOf s l.ctx) = false)
    (hask : asked s l.ctx (recFld l.rec_ 12 0 56) = false) (hnv : notValid s l.ctx (recFld l.rec_ 12 0 56) = false)
    (hpa : writableMt0 s l.ctx (recFld l.rec_ 12 0 56) = some pa) :
    ∃ t, exec .launchRetire s = .next t ∧ launchAt t s.iss.id = none
      ∧ ∀ a, memByte t.mem a = memByte (postDone s l ((ctxOf s l.ctx).emits.any (fun e => e.launch == s.iss.id)) pa).mem a := by
  have he : exec .launchRetire s = execLaunchRetire s := rfl
  rw [execLaunchRetire, hl] at he
  dsimp only at he
  rw [if_neg (by rcases hheld with h | h <;> simp [hst, hend, hask, h]), if_neg (by simp [hnv]), hpa] at he
  refine ⟨_, he, settleHead_absent ((tget_tdel ..).trans (if_pos rfl)), fun a => ?_⟩
  rw [settleHead_mem]
  refine congrArg (memByte · a) ((modCtx_mem ..).trans (postDone_mem l _ (writableMt0_below hpa) (touchAt_mem ..)))

/-- Settles O53, event by event. -/
theorem launchEvents : Obligations.LaunchEvents := by
  refine ⟨fun s l hl hst => ⟨depSampleTimer_done hl hst, depSampleOnUpdate_done hl hst, fun i => sampleDeps_latched s l⟩,
    fun s n l k cores hh hl hw hb hr hk hf => ⟨clusterDispatch_done hh hl hw hb hr hk hf, firstFit_free hf⟩,
    fun s n l cores hh hl hw hk hb hr hf hv => fun hne => ⟨priorityPreemption_done hh hl hw hk hb hr hf hv hne, fun _ => rfl⟩,
    fun s n cix l k => preemptionHalted_done, fun s t => teamEndChannelsQuiet_done, fun s t => teamEndEngineDone_done,
    fun s t => peerWindowClosed, fun s t p ht hend hp _ hl hc hun hq => fun hleft => peerWindowAcked ht hend hp hl hc hun hq hleft,
    fun s l pa hl hst hend => fun hheld => launchRetire_done hl hst hend hheld⟩

end Sys2Proof.Machine

end

section
/-! Fences, barriers, ARRIVE, WAITV and the commit token's instructions (R115, R218, R269, R299, R310 to R317, R347). -/

namespace Sys2Proof.Machine

/-! ### Blocking instructions -/

/-- A blocking instruction whose body gives a state, and what follows once its lanes have advanced; its S is not executed (R108). -/
theorem blocking_then {i : Instr} {s : State} {w : LongWord} {sh : Shape} {k : Issue} {c : Ic} {st : State} {post : State → State}
    {P : State → Prop} (h : offer s w sh k = .ok c) (body : Ic → Except Stop Eff) (he : exec i s = issue s w sh k body)
    (hk : k.blocking = true) (hb : body c = .ok { st := st, post := post })
    (hP : P (post (retire st c.core c.grp c.pc c.next c.act [] false))) : Completes i s P := by
  refine ⟨_, he.trans ((issue_ok h _).trans ?_), hP⟩
  simp [hb, hk]

/-- A blocking instruction that only goes on, and what follows once its lanes have advanced. -/
theorem blocking_goes {i : Instr} {s : State} {w : LongWord} {sh : Shape} {k : Issue} {c : Ic} {post : State → State}
    (h : offer s w sh k = .ok c) (body : Ic → Except Stop Eff) (he : exec i s = issue s w sh k body)
    (hk : k.blocking = true) (hb : body c = .ok { st := c.s, post := post }) (hmem : ∀ s, (post s).mem = s.mem) :
    Completes i s (fun t => t = post (c.with (retireGroup c.pc c.next c.act [] false c.g)) ∧ SameMemory s t) := by
  have o := offer_ok h
  refine blocking_then h body he hk hb ?_
  rw [with_self o.team o.group]
  exact ⟨rfl, fun a => by rw [hmem, ← offer_mem h]; rfl⟩

/-- A blocking instruction that does nothing else once it is parked. -/
theorem blocking_only {i : Instr} {s : State} {w : LongWord} {sh : Shape} {k : Issue} {c : Ic}
    (h : offer s w sh k = .ok c) (body : Ic → Except Stop Eff) (he : exec i s = issue s w sh k body)
    (hk : k.blocking = true) (hb : body c = .ok { st := c.s }) :
    Completes i s (fun t => t = c.with (retireGroup c.pc c.next c.act [] false c.g) ∧ SameMemory c.s t) := by
  have o := offer_ok h
  refine blocking_then (post := id) h body he hk hb ?_
  rw [with_self o.team o.group]
  exact ⟨rfl, with_mem _ _⟩

/-- An effect that keeps memory, retired. -/
theorem retired_sameMemory {c : Ic} {u : State} (hm : u.mem = c.s.mem) :
    SameMemory c.s (retire u c.core c.grp c.pc c.next c.act [] false) := fun a => by rw [retire_mem, hm]

/-! ### FENCE (R310) -/

/-- What a FENCE with its order leaves before it retires: applied invalidations, an empty L1, and its note (R299, R310, logs 80, 102). -/
def fenced (c : Ic) (o : Ord) (far : Bool) : State :=
  let s' := if o.rel then applyAll c.s else c.s
  noteFence c o (if clearsL1 o = true ∨ (o.acq = true ∧ far = true) then l1Clear s' c.core else s')

theorem fenced_mem (c : Ic) (o : Ord) (far : Bool) : (fenced c o far).mem = c.s.mem := by
  unfold fenced
  dsimp only
  rw [noteFence_mem]
  split <;> split <;> simp

theorem fence_completes {w : LongWord} {s : State} {c : Ic}
    (h : offer s w { shapeW w with m6 := layoutM [1, 2, 3, 4] w.m6 } { blocking := true, tx := some 2 } = .ok c)
    (hdet : c.mayRelease (ordOf w.m6)) (hfar : (ordOf w.m6).rel = true → farBuffered c = false)
    (hearl : (ordOf w.m6).rel = true → earlierDone c (ordOf w.m6).scope c.en = true)
    (hwc : (ordOf w.m6).rel = true ∨ (ordOf w.m6).scope = .sys → wcQuiet c.t = true)
    (hlat : (ordOf w.m6).scope = .sys → latchedTrap c.g = none)
    (hacq : (ordOf w.m6).acq = true → c.s.iss.id = 1
      ∨ marksFree c.s (if farRead c (ordOf w.m6).sc = true then 4 else scopeRank (ordOf w.m6).scope) = true)
    (hsc : (ordOf w.m6).sc = true → (ordOf w.m6).scope = .sys ∨ farRead c (ordOf w.m6).sc = true → c.s.iss.id = 1 ∨ livePeers c.s = []) :
    Completes (.fence w) s (fun t =>
      t = retire (fenced c (ordOf w.m6) (farRead c (ordOf w.m6).sc)) c.core c.grp c.pc c.next c.act [] false ∧ SameMemory c.s t) := by
  refine blocking_then (post := id) h _ rfl rfl ?_ ⟨rfl, retired_sameMemory (fenced_mem ..)⟩
  have h1 : (!((ordOf w.m6).rel && farBuffered c)) = true := by cases hr : (ordOf w.m6).rel <;> simp [hr, hfar]
  have h2 : (!(ordOf w.m6).rel || earlierDone c (ordOf w.m6).scope c.en) = true := by cases hr : (ordOf w.m6).rel <;> simp [hr, hearl]
  have h3 : (!((ordOf w.m6).rel || (ordOf w.m6).scope == .sys) || wcQuiet c.t) = true := by
    by_cases hr : (ordOf w.m6).rel = true ∨ (ordOf w.m6).scope = .sys
    · simp [hwc hr]
    · simp [not_or.1 hr]
  have h4 : (if (ordOf w.m6).scope == .sys then latchedTrap c.g else none) = none := by
    split
    · rename_i hs
      exact hlat (by simpa using hs)
    · rfl
  have h5 : (!(ordOf w.m6).acq || c.s.iss.id == 1
      || marksFree c.s (if farRead c (ordOf w.m6).sc then 4 else scopeRank (ordOf w.m6).scope)) = true := by
    cases ha : (ordOf w.m6).acq
    · rfl
    · simpa using hacq ha
  have h6 : ¬ ((ordOf w.m6).sc && ((ordOf w.m6).scope == .sys || farRead c (ordOf w.m6).sc) && c.s.iss.id != 1 && !(livePeers c.s).isEmpty) = true := by
    intro hc
    simp only [Bool.and_eq_true, Bool.or_eq_true, beq_iff_eq, bne_iff_ne, ne_eq, Bool.not_eq_true', List.isEmpty_eq_false_iff] at hc
    obtain ⟨⟨⟨hs, hw⟩, hi⟩, hp⟩ := hc
    exact (hsc hs hw).elim hi hp
  simp only [detRelease_ok hdet, need_true h1, need_true h2, need_true h3, h4, ok_bind, need_true h5, if_neg h6]
  simp only [fenced, Bool.or_eq_true, Bool.and_eq_true]
  rfl

/-! ### BAR and CBAR (R311, R312) -/

theorem barrier_completes {i : Instr} {w : LongWord} {n : Nat} {scope : Scope} {hd : Nat → Held} {s : State} {c : Ic}
    (he : exec i s = barrier w n scope hd s) (h : offer s w { shapeW w with sub := subNo w < n } { blocking := true, tx := some 2 } = .ok c)
    (hearl : earlierDone c .team c.en = true) (hwc : scope = .team ∨ wcQuiet c.t = true) :
    Completes i s (fun t => t = arriveAt c (hd (subNo w)) (c.with (retireGroup c.pc c.next c.act [] false c.g)) ∧ SameMemory s t) := by
  refine blocking_goes h _ he rfl ?_ (arriveAt_mem c _)
  have hq : (scope == .team || wcQuiet c.t) = true := by simpa using hwc
  simp only [need_true hearl, need_true hq, ok_bind]

theorem cbarCopy_completes {w : LongWord} {s : State} {c : Ic}
    (h : offer s w
        { form := w.lit.isSome || w.a != 0#8, sub := 4 ≤ subNo w && subNo w < 8, m6 := layoutZ w, a := .src 1, litA := true, port := .uniform }
        { blocking := true, tx := some 2 } = .ok c) {n : Nat} (hn : n = if w.lit.isSome then litNat w else (c.rd 0 w.a).toNat % 2 ^ 32)
    (hgo : n = 0 ∨ (ccFirst c.t c.grp ((ccSince c.g).getD c.s.stamp) = true ∧ n ≤ c.t.cc)) :
    Completes (.cbarCopy w) s (fun t => SameMemory s t ∧ t = modTeam (setEntries (setTeam c.s c.core { c.t with
        cc := c.t.cc - n, l1 := [], groups := tset c.t.groups c.grp (retireGroup c.pc c.next c.act [] false c.g) })
        c.core c.grp c.en) c.core (settleCc c.s.stamp 2048)) := by
  have o := offer_ok h
  have hret : retire (modTeam c.s c.core (fun t => { t with cc := t.cc - n, l1 := [] })) c.core c.grp c.pc c.next c.act [] false
      = setTeam c.s c.core { c.t with
          cc := c.t.cc - n, l1 := [], groups := tset c.t.groups c.grp (retireGroup c.pc c.next c.act [] false c.g) } := by
    rw [modTeam_eq o.team, retire]
    refine (modGroup_eq (setTeam_get _ _ _) (by exact o.group) _).trans ?_
    rw [setTeam_setTeam]
  refine blocking_then (st := modTeam c.s c.core (fun t => { t with cc := t.cc - n, l1 := [] }))
    (post := fun s => modTeam (setEntries s c.core c.grp c.en) c.core (settleCc s.stamp 2048)) h _ rfl rfl ?_ ?_
  · have hgo' : (n == 0 || (ccFirst c.t c.grp ((ccSince c.g).getD c.s.stamp) && decide (n ≤ c.t.cc))) = true := by simpa using hgo
    subst hn
    exact if_pos hgo'
  · rw [hret]
    exact ⟨fun a => by simp [offer_mem h], rfl⟩

/-! ### ARRIVE and WAITV (R313) -/

theorem arrive_completes {w : LongWord} {s : State} {c : Ic} {a : Acc}
    (h : offer s w { sub := w.sub6 == 0#6, m6 := layoutM [0, 2] w.m6, a := .src 1, b := .src 1, port := .uniform } { entry := true } = .ok c)
    (hl : checkLanes c .arrive 64 false [(0, (c.rd 0 w.a).toNat)] = .ok [a]) (hr : c.mayRelease (ordOf w.m6)) :
    Completes (.arrive w) s (PostedDone c (ordOf w.m6) (.arrive a (if w.lit.isSome then litNat w else (c.rd 0 w.b).toNat % 2 ^ 32))) := by
  refine posted_completes h _ rfl rfl _ _ ?_
  simp only [hl, ok_bind, detRelease_ok hr]

/-- The state in which a WAITV at an object of the package's memory goes on. -/
def waitvRead (c : Ic) (o : Ord) (a : Acc) : State :=
  l2Touch (meetUpsets c.s (physAddr c.s c.ctx a.xl a.va false) 8) (physAddr c.s c.ctx a.xl a.va false) (policy o a.xl) a.xl.wp false

theorem waitv_completes {w : LongWord} {s : State} {c : Ic} {a : Acc}
    (h : offer s w { shapeW w with m6 := layoutM [0, 1] w.m6, a := .src 1, port := .uniform } { blocking := true, tx := some 2 } = .ok c)
    (hl : checkLanes c .waitv 64 false [(0, (c.rd 0 w.a).toNat)] = .ok [a]) (hmt : a.xl.mt = 0) (hbuf : readBuffered c a = false)
    (hord : c.s.iss.id = 1 ∨ inOrder c.s c.ctx c.t (objectRead c a) = true) (hpop : physAddr c.s c.ctx a.xl a.va false + 64 ≤ hbmTop)
    (hpoi : poisoned (waitvRead c (ordOf w.m6) a) (physAddr c.s c.ctx a.xl a.va false) 8 = false)
    (hrea : reachedBy (waitvRead c (ordOf w.m6) a) c.core (physAddr c.s c.ctx a.xl a.va false) = true)
    (hacq : (ordOf w.m6).acq = true → markFree (waitvRead c (ordOf w.m6) a) (scopeRank (ordOf w.m6).scope)
      (physAddr c.s c.ctx a.xl a.va false) 8 = true) :
    Completes (.waitv w) s (fun t =>
      t = retire (if clearsL1 (ordOf w.m6) then l1Clear (waitvRead c (ordOf w.m6) a) c.core
        else l1DropRange (waitvRead c (ordOf w.m6) a) c.core (physAddr c.s c.ctx a.xl a.va false) 8) c.core c.grp c.pc c.next c.act [] false
      ∧ SameMemory c.s t) := by
  refine blocking_then (post := id) h _ rfl rfl ?_ ⟨rfl, retired_sameMemory (by split <;> simp [waitvRead])⟩
  have hb : (!readBuffered c a) = true := by simp [hbuf]
  have ho : (c.s.iss.id == 1 || inOrder c.s c.ctx c.t (objectRead c a)) = true := by simpa using hord
  have hr : (reachedBy (waitvRead c (ordOf w.m6) a) c.core (physAddr c.s c.ctx a.xl a.va false) && (!(ordOf w.m6).acq
      || markFree (waitvRead c (ordOf w.m6) a) (scopeRank (ordOf w.m6).scope) (physAddr c.s c.ctx a.xl a.va false) 8)) = true := by
    cases ha : (ordOf w.m6).acq <;> simp [hrea, hacq, ha]
  have hm : ¬ (a.xl.mt == 5) = true := by simp [hmt]
  have hpop' : ¬ (!populated (physAddr c.s c.ctx a.xl a.va false) 64) = true := by simp [populated, hpop]
  simp only [hl, ok_bind, need_true hb, need_true ho, if_neg hm]
  refine (if_neg hpop').trans ((if_neg ?_).trans ((if_pos ?_).trans rfl))
  · exact Bool.eq_false_iff.1 hpoi
  · exact hr

/-! ### The commit token (R314 to R317) -/

section

variable {w : LongWord} {s : State} {c : Ic}
  (h : offer s w { shapeW w with sub := w.sub6 == 0#6 } { blocking := true, tx := some 2, pre := passedWait } = .ok c)

include h

theorem tokenWait_unordered (hd : recDet c.r = false) :
    Completes (.tokenWait w) s (fun t => t = c.with (retireGroup c.pc c.next c.act [] false c.g) ∧ SameMemory c.s t) :=
  blocking_only h _ rfl rfl (if_pos (by simp [hd]))

theorem tokenWait_holder (hd : recDet c.r = true) (ht : c.t.hasToken = true) : Completes (.tokenWait w) s (fun t =>
    t = setEntries (c.with (retireGroup c.pc c.next c.act [] false c.g)) c.core c.grp c.en ∧ SameMemory s t) :=
  blocking_goes (post := fun s => setEntries s c.core c.grp c.en) h _ rfl rfl ((if_neg (by simp [hd])).trans (if_pos ht))
    (fun s => setEntries_mem s _ _ _)

theorem tokenWait_filed (hd : recDet c.r = true) (ht : c.t.hasToken = false) (hr : recReform c.r = true) (hm : c.g.hm = none) :
    Completes (.tokenWait w) s (fun t =>
      t = holdAll c .tokenWait (c.with (retireGroup c.pc c.next c.act [] false c.g)) ∧ SameMemory s t) :=
  blocking_goes (post := holdAll c .tokenWait) h _ rfl rfl
    ((if_neg (by simp [hd])).trans ((if_neg (by simp [ht])).trans (if_pos (by simp [hr, hm])))) (holdAll_mem c _)

end

section

variable {w : LongWord} {s : State} {c : Ic} (h : offer s w { shapeW w with sub := subNo w == 1 } { blocking := true, tx := some 2 } = .ok c)

include h

theorem tokenPass_none (hp : recDet c.r = false ∨ (c.t.hadToken = true ∧ c.t.hasToken = false)) :
    Completes (.tokenPass w) s (fun t => t = c.with (retireGroup c.pc c.next c.act [] false c.g) ∧ SameMemory c.s t) :=
  blocking_only h _ rfl rfl (if_pos (by simpa using hp))

theorem tokenPass_arrives (hd : recDet c.r = true) (hp : c.t.hadToken = false ∨ c.t.hasToken = true) : Completes (.tokenPass w) s (fun t =>
    t = arriveAt c .token (c.with (retireGroup c.pc c.next c.act [] false c.g)) ∧ SameMemory s t) :=
  blocking_goes (post := arriveAt c .token) h _ rfl rfl (if_neg (by rcases hp with hp | hp <;> simp [hd, hp])) (arriveAt_mem c _)

end

/-- A blocking instruction that its mode forbids, at its issue and at its park, traps: before the park where results are outstanding
(R343). -/
theorem offer_blocked {s : State} {w : LongWord} {sh : Shape} {k : Issue} {t : Team} {g : Group} {tr : TrapInfo}
    (ht : tget s.teams s.iss.core = some t) (hg : tget t.groups s.iss.grp = some g) (hb : k.blocking = true)
    (hact : (issueIc s w sh t g).act ≠ []) (hen : (issueIc s w sh t g).en ≠ [])
    (hd : decodeFail { sh with ok13 := k.flag (recOf s t) } w (recVregs (recOf s t)) = none)
    (htrap : issueTrap (blockingIc s w sh t g) k = some tr) :
    offer s w sh k = .error (stopState (blockingIc s w sh t g) (.trap tr)) := by
  by_cases hpark : g.parked = true ∨ g.rb = []
  · have hc : offeredIc s w sh k t g = blockingIc s w sh t g := by
      unfold offeredIc blockingIc
      rcases hpark with hp | hr
      · simp [hp]
      · simp [hr, hb]
    rw [offer_checks ht hg hact hd (fun _ => hpark), if_neg (by rwa [offeredIc_en ht hg]), hc, checked_trap htrap]
  · obtain ⟨hp, hr⟩ := not_or.1 hpark
    have hc : blockingIc s w sh t g = issueIc s w sh t g := if_neg (fun hx => hr hx.2)
    rw [hc] at htrap ⊢
    have hd' : decodeFail { sh with ok13 := k.flag (issueIc s w sh t g).r } w (recVregs (issueIc s w sh t g).r) = none := hd
    simp only [offer, ht, hg, List.isEmpty_iff, hact, if_false, hd']
    simp [hb, hp, hr, hen, htrap]

theorem passedWait_trap {c : Ic} (hd : recDet c.r = true) (hp : c.t.hadToken = true) (ht : c.t.hasToken = false) (hx : anyTx c = false) :
    passedWait c = some ⟨0x0F, 0, 3⟩ := by
  simp [passedWait, hd, hp, ht, hx]
  rfl

/-- Whether a lane is in transaction depends on the enabled lanes and the threads alone. -/
theorem anyTx_congr {c c' : Ic} (he : c.en = c'.en) (ht : c.g.threads = c'.g.threads) : anyTx c = anyTx c' := by
  have hl : inTx c = inTx c' := funext fun l => congrArg (fun ts : List Thread => (ts.getD l Thread.empty).txs != .none_) ht
  rw [anyTx, anyTx, he, hl]

/-- Nothing that TOKEN.wait asks of its team and lanes changes at a park that commits nothing. -/
theorem passedWait_blocking {s : State} {w : LongWord} {sh : Shape} {t : Team} {g : Group} (ht : tget s.teams s.iss.core = some t)
    (hg : tget t.groups s.iss.grp = some g) (hd : recDet (recOf s t) = true) (hp : t.hadToken = true) (hh : t.hasToken = false)
    (hx : anyTx (issueIc s w sh t g) = false) : passedWait (blockingIc s w sh t g) = some ⟨0x0F, 0, 3⟩ := by
  unfold blockingIc
  split
  · rename_i hc
    rw [atPark_eq (c := issueIc s w sh t g) ht hg]
    refine passedWait_trap hd hp hh (Eq.trans ?_ hx)
    refine anyTx_congr rfl ?_
    have hcommit : g.commit.threads = g.threads := by rw [commit_of_empty hc.2]; rfl
    exact hcommit
  · exact passedWait_trap hd hp hh hx

theorem tokenWait_passed {w : LongWord} {s : State} {t : Team} {g : Group} (ht : tget s.teams s.iss.core = some t)
    (hg : tget t.groups s.iss.grp = some g) (hact : (issueIc s w { shapeW w with sub := w.sub6 == 0#6 } t g).act ≠ [])
    (hen : (issueIc s w { shapeW w with sub := w.sub6 == 0#6 } t g).en ≠ [])
    (hdec : decodeFail { shapeW w with sub := w.sub6 == 0#6 } w (recVregs (recOf s t)) = none)
    (hx : anyTx (issueIc s w { shapeW w with sub := w.sub6 == 0#6 } t g) = false) (hd : recDet (recOf s t) = true)
    (hh : t.hasToken = false) (hp : t.hadToken = true) :
    let c := blockingIc s w { shapeW w with sub := w.sub6 == 0#6 } t g
    exec (.tokenWait w) s = .next (takeTrap c.s c.core c.grp ⟨0x0F, 0, 3⟩ c.pc c.pc false false c.act) :=
  issue_stopped (offer_blocked (k := { blocking := true, tx := some 2, pre := passedWait }) ht hg rfl hact hen hdec
    (issueTrap_pre (passedWait_blocking ht hg hd hp hh hx))) _

theorem synchronisation : Claims.Synchronisation :=
  ⟨fun _ _ _ h hdet hfar hearl hwc hlat hacq hsc => fence_completes h hdet hfar hearl hwc hlat hacq hsc,
    fun _ _ _ h hearl _ => barrier_completes rfl h hearl (.inl rfl),
    fun _ _ _ h hearl hwc => barrier_completes rfl h hearl (.inr (hwc rfl)),
    fun _ _ _ h hgo => cbarCopy_completes h rfl hgo,
    fun _ _ _ _ h hl hr => arrive_completes h hl hr,
    fun _ _ _ _ h hl hmt hbuf hord hpop hpoi hrea hacq => waitv_completes h hl hmt hbuf hord hpop hpoi hrea hacq⟩

theorem token : Claims.Token :=
  ⟨fun _ _ _ h => ⟨tokenWait_unordered h, tokenWait_holder h, fun hd ht _ hr hm => tokenWait_filed h hd ht hr hm⟩,
    fun _ _ _ _ ht hg hact hen hdec hx hd hh hp => tokenWait_passed ht hg hact hen hdec hx hd hh hp,
    fun _ _ _ h => ⟨tokenPass_none h, tokenPass_arrives h⟩⟩

/-- Settles O30, instruction by instruction. -/
theorem synchronisationAndToken : Obligations.SynchronisationAndToken := ⟨synchronisation, token⟩

end Sys2Proof.Machine

end

section
/-! The ends of a group's waits (R40, R62, R65, R107 to R110, R129, R131, R313, R316, R317, R344, R346, R347, R359, R373). -/

namespace Sys2Proof.Machine

/-! ### Entries of the table and YIELD (R110, R131) -/

theorem yieldTimeout_done {s : State} {g : Group} (hg : groupAt s s.iss.core s.iss.grp = some g) (hy : g.yielded.isSome = true) :
    Quietly .yieldTimeout s (modGroup s s.iss.core s.iss.grp (fun g => { g with yielded := none })) := by
  refine ⟨?_, fun a => by simp⟩
  change execYieldTimeout s = _
  rw [execYieldTimeout, hg]
  exact if_pos hy

theorem ottEntryGrant_done {s : State} {t : Team} {k : Nat} (ht : tget s.teams s.iss.core = some t)
    (hroom : t.ott.length + (t.groups.filter (fun e => e.2.granted)).length < 512) (hk : ottHeir t = some k) :
    Quietly .ottEntryGrant s (modGroup s s.iss.core k (fun g => { g with granted := true, stall := none })) := by
  refine ⟨?_, fun a => by simp⟩
  change execOttEntryGrant s = _
  simp only [execOttEntryGrant, ht, if_neg (Nat.not_le.2 hroom), hk]

/-! ### The park point (R107, R108, R359) -/

section

variable {s : State} {g : Group} {b : Bool} {pc next : Word} {ls : List Nat} (hg : groupAt s s.iss.core s.iss.grp = some g)
  (hst : g.status = .parking b pc next ls) (hrb : rbFilled g.rb = true)

include hg hst hrb

theorem parkCommit_eq : exec .parkCommit s = match failedSlot g.rb with
    | some (x, t) => .next (takeTrap (modGroup s s.iss.core s.iss.grp (fun g => { g with status := .running })) s.iss.core s.iss.grp t
        x.pc (if b then pc else next) true false (ls.filter (fun l => (g.lane l).live)))
    | none => match lostSlot g [] g.rb with
      | some (x, n) => .next (consumeSlot s s.iss.core s.iss.grp g x n)
      | none => .next (modGroup s s.iss.core s.iss.grp (fun g => { g.commit with status := .running, parked := b })) := by
  change execParkCommit s = _
  simp only [execParkCommit, hg, hst, hrb, Bool.not_true, Bool.false_eq_true, if_false] <;> rfl

theorem parkCommit_commits (hf : failedSlot g.rb = none) (hl : lostSlot g [] g.rb = none) :
    Quietly .parkCommit s (modGroup s s.iss.core s.iss.grp (fun g =>
      { (g.rb.foldl Group.commitSlot g).openStretch with rb := [], poisonPc := [], status := .running, parked := b })) := by
  refine ⟨?_, fun a => by simp⟩
  rw [parkCommit_eq hg hst hrb, hf, hl]
  rfl

theorem parkCommit_consumes {x : Slot} {n : Nat} (hf : failedSlot g.rb = none) (hl : lostSlot g [] g.rb = some (x, n)) :
    exec .parkCommit s = .next (consumeSlot s s.iss.core s.iss.grp g x n) := by
  rw [parkCommit_eq hg hst hrb, hf, hl]

theorem parkCommit_traps {x : Slot} {t : TrapInfo} (hf : failedSlot g.rb = some (x, t)) :
    exec .parkCommit s = .next (takeTrap (modGroup s s.iss.core s.iss.grp (fun g => { g with status := .running })) s.iss.core s.iss.grp t
      x.pc (if b then pc else next) true false (ls.filter (fun l => (g.lane l).live))) := by
  rw [parkCommit_eq hg hst hrb, hf]

end

section

variable {s : State} {core grp : Nat} {g : Group} {x : Slot} {n : Nat}

/-- In handler mode the error waits for the firmware (R346). -/
theorem consumeSlot_handler (hh : g.hm ≠ none) : consumeSlot s core grp g x n = modGroup (logLost s 1 core) core grp (fun g' =>
    { g' with status := .pageFault ⟨0x10, 0, word (16 + 256 * n)⟩ true none (some (x.pc, x.act.filter (fun l => (g.lane l).live))) g'.status }) :=
  if_pos (by simpa [Option.isSome_iff_ne_none] using hh)

/-- The first time at an instruction the group restarts (R347). -/
theorem consumeSlot_restarts (hh : g.hm = none) (hr : g.rmtOp = false) (hp : x.pc ∉ g.poisonPc) :
    consumeSlot s core grp g x n = poisonRestart (logLost s 1 core) core grp x.pc :=
  (if_neg (by simp [hh])).trans (if_neg (by simp [hr, hp]))

/-- The second time, or after a remote atomic, it is delivered (R285, R344). -/
theorem consumeSlot_traps (hh : g.hm = none) (hr : g.rmtOp = true ∨ x.pc ∈ g.poisonPc) : consumeSlot s core grp g x n =
    takeTrap (modGroup (logLost s 1 core) core grp (fun g => { g with status := .running, rb := g.rb.filter (fun y => y.id != x.id) }))
      core grp ⟨0x10, 0, word (16 + 256 * n)⟩ x.pc x.pc false false (x.act.filter (fun l => (g.lane l).live)) :=
  (if_neg (by simp [hh])).trans (if_pos (by simpa using hr))

end

/-! ### Blocking instructions that act again (R65, R129, R313) -/

theorem resumeBlocked_iss {s u : State} {core grp id : Nat} {b : Block} {w : LongWord} (h : resumeBlocked s core grp id = some (b, w, u)) :
    u.iss.id = id := by
  unfold resumeBlocked at h
  split at h
  · cases h
  · split at h
    · obtain ⟨-, -, rfl⟩ : _ ∧ _ ∧ _ = u := by simpa using h
      simp
    · cases h

theorem resumeWith_of {s u : State} {b : Block} {id : Nat} {w : LongWord} (h : resumeBlocked s s.iss.core s.iss.grp id = some (b, w, u))
    (f : LongWord → State → Host.Outcome State Fault Refusal) : resumeWith s b id f = f w u := by
  simp [resumeWith, h]

/-- A group that is to act again has a team. -/
theorem resumeBlocked_team {s u : State} {core grp id : Nat} {b : Block} {w : LongWord} (h : resumeBlocked s core grp id = some (b, w, u)) :
    ∃ t, tget s.teams core = some t := by
  cases ht : tget s.teams core with
  | some t => exact ⟨t, rfl⟩
  | none => simp [resumeBlocked, groupAt, ht] at h

theorem exitDrain_done {s u : State} {t : Team} {w : LongWord} {c : Ic} (ht : tget s.teams s.iss.core = some t)
    (hd : drained t s.iss.grp = true) (hr : resumeBlocked s s.iss.core s.iss.grp 0 = some (.exit, w, u))
    (h : offer u w (shapeW w) exitIssue = .ok c) (hdc : drained c.t c.grp = true) (hx : latchedTrap c.g = none) :
    exec .exitDrainComplete s = .next (retire (endThreads c.s c.core c.grp c.en) c.core c.grp c.pc c.next c.act [] false) := by
  change execExitDrainComplete s = _
  rw [execExitDrainComplete, ht]
  exact (if_pos hd).trans ((resumeWith_of hr _).trans (exit_ends h hdc hx))

/-- TLBINV.all names every translation. -/
theorem tlbScope_all {w : LongWord} (hn : subNo w = 2) (rd : BitVec 8 → Word) : tlbScope w rd = .ok ⟨none, 0, 2 ^ 56⟩ := by
  simp [tlbScope, hn]

theorem tlbinvAll_done {s u : State} {g : Group} {w : LongWord} {len : Nat} {d : Option D16Word} {x : TlbScope} {c : Ic}
    (hg : groupAt s s.iss.core s.iss.grp = some g) (hst : g.status = .blocked .tlbinv w len d) (hn : subNo w = 2)
    (hx : tlbScope w (readReg g 0) = .ok x) (hleft : accessesLeft s x = false)
    (hr : resumeBlocked s s.iss.core s.iss.grp 1 = some (.tlbinv, w, u))
    (h : offer u w (tlbinvShape w (subNo w == 2) .unused .unused .unused) tlbinvIssue = .ok c) :
    exec .tlbinvComplete s = .next (c.with (retireGroup c.pc c.next c.act [] false c.g)) := by
  change execTlbinvComplete s = _
  simp only [execTlbinvComplete, hg, hst, hx, hleft, Bool.false_eq_true, if_false]
  rw [resumeWith_of hr, if_neg (by omega), if_neg (by omega)]
  exact tlbinv_gone h (tlbScope_all hn _) (by decide) ((congrArg Cursor.id (offer_iss h)).trans (resumeBlocked_iss hr))

/-! ### WAITV_POLL (R115, R313) -/

theorem waitvPoll_resumes {s u : State} {w : LongWord} (hi : s.iss.id = 0) (hg : s.iss.grp < 64)
    (hr : resumeBlocked s s.iss.core s.iss.grp 0 = some (.waitv, w, u)) : exec .waitvPoll s = execWaitv w u := by
  obtain ⟨t, ht⟩ := resumeBlocked_team hr
  change execWaitvPoll s = _
  rw [execWaitvPoll, ht]
  exact (if_neg (by omega)).trans ((if_pos hi).trans (resumeWith_of hr _))

section

variable {s : State} {t : Team} (ht : tget s.teams s.iss.core = some t)

include ht

theorem waitvPoll_peer {h : Held} (hg : 64 ≤ s.iss.grp) (hh : (peerWaits t)[s.iss.grp - 64]? = some h) :
    Quietly .waitvPoll s (pollHeld s s.iss.core (teamCtx s t) h) := by
  refine ⟨?_, fun a => by simp⟩
  change execWaitvPoll s = _
  rw [execWaitvPoll, ht]
  dsimp only
  rw [if_pos hg, hh]

theorem waitvPoll_local (hi : s.iss.id ≠ 0) (hg : s.iss.grp < 64) :
    exec .waitvPoll s = .next ((localWaits t s.iss.id).foldl (wakeOne s.iss.core) s) := by
  change execWaitvPoll s = _
  rw [execWaitvPoll, ht]
  refine (if_neg (by omega)).trans ((if_neg hi).trans ?_)
  rw [wakeWaitv, ht]

theorem waitvPoll_none (hi : s.iss.id ≠ 0) (hg : s.iss.grp < 64) (hl : localWaits t s.iss.id = []) : Quietly .waitvPoll s s := by
  refine ⟨?_, fun _ => rfl⟩
  rw [waitvPoll_local ht hi hg, hl]
  rfl

variable {va pc cp wp : Nat} {acq : Bool} (hi : s.iss.id ≠ 0) (hg : s.iss.grp < 64)
  (hl : localWaits t s.iss.id = [.waitv s.iss.id va pc acq cp wp])

include hi hg hl

theorem waitvPoll_one {u : State} (hw : wakeOne s.iss.core s (.waitv s.iss.id va pc acq cp wp) = u) (hm : u.mem = s.mem) :
    Quietly .waitvPoll s u := by
  refine ⟨?_, fun a => by rw [hm]⟩
  rw [waitvPoll_local ht hi hg, hl, ← hw]
  rfl

end

section

variable {s : State} {core : Nat} {t : Team} {pa va pc cp wp : Nat} {acq : Bool} (ht : tget s.teams core = some t)

/-- The object's line is read. -/
def objectTouched (s : State) (pa cp wp : Nat) : State := l2Touch (meetUpsets s pa 8) pa cp wp false

theorem objectTouched_mem (s : State) (pa cp wp : Nat) : (objectTouched s pa cp wp).mem = s.mem := by simp [objectTouched]

/-- The threads filed at a reached object continue. -/
def objectWakes (s : State) (core pa cp wp : Nat) (h : Held) : State :=
  modTeam (l1DropRange (objectTouched s pa cp wp) core pa 8) core (fun t => wakeHeld t h (objectTouched s pa cp wp).stamp)

include ht

theorem wakeOne_buffered (hb : redBuffered s t (teamCtx s t) 0 pa 8 = true) : wakeOne core s (.waitv pa va pc acq cp wp) = s :=
  if_pos (by simp [objectBuffered, ht, hb])

variable (hb : redBuffered s t (teamCtx s t) 0 pa 8 = false)

include hb

theorem wakeOne_eq : wakeOne core s (.waitv pa va pc acq cp wp) =
    if poisoned (objectTouched s pa cp wp) pa 8 then
      modTeam (objectTouched s pa cp wp) core (fun t => retryWaitv t (.waitv pa va pc acq cp wp) pc (objectTouched s pa cp wp).stamp)
    else if reachedBy (objectTouched s pa cp wp) core pa && (!acq || markFree (objectTouched s pa cp wp) 4 pa 8) then
      if acq then l1Clear (objectWakes s core pa cp wp (.waitv pa va pc acq cp wp)) core
      else objectWakes s core pa cp wp (.waitv pa va pc acq cp wp)
    else objectTouched s pa cp wp :=
  if_neg (by simp [objectBuffered, ht, hb])

theorem wakeOne_retries (hp : poisoned (objectTouched s pa cp wp) pa 8 = true) : wakeOne core s (.waitv pa va pc acq cp wp) =
    modTeam (objectTouched s pa cp wp) core (fun t => retryWaitv t (.waitv pa va pc acq cp wp) pc (objectTouched s pa cp wp).stamp) :=
  (wakeOne_eq ht hb).trans (if_pos hp)

variable (hp : poisoned (objectTouched s pa cp wp) pa 8 = false)

include hp

theorem wakeOne_stays (hw : reachedBy (objectTouched s pa cp wp) core pa = false ∨ (acq = true ∧ markFree (objectTouched s pa cp wp) 4 pa 8 = false)) :
    wakeOne core s (.waitv pa va pc acq cp wp) = objectTouched s pa cp wp :=
  (wakeOne_eq ht hb).trans ((if_neg (by simp [hp])).trans (if_neg (by rcases hw with h | ⟨h, h'⟩ <;> simp [*])))

theorem wakeOne_wakes (hr : reachedBy (objectTouched s pa cp wp) core pa = true)
    (hq : acq = true → markFree (objectTouched s pa cp wp) 4 pa 8 = true) : wakeOne core s (.waitv pa va pc acq cp wp) =
      if acq then l1Clear (objectWakes s core pa cp wp (.waitv pa va pc acq cp wp)) core
      else objectWakes s core pa cp wp (.waitv pa va pc acq cp wp) :=
  (wakeOne_eq ht hb).trans ((if_neg (by simp [hp])).trans (if_pos (by cases acq <;> simp_all)))

end

theorem objectWakes_mem (s : State) (core pa cp wp : Nat) (h : Held) : (objectWakes s core pa cp wp h).mem = s.mem := by
  simp [objectWakes, objectTouched_mem]

/-! ### The token, and the waits that last too long (R40, R314, R317, R373) -/

theorem commitTokenHandover_done {s : State} {t : Team} (ht : tget s.teams s.iss.core = some t) (htok : t.hasToken = true)
    (hall : heldAt t .token = teamLive t) (hlive : teamLive t ≠ 0) (hfree : tokenFree s s.iss.core t = true) :
    exec .commitTokenHandover s = .next (settleToken
      (modTeam s s.iss.core (fun t => releaseHeld { t with hasToken := false, hadToken := true } .token s.stamp)) t.launch) := by
  change execCommitTokenHandover s = _
  rw [execCommitTokenHandover, ht]
  refine (if_pos (by simp [htok, hall, hlive, hfree])).trans (congrArg _ ?_)
  rw [dropToken, ht]
  exact if_neg (by simp [htok])

theorem edetwaitTimeout_done {s : State} {t : Team} {g : Group} {k : Nat} (ht : tget s.teams s.iss.core = some t)
    (hg : groupAt s s.iss.core s.iss.grp = some g) (hk : detWaitKind s s.iss.core t s.iss.grp g = some k)
    (hd : recDet (recOf s t) = true) (hl : lowerBlocked s t = true) (hne : (detWaitAt g k).1 ≠ []) :
    exec .edetwaitTimeout s = .next (takeTrap
      (modGroup s s.iss.core s.iss.grp (fun g' => (detWaitAt g k).1.foldl (fun g l => g.modLane l (fun x => { x with held := none })) g'))
      s.iss.core s.iss.grp ⟨0x0F, 0, word k⟩ (detWaitAt g k).2 (detWaitAt g k).2 false false (detWaitAt g k).1) := by
  change execEdetwaitTimeout s = _
  simp only [execEdetwaitTimeout, ht, hg, hk]
  have hc : (recDet (recOf s t) && lowerBlocked s t && !(detWaitAt g k).1.isEmpty) = true := by simp [hd, hl, hne]
  rw [if_pos hc]

theorem jsyncStallTimeout_done {s : State} {t : Team} {g : Group} {p n : Nat} {pc : Word} (ht : tget s.teams s.iss.core = some t)
    (hg : groupAt s s.iss.core s.iss.grp = some g) (hst : g.stall = some (.journal p, n)) (hp : p ≠ 0) (hpc : issuePc g = some pc) :
    exec .jsyncStallTimeout s =
      .next (takeTrap s s.iss.core s.iss.grp (ejournal s (teamCtx s t) 3 (word p)) pc pc false false (activeLanes g pc)) := by
  change execJsyncStallTimeout s = _
  simp only [execJsyncStallTimeout, failSync, ht, hg, hst, hpc, if_neg hp]

/-! ### Page faults (R62, R346, R347) -/

section

variable {s : State} {core grp : Nat} {found : Bool} {writes : List Host.Cell} {t : Team} {g : Group} {tr : TrapInfo} {b : Bool}
  {entry : Option Nat} {place : Option (Word × List Nat)} {back : GStatus}

theorem pageFault_group (hm : s.msg = some (.pageFaultResolved core grp found writes)) :
    exec .pageFaultResolved s = groupFaultResolved s core grp found writes := by
  change execPageFaultResolved s = _
  rw [execPageFaultResolved, hm]

variable (ht : tget s.teams core = some t) (hg : groupAt s core grp = some g) (hst : g.status = .pageFault tr b entry place back)

include ht hg hst

theorem groupFault_found : groupFaultResolved s core grp true writes = .next (if b then
      modGroup (firmwareWrites s writes) core grp (fun g => { g with status := back, walked := [] })
    else regionRestart (firmwareWrites s writes) core grp) := by
  simp only [groupFaultResolved, ht, hg, hst, if_true]

theorem groupFault_entry {e : OttEntry} (he : entry.bind (fun i => t.ott.find? (fun e => e.id == i)) = some e) :
    groupFaultResolved s core grp false writes = .next (takeTrap
      (dropEntry (modGroup s core grp (fun g => { g with status := .running })) core e) core grp tr e.pc e.pc false false (entryAct s core e)) := by
  simp only [groupFaultResolved, ht, hg, hst, Bool.false_eq_true, if_false, he]

theorem groupFault_place (he : entry = none) {pc : Word} (hpc : (place.map (·.1)).getD ((issuePc g).getD 0) = pc) :
    groupFaultResolved s core grp false writes = .next (takeTrap (modGroup s core grp (fun g => { g with status := .running }))
      core grp tr pc pc false false ((place.map (·.2)).getD (activeLanes g pc))) := by
  subst he hpc
  simp only [groupFaultResolved, ht, hg, hst, Bool.false_eq_true, if_false, Option.bind_none]

end

/-- Settles O43, wait by wait. -/
theorem groupEvents : Obligations.GroupEvents := by
  refine ⟨fun s g hg hy => yieldTimeout_done hg hy, fun s t k ht hr hk => ottEntryGrant_done ht hr hk,
    fun s g b pc next ls hg hst hrb => ⟨fun hf hl => parkCommit_commits hg hst hrb hf hl, fun x n hf hl => ?_,
      fun x t hf => parkCommit_traps hg hst hrb hf⟩,
    fun s t w u c ht hd hr h hdc hx => exitDrain_done ht hd hr h hdc hx,
    fun s g w len d x u c hg hst hn hx hleft hr h => tlbinvAll_done hg hst hn hx hleft hr h,
    fun s w u c a hi hg hr h hl hmt hbuf hord hpop hpoi hrea hacq => ?_,
    fun s t hi hg ht hl => waitvPoll_none ht hi hg hl,
    fun s t va pc acq cp wp hi hg ht hl => ⟨fun hb => waitvPoll_one ht hi hg hl (wakeOne_buffered ht hb) rfl, fun hb => ⟨
      fun hp => waitvPoll_one ht hi hg hl (wakeOne_retries ht hb hp) (by simp),
      fun hp hw => waitvPoll_one ht hi hg hl (wakeOne_stays ht hb hp hw) (objectTouched_mem ..),
      fun hp hr => ⟨fun hq => ?_, fun hq hm => ?_⟩⟩⟩,
    fun s t h hg ht hh => waitvPoll_peer ht hg hh,
    fun s t ht htok hall hlive hfree => commitTokenHandover_done ht htok hall hlive hfree,
    fun s core grp writes t g tr hm ht hg entry place back => ⟨fun hst => ?_, fun hst => ?_⟩,
    fun s core grp writes t g tr b back hm ht hg => ⟨fun pc hst hpc => ?_, fun pc ls hst => ?_, fun i e place hst he => ?_⟩,
    fun s t g k ht hg hk hd hl => fun hne => edetwaitTimeout_done ht hg hk hd hl hne,
    fun s t g p n pc ht hg hst hp hpc => jsyncStallTimeout_done ht hg hst hp hpc⟩
  · have he := parkCommit_consumes hg hst hrb hf hl
    intro u tr live
    refine ⟨fun hh => he.trans ?_, fun hh hr hp => he.trans ?_, fun hh hr => he.trans ?_⟩
    · rw [consumeSlot_handler hh]
    · rw [consumeSlot_restarts hh hr hp]
    · rw [consumeSlot_traps hh hr]
  · obtain ⟨v, hv, rfl, -⟩ := waitv_completes h hl hmt hbuf (.inr hord) hpop hpoi hrea hacq
    exact (waitvPoll_resumes hi hg hr).trans hv
  · subst hq
    exact waitvPoll_one ht hi hg hl (wakeOne_wakes ht hb hp hr (fun h => (by cases h))) (objectWakes_mem ..)
  · subst hq
    exact waitvPoll_one ht hi hg hl (wakeOne_wakes ht hb hp hr (fun _ => hm)) (by simp)
  · exact (pageFault_group hm).trans (groupFault_found ht hg hst)
  · exact (pageFault_group hm).trans (groupFault_found ht hg hst)
  · exact (pageFault_group hm).trans (groupFault_place ht hg hst rfl (by simp [hpc]))
  · exact (pageFault_group hm).trans (groupFault_place ht hg hst rfl rfl)
  · exact (pageFault_group hm).trans (groupFault_entry ht hg hst he)

end Sys2Proof.Machine

end

section
/-! The events of the matrix engines (R242, R244, R245, R251, R258, R259, R267, R290, R299). -/

namespace Sys2Proof.Machine

/-! ### The arbiter's choice (R245) -/

/-- An entry goes before another: its priority is higher, or the same and it is older. -/
def EngEntry.before (x y : EngEntry) : Prop := y.priority ≤ x.priority ∧ (y.priority = x.priority → x.stamp ≤ y.stamp)

theorem EngEntry.before_refl (x : EngEntry) : x.before x := ⟨Nat.le_refl _, fun _ => Nat.le_refl _⟩

theorem EngEntry.before_trans {x y z : EngEntry} (h : x.before y) (h' : y.before z) : x.before z := by
  obtain ⟨h1, h2⟩ := h
  obtain ⟨h3, h4⟩ := h'
  exact ⟨by omega, fun he => Nat.le_trans (h2 (by omega)) (h4 (by omega))⟩

/-- The arbiter's choice of two entries. -/
def better (y x : Nat × EngEntry) : Nat × EngEntry :=
  if x.2.priority > y.2.priority || (x.2.priority == y.2.priority && x.2.stamp < y.2.stamp) then x else y

theorem better_before (y x : Nat × EngEntry) : (better y x).2.before y.2 ∧ (better y x).2.before x.2 := by
  unfold better
  split
  · rename_i h
    simp only [Bool.or_eq_true, Bool.and_eq_true, decide_eq_true_eq, beq_iff_eq] at h
    exact ⟨⟨by omega, fun he => by omega⟩, x.2.before_refl⟩
  · rename_i h
    simp only [Bool.or_eq_true, Bool.and_eq_true, decide_eq_true_eq, beq_iff_eq] at h
    exact ⟨y.2.before_refl, ⟨by omega, fun he => by omega⟩⟩

theorem better_or (y x : Nat × EngEntry) : better y x = y ∨ better y x = x := by
  unfold better
  split
  · exact .inr rfl
  · exact .inl rfl

theorem foldl_better (l : List (Nat × EngEntry)) (a : Nat × EngEntry) :
    l.foldl better a ∈ a :: l ∧ ∀ y ∈ a :: l, (l.foldl better a).2.before y.2 := by
  induction l generalizing a with
  | nil => simpa using a.2.before_refl
  | cons x l ih =>
    obtain ⟨hin, hall⟩ := ih (better a x)
    obtain ⟨ha, hx⟩ := better_before a x
    have hb := hall _ (List.mem_cons_self ..)
    refine ⟨?_, fun y hy => ?_⟩
    · rcases List.mem_cons.1 hin with h | h
      · rw [List.foldl_cons, h]
        rcases better_or a x with e | e <;> simp [e]
      · exact List.mem_cons_of_mem _ (List.mem_cons_of_mem _ h)
    · rcases List.mem_cons.1 hy with rfl | hy
      · exact EngEntry.before_trans hb ha
      · rcases List.mem_cons.1 hy with rfl | hy
        · exact EngEntry.before_trans hb hx
        · exact hall y (List.mem_cons_of_mem _ hy)

/-- The arbiter's fold, from the first eligible entry on. -/
theorem foldl_arbiter (l : List (Nat × EngEntry)) (a : Nat × EngEntry) : l.foldl (fun a x =>
    match a with
    | none => some x
    | some y => if x.2.priority > y.2.priority || (x.2.priority == y.2.priority && x.2.stamp < y.2.stamp) then some x else some y) (some a)
      = some (l.foldl better a) := by
  induction l generalizing a with
  | nil => rfl
  | cons x l ih =>
    refine Eq.trans ?_ (ih (better a x))
    refine congrArg (fun o => List.foldl _ o l) ?_
    unfold better
    dsimp only
    split <;> rfl

theorem arbiter_best {s : State} {e : Engine} {r : Nat × EngEntry} (h : arbiter s e = some r) :
    (r ∈ e.table ∧ eligible s e r.2 = true) ∧ ∀ y ∈ e.table, eligible s e y.2 = true → r.2.before y.2 := by
  unfold arbiter at h
  cases hl : e.table.filter (fun x => eligible s e x.2) with
  | nil => simp [hl] at h
  | cons a l =>
    rw [hl] at h
    have hr : l.foldl better a = r := Option.some.inj ((foldl_arbiter l a).symm.trans h)
    obtain ⟨hin, hall⟩ := foldl_better l a
    rw [hr, ← hl] at hin
    rw [hr, ← hl] at hall
    exact ⟨List.mem_filter.1 hin, fun y hy he => hall y (List.mem_filter.2 ⟨hy, he⟩)⟩

/-! ### Grants and ageing (R242, R245) -/

theorem engineGrant_done {s : State} {slot : Nat} {x : EngEntry} {ts : List (Nat × Nat)} (hg : (engineOf s s.iss.core).granted = none)
    (ha : arbiter s (engineOf s s.iss.core) = some (slot, x)) (ht : entryTiles (engineOf s s.iss.core) x = some ts) :
    Quietly .engineGrant s (modEngine s s.iss.core (fun e => { e with granted := some slot })) := by
  refine ⟨?_, fun _ => rfl⟩
  change execEngineGrant s = _
  simp [execEngineGrant, hg, ha, ht]

theorem engineGrant_fails {s : State} {slot : Nat} {x : EngEntry} (hg : (engineOf s s.iss.core).granted = none)
    (ha : arbiter s (engineOf s s.iss.core) = some (slot, x)) (ht : entryTiles (engineOf s s.iss.core) x = none) :
    exec .engineGrant s = .next (settleTiles (endCommand s s.iss.core slot x 0 (some (emma 4))) s.iss.core) := by
  change execEngineGrant s = _
  simp [execEngineGrant, hg, ha, ht]

theorem engineEntryAge_done {s : State} {x : EngEntry} (hx : tget (engineOf s s.iss.core).table s.iss.id = some x) (ha : x.aged = false)
    (hg : (engineOf s s.iss.core).granted ≠ some s.iss.id) :
    Quietly .engineEntryAge s (modEngine s s.iss.core (fun e => { e with table := tset e.table s.iss.id { x with aged := true } })) := by
  refine ⟨?_, fun _ => rfl⟩
  change execEngineEntryAge s = _
  simp [execEngineEntryAge, hx, ha, hg]

/-! ### A command that leaves the table (R244, R267) -/

/-- The engine once a command has left its table, its failure kept (R267). -/
def commandLeft (s : State) (q slot : Nat) (x : EngEntry) (fail : Option TrapInfo) : State :=
  modEngine s q (fun e => { e with
    table := tdel e.table slot, granted := if e.granted == some slot then none else e.granted,
    fails := match fail with
      | some t => if x.cmd == .mchk then e.fails else e.fails ++ [⟨x.core, x.grp, x.handle, x.stamp, x.pc, x.cmd.dest, t⟩]
      | none => e.fails })

/-- But for a failing MCHK, a command that ends leaves the table, and its entry of the outstanding accesses ends with it. -/
theorem endCommand_left (s : State) (q slot : Nat) {x : EngEntry} (status : Word) {fail : Option TrapInfo}
    (h : fail = none ∨ x.cmd ≠ .mchk) : endCommand s q slot x status fail = commandLeft s q slot x fail
      ∨ ∃ e, endCommand s q slot x status fail = finishEntry (commandLeft s q slot x fail) x.core e := by
  have hagain : (x.cmd == .mchk && (fail.map (·.cause)) == some 0x10
      && ((groupAt s x.core x.grp).map (fun g => g.hm.isSome && !g.rmtOp)).getD false) = false := by
    rcases h with rfl | h
    · simp
    · simp [h]
  unfold endCommand
  simp only [hagain, Bool.false_eq_true, if_false]
  split
  · exact .inl rfl
  · split
    · exact .inr ⟨_, rfl⟩
    · rename_i t _
      have hne : (x.cmd != .mchk) = true := by simpa using h
      rw [if_pos hne]
      exact .inr ⟨_, rfl⟩
    · exact .inl rfl

theorem endCommand_keeps {β : Type} (p : State → β) (hp : ∀ s core e, p (finishEntry s core e) = p s) (s : State) (q slot : Nat)
    {x : EngEntry} (status : Word) {fail : Option TrapInfo} (h : fail = none ∨ x.cmd ≠ .mchk) :
    p (endCommand s q slot x status fail) = p (commandLeft s q slot x fail) := by
  rcases endCommand_left s q slot status h with e | ⟨y, e⟩
  · rw [e]
  · rw [e, hp]

theorem finishEntry_engines (s : State) (core : Nat) (e : OttEntry) : (finishEntry s core e).engines = s.engines := by
  unfold finishEntry
  dsimp only
  split
  · exact (modTeam_engines ..).trans (modTeam_engines ..)
  · exact modTeam_engines ..

theorem endCommand_mem {s : State} {q slot : Nat} {x : EngEntry} {status : Word} {fail : Option TrapInfo} (h : fail = none ∨ x.cmd ≠ .mchk) :
    (endCommand s q slot x status fail).mem = s.mem := endCommand_keeps State.mem finishEntry_mem s q slot status h

/-- A command that ends leaves its engine as `commandLeft` says. -/
theorem endCommand_engine {s : State} {q slot : Nat} {x : EngEntry} {status : Word} {fail : Option TrapInfo}
    (h : fail = none ∨ x.cmd ≠ .mchk) :
    engineOf (endCommand s q slot x status fail) q = engineOf (commandLeft s q slot x fail) q :=
  endCommand_keeps (fun s => engineOf s q) (fun s c e => congrArg (tgetD · q Engine.reset) (finishEntry_engines s c e)) s q slot status h

theorem endCommand_gone {s : State} {q slot : Nat} {x : EngEntry} {status : Word} :
    tget (engineOf (endCommand s q slot x status none) q).table slot = none := by
  rw [endCommand_engine (.inl rfl), commandLeft, engineOf_modEngine]
  exact (tget_tdel ..).trans (if_pos rfl)

theorem endCommand_tiles {s : State} {q slot : Nat} {x : EngEntry} {status : Word} :
    (engineOf (endCommand s q slot x status none) q).tiles = (engineOf s q).tiles := by
  rw [endCommand_engine (.inl rfl), commandLeft, engineOf_modEngine]

/-! ### The end of a granted command (R251, R267, R299) -/

section

variable {s : State} {slot : Nat} {x : EngEntry} {ts : List (Nat × Nat)} (hi : s.iss.id = 0)
  (hg : (engineOf s s.iss.core).granted = some slot) (hx : tget (engineOf s s.iss.core).table slot = some x)
  (ht : entryTiles (engineOf s s.iss.core) x = some ts)

include hi hg hx ht

theorem engineCommandComplete_runs : exec .engineCommandComplete s = .next (commandDone (runCommand s s.iss.core x ts).1 s.iss.core slot x
    (runCommand s s.iss.core x ts).2.1 (runCommand s s.iss.core x ts).2.2) := by
  change execEngineCommandComplete s = _
  simp [execEngineCommandComplete, hi, hg, hx, ht]

/-- Where no invalidation of what it wrote is pending, the command leaves. -/
theorem engineCommandComplete_leaves {u : State} {status : Word} {fail : Option TrapInfo} (hr : runCommand s s.iss.core x ts = (u, status, fail))
    (hp : stillPending u (engLines u x) = []) :
    exec .engineCommandComplete s = .next (settleTiles (endCommand u s.iss.core slot x status fail) s.iss.core) := by
  rw [engineCommandComplete_runs hi hg hx ht, hr, commandDone, hp]

/-- Where one is, it stays unacknowledged. -/
theorem engineCommandComplete_stays {u : State} {status : Word} {fail : Option TrapInfo} (hr : runCommand s s.iss.core x ts = (u, status, fail))
    (hp : stillPending u (engLines u x) ≠ []) : ∃ t y, exec .engineCommandComplete s = .next t ∧ SameMemory u t
      ∧ (engineOf t s.iss.core).granted = none ∧ tget (engineOf t s.iss.core).table slot = some y
      ∧ y.handle = x.handle ∧ y.core = x.core ∧ y.grp = x.grp ∧ y.cmd = .written (stillPending u (engLines u x)) := by
  have he := engineCommandComplete_runs hi hg hx ht
  rw [hr, commandDone] at he
  cases hl : stillPending u (engLines u x) with
  | nil => exact absurd hl hp
  | cons a l =>
    rw [hl] at he
    refine ⟨_, { x with cmd := .written (a :: l), tiles := [], recs := [], kept := [], words := [], olds := [], stage := 0, xls := [] }, he,
      fun a => rfl, ?_, ?_, rfl, rfl, rfl, rfl⟩
    · rw [engineOf_modEngine]
    · rw [engineOf_modEngine]
      exact tget_tset_self ..

end

theorem engineCommandAcked {s : State} {x : EngEntry} {lines : List Nat} (hi : s.iss.id ≠ 0)
    (hx : tget (engineOf s s.iss.core).table (s.iss.id - 1) = some x) (hc : x.cmd = .written lines) (hp : stillPending s lines = []) :
    exec .engineCommandComplete s = .next (settleTiles (endCommand s s.iss.core (s.iss.id - 1) x 0 none) s.iss.core) := by
  change execEngineCommandComplete s = _
  simp [execEngineCommandComplete, hi, hx, hc, hp]

/-! ### MZERO (R251, Table 14.4) -/

/-- A tile that its command has cleared, still bound. -/
structure Tile.Cleared (z : Tile) : Prop where
  elems  : z.elems = []
  shadow : z.shadow = []
  log    : z.log = []
  bound  : z.bound.isSome = true

/-- A tile that is cleared. -/
def Tile.clear (t : Tile) : Tile := { t with elems := [], shadow := [], ckRow := [], ckCol := [], log := [] }

theorem clearTiles_tiles (is : List Nat) (s : State) (q : Nat) :
    (engineOf (is.foldl (fun s i => clearTile s q i) s) q).tiles = is.foldl (fun ts i => lmod ts i Tile.clear) (engineOf s q).tiles := by
  induction is generalizing s with
  | nil => rfl
  | cons i is ih =>
    rw [List.foldl_cons, ih, List.foldl_cons]
    exact congrArg (fun e : Engine => is.foldl (fun ts i => lmod ts i Tile.clear) e.tiles) (engineOf_modEngine s q _)

/-- Of the tiles that are cleared none keeps an element; none changes its binding. -/
theorem foldl_clear (is : List Nat) (ts : List Tile) {i : Nat} (hi : i ∈ is ∨ ∀ z, ts[i]? = some z → z.Cleared)
    (hb : ∀ z, ts[i]? = some z → z.bound.isSome = true) :
    ∀ z, (is.foldl (fun ts i => lmod ts i Tile.clear) ts)[i]? = some z → z.Cleared := by
  induction is generalizing ts with
  | nil => exact hi.resolve_left (by simp)
  | cons j is ih =>
    have hget (z : Tile) (hz : (lmod ts j Tile.clear)[i]? = some z) : ∃ y, ts[i]? = some y ∧ z = if j = i then y.clear else y := by
      simp only [lmod, List.getElem?_modify] at hz
      cases hy : ts[i]? with
      | none => simp [hy] at hz
      | some y =>
        refine ⟨y, rfl, ?_⟩
        rw [hy] at hz
        split at hz <;> simp_all
    refine ih _ ?_ (fun z hz => ?_)
    · by_cases hj : j = i
      · refine .inr fun z hz => ?_
        obtain ⟨y, hy, rfl⟩ := hget z hz
        rw [if_pos hj]
        exact ⟨rfl, rfl, rfl, hb y hy⟩
      · refine hi.imp (fun h => (List.mem_cons.1 h).resolve_left (Ne.symm hj)) (fun h z hz => ?_)
        obtain ⟨y, hy, rfl⟩ := hget z hz
        rw [if_neg hj]
        exact h y hy
    · obtain ⟨y, hy, rfl⟩ := hget z hz
      split
      · exact hb y hy
      · exact hb y hy

theorem tileOf_bound {e : Engine} {b i : Nat} {w : Tile} (h : tileOf e b = some (i, w)) : e.tiles[i]? = some w ∧ w.bound.isSome = true := by
  unfold tileOf at h
  obtain ⟨⟨z, j⟩, hf, hz⟩ := Option.map_eq_some_iff.1 h
  obtain ⟨rfl, rfl⟩ : j = i ∧ z = w := by simpa using hz
  refine ⟨List.mem_zipIdx_iff_getElem?.1 (List.mem_of_find?_eq_some hf), ?_⟩
  have hp := List.find?_some hf
  cases hb : z.bound with
  | none => simp [hb] at hp
  | some v => rfl

/-- A command's tiles are bound (R242). -/
theorem entryTiles_bound {e : Engine} {x : EngEntry} {ts : List (Nat × Nat)} (h : entryTiles e x = some ts) :
    ∀ y ∈ ts, ∀ z, e.tiles[y.2]? = some z → z.bound.isSome = true := by
  unfold entryTiles at h
  generalize x.tiles = l at h
  induction l generalizing ts with
  | nil =>
    obtain rfl := Option.some.inj h
    simp
  | cons t l ih =>
    rw [List.foldr_cons] at h
    split at h
    · rename_i i w r hi hr
      obtain rfl := Option.some.inj h
      intro y hy z hz
      rcases List.mem_cons.1 hy with rfl | hy
      · obtain ⟨hw, hb⟩ := tileOf_bound hi
        obtain rfl : w = z := Option.some.inj (hw.symm.trans hz)
        exact hb
      · exact ih hr y hy z hz
    · cases h

/-- Tiles that are bound are not given to a saved team. -/
theorem bindSaved_cleared (l ts : List Tile) {i : Nat} (h : ∀ z, ts[i]? = some z → z.Cleared) :
    ∀ z, (bindSaved ts l)[i]? = some z → z.Cleared := by
  induction l generalizing ts with
  | nil => exact h
  | cons x l ih =>
    unfold bindSaved
    split
    · rename_i j hj
      refine ih _ (fun z hz => ?_)
      obtain ⟨hlt, hfree, -⟩ := List.findIdx?_eq_some_iff_getElem.1 hj
      have hne : j ≠ i := fun e => by
        subst e
        have hb := (h _ (List.getElem?_eq_getElem hlt)).bound
        simp [Option.isNone_iff_eq_none] at hfree
        simp [hfree] at hb
      rw [List.getElem?_set_ne hne] at hz
      exact h z hz
    · exact h

theorem enterSaved_tiles (l : List EngEntry) (e : Engine) : (enterSaved e l).tiles = e.tiles := by
  induction l generalizing e with
  | nil => rfl
  | cons x l ih =>
    unfold enterSaved
    split
    · exact ih _
    · exact ih _

theorem settleTiles_cleared {s : State} {q i : Nat} (h : ∀ z, (engineOf s q).tiles[i]? = some z → z.Cleared) :
    ∀ z, (engineOf (settleTiles s q) q).tiles[i]? = some z → z.Cleared := by
  refine List.foldlRecOn (motive := fun s : State => ∀ z, (engineOf s q).tiles[i]? = some z → z.Cleared) _ _ h (fun s hs c _ => ?_)
  split
  · exact hs
  · dsimp only
    split
    · exact hs
    · rw [engineOf_modEngine, enterSaved_tiles]
      refine bindSaved_cleared _ _ ?_
      have he : engineOf (modTeam s c (fun t => { t with eng := none })) q = engineOf s q := congrArg (tgetD · q Engine.reset) (modTeam_engines ..)
      rw [he]
      exact hs

theorem mzero_clears {s : State} {slot : Nat} {x : EngEntry} {ts : List (Nat × Nat)} (hi : s.iss.id = 0)
    (hg : (engineOf s s.iss.core).granted = some slot) (hx : tget (engineOf s s.iss.core).table slot = some x)
    (ht : entryTiles (engineOf s s.iss.core) x = some ts) (hc : x.cmd = .mzero) :
    ∃ t, exec .engineCommandComplete s = .next t ∧ SameMemory s t
      ∧ ∀ y ∈ ts, ∀ z, (engineOf t s.iss.core).tiles[y.2]? = some z → z.elems = [] ∧ z.shadow = [] ∧ z.log = [] := by
  have hr : runCommand s s.iss.core x ts = ((ts.map (·.2)).foldl (fun u i => clearTile u s.iss.core i) s, 0, none) := by
    simp only [runCommand, hc]
  have hl (u : State) : stillPending u (engLines u x) = [] := by simp [engLines, hc, EngCmd.rows, stillPending]
  refine ⟨_, engineCommandComplete_leaves hi hg hx ht hr (hl _), fun a => ?_, fun y hy z hz => ?_⟩
  · rw [settleTiles_mem, endCommand_mem (.inl rfl)]
    exact congrArg (memByte · a) (foldl_keeps State.mem (fun u i => clearTile u s.iss.core i) (fun _ _ => rfl) s _)
  · have hcl := settleTiles_cleared (i := y.2) (by
      rw [endCommand_tiles, clearTiles_tiles]
      exact foldl_clear _ _ (.inl (List.mem_map_of_mem hy)) (entryTiles_bound ht y hy)) z hz
    exact ⟨hcl.elems, hcl.shadow, hcl.log⟩

/-! ### MREL (R242, R259) -/

theorem mrelPerform_mem {s : State} {q slot : Nat} {x : EngEntry} (hc : x.cmd ≠ .mchk) : (mrelPerform s q slot x).mem = s.mem := by
  unfold mrelPerform
  split
  · rw [endCommand_mem (.inr hc), modTeam_mem, checkTiles_mem]
  · dsimp only
    split
    · exact endCommand_mem (.inr hc)
    · refine (endCommand_mem (.inr hc)).trans ?_
      exact foldl_keeps State.mem (fun (s : State) (t : Nat × Nat) => modTile s q t.2 (fun _ => Tile.reset)) (fun _ _ => rfl) s _

theorem mrelReady_cmd {s : State} {e : Engine} {x : EngEntry} (h : mrelReady s e x = true) : x.cmd ≠ .mchk := by
  intro hc
  simp [mrelReady, hc] at h

theorem mrelPerform_done {s : State} {x : EngEntry} (hx : tget (engineOf s s.iss.core).table s.iss.id = some x)
    (hr : mrelReady s (engineOf s s.iss.core) x = true) :
    Quietly .mrelPerform s (settleTiles (mrelPerform s s.iss.core s.iss.id x) s.iss.core) := by
  refine ⟨?_, fun a => by rw [settleTiles_mem, mrelPerform_mem (mrelReady_cmd hr)]⟩
  change execMrelPerform s = _
  simp [execMrelPerform, hx, hr]

/-- A field of the teams that a change of one keeps. -/
theorem modTeam_keeps {β : Type} (p : Team → β) {f : Team → Team} (hf : ∀ t, p (f t) = p t) (s : State) (c k : Nat) :
    (tget (modTeam s c f).teams k).map p = (tget s.teams k).map p := by
  by_cases hk : k = c
  · subst hk
    cases hk : tget s.teams k with
    | none => rw [modTeam_none hk, hk]
    | some t => rw [modTeam_get hk, Option.map_some, Option.map_some, hf]
  · rw [modTeam_get_ne _ hk]

theorem finishEntry_resv (s : State) (c : Nat) (e : OttEntry) (k : Nat) :
    (tget (finishEntry s c e).teams k).map (·.resv) = (tget s.teams k).map (·.resv) := by
  have hg (t : Team) (k : Nat) (f : Group → Group) : (t.modGroup k f).resv = t.resv := by
    unfold Team.modGroup
    split <;> rfl
  unfold finishEntry
  dsimp only
  split
  · refine (modTeam_keeps Team.resv (fun t => hg t _ _) _ c k).trans (modTeam_keeps Team.resv (fun t => ?_) s c k)
    split
    · exact hg _ _ _
    · rfl
  · refine modTeam_keeps Team.resv (fun t => ?_) s c k
    split
    · exact hg _ _ _
    · rfl

theorem mrelPerform_resv {s : State} {q slot id : Nat} {x : EngEntry} (hc : x.cmd = .mrelBuf id) {t : Team}
    (ht : tget (mrelPerform s q slot x).teams x.core = some t) : ∀ v ∈ t.resv, v.id ≠ id := by
  obtain ⟨u, fail, he⟩ : ∃ u fail, mrelPerform s q slot x =
      endCommand (modTeam u x.core (fun t => { t with resv := t.resv.filter (fun v => v.id != id) })) q slot x 0 fail := by
    simp only [mrelPerform, hc]
    exact ⟨_, _, rfl⟩
  have hk := endCommand_keeps (fun s => (tget s.teams x.core).map (·.resv)) (fun s c e => finishEntry_resv s c e x.core)
    (modTeam u x.core (fun t => { t with resv := t.resv.filter (fun v => v.id != id) })) q slot (x := x) 0 (fail := fail) (.inr (by simp [hc]))
  rw [← he, ht] at hk
  change some t.resv = (tget (modTeam u x.core _).teams x.core).map (·.resv) at hk
  cases hu : tget u.teams x.core with
  | none => simp [modTeam_none hu, hu] at hk
  | some t' =>
    rw [modTeam_get hu] at hk
    have hr : t.resv = t'.resv.filter (fun v => v.id != id) := Option.some.inj hk
    intro v hv
    rw [hr] at hv
    simpa using (List.mem_filter.1 hv).2

/-! ### MRSV's copy (R258) -/

theorem resvAsk_entry (core ctx : Nat) (v : Reservation) (p : Perf) : (resvAsk core ctx v p).e = p.e := by
  refine foldl_keeps Perf.e _ (fun p k => ?_) p _
  dsimp only
  split <;> rfl

/-- The pieces of a reservation's source that lie in the package are read into its range, in one step (log 74). -/
def resvRead (s : State) (t : Team) (v : Reservation) (e : OttEntry) : Perf :=
  (List.range (v.len / 32)).foldl (resvSector s.iss.core (teamCtx s t) (isService s t) v) ⟨s, e, []⟩

section

variable {s : State} {t : Team} {v : Reservation} {e : OttEntry} {g : Group} (ht : tget s.teams s.iss.core = some t)
  (hv : t.resv.find? (fun v => v.id == s.iss.id) = some v)
  (he : t.ott.find? (fun e => match e.work with | .mrsv i => i == s.iss.id | _ => false) = some e)
  (ho : inOrder s (teamCtx s t) t e = true) (hw : waitsForFirmware t e.grp = false) (hb : resvBehind t e = false)
  (hg : groupAt s s.iss.core e.grp = some g) (hn : resvNotValid s (teamCtx s t) v = none) (hok : (resvRead s t v e).e.bad = none)

include ht hv he ho hw hb hg hn hok

theorem mrsvCopyComplete_eq : exec .mrsvCopyComplete s =
    let p := resvAsk s.iss.core (teamCtx s t) v (resvRead s t v e)
    if p.left.isEmpty then .next (finishResv p.st s.iss.core v.id p.e)
    else .next (putEntry p.st s.iss.core { p.e with work := .remote p.left }) := by
  have hask : (resvAsk s.iss.core (teamCtx s t) v (resvRead s t v e)).e.bad = none := by rw [resvAsk_entry, hok]
  change execMrsvCopyComplete s = _
  unfold execMrsvCopyComplete
  simp only [ht]
  split
  · rename_i v' e' hv' he'
    obtain rfl : v = v' := Option.some.inj (hv.symm.trans hv')
    obtain rfl : e = e' := Option.some.inj (he.symm.trans he')
    simp only [hw, ho, hb, hg, hn, ← resvRead.eq_1, hok, hask, Bool.not_true, Bool.or_self, Bool.false_eq_true, if_false, Option.isSome_none]
  · rename_i hno
    exact absurd he (hno v e hv)

end

theorem engineEventsComplete : Claims.EngineEvents := by
  refine ⟨fun s slot x ts hg ha ht => engineGrant_done hg ha ht, fun s slot x hg ha ht => engineGrant_fails hg ha ht,
    fun s slot x ha => ?_, fun s x hx ha hg => engineEntryAge_done hx ha hg,
    fun s slot x ts hi hg hx ht => ⟨fun hp => engineCommandComplete_leaves hi hg hx ht rfl hp,
      fun hp => engineCommandComplete_stays hi hg hx ht rfl hp, fun hr => ?_⟩,
    fun s x lines hi hx hc hp => engineCommandAcked hi hx hc hp, fun s slot x ts hi hg hx ht hc => mzero_clears hi hg hx ht hc,
    fun s x hx hr => ⟨mrelPerform_done hx hr, fun hc ht => ?_, fun id hc t ht => mrelPerform_resv hc ht⟩,
    fun s t v e g ht hv he ho hw hb hg hn => ⟨fun hok hl => ?_, fun hok hl => ?_⟩⟩
  · obtain ⟨hin, hall⟩ := arbiter_best ha
    exact ⟨hin.1, hin.2, hall⟩
  · rw [hr]
    exact endCommand_gone
  · simp only [mrelPerform, hc, ht]
  · exact (mrsvCopyComplete_eq ht hv he ho hw hb hg hn hok).trans (if_pos (List.isEmpty_iff.2 hl))
  · exact (mrsvCopyComplete_eq ht hv he ho hw hb hg hn hok).trans (if_neg (mt List.isEmpty_iff.1 hl))

end Sys2Proof.Machine

end

section
/-! The events of the copy channels (R168, R233, R234, R236, R240). -/

namespace Sys2Proof.Machine

theorem copySector_done {s : State} {t : Team} {c : Channel} (ht : tget s.teams s.iss.core = some t) (hc : t.chan[s.iss.id]? = some c)
    (hr : chanReady t c = true) (hw : chanWaits s c = false) :
    exec .copySectorDelivered s = .next (copySector s s.iss.core s.iss.id c) := by
  change execCopySectorDelivered s = _
  simp [execCopySectorDelivered, ht, hc, hr, hw]

theorem copyPreemptPause_done {s : State} {t : Team} {c : Channel} (ht : tget s.teams s.iss.core = some t) (hc : t.chan[s.iss.id]? = some c)
    (hs : t.stopping = true) (ha : c.st = .active) (hp : c.paused = false) (hm : c.p % 2 ^ 16 = 0 ∨ c.waitRemote = true) :
    Quietly .copyPreemptPause s (modTeam (dropChanReads s s.iss.core s.iss.id) s.iss.core (fun t =>
      { t with chan := lmod t.chan s.iss.id (fun c => { c with paused := true, waitRemote := false, held := [] }) })) := by
  refine ⟨?_, fun a => by rw [modTeam_mem]; rfl⟩
  change execCopyPreemptPause s = _
  rw [execCopyPreemptPause, ht]
  dsimp only
  rw [hc]
  exact if_pos (by simpa [hs, ha, hp] using hm)

/-! ### A sector of a CPY (R168, R233) -/

theorem memRead_eq_map (m : List Host.Cell) (a n : Nat) : memRead m a n = (List.range n).map (fun k => memByte m (a + k)) := by
  induction n generalizing a with
  | zero => rfl
  | succ n ih =>
    rw [memRead, ih, List.range_succ_eq_map, List.map_cons, List.map_map]
    simp [Function.comp_def, Nat.add_assoc, Nat.add_comm 1]

/-- A sector as the channel delivers it: a byte that it has kept, else what memory holds (R168). -/
theorem layOlds_memRead (c : Channel) (m : List Host.Cell) (a n : Nat) : c.layOlds (memRead m a n) =
    (List.range n).map (fun k => ((c.olds.find? (fun o => o.1 == c.p + k)).map (·.2)).getD (memByte m (a + k))) := by
  rw [memRead_eq_map, Channel.layOlds]
  split
  · rename_i h
    simp [List.isEmpty_iff.1 h]
  · refine List.ext_getElem (by simp) (fun i h _ => ?_)
    simp

theorem hold_held (c : Channel) (x : Xl) : ∃ h, c.hold x = { c with held := h } := by
  unfold Channel.hold
  split
  · exact ⟨_, rfl⟩
  · exact ⟨_, rfl⟩

/-- A channel whose sector's page translates waits for no migration (R68). -/
theorem chanWaits_of_xl {s : State} {c : Channel} {x : Xl} (hk : c.kind = .cpy) (hx : chanXl s c (c.src + c.p) = .ok x) :
    chanWaits s c = false := by
  simp [chanWaits, sideWaits, hk, hx]

/-- A channel once it has delivered a sector that is not its last. -/
def Channel.advanced (c : Channel) : Channel :=
  { c with p := c.p + 32, olds := c.olds.filter (fun o => decide (c.p + 32 ≤ o.1)), waitRemote := false }

theorem deliver_cpy {s : State} {core k : Nat} {t : Team} {c : Channel} (ht : tget s.teams core = some t) (hk : c.kind = .cpy)
    (hl : c.p + 32 < c.len) (bs : List Byte) : deliver s core k c bs =
      modTeam (spadWrite s core (c.dst + c.p) bs) core (fun t => { t with chan := t.chan.set k c.advanced }) := by
  have hcores : chanCores s core c = [core] := by simp [chanCores, ht, hk]
  unfold deliver
  simp only [hk, hcores, List.foldl_cons, List.foldl_nil, Channel.advanced]
  exact if_neg (Nat.not_le.2 hl)

/-- The sector of a CPY that the channel reads in memory, delivered. -/
theorem copySector_cpy {s : State} {core k : Nat} {t : Team} {c : Channel} {x : Xl} (ht : tget s.teams core = some t) (hk : c.kind = .cpy)
    (hx : chanXl s c (c.src + c.p) = .ok x) (hmt : x.mt = 0) (hl : c.p + 32 < c.len) (hu : s.upsets = [])
    (hpop : physAddr s c.ctx x (c.src + c.p) false + 32 ≤ hbmTop) (hlost : lostAt s (physAddr s c.ctx x (c.src + c.p) false) 32 = false) :
    ∃ h, copySector s core k c = modTeam
      (spadWrite (l2Touch s (physAddr s c.ctx x (c.src + c.p) false) c.hint x.wp false) core (c.dst + c.p)
        (c.layOlds (memRead s.mem (physAddr s c.ctx x (c.src + c.p) false) 32)))
      core (fun t => { t with chan := t.chan.set k { c.advanced with held := h } }) := by
  obtain ⟨h, hh⟩ := hold_held c x
  refine ⟨h, ?_⟩
  have hadm : (!admits .copySrc x.mt) = false := by simp [hmt, admits]
  have hpeer : ¬ (x.mt == 5) = true := by simp [hmt]
  have hhole : ¬ (!populated (physAddr s c.ctx x (c.src + c.p) false) 32) = true := by simp [populated, hpop]
  unfold copySector
  rw [if_neg (by simp [hk])]
  simp only [hx, hadm, Bool.false_eq_true, if_false, hh, hlost]
  rw [if_neg hpeer, if_neg hhole, meetUpsets_none hu]
  have ht' : tget (l2Touch s (physAddr s c.ctx x (c.src + c.p) false) c.hint x.wp false).teams core = some t := ht
  exact deliver_cpy (c := { c with held := h }) ht' hk hl _

theorem spadWrite_team {s : State} {core : Nat} {t : Team} (ht : tget s.teams core = some t) (off : Nat) (bs : List Byte) :
    tget (spadWrite s core off bs).teams core =
      some { t with spad := memWrite t.spad off bs, spadBad := wordsLeft t.spadBad off bs.length } :=
  modTeam_get (by rw [noteUnits_teams]; exact ht) _

theorem copySector_delivers {s : State} {t : Team} {c : Channel} {x : Xl} (ht : tget s.teams s.iss.core = some t)
    (hc : t.chan[s.iss.id]? = some c) (hr : chanReady t c = true) (hk : c.kind = .cpy) (hx : chanXl s c (c.src + c.p) = .ok x)
    (hmt : x.mt = 0) (hl : c.p + 32 < c.len) (hu : s.upsets = []) (hwf : Memory.wf t.spad = true)
    (hpop : physAddr s c.ctx x (c.src + c.p) false + 32 ≤ hbmTop) (hlost : lostAt s (physAddr s c.ctx x (c.src + c.p) false) 32 = false) :
    ∃ u t', exec .copySectorDelivered s = .next u ∧ SameMemory s u ∧ tget u.teams s.iss.core = some t'
      ∧ memRead t'.spad (c.dst + c.p) 32 = (List.range 32).map (fun k =>
          ((c.olds.find? (fun o => o.1 == c.p + k)).map (·.2)).getD (memByte s.mem (physAddr s c.ctx x (c.src + c.p) false + k)))
      ∧ (∀ a, ¬ (c.dst + c.p ≤ a ∧ a < c.dst + c.p + 32) → memByte t'.spad a = memByte t.spad a)
      ∧ (t'.chan[s.iss.id]?).map (fun c => (c.p, c.st)) = some (c.p + 32, c.st) := by
  obtain ⟨h, hs⟩ := copySector_cpy (k := s.iss.id) ht hk hx hmt hl hu hpop hlost
  rw [layOlds_memRead] at hs
  generalize hbs : (List.range 32).map (fun k =>
    ((c.olds.find? (fun o => o.1 == c.p + k)).map (·.2)).getD (memByte s.mem (physAddr s c.ctx x (c.src + c.p) false + k))) = bs at hs ⊢
  have hlen : bs.length = 32 := by rw [← hbs, List.length_map, List.length_range]
  have he := copySector_done ht hc hr (chanWaits_of_xl hk hx)
  rw [hs] at he
  refine ⟨_, _, he, fun a => by rw [modTeam_mem, spadWrite_mem]; rfl, modTeam_get (spadWrite_team (by exact ht) _ _) _, ?_, fun a ha => ?_, ?_⟩
  · have hin := memRead_memWrite_in t.spad hwf (c.dst + c.p) 0 32 bs (by omega)
    exact hin.trans (List.take_of_length_le (by simp [hlen]))
  · exact memByte_memWrite_out _ _ _ _ (by omega)
  · obtain ⟨hlt, -⟩ := List.getElem?_eq_some_iff.1 hc
    simp [hlt, Channel.advanced]

/-! ### PUBL_SWAP (R240) -/

section

variable {s : State} {t : Team} {e : OttEntry} {a : Acc} {sc : Scope} (ht : tget s.teams s.iss.core = some t)
  (he : t.ott.find? (fun e => e.id == s.iss.id) = some e) (hw : (realEntry t e).work = .publ a sc)
  (ho : inOrder s (teamCtx s t) t (realEntry t e) = true)

include ht he hw ho

theorem publSwap_performs : exec .publSwap s = .next (performEntry s s.iss.core (teamCtx s t) (realEntry t e)) := by
  change execPublSwap s = _
  simp only [execPublSwap, ht, he, Option.map_some, hw, ho, if_true]

end

/-- Before a PUBL nothing but a release at .sys acts: it applies every pending invalidation (R299, log 80). -/
theorem beforePubl {s : State} {core ctx : Nat} {e : OttEntry} {a : Acc} {sc : Scope} (hw : e.work = .publ a sc) (hc : clearsL1 e.ord = false)
    (hu : s.upsets = []) : beforeEntry s core ctx e = if e.ord.rel && e.ord.scope == .sys then applyAll s else s := by
  have hu' : (applyAll s).upsets = [] := (foldl_keeps State.upsets applyInval (fun _ _ => rfl) s _).trans hu
  have heff : effOrd e.ord e.work = e.ord := by simp [effOrd, hw, workRemote]
  unfold beforeEntry
  simp only [hc, heff, Bool.false_eq_true, if_false]
  split
  · simp [meetEntry, hu']
  · simp [meetEntry, hu]

theorem performEntry_publ {s : State} {core ctx : Nat} {e : OttEntry} {a : Acc} {sc : Scope} (hw : e.work = .publ a sc) :
    performEntry s core ctx e = if tgetD (ctxOf (beforeEntry s core ctx e) ctx).openCpyg a.xl.aux 0 > 0
        || (ctxOf (beforeEntry s core ctx e) ctx).torn.contains a.xl.aux then
        finishEntry (latchErr (beforeEntry s core ctx e) core e.grp 0x14 0 (word a.va) 0) core e
      else finishEntry (setMarks (modCtx (beforeEntry s core ctx e) ctx (fun x =>
        { x with sel := if x.sel.contains a.xl.aux then x.sel.filter (· != a.xl.aux) else insertNat a.xl.aux x.sel })) core ctx e) core e := by
  simp only [performEntry, hw]

/-- The state in which a PUBL is performed (R299, log 80). -/
def publState (s : State) (o : Ord) : State := if o.rel && o.scope == .sys then applyAll s else s

theorem publState_mem (s : State) (o : Ord) : (publState s o).mem = s.mem := by
  unfold publState
  split
  · exact applyAll_mem s
  · rfl

theorem publState_ctxOf (s : State) (o : Ord) (ctx : Nat) : ctxOf (publState s o) ctx = ctxOf s ctx := by
  unfold publState
  split
  · exact congrArg (tgetD · ctx _) (ctxs_of_sansMemory (applyAll_sansMemory s))
  · rfl

section

variable {s : State} {t : Team} {e : OttEntry} {a : Acc} {sc : Scope} (ht : tget s.teams s.iss.core = some t)
  (he : t.ott.find? (fun e => e.id == s.iss.id) = some e) (hw : (realEntry t e).work = .publ a sc)
  (ho : inOrder s (teamCtx s t) t (realEntry t e) = true) (hc : clearsL1 (realEntry t e).ord = false) (hu : s.upsets = [])

include ht he hw ho hc hu

/-- A buffer that no copy has open and whose back is whole is swapped (R240). -/
theorem publSwap_swaps (hopen : tgetD (ctxOf s (teamCtx s t)).openCpyg a.xl.aux 0 = 0) (htorn : a.xl.aux ∉ (ctxOf s (teamCtx s t)).torn) :
    Quietly .publSwap s (finishEntry (setMarks (modCtx (publState s (realEntry t e).ord) (teamCtx s t) (fun x =>
      { x with sel := if x.sel.contains a.xl.aux then x.sel.filter (· != a.xl.aux) else insertNat a.xl.aux x.sel }))
      s.iss.core (teamCtx s t) (realEntry t e)) s.iss.core (realEntry t e)) := by
  refine ⟨(publSwap_performs ht he hw ho).trans ?_, fun b => by rw [finishEntry_mem, setMarks_mem, modCtx_mem, publState_mem]⟩
  rw [performEntry_publ hw, beforePubl hw hc hu]
  refine congrArg _ (if_neg ?_)
  change ¬ (tgetD (ctxOf (publState s _) _).openCpyg _ 0 > 0 || (ctxOf (publState s _) _).torn.contains _) = true
  simp [publState_ctxOf, hopen, htorn]

/-- Of another the swap is refused with ECOPY (R240). -/
theorem publSwap_refuses (hbad : 0 < tgetD (ctxOf s (teamCtx s t)).openCpyg a.xl.aux 0 ∨ a.xl.aux ∈ (ctxOf s (teamCtx s t)).torn) :
    Quietly .publSwap s (finishEntry (latchErr (publState s (realEntry t e).ord) s.iss.core (realEntry t e).grp 0x14 0 (word a.va) 0)
      s.iss.core (realEntry t e)) := by
  refine ⟨(publSwap_performs ht he hw ho).trans ?_, fun b => ?_⟩
  · rw [performEntry_publ hw, beforePubl hw hc hu]
    refine congrArg _ (if_pos ?_)
    change (tgetD (ctxOf (publState s _) _).openCpyg _ 0 > 0 || (ctxOf (publState s _) _).torn.contains _) = true
    simpa [publState_ctxOf] using hbad
  · rw [finishEntry_mem]
    exact congrArg (memByte · b) ((modGroup_mem ..).trans (publState_mem ..))

end

theorem copyEventsComplete : Claims.CopyEvents :=
  ⟨fun _ _ _ ht hc hr hw => copySector_done ht hc hr hw,
    fun _ _ _ _ ht hc hr hk hx hmt hl hu hwf hpop hlost => copySector_delivers ht hc hr hk hx hmt hl hu hwf hpop hlost,
    fun _ _ _ ht hc hs ha hp hm => copyPreemptPause_done ht hc hs ha hp hm,
    fun _ _ _ _ _ ht he hw ho hc hu => ⟨publSwap_swaps ht he hw ho hc hu, publSwap_refuses ht he hw ho hc hu⟩⟩

/-- Settles O46, event by event. -/
theorem engineAndCopyEvents : Obligations.EngineAndCopyEvents := ⟨engineEventsComplete, copyEventsComplete⟩

end Sys2Proof.Machine

end

section
/-! A request's events at its owner, and an owner restart (R269, R270, R274, R278, R280 to R282, R297, R299). -/

namespace Sys2Proof.Machine

/-! ### What a packet's way depends on -/

/-- What decides the packets that leave by a send: the pod, its links and live packages, the ports under test, and what has left. -/
def State.wires (s : State) := (s.pod, s.uePorts, s.links, s.live, s.pkgid, s.inc, s.out, fun p => portTested s p)

theorem wires_of_sansMemory {s t : State} (h : t.sansMemory = s.sansMemory) : t.wires = s.wires := by
  have e := congrArg State.wires h
  exact e

theorem out_of_wires {s t : State} (h : t.wires = s.wires) : t.out = s.out :=
  congrArg (fun w => w.2.2.2.2.2.2.1) h

theorem inc_of_wires {s t : State} (h : t.wires = s.wires) : t.inc = s.inc :=
  congrArg (fun w => w.2.2.2.2.2.1) h

theorem sendTo_out_congr {s t : State} (h : t.wires = s.wires) (dst : Nat) (m : Message) : (sendTo t dst m).out = (sendTo s dst m).out := by
  simp only [State.wires, Prod.mk.injEq] at h
  obtain ⟨hpod, hue, hlinks, hlive, hid, -, hout, ht⟩ := h
  have htest (p : Nat) : portTested t p = portTested s p := congrFun ht p
  have hup (a b : Nat) : linkUp t a b = linkUp s a b := by simp only [linkUp, portMode, hpod, hue, hlinks, hid, htest]
  have hroute : routeOf t t.pkgid dst = routeOf s s.pkgid dst := by simp only [routeOf, hpod, hlive, hid, hup]
  unfold sendTo
  rw [hroute, hpod, hid, hout]
  cases routeOf s s.pkgid dst with
  | none => exact hout
  | some via => rfl

theorem answer_out_congr {s t : State} (h : t.wires = s.wires) (pkg req yst : Nat) (data : List Byte) :
    (answer t pkg req yst data).out = (answer s pkg req yst data).out := by
  unfold answer
  rw [inc_of_wires h]
  exact sendTo_out_congr h _ _

theorem keepOlds_wires (s : State) (ps : List (Nat × Nat)) : (keepOlds s ps).wires = s.wires := by
  have ht (p : Nat) : portTested (keepOlds s ps) p = portTested s p := by
    simp only [portTested, keepOlds, tmap, List.any_map]
    rfl
  simp only [State.wires, ht]
  rfl

/-! ### Reads -/

theorem linesOf_one {pa len : Nat} (hl : 0 < len) (h : pa / 128 = (pa + len - 1) / 128) : linesOf pa len = [pa / 128] := by
  simp [linesOf, hl.ne', ← h, List.range_succ]

theorem oneAccess_one {s : State} {pa len : Nat} (port : Nat) (hl : 0 < len) (h : pa / 128 = (pa + len - 1) / 128) :
    oneAccess s port [(pa, len)] = s := by
  simp [oneAccess, linesOf_one hl h, sortNat, insertNat]

section
variable {s : State} {pkg port req inc : Nat} {acq : Bool} {pols parts : List (Nat × Nat)}
  (hm : s.msg = some (.remoteReadAtOwner pkg port req inc acq pols parts))
include hm

theorem readAtOwner_noPort (hp : s.pod ≤ port + 1) : Quietly .remoteReadAtOwner s s := by
  refine ⟨?_, fun _ => rfl⟩
  change execRemoteReadAtOwner s = _
  simp only [execRemoteReadAtOwner, hm, if_pos hp]

variable (hp : port + 1 < s.pod)
include hp

theorem readAtOwner_stale (hi : inc ≠ s.inc) : Quietly .remoteReadAtOwner s (answer s pkg req 2 []) := by
  refine ⟨?_, fun a => by rw [answer_mem]⟩
  change execRemoteReadAtOwner s = _
  simp [execRemoteReadAtOwner, hm, hi, Nat.not_le.2 hp]

variable (hi : inc = s.inc)
include hi

theorem readAtOwner_waits (ha : acq = true) (hf : parts.any (fun p => !markFree s 4 p.1 p.2) = true) :
    Quietly .remoteReadAtOwner s (holdMsg s (.remoteReadAtOwner pkg port req inc acq pols parts)) := by
  refine ⟨?_, fun _ => rfl⟩
  change execRemoteReadAtOwner s = _
  simp only [execRemoteReadAtOwner, hm, if_neg (Nat.not_le.2 hp), hi, bne_self_eq_false, Bool.false_eq_true, if_false, ha, hf,
    Bool.and_self, if_true]

/-- A read of one part that waits for no release is performed. -/
theorem readAtOwner_goes {pa len : Nat} (h1 : parts = [(pa, len)]) (hf : acq = true → markFree s 4 pa len = true) :
    exec .remoteReadAtOwner s = .next (ownerRead s pkg port req pols [(pa, len)]) := by
  subst h1
  change execRemoteReadAtOwner s = _
  have hw : ¬ (acq && [(pa, len)].any (fun p => !markFree s 4 p.1 p.2)) = true := by
    simpa using hf
  simp only [execRemoteReadAtOwner, hm, if_neg (Nat.not_le.2 hp), hi, bne_self_eq_false, Bool.false_eq_true, if_false, if_neg hw]

end

/-- A read of one part within a line is answered with what the port's buffer holds of the line, if no word of it has an error. -/
theorem ownerRead_line {s : State} {pkg port req pa len : Nat} {pols : List (Nat × Nat)} (hx : exportedRange s pa len = true) (hl : 0 < len)
    (h : pa / 128 = (pa + len - 1) / 128) {u : State} {bs : List Byte} {bad : List Nat}
    (hr : portRead s port (polAt pols 0).1 (polAt pols 0).2 (pa / 128) = (u, bs, bad)) (hb : wordAt (pa / 128) bad (pa, len) = none) :
    ownerRead s pkg port req pols [(pa, len)] = answer u pkg req 0 ((bs.drop (pa % 128)).take len) := by
  simp [ownerRead, hx, oneAccess_one port hl h, portBytes, linesOf_one hl h, hr, hb]

theorem ownerRead_notExported {s : State} {pa len : Nat} (pkg port req : Nat) (pols : List (Nat × Nat)) (hx : exportedRange s pa len = false) :
    ownerRead s pkg port req pols [(pa, len)] = answer (logViolation s pa) pkg req 3 [] := by
  simp [ownerRead, hx]

theorem portRead_buffered {s : State} {port line : Nat} {x : List Byte × List Nat} (cp wp : Nat)
    (hb : s.portBufs.find? (fun b => b.1 == port && b.2.1 == line) = some (port, line, x)) : portRead s port cp wp line = (s, x) := by
  rw [portRead, hb]

/-- A line that the buffer does not hold is read at home, and only caches and buffers change. -/
theorem portRead_fills {s : State} {port line : Nat} (cp wp : Nat) (hu : s.upsets = [])
    (hb : s.portBufs.find? (fun b => b.1 == port && b.2.1 == line) = none) :
    ∃ u, portRead s port cp wp line = (u, memRead s.mem (line * 128) 128, lineBad s line) ∧ u.sansMemory = s.sansMemory ∧ u.mem = s.mem := by
  rw [portRead, hb]
  simp only [meetUpsets_none hu]
  exact ⟨_, rfl, rfl, rfl⟩

theorem poisoned_false_iff {s : State} {pa n : Nat} : poisoned s pa n = false ↔ ∀ x ∈ sectorsOf pa n, x ∉ s.poison := by
  simp [poisoned]

theorem mem_sectorsOf {pa n x : Nat} (hn : 0 < n) : x ∈ sectorsOf pa n ↔ pa / 32 ≤ x ∧ x ≤ (pa + n - 1) / 32 := by
  have hle : pa / 32 ≤ (pa + n - 1) / 32 := Nat.div_le_div_right (by omega)
  simp only [sectorsOf, hn.ne', if_false, List.mem_map, List.mem_range]
  constructor
  · rintro ⟨k, hk, rfl⟩
    omega
  · intro ⟨h1, h2⟩
    exact ⟨x - pa / 32, by omega, by omega⟩

/-- A range without poison meets no word with an error in its line. -/
theorem wordAt_clean {s : State} {pa len : Nat} (hl : 0 < len) (hp : poisoned s pa len = false) :
    wordAt (pa / 128) (lineBad s (pa / 128)) (pa, len) = none := by
  simp only [wordAt, Option.map_eq_none_iff, List.find?_eq_none]
  intro w hw
  obtain ⟨k, hk, hkw⟩ := List.mem_filterMap.1 hw
  have hk16 := List.mem_range.1 hk
  dsimp only at hkw
  split at hkw
  · rename_i hpois
    have hwk : w % 16 = k := by
      have := Option.some.inj hkw
      split at this <;> omega
    intro hin
    simp only [Bool.and_eq_true, decide_eq_true_eq, hwk] at hin
    refine poisoned_false_iff.1 hp (4 * (pa / 128) + k / 4) ((mem_sectorsOf hl).2 ?_) (List.contains_iff_mem.1 hpois)
    omega
  · cases hkw

theorem memRead_drop (m : List Host.Cell) (a n k : Nat) : (memRead m a n).drop k = memRead m (a + k) (n - k) := by
  induction k generalizing a n with
  | zero => simp
  | succ k ih =>
    cases n with
    | zero => simp [memRead]
    | succ n => rw [memRead, List.drop_succ_cons, ih, Nat.add_sub_add_right, Nat.add_assoc, Nat.add_comm 1 k]

theorem memRead_take (m : List Host.Cell) (a n k : Nat) (h : k ≤ n) : (memRead m a n).take k = memRead m a k := by
  induction k generalizing a n with
  | zero => simp [memRead]
  | succ k ih =>
    cases n with
    | zero => omega
    | succ n => rw [memRead, List.take_succ_cons, ih _ _ (by omega), memRead]

/-- The bytes of a range from those of its line. -/
theorem memRead_line (m : List Host.Cell) {pa len : Nat} (h : pa / 128 = (pa + len - 1) / 128) :
    ((memRead m (pa / 128 * 128) 128).drop (pa % 128)).take len = memRead m pa len := by
  rw [memRead_drop, Nat.div_add_mod', memRead_take _ _ _ _ (by omega)]

/-! ### Writes -/

section
variable {s : State} {pkg seq inc : Nat} {pols : List (Nat × Nat)} {whole : Bool} {data : List (Nat × List Byte)}
  (hm : s.msg = some (.remoteWriteAtOwner pkg seq inc pols whole data))
include hm

theorem writeAtOwner_stale (hi : inc ≠ s.inc) : Quietly .remoteWriteAtOwner s (sendTo s pkg (.wcDrainAck seq 2 s.inc)) := by
  refine ⟨?_, fun a => by rw [sendTo_mem]⟩
  change execRemoteWriteAtOwner s = _
  simp [execRemoteWriteAtOwner, hm, hi, ackWrite]

variable (hi : inc = s.inc)
include hi

theorem writeAtOwner_repeat {x : Nat × Nat × Nat} (hx : s.seqDone.find? (fun x => x.1 == pkg && x.2.1 == seq) = some x) :
    Quietly .remoteWriteAtOwner s (if invalPending s (dataRanges data) then holdMsg s (.remoteWriteAtOwner pkg seq inc pols whole data)
      else sendTo s pkg (.wcDrainAck seq x.2.2 s.inc)) := by
  refine ⟨?_, fun a => by split <;> simp⟩
  change execRemoteWriteAtOwner s = _
  simp [execRemoteWriteAtOwner, hm, hi, hx, ackWrite]

/-- A new transport sequence is performed, and acknowledged once its invalidations are applied. -/
theorem writeAtOwner_new (hx : s.seqDone.find? (fun x => x.1 == pkg && x.2.1 == seq) = none) :
    exec .remoteWriteAtOwner s = .next (
      let r := ownerWrite s pols whole data
      let t := { r.1 with seqDone := r.1.seqDone ++ [(pkg, seq, r.2)] }
      if invalPending t (dataRanges data) then holdMsg t (.remoteWriteAtOwner pkg seq inc pols whole data) else ackWrite t pkg seq r.2) := by
  change execRemoteWriteAtOwner s = _
  simp only [execRemoteWriteAtOwner, hm, hi, hx, bne_self_eq_false, Bool.false_eq_true, if_false]

end

/-- A byte in an exported frame is written, and what decides the packets that leave stays. -/
theorem ownerWrite_byte {s : State} {pa : Nat} (pols : List (Nat × Nat)) (whole : Bool) (b : Byte) (hx : exportedRange s pa 1 = true) :
    ∃ u, ownerWrite s pols whole [(pa, [b])] = (u, 0) ∧ u.mem = memWrite s.mem pa [b] ∧ u.wires = s.wires := by
  have h1 : (dataRanges [(pa, [b])]).find? (fun d => !exportedRange s d.1 d.2) = none := by simp [dataRanges, hx]
  rw [ownerWrite, h1]
  refine ⟨_, rfl, ?_, ?_⟩
  · simp only [List.zipIdx_cons, List.zipIdx_nil, List.foldl_cons, List.foldl_nil, homeWrite_mem, l2TouchAll_mem, meetUpsets_mem]
    split <;> simp
  · simp only [List.zipIdx_cons, List.zipIdx_nil, List.foldl_cons, List.foldl_nil]
    refine (wires_of_sansMemory ((homeWrite_sansMemory ..).trans ((l2TouchAll_sansMemory ..).trans (meetUpsets_sansMemory ..)))).trans ?_
    split
    · exact keepOlds_wires ..
    · rfl

theorem writeAtOwner_byte {s : State} {pkg seq inc pa : Nat} {pols : List (Nat × Nat)} {whole : Bool} {b : Byte}
    (hm : s.msg = some (.remoteWriteAtOwner pkg seq inc pols whole [(pa, [b])])) (hi : inc = s.inc)
    (hx : s.seqDone.find? (fun x => x.1 == pkg && x.2.1 == seq) = none) (he : exportedRange s pa 1 = true) :
    ∃ t, exec .remoteWriteAtOwner s = .next t
      ∧ (if invalPending t [(pa, 1)] then .remoteWriteAtOwner pkg seq inc pols whole [(pa, [b])] ∈ t.held ∧ t.out = s.out
         else t.out = (sendTo s pkg (.wcDrainAck seq 0 s.inc)).out)
      ∧ (pkg, seq, 0) ∈ t.seqDone ∧ (Memory.wf s.mem = true → memByte t.mem pa = b)
      ∧ ∀ a, a ≠ pa → memByte t.mem a = memByte s.mem a := by
  obtain ⟨u, hw, hmem, hwires⟩ := ownerWrite_byte pols whole b he
  have hwritten : (Memory.wf s.mem = true → memByte u.mem pa = b) ∧ ∀ a, a ≠ pa → memByte u.mem a = memByte s.mem a := by
    rw [hmem]
    exact ⟨fun hwf => memByte_memSet_self _ hwf _ _, fun a ha => memByte_memSet_ne _ _ _ _ ha⟩
  have hdo := writeAtOwner_new hm hi hx
  simp only [hw, dataRanges, List.map_cons, List.map_nil, List.length_singleton] at hdo
  set v := { u with seqDone := u.seqDone ++ [(pkg, seq, 0)] } with hv
  have hvw : v.wires = s.wires := hwires
  by_cases hp : invalPending v [(pa, 1)] = true
  · rw [if_pos hp] at hdo
    refine ⟨_, hdo, ?_, by simp [holdMsg, v], hwritten⟩
    rw [if_pos (show invalPending (holdMsg v _) [(pa, 1)] = true from hp)]
    exact ⟨by simp [holdMsg], out_of_wires hvw⟩
  · rw [if_neg hp] at hdo
    obtain ⟨out, ho⟩ := sendTo_only v pkg (.wcDrainAck seq 0 v.inc)
    refine ⟨_, hdo, ?_, ?_, ?_⟩
    · rw [if_neg (show ¬ invalPending (ackWrite v pkg seq 0) [(pa, 1)] = true by rw [ackWrite, ho]; exact hp), ackWrite, inc_of_wires hvw]
      exact sendTo_out_congr hvw _ _
    · rw [ackWrite, ho]
      simp [v]
    · rw [ackWrite_mem]
      exact hwritten

/-! ### Stream operations -/

theorem lwmSteps_only (s : State) (pkg ctx stream : Nat) (lwm : BitVec 32) :
    ∃ recs cache, (lwmSteps s pkg ctx stream lwm).1 = { s with streamRecs := recs, resultCache := cache } := by
  simp only [lwmSteps]
  (repeat' split) <;> exact ⟨_, _, rfl⟩

section
variable {s : State} {pkg ctx stream inc req pa op ty cp wp : Nat} {serial lwm : BitVec 32} {b n : Word}
  (hm : s.msg = some (.streamRequestAtOwner pkg ctx stream serial lwm inc req pa op ty cp wp b n))
include hm

theorem streamRequest_stale (hi : inc ≠ s.inc) : Quietly .streamRequestAtOwner s (answer s pkg req 2 []) := by
  refine ⟨?_, fun a => by rw [answer_mem]⟩
  change execStreamRequestAtOwner s = _
  simp [execStreamRequestAtOwner, hm, hi]

variable (hi : inc = s.inc) (ho : olderSerial serial (lwmSteps s pkg ctx stream lwm).2 = false)
include hi ho

theorem streamRequest_repeat {e : CacheEntry}
    (hc : (lwmSteps s pkg ctx stream lwm).1.resultCache.find?
      (fun e => e.pkg == pkg && e.ctx == ctx && e.stream == stream && e.serial == serial) = some e) :
    Quietly .streamRequestAtOwner s (if invalPending (lwmSteps s pkg ctx stream lwm).1 [(pa, tyBits ty / 8)] then
        holdMsg (lwmSteps s pkg ctx stream lwm).1 (.streamRequestAtOwner pkg ctx stream serial lwm inc req pa op ty cp wp b n)
      else answer (lwmSteps s pkg ctx stream lwm).1 pkg req e.yst (leBytes 8 e.old.toNat)) := by
  refine ⟨?_, fun a => by split <;> simp⟩
  change execStreamRequestAtOwner s = _
  simp [execStreamRequestAtOwner, hm, hi, ho, hc]

variable (hc : (lwmSteps s pkg ctx stream lwm).1.resultCache.find?
    (fun e => e.pkg == pkg && e.ctx == ctx && e.stream == stream && e.serial == serial) = none)
  (hl : (lwmSteps s pkg ctx stream lwm).1.resultCache.length < 65536)
  (hf : markFree (lwmSteps s pkg ctx stream lwm).1 4 pa (tyBits ty / 8) = true)
include hc hl hf

/-- A new operation is performed, and its result cached and answered once its invalidations are applied. -/
theorem streamRequest_new : exec .streamRequestAtOwner s = .next (
    let x := ownerAtomic (lwmSteps s pkg ctx stream lwm).1 pa op ty cp wp b n
    let t := { x.1 with resultCache := x.1.resultCache ++ [⟨pkg, ctx, stream, serial, x.2.2, x.2.1, op, ty⟩] }
    if invalPending t [(pa, tyBits ty / 8)] then holdMsg t (.streamRequestAtOwner pkg ctx stream serial lwm inc req pa op ty cp wp b n)
    else answer t pkg req x.2.1 (leBytes 8 x.2.2.toNat)) := by
  change execStreamRequestAtOwner s = _
  simp only [execStreamRequestAtOwner, hm, hi, ho, hc, hf, bne_self_eq_false, Bool.false_eq_true, if_false, ge_iff_le, if_neg (Nat.not_le.2 hl),
    Bool.not_true]

end

/-- An operation on exported bytes without an error is performed at home. -/
theorem ownerAtomic_done {s : State} {pa op ty : Nat} (cp wp : Nat) (b n : Word) (hx : exportedRange s pa (tyBits ty / 8) = true)
    (hu : s.upsets = []) (hp : poisoned s pa (tyBits ty / 8) = false) :
    ∃ u, ownerAtomic s pa op ty cp wp b n = (u, 0, word (memNat s.mem pa (tyBits ty / 8))) ∧ u.sansMemory = s.sansMemory
      ∧ u.mem = memWrite s.mem pa (leBytes (tyBits ty / 8)
          (atomNew op ty (memNat s.mem pa (tyBits ty / 8)) (b.toNat % 2 ^ tyBits ty) (n.toNat % 2 ^ tyBits ty))) := by
  have hs : ownerStatus s pa (tyBits ty / 8) = (s, 0) := by simp [ownerStatus, hx, meetUpsets_none hu, hp]
  simp only [ownerAtomic, hs, bne_self_eq_false, Bool.false_eq_true, if_false]
  exact ⟨_, rfl, homeWrite_sansMemory .., homeWrite_mem ..⟩

theorem streamRequest_performed {s : State} {pkg ctx stream inc req pa op ty cp wp : Nat} {serial lwm : BitVec 32} {b n : Word}
    (hm : s.msg = some (.streamRequestAtOwner pkg ctx stream serial lwm inc req pa op ty cp wp b n))
    (hi : inc = s.inc) (ho : olderSerial serial (lwmSteps s pkg ctx stream lwm).2 = false)
    (hc : (lwmSteps s pkg ctx stream lwm).1.resultCache.find?
      (fun e => e.pkg == pkg && e.ctx == ctx && e.stream == stream && e.serial == serial) = none)
    (hl : (lwmSteps s pkg ctx stream lwm).1.resultCache.length < 65536)
    (hf : markFree (lwmSteps s pkg ctx stream lwm).1 4 pa (tyBits ty / 8) = true)
    (hx : exportedRange (lwmSteps s pkg ctx stream lwm).1 pa (tyBits ty / 8) = true) (hu : s.upsets = [])
    (hp : poisoned (lwmSteps s pkg ctx stream lwm).1 pa (tyBits ty / 8) = false) :
    ∃ t, exec .streamRequestAtOwner s = .next t
      ∧ (if invalPending t [(pa, tyBits ty / 8)] then
          .streamRequestAtOwner pkg ctx stream serial lwm inc req pa op ty cp wp b n ∈ t.held ∧ t.out = s.out
         else t.out = (answer s pkg req 0 (leBytes 8 (word (memNat s.mem pa (tyBits ty / 8))).toNat)).out)
      ∧ ⟨pkg, ctx, stream, serial, word (memNat s.mem pa (tyBits ty / 8)), 0, op, ty⟩ ∈ t.resultCache
      ∧ t.mem = memWrite s.mem pa (leBytes (tyBits ty / 8)
          (atomNew op ty (memNat s.mem pa (tyBits ty / 8)) (b.toNat % 2 ^ tyBits ty) (n.toNat % 2 ^ tyBits ty))) := by
  obtain ⟨recs, cache, hsteps⟩ := lwmSteps_only s pkg ctx stream lwm
  have hwires : (lwmSteps s pkg ctx stream lwm).1.wires = s.wires := by rw [hsteps]; rfl
  have hups : (lwmSteps s pkg ctx stream lwm).1.upsets = [] := by rw [hsteps]; exact hu
  have hdo := streamRequest_new hm hi ho hc hl hf
  obtain ⟨u, ha, hsans, hmem⟩ := ownerAtomic_done (op := op) cp wp b n hx hups hp
  rw [lwmSteps_mem] at ha hmem
  simp only [ha] at hdo
  set v : State := { u with resultCache := u.resultCache ++ [_] } with hv
  have hvw : v.wires = s.wires := (wires_of_sansMemory hsans).trans hwires
  by_cases hpend : invalPending v [(pa, tyBits ty / 8)] = true
  · rw [if_pos hpend] at hdo
    refine ⟨_, hdo, ?_, by simp [holdMsg, v], hmem⟩
    rw [if_pos (show invalPending (holdMsg v _) [(pa, tyBits ty / 8)] = true from hpend)]
    exact ⟨by simp [holdMsg], out_of_wires hvw⟩
  · rw [if_neg hpend] at hdo
    obtain ⟨out, hout⟩ := sendTo_only v pkg (.remoteAnswer req 0 (leBytes 8 (word (memNat s.mem pa (tyBits ty / 8))).toNat) v.inc)
    refine ⟨_, hdo, ?_, ?_, ?_⟩
    · rw [if_neg (show ¬ invalPending (answer v pkg req 0 _) [(pa, tyBits ty / 8)] = true by rw [answer, hout]; exact hpend)]
      exact answer_out_congr hvw ..
    · rw [answer, hout]
      simp [v]
    · rw [answer_mem]
      exact hmem

/-! ### Low-water updates, markers and a restart -/

theorem lowWaterUpdate_done {s : State} {pkg ctx stream req : Nat} {lwm : BitVec 32} (hm : s.msg = some (.lowWaterUpdate pkg ctx stream lwm req)) :
    Quietly .lowWaterUpdate s (answer (lwmSteps s pkg ctx stream lwm).1 pkg req 0 []) := by
  refine ⟨?_, fun a => by rw [answer_mem, lwmSteps_mem]⟩
  change execLowWaterUpdate s = _
  rw [execLowWaterUpdate, hm]

/-- What is pending after some invalidations are applied was pending, and is none of them. -/
theorem foldl_applyInval_pendInv {s : State} {l : List (Nat × Nat)} {p : Nat × Nat} (h : p ∈ (l.foldl applyInval s).pendInv) :
    p ∈ s.pendInv ∧ p ∉ l := by
  induction l generalizing s with
  | nil => exact ⟨h, List.not_mem_nil⟩
  | cons q l ih =>
    obtain ⟨hin, hl⟩ := ih h
    obtain ⟨hs, hq⟩ := List.mem_filter.1 hin
    exact ⟨hs, fun hmem => (List.mem_cons.1 hmem).elim (by simpa using hq) hl⟩

theorem foldl_applyInval_sansMemory (s : State) (l : List (Nat × Nat)) : (l.foldl applyInval s).sansMemory = s.sansMemory :=
  foldl_keeps State.sansMemory applyInval (fun _ _ => rfl) _ _

theorem scFenceMarker_done {s : State} {pkg port req : Nat} (hm : s.msg = some (.scFenceMarker pkg port req)) :
    ∃ t, Quietly .scFenceMarker s t ∧ (∀ p ∈ t.pendInv, p.1 ≠ port) ∧ t.out = (answer s pkg req 0 []).out := by
  have hdo : exec .scFenceMarker s = .next (answer ((s.pendInv.filter (fun p => p.1 == port)).foldl applyInval s) pkg req 0 []) := by
    change execScFenceMarker s = _
    rw [execScFenceMarker, hm]
  refine ⟨_, ⟨hdo, fun a => ?_⟩, fun p hp hport => ?_, answer_out_congr (wires_of_sansMemory (foldl_applyInval_sansMemory s _)) ..⟩
  · rw [answer_mem, foldl_keeps State.mem applyInval (fun _ _ => rfl)]
  · obtain ⟨out, hout⟩ := sendTo_only ((s.pendInv.filter (fun p => p.1 == port)).foldl applyInval s) pkg
      (.remoteAnswer req 0 [] ((s.pendInv.filter (fun p => p.1 == port)).foldl applyInval s).inc)
    rw [answer, hout] at hp
    obtain ⟨hs, hnot⟩ := foldl_applyInval_pendInv hp
    exact hnot (List.mem_filter.2 ⟨hs, by simpa using hport⟩)

theorem ownerRestartComplete : Claims.OwnerRestart := by
  intro s hm
  have hs := applyAll_sansMemory s
  refine ⟨ownerRestart s, ⟨?_, fun a => by rw [ownerRestart_mem]⟩, rfl, rfl, rfl, ?_, ?_, ?_⟩
  · change execOwnerRestart s = _
    rw [execOwnerRestart, hm]
  · have e := congrArg State.teams hs
    exact e
  · have e := congrArg State.ctxs hs
    exact e
  · have e := congrArg State.reqs hs
    exact e

theorem ownerEventsComplete : Claims.OwnerEvents := by
  refine ⟨?_, ?_, ?_, fun s pkg ctx stream lwm req hm => lowWaterUpdate_done hm, fun s pkg port req hm => scFenceMarker_done hm⟩
  · intro s pkg port req inc acq pols parts hm
    refine ⟨fun hp => readAtOwner_noPort hm hp, fun hp hi => readAtOwner_stale hm hp hi, fun hp hi ha hf => readAtOwner_waits hm hp hi ha hf,
      ?_, ?_⟩
    · intro pa len bs bad hp hi h1 hf hx hl hline hb hw
      change Quietly _ s (answer s pkg req 0 _)
      rw [← ownerRead_line hx hl hline (portRead_buffered _ _ hb) hw]
      exact ⟨readAtOwner_goes hm hp hi h1 hf, fun a => by rw [ownerRead_mem]⟩
    · intro pa len hp hi h1 hf hu
      have hdo := readAtOwner_goes hm hp hi h1 hf
      refine ⟨fun hx hpois hl hline hb => ⟨_, hdo, fun a => by rw [ownerRead_mem], ?_⟩, fun hx => ?_⟩
      · obtain ⟨u, hr, hsans, -⟩ := portRead_fills (polAt pols 0).1 (polAt pols 0).2 hu hb
        rw [ownerRead_line hx hl hline hr (wordAt_clean hl hpois), memRead_line _ hline]
        exact answer_out_congr (wires_of_sansMemory hsans) ..
      · change Quietly _ s (answer _ pkg req 3 [])
        rw [← ownerRead_notExported pkg port req pols hx]
        exact ⟨hdo, fun a => by rw [ownerRead_mem]⟩
  · intro s pkg seq inc pols whole data hm
    refine ⟨fun hi => writeAtOwner_stale hm hi, fun x hi hx => writeAtOwner_repeat hm hi hx, ?_⟩
    intro pa b hi hd hx he
    subst hd
    exact writeAtOwner_byte hm hi hx he
  · intro s pkg ctx stream serial lwm inc req pa op ty cp wp b n hm
    refine ⟨fun hi => streamRequest_stale hm hi, ?_⟩
    intro hi u mine ho
    refine ⟨fun e hc => streamRequest_repeat hm hi ho hc, ?_⟩
    intro hc hl hf hx hu hp k
    obtain ⟨t, hdo, hout, hcache, hmem⟩ := streamRequest_performed hm hi ho hc hl hf hx hu hp
    exact ⟨t, hdo, hout, hcache, fun a => congrArg (memByte · a) hmem⟩

end Sys2Proof.Machine

end

section
/-! Links between packages and membership (R42, R44, R45, R273, R325, R326, R380). -/

namespace Sys2Proof.Machine

/-! ### Ports, links and routes -/

theorem portTo_eq {n a b : Nat} (ha : a < n) (hb : b < n) : (portTo n a b : Int) = ((b : Int) - a - 1) % n := by
  have hsum : ((b + 2 * n - a - 1 : Nat) : Int) = (b : Int) - a - 1 + n * 2 := by omega
  rw [portTo, Int.natCast_emod, hsum, Int.add_mul_emod_self_left]

theorem routeOf_direct {s : State} {a b : Nat} (h : linkUp s a b = true) : routeOf s a b = some none := by rw [routeOf, if_pos h]

/-- A package through which a packet from one package to another can pass. -/
def detour (s : State) (a b k : Nat) : Prop :=
  k < s.pod ∧ k ≠ a ∧ k ≠ b ∧ nbit s.live k = true ∧ linkUp s a k = true ∧ linkUp s k b = true

theorem routeOf_detour_iff {s : State} {a b : Nat} (h : linkUp s a b = false) (k : Nat) :
    routeOf s a b = some (some k) ↔ detour s a b k ∧ ∀ j, j < k → ¬ detour s a b j := by
  have hgood (j : Nat) : (j != a && j != b && nbit s.live j && linkUp s a j && linkUp s j b) = true ↔
      j ≠ a ∧ j ≠ b ∧ nbit s.live j = true ∧ linkUp s a j = true ∧ linkUp s j b = true := by
    simp [and_assoc]
  rw [routeOf, if_neg (by simp [h]), Option.map_eq_some_iff]
  simp only [Option.some.injEq, exists_eq_right, List.find?_range_eq_some, Bool.not_eq_true', ← Bool.not_eq_true, hgood, List.mem_range, detour]
  constructor
  · rintro ⟨hk, hpod, hlow⟩
    exact ⟨⟨hpod, hk⟩, fun j hj hd => hlow j hj hd.2⟩
  · rintro ⟨⟨hpod, hk⟩, hlow⟩
    exact ⟨hk, hpod, fun j hj hd => hlow j hj ⟨hj.trans hpod, hd⟩⟩

theorem routeOf_none_iff {s : State} {a b : Nat} (h : linkUp s a b = false) : routeOf s a b = none ↔ ∀ k, ¬ detour s a b k := by
  rw [routeOf, if_neg (by simp [h])]
  simp only [Option.map_eq_none_iff, List.find?_eq_none, List.mem_range, Bool.and_eq_true, bne_iff_ne, detour, and_assoc, not_and]

theorem not_mem_dropLink (s : State) (a b : Nat) : (a, b) ∉ dropLink s a b ∧ (b, a) ∉ dropLink s a b := by
  simp [dropLink]

theorem linkUp_false_of_mem {s : State} {a b : Nat} (h : (a, b) ∈ s.links) : linkUp s a b = false ∧ linkUp s b a = false := by
  have hc : s.links.contains (a, b) = true := List.contains_iff_mem.2 h
  simp [linkUp, h]

theorem linkDown_done {s : State} {a b : Nat} (hm : s.msg = some (.linkDown a b)) :
    Quietly .linkDown s { s with links := dropLink s a b ++ [(a, b)] } := by
  refine ⟨?_, fun _ => rfl⟩
  change execLinkDown s = _
  rw [execLinkDown, hm]

theorem linkRecover_done {s : State} {a b : Nat} (hm : s.msg = some (.linkRecover a b)) :
    Quietly .linkRecover s { s with links := dropLink s a b } := by
  refine ⟨?_, fun _ => rfl⟩
  change execLinkRecover s = _
  rw [execLinkRecover, hm]

/-! ### A package rejoins -/

/-- A package is alive again, and its incarnation known. -/
def rejoined (s : State) (p inc : Nat) : State :=
  { s with peerdead := s.peerdead &&& ~~~(1#16 <<< p), peerInc := tset s.peerInc p inc,
           ctxs := tmap (fun _ c => { c with incseen := tset c.incseen p inc }) s.ctxs }

theorem mem_tmap {α : Type} {f : Nat → α → α} {t : Tab α} {e : Nat × α} (h : e ∈ tmap f t) : ∃ x ∈ t, e = (x.1, f x.1 x.2) := by
  obtain ⟨x, hx, he⟩ := List.mem_map.1 h
  exact ⟨x, hx, he.symm⟩

theorem rejoined_seen (s : State) (p inc : Nat) : ∀ e ∈ (rejoined s p inc).ctxs, tget e.2.incseen p = some inc := by
  intro e he
  have he' : e ∈ tmap (fun _ c => { c with incseen := tset c.incseen p inc }) s.ctxs := he
  obtain ⟨x, -, rfl⟩ := mem_tmap he'
  exact tget_tset_self ..

theorem rejoined_alive (s : State) {p : Nat} (inc : Nat) (hp : p < 16) : (rejoined s p inc).peerdead.getLsbD p = false := by
  simp [rejoined, hp]

theorem rejoined_others (s : State) {p q : Nat} (inc : Nat) (hq : q ≠ p) : (rejoined s p inc).peerdead.getLsbD q = s.peerdead.getLsbD q := by
  simp only [rejoined, BitVec.getLsbD_and, BitVec.getLsbD_not, BitVec.getLsbD_shiftLeft]
  by_cases hlt : q < 16
  · have hne : q < p ∨ q - p ≠ 0 := by omega
    cases s.peerdead.getLsbD q <;> simp [hlt, hne]
  · simp [BitVec.getLsbD_of_ge _ _ (Nat.le_of_not_lt hlt)]

theorem packageRejoin_done {s : State} {p inc : Nat} (hm : s.msg = some (.packageRejoin p inc)) :
    exec .packageRejoin s = .next (rejoined
      (if s.peerdead.getLsbD p then (s.reqs.filter (fun r => r.owner == p)).foldl (fun s r => failReq s r 6) s else s) p inc) := by
  change execPackageRejoin s = _
  rw [execPackageRejoin, hm]
  rfl

theorem packageRejoin_idle {s : State} {p inc : Nat} (hm : s.msg = some (.packageRejoin p inc))
    (hr : s.peerdead.getLsbD p = true → ∀ r ∈ s.reqs, r.owner ≠ p) : Quietly .packageRejoin s (rejoined s p inc) := by
  refine ⟨?_, fun _ => rfl⟩
  rw [packageRejoin_done hm]
  split
  · rename_i hd
    have hnone : s.reqs.filter (fun r => r.owner == p) = [] := by simpa using hr hd
    rw [hnone, List.foldl_nil]
  · rfl

/-! ### A change of membership -/

/-- The packages that a change brings: live then, not live before. -/
def broughtBy (s : State) (live : Nat) : List Nat := (List.range 16).filter (fun p => nbit live p && !nbit s.live p && p != s.pkgid)

/-- The incarnations told of some packages enter a table. -/
def toldInto (told : List (Nat × Nat)) (t : Tab Nat) : Tab Nat := told.foldl (fun t p => tset t p.1 (p.2 % 2 ^ 16)) t

theorem mem_broughtBy {s : State} {live p : Nat} : p ∈ broughtBy s live ↔ p < 16 ∧ nbit live p = true ∧ nbit s.live p = false ∧ p ≠ s.pkgid := by
  simp [broughtBy, and_assoc]

theorem toldInto_absent {told : List (Nat × Nat)} {p : Nat} (t : Tab Nat) (h : ∀ x ∈ told, x.1 ≠ p) : tget (toldInto told t) p = tget t p := by
  induction told generalizing t with
  | nil => rfl
  | cons x r ih =>
    rw [toldInto, List.foldl_cons]
    refine (ih _ (fun y hy => h y (List.mem_cons_of_mem _ hy))).trans (tget_tset_ne _ _ ?_)
    exact (h x List.mem_cons_self).symm

theorem toldInto_present {told : List (Nat × Nat)} {p inc : Nat} (t : Tab Nat) (hx : ∃ x ∈ told, x.1 = p)
    (h : ∀ x ∈ told, x.1 = p → x.2 = inc) : tget (toldInto told t) p = some (inc % 2 ^ 16) := by
  induction told generalizing t with
  | nil => obtain ⟨x, hx, -⟩ := hx; cases hx
  | cons x r ih =>
    have hr := fun y hy => h y (List.mem_cons_of_mem _ hy)
    by_cases hlater : ∃ y ∈ r, y.1 = p
    · exact ih _ hlater hr
    · have hnone : ∀ y ∈ r, y.1 ≠ p := fun y hy he => hlater ⟨y, hy, he⟩
      obtain ⟨y, hy, rfl⟩ := hx
      obtain rfl | hy := List.mem_cons.1 hy
      · rw [← h y List.mem_cons_self rfl]
        exact (toldInto_absent _ hnone).trans (tget_tset_self ..)
      · exact absurd rfl (hnone y hy)

/-- The membership is applied and the told incarnations are known. -/
def memberState (s : State) (live : Nat) (told : List (Nat × Nat)) : State :=
  { s with live := live % 2 ^ 16, epoch := (s.epoch + 1) % 2 ^ 16, peerInc := toldInto told s.peerInc,
           ctxs := tmap (fun _ c => { c with incseen := toldInto told c.incseen }) s.ctxs }

theorem memberState_seen {s : State} {live p : Nat} {told : List (Nat × Nat)} {i : Option Nat} (h : ∀ t, tget (toldInto told t) p = i) :
    ∀ e ∈ (memberState s live told).ctxs, tget e.2.incseen p = i := by
  intro e he
  have he' : e ∈ tmap (fun _ c => { c with incseen := toldInto told c.incseen }) s.ctxs := he
  obtain ⟨x, -, rfl⟩ := mem_tmap he'
  exact h _

/-- A fold that ends programs with members that are away changes nothing where all members are live. -/
theorem membersStay (slots : Tab CSlot) (s : State) (h : ∀ e ∈ slots, e.2.phase ≠ .ended → ∀ p ∈ e.2.members, nbit s.live p = true) :
    slots.foldl (fun s e =>
      match (if e.2.live then e.2.members.find? (fun p => !nbit s.live p) else none) with
      | some p => endProgram s e.1 3 0 p 0 0
      | none => s) s = s := by
  induction slots with
  | nil => rfl
  | cons e r ih =>
    have hnone : (if e.2.live then e.2.members.find? (fun p => !nbit s.live p) else none) = none := by
      split
      · rename_i hlive
        have hph : e.2.phase ≠ .ended := by simpa [CSlot.live] using hlive
        simpa using h e List.mem_cons_self hph
      · rfl
    rw [List.foldl_cons, hnone]
    exact ih (fun e he => h e (List.mem_cons_of_mem _ he))

theorem membershipChange_done {s : State} {live : Nat} {incs : List (Nat × Nat)} (hm : s.msg = some (.membershipChange live incs))
    (hstay : ∀ e ∈ s.cslots, e.2.phase ≠ .ended → ∀ p ∈ e.2.members, nbit (live % 2 ^ 16) p = true)
    (htold : ∀ p ∈ broughtBy s live, ∃ x ∈ incs, x.1 = p) :
    Quietly .membershipChange s (memberState s live (incs.filter (fun x => (broughtBy s live).contains x.1))) := by
  refine ⟨?_, fun _ => rfl⟩
  have hall : (broughtBy s live).all (fun p => incs.any (fun x => x.1 == p)) = true := by simpa using htold
  have hfold := membersStay s.cslots (memberState s live (incs.filter (fun x => (broughtBy s live).contains x.1))) hstay
  change execMembershipChange s = _
  rw [execMembershipChange, hm]
  dsimp only
  rw [if_neg (by rw [broughtBy] at hall; simp only [hall, Bool.not_true, Bool.false_eq_true, not_false_eq_true])]
  rw [← hm]
  exact congrArg Host.Outcome.next hfold

theorem tmap_id {α : Type} (t : Tab α) : tmap (fun _ c => c) t = t := List.map_id t

theorem linksAndMembershipComplete : Claims.LinksAndMembership := by
  refine ⟨fun n a b ha hb => portTo_eq ha hb, fun s a b => ⟨routeOf_direct, fun h => ⟨routeOf_detour_iff h, routeOf_none_iff h⟩⟩,
    ?_, ?_, ?_, ?_, ?_⟩
  · intro s a b hm
    obtain ⟨hab, hba⟩ := linkUp_false_of_mem (s := { s with links := dropLink s a b ++ [(a, b)] }) (a := a) (b := b) (by simp)
    exact ⟨_, linkDown_done hm, rfl, hab, hba⟩
  · intro s a b hm
    exact ⟨_, linkRecover_done hm, rfl, not_mem_dropLink s a b⟩
  · intro s p inc hm hp hr
    exact ⟨_, packageRejoin_idle hm hr, rejoined_alive s inc hp, tget_tset_self .., fun q hq => rejoined_others s inc hq, rejoined_seen s p inc⟩
  · intro s p inc r hm hp hd hr
    have hdo := packageRejoin_done hm
    rw [if_pos hd, hr, List.foldl_cons, List.foldl_nil] at hdo
    exact ⟨_, hdo, rfl, rfl, rejoined_alive _ inc hp, rejoined_seen _ p inc⟩
  · intro s live incs hm hstay fresh
    refine ⟨fun hno => ?_, fun htold => ?_⟩
    · have hnew : broughtBy s live = [] := List.eq_nil_iff_forall_not_mem.2 (fun p hp => hno p (mem_broughtBy.1 hp))
      have hdo := membershipChange_done hm hstay (by simp [hnew])
      have hsame : memberState s live (incs.filter (fun x => (broughtBy s live).contains x.1)) =
          { s with live := live % 2 ^ 16, epoch := (s.epoch + 1) % 2 ^ 16 } := by
        simp [memberState, hnew, toldInto, tmap_id]
      rwa [hsame] at hdo
    · refine ⟨_, membershipChange_done hm hstay (fun p hp => htold p (mem_broughtBy.1 hp)), rfl, rfl, rfl, ?_, ?_⟩
      · intro p inc hp hinc
        have hseen (t : Tab Nat) : tget (toldInto (incs.filter (fun x => (broughtBy s live).contains x.1)) t) p = some (inc % 2 ^ 16) := by
          obtain ⟨x, hx, hxp⟩ := htold p hp
          refine toldInto_present t ⟨x, List.mem_filter.2 ⟨hx, ?_⟩, hxp⟩ (fun y hy => hinc y (List.mem_filter.1 hy).1)
          rw [hxp]
          exact List.contains_iff_mem.2 (mem_broughtBy.2 hp)
        exact ⟨hseen _, memberState_seen hseen⟩
      · intro p hp
        refine toldInto_absent _ (fun x hx hxp => hp (mem_broughtBy.1 ?_))
        rw [← hxp]
        exact List.contains_iff_mem.1 (List.mem_filter.1 hx).2

/-- Settles O49: each event of a request at its owner by a lemma over the event's cases, links and membership by the route's
definition and the table of incarnations. -/
theorem ownerSide : Obligations.OwnerSide := ⟨ownerEventsComplete, ownerRestartComplete, linksAndMembershipComplete⟩

end Sys2Proof.Machine

end
